-- ==== Sys2Proof/Word.lean ====
section
/-! DEFINITION. Word types of the Aijan: bytes, words, and the sparse tables that hold memories and register files. -/

namespace Sys2Proof

/-- One byte of device memory, of a mailbox or of a payload (R5). -/
abbrev Byte := BitVec 8

/-- A 32-bit register or FP32 / INT32 datum. -/
abbrev Word32 := BitVec 32

/-- A 64-bit register (R54: read as one access). -/
abbrev Word64 := BitVec 64

/-- A sparse table: the keys listed rise strictly, and a key not listed holds the table's default.
Memories, register files and counters of the device are tables of this form. -/
abbrev Table (α : Type) := List (Nat × α)

end Sys2Proof
end

