-- ==== Sys2Proof/Syntax.lean ====
section
/-! DEFINITION. The commands and events of the Aijan: one constructor of Instr for each row of spec/opcode_table.json. -/

namespace Sys2Proof

/-- The header of a posted mailbox command (R367): the posting function (0 PF0, n VFn), the mailbox, the POST and CTRL fields,
and whether any reserved bit of CTRL or of the payload is 1 (R6). -/
structure Post where
  func : Nat
  mbx : Nat
  seq : Nat
  len : Nat
  part : Nat
  irqFinal : Bool
  irqAccept : Bool
  rsv : Bool
  deriving DecidableEq, Repr

/-- A batch entry of RUN.SUBMIT (R377). -/
structure BatchEntry where
  seq : Nat
  leave : Bool
  deriving DecidableEq, Repr

/-- A T2 range of TIER.CONFIG (R241). -/
structure T2Range where
  base : Nat
  length : Nat
  part : Nat
  deriving DecidableEq, Repr

/-- A route table entry (R332). -/
structure Route where
  peer : Nat
  hops : Nat
  rxGate : Nat
  path : Nat
  plane : Nat
  alt : Nat
  lat : Nat
  retryGap : Nat
  deriving DecidableEq, Repr

/-- A tensor descriptor (R117). `rsv` holds whether any reserved bit of the 128 bytes is 1. -/
structure Desc where
  base : Nat
  format : Nat
  layout : Nat
  qmode : Nat
  ls : Nat
  qfmt : Nat
  padmode : Nat
  padval : Nat
  clipLimit : Nat
  ext : List Nat
  str : List Nat
  pad : List Nat
  scaleA : Nat
  scaleW : Nat
  scaleC : Nat
  bscale : Nat
  ledgerList : Nat
  ledgerAct : Nat
  codebook : Nat
  ledgerW : Nat
  rsv : Bool
  deriving DecidableEq, Repr

/-- The payload of CODEC.OPEN (R306). -/
structure CodecParams where
  ctx : Nat
  dir : Nat
  standard : Nat
  profile : Nat
  level : Nat
  cls : Nat
  framing : Nat
  bitDepth : Nat
  pipe : Nat
  width : Nat
  height : Nat
  pw : Nat
  ph : Nat
  pt : Nat
  colour : Nat
  sync : Nat
  workVa : Nat
  workBytes : Nat
  mul : List Nat
  add : List Nat
  desc : Desc
  qi : Nat
  refresh : Nat
  window : Nat
  frameCap : Nat
  windowCap : Nat
  deriving DecidableEq, Repr

/-- The payload of FABRIC.CONFIG (R353). -/
structure FabricParams where
  moduleId : Nat
  shiftMargin : Nat
  modes : List Nat
  ipv6 : Nat
  ipv6b : Nat
  ipv4 : Nat
  ipv4b : Nat
  deriving DecidableEq, Repr

/-- Hang kinds of R403. -/
inductive HangKind where
  | noVerdict | noAbandon | noProgress | watchdog | noIdle | noRefresh | noResponse
  deriving DecidableEq, Repr

/-- A hang that the shepherd finds at a beat boundary (R403): engine bitmap bit (R402), kind, beat of last progress. -/
structure Hang where
  engine : Nat
  kind : HangKind
  lastProgress : Nat
  deriving DecidableEq, Repr

/-- The memory error that an attempt meets: none; a corrected single-bit error of a broadcast word, from one of the partition's mangers
counted from 0, or a double-bit one (R26); or the same in the grant-queue entry of a pen that a WORK round reads (R140). -/
inductive Ecc where
  | clean
  | single (manger : Nat)
  | double
  | entrySingle (pen : Nat)
  | entryDouble (pen : Nat)
  deriving DecidableEq, Repr

/-- Which ladder step runs out of its budget (R406). -/
inductive LadderRef where
  | cancel (ctx : Nat)
  | engine (bit : Nat)
  | partition (part : Nat)
  | chip
  deriving DecidableEq, Repr

/-- The register field set that REGISTER_WRITE addresses (R7): the registers of the manual that hold a W1C field or that the
host writes in BAR0 (R363, R367). -/
inductive RegTarget where
  | events (func : Nat)
  | penState (pen : Nat)
  | penRowu (pen : Nat)
  | penAttn (pen : Nat)
  | drvStatus (drover : Nat)
  | penWcnt (part counter : Nat)
  | hbmChan (chan : Nat)
  | cdcPipe (pipe : Nat)
  | pwrInput
  | pwrTemp (index : Nat)
  | mailboxPost (func mbx : Nat)
  | mailboxCtrl (func mbx : Nat)
  | mailboxData (func mbx offset : Nat)
  | msixMask (func vector : Nat)
  | msixMessage (func vector word : Nat)
  | readOnly (offset : Nat)
  deriving DecidableEq, Repr

/-- What a lot carries and for whom: a pen operand, side data, a store, a manger layer, a key-value page (R33, R34). -/
inductive LotRole where
  | activation | scaleA | scaleC | codebook | table | rowConst | secondOperand | workList | source
  | layer | keyPage | valuePage | sendSource | recvDest | ledgerAct
  | store
  deriving DecidableEq, Repr

/-- One lot of an instruction: tile word, round, role, logical pen, lot number in consumption order (R33). -/
structure LotRef where
  part : Nat
  instr : Nat
  round : Nat
  role : LotRole
  lpen : Nat
  index : Nat
  deriving DecidableEq, Repr

/-- A symbol error met in a sector read (R283): sector address, the errors of the 36 pins as (pin, 16-bit error). -/
structure SectorError where
  addr : Nat
  pins : List (Nat × Nat)
  deriving DecidableEq, Repr

/-- The sample planes of one decoded frame (R310): luma and chroma in raster order, 4:2:0, of the coded width and height. The picture
after cropping begins at (left, top). `bt` is the matrix and `full` the range that the stream signals, if it does (R306). -/
structure Planes where
  width : Nat
  height : Nat
  left : Nat
  top : Nat
  cropW : Nat
  cropH : Nat
  y : List Nat
  cb : List Nat
  cr : List Nat
  bt : Option Nat
  full : Option Bool
  deriving DecidableEq, Repr

/-- What a stream's headers say of its coding (R302): profile and level codes, bit depth, whether the chroma is 4:2:0, and whether it
uses film grain, large-scale tiles, field or MBAFF coding. -/
structure StreamInfo where
  profile : Nat
  level : Nat
  bitDepth : Nat
  chroma420 : Bool
  barredTool : Bool
  deriving DecidableEq, Repr

/-- What the entropy and pixel engines of a decode pipeline find in one frame's units, by the coding standard (R302, log 13): the bytes
consumed, the frame decoded, the side of its blocks and the blocks left undecoded in raster order (R316), the frames that are now
output and those no longer kept, by their number in decode order, and an error of the parse. -/
structure FrameReport where
  bytes : Nat
  stream : Option StreamInfo
  picture : Option Planes
  block : Nat
  lost : List Nat
  shown : List Nat
  dropped : List Nat
  errCode : Nat
  errOffset : Nat
  outerLength : Bool
  unitEnd : Bool
  deriving DecidableEq, Repr

/-- The cell header of R329, with its HCRC as it stands in the cell. -/
structure CellHeader where
  type : Nat
  hops : Nat
  hop : Nat
  path : Nat
  dest : Nat
  src : Nat
  tag : Nat
  seq : Nat
  gate : Nat
  attempt : Nat
  contended : Bool
  cell : Nat
  ncell : Nat
  due : Nat
  hcrc : Nat
  deriving DecidableEq, Repr

/-- An acknowledgement entry of an idle word (R330). -/
structure Ack where
  dest : Nat
  hops : Nat
  hop : Nat
  path : Nat
  sgate : Nat
  seq : Nat
  deriving DecidableEq, Repr

/-- The idle word of R330, with its WCRC as it stands in the word. -/
structure IdleWord where
  tally : Nat
  module : Nat
  gate : Nat
  tstate : Nat
  source : Nat
  gmId : Nat
  gmPrio : Nat
  steps : Nat
  quiesced : Bool
  fabricRun : Bool
  bs : Nat
  shift : Nat
  acks : List Ack
  wcrc : Nat
  deriving DecidableEq, Repr

/-- PTP messages that steer or are timestamped (R346). -/
inductive PtpMessage where
  | sync (masterNs localNs : Nat)
  | followUp (masterNs localNs : Nat)
  | delayResponse (delayNs : Nat)
  | other
  deriving DecidableEq, Repr

/-- The kind of a Data Object Exchange request (R361). -/
inductive DoeKind where
  | discovery | spdm | secured | cdat | ideKm | other
  deriving DecidableEq, Repr

/-- The SPDM request codes that R458 distinguishes. -/
inductive SpdmCode where
  | getVersion | getCapabilities | negotiateAlgorithms | getDigests | getCertificate | challenge
  | getMeasurements (index : Nat) | keyExchange | finish | heartbeat | endSession | pskExchange | other
  deriving DecidableEq, Repr

/-- A firmware image as the boot ROM reads it (R452): header fields, the raw bytes before the signature, and the signature. -/
structure Image where
  magic : Nat
  version : Nat
  svn : Nat
  keyIndex : Nat
  build : Nat
  length : Nat
  entry : Nat
  pubkey : List Byte
  revoke : Nat
  body : List Byte
  signature : List Byte
  deriving DecidableEq, Repr

/-- JTAG instructions that R467 distinguishes. -/
inductive JtagIr where
  | idcode | bypass | debug (code : Nat)
  deriving DecidableEq, Repr

/-- The commands and events, one constructor for each row of spec/opcode_table.json. -/
inductive Instr where
  -- mailbox commands (R380)
  | funcOpen (p : Post) (abi : Nat)
  | funcInfo (p : Post)
  | contextRegister (p : Post) (priority : Nat)
  | contextRelease (p : Post) (ctx : Nat)
  | contextReside (p : Post) (ctx : Nat) (out : Bool)
  | contextCancel (p : Post) (ctx : Nat)
  | runSubmit (p : Post) (ctx program startBeat : Nat) (batch : List BatchEntry)
  | runQuery (p : Post) (runId : Nat)
  | syncAdd (p : Post) (counter : Nat) (set : Bool) (value : Nat)
  | syncRead (p : Post) (first count : Nat)
  | syncWait (p : Post) (ctx counter value timeout : Nat)
  | allocTensor (p : Post) (ctx : Nat) (random backed : Bool) (va size tag src : Nat)
  | allocFree (p : Post) (ctx tensor : Nat)
  | tierConfig (p : Post) (commonsGib : Nat) (ranges : List T2Range)
  | tierPromote (p : Post) (ctx tensor first count : Nat)
  | tierEvict (p : Post) (ctx tensor first count : Nat)
  | tierPin (p : Post) (ctx tensor first count : Nat)
  | tierUnpin (p : Post) (ctx tensor first count : Nat)
  | tierQuery (p : Post) (ctx tensor first count : Nat)
  | weightLoad (p : Post) (ctx tensor manifest : Nat) (verified : Bool)
  | kvCreate (p : Post) (ctx heads format base maxPos : Nat)
  | kvShare (p : Post) (seq first count flags src : Nat)
  | kvRelease (p : Post) (seq first count flags src : Nat)
  | kvMark (p : Post) (seq first count flags src : Nat)
  | kvQuery (p : Post) (seq firstEntry : Nat)
  | memQuery (p : Post) (first count : Nat)
  | memRestore (p : Post)
  | codecOpen (p : Post) (o : CodecParams)
  | codecDecode (p : Post) (session : Nat) (last : Bool) (inVa bytes maxGroups outVa : Nat)
  | codecEncode (p : Post) (session : Nat) (last key : Bool) (inVa groups outVa outBytes : Nat)
  | codecClose (p : Post) (session : Nat)
  | codecQuery (p : Post) (session : Nat)
  | fabricConfig (p : Post) (c : FabricParams)
  | fabricRoute (p : Post) (first count : Nat) (entries : List Route)
  | fabricQuery (p : Post)
  | fabricCopy (p : Post) (ctx route dir tag va bytes : Nat)
  | tallyConfig (p : Post) (gmPrio input inDelay ptpOffset setTime : Nat)
  | partitionConfig (p : Post) (mode : Nat)
  | partitionQuery (p : Post) (sect first : Nat)
  | hostCopy (p : Post) (ctx dir sync va hostAddr bytes : Nat)
  | hostHdm (p : Post) (parts : Nat)
  | powerBudget (p : Post) (limit : Nat) (budgets : List Nat)
  | powerQuery (p : Post)
  | recoverDumpTake (p : Post) (slot set : Nat)
  | recoverDumpRead (p : Post) (slot set hostAddr offset bytes : Nat)
  | recoverDumpKeep (p : Post) (slot set : Nat)
  | recoverDumpRelease (p : Post) (slot set : Nat)
  | recoverReset (p : Post) (level part engine : Nat)
  | recoverQuery (p : Post)
  | daybookRead (p : Post) (fromSeq count : Nat)
  | secKeyInstall (p : Post) (slot keyId : Nat) (pub : List Byte)
  | secKeyRevoke (p : Post) (slot keyId : Nat) (pub : List Byte)
  | secQuery (p : Post)
  | lifecycleAdvance (p : Post) (target : Nat) (auth : List Byte)
  | lifecycleQuery (p : Post)
  -- life cycle, registers, beat
  | lifecycleCommit
  | lifecycleEraseDone
  | registerWrite (target : RegTarget) (value : Nat)
  | beatBoundary (alive : Bool) (hangs : List Hang)
  | bellTrip
  | engineReady (engine : Nat)
  | guiltyReplay (engine : Nat)
  | ladderBudgetExpired (step : LadderRef)
  | partitionReady (part : Nat) (failed : List Nat)
  | dumpTakeCollect
  | dumpWritten (slot : Nat)
  | handleExpiry (ctx : Nat)
  | correctedPeriodEnd
  -- tile words and their events
  | tileDecode (part : Nat)
  | droverStart (part instr drover : Nat)
  | lotComplete (lot : LotRef) (collision : Bool)
  | lotLate (lot : LotRef)
  | mm (part : Nat) (ecc : Ecc)
  | cv (part : Nat) (ecc : Ecc)
  | cvDw (part : Nat) (ecc : Ecc)
  | attn (part : Nat) (ecc : Ecc)
  | rw (part : Nat)
  | mvLoad (part : Nat)
  | mvStore (part : Nat)
  | mvWeight (part : Nat)
  | mvSend (part : Nat)
  | mvRecv (part : Nat)
  | syFold (part : Nat)
  | syWgrant (part : Nat) (parity : Bool)
  | sySignal (part : Nat)
  | syWait (part : Nat)
  | tl (part : Nat)
  | stepVerdict (part : Nat)
  | troubleReplay (part : Nat) (ecc : Ecc)
  | drain (part lpen : Nat) (collision : Bool)
  | runComplete (part : Nat)
  | waitingRunStart (part : Nat)
  -- key-value pages, stacked memory, bales, shards, lower tiers
  | kvPageReclaim (part frame : Nat)
  | cowCopyDone (part : Nat)
  | kvPoolBaleReturn (part frame : Nat)
  | hbmSlot (chan pc slot : Nat) (errors : List SectorError)
  | refreshSlot (stack temp : Nat)
  | retrainWindow (chan : Nat) (ok : Bool) (failedPins : List (Nat × Nat))
  | promotionDone (tensor bale : Nat)
  | promotionFail (tensor bale : Nat)
  | writeBackDone (tensor bale : Nat)
  | writeBackFail (tensor bale : Nat)
  | frameZeroDone (frame : Nat)
  | chunkArrive (tensor shard chunk : Nat) (data : List Byte)
  | rdmaRemoteAccessError (tensor shard : Nat)
  | replicaTimeout (tensor shard : Nat)
  | t2Response (tensor bale : Nat) (poison : Bool)
  | t2Timeout (tensor bale : Nat)
  | hostDroverCompletion (copy : Nat) (sectors : List (List Byte)) (failed : Bool)
  | hostCompletionTimeout (copy : Nat)
  | hostSnoop (line : Nat)
  | hdmRead (offset : Nat) (caches : Bool)
  | hdmWrite (offset : Nat) (data : List Byte)
  -- link
  | linkTrained (mode width : Nat)
  | linkDetectRetry
  | linkDown
  | functionLevelReset (func : Nat)
  | hotReset
  | perstAssert
  | doeRequest (kind : DoeKind) (body : List Byte)
  -- codec and sync waits
  | codecFrameDone (pipe : Nat) (r : FrameReport)
  | codecWatchdog (pipe : Nat)
  | syncWaitTimeout (func mbx : Nat)
  -- tally
  | tallyLocked (stepNs : Nat) (phase : Int)
  | tallyUnlock (phase : Int)
  | tallySourceLost
  | tallySourceReturn (phase : Int)
  | holdoverExpired
  | tallyLostRunEnd
  | tallyCode (code : Nat) (phase : Int)
  | tallyInLoss
  | ptpMessage (gate : Nat) (msg : PtpMessage)
  | setTimeApply
  -- fabric
  | idleWordSend (gate : Nat)
  | idleWordReceive (gate : Nat) (w : IdleWord) (arrivalNs : Nat)
  | cellArrive (gate : Nat) (h : CellHeader) (payload : List Byte) (crc : Nat)
  | cellLeave (gate : Nat)
  | sendAttempt (part instr attempt : Nat)
  | gateDown (gate : Nat)
  | gateTrainStart (gate : Nat)
  | gateTrained (gate peer peerGate hop delay : Nat)
  | gateTrainTimeout (gate : Nat)
  | fabricCopyTimeout (copy : Nat)
  | arpNdRequest (gate addr : Nat)
  | roceInboundRequest (gate qpn : Nat)
  | cnpReceive (gate : Nat)
  | ecnRateRestore (gate : Nat)
  -- power, thermal, start-up
  | powerOn
  | pwrEnLow
  | supplySample (millivolt tenMilliamp : Nat)
  | holdUp
  | powerOver
  | thermalSample (sensor temp : Nat)
  | thermalWarning
  | thermalQuiesce
  | thermalClear
  | firmwareVerify
  | hbmTrainingDone (failed : List Nat) (errors : List (Nat × Nat × Nat × Nat))
  | hbmWipeDone
  | startupReady (failed : List Nat)
  | bootTimerExpired
  -- security and management
  | drbgReseed
  | entropyFail
  | spdmRequest (mctp : Bool) (code : SpdmCode) (body : List Byte)
  | pldmRequestUpdate
  | pldmUpdateComponent (image : Image)
  | pldmActivateFirmware
  | pldmSensorRefresh
  | jtagInstruction (ir : JtagIr)
  | perstDeassert
  | backInvalidateResponse (line : Nat)
  | pfcPauseFrame (gate priority : Nat) (pause : Bool)
  | mctpEndpointIdAssign (eid : Nat)
  | pldmEventEnable (on : Bool)
  deriving DecidableEq, Repr

end Sys2Proof
end

