-- ==== Sys2Proof/Config.lean ====
section
/-! DEFINITION. The values the manual leaves open. Each is opaque: nothing in Lean can evaluate it, so a proof holds whatever it is. -/

namespace Sys2Proof

/-- A fresh free value, by the counter `State.free` (log 8). -/
opaque Config.freeValue : Nat → Nat

/-- The FP32 code that the Kuler function unit gives for a function code and an FP32 argument (R189, log 20). -/
opaque Config.kuler : Nat → Word32 → Word32

/-- A byte of T1 as it reads after a key change, before its frame is zeroed (R296, log 10): key count, address. -/
opaque Config.whitened : Nat → Nat → Byte

/-- SHA-512 of a byte string, named by its standard and not given in the manual (log 11). -/
opaque Config.sha512 : List Byte → List Byte

/-- Whether an ECDSA P-521 signature (r then s) verifies under a public key over a message (log 11). -/
opaque Config.ecdsaVerify : List Byte → List Byte → List Byte → Bool

/-- Whether 133 bytes are an uncompressed point of P-521 (R461, log 11). -/
opaque Config.isPoint : List Byte → Bool

/-- HKDF-SHA-512 of a key under an info string, as far as the key pair that it supplies (R456, R457, log 11). -/
opaque Config.derive : List Byte → List Byte → List Byte

/-- HMAC-SHA-512 of a message under a key (R457, log 11). -/
opaque Config.hmac : List Byte → List Byte → List Byte

/-- The ac at which the write-back port first overwrites a store lot's lines (R34, log 22): word index, lot. -/
opaque Config.storeDeadline : Nat → Nat → Nat

/-- Where the shepherd puts a page table in its partition's reserve, in tables of 2 KiB: by context, level and address prefix (R265; log 65). -/
opaque Config.tablePlace : Nat → Nat → Nat → Nat

/-- Bytes of a crash dump's section content that the manual does not fix (R416, log 23). -/
opaque Config.dumpByte : Nat → Nat → Byte

/-- The SEVERITY byte of a daybook record by its type: the manual names four severities and gives no type its own (R423, log 18). -/
opaque Config.severity : Nat → Nat

/-- The sign and payload of a NaN that the device stores, by format width (log 25). -/
opaque Config.nanPayload : Nat → Nat

/-- Whether the producing engine of a codec pipeline waits on the shelf at an instant of a frame (R304, log 13): pipeline, its FRAMES
count, beat, ac. -/
opaque Config.shelfFull : Nat → Nat → Nat → Nat → Bool

/-- The bytes that precede a coded frame's rows (R319, log 13): the frame's free number, and the values that they signal (R306): STANDARD,
whether it is a key frame, MATRIX, RANGE, width, height, and the recovery point of a wave (R322). -/
opaque Config.codedHead : Nat → List Nat → List Byte

/-- The coded bytes of one superblock or CTU row (R319, R321, R322, log 13): the frame's free number, the row, its quantiser, and the
first and last + 1 of the columns that it codes as intra. -/
opaque Config.codedRow : Nat → Nat → Int → Nat → Nat → List Byte

/-- The response body that a named protocol standard gives a request (SPDM, CDAT, IDE_KM, PLDM; log 12). -/
opaque Config.protocolReply : Nat → List Byte → List Byte

end Sys2Proof
end

