-- ==== Sys2Proof/Machine/State.lean ====
section
/-! DEFINITION. The state of the Aijan as plain data, its reset value, and the reasons a step can stop. -/

namespace Sys2Proof.Machine

/-- Why a step stops. Raised only for an event of the device (never for a command of the host or a signal from outside) that is
offered in a state in which the manual says that it does not take place; safe: the model stops where the device has no step (log 3). -/
inductive Fault where
  /-- Raised by the meanings of the device's own events. Safe (log 3). -/
  | notEnabled (event : String)
  deriving DecidableEq, Repr

/-- Why a command has no meaning in the model. -/
inductive Refusal where
  /-- Raised only by an arm of exec whose row has no meaning yet. Safe. -/
  | notModelled (mnemonic : String)
  deriving DecidableEq, Repr

/-- The answer of one step. -/
abbrev Result (σ : Type) := Host.Outcome σ Fault Refusal

/-! ## Tally unit and clock -/

/-- R49, in the code order of TLY_STATUS.STATE (R55). -/
inductive TallyState where
  | unlocked | acquiring | locked | holdover
  deriving DecidableEq, Repr

/-- Where the device stands in time (R46, R47): the beat, the ac within it, and the beats elapsed (R347). `lead` is 1 while the
effects of a command sampled in this beat are applied, which fall in the next (R371; log 2), and 0 between steps. -/
structure Clock where
  beat : Nat
  acb : Nat
  elapsed : Nat
  lead : Nat
  deriving DecidableEq, Repr

/-- An announcement of a grandmaster heard on a gate or on TALLY_IN (R344, R345). -/
structure Announcement where
  gmId : Nat
  gmPrio : Nat
  steps : Nat
  at_ : Nat
  deriving DecidableEq, Repr

/-- The tally unit (R49 to R55, R343 to R347). `phase` is in units of 10 ps, and `slew`
what of it the unit has still to correct (R50); `setAt` is the beat of the TALLY.CONFIG whose SET_TIME
is pending; `lostPending` says that R52's effects are due. -/
structure Tally where
  st : TallyState
  selected : Bool
  source : Nat
  gate : Nat
  hold : Nat
  phase : Int
  slew : Int
  gmPrio : Nat
  input : Nat
  inDelay : Nat
  ptpOffset : Nat
  setTime : Nat
  setAt : Nat
  heard : Table (Option Announcement)
  codeMiss : Nat
  following : Announcement
  lostPending : Bool
  pathDelayNs : Nat
  deriving DecidableEq, Repr

/-! ## Pens -/

/-- R16, in the code order of PEN_STATE.ACC (R39). -/
inductive SlotState where
  | free | accumulating | draining | held
  deriving DecidableEq, Repr

/-- An accumulator slot (R15, R16): its state, tag (R124), and its 65,536 entries by 256·row + column. `users` are the uncommitted
steps that accumulate into it, oldest first; the last of them, (`instr`, `round`), accumulates from `beginAt` to its step end `endAt`
(R61), after which the slot is held or drains. -/
structure Slot where
  st : SlotState
  dc : Nat
  cb : Nat
  rb : Nat
  isInt : Bool
  instr : Nat
  round : Nat
  users : List (Nat × Nat)
  cont : Bool
  hold : Bool
  beginAt : Nat
  endAt : Nat
  entries : Table Word32
  deriving DecidableEq, Repr

/-- A write to a scratchpad: its ac and its bytes (R21). -/
structure SpadWrite where
  at_ : Nat
  data : List (Nat × Byte)
  deriving DecidableEq, Repr

/-- PEN_TRBL (R109). -/
structure Trbl where
  kinds : Nat
  attempt : Nat
  nfRow : Nat
  nfCol : Nat
  lfGroup : Nat
  clips : Nat
  deriving DecidableEq, Repr

/-- PEN_CBANK and PEN_FBANK with their two banks (R89 to R92, R179 to R183). -/
structure Banks where
  active : Nat
  shadowValid : Bool
  bank0 : Table Word32
  bank1 : Table Word32
  deriving DecidableEq, Repr

/-- PEN_WIN (R165). -/
structure Win where
  cur : Nat
  valid0 : Bool
  valid1 : Bool
  kib : Nat
  deriving DecidableEq, Repr

/-- PEN_ROWU (R190). -/
structure Rowu where
  func : Nat
  old : Bool
  busy : Bool
  drain : Bool
  nan : Bool
  deriving DecidableEq, Repr

/-- PEN_ATTN (R226). While a round is in progress, BLOCK and ASSAY_PASS follow from the blocks that it issues, one every `period` ac
from `since` on, twice in assay mode. -/
structure AttnReg where
  block : Nat
  rescales : Nat
  at_ : Bool
  empty : Bool
  assayPass : Bool
  since : Nat
  period : Nat
  blocks : List Nat
  assay : Bool
  deriving DecidableEq, Repr

/-- An entry of a pen's grant queue (R137, R140): the row block and its index in the list. -/
structure Grant where
  rb : Nat
  index : Nat
  counter : Nat
  deriving DecidableEq, Repr

/-- A pen (R15). The scratchpad's contents are kept as the writes to it, the newest first, by the device virtual address of the
element they copy (log 21): `spad` holds what load drovers place, `win0` and `win1` are the window buffers of R151, `stage` holds
row-unit results and what MV.LOAD places. `marked` lists the 64-byte lines of a lot that arrived poisoned (R36); `drainEnd` is the end
of the last drain (R62), `wroteAt` the first ac at which every write-back so far can be read. -/
structure Pen where
  power : Nat
  active : Bool
  haz : Bool
  bcerr : Bool
  late : Bool
  slots : Table Slot
  restore : Table Word32
  restoreSlot : Option Nat
  spad : List SpadWrite
  win0 : List SpadWrite
  win1 : List SpadWrite
  stage : List SpadWrite
  drainEnd : Nat
  wroteAt : Nat
  marked : List Nat
  colConst : Table Word32
  rowConst : Table Word32
  grants : List Grant
  trbl : Trbl
  cbank : Banks
  fbank : Banks
  win : Win
  rowu : Rowu
  attn : AttnReg
  deriving DecidableEq, Repr

/-- A drover's open work on an instruction (R32, R40): its lots that are complete, and those that are not. -/
structure DrvWork where
  instr : Nat
  done : Nat
  left : Nat
  deriving DecidableEq, Repr

/-- DRV_STATUS without its constant KIND, and without OPEN and BUSY, which follow from the open work (R40). `portAt` is the ac from
which the pen's fill or drain port is free for the drover (R20). -/
structure Drover where
  late : Bool
  poison : Bool
  work : List DrvWork
  lots : Nat
  instr : Nat
  portAt : Nat
  deriving DecidableEq, Repr

/-! ## Fold programs and RUNs -/

/-- A tile word (R120). `value` is the 64-bit VALUE of SY and TL words; `rsv` whether a reserved bit is 1. -/
structure TileWord where
  opcode : Nat
  anchor : Bool
  assay : Bool
  hold : Bool
  cont : Bool
  work : Bool
  policy : Nat
  runlen : Nat
  sub : Nat
  issue : Nat
  da : Nat
  db : Nat
  dc : Nat
  k : Nat
  sel : Nat
  cb : Nat
  rbFirst : Nat
  rbCount : Nat
  koff : Nat
  value : Nat
  rsv : Bool
  hi8 : Nat
  deriving DecidableEq, Repr

/-- A fold program (R115, R116, R435). -/
structure Program where
  magic : Nat
  version : Nat
  penCount : Nat
  fabric : Bool
  nDesc : Nat
  nWords : Nat
  slackAc : Nat
  leadAc : Nat
  descOff : Nat
  wordOff : Nat
  energyOff : Nat
  energyN : Nat
  length : Nat
  headRsv : Bool
  descs : List Desc
  words : List TileWord
  energy : List (Nat × Nat)
  deriving DecidableEq, Repr

/-- A step reference (R110). -/
structure StepRef where
  instr : Nat
  round : Nat
  pen : Nat
  deriving DecidableEq, Repr

/-- The trouble summary of a RUN (R110). -/
structure Trouble where
  replays : Nat
  fallbacks : Nat
  committed : Nat
  kindsSeen : Nat
  nfRow : Nat
  nfCol : Nat
  firstTrouble : Option StepRef
  lastFallback : Option StepRef
  nfStep : Option StepRef
  deriving DecidableEq, Repr

/-- An attempt of a step that has issued and has no verdict (R61, R105). `scales` are the pens' staged per-token scales after a
rescale, by 256·logical pen + row (R106). -/
structure StepRec where
  instr : Nat
  round : Nat
  attempt : Nat
  assay : Bool
  issue : Nat
  verdict : Nat
  engineFault : Bool
  runlen : Nat
  bank : Nat
  epoch : Nat
  scales : Table Word32
  deriving DecidableEq, Repr

/-- A reissue that waits for its ac (R69, R105). -/
structure Replay where
  instr : Nat
  round : Nat
  attempt : Nat
  assay : Bool
  issue : Nat
  runlen : Nat
  bank : Nat
  scales : Table Word32
  epoch : Nat
  deriving DecidableEq, Repr

/-- A HELD slot in the sequencer's record (R129). -/
structure HeldTag where
  lpen : Nat
  dc : Nat
  cb : Nat
  rb : Nat
  deriving DecidableEq, Repr

/-- How a RUN will end at the next beat boundary (R74, R107, R132, R138, R179, R293, R52). -/
structure Ending where
  status : Nat
  code : Nat
  whr : Nat
  index : Nat
  deriving DecidableEq, Repr

/-- A sector read for a lot in flight: its address, the ac at which it reaches its consumer (R64, R65), its bytes as read, and whether
it is poisoned (R292). -/
structure Arrived where
  lot : LotRef
  addr : Nat
  at_ : Nat
  data : List Byte
  bad : Bool
  deriving DecidableEq, Repr

/-- A RUN that is accepted or running (R57 to R74). Instructions below `doneInstr` have completed their step. `opened` lists open
drover work as (instruction, drover), `nextAt` is the ac of the next round, `banks` the bank that an issued instruction reads
plus 1 (R90, R181), `xlat` the translations of key-value pages that
the RUN was accepted with (R216, R266), `dead` the sums D[n] of its words, z·2^e as (z, e), or none where not finite (R156),
`epochs` the translation epoch that each issued and uncommitted step holds
since its first issue (R216), `ring` the holders of the KV ring's positions and `ringFrom`, `ringBase`, `ringNext` the numbering of its pages (R256), `windowBase` the windows
that the partition had placed before it (R151), `foldAt` the ac of its last SY.FOLD's commit (R163), `posted` the lots whose sector
requests a drover has posted (R280), `toStore` the store lots of committed steps that have not been read out (with the row block as round), and `begun` says that its
drovers may work: its beat Bd has come (R393). -/
structure Run where
  id : Nat
  ctx : Nat
  post : Post
  acceptedAt : Nat
  startBeat : Nat
  shift : Nat
  abi : Nat
  prog : Program
  batch : List BatchEntry
  decoded : Nat
  held : List HeldTag
  decodeStop : Option Nat
  nextInstr : Nat
  nextRound : Nat
  nextAt : Nat
  doneInstr : Nat
  doneRound : Nat
  opened : List (Nat × Nat)
  placed : List LotRef
  arrived : List Arrived
  toStore : List LotRef
  flight : List StepRec
  replay : Option Replay
  portFree : Nat
  rowFree : Nat
  lastCommit : Nat
  foldAt : Nat
  posted : List LotRef
  banks : Table Nat
  xlat : Table Nat
  dead : List (Nat × List (Option (Int × Int)))
  windowBase : Nat
  epochs : List ((Nat × Nat) × Nat)
  ring : Table (Option LotRef)
  ringFrom : Nat × Nat
  ringBase : Nat
  ringNext : Nat
  twice : List (Nat × Nat)
  ending : Option Ending
  trouble : Trouble
  holds : List (Nat × Nat)
  writeSet : List Nat
  readSet : List Nat
  begun : Bool
  deriving DecidableEq, Repr

/-- A work counter with its list memory (R137, R141). -/
structure WorkCounter where
  next : Nat
  limit : Nat
  busy : Bool
  perr : Bool
  granter : Nat
  list : List Nat
  deriving DecidableEq, Repr

/-- A manger window slot (R251, R252): the MV.WEIGHT that filled it, its layer descriptor, and the layer's bytes by address. -/
structure MangerSlot where
  instr : Nat
  desc : Nat
  valid : Bool
  data : Table Byte
  marked : List Nat
  deriving DecidableEq, Repr

/-- A pending copy-on-write copy (R213): source and destination frames, whether its read is done, and its pending beat. -/
structure CowCopy where
  src : Nat
  dst : Nat
  readDone : Bool
  since : Nat
  deriving DecidableEq, Repr

/-- A pending reside request (R385, R388). -/
structure Reside where
  ctx : Nat
  priority : Nat
  beat : Nat
  deriving DecidableEq, Repr

/-- MBX_PSTATE.STATE (R365). -/
inductive PState where
  | absent | idle | accepted | running | quiesced | resetting
  deriving DecidableEq, Repr

/-- A route table entry as stored (R331, R332). -/
structure RouteSlot where
  written : Bool
  stale : Bool
  r : Route
  deriving DecidableEq, Repr

/-- A mapping change that waits for the next commit (R215): the key-value page concerned, if any, and the context and page of virtual
addresses whose old translation, to that page, stays in force until then. -/
structure MapChange where
  page : Option Nat
  at_ : Option (Nat × Nat)
  deriving DecidableEq, Repr

/-- A partition (R41, R75, R133). `retry` says whether a quiesced partition resumes at the next boundary
(R73); `windows` counts the windows that its RUNs have placed (R151). -/
structure Part where
  st : PState
  degraded : Bool
  lag : Nat
  slips : Nat
  cause : Nat
  retries : Nat
  retry : Bool
  quiescedAt : Nat
  announced : Nat
  thermal : Bool
  dfCode : Nat
  dfLpen : Nat
  dfInstr : Nat
  wcnt : Table WorkCounter
  sync : Table Nat
  run : Option Run
  waiting : Option Run
  epoch : Nat
  windows : Nat
  changes : List MapChange
  allocCount : Nat
  commonsGib : Nat
  t2 : List T2Range
  routes : Table RouteSlot
  manger : Table MangerSlot
  kvRing : Nat
  budget : Nat
  resides : List Reside
  swapping : List (Nat × Option Nat)
  copies : List CowCopy
  deriving DecidableEq, Repr

/-! ## Contexts, tensors, key-value sequences -/

/-- A context (R383, R384, R409). `out` reads "swapped out", `waits` counts SYNC.WAIT commands in progress, `goneAt` is the elapsed
beat at which a cancel ended. -/
structure Ctx where
  handle : Nat
  func : Nat
  part : Nat
  priority : Nat
  out : Bool
  runnable : Bool
  waits : Nat
  blockBeat : Nat
  byShepherd : Bool
  since : Nat
  cancelled : Bool
  goneAt : Nat
  deriving DecidableEq, Repr

/-- R242, in the code order of TIER.QUERY (R250). -/
inductive BaleState where
  | inT2 | promoting | resident | evicting | pinned
  deriving DecidableEq, Repr

/-- A bale (R242 to R250). -/
structure Bale where
  st : BaleState
  dirty : Bool
  pin : Option Nat
  pinPending : Option Nat
  intent : Bool
  zero : Bool
  frame : Option Nat
  home : Option Nat
  lastUse : Nat
  waitPromote : Bool
  accessed : Bool
  wbFailed : Bool
  asked : Nat
  deriving DecidableEq, Repr

/-- A mapping of a tensor: the context, the virtual base, and the TAG of its entries (R239). -/
structure Mapping where
  ctx : Nat
  va : Nat
  tag : Nat
  deriving DecidableEq, Repr

/-- A tensor (R239). `rot` is the allocation counter at its allocation (R235), `random`
the RANDOM declaration, `load` the LOAD code of R250, `ready` whether its allocation has completed. -/
structure Tensor where
  handle : Nat
  part : Nat
  size : Nat
  tag : Nat
  rot : Nat
  random : Bool
  backed : Bool
  maps : List Mapping
  bales : List Bale
  load : Nat
  ready : Bool
  deriving DecidableEq, Repr

/-- A page's mapping in a key-value sequence (R211): its frame unless dropped, the droppable mark, and the DIRTY and ACCESSED bits of its
page table entry (R264). -/
structure KvMap where
  frame : Nat
  dropped : Bool
  droppable : Bool
  dirty : Bool
  accessed : Bool
  deriving DecidableEq, Repr

/-- A key-value sequence (R210). `maps` is keyed by ((head · NB + block) · pages per block + page). -/
structure KvSeq where
  handle : Nat
  ctx : Nat
  part : Nat
  heads : Nat
  format : Nat
  base : Nat
  nb : Nat
  maps : Table (Option KvMap)
  deriving DecidableEq, Repr

/-- The record of an allocated key-value page (R211); `droppable` is computed from the mappings. -/
structure KvPage where
  frame : Nat
  part : Nat
  refs : Nat
  age : Nat
  freeEpoch : Nat
  deriving DecidableEq, Repr

/-- The fetch of a shard (R259): its replica and when it was asked, the next chunk, refetches, the replicas that answered that
they do not hold it or failed in transport, and the content that has arrived. -/
structure ShardFetch where
  shard : Nat
  since : Nat
  replica : Nat
  next : Nat
  refetches : Nat
  absent : List Nat
  skipped : List Nat
  content : List Byte
  deriving DecidableEq, Repr

/-- A shard table entry (R257). -/
structure Shard where
  offset : Nat
  length : Nat
  crcIndex : Nat
  replicas : Nat
  digest : List Byte
  deriving DecidableEq, Repr

/-- A replica table entry (R257). -/
structure Replica where
  addr : List Byte
  qpn : Nat
  rkey : Nat
  remoteVa : Nat
  gate : Nat
  deriving DecidableEq, Repr

/-- A weight load in progress (R257 to R261). -/
structure Load where
  tensor : Nat
  ctx : Nat
  verified : Bool
  shards : List Shard
  crcs : List Nat
  replicas : List Replica
  flight : List ShardFetch
  nextShard : Nat
  done : Nat
  refetches : Nat
  deriving DecidableEq, Repr

/-- The placement engine's records (R235 to R248): the pool bales as (partition, frame), and the frames being zeroed as
(partition, frame) (R238, R297). `poolFree` lists the pool bales that had no page in use when the beat before ended. -/
structure Placement where
  tensors : List Tensor
  nextTensor : Nat
  seqs : List KvSeq
  nextSeq : Nat
  pages : List KvPage
  pool : List (Nat × Nat)
  loads : List Load
  zeroing : List (Nat × Nat)
  poolFree : List Nat
  deriving DecidableEq, Repr

/-! ## Stacked memory -/

/-- HBM_STACK without MAPPED, which is computed (R298). -/
structure Stack where
  st : Nat
  temp : Nat
  plfull : Bool
  ce : Nat
  deriving DecidableEq, Repr

/-- HBM_CHAN with the pin counts of R285 (key 36·pseudo-channel + pin). -/
structure Chan where
  mode : Nat
  dead0 : Nat
  dead1 : Nat
  trfail : Bool
  ue : Nat
  ce : Nat
  failed : Bool
  pins : Table Nat
  deriving DecidableEq, Repr

/-- A sector of an exact lot that waits at a pseudo-channel (R280): its tag, its requester rank, and the ac of its posting. Non-exact
traffic is not queued (log 30). -/
structure Req where
  addr : Nat
  write : Bool
  tag : Nat
  rank : Nat
  at_ : Nat
  lot : LotRef
  deriving DecidableEq, Repr

/-- A pseudo-channel: queued requests, the direction of the run of access slots numbered `dirRun` (plus 1), the last slot that was
filled (plus 1), and the rows opened as (bank, row, slot) (R278, R281). -/
structure PseudoChan where
  reqs : List Req
  write : Bool
  dirRun : Nat
  lastSlot : Nat
  open_ : List (Nat × Nat × Nat)
  deriving DecidableEq, Repr

/-- The stacked memory (R268 to R299). `t1` holds bytes by device physical address, `t2` by host physical address (R241).
After a key change of a partition `staleKey` counts its keys, and only its frames in `zeroed` and its sectors in `written` read
what `t1` holds; `unmarked` lists the freed frames that lost their zeroed mark (R296, R297), and
`unlisted` the sectors whose read was uncorrectable under a full poison list: poisoned for that read (R294). -/
structure Hbm where
  stk : Table Stack
  chans : Table Chan
  pcs : Table PseudoChan
  mapped : List Nat
  trial : List Nat
  poison : Table (List Nat)
  t1 : Table Byte
  t2 : Table Byte
  t2poison : List Nat
  staleKey : Table Nat
  zeroed : List Nat
  written : List Nat
  unmarked : List Nat
  unlisted : List Nat
  deriving DecidableEq, Repr

/-! ## Codec -/

/-- CDC_PIPE without DIR and SESSIONS, which are computed (R325). -/
structure Pipe where
  power : Nat
  busy : Bool
  lastErr : Nat
  wdog : Bool
  raised : Bool
  frames : Nat
  frameAt : Nat
  session : Option Nat
  deriving DecidableEq, Repr

/-- A CODEC.DECODE or CODEC.ENCODE in progress (R313, R320). -/
structure CodecCmd where
  encode : Bool
  sampled : Nat
  last : Bool
  key : Bool
  inVa : Nat
  bytes : Nat
  used : Nat
  maxGroups : Nat
  outVa : Nat
  frames : Nat
  decoded : Nat
  groups : Nat
  concealed : Nat
  dropped : Nat
  errCode : Nat
  errFrame : Nat
  errOffset : Nat
  capMiss : Nat
  wave : Nat
  nonfinite : Nat
  stopAtFrame : Bool
  holds : List (Nat × Nat)
  deriving DecidableEq, Repr

/-- A codec session (R305). `state` is the code of CODEC.QUERY (R324); `pictures` are the decoded frames that are kept, by their number
in decode order, `lastClean` the most recent one decoded without concealment (R316), and `held` the frames of a partial group. -/
structure Session where
  handle : Nat
  ctx : Nat
  part : Nat
  pipe : Nat
  params : CodecParams
  state : Nat
  framesIn : Nat
  framesOut : Nat
  held : List Planes
  pictures : List (Nat × Planes)
  lastClean : Option Planes
  cmd : Option CodecCmd
  closing : Bool
  bits : List Nat
  coded : Nat
  holds : List (Nat × Nat)
  deriving DecidableEq, Repr

structure Codec where
  pipes : Table Pipe
  sessions : List Session
  nextSession : Nat
  deriving DecidableEq, Repr

/-! ## Gates and fabric -/

/-- A cell that waits for its gate's lanes (R333). `copy` names the FABRIC.COPY that it ends, or 0. -/
structure WaitCell where
  h : CellHeader
  payload : List Byte
  crc : Nat
  dueLeave : Nat
  relayed : Bool
  inputGate : Nat
  copy : Nat
  deriving DecidableEq, Repr

/-- A transfer held in a send buffer (R335, R336): its bytes by offset, and once issued its SEQ, issue ac, DUE and next attempt. -/
structure SendHold where
  part : Nat
  instr : Nat
  bytes : Nat
  data : Table Byte
  issued : Bool
  seq : Nat
  route : Nat
  tag : Nat
  retries : Nat
  issue : Nat
  due : Nat
  nextAttempt : Nat
  marked : Bool
  deriving DecidableEq, Repr

/-- An open MV.RECV at a receive buffer (R335, R337): the copy being assembled by cell index, the CRC of its last cell at index
`ncell`; the staged destination of the ADD modes by offset; the accepted transfer; `marked` says that a lot of it arrived poisoned (R36). -/
structure RecvHold where
  part : Nat
  instr : Nat
  src : Nat
  tag : Nat
  due : Nat
  ncell : Nat
  bytes : Nat
  route : Nat
  attempt : Option Nat
  cells : Table (List Byte)
  staged : Table Byte
  accepted : Option (List Byte)
  marked : Bool
  deriving DecidableEq, Repr

/-- A gate: GATE_STATUS, GATE_LINK and its buffers (R326 to R352). `rate` is the RoCEv2 send rate in 2^-32 of the line rate, `cnpAt`
the elapsed beat of its last change, `since` that of the last change of STATE, `lastIdle` the next gate frame, `failedTrain`
whether the last training timed out, `trained` whether the gate has trained since chip reset. -/
structure Gate where
  st : Nat
  mode : Nat
  off : Bool
  qtx : Bool
  qrx : Bool
  stale : Bool
  erate : Nat
  contend : Nat
  crcerr : Nat
  orphan : Nat
  peer : Nat
  peerGate : Nat
  h : Nat
  delay : Nat
  seq : Nat
  waiting : List WaitCell
  laneFree : Nat
  sends : List SendHold
  recvs : List RecvHold
  acks : List Ack
  rate : Nat
  cnpAt : Nat
  paused : List Nat
  since : Nat
  lastIdle : Nat
  failedTrain : Bool
  trained : Bool
  begun : Bool
  deriving DecidableEq, Repr

/-- A FABRIC.COPY in progress (R350): a receive has taken `got` bytes. -/
structure FabricCopy where
  id : Nat
  ctx : Nat
  part : Nat
  route : Nat
  dir : Nat
  tag : Nat
  va : Nat
  bytes : Nat
  since : Nat
  got : Nat
  deriving DecidableEq, Repr

/-- FABRIC.CONFIG's settings (R353) and the FABRIC.COPY transfers (R350). -/
structure Fabric where
  gates : Table Gate
  moduleId : Nat
  shiftMargin : Nat
  ipv6 : Nat
  ipv6b : Nat
  ipv4 : Nat
  ipv4b : Nat
  copies : List FabricCopy
  nextCopy : Nat
  deriving DecidableEq, Repr

/-! ## Host port -/

/-- A mailbox (R367). `data` is the data area by byte offset. -/
structure Mailbox where
  post : Nat
  ctrl : Nat
  complete : Nat
  rlen : Nat
  sampled : Nat
  done : Nat
  due : Nat
  lastSeq : Nat
  busy : Bool
  data : Table Byte
  deriving DecidableEq, Repr

/-- A function (R362 to R366, R375). `messages` are the message words of the MSI-X table, by 4·vector + word. -/
structure Func where
  opened : Bool
  abi : Nat
  events : Word32
  mailboxes : Table Mailbox
  masked : List Nat
  pba : List Nat
  messages : Table Nat
  deriving DecidableEq, Repr

/-- A POST that the shepherd has sampled, with the payload it copied (R368). -/
structure Posted where
  func : Nat
  mbx : Nat
  post : Nat
  ctrl : Nat
  payload : List Byte
  deriving DecidableEq, Repr

/-- The work that an ACCEPTED command carries on (R371). -/
inductive Job where
  | cancel (ctx : Nat)
  | reside (ctx : Nat)
  | run (part id : Nat)
  | syncWait (ctx counter value deadline : Nat)
  | alloc (ctx tensor : Nat)
  | tier (evict : Bool) (tensor : Nat) (waits : List Nat) (failed deferred short : Nat)
  | config (part : Nat)
  | load (tensor : Nat)
  | codec (session : Nat)
  | close (session : Nat)
  | fabricCopy (id : Nat)
  | partConfig (mode : Nat)
  | hostCopy (id : Nat)
  | hdm (gone parts : Nat)
  | dumpTake (part set : Nat)
  | dumpRead (id slot : Nat)
  | resetStep (level scope : Nat)
  | lifecycle
  deriving DecidableEq, Repr

/-- A command between its ACCEPTED and its final completion (R370, R371). -/
structure InProgress where
  post : Post
  sampled : Nat
  ctx : Nat
  part : Nat
  job : Job
  deriving DecidableEq, Repr

/-- A host drover transfer (R378). For a crash-dump READ, `dump` names the slot and `va` the byte offset. -/
structure HostCopy where
  id : Nat
  ctx : Nat
  part : Nat
  dir : Nat
  sync : Nat
  va : Nat
  hostAddr : Nat
  bytes : Nat
  since : Nat
  done : Nat
  dump : Option Nat
  holds : List (Nat × Nat)
  deriving DecidableEq, Repr

/-- The host port (R355 to R361). `linkMode` is the LINK code of FUNC.INFO (R375). -/
structure HostPort where
  up : Bool
  detect : Bool
  detectAt : Nat
  perst : Bool
  linkMode : Nat
  width : Nat
  funcs : Table Func
  sampled : List Posted
  progs : List InProgress
  hdmParts : Nat
  hdmUnbacked : Nat
  snoop : List Nat
  backInv : List Nat
  copies : List HostCopy
  nextCopy : Nat
  bellCount : Nat
  ideKeys : Bool
  deriving DecidableEq, Repr

/-! ## Recovery -/

/-- A daybook record (R423). -/
structure Record where
  seq : Nat
  type : Nat
  beat : Nat
  tally : Nat
  part : Nat
  severity : Nat
  engine : Nat
  ctx : Nat
  data : List Byte
  deriving DecidableEq, Repr

/-- The daybook (R424): the ring oldest first, the next sequence number, records written in this beat, and the overflow count. -/
structure Daybook where
  ring : List Record
  next : Nat
  inBeat : Nat
  overflow : Nat
  deferred : List Record
  deriving DecidableEq, Repr

/-- A crash-dump slot (R417, R428): its summary, its bytes from 256 on, and the ranges of scratchpad content (log 23). -/
structure Dump where
  valid : Bool
  writing : Bool
  keep : Bool
  reading : Bool
  id : Nat
  beat : Nat
  tally : Nat
  cause : Nat
  engine : Nat
  level : Nat
  set : Nat
  parts : Nat
  length : Nat
  life : Nat
  nSect : Nat
  data : Table Byte
  holes : List (Nat × Nat)
  deriving DecidableEq, Repr

/-- A suspect of a guilty search (R422, R428): 0 waiting, 1 replaying, 2 cleared, 3 guilty. -/
structure Suspect where
  ctx : Nat
  state : Nat
  deriving DecidableEq, Repr

/-- A ladder step of level 2, 3 or 4, with the guilty search that follows a level 2 (R405, R407): its first beat and the elapsed
beat of it, the crash-dump slot that is being written for it, whether it is a reset of the search itself, and the elapsed beat
from which the next suspect may be replayed (R422). -/
structure LadderStep where
  level : Nat
  engine : Nat
  part : Nat
  since : Nat
  from_ : Nat
  slot : Option Nat
  search : Bool
  redo : Bool
  turnAt : Nat
  suspects : List Suspect
  byCommand : Bool
  deriving DecidableEq, Repr

/-- Detection and recovery (R399 to R428, R485). Engines are named by their bitmap bit (R402). `lastWord` is the last good bell
word (R400), `failed` the fenced engines that failed a retest (R412). -/
structure Recovery where
  missed : Nat
  trips : Nat
  last : Nat
  lastWord : Nat
  words : List Nat
  hung : List Nat
  fenced : List Nat
  failed : List Nat
  steps : List LadderStep
  cancels : List (Nat × Nat)
  level2 : List (Nat × Nat)
  chipResets : List Nat
  dumps : Table Dump
  takes : List (Nat × Nat × Nat)
  corrected : Table Nat
  periodFrom : Nat
  daybook : Daybook
  lastHang : Table (Option Nat)
  tripped : Bool
  resetQueued : List (Nat × Nat × Nat × Nat)
  deriving DecidableEq, Repr

/-! ## Power, security, management -/

/-- The steps of start-up (R448) and the states around it (R430, R454, R465). -/
inductive Stage where
  | off | verify | recoveryWait | erase | training | wipe | gates | ready
  deriving DecidableEq, Repr

/-- PWR_TEMP (R450). -/
structure DieTemp where
  tj : Nat
  tjmax : Nat
  warn : Bool
  hot : Bool
  deriving DecidableEq, Repr

/-- Power, thermal and start-up (R429 to R450, R476, R477). `input` is the supply's voltage at its last sample, which a chip reset does
not change; `vin` is the register's copy (R8, R449). -/
structure Power where
  stage : Stage
  stageAt : Nat
  bootTimer : Bool
  pwrEn : Bool
  pwrgd : Bool
  converters : Bool
  cycleReq : Bool
  thermtrip : Bool
  needEnCycle : Bool
  limit : Nat
  input : Nat
  vin : Nat
  iin : Nat
  pin : Nat
  supply : Nat
  dip : Bool
  vmin : Nat
  dipSamples : Nat
  dipMin : Nat
  highSamples : Nat
  highMax : Nat
  eLast : Nat
  sampleSum : Nat
  samples : Nat
  overBeats : Nat
  overMax : Nat
  overRecorded : Bool
  temps : Table DieTemp
  warnPending : List Nat
  quiescePending : List Nat
  warned : List Nat
  thermalOn : Bool
  thermalBy : List Nat
  coolBeats : Nat
  deriving DecidableEq, Repr

/-- A life-cycle transition entry in fuses (R464). -/
structure LcEntry where
  target : Nat
  wipeDone : Bool
  deriving DecidableEq, Repr

/-- A manifest key slot (R460, R461). KEY_ID 0 is empty. -/
structure ManifestKey where
  keyId : Nat
  revoked : Bool
  pub : List Byte
  deriving DecidableEq, Repr

/-- The security block (R452 to R468). -/
structure Security where
  entries : List LcEntry
  fusedSvn : Nat
  keySlots : Table (List Byte)
  keyRevoked : Nat
  uds : Option Nat
  slotA : Option Image
  slotB : Option Image
  prefer : Nat
  running : Option Image
  slot : Nat
  fallback : Bool
  debugUsed : Bool
  keys : Table ManifestKey
  nonce : Option Nat
  nonceIssued : Bool
  drbgRequests : Nat
  entropyOk : Bool
  deviceKey : List Byte
  deviceCert : Bool
  aliasKey : List Byte
  lifeKey : List Byte
  accepted : Option (Nat × Nat)
  spdmDoe : Nat
  spdmMctp : Nat
  measured : Nat
  deriving DecidableEq, Repr

/-- The firmware update of R482: none, requested, or an image written and verified. -/
inductive UpdateStage where
  | none | requested | verified (slot : Nat)
  deriving DecidableEq, Repr

/-- The management controller (R480 to R483). -/
structure Mgmt where
  update : UpdateStage
  sensors : Table Nat
  eventsOn : Bool
  levels : Table Nat
  eid : Nat
  ir : JtagIr
  alertN : Bool
  mac7 : Nat
  mac15 : Nat
  refreshed : Nat
  deriving DecidableEq, Repr

/-! ## Outputs -/

/-- What the block sends to the outside (log 9). -/
inductive Output where
  | msix (func vector : Nat)
  | idleWord (gate : Nat) (w : IdleWord)
  | cell (gate : Nat) (h : CellHeader) (payload : List Byte) (crc : Nat)
  | hdmData (offset : Nat) (data : List Byte) (poison : Bool)
  | snoopMiss (line : Nat)
  | hostWrite (addr : Nat) (data : List Byte) (poison : Bool)
  | hostRead (addr bytes : Nat)
  | doe (kind : DoeKind) (body : List Byte)
  | spdm (mctp : Bool) (error : Bool) (body : List Byte)
  | pldm (ok : Bool) (code : Nat)
  | pldmEvent (sensor level : Nat)
  | arp (gate addr : Nat)
  | remoteAccessError (gate qpn : Nat)
  | backInvalidate (line : Nat)
  | beatPulse (code : Nat)
  | rdmaRead (tensor shard : Nat) (replica : Replica) (va length : Nat)
  | delayRequest (gate : Nat)
  | jtag (ir : JtagIr)
  deriving DecidableEq, Repr

/-! ## The whole machine -/

/-- The state of the block. `mode` is the partition mode 1, 2 or 4 (R41); `pending` is the queue of commands (log 1); `free` and
`out` are the model's own fields (logs 8 and 9). -/
structure State where
  clock : Clock
  tally : Tally
  mode : Nat
  pens : Table Pen
  drovers : Table Drover
  parts : Table Part
  ctxs : List Ctx
  nextCtx : Nat
  nextRun : Nat
  place : Placement
  hbm : Hbm
  codec : Codec
  fabric : Fabric
  host : HostPort
  recov : Recovery
  power : Power
  sec : Security
  mgmt : Mgmt
  free : Nat
  out : List Output
  pending : List Instr
  deriving DecidableEq, Repr

/-! ## Reset values -/

def Slot.reset : Slot := ⟨.free, 0, 0, 0, false, 0, 0, [], false, false, 0, 0, []⟩

def Banks.reset : Banks := ⟨0, false, [], []⟩

/-- A pen after chip reset (R39, R92, R109, R165, R183, R190, R226; slots FREE and zero, R19; SRAM zeroed, R447). -/
def Pen.reset : Pen where
  power := 0
  active := false
  haz := false
  bcerr := false
  late := false
  slots := []
  restore := []
  restoreSlot := none
  spad := []
  win0 := []
  win1 := []
  stage := []
  drainEnd := 0
  wroteAt := 0
  marked := []
  colConst := []
  rowConst := []
  grants := []
  trbl := ⟨0, 0, 0, 0, 0, 0⟩
  cbank := Banks.reset
  fbank := Banks.reset
  win := ⟨0, false, false, 0⟩
  rowu := ⟨0, false, false, false, false⟩
  attn := ⟨0, 0, false, false, false, 0, 0, [], false⟩

/-- DRV_STATUS after reset (R40). -/
def Drover.reset : Drover := ⟨false, false, [], 0, 0, 0⟩

def WorkCounter.reset : WorkCounter := ⟨0, 0, false, false, 0, []⟩

def MangerSlot.reset : MangerSlot := ⟨0, 0, false, [], []⟩

def RouteSlot.reset : RouteSlot := ⟨false, false, ⟨0, 0, 0, 0, 0, 0, 0, 0⟩⟩

/-- A partition after reset, in the state and with the budget given (R75, R133, R231, R365, R395, R438). -/
def Part.reset (st : PState) (budget : Nat) : Part where
  st := st
  degraded := false
  lag := 0
  slips := 0
  cause := 0
  retries := 0
  retry := false
  quiescedAt := 0
  announced := 0
  thermal := false
  dfCode := 0
  dfLpen := 0
  dfInstr := 0
  wcnt := []
  sync := []
  run := none
  waiting := none
  epoch := 0
  windows := 0
  changes := []
  allocCount := 0
  commonsGib := 0
  t2 := []
  routes := []
  manger := []
  kvRing := 0
  budget := budget
  resides := []
  swapping := []
  copies := []

/-- What the table of partitions holds for an unlisted one: absent. -/
def Part.absent : Part := Part.reset .absent 0

def Stack.reset : Stack := ⟨1, 0, false, 0⟩

def Chan.reset : Chan := ⟨0, 0x3F, 0x3F, false, 0, 0, false, []⟩

def PseudoChan.reset : PseudoChan := ⟨[], false, 0, 0, []⟩

def Pipe.reset : Pipe := ⟨0, false, 0, false, false, 0, 0, none⟩

/-- A gate after chip reset: training, Droveway 224 (R351, R353). -/
def Gate.reset : Gate where
  st := 1
  mode := 0
  off := false
  qtx := false
  qrx := false
  stale := false
  erate := 0
  contend := 0
  crcerr := 0
  orphan := 0
  peer := 0
  peerGate := 0
  h := 0
  delay := 0
  seq := 0
  waiting := []
  laneFree := 0
  sends := []
  recvs := []
  acks := []
  rate := 2 ^ 32
  cnpAt := 0
  paused := []
  since := 0
  lastIdle := 0
  failedTrain := false
  trained := false
  begun := false

/-- A mailbox after reset (R367). -/
def Mailbox.reset : Mailbox := ⟨0, 0, 0xFFFF_FFFF, 0, 0, 0, 0, 0xFFFF, false, []⟩

/-- A closed function (R375). -/
def Func.reset : Func := ⟨false, 0, 0, [], [], [], []⟩

def Dump.reset : Dump := ⟨false, false, false, false, 0, 0, 0, 0, 0, 0, 0, 0, 0, 0, 0, [], []⟩

def DieTemp.reset : DieTemp := ⟨0, 0, false, false⟩

def ManifestKey.reset : ManifestKey := ⟨0, false, []⟩

/-- The tally unit after chip reset (R55, R347). -/
def Tally.reset : Tally where
  st := .unlocked
  selected := false
  source := 0
  gate := 0
  hold := 0
  phase := 0
  slew := 0
  gmPrio := 255
  input := 0
  inDelay := 0
  ptpOffset := 0
  setTime := 0
  setAt := 0
  heard := []
  codeMiss := 0
  following := ⟨0, 255, 0, 0⟩
  lostPending := false
  pathDelayNs := 0

def Placement.reset : Placement := ⟨[], 1, [], 1, [], [], [], [], []⟩

def Hbm.reset : Hbm := ⟨[], [], [], [], [], [], [], [], [], [], [], [], [], []⟩

def Codec.reset : Codec := ⟨[], [], 1⟩

def Fabric.reset : Fabric := ⟨[], 0, 0, 0, 0, 0, 0, [], 1⟩

def HostPort.reset : HostPort where
  up := false
  detect := false
  detectAt := 0
  perst := false
  linkMode := 0
  width := 16
  funcs := []
  sampled := []
  progs := []
  hdmParts := 0
  hdmUnbacked := 0
  snoop := []
  backInv := []
  copies := []
  nextCopy := 1
  bellCount := 0
  ideKeys := false

def Daybook.reset : Daybook := ⟨[], 0, 0, 0, []⟩

def Recovery.reset : Recovery where
  missed := 0
  trips := 0
  last := 0
  lastWord := 0
  words := []
  hung := []
  fenced := []
  failed := []
  steps := []
  cancels := []
  level2 := []
  chipResets := []
  dumps := []
  takes := []
  corrected := []
  periodFrom := 0
  daybook := Daybook.reset
  lastHang := []
  tripped := false
  resetQueued := []

/-- Power after PWRGD has risen (R438, R448, R449, R450; log 5). -/
def Power.reset : Power where
  stage := .verify
  stageAt := 0
  bootTimer := true
  pwrEn := true
  pwrgd := true
  converters := true
  cycleReq := false
  thermtrip := false
  needEnCycle := false
  limit := 2400
  input := 0
  vin := 0
  iin := 0
  pin := 0
  supply := 0
  dip := false
  vmin := 0
  dipSamples := 0
  dipMin := 0
  highSamples := 0
  highMax := 0
  eLast := 0
  sampleSum := 0
  samples := 0
  overBeats := 0
  overMax := 0
  overRecorded := false
  temps := []
  warnPending := []
  quiescePending := []
  warned := []
  thermalOn := false
  thermalBy := []
  coolBeats := 0

/-- The security block of a part whose fuses are blank (R464; log 6). -/
def Security.reset : Security where
  entries := []
  fusedSvn := 0
  keySlots := []
  keyRevoked := 0
  uds := none
  slotA := none
  slotB := none
  prefer := 0
  running := none
  slot := 0
  fallback := false
  debugUsed := false
  keys := []
  nonce := none
  nonceIssued := false
  drbgRequests := 0
  entropyOk := true
  deviceKey := []
  deviceCert := false
  aliasKey := []
  lifeKey := []
  accepted := none
  spdmDoe := 0
  spdmMctp := 0
  measured := 0

def Mgmt.reset : Mgmt := ⟨.none, [], false, [], 0, .bypass, true, 0, 0, 0⟩

/-- The block right after chip reset, at the first step of start-up (R448): every field at the value the manual states for
reset, and where it states none at the value that logs 4 to 7 name. -/
def State.reset : State where
  clock := ⟨0, 0, 0, 0⟩
  tally := Tally.reset
  mode := 1
  pens := []
  drovers := []
  parts := [(0, Part.reset .idle 1968)]
  ctxs := []
  nextCtx := 1
  nextRun := 1
  place := Placement.reset
  hbm := Hbm.reset
  codec := Codec.reset
  fabric := Fabric.reset
  host := HostPort.reset
  recov := Recovery.reset
  power := Power.reset
  sec := Security.reset
  mgmt := Mgmt.reset
  free := 0
  out := []
  pending := []

end Sys2Proof.Machine
end

