-- ==== Sys2Proof/Machine/Flags.lean ====
section
/-! DEFINITION. The manual's codes and flag bits: status codes (R10), command rows (R380), events (R366), trouble kinds (R102),
slip causes (R71), and the W1C rule (R7). -/

namespace Sys2Proof.Machine

/-! ## Status codes (R10) -/

def stOk : Nat := 0x0000
def stAccepted : Nat := 0x0001
def stBadOpcode : Nat := 0x0010
def stBadLength : Nat := 0x0011
def stBadArg : Nat := 0x0012
def stBadState : Nat := 0x0013
def stStaleSeq : Nat := 0x0014
def stNoSpace : Nat := 0x0020
def stShareLimit : Nat := 0x0021
def stDeferred : Nat := 0x0022
def stPinnedByOther : Nat := 0x0023
def stSlip : Nat := 0x0030
def stTroubleFallback : Nat := 0x0031
def stNonFinite : Nat := 0x0032
def stLowerTierFail : Nat := 0x0040
def stShardCorrupt : Nat := 0x0041
def stShardMissing : Nat := 0x0042
def stPagesDropped : Nat := 0x0043
def stCancelled : Nat := 0x0050
def stGuilty : Nat := 0x0051
def stPartitionReset : Nat := 0x0052
def stDenied : Nat := 0x0060
def stQuiesced : Nat := 0x0061

/-! ## Trouble kinds, by the bits of PEN_TRBL.KINDS (R102, R109) -/

def kindNarrowSat : Nat := 1
def kindLedgerFull : Nat := 2
def kindClipExcess : Nat := 4
def kindNonFinite : Nat := 8

/-! ## Slip causes (R71) -/

def slipLagLimit : Nat := 1
def slipAnchorLate : Nat := 2
def slipLotLate : Nat := 3
def slipFabricLate : Nat := 4
def slipHazard : Nat := 5
def slipTallyLost : Nat := 6

/-! ## Event bits of MBX_EVENTS (R366) -/

def evQuiesce : Nat := 0
def evPreset : Nat := 1
def evPready : Nat := 2
def evDegrade : Nat := 3
def evTally : Nat := 4
def evThermal : Nat := 5
def evDaybook : Nat := 6
def evLifecycle : Nat := 7

/-- The vector that an event bit sends (R366). -/
def eventVector (bit : Nat) : Nat := if bit ≤ 3 then 64 else 65

/-- W1C: a 1 clears the bit, a 0 leaves it (R7). -/
def w1c {w : Nat} (old written : BitVec w) : BitVec w := old &&& ~~~written

/-- A one-bit W1C flag. -/
def w1cBool (old : Bool) (written : Bool) : Bool := old && !written

/-! ## Command rows (R380) -/

/-- A row of R380: its opcode, whether only PF0 may post it, whether it needs ABI version 2, and whether it acts on the function or
the module and not on a partition (R373; the last column is a reading, log 14). -/
structure CmdRow where
  opcode : Nat
  pf0 : Bool
  v2 : Bool
  wide : Bool
  deriving DecidableEq, Repr

def rowFuncOpen : CmdRow := ⟨0x0001, false, false, true⟩
def rowFuncInfo : CmdRow := ⟨0x0002, false, false, true⟩
def rowContextRegister : CmdRow := ⟨0x0101, false, false, false⟩
def rowContextRelease : CmdRow := ⟨0x0102, false, false, false⟩
def rowContextReside : CmdRow := ⟨0x0103, false, false, false⟩
def rowContextCancel : CmdRow := ⟨0x0104, false, false, false⟩
def rowRunSubmit : CmdRow := ⟨0x0201, false, false, false⟩
def rowRunQuery : CmdRow := ⟨0x0202, false, false, false⟩
def rowSyncAdd : CmdRow := ⟨0x0301, false, false, false⟩
def rowSyncRead : CmdRow := ⟨0x0302, false, false, false⟩
def rowSyncWait : CmdRow := ⟨0x0303, false, false, false⟩
def rowAllocTensor : CmdRow := ⟨0x0401, false, false, false⟩
def rowAllocFree : CmdRow := ⟨0x0402, false, false, false⟩
def rowTierConfig : CmdRow := ⟨0x0501, false, true, false⟩
def rowTierPromote : CmdRow := ⟨0x0502, false, true, false⟩
def rowTierEvict : CmdRow := ⟨0x0503, false, true, false⟩
def rowTierPin : CmdRow := ⟨0x0504, false, true, false⟩
def rowTierUnpin : CmdRow := ⟨0x0505, false, true, false⟩
def rowTierQuery : CmdRow := ⟨0x0506, false, true, false⟩
def rowWeightLoad : CmdRow := ⟨0x0601, false, true, false⟩
def rowKvCreate : CmdRow := ⟨0x0701, false, true, false⟩
def rowKvShare : CmdRow := ⟨0x0702, false, true, false⟩
def rowKvRelease : CmdRow := ⟨0x0703, false, true, false⟩
def rowKvMark : CmdRow := ⟨0x0704, false, true, false⟩
def rowKvQuery : CmdRow := ⟨0x0705, false, true, false⟩
def rowMemQuery : CmdRow := ⟨0x0801, false, false, true⟩
def rowMemRestore : CmdRow := ⟨0x0802, true, true, true⟩
def rowCodecOpen : CmdRow := ⟨0x0901, false, true, false⟩
def rowCodecDecode : CmdRow := ⟨0x0902, false, true, false⟩
def rowCodecEncode : CmdRow := ⟨0x0903, false, true, false⟩
def rowCodecClose : CmdRow := ⟨0x0904, false, true, false⟩
def rowCodecQuery : CmdRow := ⟨0x0905, false, true, false⟩
def rowFabricConfig : CmdRow := ⟨0x0A01, true, true, true⟩
def rowFabricRoute : CmdRow := ⟨0x0A02, false, true, false⟩
def rowFabricQuery : CmdRow := ⟨0x0A03, false, false, true⟩
def rowFabricCopy : CmdRow := ⟨0x0A04, false, false, false⟩
def rowTallyConfig : CmdRow := ⟨0x0B01, true, false, true⟩
def rowPartitionConfig : CmdRow := ⟨0x0C01, true, true, true⟩
def rowPartitionQuery : CmdRow := ⟨0x0C02, false, false, false⟩
def rowHostCopy : CmdRow := ⟨0x0D01, false, false, false⟩
def rowHostHdm : CmdRow := ⟨0x0D02, true, true, true⟩
def rowPowerBudget : CmdRow := ⟨0x0E01, true, true, true⟩
def rowPowerQuery : CmdRow := ⟨0x0E02, false, false, true⟩
def rowRecoverDump : CmdRow := ⟨0x0F01, true, false, true⟩
def rowRecoverReset : CmdRow := ⟨0x0F02, true, false, true⟩
def rowRecoverQuery : CmdRow := ⟨0x0F03, false, false, true⟩
def rowDaybookRead : CmdRow := ⟨0x1001, true, false, true⟩
def rowSecKey : CmdRow := ⟨0x1101, true, true, true⟩
def rowSecQuery : CmdRow := ⟨0x1102, false, false, true⟩
def rowLifecycleAdvance : CmdRow := ⟨0x1201, true, true, true⟩
def rowLifecycleQuery : CmdRow := ⟨0x1202, false, false, true⟩

/-- The table of R380. -/
def cmdRows : List CmdRow :=
  [rowFuncOpen, rowFuncInfo, rowContextRegister, rowContextRelease, rowContextReside, rowContextCancel, rowRunSubmit,
   rowRunQuery, rowSyncAdd, rowSyncRead, rowSyncWait, rowAllocTensor, rowAllocFree]
  ++ [rowTierConfig, rowTierPromote, rowTierEvict, rowTierPin, rowTierUnpin, rowTierQuery, rowWeightLoad, rowKvCreate,
   rowKvShare, rowKvRelease, rowKvMark, rowKvQuery, rowMemQuery, rowMemRestore]
  ++ [rowCodecOpen, rowCodecDecode, rowCodecEncode, rowCodecClose, rowCodecQuery, rowFabricConfig, rowFabricRoute,
   rowFabricQuery, rowFabricCopy, rowTallyConfig, rowPartitionConfig, rowPartitionQuery]
  ++ [rowHostCopy, rowHostHdm, rowPowerBudget, rowPowerQuery, rowRecoverDump, rowRecoverReset, rowRecoverQuery,
   rowDaybookRead, rowSecKey, rowSecQuery, rowLifecycleAdvance, rowLifecycleQuery]

/-- The row of an opcode, if the table has one. -/
def findRow (opcode : Nat) : Option CmdRow := cmdRows.find? fun r => r.opcode == opcode

/-- The commands that SCRAPPED leaves (R466). -/
def scrappedAllows (opcode : Nat) : Bool :=
  opcode == 0x0001 || opcode == 0x0002 || opcode == 0x1102 || opcode == 0x1202 || opcode == 0x1001

/-- The engine field of a record that names no engine (R423). -/
def noEngine : Nat := 0xFFFF

end Sys2Proof.Machine
end

