-- ==== Sys2Proof/Machine/Ops.lean ====
section
/-! DEFINITION. The named operations over the state: sparse tables, bytes and fields, the parts of a partition, interrupts and
events (R366), the daybook (R424), and the life of a mailbox command (R369 to R373). -/

namespace Sys2Proof.Machine

/-! ## Sparse tables -/

/-- The value at a key; a key not listed holds the default d. -/
def tget {α : Type} (d : α) : Table α → Nat → α
  | [], _ => d
  | (j, w) :: t, k => if j = k then w else tget d t k

/-- Put a value at a key, in key order. -/
def tput {α : Type} (k : Nat) (v : α) : Table α → Table α
  | [] => [(k, v)]
  | (j, w) :: t => if k < j then (k, v) :: (j, w) :: t else if k = j then (k, v) :: t else (j, w) :: tput k v t

/-- Remove a key. -/
def terase {α : Type} (k : Nat) : Table α → Table α
  | [] => []
  | (j, w) :: t => if j = k then terase k t else (j, w) :: terase k t

/-- Write a value at a key, keeping the canonical form: the default is never listed. -/
def tset {α : Type} [DecidableEq α] (d : α) (t : Table α) (k : Nat) (v : α) : Table α :=
  if v = d then terase k t else tput k v t

/-- Change the value at a key. -/
def tupd {α : Type} [DecidableEq α] (d : α) (t : Table α) (k : Nat) (f : α → α) : Table α :=
  tset d t k (f (tget d t k))

/-- The keys of a table rise strictly from a bound. -/
def keysRise {α : Type} : Nat → Table α → Bool
  | _, [] => true
  | b, (j, _) :: t => b ≤ j && keysRise (j + 1) t

/-- The canonical form: keys rise strictly, and no entry holds the default. -/
def Table.canon {α : Type} [DecidableEq α] (d : α) (t : Table α) : Bool :=
  keysRise 0 t && t.all fun e => !decide (e.2 = d)

/-! ## Lists, bytes and fields -/

/-- Change the elements of a list that satisfy a test. -/
def mapIf {α : Type} (p : α → Bool) (f : α → α) (l : List α) : List α := l.map fun a => if p a then f a else a

/-- Replace the element at an index. -/
def setAt {α : Type} (l : List α) (i : Nat) (f : α → α) : List α := l.zipIdx.map fun e => if e.2 = i then f e.1 else e.1

/-- Insert into a list in ascending order, once. -/
def insertSorted (n : Nat) : List Nat → List Nat
  | [] => [n]
  | m :: t => if n < m then n :: m :: t else if n = m then m :: t else m :: insertSorted n t

/-- The n low bytes of a number, little-endian (R5). -/
def leBytes : Nat → Nat → List Byte
  | 0, _ => []
  | n + 1, w => BitVec.ofNat 8 w :: leBytes n (w / 256)

/-- The number that little-endian bytes spell (R5). -/
def ofLe : List Byte → Nat
  | [] => 0
  | b :: t => b.toNat + 256 * ofLe t

/-- n zero bytes. -/
def zeros (n : Nat) : List Byte := List.replicate n 0

/-- Pad or cut a byte string to n bytes. -/
def padTo (n : Nat) (l : List Byte) : List Byte := l.take n ++ zeros (n - l.length)

/-- The entries of a table with keys from a up to, but not including, b. -/
def window {α : Type} (a b : Nat) (t : Table α) : Table α := t.filter fun e => a ≤ e.1 && e.1 < b

/-- The n bytes of a byte table from an address. -/
def bytesAt (t : Table Byte) (a n : Nat) : List Byte :=
  let w := window a (a + n) t
  (List.range n).map fun i => tget 0 w (a + i)

/-- Bytes as the entries of a table, zeros left out. -/
def spell : Nat → List Byte → Table Byte
  | _, [] => []
  | a, b :: bs => if b = 0 then spell (a + 1) bs else (a, b) :: spell (a + 1) bs

/-- Write bytes to a byte table from an address. -/
def putBytes (t : Table Byte) (a : Nat) (d : List Byte) : Table Byte :=
  (t.filter fun e => e.1 < a) ++ spell a d ++ t.filter fun e => a + d.length ≤ e.1

/-- Addressed bytes in runs of consecutive addresses, none across a 64 KiB boundary. -/
def byteRuns (l : List (Nat × Byte)) : List (Nat × List Byte) :=
  l.foldr (fun e r => match r with
    | (a, d) :: t => if e.1 + 1 = a && a % 65536 != 0 then (e.1, e.2 :: d) :: t else (e.1, [e.2]) :: (a, d) :: t
    | [] => [(e.1, [e.2])]) []

/-- Write addressed bytes to a byte table. -/
def putAll (l : List (Nat × Byte)) (t : Table Byte) : Table Byte := (byteRuns l).foldl (fun t r => putBytes t r.1 r.2) t

/-- Bit i of a number. -/
def bit (w i : Nat) : Bool := w.testBit i

/-- Bits [lo + n - 1 : lo] of a number. -/
def field (w lo n : Nat) : Nat := w / 2 ^ lo % 2 ^ n

def boolNat (b : Bool) : Nat := if b then 1 else 0

/-- The larger integer not below a / b. -/
def ceilDiv (a b : Nat) : Nat := (a + b - 1) / b

/-- A mask of bits. -/
def maskOf (l : List Nat) : Nat := l.foldl (fun m i => m ||| 2 ^ i) 0

/-- Saturating addition at w bits. -/
def satAdd (w a b : Nat) : Nat := min (a + b) (2 ^ w - 1)

/-- a / b to the nearest integer, ties to even (R9). -/
def divEven (a b : Nat) : Nat :=
  let q := a / b
  let r := a % b
  if b < 2 * r || (2 * r = b && q % 2 = 1) then q + 1 else q

/-- A 16-bit two's complement field; a value beyond its range saturates (R9). -/
def int16 (z : Int) : Nat := (max (-32768) (min 32767 z) % 65536).toNat

/-- Serial-number comparison of R76: whether b is after a, for counters of w bits. -/
def serialAfter (w a b : Nat) : Bool :=
  let d := (b + 2 ^ w - a % 2 ^ w) % 2 ^ w
  1 ≤ d && d < 2 ^ (w - 1)

/-- Fold a state change over a list. -/
def forAll {α σ : Type} (l : List α) (f : α → σ → σ) (s : σ) : σ := l.foldl (fun t a => f a t) s

/-! ## CRC-32C, for daybook records (R423; polynomial 0x1EDC6F41 reflected, log 15) -/

def crcShift (poly : Nat) : Nat → Nat → Nat
  | 0, c => c
  | n + 1, c => crcShift poly n (if c % 2 = 1 then (c / 2) ^^^ poly else c / 2)

/-- A reflected CRC over bytes, without initial or final inversion. -/
def crcRaw (poly : Nat) (c : Nat) (l : List Byte) : Nat :=
  l.foldl (fun c b => crcShift poly 8 (c ^^^ b.toNat)) c

def crc32c (l : List Byte) : Nat := crcRaw 0x82F63B78 0xFFFF_FFFF l ^^^ 0xFFFF_FFFF

/-! ## Access to the parts of the state -/

def State.pen (s : State) (i : Nat) : Pen := tget Pen.reset s.pens i
def State.part (s : State) (k : Nat) : Part := tget Part.absent s.parts k
def State.drover (s : State) (i : Nat) : Drover := tget Drover.reset s.drovers i
def State.func (s : State) (f : Nat) : Func := tget Func.reset s.host.funcs f
def State.mbx (s : State) (f m : Nat) : Mailbox := tget Mailbox.reset (s.func f).mailboxes m
def State.gate (s : State) (g : Nat) : Gate := tget Gate.reset s.fabric.gates g
def State.stack (s : State) (i : Nat) : Stack := tget Stack.reset s.hbm.stk i
def State.chan (s : State) (i : Nat) : Chan := tget Chan.reset s.hbm.chans i
def State.pipe (s : State) (i : Nat) : Pipe := tget Pipe.reset s.codec.pipes i

def updPen (i : Nat) (f : Pen → Pen) (s : State) : State := { s with pens := tupd Pen.reset s.pens i f }
def updPart (k : Nat) (f : Part → Part) (s : State) : State := { s with parts := tupd Part.absent s.parts k f }
def updDrover (i : Nat) (f : Drover → Drover) (s : State) : State :=
  { s with drovers := tupd Drover.reset s.drovers i f }
def updPlace (f : Placement → Placement) (s : State) : State := { s with place := f s.place }
def updHbm (f : Hbm → Hbm) (s : State) : State := { s with hbm := f s.hbm }
def updCodec (f : Codec → Codec) (s : State) : State := { s with codec := f s.codec }
def updFabric (f : Fabric → Fabric) (s : State) : State := { s with fabric := f s.fabric }
def updHost (f : HostPort → HostPort) (s : State) : State := { s with host := f s.host }
def updRecov (f : Recovery → Recovery) (s : State) : State := { s with recov := f s.recov }
def updPower (f : Power → Power) (s : State) : State := { s with power := f s.power }
def updSec (f : Security → Security) (s : State) : State := { s with sec := f s.sec }
def updMgmt (f : Mgmt → Mgmt) (s : State) : State := { s with mgmt := f s.mgmt }
def updTally (f : Tally → Tally) (s : State) : State := { s with tally := f s.tally }
def updCtxs (f : List Ctx → List Ctx) (s : State) : State := { s with ctxs := f s.ctxs }
def updFunc (i : Nat) (f : Func → Func) : State → State :=
  updHost fun h => { h with funcs := tupd Func.reset h.funcs i f }
def updMbx (i m : Nat) (f : Mailbox → Mailbox) : State → State :=
  updFunc i fun u => { u with mailboxes := tupd Mailbox.reset u.mailboxes m f }
def updGate (g : Nat) (f : Gate → Gate) : State → State :=
  updFabric fun b => { b with gates := tupd Gate.reset b.gates g f }
def updChan (c : Nat) (f : Chan → Chan) : State → State :=
  updHbm fun h => { h with chans := tupd Chan.reset h.chans c f }
def updStack (i : Nat) (f : Stack → Stack) : State → State :=
  updHbm fun h => { h with stk := tupd Stack.reset h.stk i f }
def updPipe (i : Nat) (f : Pipe → Pipe) : State → State :=
  updCodec fun c => { c with pipes := tupd Pipe.reset c.pipes i f }

/-- Change one context. -/
def updCtx (h : Nat) (f : Ctx → Ctx) : State → State := updCtxs (mapIf (fun c => c.handle == h) f)

/-- Change the running RUN of a partition. -/
def updRun (k : Nat) (f : Run → Run) : State → State := updPart k fun p => { p with run := p.run.map f }

/-- Send something to the outside (log 9). -/
def emit (o : Output) (s : State) : State := { s with out := o :: s.out }

/-- Take a fresh free value (log 8). -/
def fresh (s : State) : Nat × State := (Config.freeValue s.free, { s with free := s.free + 1 })

/-! ## Partitions and what they own (R41) -/

def partExists (s : State) (k : Nat) : Bool := k < s.mode
def partList (s : State) : List Nat := List.range s.mode
def partOfPen (s : State) (p : Nat) : Nat := p * s.mode / 64
def partOfStack (s : State) (t : Nat) : Nat := t * s.mode / 20
def partOfDie (s : State) (m : Nat) : Nat := m * s.mode / 4
def partOfGate (s : State) (g : Nat) : Nat := g % 8 * s.mode / 8
def pensOf (s : State) (k : Nat) : List Nat := (List.range 64).filter fun p => partOfPen s p == k
def stacksOf (s : State) (k : Nat) : List Nat := (List.range 20).filter fun t => partOfStack s t == k
def diesOf (s : State) (k : Nat) : List Nat := (List.range 4).filter fun m => partOfDie s m == k

/-- A gate in Ethernet mode belongs to no partition (R42). -/
def gateEthernet (s : State) (g : Nat) : Bool := (s.gate g).mode == 2

/-- The gates of a partition (R41, R42). -/
def gatesOf (s : State) (k : Nat) : List Nat := (List.range 16).filter fun g => partOfGate s g == k && !gateEthernet s g

/-- The enabled pens of a partition in ascending order (R27); a fenced pen has none (log 16). -/
def enabledPens (s : State) (k : Nat) : List Nat := (pensOf s k).filter fun p => (s.pen p).power != 2

/-- P of R27. -/
def penCount (s : State) (k : Nat) : Nat := (enabledPens s k).length

/-- The physical number of a logical pen. -/
def physPen (s : State) (k l : Nat) : Nat := (enabledPens s k).getD l 64

/-- The logical index of a pen, 0x7F when it is fenced (R38). -/
def logicalPen (s : State) (p : Nat) : Nat :=
  if (s.pen p).power == 2 then 0x7F
  else ((enabledPens s (partOfPen s p)).takeWhile (· != p)).length

/-- The partitions that host or codec drover i serves (R37). -/
def hostDroverParts (s : State) (i : Nat) : List Nat :=
  (partList s).filter fun k => if s.mode == 1 then true else k * 2 / s.mode == i

/-- The host drover, as 0 or 1, that serves a partition's copies (R37). -/
def hostDroverOf (s : State) (k : Nat) : Nat := if s.mode == 1 then 0 else k * 2 / s.mode

/-- Drover kinds in the order of R31, as coded in DRV_STATUS.KIND (R40). -/
def droverKind (d : Nat) : Nat :=
  if d < 64 then 0 else if d < 128 then 1 else if d < 136 then 2 else if d < 144 then 3
  else if d < 160 then 4 else if d < 162 then 5 else 6

/-- The partitions that own or are served by a drover (R41, R37). -/
def droverParts (s : State) (d : Nat) : List Nat :=
  if d < 64 then [partOfPen s d] else if d < 128 then [partOfPen s (d - 64)]
  else if d < 136 then [(d - 128) * s.mode / 8] else if d < 144 then [(d - 136) * s.mode / 8]
  else if d < 160 then (if gateEthernet s (d - 144) then [] else [partOfGate s (d - 144)])
  else if d < 162 then hostDroverParts s (d - 160) else hostDroverParts s (d - 162)

def ctxOf (s : State) (h : Nat) : Option Ctx := s.ctxs.find? fun c => c.handle == h

/-! ## Engines (R402) -/

/-- The engine ID of a bitmap bit. -/
def engineId (b : Nat) : Nat :=
  if b < 64 then 0x100 + b else if b < 84 then 0x200 + (b - 64) else if b < 100 then 0x300 + (b - 84)
  else if b < 106 then 0x400 + (b - 100) else if b < 110 then 0x500 + (b - 106) else if b < 112 then 0x600 + (b - 110)
  else if b < 114 then 0x700 + (b - 112) else 0x800 + (b - 114)

/-- The class of a bitmap bit. -/
def engineClass (b : Nat) : Nat := engineId b / 256

/-- The bitmap bit of an engine ID, if the engine exists. -/
def engineBit (id : Nat) : Option Nat := (List.range 120).find? fun b => engineId b == id

/-- The partitions that an engine belongs to or serves (R402). -/
def engineParts (s : State) (b : Nat) : List Nat :=
  if b < 64 then [partOfPen s b] else if b < 84 then [partOfStack s (b - 64)]
  else if b < 100 then (if gateEthernet s (b - 84) then [] else [partOfGate s (b - 84)])
  else if b < 106 then [] else if b < 110 then [partOfDie s (b - 106)]
  else if b < 112 then hostDroverParts s (b - 110) else if b < 114 then hostDroverParts s (b - 112) else []

/-! ## Time -/

/-- The beat in which an effect falls: the present beat, or the next while a command's effects are applied (R371). -/
def now (s : State) : Nat := s.clock.beat + s.clock.lead

/-- TLY_TIME (R46, R47, R54), at the instant of an effect. -/
def tlyTime (s : State) : Nat := if s.clock.lead = 0 then 50000 * s.clock.beat + 10 * s.clock.acb / 13 else 50000 * now s

/-- The absolute ac (R47). -/
def absAc (s : State) : Nat := 65000 * s.clock.beat + s.clock.acb

/-- The work that a boundary decides is due at ac 0 of the present beat: the end of a RUN that was quiesced for good (R74, R132), or
what follows the loss of the tally (R51, R52). Nothing later in the beat happens before it. -/
def runEndDue (s : State) (k : Nat) : Bool :=
  match (s.part k).run with
  | some r => r.ending.isSome && (s.part k).quiescedAt < s.clock.beat
  | none => false

/-- Whether a partition has a step in progress: issued, or to be replayed. -/
def stepsRun (s : State) (k : Nat) : Bool :=
  match (s.part k).run with
  | some r => !r.flight.isEmpty || r.replay.isSome
  | none => false

/-- Whether a partition's running RUN makes a mapping change wait for its next commit (R215; log 24). -/
def changesWait (s : State) (k : Nat) : Bool :=
  match (s.part k).st with
  | .running | .quiesced => (s.part k).run.isSome
  | _ => false

/-- A mapping change waits for the partition's next commit, where one has to (R215). -/
def noteChange (k : Nat) (c : MapChange) (s : State) : State :=
  if changesWait s k then updPart k (fun q => { q with changes := q.changes ++ [c] }) s else s

/-- Whether an uncommitted step of a partition holds an epoch at or before a FREE_EPOCH (R216). -/
def epochHeld (s : State) (k freeEpoch : Nat) : Bool :=
  match (s.part k).run with
  | some r => r.epochs.any fun x => !serialAfter 32 freeEpoch x.2
  | none => false

/-- The moments at which pages at REFS 0 return to their pool: a commit that leaves no step with their epoch, and a beat boundary with no
step in progress (R216). -/
def pageReturns (s : State) (g : KvPage) : Bool :=
  g.refs == 0 && !(s.part g.part).changes.any (fun c => c.page == some g.frame)
    && ((s.clock.acb == 0 && !stepsRun s g.part)
      || ((s.part g.part).run.any (fun r => r.lastCommit == absAc s) && !epochHeld s g.part g.freeEpoch))

/-- A pool bale with no page in use since the beat before returns to the paddock at the boundary (R238). -/
def poolBaleFree (s : State) (f : Nat) : Bool :=
  s.clock.acb == 0 && s.place.poolFree.contains f && (s.place.pool.any fun e => e.2 == f)
    && !s.place.pages.any fun g => g.frame / 2097152 * 2097152 == f

/-- A period of 20,000 beats has ended at this boundary, and its counts have not been taken (R285, R485). -/
def periodDue (s : State) : Bool := s.clock.acb == 0 && s.clock.beat % 20000 == 0 && s.recov.periodFrom != s.clock.beat

/-- A DOWN gate retrains from the next beat boundary, or after a timeout at a beat that is a multiple of 20,000; at start-up the
gates train in their step (R331, R448). -/
def mayTrainGate (s : State) (g : Nat) : Bool :=
  let v := s.gate g
  s.clock.acb == 0 && ((v.st == 3 && v.since < s.clock.elapsed && (!v.failedTrain || s.clock.beat % 20000 == 0))
    || (v.st == 1 && !v.begun && s.power.stage == .gates))

/-- Four beats without a valid code on TALLY_IN are a loss of the source (R345). -/
def tallyInLost (s : State) : Bool :=
  s.tally.codeMiss == 4 && s.tally.selected && s.tally.source == 1 && s.tally.st == .locked

/-- The work of the present ac that everything later waits for. -/
def boundaryDue (s : State) : Bool :=
  (s.clock.acb == 0 && ((List.range 16).any (mayTrainGate s) || tallyInLost s || (List.range s.mode).any (runEndDue s) || s.tally.lostPending || (s.tally.st == .holdover && 200 ≤ s.tally.hold)
    || s.place.poolFree.any (poolBaleFree s) || periodDue s)) || s.place.pages.any (pageReturns s)

/-- Mark that a command's effects are being applied, or that they have been. -/
def setLead (n : Nat) (s : State) : State := { s with clock := { s.clock with lead := n } }

/-! ## Interrupts and events -/

/-- Send or hold a vector (R359, R363): a masked vector, or one that finds the link down, stays pending. -/
def sendVector (f v : Nat) (s : State) : State :=
  if s.host.up && !(s.func f).masked.contains v then emit (.msix f v) s
  else updFunc f (fun u => { u with pba := insertSorted v u.pba }) s

/-- Set an event bit of one function: a bit that becomes 1 sends its vector; VFs never set bits 4 and 6 (R366). -/
def setEvent (f b : Nat) (s : State) : State :=
  if (f != 0 && (b == evTally || b == evDaybook)) || (s.func f).events.getLsbD b then s
  else sendVector f (eventVector b) (updFunc f (fun u => { u with events := u.events ||| (1#32 <<< b) }) s)

/-- Set a partition's event in PF0 and in the partition's VF (R366). -/
def partEvent (k b : Nat) (s : State) : State := setEvent (k + 1) b (setEvent 0 b s)

/-- Set an event in every function. -/
def allEvent (b : Nat) (s : State) : State := forAll (List.range 5) (fun f => setEvent f b) s

/-! ## The daybook -/

/-- Where a record's event lies: a partition, or the module (R423). -/
def moduleWide : Nat := 0x80

/-- The 64 bytes of a record (R423). -/
def recordBytes (r : Record) : List Byte :=
  let body := leBytes 6 r.seq ++ leBytes 2 r.type ++ leBytes 8 r.beat ++ leBytes 8 r.tally ++ leBytes 1 r.part
    ++ leBytes 1 r.severity ++ leBytes 2 r.engine ++ leBytes 4 r.ctx ++ padTo 28 r.data
  body ++ leBytes 4 (crc32c body)

/-- The ring after room is made: the oldest 1 MiB is erased when the ring is full (R424). -/
def makeRoom (ring : List Record) : List Record := if 4194304 ≤ ring.length then ring.drop 16384 else ring

/-- Append a record with the next SEQ and set MBX_EVENTS.DAYBOOK (R424). -/
def appendRecord (r : Record) (s : State) : State :=
  setEvent 0 evDaybook (updRecov (fun v =>
    let d := v.daybook
    { v with daybook := { d with ring := makeRoom d.ring ++ [{ r with seq := d.next }], next := (d.next + 1) % 2 ^ 48,
                                 inBeat := d.inBeat + 1 } }) s)

/-- A record of an event of this beat. -/
def recordOf (s : State) (type part eng ctx : Nat) (data : List Byte) : Record :=
  { seq := 0, type := type, beat := now s, tally := if s.tally.st = .unlocked then 0 else tlyTime s, part := part,
    severity := Config.severity type, engine := eng, ctx := ctx, data := data }

/-- Whether a record waits: after a life-cycle transition the first record is LIFECYCLE, at readiness (R465). -/
def recordsWait (s : State) : Bool := s.power.stage != .ready && s.sec.entries.any fun e => !e.wipeDone

/-- Put a record off to a later beat. -/
def deferRecord (r : Record) : State → State :=
  updRecov fun v => { v with daybook := { v.daybook with deferred := v.daybook.deferred ++ [r] } }

/-- Write a daybook record: at most 64 a beat, the others counted for the OVERFLOW record (R424). -/
def daybook (type part eng ctx : Nat) (data : List Byte) (s : State) : State :=
  if recordsWait s then deferRecord (recordOf s type part eng ctx data) s
  else if s.recov.daybook.inBeat < 64 then appendRecord (recordOf s type part eng ctx data) s
  else updRecov (fun v => { v with daybook := { v.daybook with overflow := v.daybook.overflow + 1 } }) s

/-! ## RUN records -/

/-- The 8 bytes of a step reference (R110). -/
def stepRefNum (r : StepRef) : Nat := r.instr + 2 ^ 32 * (r.round % 2 ^ 16) + 2 ^ 48 * (r.pen % 64)

def stepRefBytes : Option StepRef → List Byte
  | some r => leBytes 8 (stepRefNum r)
  | none => leBytes 8 (2 ^ 64 - 1)

def Trouble.reset : Trouble := ⟨0, 0, 0, 0, 0, 0, none, none, none⟩

/-- The trouble summary (R110). -/
def troubleBytes (t : Trouble) : List Byte :=
  leBytes 4 t.replays ++ leBytes 4 t.fallbacks ++ leBytes 4 t.committed ++ leBytes 2 t.kindsSeen
    ++ leBytes 2 (t.nfRow + 256 * t.nfCol) ++ stepRefBytes t.firstTrouble ++ stepRefBytes t.lastFallback ++ stepRefBytes t.nfStep

/-- The KIND word and the RUN record (R377). -/
def runRecord (id code whr index shift count endBeat : Nat) (t : Trouble) : List Byte :=
  zeros 8 ++ leBytes 4 id ++ leBytes 2 code ++ leBytes 2 whr ++ leBytes 8 index ++ leBytes 4 shift ++ leBytes 4 count
    ++ leBytes 8 endBeat ++ troubleBytes t ++ zeros 8

/-- The RUN record of a command that was not accepted. -/
def rejectRecord (whr index count : Nat) : List Byte :=
  runRecord 0xFFFF_FFFF 0 whr index 0 count 0 Trouble.reset

/-! ## Mailboxes -/

/-- What a command answers at its first completion (R371). -/
inductive Reply where
  | done (status : Nat) (result : List Byte) (s : State)
  | accept (due : Option Nat) (result : List Byte) (ctx part : Nat) (job : Job) (s : State)

/-- All ones: no bound applies (R367). -/
def noDue : Nat := 0xFFFF_FFFF_FFFF_FFFF

/-- Write a completion into a mailbox (R367, R370): the result bytes, filled with zeros to the 8-byte words that RLEN counts (R6),
RLEN, SAMPLED, DONE, DUE, COMPLETE; the vector if asked. -/
def writeCompletion (p : Post) (status : Nat) (result : List Byte) (sampled done due : Nat) (final : Bool) (s : State) :
    State :=
  let t := updMbx p.func p.mbx (fun m =>
    { m with data := putBytes m.data 0 (padTo (8 * ceilDiv result.length 8) result), rlen := ceilDiv result.length 8, sampled := sampled, done := done,
             due := due, complete := p.seq + 65536 * status, busy := !final }) s
  if (final && p.irqFinal) || (!final && p.irqAccept) then sendVector p.func p.mbx t else t

/-- The partition that a command acts on (R362). -/
def postTarget (p : Post) : Nat := if p.func = 0 then p.part else p.func - 1

/-- The CTRL word of a post (R367). -/
def ctrlWord (p : Post) : Nat :=
  p.len + 65536 * boolNat p.irqFinal + 131072 * boolNat p.irqAccept + 262144 * p.part

/-- Whether the function is open to the opcode in its ABI version (R369 check 3; a closed function has no version, log 17). -/
def abiAdmits (s : State) (p : Post) (r : CmdRow) : Bool :=
  !((s.func p.func).opened && r.v2 && (s.func p.func).abi != 2)

/-- FUNC.OPEN and FUNC.INFO, which a closed function accepts (R375). -/
def openless (r : CmdRow) : Bool := r.opcode == 0x0001 || r.opcode == 0x0002

/-- Checks 1 to 6 of R369 and the checks that stand before every command's own: the status of the first that fails. SCRAPPED is
checked with the function's permission (R466, log 17); a VF of an absent partition with check 5 (R362, log 17). -/
def commonCheck (p : Post) (r : CmdRow) (units : Nat) (s : State) : Option Nat :=
  if p.seq != ((s.mbx p.func p.mbx).lastSeq + 1) % 65536 then some stStaleSeq
  else if p.len > 504 then some stBadLength
  else if !abiAdmits s p r then some stBadOpcode
  else if r.pf0 && p.func != 0 then some stDenied
  else if (s.sec.entries.getLast?.map (·.target)) == some 4 && !scrappedAllows r.opcode then some stDenied
  else if !openless r && !(s.func p.func).opened then some stBadState
  else if !openless r && p.func != 0 && !partExists s (p.func - 1) then some stBadState
  else if p.len != units then some stBadLength
  else if p.rsv || (p.func != 0 && p.part != 0) then some stBadArg
  else if p.func == 0 && !partExists s p.part then some stBadArg
  else if !r.wide && (s.part (postTarget p)).st == .resetting then some stQuiesced
  else none

/-- Take a post into its mailbox (R368): the header words as the host wrote them, POST reading 0; every check after the first
consumes the sequence (R369). -/
def samplePost (p : Post) (stale : Bool) (s : State) : State :=
  updMbx p.func p.mbx (fun m =>
    { m with post := 0, ctrl := ctrlWord p, busy := true, lastSeq := if stale then m.lastSeq else p.seq }) s

/-- Complete a command that was sampled in this beat with its final completion in the next (R371). -/
def completeNow (p : Post) (status : Nat) (result : List Byte) (s : State) : State :=
  writeCompletion p status result s.clock.beat (s.clock.beat + 1) 0 true s

/-- Answer a command by its Reply: a final completion at n + 1, or ACCEPTED with the work recorded (R371). -/
def answer (p : Post) : Reply → State
  | .done st res s => completeNow p st res s
  | .accept due res ctx part job s =>
    let t := writeCompletion p stAccepted res s.clock.beat (s.clock.beat + 1) (due.getD noDue) false s
    updHost (fun h => { h with progs := h.progs ++ [⟨p, s.clock.beat, ctx, part, job⟩] }) t

/-- Whether a mailbox may be sampled in a beat: a completion is written during its beat, so the mailbox is idle from the next
boundary on (R367, R370; log 40). -/
def mailboxIdle (beat : Nat) (m : Mailbox) : Bool := !m.busy && (m.done < beat || m.complete == 0xFFFF_FFFF)

/-- Whether a post is sampled: its mailbox is idle, and the host reaches the mailboxes from readiness on (R448). -/
def sampling (p : Post) (s : State) : Bool := s.power.stage == .ready && mailboxIdle s.clock.beat (s.mbx p.func p.mbx)

/-- The result of a command that fails a common check: RUN.SUBMIT carries a RUN record in every rejection (R377). -/
def checkResult (r : CmdRow) : List Byte := if r.opcode = 0x0201 then rejectRecord 0 0 0 else []

/-- A mailbox command sampled at the present beat (R369 to R372). -/
def mailbox (p : Post) (r : CmdRow) (units : Nat) (body : State → Reply) (s : State) : State :=
  if !sampling p s then s else
  match commonCheck p r units s with
  | some st => completeNow p st (checkResult r) (samplePost p (st == stStaleSeq) s)
  | none => setLead 0 (answer p (body (setLead 1 (samplePost p false s))))

/-- Find the work of a kind in progress. -/
def findProg (s : State) (f : InProgress → Bool) : Option InProgress := s.host.progs.find? f

/-- Write the final completion of a command in progress (R370, R371), and drop it from the list. -/
def completeProg (g : InProgress) (status : Nat) (result : List Byte) (s : State) : State :=
  writeCompletion g.post status result g.sampled (now s) 0 true
    (updHost (fun h => { h with progs := h.progs.filter (· != g) }) s)

/-- Complete every command in progress that satisfies a test, with one status and no result. -/
def completeAll (f : InProgress → Bool) (status : Nat) (s : State) : State :=
  forAll (s.host.progs.filter f) (fun g => completeProg g status []) s

/-- The command's context, if its handle lies within the bounds of R362; CONTEXT_CANCELLED for a cancelled handle (R409). -/
def checkCtx (p : Post) (h : Nat) (s : State) : Except Nat Ctx :=
  match ctxOf s h with
  | none => .error stBadArg
  | some c =>
    if c.part != postTarget p || (p.func != 0 && c.func != p.func) then .error stBadArg
    else if c.cancelled then .error stCancelled
    else .ok c

/-- Run the rest of a command with its context, or complete it with the failing status. -/
def withCtx (p : Post) (h : Nat) (k : Ctx → State → Reply) (s : State) : Reply :=
  match checkCtx p h s with
  | .error st => .done st [] s
  | .ok c => k c s

/-- The record of R374. -/
def shortRecord (unit short : Nat) : List Byte := leBytes 4 unit ++ zeros 4 ++ leBytes 8 short

/-- An event of the device: its effect where the manual has it take place, a stop where it does not (log 3). -/
def event (name : String) (enabled : Bool) (s : State) : Result State :=
  if enabled then .next s else .fault (.notEnabled name)

/-! ## Accumulator slots and scratchpads -/

/-- The state of a slot at an ac: a step accumulates into its slot from the later of its issue and the end of the pen's step before it
until its own end, and the slot is held or drains from then on (R16, R61, R193; log 35). -/
def slotAt (t : Nat) (q : Slot) : SlotState :=
  match q.st with
  | .accumulating =>
    if t < q.beginAt then (if 1 < q.users.length then .accumulating else if q.cont then .held else .free)
    else if t < q.endAt then .accumulating else if q.hold then .held else .draining
  | st => st

/-- Whether a pen's row unit drains a slot at an ac (R62). -/
def drainsAt (t : Nat) (q : Pen) : Bool := q.slots.any fun e => slotAt t e.2 == .draining

/-- Put a write among a scratchpad's writes, the newest first. -/
def insertWrite (w : SpadWrite) : List SpadWrite → List SpadWrite
  | [] => [w]
  | x :: l => if x.at_ ≤ w.at_ then w :: x :: l else x :: insertWrite w l

/-- Write bytes to a scratchpad in an ac. -/
def spadPut (n : Nat) (d : List (Nat × Byte)) (l : List SpadWrite) : List SpadWrite := if d.isEmpty then l else insertWrite ⟨n, d⟩ l

/-- A read in an ac returns what the writes of earlier ac left (R21); a byte that nothing has written reads 0 (R447). -/
def spadRead (l : List SpadWrite) (n a : Nat) : Byte :=
  (l.findSome? fun w => if w.at_ < n then (w.data.find? fun e => e.1 == a).map (·.2) else none).getD 0

/-- PEN_ATTN's BLOCK and ASSAY_PASS while a round is in progress (R226). -/
def attnAt (t : Nat) (v : AttnReg) : AttnReg :=
  if v.at_ && !v.blocks.isEmpty then
    let i := (t - v.since) / max 1 v.period
    { v with block := v.blocks.getD (i % v.blocks.length) v.block % 2 ^ 24, assayPass := v.assay && v.blocks.length ≤ i }
  else v

/-- PEN_ROWU, whose BUSY, DRAIN, FUNC and OLD tell of a drain in progress (R190). -/
def rowuAt (t : Nat) (q : Pen) : Rowu :=
  if drainsAt t q then { q.rowu with func := 0, old := false, busy := true, drain := true } else q.rowu

/-! ## Register words -/

/-- PEN_ID (R38). -/
def penIdWord (s : State) (p : Nat) : Nat :=
  p + 64 * (p / 16) + 256 * logicalPen s p + 65536 * partOfPen s p

def slotCode : SlotState → Nat
  | .free => 0
  | .accumulating => 1
  | .draining => 2
  | .held => 3

/-- PEN_STATE (R39). -/
def penStateWord (s : State) (p : Nat) : Nat :=
  let q := s.pen p
  q.power + 4 * boolNat q.active + 8 * boolNat ((s.part (partOfPen s p)).st == .quiesced)
    + (List.range 8).foldl (fun a t => a + 4 ^ (t + 2) * slotCode (slotAt (absAc s) (tget Slot.reset q.slots t))) 0
    + 2 ^ 24 * boolNat q.haz + 2 ^ 25 * boolNat q.bcerr + 2 ^ 26 * boolNat q.late

def tallyCode : TallyState → Nat
  | .unlocked => 0
  | .acquiring => 1
  | .locked => 2
  | .holdover => 3

/-- TLY_STATUS (R55). -/
def tlyStatusWord (s : State) : Nat :=
  let t := s.tally
  tallyCode t.st + 4 * (if t.selected then t.source else 0) + 16 * (if t.selected then t.gate else 0) + 256 * t.hold
    + 65536 * int16 t.phase

/-- TLY_PARTk (R75). -/
def tlyPartWord (s : State) (k : Nat) : Nat :=
  if !partExists s k then 0 else
  let q := s.part k
  q.lag + 2 ^ 17 * q.slips + 2 ^ 19 * boolNat (q.st == .quiesced) + 2 ^ 20 * q.cause + 2 ^ 24 * q.retries
    + 2 ^ 32 * (match q.run with | some r => r.shift | none => 0)

/-- PEN_DFAULTk (R133). -/
def dfaultWord (s : State) (k : Nat) : Nat :=
  let q := s.part k
  q.dfCode + 16 * q.dfLpen + 2 ^ 16 * (q.dfInstr % 2 ^ 32)

def pstateCode : PState → Nat
  | .absent => 0
  | .idle => 1
  | .accepted => 2
  | .running => 3
  | .quiesced => 4
  | .resetting => 5

/-- Resident contexts of a partition (R365, R383). -/
def residentCtxs (s : State) (k : Nat) : List Ctx := s.ctxs.filter fun c => c.part == k && !c.out && !c.cancelled

/-- MBX_PSTATEk (R365). -/
def pstateWord (s : State) (k : Nat) : Nat :=
  if !partExists s k then 0 else
  let q := s.part k
  let id := match q.run, q.waiting with
    | some r, _ => r.id
    | none, some r => r.id
    | none, none => 0
  pstateCode q.st + 8 * boolNat q.degraded + 16 * penCount s k + 2 ^ 11 * (residentCtxs s k).length + 2 ^ 32 * id

/-- MBX_BUSY (R364). -/
def mbxBusyWord (s : State) (f : Nat) : Nat :=
  (List.range 64).foldl (fun a i => a + (if mailboxIdle s.clock.beat (s.mbx f i) then 0 else 2 ^ i)) 0

/-- FUNC of the status block (R364). -/
def funcWord (s : State) (f : Nat) : Nat :=
  let u := s.func f
  f + 8 * boolNat u.opened + 16 * (if u.opened then u.abi else 0) + 64 * (s.mode / 2)

/-- The status block as a function reads it (R364): a VF sees its own partition's state only. -/
def statusBlock (s : State) (f : Nat) : List Byte :=
  padTo 4096 (leBytes 8 (tlyTime s) ++ leBytes 8 s.clock.beat ++ leBytes 4 (tlyStatusWord s) ++ leBytes 4 (funcWord s f)
    ++ leBytes 8 s.host.bellCount ++ leBytes 8 (mbxBusyWord s f) ++ leBytes 4 (s.func f).events.toNat ++ zeros 4
    ++ (List.range 4).flatMap fun k => leBytes 8 (if f = 0 || k + 1 = f then pstateWord s k else 0))

/-- The header of a mailbox as the host reads it (R367). -/
def mailboxHeader (m : Mailbox) : List Byte :=
  leBytes 4 m.post ++ leBytes 4 m.ctrl ++ leBytes 4 m.complete ++ leBytes 4 m.rlen ++ leBytes 8 m.sampled ++ leBytes 8 m.done
    ++ leBytes 8 m.due ++ leBytes 2 m.lastSeq ++ zeros 22

/-- An entry of the MSI-X table: the message of the vector, and its mask (R363). -/
def msixEntry (u : Func) (v : Nat) : List Byte :=
  (List.range 3).flatMap (fun i => leBytes 4 (tget 0 u.messages (4 * v + i))) ++ leBytes 4 (boolNat (u.masked.contains v))

/-- The pending bit array (R363). -/
def pendingArray (u : Func) : List Byte := leBytes 16 (u.pba.foldl (fun a v => a + 2 ^ v) 0)

/-- A byte of a function's BAR0 as the host reads it (R363). -/
def barByte (s : State) (f off : Nat) : Byte :=
  if off < 0x40000 then
    let m := s.mbx f (off / 4096)
    if off % 4096 < 64 then (mailboxHeader m).getD (off % 4096) 0 else tget 0 m.data (off % 4096 - 64)
  else if 0x100000 ≤ off && off < 0x101000 then (statusBlock s f).getD (off - 0x100000) 0
  else if 0x200000 ≤ off && off < 0x200420 then (msixEntry (s.func f) ((off - 0x200000) / 16)).getD (off % 16) 0
  else if 0x201000 ≤ off && off < 0x201010 then (pendingArray (s.func f)).getD (off - 0x201000) 0
  else 0

/-- PEN_WCNTk (R141). -/
def wcntWord (w : WorkCounter) : Nat :=
  w.next + 2 ^ 17 * w.limit + 2 ^ 34 * boolNat w.busy + 2 ^ 35 * boolNat w.perr + 2 ^ 40 * w.granter

/-- PEN_TRBL (R109). -/
def trblWord (t : Trbl) : Nat :=
  t.kinds + 16 * t.attempt + 256 * t.nfRow + 2 ^ 16 * t.nfCol + 2 ^ 24 * t.lfGroup + 2 ^ 37 * t.clips

/-- PEN_ROWU (R190). -/
def rowuWord (r : Rowu) : Nat :=
  r.func + 64 * boolNat r.old + 128 * boolNat r.busy + 256 * boolNat r.drain + 512 * boolNat r.nan

/-- PEN_ATTN (R226). -/
def attnWord (a : AttnReg) : Nat :=
  a.block + 2 ^ 24 * a.rescales + 2 ^ 40 * boolNat a.at_ + 2 ^ 41 * boolNat a.empty + 2 ^ 42 * boolNat a.assayPass

/-- PEN_CBANK and PEN_FBANK (R92, R183). -/
def bankWord (b : Banks) : Nat := b.active + 2 * boolNat b.shadowValid

/-- PEN_WIN (R165). -/
def winWord (w : Win) : Nat := w.cur + 2 * boolNat w.valid0 + 4 * boolNat w.valid1 + 2 ^ 16 * w.kib

end Sys2Proof.Machine
end

