-- ==== Sys2Proof/Machine/Operands.lean ====
section
/-! DEFINITION. Operand formats (R79), exact numbers, and rounding (R9, R81, R94): every conversion and FP32 operation of the device
is formed exactly and rounded once here. -/

namespace Sys2Proof.Machine

/-- A number as the arithmetic sees it: NaN, an infinity, or the value ± m · 2^e. -/
inductive Num where
  | nan
  | inf (neg : Bool)
  | fin (neg : Bool) (m : Nat) (e : Int)
  deriving DecidableEq, Repr

def Num.zero : Num := .fin false 0 0
def Num.one : Num := .fin false 1 0

def numOfInt (z : Int) : Num := .fin (z < 0) z.natAbs 0

/-- The exact number n / d · 2^e rounds through these parts: a binary float of p significant bits whose least exponent is emin and
whose largest finite value is maxM · 2^maxE. -/
structure FloatFmt where
  p : Nat
  emin : Int
  maxM : Nat
  maxE : Int
  width : Nat
  hasInf : Bool
  deriving DecidableEq, Repr

def fmtFp32 : FloatFmt := ⟨24, -149, 2 ^ 24 - 1, 104, 32, true⟩
def fmtFp16 : FloatFmt := ⟨11, -24, 2047, 5, 16, true⟩
def fmtBf16 : FloatFmt := ⟨8, -133, 255, 120, 16, true⟩
def fmtE4m3 : FloatFmt := ⟨4, -9, 14, 5, 8, false⟩
def fmtE5m2 : FloatFmt := ⟨3, -16, 7, 13, 8, true⟩

/-- 2^z as a natural number, 1 for a negative exponent. -/
def pow2 (z : Int) : Nat := 2 ^ z.toNat

/-- Whether a / b · 2^e is below 1 · 2^l. -/
def belowPow (a b : Nat) (e l : Int) : Bool := a * pow2 (e - l) < b * pow2 (l - e)

/-- Round num / den · 2^e to p significant bits with least exponent emin: the significand and its exponent (R9). -/
def roundParts (p : Nat) (emin : Int) (num den : Nat) (e : Int) : Nat × Int :=
  if num = 0 then (0, emin)
  else
    let l : Int := (num.log2 : Int) - (den.log2 : Int) + e
    let top := if belowPow num den e l then l - 1 else l
    let q := max emin (top - (p : Int) + 1)
    (divEven (num * pow2 (e - q)) (den * pow2 (q - e)), q)

/-- Whether m · 2^q exceeds maxM · 2^maxE. -/
def exceeds (m : Nat) (q : Int) (maxM : Nat) (maxE : Int) : Bool := maxM * pow2 (maxE - q) < m * pow2 (q - maxE)

/-- Round a ratio to a format; beyond the largest finite value it is an infinity, or saturates. -/
def roundRatio (f : FloatFmt) (sat neg : Bool) (num den : Nat) (e : Int) : Num :=
  let r := roundParts f.p f.emin num den e
  if exceeds r.1 r.2 f.maxM f.maxE then (if sat then .fin neg f.maxM f.maxE else .inf neg) else .fin neg r.1 r.2

def roundNum (f : FloatFmt) (sat : Bool) : Num → Num
  | .fin neg m e => roundRatio f sat neg m 1 e
  | x => x

/-- Round to FP32 under R9: an FP32 operation overflows to infinity as IEEE 754-2019 has it. -/
def fp32 : Num → Num := roundNum fmtFp32 false

/-! ## Exact operations -/

def numNeg : Num → Num
  | .nan => .nan
  | .inf s => .inf !s
  | .fin s m e => .fin (!s) m e

def numAbs : Num → Num
  | .nan => .nan
  | .inf _ => .inf false
  | .fin _ m e => .fin false m e

/-- The signed significand of a finite value at exponent q, which is at most its own. -/
def alignTo (q : Int) (neg : Bool) (m : Nat) (e : Int) : Int :=
  let a : Int := m * pow2 (e - q)
  if neg then -a else a

/-- Exact sum; an exact zero is +0 unless both terms are -0. -/
def numAdd : Num → Num → Num
  | .nan, _ | _, .nan => .nan
  | .inf s, .inf t => if s = t then .inf s else .nan
  | .inf s, _ => .inf s
  | _, .inf t => .inf t
  | .fin s m e, .fin t n f =>
    let q := min e f
    let z := alignTo q s m e + alignTo q t n f
    if z = 0 then .fin (s && t && m == 0 && n == 0) 0 q else .fin (z < 0) z.natAbs q

def numSub (a b : Num) : Num := numAdd a (numNeg b)

def isZero : Num → Bool
  | .fin _ m _ => m == 0
  | _ => false

def isNeg : Num → Bool
  | .nan => false
  | .inf s => s
  | .fin s _ _ => s

def isFinite : Num → Bool
  | .fin _ _ _ => true
  | _ => false

/-- Exact product. -/
def numMul : Num → Num → Num
  | .nan, _ | _, .nan => .nan
  | .inf s, x | x, .inf s => if isZero x then .nan else .inf (s != isNeg x)
  | .fin s m e, .fin t n f => .fin (s != t) (m * n) (e + f)

/-- Quotient rounded once to FP32. -/
def div32 : Num → Num → Num
  | .nan, _ | _, .nan => .nan
  | .inf s, x => match x with
    | .inf _ => .nan
    | _ => .inf (s != isNeg x)
  | .fin s _ _, .inf t => .fin (s != t) 0 0
  | .fin s m e, .fin t n f =>
    if n = 0 then (if m = 0 then .nan else .inf (s != t))
    else roundRatio fmtFp32 false (s != t) m n (e - f)

def add32 (a b : Num) : Num := fp32 (numAdd a b)
def sub32 (a b : Num) : Num := fp32 (numSub a b)
def mul32 (a b : Num) : Num := fp32 (numMul a b)

/-- Order of two numbers that are not NaN. -/
def numLt : Num → Num → Bool
  | .nan, _ | _, .nan => false
  | .inf s, .inf t => s && !t
  | .inf s, _ => s
  | _, .inf t => !t
  | .fin s m e, .fin t n f =>
    let q := min e f
    alignTo q s m e < alignTo q t n f

def numLe (a b : Num) : Bool := !numLt b a && a != .nan && b != .nan
def numMax (a b : Num) : Num := if numLt a b then b else a
def numMin (a b : Num) : Num := if numLt b a then b else a
def clamp (lo hi x : Num) : Num := if numLt x lo then lo else if numLt hi x then hi else x

/-- Convert to an integer within bounds: to nearest even, saturating; infinities to the bounds, NaN to 0 (R9). -/
def toInt (lo hi : Int) : Num → Int
  | .nan => 0
  | .inf true => lo
  | .inf false => hi
  | .fin s m e =>
    let a : Int := divEven (m * pow2 e) (pow2 (-e))
    let z := if s then -a else a
    max lo (min hi z)

/-! ## Bits of a format -/

/-- The bits of a NaN: the manual fixes neither its sign nor its payload (log 25). -/
def nanBits (f : FloatFmt) : Nat :=
  Config.nanPayload f.width % 2 * 2 ^ (f.width - 1)
    + (if f.hasInf then 2 ^ (f.width - 1) - 2 ^ (f.p - 1) + 1 + Config.nanPayload f.width / 2 % (2 ^ (f.p - 1) - 1)
       else 2 ^ (f.width - 1) - 1)

/-- The bits of a rounded float (R79). -/
def floatBits (f : FloatFmt) : Num → Nat
  | .nan => nanBits f
  | .inf s => boolNat s * 2 ^ (f.width - 1)
      + (if f.hasInf then 2 ^ (f.width - 1) - 2 ^ (f.p - 1) else 2 ^ (f.width - 1) - 1)
  | .fin s m e =>
    let r := roundParts f.p f.emin m 1 e
    boolNat s * 2 ^ (f.width - 1) + (r.2 - f.emin).toNat * 2 ^ (f.p - 1) + r.1

/-- The number that bits spell in a format. -/
def floatNum (f : FloatFmt) (bits : Nat) : Num :=
  let neg := bits / 2 ^ (f.width - 1) % 2 == 1
  let mag := bits % 2 ^ (f.width - 1)
  let code := mag / 2 ^ (f.p - 1)
  let frac := mag % 2 ^ (f.p - 1)
  if f.hasInf && code == 2 ^ (f.width - f.p) - 1 then (if frac = 0 then .inf neg else .nan)
  else if !f.hasInf && mag == 2 ^ (f.width - 1) - 1 then .nan
  else if code = 0 then .fin neg mag f.emin
  else .fin neg (2 ^ (f.p - 1) + frac) (f.emin + (code : Int) - 1)

/-- An n-bit two's complement field as an integer. -/
def signedField (n w : Nat) : Int := if w % 2 ^ n < 2 ^ (n - 1) then (w % 2 ^ n : Nat) else (w % 2 ^ n : Nat) - (2 ^ n : Nat)

/-- Two's complement bits of an integer. -/
def intBits (n : Nat) (z : Int) : Nat := (z % (2 ^ n : Nat)).toNat

def num32 (w : Word32) : Num := floatNum fmtFp32 w.toNat
def bits32 (x : Num) : Word32 := BitVec.ofNat 32 (floatBits fmtFp32 x)

/-! ## Element formats (R79) -/

/-- Bits of an element; 0 for a code that is not listed. -/
def formatBits (c : Nat) : Nat :=
  match c with
  | 0x01 => 1
  | 0x02 | 0x03 | 0x04 => 2
  | 0x05 | 0x06 => 4
  | 0x07 | 0x08 | 0x09 | 0x0E => 8
  | 0x0A | 0x0B => 16
  | 0x0C | 0x0D => 32
  | _ => 0

def formatKnown (c : Nat) : Bool := 1 ≤ c && c ≤ 0x0E

/-- The float format of a code, if it names one. -/
def floatOf (c : Nat) : Option FloatFmt :=
  match c with
  | 0x08 => some fmtE4m3
  | 0x09 => some fmtE5m2
  | 0x0A => some fmtBf16
  | 0x0B => some fmtFp16
  | 0x0C => some fmtFp32
  | _ => none

/-- E2M1 magnitudes in halves (R79). -/
def e2m1Half (mag : Nat) : Nat := [0, 1, 2, 3, 4, 6, 8, 12].getD mag 0

/-- The number that an element's bits stand for; W2C gives its index (R79). -/
def elemNum (c bits : Nat) : Num :=
  match c with
  | 0x01 => numOfInt (if bits % 2 = 0 then -1 else 1)
  | 0x02 => numOfInt (if bits % 4 = 1 then 1 else if bits % 4 = 2 then -1 else 0)
  | 0x03 => numOfInt (signedField 2 bits)
  | 0x04 => numOfInt (bits % 4 : Nat)
  | 0x05 => numOfInt (signedField 4 bits)
  | 0x06 => .fin (bits / 8 % 2 == 1) (e2m1Half (bits % 8)) (-1)
  | 0x07 => numOfInt (signedField 8 bits)
  | 0x0D => numOfInt (signedField 32 bits)
  | 0x0E => if bits % 256 = 255 then .nan else .fin false 1 ((bits % 256 : Nat) - 127)
  | _ => match floatOf c with
    | some f => floatNum f bits
    | none => .nan

def fmtE2m1 : FloatFmt := ⟨2, -1, 3, 1, 4, false⟩

/-- Convert a number into an element's bits: floats under R81, FP32 under R9, integers under R9. The narrow formats W1 to MXFP4 are
outputs of no word; only padding is converted into them (R134), to the nearest code, and 0 to +1 in W1 (log 54). -/
def elemBits (c : Nat) (x : Num) : Nat :=
  match c with
  | 0x01 => boolNat (!(isNeg x && !isZero x))
  | 0x02 => if toInt (-1) 1 x = -1 then 2 else (toInt (-1) 1 x).toNat
  | 0x03 => intBits 2 (toInt (-2) 1 x)
  | 0x04 => (toInt 0 3 x).toNat
  | 0x06 => match x with
    | .nan => 0
    | x => floatBits fmtE2m1 (roundNum fmtE2m1 true (match x with
      | .inf s => .fin s 6 0
      | x => x))
  | 0x0C => floatBits fmtFp32 (fp32 x)
  | 0x07 => intBits 8 (toInt (-128) 127 x)
  | 0x0D => intBits 32 (toInt (-2147483648) 2147483647 x)
  | 0x05 => intBits 4 (toInt (-8) 7 x)
  | _ => match floatOf c with
    | some f => floatBits f (roundNum f true x)
    | none => 0

/-- Whether a conversion to a format saturates: the value rounded without saturation lies outside its finite range (R88). -/
def clips (f : FloatFmt) (x : Num) : Bool :=
  match roundNum f false x with
  | .inf _ => true
  | _ => false

/-! ## The narrow adders -/

/-- The 20-bit saturating integer adder (R93): the sum, and whether it saturated. -/
def narrowInt (a b : Int) : Int × Bool :=
  let z := a + b
  if z < -524288 then (-524288, true) else if 524287 < z then (524287, true) else (z, false)

/-- The 22-bit float adder (R94): 14 significant bits as if the exponent were unbounded, then zero below 2^-126. -/
def narrowFloat (a b : Num) : Num :=
  match numAdd a b with
  | .fin s m e =>
    if m = 0 then .fin s 0 0
    else
      let r := roundParts 14 (e - 16 - (m.log2 : Int)) m 1 e
      if belowPow r.1 1 r.2 (-126) then .fin s 0 0 else .fin s r.1 r.2
  | x => x

end Sys2Proof.Machine
end

