-- ==== Sys2Proof/Machine/Memory.lean ====
section
/-! DEFINITION. Tier T1 as memory: the address map (R229 to R231, R271 to R273), bytes of T1 with poison (R292 to R294), whitening
and zeroing (R295 to R297), translation of device virtual addresses (R263 to R267), and holds (R246). -/

namespace Sys2Proof.Machine

def gib : Nat := 2 ^ 30
def mib : Nat := 2 ^ 20
def baleBytes : Nat := 2 ^ 21
def kvPageBytes : Nat := 65536

/-! ## Stacks, channels, paddocks and commons -/

/-- A stack counts as disabled in STATE 3 or with more than 16 channels mapped out (R288, R298, R411). -/
def stackDisabled (s : State) (t : Nat) : Bool :=
  (s.stack t).st == 3 || 16 < (s.hbm.mapped.filter fun c => c / 32 == t).length

/-- MAPPED of HBM_STACK, 0 to 32: every channel of a disabled stack counts as mapped out (R288, R298). -/
def mappedCount (s : State) (t : Nat) : Nat :=
  if stackDisabled s t then 32 else (s.hbm.mapped.filter fun c => c / 32 == t).length

/-- The healthy channels of a stack, ascending (R271). -/
def healthyChans (s : State) (t : Nat) : List Nat :=
  if stackDisabled s t then [] else (List.range 32).filterMap fun c =>
    if s.hbm.mapped.contains (32 * t + c) then none else some (32 * t + c)

/-- The enabled stacks of a partition, ascending (R235, R288). -/
def enabledStacks (s : State) (k : Nat) : List Nat := (stacksOf s k).filter fun t => !stackDisabled s t

/-- The base of a stack's paddock (R229). -/
def paddockBase (t : Nat) : Nat := t * 2 ^ 36

/-- The size of a paddock under a commons share of c GiB (R230); 0 for a disabled stack (R288). -/
def paddockSize (s : State) (c t : Nat) : Nat :=
  if stackDisabled s t then 0 else 48 * gib - c * gib - 1536 * mib * mappedCount s t

/-- The system reserve: the first 1 GiB of the paddock of the partition's lowest enabled stack (R230, R274). -/
def reserveOf (s : State) (k t : Nat) : Nat := if (enabledStacks s k).head? == some t then gib else 0

def commonsBase (k : Nat) : Nat := 2 ^ 42 + k * 2 ^ 40

/-- The healthy channels of a partition, in ascending global number: the remap table of R272. -/
def remapTable (s : State) (k : Nat) : List Nat := (enabledStacks s k).flatMap (healthyChans s)

/-- U_k (R272). -/
def commonsSize (s : State) (k : Nat) : Nat := (remapTable s k).length * (s.part k).commonsGib * (32 * mib)

def t2Base : Nat := 2 ^ 44

/-- The partition of a T1 address. -/
def partOfPa (s : State) (pa : Nat) : Nat :=
  if pa < commonsBase 0 then partOfStack s (pa / 2 ^ 36) else (pa - commonsBase 0) / 2 ^ 40

/-- Whether a T1 address lies in a paddock or in a usable commons (R229). -/
def inT1 (s : State) (pa : Nat) : Bool :=
  if pa < commonsBase 0 then
    pa / 2 ^ 36 < 20 && pa % 2 ^ 36 < paddockSize s (s.part (partOfStack s (pa / 2 ^ 36))).commonsGib (pa / 2 ^ 36)
  else (pa - commonsBase 0) / 2 ^ 40 < s.mode && (pa - commonsBase 0) % 2 ^ 40 < commonsSize s ((pa - commonsBase 0) / 2 ^ 40)

/-- The channel and channel-local address of a paddock offset (R271). -/
def paddockChannel (s : State) (t off : Nat) : Nat × Nat :=
  let ch := healthyChans s t
  let g := off / 256
  (ch.getD (g % ch.length) 640, g / ch.length * 256 + off % 256)

/-- The channel and channel-local address of a commons offset (R272). -/
def commonsChannel (s : State) (k off : Nat) : Nat × Nat :=
  let h := remapTable s k
  let g := off / 256
  let b := (g % 1024) ^^^ (g / 1024 % 1024) ^^^ (g / 1048576 % 1024)
  let idx := g / 1024 * 1024 + b
  (h.getD (idx % h.length) 640,
   (1536 * mib - 32 * (s.part k).commonsGib * mib) + idx / h.length * 256 + off % 256)

/-- The channel and channel-local address of a T1 address. -/
def channelOf (s : State) (pa : Nat) : Nat × Nat :=
  if pa < commonsBase 0 then paddockChannel s (pa / 2 ^ 36) (pa % 2 ^ 36)
  else commonsChannel s ((pa - commonsBase 0) / 2 ^ 40) ((pa - commonsBase 0) % 2 ^ 40)

/-- Pseudo-channel, bank, row and sector of a channel-local address (R273). -/
def localPc (x : Nat) : Nat := x / 256 % 2
def localRow (x : Nat) : Nat := x / 512 / 256
def localBank (x : Nat) : Nat := (x / 512 % 64) ^^^ (x / 512 / 256 % 64)
def localSector (x : Nat) : Nat := 4 * (x / 512 / 64 % 4) + x / 64 % 4

/-- The memory-side die of a T1 address: that of the stack of its channel. -/
def dieOfPa (s : State) (pa : Nat) : Nat := (channelOf s pa).1 / 160

/-! ## Bytes of T1 -/

def frameOf (pa : Nat) : Nat := pa / baleBytes * baleBytes

/-- Whether a frame is marked zeroed (R297). -/
def frameZeroed (s : State) (f : Nat) : Bool :=
  !s.hbm.unmarked.contains f && (tget 0 s.hbm.staleKey (partOfPa s f) == 0 || s.hbm.zeroed.contains f)

/-- A byte of T1: what was written, zero after a wipe, and a free value under a new key until its frame is zeroed or its sector
written (R295, R296; log 10). -/
def readT1 (s : State) (pa : Nat) : Byte :=
  let k := tget 0 s.hbm.staleKey (partOfPa s pa)
  if k == 0 || s.hbm.zeroed.contains (frameOf pa) || s.hbm.written.contains (pa / 64) then tget 0 s.hbm.t1 pa
  else Config.whitened k pa

def readT1s (s : State) (pa n : Nat) : List Byte :=
  let t := { s with hbm := { s.hbm with t1 := window pa (pa + n) s.hbm.t1 } }
  (List.range n).map fun i => readT1 t (pa + i)

/-- The sectors that n bytes from an address touch. -/
def sectorsOf (pa n : Nat) : List Nat := (List.range ((pa + n + 63) / 64 - pa / 64)).map fun i => pa / 64 + i

/-- Remove sectors from the poison lists: a write heals them (R292). -/
def healSectors (secs : List Nat) (h : Hbm) : Hbm :=
  { h with poison := (h.poison.map fun e => (e.1, e.2.filter fun x => !secs.contains x)).filter fun e => !e.2.isEmpty
           unlisted := h.unlisted.filter fun x => !secs.contains x }

/-- Whether a sector is on a poison list (R292). -/
def sectorListed (s : State) (sec : Nat) : Bool := s.hbm.poison.any fun e => e.2.contains sec

/-- Whether a non-exact read of a sector is poisoned: it is listed, or this read was found uncorrectable under a full list (R292, R294). -/
def sectorPoisoned (s : State) (sec : Nat) : Bool := sectorListed s sec || s.hbm.unlisted.contains sec

/-- A non-exact read of sectors is over: a later one is checked afresh (R294). -/
def endRead (secs : List Nat) (s : State) : State :=
  updHbm (fun h => { h with unlisted := h.unlisted.filter fun x => !secs.contains x }) s

/-- Add a sector to its die's poison list, unless the list holds 4,096 entries: then PLFULL is set on the die's stacks (R292, R294). -/
def poisonSector (sec : Nat) (s : State) : State :=
  let d := dieOfPa s (sec * 64)
  let l := tget [] s.hbm.poison d
  if l.contains sec then s
  else if l.length < 4096 then
    let t := updHbm (fun h => { h with poison := tset [] h.poison d (insertSorted sec l) }) s
    if l.length = 4095 then forAll (List.range 5) (fun i => updStack (5 * d + i) fun q => { q with plfull := true }) t else t
  else s

/-- The tensor and bale whose T1 frame holds an address. -/
def baleOfPa (s : State) (pa : Nat) : Option (Nat × Nat) :=
  s.place.tensors.findSome? fun t =>
    (t.bales.findIdx? fun b => b.frame == some (frameOf pa)).map fun i => (t.handle, i)

def updTensor (h : Nat) (f : Tensor → Tensor) : State → State :=
  updPlace fun p => { p with tensors := mapIf (fun t => t.handle == h) f p.tensors }

def updBale (h i : Nat) (f : Bale → Bale) : State → State :=
  updTensor h fun t => { t with bales := setAt t.bales i f }

/-- Write bytes to T1 (R292, R296): the sectors heal and are readable again. -/
def pokeT1 (pa : Nat) (d : List Byte) (s : State) : State :=
  updHbm (fun h =>
    { healSectors (sectorsOf pa d.length) h with
        t1 := putBytes h.t1 pa d
        written := if tget 0 h.staleKey (partOfPa s pa) == 0 then h.written
                   else (sectorsOf pa d.length).foldl (fun w x => insertSorted x w) h.written }) s

/-- A write that makes its bale dirty and ends its ZERO mark (R237, R247). -/
def writeT1 (pa : Nat) (d : List Byte) (s : State) : State :=
  let t := pokeT1 pa d s
  match baleOfPa t pa with
  | some (h, i) => updBale h i (fun b => { b with dirty := true, zero := false }) t
  | none => t

/-- The bytes of a frame read zero after its zeroing (R297). -/
def clearRange (pa n : Nat) (t : Table Byte) : Table Byte := t.filter fun e => !(pa ≤ e.1 && e.1 < pa + n)

/-- A frame that the bale drovers have zeroed: it reads zeros, heals, and is marked (R297). -/
def zeroFrame (f : Nat) : State → State :=
  updHbm fun h =>
    { h with t1 := clearRange f baleBytes h.t1, unmarked := h.unmarked.filter (· != f), zeroed := insertSorted f h.zeroed,
             poison := (h.poison.map fun e => (e.1, e.2.filter fun x => !(f ≤ 64 * x && 64 * x < f + baleBytes))).filter
               fun e => !e.2.isEmpty }

/-- Zero a page of 64 KiB when it is allocated (R210). -/
def zeroPage (pa : Nat) (s : State) : State :=
  updHbm (fun h =>
    { h with t1 := clearRange pa kvPageBytes h.t1,
             written := if tget 0 h.staleKey (partOfPa s pa) == 0 then h.written
                        else (sectorsOf pa kvPageBytes).foldl (fun w x => insertSorted x w) h.written,
             poison := (h.poison.map fun e => (e.1, e.2.filter fun x => !(pa ≤ 64 * x && 64 * x < pa + kvPageBytes))).filter
               fun e => !e.2.isEmpty }) s

/-- Copy bytes within T1; a poisoned source sector poisons its destination (R213, R293). -/
def copyT1 (src dst n : Nat) (s : State) : State :=
  let bad := (sectorsOf src n).filter (sectorPoisoned s)
  endRead (sectorsOf src n) (forAll bad (fun x => poisonSector (x - src / 64 + dst / 64)) (pokeT1 dst (readT1s s src n) s))

/-! ## Frames -/

/-- The T1 frames in use: the frames of bales and the pool's bales (R238). -/
def usedFrames (s : State) : List Nat :=
  s.place.tensors.flatMap (fun t => t.bales.filterMap (·.frame)) ++ s.place.pool.map (·.2)

/-- The frames of a region of a partition: its base and count. -/
def paddockFrames (s : State) (k t : Nat) : Nat × Nat :=
  (paddockBase t + reserveOf s k t, (paddockSize s (s.part k).commonsGib t - reserveOf s k t) / baleBytes)

def commonsFrames (s : State) (k : Nat) : Nat × Nat := (commonsBase k, commonsSize s k / baleBytes)

/-- The lowest free frame of a region (R235): one of the first `used + 1` frames is free if any is. -/
def lowestFree (used : List Nat) (r : Nat × Nat) : Option Nat :=
  (List.range (min r.2 (used.length + 1))).findSome? fun i =>
    let f := r.1 + i * baleBytes
    if used.contains f then none else some f

/-- Free frames of a region. -/
def freeCount (used : List Nat) (r : Nat × Nat) : Nat :=
  r.2 - (used.filter fun f => r.1 ≤ f && f < r.1 + r.2 * baleBytes).length

/-- Free paddock bales of a partition (R250). -/
def paddockFree (s : State) (k : Nat) : Nat :=
  ((enabledStacks s k).map fun t => freeCount (usedFrames s) (paddockFrames s k t)).sum

def commonsFree (s : State) (k : Nat) : Nat := freeCount (usedFrames s) (commonsFrames s k)

/-- The stacks in rotation for bale i at allocation counter a (R235). -/
def rotation (s : State) (k n : Nat) : List Nat :=
  let l := enabledStacks s k
  if l.isEmpty then [] else l.rotateLeft (n % l.length)

/-- The paddock frame for a bale (R235). -/
def paddockFrame (s : State) (k n : Nat) : Option Nat :=
  (rotation s k n).findSome? fun t => lowestFree (usedFrames s) (paddockFrames s k t)

def commonsFrame (s : State) (k : Nat) : Option Nat := lowestFree (usedFrames s) (commonsFrames s k)

/-- A frame for a bale of a tensor: commons first for RANDOM, paddocks first otherwise (R236, log 19). -/
def anyFrame (s : State) (k n : Nat) (random : Bool) : Option Nat :=
  if random then (commonsFrame s k).orElse fun _ => paddockFrame s k n
  else (paddockFrame s k n).orElse fun _ => commonsFrame s k

/-- A freed frame loses its zeroed mark (R297). -/
def unmarkFrame (f : Nat) : State → State :=
  updHbm fun h => { h with unmarked := insertSorted f h.unmarked, zeroed := h.zeroed.filter (· != f) }

/-! ## The T2 window -/

/-- Size of a partition's T2 window (R241). -/
def t2Size (s : State) (k : Nat) : Nat := ((s.part k).t2.map (·.length)).sum

/-- The host physical address of a window offset: the ranges in table order (R241). -/
def t2Host : List T2Range → Nat → Nat
  | [], off => off
  | r :: rs, off => if off < r.length then r.base + off else t2Host rs (off - r.length)

/-- T2 homes in use in a partition. -/
def usedHomes (s : State) (k : Nat) : List Nat :=
  (s.place.tensors.filter fun t => t.part == k).flatMap fun t => t.bales.filterMap (·.home)

/-- T2 exists in the modes that carry CXL.cache (R356). -/
def t2Usable (s : State) : Bool := s.host.up && s.host.linkMode ≤ 2

/-- Free bytes of the window (R250). -/
def t2Free (s : State) (k : Nat) : Nat := t2Size s k - baleBytes * (usedHomes s k).length

/-- The lowest free home (log 19). -/
def freeHome (s : State) (k : Nat) : Option Nat := lowestFree (usedHomes s k) (t2Base, t2Size s k / baleBytes)

/-- The host address of a bale's home. -/
def homeHost (s : State) (k home : Nat) : Nat := t2Host (s.part k).t2 (home - t2Base)

/-! ## Translation -/

/-- Where a virtual address leads (R264, R267). -/
inductive Place where
  | unmapped
  | dropped
  | t1 (pa : Nat)
  | t2 (addr : Nat)
  deriving DecidableEq, Repr

/-- The tensor, bale and offset that a context maps at an address; whole bales are mapped (log 19). -/
def tensorAt (s : State) (ctx va : Nat) : Option (Tensor × Nat × Nat) :=
  s.place.tensors.findSome? fun t =>
    t.maps.findSome? fun m =>
      if m.ctx == ctx && m.va ≤ va && va < m.va + t.bales.length * baleBytes then
        some (t, (va - m.va) / baleBytes, (va - m.va) % baleBytes)
      else none

/-- Pages of a block: one in 8-bit formats, two in 16-bit formats (R207). -/
def pagesPerBlock (fmt : Nat) : Nat := if fmt == 0x0A || fmt == 0x0B then 2 else 1

/-- Pages of a sequence's whole range (R210). -/
def seqPages (q : KvSeq) : Nat := q.heads * q.nb * pagesPerBlock q.format

/-- The sequence and page index that a context maps at an address (R210). -/
def seqAt (s : State) (ctx va : Nat) : Option (KvSeq × Nat) :=
  s.place.seqs.findSome? fun q =>
    if q.ctx == ctx && q.base ≤ va && va < q.base + seqPages q * kvPageBytes then some (q, (va - q.base) / kvPageBytes)
    else none

/-- The page to which a page of virtual addresses is still translated, though a command has unmapped it (R215). -/
def oldPage (s : State) (ctx va : Nat) : Option Nat :=
  (List.range s.mode).findSome? fun k => ((s.part k).changes.find? fun c => c.at_ == some (ctx, va / 65536)).bind (·.page)

/-- Translate a virtual address of a context (R263 to R267). -/
def translate (s : State) (ctx va : Nat) : Place :=
  match tensorAt s ctx va with
  | some (t, i, off) =>
    match t.bales[i]? with
    | none => .unmapped
    | some b =>
      match b.st, b.frame, b.home with
      | .resident, some f, _ => .t1 (f + off)
      | .pinned, some f, _ => .t1 (f + off)
      | .evicting, some f, _ => .t1 (f + off)
      | _, _, some h => .t2 (h + off)
      | _, _, _ => .unmapped
  | none =>
    match oldPage s ctx va with
    | some f => .t1 (f + va % kvPageBytes)
    | none => match seqAt s ctx va with
    | none => .unmapped
    | some (q, j) =>
      match tget none q.maps j with
      | none => .unmapped
      | some m => if m.dropped then .dropped else .t1 (m.frame + (va - q.base) % kvPageBytes)

/-- The T1 address of a virtual address, if it has one. -/
def toT1 (s : State) (ctx va : Nat) : Option Nat :=
  match translate s ctx va with
  | .t1 pa => some pa
  | _ => none

/-- Read n bytes at a virtual address; an address outside T1 reads zero (submission and copies refuse it first, R246, R308). -/
def readVa (s : State) (ctx va n : Nat) : List Byte :=
  (List.range n).map fun i => match toT1 s ctx (va + i) with
    | some pa => readT1 s pa
    | none => 0

/-- Write bytes at a virtual address, byte by byte through the translation; an address outside T1 drops its byte. -/
def writeVa (ctx va : Nat) (d : List Byte) (s : State) : State :=
  forAll d.zipIdx (fun e t => match toT1 t ctx (va + e.2) with
    | some pa => writeT1 pa [e.1] t
    | none => t) s

/-- Pages of 64 KiB that a range touches, as their first addresses. -/
def rangePages (va n : Nat) : List Nat :=
  (List.range ((va + n + 65535) / 65536 - va / 65536)).map fun i => (va / 65536 + i) * 65536

/-- The check of a command's range (R308): BAD_ARG for a page with VALID 0, BAD_STATE for a bale not RESIDENT or PINNED. -/
def rangeCheck (s : State) (ctx va n : Nat) : Option Nat :=
  let l := rangePages va n
  if l.any fun a => match translate s ctx a with
    | .unmapped => true
    | .dropped => true
    | _ => false then some stBadArg
  else if l.any fun a => match tensorAt s ctx a with
    | some (t, i, _) => match t.bales[i]? with
      | some b => !(b.st == .resident || b.st == .pinned)
      | none => true
    | none => false then some stBadState
  else none

/-- The bales that a range touches, as (tensor, bale). -/
def rangeBales (s : State) (ctx va n : Nat) : List (Nat × Nat) :=
  ((rangePages va n).filterMap fun a => (tensorAt s ctx a).map fun e => (e.1.handle, e.2.1)).dedup

/-! ## Holds (R246, R308) -/

/-- The RUNs of a partition: the running or accepted one and the waiting one (R390). -/
def runsOf (p : Part) : List Run := p.run.toList ++ p.waiting.toList

def allRuns (s : State) : List Run := (partList s).flatMap fun k => runsOf (s.part k)

/-- The contexts that hold a bale for an accepted or running RUN (R246). -/
def runHolders (s : State) (b : Nat × Nat) : List Nat :=
  (allRuns s).filterMap fun r => if r.holds.contains b then some r.ctx else none

/-- The contexts that hold a bale for a RUN, a host copy or a codec session (R246, R308, R378). -/
def holders (s : State) (b : Nat × Nat) : List Nat :=
  runHolders s b
    ++ s.host.copies.filterMap (fun c => if c.holds.contains b then some c.ctx else none)
    ++ s.codec.sessions.flatMap fun x =>
        (if x.holds.contains b then [x.ctx] else [])
          ++ (match x.cmd with
              | some c => if c.holds.contains b then [x.ctx] else []
              | none => [])

def held (s : State) (b : Nat × Nat) : Bool := !(holders s b).isEmpty

end Sys2Proof.Machine
end

