-- ==== Sys2Proof/Machine/Tiers.lean ====
section
/-! DEFINITION. The placement engine: allocation (R235 to R240), bale states and transfers (R242 to R248), and the commands
ALLOC.TENSOR, ALLOC.FREE and TIER.* (R239 to R250, R274). -/

namespace Sys2Proof.Machine

def findTensor (s : State) (h : Nat) : Option Tensor := s.place.tensors.find? fun t => t.handle == h

/-- The tensor of a handle that a context maps (R249). -/
def mappedTensor (s : State) (ctx h : Nat) : Option Tensor :=
  (findTensor s h).filter fun t => t.maps.any fun m => m.ctx == ctx

def getBale (s : State) (h i : Nat) : Option Bale := (findTensor s h).bind fun t => t.bales[i]?

/-! ## Ends of transfers and the commands that wait for them -/

/-- The final completion of a TIER command whose last transfer has ended (R245, R249); a promotion that found no frame ends it
with NO_SPACE (R248). -/
def tierFinal (evict : Bool) (failed deferred short : Nat) : Nat × List Byte :=
  let res := if evict then leBytes 4 deferred ++ leBytes 4 failed else leBytes 4 failed
  if 0 < failed then (stLowerTierFail, res)
  else if 0 < short then (stNoSpace, shortRecord 2 short)
  else if 0 < deferred then (stDeferred, res)
  else (stOk, res)

/-- How a transfer of a bale ended for the commands that joined it. -/
inductive TransferEnd where
  | ok | failed | short
  deriving DecidableEq, Repr

/-- Take a bale off the wait list of a TIER command. -/
def settleJob (evict : Bool) (h i : Nat) (e : TransferEnd) : Job → Job
  | .tier ev t w f d sh =>
    if ev == evict && t == h && w.contains i then
      .tier ev t (w.filter (· != i)) (if e = .failed then f + 1 else f) d (if e = .short then sh + 1 else sh)
    else .tier ev t w f d sh
  | j => j

/-- Complete the TIER commands that wait for nothing any more. -/
def finishTier (s : State) : State :=
  forAll s.host.progs (fun g t => match g.job with
    | .tier ev _ [] f d sh => let r := tierFinal ev f d sh; completeProg g r.1 r.2 t
    | _ => t) s

/-- A transfer of a bale has ended: settle the commands that joined it (R243, R245). -/
def settle (evict : Bool) (h i : Nat) (e : TransferEnd) (s : State) : State :=
  finishTier (updHost (fun p => { p with progs := p.progs.map fun g => { g with job := settleJob evict h i e g.job } }) s)

/-- The LOWER_TIER record (R262, R425): tier, tensor, bale, request. -/
def lowerTierRecord (k tier h i request : Nat) : State → State :=
  daybook 0x0040 k noEngine 0 (leBytes 1 tier ++ leBytes 4 h ++ leBytes 4 i ++ leBytes 1 request)

/-- The result of ALLOC.TENSOR (R239). -/
def allocResult (t : Tensor) : List Byte :=
  leBytes 4 t.handle ++ leBytes 4 t.bales.length
    ++ leBytes 4 (t.bales.filter fun b => b.st == .resident || b.st == .pinned).length

/-- Whether nothing of a new tensor is still being zeroed or waits for a frame (R297, R248). -/
def allocSettled (s : State) (t : Tensor) : Bool :=
  t.bales.all fun b => b.st != .promoting && match b.frame with
    | some f => !s.place.zeroing.contains (t.part, f)
    | none => true

/-- Complete the ALLOC.TENSOR commands whose frames are ready (R297). -/
def finishAllocs (s : State) : State :=
  forAll s.host.progs (fun g u => match g.job with
    | .alloc _ h => match findTensor u h with
      | some t =>
        if allocSettled u t then
          completeProg g stOk (allocResult t ++ zeros 4) (updTensor h (fun x => { x with ready := true }) u)
        else u
      | none => completeProg g stBadState [] u
    | _ => u) s

/-! ## Evictions and frames -/

/-- A bale's frame has changed: its entry changes with the next commit where a RUN is running (R265). -/
def entryChange (h : Nat) (s : State) : State :=
  match findTensor s h with
  | some t => noteChange t.part ⟨none, none⟩ s
  | none => s

/-- The bale leaves T1: its frame is freed and loses its zeroed mark; its entry changes under the epoch rules (R242, R265, R297). -/
def toT2 (h i : Nat) (s : State) : State :=
  let f := (getBale s h i).bind (·.frame)
  let t := updBale h i (fun b => { b with st := .inT2, frame := none, dirty := false, intent := false }) s
  match f with
  | some a => entryChange h (unmarkFrame a t)
  | none => t

/-- Evict a RESIDENT bale: a clean one leaves at once, a dirty one is written back first (R243). -/
def evictBale (h i : Nat) (s : State) : State :=
  match getBale s h i with
  | some b => if b.dirty then updBale h i (fun b => { b with st := .evicting, asked := s.clock.elapsed }) s else toT2 h i s
  | none => s

/-- The bales that R248 may evict in a partition, as (LAST_USE, handle, index): after a failed write-back the engine has passed to the next
bale. -/
def evictable (s : State) (k : Nat) : List (Nat × Nat × Nat) :=
  (s.place.tensors.filter fun t => t.part == k && t.backed).flatMap fun t =>
    t.bales.zipIdx.filterMap fun e =>
      if e.1.st == .resident && !e.1.wbFailed && !held s (t.handle, e.2) then some (e.1.lastUse, t.handle, e.2) else none

def evictBefore (a b : Nat × Nat × Nat) : Bool :=
  a.1 < b.1 || (a.1 == b.1 && (a.2.1 < b.2.1 || (a.2.1 == b.2.1 && a.2.2 < b.2.2)))

/-- The first bale in the order of R248. -/
def nextVictim (s : State) (k : Nat) : Option (Nat × Nat × Nat) :=
  (evictable s k).foldl (fun m e => match m with
    | none => some e
    | some x => if evictBefore e x then some e else some x) none

/-- Bales of a partition that wait for a frame: PROMOTING without one. -/
def waitingBales (s : State) (k : Nat) : List (Nat × Nat) :=
  (s.place.tensors.filter fun t => t.part == k).flatMap fun t =>
    t.bales.zipIdx.filterMap fun e => if e.1.st == .promoting && e.1.frame.isNone then some (t.handle, e.2) else none

/-- Write-backs in flight whose frames will come free. -/
def comingFrames (s : State) (k : Nat) : Nat :=
  ((s.place.tensors.filter fun t => t.part == k).flatMap fun t =>
    t.bales.filter fun b => b.st == .evicting && !b.waitPromote).length

/-- Give a waiting bale a frame, if one is free: its copy or its zeroing starts (R235, R236, R297). -/
def giveFrame (h i : Nat) (s : State) : State :=
  match findTensor s h with
  | none => s
  | some t =>
    match anyFrame s t.part (t.rot + i) t.random with
    | none => s
    | some f =>
      let u := updBale h i (fun b => { b with frame := some f, asked := s.clock.elapsed }) s
      if frameZeroed u f then u
      else updPlace (fun p => { p with zeroing := p.zeroing ++ [(t.part, f)] }) u

/-- Make room for one waiting bale: if no frame is free and too few are coming, evict the next bale of R248. -/
def makeRoomFor (k : Nat) (s : State) : State :=
  if comingFrames s k < (waitingBales s k).length && paddockFree s k + commonsFree s k = 0 then
    match nextVictim s k with
    | some v => evictBale v.2.1 v.2.2 s
    | none => s
  else s

/-- Once nothing waits for a frame any more, no failed write-back bars a bale (R248). -/
def clearFailed (k : Nat) (s : State) : State :=
  if (waitingBales s k).isEmpty then
    let clear (t : Tensor) : Tensor := { t with bales := t.bales.map fun b => { b with wbFailed := false } }
    updPlace (fun p => { p with tensors := mapIf (fun t => t.part == k) clear p.tensors }) s
  else s

/-- Serve the bales that wait for frames, in ascending tensor and bale (log 19). -/
def serveFrames (k : Nat) (s : State) : State :=
  clearFailed k (forAll (waitingBales s k) (fun b t => giveFrame b.1 b.2 (makeRoomFor k t)) s)

/-- A promotion that no eviction can serve: back to IN_T2, its requests end (R248). -/
def failWaiting (k : Nat) (e : TransferEnd) (s : State) : State :=
  forAll ((waitingBales s k).drop (comingFrames s k)) (fun b t =>
    settle false b.1 b.2 e (updBale b.1 b.2 (fun x => { x with st := .inT2, pinPending := none, intent := false }) t)) s

/-- Start a promotion (R243): to PROMOTING, with a frame at once where one is or comes free. -/
def startPromotion (h i : Nat) (s : State) : State :=
  match findTensor s h with
  | none => s
  | some t =>
    serveFrames t.part (updBale h i (fun b => { b with st := .promoting, waitPromote := false }) s)

/-! ## TIER.PROMOTE, TIER.EVICT, TIER.PIN, TIER.UNPIN -/

/-- The selected bales, or BAD_ARG (R249). -/
def selectBales (s : State) (ctx h first count most : Nat) : Except Nat (Tensor × List Nat) :=
  match mappedTensor s ctx h with
  | none => .error stBadArg
  | some t =>
    if count = 0 || most < count then .error stBadLength
    else if t.bales.length < first + count then .error stBadArg
    else .ok (t, (List.range count).map (first + ·))

/-- The status that each column of R243 refuses a bale with. -/
def refuseEvict (s : State) (t : Tensor) (ctx i : Nat) (b : Bale) : Option Nat :=
  if !t.backed then some stBadState
  else if held s (t.handle, i) then
    (if (holders s (t.handle, i)).contains ctx then some stBadState else some stPinnedByOther)
  else if b.st == .pinned then (if b.pin == some ctx then some stBadState else some stPinnedByOther)
  else none

def refusePin (ctx : Nat) (b : Bale) : Option Nat :=
  match b.st with
  | .pinned => if b.pin == some ctx then none else some stPinnedByOther
  | .promoting | .evicting => match b.pinPending with
    | some c => if c == ctx then none else some stPinnedByOther
    | none => none
  | _ => none

def refuseUnpin (ctx : Nat) (b : Bale) : Option Nat :=
  match b.st with
  | .pinned => if b.pin == some ctx then none else some stPinnedByOther
  | .promoting => match b.pinPending with
    | some c => if c == ctx then none else some stPinnedByOther
    | none => some stBadState
  | _ => some stBadState

/-- The status of a range: BAD_STATE before PINNED_BY_OTHER (R245). -/
def rangeRefusal (l : List (Option Nat)) : Option Nat :=
  if l.contains (some stBadState) then some stBadState
  else if l.contains (some stPinnedByOther) then some stPinnedByOther
  else none

/-- What a bale action leaves: the state, whether the command waits for the bale, and whether it is deferred. -/
abbrev BaleAct := State × Bool × Bool

def actPromote (h i : Nat) (s : State) : BaleAct :=
  match getBale s h i with
  | none => (s, false, false)
  | some b =>
    match b.st with
    | .inT2 => (startPromotion h i s, true, false)
    | .promoting => (s, true, false)
    | .evicting => (updBale h i (fun b => { b with waitPromote := true }) s, true, false)
    | .resident | .pinned => (s, false, false)

def actEvict (h i : Nat) (s : State) : BaleAct :=
  match getBale s h i with
  | none => (s, false, false)
  | some b =>
    match b.st with
    | .inT2 => (s, false, false)
    | .promoting => (updBale h i (fun b => { b with intent := true }) s, false, true)
    | .resident => (evictBale h i s, b.dirty, false)
    | .evicting => (s, true, false)
    | .pinned => (s, false, false)

def actPin (ctx h i : Nat) (s : State) : BaleAct :=
  match getBale s h i with
  | none => (s, false, false)
  | some b =>
    match b.st with
    | .inT2 => (startPromotion h i (updBale h i (fun b => { b with pinPending := some ctx }) s), true, false)
    | .promoting => (updBale h i (fun b => { b with pinPending := some ctx }) s, true, false)
    | .resident => (updBale h i (fun b => { b with st := .pinned, pin := some ctx }) s, false, false)
    | .evicting => (updBale h i (fun b => { b with pinPending := some ctx, waitPromote := true }) s, true, false)
    | .pinned => (s, false, false)

def actUnpin (h i : Nat) (s : State) : BaleAct :=
  match getBale s h i with
  | none => (s, false, false)
  | some b =>
    match b.st with
    | .pinned => (updBale h i (fun b => { b with st := .resident, pin := none }) s, false, false)
    | _ => (updBale h i (fun b => { b with pinPending := none }) s, false, false)

/-- Act on every bale of the range in turn, gathering those that the command waits for and the count deferred. -/
def actRange (act : Nat → State → BaleAct) (l : List Nat) (s : State) : State × List Nat × Nat :=
  l.foldl (fun a i => let r := act i a.1
    (r.1, if r.2.1 then a.2.1 ++ [i] else a.2.1, if r.2.2 then a.2.2 + 1 else a.2.2)) (s, [], 0)

/-- Mark the named bales ACCESSED (R264). -/
def touchBales (h : Nat) (l : List Nat) (s : State) : State :=
  forAll l (fun i => updBale h i fun b => { b with accessed := true }) s

/-- A command of R243 on a range of bales (R245, R249). -/
def tierCommand (p : Post) (ctx h first count : Nat) (evict : Bool) (refuse : State → Tensor → Nat → Bale → Option Nat)
    (act : Nat → State → BaleAct) (s : State) : Reply :=
  withCtx p ctx (fun c s =>
    match selectBales s c.handle h first count (2 ^ 32) with
    | .error st => .done st [] s
    | .ok (t, l) =>
      match rangeRefusal (l.map fun i => (t.bales[i]?).bind (refuse s t i)) with
      | some st => .done st [] s
      | none =>
        let r := actRange act l (touchBales h l s)
        let waits := r.2.1.filter fun i => match getBale r.1 h i with
          | some b => b.st == .promoting || b.st == .evicting
          | none => false
        let starved := if evict then [] else ((waitingBales r.1 t.part).drop (comingFrames r.1 t.part)).filterMap fun b =>
          if b.1 == h && waits.contains b.2 then some b.2 else none
        let u := forAll starved (fun i => updBale h i fun b => { b with st := .inT2, pinPending := none }) r.1
        let w := waits.filter fun i => !starved.contains i
        if w.isEmpty then
          let e := tierFinal evict 0 r.2.2 starved.length
          .done e.1 e.2 u
        else .accept none [] ctx t.part (.tier evict h w 0 r.2.2 starved.length) u) s

def tierPromoteBody (p : Post) (ctx h first count : Nat) : State → Reply :=
  tierCommand p ctx h first count false (fun _ _ _ _ => none) (actPromote h)

def tierEvictBody (p : Post) (ctx h first count : Nat) : State → Reply :=
  tierCommand p ctx h first count true (fun s t i b => refuseEvict s t ctx i b) (actEvict h)

def tierPinBody (p : Post) (ctx h first count : Nat) : State → Reply :=
  tierCommand p ctx h first count false (fun _ _ _ b => refusePin ctx b) (actPin ctx h)

def tierUnpinBody (p : Post) (ctx h first count : Nat) : State → Reply :=
  tierCommand p ctx h first count false (fun _ _ _ b => refuseUnpin ctx b) (actUnpin h)

/-- The STACK byte of TIER.QUERY (R250). -/
def stackByte (f : Option Nat) : Nat :=
  match f with
  | none => 0xFF
  | some a => if a < commonsBase 0 then a / 2 ^ 36 else 0xFE

def baleCode : BaleState → Nat
  | .inT2 => 0
  | .promoting => 1
  | .resident => 2
  | .evicting => 3
  | .pinned => 4

/-- A bale record of TIER.QUERY (R250). -/
def baleRecord (s : State) (h i : Nat) (b : Bale) : List Byte :=
  leBytes 8 (baleCode b.st + 8 * boolNat b.dirty + 16 * boolNat (!(runHolders s (h, i)).isEmpty)
    + 32 * boolNat b.pinPending.isSome + 64 * boolNat b.intent + 128 * boolNat b.zero + 256 * stackByte b.frame
    + 2 ^ 32 * (b.lastUse % 2 ^ 32))

def tierQueryBody (p : Post) (ctx h first count : Nat) : State → Reply :=
  withCtx p ctx fun c s =>
    match selectBales s c.handle h first count 496 with
    | .error st => .done st [] s
    | .ok (t, l) =>
      .done stOk (leBytes 4 (paddockFree s t.part) ++ leBytes 4 (commonsFree s t.part) ++ leBytes 8 (commonsSize s t.part)
        ++ leBytes 8 (t2Free s t.part) ++ leBytes 4 t.load ++ zeros 4
        ++ l.flatMap fun i => match t.bales[i]? with
            | some b => baleRecord s h i b
            | none => zeros 8) (touchBales h l s)

def execTierPromote (p : Post) (ctx tensor first count : Nat) (s : State) : Result State :=
  .next (mailbox p rowTierPromote 2 (tierPromoteBody p ctx tensor first count) s)
def execTierEvict (p : Post) (ctx tensor first count : Nat) (s : State) : Result State :=
  .next (mailbox p rowTierEvict 2 (tierEvictBody p ctx tensor first count) s)
def execTierPin (p : Post) (ctx tensor first count : Nat) (s : State) : Result State :=
  .next (mailbox p rowTierPin 2 (tierPinBody p ctx tensor first count) s)
def execTierUnpin (p : Post) (ctx tensor first count : Nat) (s : State) : Result State :=
  .next (mailbox p rowTierUnpin 2 (tierUnpinBody p ctx tensor first count) s)
def execTierQuery (p : Post) (ctx tensor first count : Nat) (s : State) : Result State :=
  .next (mailbox p rowTierQuery 2 (tierQueryBody p ctx tensor first count) s)

/-! ## ALLOC.TENSOR and ALLOC.FREE -/

/-- Whether a context maps anything in a range: a tensor's bales or a sequence's blocks (R239). -/
def rangeMapped (s : State) (ctx va n : Nat) : Bool :=
  (s.place.tensors.any fun t => t.maps.any fun m =>
    m.ctx == ctx && va < m.va + t.bales.length * baleBytes && m.va < va + n)
  || s.place.seqs.any fun q => q.ctx == ctx && va < q.base + seqPages q * kvPageBytes && q.base < va + n

/-- A bale before its placement: every new bale reads as zeros (R237). -/
def newBale (s : State) : Bale where
  st := .promoting
  dirty := false
  pin := none
  pinPending := none
  intent := false
  zero := true
  frame := none
  home := none
  lastUse := now s
  waitPromote := false
  accessed := false
  wbFailed := false
  asked := s.clock.elapsed

/-- Reserve T2 homes for every bale (R237). -/
def reserveHomes (k h n : Nat) (s : State) : State :=
  forAll (List.range n) (fun i t => match freeHome t k with
    | some a => updBale h i (fun b => { b with home := some a }) t
    | none => t) s

/-- Place every bale with the frame choice given; a frame that is not marked zeroed is zeroed first (R235, R297). -/
def placeBales (pick : State → Nat → Option Nat) (k h n : Nat) (s : State) : State :=
  forAll (List.range n) (fun i t => match pick t i with
    | some f =>
      let u := updBale h i (fun b => { b with frame := some f, st := .resident }) t
      if frameZeroed u f then u else updPlace (fun q => { q with zeroing := q.zeroing ++ [(k, f)] }) u
    | none => t) s

/-- Where ALLOC.TENSOR puts a tensor (R236). -/
inductive Placing where
  | paddocks | commons | evicting | window | none
  deriving DecidableEq, Repr

/-- The first row of R236 that applies. -/
def choosePlacing (s : State) (k n : Nat) (random backed : Bool) : Placing :=
  if random && n ≤ commonsFree s k then .commons
  else if n ≤ paddockFree s k then .paddocks
  else if n ≤ commonsFree s k then .commons
  else if backed && n ≤ paddockFree s k + commonsFree s k + (evictable s k).length then .evicting
  else if backed then .window
  else .none

/-- Place the bales of a new tensor as chosen. -/
def placeTensor (pl : Placing) (k h n a : Nat) (random : Bool) (s : State) : State :=
  match pl with
  | .paddocks => placeBales (fun t i => paddockFrame t k (a + i)) k h n s
  | .commons => placeBales (fun t _ => commonsFrame t k) k h n s
  | .evicting => serveFrames k (placeBales (fun t i => anyFrame t k (a + i) random) k h n s)
  | .window => updTensor h (fun t => { t with bales := t.bales.map fun b => { b with st := .inT2 } }) s
  | .none => s

/-- A served bale of a new tensor is resident once its frame is there: it holds zeros and needs no copy (R237). -/
def settleNew (h : Nat) : State → State :=
  updTensor h fun t => { t with bales := t.bales.map fun b =>
    if b.st == .promoting && b.frame.isSome then { b with st := .resident } else b }

def allocNew (p : Post) (ctx : Nat) (random backed : Bool) (va size tag : Nat) (s : State) : Reply :=
  let k := postTarget p
  let n := ceilDiv size baleBytes
  let homes := t2Free s k / baleBytes
  if backed && 2 < s.host.linkMode then .done stNoSpace (shortRecord 2 n) s
  else if backed && homes < n then .done stNoSpace (shortRecord 2 (n - homes)) s
  else
    let pl := choosePlacing s k n random backed
    if pl = .none then .done stNoSpace (shortRecord 2 (n - max (paddockFree s k) (commonsFree s k))) s
    else
      let h := s.place.nextTensor
      let a := (s.part k).allocCount
      let t0 : Tensor := { handle := h, part := k, size := size, tag := tag, rot := a, random := random, backed := backed,
                           maps := [⟨ctx, va, tag⟩], bales := List.replicate n (newBale s), load := 0, ready := false }
      let s1 := updPlace (fun q => { q with tensors := q.tensors ++ [t0], nextTensor := h + 1 })
        (updPart k (fun q => { q with allocCount := q.allocCount + 1 }) s)
      let s2 := if backed then reserveHomes k h n s1 else s1
      let s3 := settleNew h (placeTensor pl k h n a random s2)
      match findTensor s3 h with
      | some t =>
        if allocSettled s3 t then
          .done stOk (allocResult t ++ zeros 4) (updTensor h (fun x => { x with ready := true }) s3)
        else .accept none [] ctx k (.alloc ctx h) s3
      | none => .done stBadState [] s3

def allocTensorBody (p : Post) (ctx : Nat) (random backed : Bool) (va size tag src : Nat) : State → Reply :=
  withCtx p ctx fun _ s =>
    if va % baleBytes != 0 then .done stBadArg [] s
    else if src != 0 then
      match (findTensor s src).filter fun t => t.part == postTarget p with
      | none => .done stBadArg [] s
      | some t =>
        if 2 ^ 48 < va + t.bales.length * baleBytes then .done stBadArg [] s
        else if rangeMapped s ctx va (t.bales.length * baleBytes) then .done stBadState [] s
        else .done stOk (allocResult t ++ zeros 4) (updTensor src (fun t => { t with maps := t.maps ++ [⟨ctx, va, tag⟩] }) s)
    else if size < 64 || 2 ^ 44 < size || size % 64 != 0 || 2 ^ 48 < va + ceilDiv size baleBytes * baleBytes then
      .done stBadArg [] s
    else if rangeMapped s ctx va (ceilDiv size baleBytes * baleBytes) then .done stBadState [] s
    else allocNew p ctx random backed va size tag s

/-- Forget a tensor: its frames lose their marks, its transfers end, and the commands that waited for them complete (R240). -/
def dropTensor (h : Nat) (s : State) : State :=
  match findTensor s h with
  | none => s
  | some t =>
    let s1 := updPlace (fun q => { q with
      tensors := q.tensors.filter fun x => x.handle != h
      zeroing := q.zeroing.filter fun z => !(t.bales.any fun b => b.frame == some z.2)
      loads := q.loads.filter fun l => l.tensor != h }) s
    let s2 := forAll (t.bales.filterMap (·.frame)) unmarkFrame s1
    forAll (List.range t.bales.length) (fun i u => settle true h i .ok (settle false h i .ok u)) s2

/-- Unmap a tensor from a context; the caller's pins go with the mapping, and the last unmapping frees it (R240, log 19). -/
def unmapTensor (ctx h : Nat) (s : State) : State :=
  let s1 := updTensor h (fun t => { t with
    maps := t.maps.filter fun m => m.ctx != ctx
    bales := t.bales.map fun b =>
      let b1 := if b.pin == some ctx then { b with st := .resident, pin := none } else b
      if b1.pinPending == some ctx then { b1 with pinPending := none } else b1 }) s
  match findTensor s1 h with
  | some t => if t.maps.isEmpty then serveFrames t.part (dropTensor h s1) else s1
  | none => s1

/-- The refusals of ALLOC.FREE (R240). -/
def freeRefused (s : State) (ctx : Nat) (t : Tensor) : Bool :=
  t.load == 1 || t.bales.zipIdx.any fun e =>
    held s (t.handle, e.2) || (match e.1.pin with
      | some c => c != ctx
      | none => false)

def allocFreeBody (p : Post) (ctx h : Nat) : State → Reply :=
  withCtx p ctx fun _ s =>
    match mappedTensor s ctx h with
    | none => .done stBadArg [] s
    | some t => if freeRefused s ctx t then .done stBadState [] s else .done stOk [] (unmapTensor ctx h s)

def execAllocTensor (p : Post) (ctx : Nat) (random backed : Bool) (va size tag src : Nat) (s : State) : Result State :=
  .next (mailbox p rowAllocTensor 4 (allocTensorBody p ctx random backed va size tag src) s)
def execAllocFree (p : Post) (ctx tensor : Nat) (s : State) : Result State :=
  .next (mailbox p rowAllocFree 1 (allocFreeBody p ctx tensor) s)

/-! ## TIER.CONFIG -/

/-- Whether a partition holds a tensor, a KV sequence or a resident context (R241). -/
def placementBusy (s : State) (k : Nat) : Bool :=
  (s.place.tensors.any fun t => t.part == k) || (s.place.seqs.any fun q => q.part == k) || !(residentCtxs s k).isEmpty

/-- Whether a commons share leaves every enabled stack its paddock and the first its reserve (R274). -/
def commonsFits (s : State) (k c : Nat) : Bool :=
  (enabledStacks s k).all fun t =>
    c * gib + 1536 * mib * mappedCount s t + reserveOf s k t ≤ 48 * gib

def rangesOverlap : List T2Range → Bool
  | [] => false
  | r :: rs => (rs.any fun x => r.base < x.base + x.length && x.base < r.base + r.length) || rangesOverlap rs

/-- The partitions whose T2 window the ranges change; a command without ranges changes none (log 19). -/
def changedWindows (s : State) (ranges : List T2Range) : List Nat :=
  if ranges.isEmpty then [] else
    (partList s).filter fun k => (s.part k).t2 != ranges.filter fun r => r.part == k

/-- The frames of a partition's paddocks that a smaller commons gives back: they are not zeroed. -/
def givenBack (s : State) (k c : Nat) : List Nat :=
  (enabledStacks s k).flatMap fun t =>
    let lo := (paddockBase t + paddockSize s (s.part k).commonsGib t) / baleBytes
    let hi := (paddockBase t + paddockSize s c t) / baleBytes
    (List.range (hi - lo)).map fun i => (lo + i) * baleBytes

/-- Whether the frames of a new commons must be zeroed first (R241, R297). -/
def commonsDirty (s : State) (k : Nat) : Bool :=
  tget 0 s.hbm.staleKey k != 0 || s.hbm.unmarked.any fun f => partOfPa s f == k

/-- A new commons reads as zeros (R241). -/
def clearCommons (k : Nat) (s : State) : State :=
  updHbm (fun h =>
    { h with t1 := clearRange (commonsBase k) (2 ^ 40) h.t1,
             unmarked := h.unmarked.filter fun f => !(commonsBase k ≤ f && f < commonsBase k + 2 ^ 40),
             zeroed := if tget 0 h.staleKey k == 0 then h.zeroed
               else (List.range (commonsSize s k / baleBytes)).foldl
                 (fun z i => insertSorted (commonsBase k + i * baleBytes) z) h.zeroed }) s

def tierConfigBody (p : Post) (c : Nat) (ranges : List T2Range) (s : State) : Reply :=
  let k := postTarget p
  if placementBusy s k || (changedWindows s ranges).any (placementBusy s) || (!ranges.isEmpty && 2 < s.host.linkMode) then
    .done stBadState [] s
  else if p.func != 0 && !ranges.isEmpty then .done stDenied [] s
  else if 64 < ranges.length || (ranges.any fun r => r.length % baleBytes != 0) then .done stBadLength [] s
  else if 48 < c || !commonsFits s k c || (ranges.any fun r => r.base % baleBytes != 0 || s.mode ≤ r.part)
      || rangesOverlap ranges || 2 ^ 44 < (ranges.map (·.length)).sum then .done stBadArg [] s
  else
    let back := givenBack s k c
    let s1 := updHbm (fun h => { h with unmarked := back.foldl (fun l f => insertSorted f l) h.unmarked }) s
    let s2 := updPart k (fun q => { q with commonsGib := c }) s1
    let s3 := if ranges.isEmpty then s2
      else forAll (partList s) (fun j => updPart j fun q => { q with t2 := ranges.filter fun r => r.part == j }) s2
    if c != 0 && c != (s.part k).commonsGib && commonsDirty s k then
      .accept none [] 0 k (.config k) (updPlace (fun q => { q with zeroing := q.zeroing ++ [(k, commonsBase k)] }) s3)
    else .done stOk [] (if c != (s.part k).commonsGib then clearCommons k s3 else s3)

def execTierConfig (p : Post) (commonsGib : Nat) (ranges : List T2Range) (s : State) : Result State :=
  .next (mailbox p rowTierConfig (1 + 3 * ranges.length) (tierConfigBody p commonsGib ranges) s)

end Sys2Proof.Machine
end

