-- ==== Sys2Proof/Machine/Kv.lean ====
section
/-! DEFINITION. Key-value sequences, pages and the page pool: reference counts (R210 to R214), epochs and reclamation (R215, R216),
admission and dropping (R218 to R220), copy-on-write times (R213), and the KV commands (R222 to R224). -/

namespace Sys2Proof.Machine

/-! ## Sequences and pages -/

/-- A sequence of the partition of the posting function (R222). -/
def findSeq (s : State) (k h : Nat) : Option KvSeq := s.place.seqs.find? fun q => q.handle == h && q.part == k

def updSeq (h : Nat) (f : KvSeq → KvSeq) : State → State :=
  updPlace fun p => { p with seqs := mapIf (fun q => q.handle == h) f p.seqs }

def findPage (s : State) (f : Nat) : Option KvPage := s.place.pages.find? fun g => g.frame == f

def updPage (f : Nat) (g : KvPage → KvPage) : State → State :=
  updPlace fun p => { p with pages := mapIf (fun x => x.frame == f) g p.pages }

/-- The mapping of page j of a sequence. -/
def seqMap (q : KvSeq) (j : Nat) : Option KvMap := tget none q.maps j

def setSeqMap (h j : Nat) (m : Option KvMap) : State → State :=
  updSeq h fun q => { q with maps := tset none q.maps j m }

/-- The page indices of blocks first to first + count - 1 of every head (R212, R214). -/
def blockPages (q : KvSeq) (first count : Nat) : List Nat :=
  (List.range q.heads).flatMap fun h =>
    (List.range (count * pagesPerBlock q.format)).map fun i => (h * q.nb + first) * pagesPerBlock q.format + i

/-- DROPPABLE: every mapping of the page is marked droppable (R211). -/
def pageDroppable (s : State) (f : Nat) : Bool :=
  s.place.seqs.all fun q => q.maps.all fun e => match e.2 with
    | some m => m.dropped || m.frame != f || m.droppable
    | none => true

/-- A page of virtual addresses is mapped anew: an old translation of it ends. -/
def endOld (k ctx page : Nat) : State → State :=
  updPart k fun q => { q with changes := mapIf (fun c => c.at_ == some (ctx, page)) (fun c => { c with at_ := none }) q.changes }

/-- Return a page to the pool. -/
def returnPage (f : Nat) : State → State :=
  updPlace fun p => { p with pages := p.pages.filter fun g => g.frame != f }

/-- Take one reference off a page, whose old translation stays in force until the change does: at REFS 0 it waits for the next commit, or
returns at once when no RUN of the partition is running (R214 to R216); never below 0 (R78). -/
def unrefPage (k f : Nat) (at_ : Option (Nat × Nat)) (s : State) : State :=
  match findPage s f with
  | none => s
  | some g =>
    let t := noteChange k ⟨some f, at_⟩ (updPage f (fun g => { g with refs := g.refs - 1 }) s)
    if g.refs ≤ 1 && !changesWait s k then returnPage f (updPage f (fun g => { g with freeEpoch := (s.part k).epoch }) t) else t

/-- Add one reference to a page. -/
def refPage (f : Nat) : State → State := updPage f fun g => { g with refs := g.refs + 1 }

/-- The pages that changes have left at REFS 0 take the present epoch as FREE_EPOCH (R211, R215). -/
def settlePages (q : Part) (s : State) : State :=
  forAll (q.changes.filterMap (·.page)) (fun f => updPage f fun g => if g.refs == 0 then { g with freeEpoch := q.epoch } else g) s

/-- The epoch work of a commit: pending changes take effect and the epoch rises by 1 (R215). -/
def advanceEpoch (k : Nat) (s : State) : State :=
  let q := s.part k
  if q.changes.isEmpty then s
  else
    let t := settlePages q s
    updPart k (fun q => { q with changes := [], epoch := (q.epoch + 1) % 2 ^ 32 }) t

/-! ## The pool (R238) -/

def poolBales (s : State) (k : Nat) : List Nat := (s.place.pool.filter fun e => e.1 == k).map (·.2)

/-- The free pages of a pool bale. -/
def freePagesIn (s : State) (f : Nat) : List Nat :=
  ((List.range 32).map fun i => f + i * kvPageBytes).filter fun a => !s.place.pages.any fun g => g.frame == a

/-- FREE of R218: free pages in the pool's bales, and 32 for each free paddock bale (R238). -/
def freePages (s : State) (k : Nat) : Nat :=
  ((poolBales s k).map fun f => (freePagesIn s f).length).sum + 32 * paddockFree s k

/-- The next free page: the lowest in the pool's bales, else in a new bale under R235, zeroed at once (R210, R238; log 24). -/
def takePage (k refs : Nat) (s : State) : Option (Nat × State) :=
  let low := ((poolBales s k).flatMap (freePagesIn s)).foldl (fun m a => match m with
    | none => some a
    | some b => some (min a b)) (none : Option Nat)
  let place (a : Nat) (t : State) : State :=
    updPlace (fun p => { p with pages := p.pages ++ [⟨a, k, refs, t.clock.beat + 1, 0⟩] }) (zeroPage a t)
  match low with
  | some a => some (a, place a s)
  | none =>
    match paddockFrame s k (s.part k).allocCount with
    | some f => some (f, place f (zeroFrame f (updPlace (fun p => { p with pool := p.pool ++ [(k, f)] }) s)))
    | none => none

/-- The pool bales that have no page in use, noted as a beat ends (R238). -/
def notePool (s : State) : State :=
  updPlace (fun p => { p with poolFree := (p.pool.map (·.2)).filter fun f => (freePagesIn s f).length == 32 }) s

/-! ## Dropping (R219) -/

/-- Pages eligible to drop, as (AGE, frame). -/
def eligiblePages (s : State) (k : Nat) (keep : List Nat) : List (Nat × Nat) :=
  s.place.pages.filterMap fun g =>
    if g.part == k && g.refs != 0 && pageDroppable s g.frame && !keep.contains g.frame
        && !(runsOf (s.part k)).any (fun r => r.readSet.contains g.frame || r.writeSet.contains g.frame) then
      some (g.age, g.frame)
    else none

/-- Mark every mapping of a page as dropped and return the page to the pool at once (R219). -/
def dropPage (k f : Nat) (s : State) : State :=
  noteChange k ⟨none, none⟩ <| returnPage f (updPlace (fun p => { p with seqs := p.seqs.map fun q =>
    { q with maps := q.maps.map fun e => (e.1, e.2.map fun m => if m.frame == f then { m with dropped := true } else m) } }) s)

/-- The least element by (AGE, frame). -/
def oldestPage (l : List (Nat × Nat)) : Option (Nat × Nat) :=
  l.foldl (fun m e => match m with
    | none => some e
    | some x => if e.1 < x.1 || (e.1 == x.1 && e.2 < x.2) then some e else some x) none

/-- Drop n eligible pages in ascending AGE, then frame (R219). -/
def dropPages (k : Nat) (keep : List Nat) : Nat → State → State
  | 0, s => s
  | n + 1, s => match oldestPage (eligiblePages s k keep) with
    | some e => dropPages k keep n (dropPage k e.2 s)
    | none => s

/-! ## Copy-on-write times (R213) -/

/-- A copy while its time is computed: source stack, destination stack, the beat its read completed, whether its write did. -/
structure CopyTime where
  src : Nat
  dst : Nat
  readAt : Option Nat
  done : Bool
  deriving DecidableEq, Repr

/-- The touch of a copy that is pending on a stack in a beat: false a read, true a write. -/
def pendingTouch (t b : Nat) (c : CopyTime) : Option Bool :=
  if c.done then none
  else match c.readAt with
    | none => if c.src == t then some false else none
    | some r => if c.dst == t && r < b then some true else none

/-- Complete up to `left` pending touches of one stack in one beat, in copy order; in one direction when `dir` is given. -/
def touchStack (t b : Nat) (dir : Option Bool) : Nat → List CopyTime → List CopyTime
  | _, [] => []
  | 0, l => l
  | left + 1, c :: cs =>
    match pendingTouch t b c with
    | some w =>
      if dir.isNone || dir == some w then
        (if w then { c with done := true } else { c with readAt := some b }) :: touchStack t b dir left cs
      else c :: touchStack t b dir (left + 1) cs
    | none => c :: touchStack t b dir (left + 1) cs

/-- One beat on every stack: 512 touches while the partition was alone, else 3 in the direction of the oldest (R213). -/
def touchBeat (b : Nat) (fast : Bool) (l : List CopyTime) : List CopyTime :=
  (List.range 20).foldl (fun acc t =>
    if fast then touchStack t b none 512 acc
    else touchStack t b (acc.findSome? (pendingTouch t b)) 3 acc) l

/-- The beat in which the last touch completes, within a fuel of beats. -/
def copyEnd (bd : Nat) (alone : Bool) : Nat → Nat → List CopyTime → Nat
  | 0, b, _ => b
  | fuel + 1, b, l =>
    let m := touchBeat b (alone && b < bd) l
    if m.all (·.done) then b else copyEnd bd alone fuel (b + 1) m

/-- The stack whose channel holds the first granule of a page. -/
def stackOfPa (s : State) (pa : Nat) : Nat := (channelOf s pa).1 / 32

/-- The next touch of the partition's copies that can complete, as the copy's index and whether it is the write. -/
def nextTouch (beat : Nat) (l : List CowCopy) : Option (Nat × Bool) :=
  l.zipIdx.findSome? fun e =>
    if !e.1.readDone then some (e.2, false) else if e.1.since < beat then some (e.2, true) else none

/-! ## Commands -/

/-- Whether a sequence is in the batch of an accepted or running RUN of its partition (R212, R214). -/
def inBatch (s : State) (k h : Nat) : Bool :=
  (runsOf (s.part k)).any fun r => r.batch.any fun b => b.seq == h

def inWriteSet (s : State) (k f : Nat) : Bool := (runsOf (s.part k)).any fun r => r.writeSet.contains f

def kvFormat (f : Nat) : Bool := f == 0x08 || f == 0x09 || f == 0x0A || f == 0x0B

def kvCreateBody (p : Post) (ctx heads format base maxPos : Nat) : State → Reply :=
  withCtx p ctx fun _ s =>
    let k := postTarget p
    let nb := ceilDiv maxPos 256
    let size := heads * nb * pagesPerBlock format * kvPageBytes
    if heads < 1 || 256 < heads || !kvFormat format || base % 65536 != 0 || maxPos < 1 || 2 ^ 32 - 256 < maxPos
        || 2 ^ 48 < base + size then .done stBadArg [] s
    else if rangeMapped s ctx base size then .done stBadState [] s
    else if 65536 ≤ (s.place.seqs.filter fun q => q.part == k).length then .done stNoSpace (shortRecord 4 1) s
    else
      let h := s.place.nextSeq
      .done stOk (leBytes 4 h ++ leBytes 4 nb)
        (updPlace (fun q => { q with nextSeq := h + 1, seqs := q.seqs ++ [⟨h, ctx, k, heads, format, base, nb, []⟩] }) s)

/-- Share one page: map it and add 1 to its REFS, at the command's beat (R212). -/
def sharePage (k : Nat) (dst : KvSeq) (j : Nat) (m : KvMap) (s : State) : State :=
  endOld k dst.ctx (dst.base / 65536 + j) (refPage m.frame (setSeqMap dst.handle j (some ⟨m.frame, false, false, false, false⟩) s))

/-- The source mappings of the shared pages that are present. -/
def sharedMaps (src : KvSeq) (l : List Nat) : List (Nat × KvMap) :=
  l.filterMap fun j => (seqMap src j).bind fun m => if m.dropped then none else some (j, m)

def destFree (dst : KvSeq) (j : Nat) : Bool :=
  match seqMap dst j with
  | none => true
  | some m => m.dropped

def kvShareBody (p : Post) (seq first count flags src : Nat) (s : State) : Reply :=
  let k := postTarget p
  match findSeq s k seq, findSeq s k src with
  | some d, some o =>
    let l := blockPages o first count
    let m := sharedMaps o l
    if count = 0 || flags != 0 || d.heads != o.heads || d.format != o.format || o.nb < first + count
        || d.nb < first + count then .done stBadArg [] s
    else if !(blockPages d first count).all (destFree d) || m.length != l.length || inBatch s k seq
        || m.any fun e => inWriteSet s k e.2.frame then .done stBadState [] s
    else if m.any fun e => match findPage s e.2.frame with
        | some g => 65535 ≤ g.refs
        | none => false then .done stShareLimit [] s
    else
      .done stOk (leBytes 4 l.length ++ zeros 4)
        (forAll ((blockPages d first count).zip m) (fun e => sharePage k d e.1 e.2.2) s)
  | _, _ => .done stBadArg [] s

/-- Release one page of a sequence: unmap it, or clear its dropped mark (R214). -/
def releasePage (k h j : Nat) (s : State) : State :=
  match findSeq s k h with
  | none => s
  | some q => match seqMap q j with
    | none => s
    | some m => if m.dropped then setSeqMap h j none s
      else unrefPage k m.frame (some (q.ctx, q.base / 65536 + j)) (setSeqMap h j none s)

def deleteSeq (h : Nat) : State → State := updPlace fun p => { p with seqs := p.seqs.filter fun q => q.handle != h }

/-- Release every page of a sequence and delete it (R214, R221, R389). -/
def destroySeq (k h : Nat) (s : State) : State :=
  match findSeq s k h with
  | none => s
  | some q => deleteSeq h (forAll (q.maps.map (·.1)) (fun j => releasePage k h j) s)

def kvReleaseBody (p : Post) (seq first count flags src : Nat) (s : State) : Reply :=
  let k := postTarget p
  match findSeq s k seq with
  | none => .done stBadArg [] s
  | some q =>
    let destroy := flags % 2 == 1
    if (count = 0 && !destroy) || 1 < flags || src != 0 || (!destroy && q.nb < first + count) then .done stBadArg [] s
    else if inBatch s k seq then .done stBadState [] s
    else
      let l := if destroy then q.maps.map (·.1) else blockPages q first count
      let live := l.filterMap fun j => (seqMap q j).bind fun m => if m.dropped then none else some m.frame
      if live.any fun f => (findPage s f).any fun g => g.refs == 0 then .done stBadState [] s else
      let t := forAll l (fun j => releasePage k seq j) s
      let u := if destroy then deleteSeq seq t else t
      let waiting := (live.dedup.filter fun f => match findPage u f with
        | some g => g.refs == 0
        | none => false).length
      .done stOk (leBytes 4 live.length ++ leBytes 4 waiting) u

def kvMarkBody (p : Post) (seq first count flags src : Nat) (s : State) : Reply :=
  let k := postTarget p
  match findSeq s k seq with
  | none => .done stBadArg [] s
  | some q =>
    if count = 0 || 1 < flags || src != 0 || q.nb < first + count then .done stBadArg [] s
    else
      .done stOk [] (forAll (blockPages q first count) (fun j t => updSeq seq (fun x =>
        { x with maps := tset none x.maps j ((seqMap x j).map fun m =>
            if m.dropped then m else { m with droppable := flags == 1 }) }) t) s)

/-- The blocks of a sequence with a dropped page, as (head, block), ascending (R220, R224). -/
def droppedBlocks (q : KvSeq) : List (Nat × Nat) :=
  ((q.maps.filterMap fun e => e.2.bind fun m =>
    if m.dropped then some (e.1 / pagesPerBlock q.format) else none).dedup).map fun b => (b / q.nb, b % q.nb)

/-- An entry of R220. -/
def blockEntry (h : Nat) (e : Nat × Nat) : List Byte := leBytes 4 h ++ leBytes 4 e.1 ++ leBytes 8 e.2

def kvQueryBody (p : Post) (seq firstEntry : Nat) (s : State) : Reply :=
  let k := postTarget p
  let free := leBytes 4 (freePages s k)
    ++ leBytes 4 (s.place.pages.filter fun g => g.part == k && g.refs != 0 && pageDroppable s g.frame).length
  if seq = 0xFFFF_FFFF then .done stOk (free ++ zeros 16) s
  else match findSeq s k seq with
    | none => .done stBadArg [] s
    | some q =>
      let l := ((droppedBlocks q).drop firstEntry).take 250
      let count (b : Bool) := (q.maps.filter fun e => match e.2 with
        | some m => m.dropped == b
        | none => false).length
      .done stOk (free ++ leBytes 4 (count false) ++ leBytes 4 (count true) ++ leBytes 4 l.length ++ zeros 4
        ++ l.flatMap (blockEntry q.handle)) s

def execKvCreate (p : Post) (ctx heads format base maxPos : Nat) (s : State) : Result State :=
  .next (mailbox p rowKvCreate 3 (kvCreateBody p ctx heads format base maxPos) s)
def execKvShare (p : Post) (seq first count flags src : Nat) (s : State) : Result State :=
  .next (mailbox p rowKvShare 3 (kvShareBody p seq first count flags src) s)
def execKvRelease (p : Post) (seq first count flags src : Nat) (s : State) : Result State :=
  .next (mailbox p rowKvRelease 3 (kvReleaseBody p seq first count flags src) s)
def execKvMark (p : Post) (seq first count flags src : Nat) (s : State) : Result State :=
  .next (mailbox p rowKvMark 3 (kvMarkBody p seq first count flags src) s)
def execKvQuery (p : Post) (seq firstEntry : Nat) (s : State) : Result State :=
  .next (mailbox p rowKvQuery 1 (kvQueryBody p seq firstEntry) s)

/-! ## Events -/

/-- A page at REFS 0 returns to the pool at its moment (R216). -/
def reclaimReady (s : State) (k f : Nat) : Bool := (findPage s f).any fun g => g.part == k && pageReturns s g

def execKvPageReclaim (part frame : Nat) (s : State) : Result State :=
  event "KV_PAGE_RECLAIM" (reclaimReady s part frame) (returnPage frame s)

/-- One touch of a copy: a read, or the write that ends the copy (R213). -/
def cowTouch (k : Nat) (s : State) : State :=
  match nextTouch s.clock.beat (s.part k).copies with
  | none => s
  | some (i, false) =>
    updPart k (fun q => { q with copies := setAt q.copies i fun c => { c with readDone := true, since := s.clock.beat } }) s
  | some (i, true) =>
    match (s.part k).copies[i]? with
    | none => s
    | some c => updPart k (fun q => { q with copies := q.copies.eraseIdx i }) (copyT1 c.src c.dst kvPageBytes s)

def execCowCopyDone (part : Nat) (s : State) : Result State :=
  event "COW_COPY_DONE" (nextTouch s.clock.beat (s.part part).copies).isSome (cowTouch part s)

/-- A pool bale whose 32 pages are all free leaves the pool, and its frame can serve a bale that waits (R238). -/
def poolReturn (k f : Nat) (s : State) : State :=
  serveFrames k (unmarkFrame f (updPlace (fun p => { p with pool := p.pool.filter fun e => e != (k, f) }) s))

def execKvPoolBaleReturn (part frame : Nat) (s : State) : Result State :=
  event "KV_POOL_BALE_RETURN" (s.place.pool.contains (part, frame) && poolBaleFree s frame)
    (poolReturn part frame s)

end Sys2Proof.Machine
end

