-- ==== Sys2Proof/Machine/PageTables.lean ====
section
/-! DEFINITION. The page tables of a context (R263 to R265), as the shepherd writes them from the records of tensors and sequences: the
entries of the four levels, and a walk over them. The place of a table within the reserve is left open by the manual and read by nothing
(log 65). -/

namespace Sys2Proof.Machine

/-- A page table entry (R264). `frame` is bits [51:16] of the device physical address. -/
structure Pte where
  valid : Bool
  kind : Nat
  dirty : Bool
  accessed : Bool
  tier : Nat
  dropped : Bool
  tslot : Nat
  frame : Nat
  soft : Nat
  deriving DecidableEq, Repr

def Pte.empty : Pte := ⟨false, 0, false, false, 0, false, 0, 0, 0⟩

/-- The entry's 64 bits. -/
def Pte.word (e : Pte) : Nat :=
  boolNat e.valid + 2 * e.kind + 8 * boolNat e.dirty + 16 * boolNat e.accessed + 32 * e.tier + 128 * boolNat e.dropped
    + 2048 * e.tslot + 65536 * e.frame + 2 ^ 52 * e.soft

/-- TIER: the region of R229 in which an address lies. -/
def tierOf (pa : Nat) : Nat := if t2Base ≤ pa then 2 else if 2 ^ 42 ≤ pa then 1 else 0

/-- The index of a virtual address in its table of a level (R263). -/
def tableIndex (level va : Nat) : Nat := va / 2 ^ (40 - 8 * level) % 256

/-- The bytes that an entry of a level covers, and the first of them. -/
def entrySpan (level : Nat) : Nat := 2 ^ (40 - 8 * level)
def entryBase (level va : Nat) : Nat := va / entrySpan level * entrySpan level

/-- DIRTY, ACCESSED and SOFT of the page at a virtual address. -/
def pageMarks (s : State) (ctx va : Nat) : Bool × Bool × Nat :=
  match tensorAt s ctx va with
  | some (t, i, _) =>
    let tag := ((t.maps.find? fun m => m.ctx == ctx && m.va ≤ va && va < m.va + t.bales.length * baleBytes).map (·.tag)).getD 0
    ((t.bales[i]?).any (·.dirty), (t.bales[i]?).any (·.accessed), tag)
  | none => match seqAt s ctx va with
    | some (q, j) => ((tget none q.maps j).any (·.dirty), (tget none q.maps j).any (·.accessed), 0)
    | none => (false, false, 0)

/-- The level-3 entry of a page. -/
def pageEntry (s : State) (ctx va : Nat) : Pte :=
  let m := pageMarks s ctx va
  let at_ (pa : Nat) : Pte := ⟨true, 1, m.1, m.2.1, tierOf pa, false, 0, pa / 65536, m.2.2⟩
  match translate s ctx (entryBase 3 va) with
  | .unmapped => Pte.empty
  | .dropped => { Pte.empty with kind := 1, dropped := true }
  | .t1 pa => at_ pa
  | .t2 pa => at_ pa

/-- Two frames lie in the same stack, commons or T2 window. -/
def sameRegion (a b : Nat) : Bool := tierOf a == tierOf b && (tierOf a == 2 || a / 2 ^ 36 == b / 2 ^ 36 || (tierOf a == 1 && a / 2 ^ 40 == b / 2 ^ 40))

/-- Whether the engine uses a block entry (R263): 16 aligned MiB that map to 16 contiguous, aligned MiB of one region with one TAG. -/
def usesBlock (s : State) (ctx va : Nat) : Bool :=
  let b := entryBase 2 va
  let e0 := pageEntry s ctx b
  e0.valid && e0.frame % 256 == 0 && (List.range 256).all fun i =>
    let e := pageEntry s ctx (b + 65536 * i)
    e.valid && e.frame == e0.frame + i && e.soft == e0.soft && sameRegion (65536 * e.frame) (65536 * e0.frame)

/-- A block entry: written or named where one of its pages is. -/
def largeEntry (s : State) (ctx va : Nat) : Pte :=
  let l := (List.range 256).map fun i => pageEntry s ctx (entryBase 2 va + 65536 * i)
  { pageEntry s ctx (entryBase 2 va) with kind := 2, dirty := l.any (·.dirty), accessed := l.any (·.accessed) }

/-- An entry for the table below, where anything under it is mapped: the tables lie in the partition's reserve, 32 to a frame (R265). -/
def tableEntry (s : State) (ctx level va : Nat) : Pte :=
  if !rangeMapped s ctx (entryBase level va) (entrySpan level) then Pte.empty
  else
    let k := ((ctxOf s ctx).map (·.part)).getD 0
    let n := Config.tablePlace ctx (level + 1) (va / entrySpan level)
    ⟨true, 0, false, false, 0, false, n % 32, (paddockBase (((enabledStacks s k).head?).getD 0) + n / 32 * 65536) / 65536, 0⟩

/-- The entry of a level that a virtual address reaches. -/
def entryAt (s : State) (ctx level va : Nat) : Pte :=
  if level = 3 then pageEntry s ctx va
  else if level = 2 && usesBlock s ctx va then largeEntry s ctx va
  else tableEntry s ctx level va

/-- A walk of the tables from a level on (R263, R266). -/
def walkFrom (s : State) (ctx va level : Nat) : Nat → Place
  | 0 => .unmapped
  | fuel + 1 =>
    let e := entryAt s ctx level va
    let leads (n : Nat) : Place :=
      let pa := 65536 * e.frame + va % n
      if e.tier = 2 then .t2 pa else .t1 pa
    if !e.valid then (if e.dropped then .dropped else .unmapped)
    else match e.kind with
      | 0 => walkFrom s ctx va (level + 1) fuel
      | 1 => leads 65536
      | 2 => leads (2 ^ 24)
      | _ => .unmapped

def walk (s : State) (ctx va : Nat) : Place := walkFrom s ctx va 0 4

end Sys2Proof.Machine
end

