-- ==== Sys2Proof/Machine/Tensors.lean ====
section
/-! DEFINITION. Tensor descriptors (R117, R118): where an element lies in each layout (R118, R144, R207, R232), padding values
(R134), and reading and writing elements by device virtual address. -/

namespace Sys2Proof.Machine

/-! ## Descriptors -/

def Desc.null : Desc where
  base := 0
  format := 0
  layout := 0
  qmode := 0
  ls := 0
  qfmt := 0
  padmode := 0
  padval := 0
  clipLimit := 0
  ext := [0, 0, 0, 0, 0]
  str := [0, 0, 0, 0]
  pad := [0, 0, 0, 0, 0, 0]
  scaleA := 0
  scaleW := 0
  scaleC := 0
  bscale := 0
  ledgerList := 0
  ledgerAct := 0
  codebook := 0
  ledgerW := 0
  rsv := false

def extAt (d : Desc) (i : Nat) : Nat := d.ext.getD i 0
def strAt (d : Desc) (i : Nat) : Nat := d.str.getD (i - 1) 0
def padAt (d : Desc) (i : Nat) : Nat := d.pad.getD i 0

/-- The rows of a tensor as the Fold sees them (R118); the positions of a KVPAGED one (R206). -/
def rowsOf (d : Desc) : Nat := if d.layout = 4 then extAt d 1 else extAt d 1 * extAt d 2 * extAt d 3 * extAt d 4

/-- The row blocks of a tensor (R28). -/
def rowBlocks (d : Desc) : Nat := ceilDiv (rowsOf d) 256

def colBlocks (d : Desc) : Nat := ceilDiv (extAt d 0) 256

def bitsOf (d : Desc) : Nat := formatBits d.format

/-- Coordinates of a row: EXT1 fastest (R118). -/
def rowCoord (d : Desc) (r : Nat) : List Nat :=
  [r % extAt d 1, r / extAt d 1 % extAt d 2, r / extAt d 1 / extAt d 2 % extAt d 3, r / extAt d 1 / extAt d 2 / extAt d 3]

/-- Packed lengths L0 to L4 (R118). -/
def packedLen (d : Desc) : Nat → Nat
  | 0 => ceilDiv (extAt d 0 * bitsOf d) 8
  | n + 1 => if extAt d (n + 1) = 1 then packedLen d n else (extAt d (n + 1) - 1) * strAt d (n + 1) + packedLen d n

/-- Channels per block of a blocked layout (R144). -/
def blockOf (layout : Nat) : Nat := if layout = 2 then 32 else 16

/-- Where an element lies: its byte address and its first bit in that byte. -/
structure Loc where
  addr : Nat
  low : Nat
  deriving DecidableEq, Repr

/-- ROWMAJOR (R118) and the blocked layouts (R144), from a base given. -/
def elemLoc (d : Desc) (base c : Nat) (x : List Nat) : Loc :=
  let w := x.getD 0 0
  let outer := strAt d 4 * x.getD 3 0 + strAt d 3 * x.getD 2 0 + strAt d 2 * x.getD 1 0
  if d.layout = 1 || d.layout = 2 then
    let b := blockOf d.layout
    ⟨base + outer + strAt d 1 * (c / b) + (w * b + c % b) * (bitsOf d / 8), 0⟩
  else ⟨base + outer + strAt d 1 * w + c * bitsOf d / 8, c * bitsOf d % 8⟩

/-- KVPAGED: dimension e of key or value position j of a head (R207). -/
def kvLoc (fmt base : Nat) (value : Bool) (j e : Nat) : Loc :=
  let b := j / 256
  let i := j % 256
  if pagesPerBlock fmt = 1 then
    ⟨base + 65536 * b + (if value then 32768 + 128 * i + e else 256 * e + i), 0⟩
  else if value then
    ⟨base + 131072 * b + 65536 + 256 * i + 64 * (e % 64 / 16) + 32 * (e / 64) + 2 * (e % 16), 0⟩
  else ⟨base + 131072 * b + 512 * e + 128 * (i % 64 / 16) + 32 * (i / 64) + 2 * (i % 16), 0⟩

/-- K positions that one ac consumes, in the formats of R80; 16-bit formats take four ac a position. -/
def posPerAc (fmt : Nat) : Nat :=
  if fmt ≤ 4 then 4 else if fmt ≤ 6 then 2 else 1

/-- TILED: column n, reduction index r of a reduction length R (R232), in the fields of R80. -/
def tiledLoc (fmt base len n r : Nat) : Loc :=
  let w := formatBits fmt
  let strip := base + n / 256 * (32 * w * (ceilDiv len 128 * 128))
  let tile := strip + 4096 * w * (r / 128)
  let i := r % 128
  let j := n % 256
  if w = 16 then ⟨tile + 512 * i + 128 * (j % 64 / 16) + 2 * (16 * (j / 64) + j % 16), 0⟩
  else
    let p := posPerAc fmt
    let x := p * w * j + w * (i % p)
    ⟨tile + 32 * p * w * (i / p) + x / 8, x % 8⟩

/-- Bytes of a TILED tensor over its column blocks (R232). -/
def tiledBytes (fmt len cols : Nat) : Nat := ceilDiv cols 256 * (32 * formatBits fmt * (ceilDiv len 128 * 128))

/-- The location of row r, element c of a tensor in any layout that the Fold reads or writes by rows (R118, R144, R206). -/
def rowLoc (d : Desc) (r c : Nat) : Loc :=
  if d.layout = 4 then kvLoc d.format d.base (extAt d 2 == 2) r c
  else elemLoc d d.base c (rowCoord d r)

/-! ## Reading and writing elements -/

/-- The bits of an element of the given width at a location, from a byte reader. -/
def readBits (rd : Nat → Byte) (bits : Nat) (l : Loc) : Nat :=
  if bits < 8 then (rd l.addr).toNat / 2 ^ l.low % 2 ^ bits
  else ofLe ((List.range (bits / 8)).map fun i => rd (l.addr + i))

/-- The bytes that change when an element is written: the whole bytes, or one byte with its field replaced. -/
def elemBytes (rd : Nat → Byte) (bits : Nat) (l : Loc) (v : Nat) : List Byte :=
  if bits < 8 then
    let old := (rd l.addr).toNat
    [BitVec.ofNat 8 (old - old / 2 ^ l.low % 2 ^ bits * 2 ^ l.low + v % 2 ^ bits * 2 ^ l.low)]
  else leBytes (bits / 8) v

/-- An FP32 or INT32 word at an address. -/
def readWord (rd : Nat → Byte) (addr : Nat) : Word32 := BitVec.ofNat 32 (readBits rd 32 ⟨addr, 0⟩)

/-- Element i of a packed vector of a ROWMAJOR tensor's row. -/
def vecBits (rd : Nat → Byte) (d : Desc) (r c : Nat) : Nat := readBits rd (bitsOf d) (rowLoc d r c)

def vecNum (rd : Nat → Byte) (d : Desc) (r c : Nat) : Num := elemNum d.format (vecBits rd d r c)

/-- Entry k (from 1) of a LIST, as a signed word; entry 0 is the count (R118). -/
def listWord (rd : Nat → Byte) (d : Desc) (k : Nat) : Int := signedField 32 (readBits rd 32 ⟨d.base + 4 * k, 0⟩)

/-! ## Padding (R134) -/

/-- The padding code of a format: CONSTANT converted, ZERO_POINT raw, NEG_INF; REPLICATE reads the nearest element instead. In the
formats that the table of R134 does not list NEG_INF is the most negative value (DESIGN CHOICE, log 54). -/
def padCode (d : Desc) : Nat :=
  match d.padmode with
  | 0 => elemBits d.format (num32 (BitVec.ofNat 32 d.padval))
  | 1 => d.padval % 256
  | _ => match d.format with
    | 0x05 => 8
    | 0x07 => 128
    | 0x08 => 0xFE
    | 0x09 => 0xFC
    | 0x0A => 0xFF80
    | 0x0B => 0xFC00
    | 0x0C => 0xFF800000
    | f => elemBits f (.inf true)

/-- The nearest coordinate inside an extent. -/
def nearest (x : Int) (ext : Nat) : Nat := if x < 0 then 0 else min x.toNat (ext - 1)

/-- Whether a signed coordinate lies inside an extent. -/
def inside (x : Int) (ext : Nat) : Bool := 0 ≤ x && x < ext

/-! ## Bytes of a context's memory -/

/-- A byte at a virtual address of a context. -/
def byteVa (s : State) (ctx va : Nat) : Byte :=
  match toT1 s ctx va with
  | some pa => readT1 s pa
  | none => 0

/-- Write bytes at a virtual address whose bytes lie in one page. -/
def writeVaPage (ctx va : Nat) (d : List Byte) (s : State) : State :=
  match toT1 s ctx va with
  | some pa => writeT1 pa d s
  | none => s

/-- Clear n bytes of T1 that lie in one page of 64 KiB. -/
def clearT1 (pa n : Nat) (s : State) : State :=
  if n = kvPageBytes then zeroPage pa s else writeT1 pa (zeros n) s

/-- Zero a range of a context's memory, page by page. -/
def zeroVa (ctx va n : Nat) (s : State) : State :=
  forAll (rangePages va n) (fun a t =>
    let lo := max a va
    let hi := min (a + kvPageBytes) (va + n)
    match toT1 t ctx lo with
    | some pa => clearT1 pa (hi - lo) t
    | none => t) s

/-! ## Descriptor bytes (R117) -/

/-- A little-endian field of a byte string. -/
def fieldAt (b : List Byte) (off n : Nat) : Nat := ofLe ((b.drop off).take n)

/-- Decode a descriptor's 128 bytes. -/
def decodeDesc (b : List Byte) : Desc where
  base := fieldAt b 0 6
  format := fieldAt b 8 1
  layout := fieldAt b 9 1
  qmode := field (fieldAt b 10 1) 0 1
  ls := field (fieldAt b 10 1) 1 3
  qfmt := field (fieldAt b 10 1) 4 2
  padmode := fieldAt b 11 1
  padval := fieldAt b 12 4
  clipLimit := fieldAt b 16 4
  ext := (List.range 5).map fun i => fieldAt b (24 + 4 * i) 4
  str := (List.range 4).map fun i => fieldAt b (48 + 8 * i) 6
  pad := (List.range 6).map fun i => fieldAt b (80 + 2 * i) 2
  scaleA := fieldAt b 96 2
  scaleW := fieldAt b 98 2
  scaleC := fieldAt b 100 2
  bscale := fieldAt b 102 2
  ledgerList := fieldAt b 104 2
  ledgerAct := fieldAt b 106 2
  codebook := fieldAt b 108 2
  ledgerW := fieldAt b 110 2
  rsv := fieldAt b 6 2 != 0 || field (fieldAt b 10 1) 6 2 != 0 || fieldAt b 20 4 != 0 || fieldAt b 44 4 != 0
    || (List.range 4).any (fun i => fieldAt b (54 + 8 * i) 2 != 0) || fieldAt b 92 4 != 0 || fieldAt b 112 16 != 0

/-- The 128 bytes of a descriptor, reserved fields 0. -/
def encodeDesc (d : Desc) : List Byte :=
  leBytes 8 d.base ++ leBytes 1 d.format ++ leBytes 1 d.layout ++ leBytes 1 (d.qmode + 2 * d.ls + 16 * d.qfmt)
    ++ leBytes 1 d.padmode ++ leBytes 4 d.padval ++ leBytes 4 d.clipLimit ++ zeros 4
    ++ (List.range 5).flatMap (fun i => leBytes 4 (extAt d i)) ++ zeros 4
    ++ (List.range 4).flatMap (fun i => leBytes 8 (strAt d (i + 1)))
    ++ (List.range 6).flatMap (fun i => leBytes 2 (padAt d i)) ++ zeros 4
    ++ leBytes 2 d.scaleA ++ leBytes 2 d.scaleW ++ leBytes 2 d.scaleC ++ leBytes 2 d.bscale
    ++ leBytes 2 d.ledgerList ++ leBytes 2 d.ledgerAct ++ leBytes 2 d.codebook ++ leBytes 2 d.ledgerW ++ zeros 16

end Sys2Proof.Machine
end

