-- ==== Sys2Proof/Machine/Codec.lean ====
section
/-! DEFINITION. The video codec engines (R301 to R325): sessions, commands, the colour conversions of R310 and R311, and the end of
a frame. What a coding standard makes of a bitstream comes with the frame's report (log 13). -/

namespace Sys2Proof.Machine

/-! ## Guilty searches on an engine (R421, R422) -/

/-- The level-2 step on an engine, if one is in progress. -/
def engineStep (s : State) (e : Nat) : Option LadderStep := s.recov.steps.find? fun x => x.level == 2 && x.engine == e

/-- Whether an engine serves a context's work now: not during its reset, and in a search only the suspect that is replayed and
contexts that are no suspects (R422). -/
def engineServes (s : State) (e ctx : Nat) : Bool :=
  match engineStep s e with
  | none => true
  | some st => st.search && match st.suspects.find? fun x => x.ctx == ctx with
    | some x => x.state == 1
    | none => true

def updStep (e : Nat) (f : LadderStep → LadderStep) : State → State :=
  updRecov fun v => { v with steps := mapIf (fun x => x.level == 2 && x.engine == e) f v.steps }

def dropStep (e : Nat) : State → State :=
  updRecov fun v => { v with steps := v.steps.filter fun x => !(x.level == 2 && x.engine == e) }

/-- The PART byte of an engine's records: its first partition, or the module. -/
def engineHome (s : State) (e : Nat) : Nat := (engineParts s e).headD moduleWide

/-- A search ends when no suspect waits or is replayed: with no guilty one, a TRANSIENT record is written (R422). -/
def endSearch (e : Nat) (s : State) : State :=
  match engineStep s e with
  | none => s
  | some st =>
    if st.search && !st.suspects.any fun x => x.state ≤ 1 then
      let t := dropStep e s
      if st.suspects.any fun x => x.state == 3 then t
      else daybook 0x0064 (engineHome s e) (engineId e) 0 (leBytes 2 st.suspects.length) t
    else s

/-- The suspect that is replayed passes: it is cleared (R422). -/
def clearSuspect (e ctx : Nat) (s : State) : State :=
  endSearch e (updStep e (fun st =>
    if st.search && st.suspects.any (fun x => x.ctx == ctx && x.state == 1) then
      { st with suspects := mapIf (fun x => x.ctx == ctx && x.state == 1) (fun x => { x with state := 2 }) st.suspects,
                turnAt := s.clock.elapsed + 1 }
    else st) s)

/-! ## Sync counters -/

def syncValue (s : State) (k c : Nat) : Nat := tget 0 (s.part k).sync c

def setSync (k c v : Nat) : State → State := updPart k fun p => { p with sync := tset 0 p.sync c v }

/-- Add to a sync counter, saturating at 2⁶⁴ − 1 (R395). -/
def addSync (k c v : Nat) (s : State) : State := setSync k c (satAdd 64 (syncValue s k c) v) s

/-! ## Sessions and pipelines -/

def findSession (s : State) (h : Nat) : Option Session := s.codec.sessions.find? fun x => x.handle == h

def updSession (h : Nat) (f : Session → Session) : State → State :=
  updCodec fun c => { c with sessions := mapIf (fun x => x.handle == h) f c.sessions }

/-- The engine bit of a pipeline (R402). -/
def pipeBit (p : Nat) : Nat := 100 + p

/-- Whether a session's pipeline and its codec drover serve it (R422). -/
def sessionServed (s : State) (x : Session) : Bool :=
  engineServes s (pipeBit x.pipe) x.ctx && engineServes s (112 + hostDroverOf s x.part) x.ctx

/-- Open sessions of a pipeline. -/
def pipeSessions (s : State) (p : Nat) : List Session := s.codec.sessions.filter fun x => x.pipe == p

/-- Whether command x is taken before y: sampling beat, partition, session handle (R305). -/
def takenBefore (x y : Session) : Bool :=
  match x.cmd, y.cmd with
  | some a, some b =>
    a.sampled < b.sampled || (a.sampled == b.sampled && (x.part < y.part || (x.part == y.part && x.handle < y.handle)))
  | _, _ => false

/-- The session whose command a pipeline takes next. -/
def nextSession (s : State) (p : Nat) : Option Session :=
  ((pipeSessions s p).filter fun x => x.cmd.isSome && sessionServed s x).foldl (fun m x => match m with
    | none => some x
    | some y => if takenBefore x y then some x else some y) none

/-- Start the next frame of an idle pipeline: of its command in progress, else of the next command (R304, R305). -/
def kickPipe (p : Nat) (s : State) : State :=
  let q := s.pipe p
  if q.busy || q.power != 1 then s
  else
    let cur := (q.session.bind (findSession s)).filter fun x => x.cmd.isSome && sessionServed s x
    match cur.orElse fun _ => nextSession s p with
    | some x => updPipe p (fun q => { q with busy := true, session := some x.handle, frameAt := now s }) s
    | none => s

/-- The result of CODEC.DECODE (R313). -/
def decodeResult (c : CodecCmd) : List Byte :=
  leBytes 4 c.used ++ leBytes 4 c.frames ++ leBytes 4 c.groups ++ leBytes 4 c.concealed ++ leBytes 4 c.dropped
    ++ leBytes 2 c.errCode ++ zeros 2 ++ leBytes 4 c.errFrame ++ leBytes 4 c.errOffset

/-- The result of CODEC.ENCODE (R320). -/
def encodeResult (c : CodecCmd) : List Byte :=
  leBytes 4 c.used ++ leBytes 4 c.frames ++ leBytes 4 c.capMiss ++ leBytes 4 c.wave ++ leBytes 4 c.nonfinite

def codecResult (c : CodecCmd) : List Byte := if c.encode then encodeResult c else decodeResult c

/-- End a session's command with a status; the pipeline leaves it. -/
def endCodecCmd (h status : Nat) (result : List Byte) (s : State) : State :=
  match findSession s h with
  | none => s
  | some x =>
    let t := updPipe x.pipe (fun q => if q.session == some h then { q with busy := false, session := none } else q)
      (updSession h (fun y => { y with cmd := none, state := if y.state = 2 then 2 else 0 }) s)
    match findProg t (fun g => g.job == .codec h) with
    | some g => completeProg g status result t
    | none => t

/-- Remove a session: its holds go, its work buffer is zeroed, and a pipeline without sessions is switched off (R301, R307, R324). -/
def removeSession (h : Nat) (s : State) : State :=
  match findSession s h with
  | none => s
  | some x =>
    let t := updCodec (fun c => { c with sessions := c.sessions.filter fun y => y.handle != h })
      (zeroVa x.ctx x.params.workVa x.params.workBytes s)
    let u := if (pipeSessions t x.pipe).isEmpty then updPipe x.pipe (fun q => if q.power = 1 then { q with power := 0 } else q) t
      else t
    match findProg u (fun g => g.job == .close h) with
    | some g => completeProg g stOk [] u
    | none => u

/-- Close a session at once, its command ending with a status; a frame in progress is abandoned (R324). -/
def abortSession (status h : Nat) (s : State) : State :=
  match findSession s h with
  | none => s
  | some x =>
    let t := if x.cmd.isSome then endCodecCmd h status ((x.cmd.map codecResult).getD []) s else s
    kickPipe x.pipe (removeSession h t)

/-- Whether a pipeline is in the middle of a frame of a session. -/
def midFrame (s : State) (x : Session) : Bool := (s.pipe x.pipe).busy && (s.pipe x.pipe).session == some x.handle

/-! ## Checks of CODEC.OPEN (R302, R306, R309) -/

def profileFits (standard profile bitDepth : Nat) : Bool :=
  match standard with
  | 1 => profile == 0
  | 2 => profile == 1 && bitDepth == 8 || profile == 2
  | 3 => profile == 100
  | _ => false

def highestLevel (standard dir : Nat) : Nat :=
  match standard, dir with
  | 1, 0 => 17
  | 1, _ => 14
  | 2, 0 => 183
  | 2, _ => 156
  | _, _ => 61

def between (lo hi n : Nat) : Bool := lo ≤ n && n ≤ hi

/-- The stream fields of CODEC.OPEN. -/
def streamFits (o : CodecParams) : Bool :=
  o.dir ≤ 1 && between 1 3 o.standard && !(o.dir == 1 && o.standard == 3) && (o.bitDepth == 8 || o.bitDepth == 10)
    && profileFits o.standard o.profile o.bitDepth && o.level ≤ highestLevel o.standard o.dir
    && o.cls ≤ (if o.dir = 0 then 1 else 0)
    && (if o.dir = 1 then o.framing == 0 else if o.standard = 1 then o.framing ≤ 1 else between 2 3 o.framing)
    && (o.pipe == 255 || o.pipe ≤ (if o.dir = 1 then 1 else 3))

/-- The picture fields of CODEC.OPEN. -/
def pictureFits (o : CodecParams) : Bool :=
  between 64 (if o.dir = 0 then 7680 else 3840) o.width && o.width % 2 == 0
    && between 64 (if o.dir = 0 then 4320 else 2160) o.height && o.height % 2 == 0
    && between 1 16 o.pw && o.width % o.pw == 0 && between 1 16 o.ph && o.height % o.ph == 0 && between 1 16 o.pt
    && field o.colour 0 2 ≤ 1 && field o.colour 4 2 ≤ 2
    && !(o.dir == 1 && (field o.colour 2 2 == 0 || field o.colour 4 2 == 0))
    && o.workVa % baleBytes == 0

/-- The rate fields of CODEC.OPEN, and the multipliers of an encoder (R311). -/
def rateFits (o : CodecParams) : Bool :=
  if o.dir = 0 then o.qi == 0 && o.refresh == 0 && o.window == 0
  else o.qi ≤ 255 && between 1 256 o.refresh && between 1 256 o.window
    && o.mul.all fun m => match num32 (BitVec.ofNat 32 m) with
      | .fin _ n _ => n != 0
      | _ => false

/-- The byte extent of one patch group. -/
def groupExtent (d : Desc) : Nat :=
  if d.layout = 0 then packedLen d 2
  else (extAt d 2 - 1) * strAt d 2 + (extAt d 0 / blockOf d.layout - 1) * strAt d 1
    + extAt d 1 * blockOf d.layout * (bitsOf d / 8)

/-- The strides of a blocked layout (R145), the dimensions above 2 being 1. -/
def blockedFits (d : Desc) : Bool :=
  let b := blockOf d.layout
  8 ≤ bitsOf d && extAt d 0 % b == 0 && strAt d 1 % 64 == 0 && strAt d 2 % 64 == 0
    && extAt d 1 * b * (bitsOf d / 8) ≤ strAt d 1 && strAt d 1 * (extAt d 0 / b) ≤ strAt d 2

/-- The strides of ROWMAJOR dimensions 1 and 2 (R118). -/
def rowMajorFits (d : Desc) : Bool :=
  [1, 2].all fun i => extAt d i == 1 || (strAt d i % 64 == 0 && packedLen d (i - 1) ≤ strAt d i)

/-- R309. -/
def patchDescFits (o : CodecParams) : Bool :=
  let d := o.desc
  d.base == 0 && !d.rsv && (d.layout ≤ 2) && [0x07, 0x08, 0x09, 0x0A].contains d.format
      || o.dir == 1 && d.base == 0 && !d.rsv && d.layout ≤ 2 && [0x0B, 0x0C].contains d.format

def patchShapeFits (o : CodecParams) : Bool :=
  let d := o.desc
  d.ext == [3 * o.pt * o.ph * o.pw, o.width / o.pw, o.height / o.ph, 1, 1]
    && (if d.layout = 0 then rowMajorFits d else blockedFits d) && groupExtent d ≤ strAt d 3
    && d.pad.all (· == 0) && d.padmode == 0 && d.padval == 0 && d.clipLimit == 0 && d.scaleA == 0 && d.scaleW == 0
    && d.scaleC == 0 && d.bscale == 0

/-- NREF and WORK_NEED (R307). -/
def workNeed (o : CodecParams) : Nat :=
  let nref := if o.dir = 1 then 4 else if o.standard = 1 then 8 else 16
  let fb := ceilDiv o.width 64 * 64 * (ceilDiv o.height 64 * 64) * 3 / 2 * (if o.bitDepth = 10 then 2 else 1)
  (nref + 2) * fb + 64 * mib

/-- The pipelines that may hold a session of a direction and PIPE field: EP0 and EP1 are CDC_PIPE 0 and 1 (R301, R325). -/
def pipeChoices (s : State) (o : CodecParams) : List Nat :=
  if o.pipe = 255 then (if o.dir = 1 then [0, 1] else [2, 3, 4, 5]).filter fun p => (s.pipe p).power != 2
  else [if o.dir = 1 then o.pipe else o.pipe + 2]

/-- The pipeline with the fewest sessions, the lowest on a tie (R305). -/
def choosePipe (s : State) (o : CodecParams) : Option Nat :=
  ((pipeChoices s o).filter fun p => (pipeSessions s p).length < 16).foldl (fun m p => match m with
    | none => some p
    | some q => if (pipeSessions s p).length < (pipeSessions s q).length then some p else some q) none

def codecOpenBody (p : Post) (o : CodecParams) : State → Reply :=
  withCtx p o.ctx fun _ s =>
    if !(streamFits o && pictureFits o && rateFits o && patchDescFits o && patchShapeFits o) || 2 ^ 48 < o.workVa + o.workBytes then
      .done stBadArg [] s
    else if o.workBytes < workNeed o then .done stNoSpace (shortRecord 1 (workNeed o - o.workBytes)) s
    else if (rangeCheck s o.ctx o.workVa o.workBytes).isSome || (pipeChoices s o).all (fun q => (s.pipe q).power == 2) then
      .done stBadState [] s
    else match choosePipe s o with
      | none => .done stNoSpace (shortRecord 1 0) s
      | some q =>
        let h := s.codec.nextSession
        let x : Session := { handle := h, ctx := o.ctx, part := postTarget p, pipe := q, params := o, state := 0, framesIn := 0,
                             framesOut := 0, held := [], pictures := [], lastClean := none, cmd := none, closing := false, bits := [], coded := 0,
                             holds := rangeBales s o.ctx o.workVa o.workBytes }
        .done stOk (leBytes 4 h ++ leBytes 1 (if o.dir = 1 then q else q - 2) ++ zeros 3 ++ leBytes 8 (workNeed o))
          (updPipe q (fun v => { v with power := 1 })
            (updCodec (fun c => { c with sessions := c.sessions ++ [x], nextSession := h + 1 }) s))

/-- A session that a command may name: its partition and, for a VF, its context's function (R362). -/
def namedSession (s : State) (p : Post) (h : Nat) : Option Session :=
  (findSession s h).filter fun x => x.part == postTarget p && (p.func == 0 || match ctxOf s x.ctx with
    | some c => c.func == p.func
    | none => false)

def newCodecCmd (s : State) (encode last key : Bool) (inVa bytes maxGroups outVa : Nat) (holds : List (Nat × Nat)) : CodecCmd where
  encode := encode
  sampled := s.clock.beat
  last := last
  key := key
  inVa := inVa
  bytes := bytes
  used := 0
  maxGroups := maxGroups
  outVa := outVa
  frames := 0
  decoded := 0
  groups := 0
  concealed := 0
  dropped := 0
  errCode := 0
  errFrame := 0
  errOffset := 0
  capMiss := 0
  wave := 0xFFFF_FFFF
  nonfinite := 0
  stopAtFrame := false
  holds := holds

/-- The check of the ranges of a codec command (R308). -/
def codecRanges (s : State) (ctx : Nat) (l : List (Nat × Nat)) : Option Nat :=
  let r := l.map fun e => if e.2 = 0 then none else if 2 ^ 48 < e.1 + e.2 then some stBadArg else rangeCheck s ctx e.1 e.2
  if r.contains (some stBadArg) then some stBadArg else if r.contains (some stBadState) then some stBadState else none

/-- Accept a codec command; its pipeline takes it up at the boundary, when every command of its beat is known (R305, R308). -/
def startCodecCmd (x : Session) (c : CodecCmd) (s : State) : Reply :=
  .accept none [] x.ctx x.part (.codec x.handle)
    (updSession x.handle (fun y => { y with cmd := some c, state := 1 }) s)

def codecDecodeBody (p : Post) (session : Nat) (last : Bool) (inVa bytes maxGroups outVa : Nat) (s : State) : Reply :=
  match namedSession s p session with
  | none => .done stBadArg [] s
  | some x =>
    if x.params.dir != 0 then .done stBadArg [] s
    else if x.state != 0 || x.closing then .done stBadState [] s
    else if 2 ^ 30 < bytes || (bytes = 0 && !last) || !between 1 4096 maxGroups then .done stBadLength [] s
    else
      let l := [(inVa, bytes), (outVa, (maxGroups - 1) * strAt x.params.desc 3 + groupExtent x.params.desc)]
      match codecRanges s x.ctx l with
      | some st => .done st [] s
      | none => startCodecCmd x (newCodecCmd s false last false inVa bytes maxGroups outVa
          (l.flatMap fun e => if e.2 = 0 then [] else rangeBales s x.ctx e.1 e.2).dedup) s

def codecEncodeBody (p : Post) (session : Nat) (last key : Bool) (inVa groups outVa outBytes : Nat) (s : State) : Reply :=
  match namedSession s p session with
  | none => .done stBadArg [] s
  | some x =>
    if x.params.dir != 1 then .done stBadArg [] s
    else if x.state != 0 || x.closing then .done stBadState [] s
    else if !between 1 4096 groups || !between 1 (2 ^ 30) outBytes then .done stBadLength [] s
    else
      let l := [(inVa, (groups - 1) * strAt x.params.desc 3 + groupExtent x.params.desc), (outVa, outBytes)]
      match codecRanges s x.ctx l with
      | some st => .done st [] s
      | none => startCodecCmd x (newCodecCmd s true last key inVa outBytes groups outVa
          (l.flatMap fun e => rangeBales s x.ctx e.1 e.2).dedup) s

/-- CODEC.CLOSE: in the middle of a frame, the command and the close end at its end (R324). -/
def codecCloseBody (p : Post) (session : Nat) (s : State) : Reply :=
  match namedSession s p session with
  | none => .done stBadArg [] s
  | some x =>
    if x.closing then .done stBadState [] s
    else if midFrame s x then
      .accept none [] x.ctx x.part (.close session) (updSession session (fun y => { y with closing := true }) s)
    else .done stOk [] (abortSession stOk session s)

/-- CDC_PIPE (R325). -/
def pipeWord (s : State) (p : Nat) : Nat :=
  let q := s.pipe p
  boolNat (p < 2) + 2 * q.power + 8 * (pipeSessions s p).length + 256 * boolNat q.busy + 512 * boolNat (q.busy && Config.shelfFull p q.frames s.clock.beat s.clock.acb)
    + 2 ^ 16 * q.lastErr + 2 ^ 20 * boolNat q.wdog + 2 ^ 32 * q.frames

def codecQueryBody (p : Post) (session : Nat) (s : State) : Reply :=
  let pipes := (List.range 6).flatMap fun i => leBytes 8 (pipeWord s i)
  if session = 0xFFFF_FFFF then .done stOk pipes s
  else match namedSession s p session with
    | none => .done stBadArg [] s
    | some x => .done stOk (pipes ++ leBytes 4 x.state ++ leBytes 4 x.framesIn ++ leBytes 4 x.framesOut) s

def execCodecOpen (p : Post) (o : CodecParams) (s : State) : Result State :=
  .next (mailbox p rowCodecOpen 27 (codecOpenBody p o) s)
def execCodecDecode (p : Post) (session : Nat) (last : Bool) (inVa bytes maxGroups outVa : Nat) (s : State) : Result State :=
  .next (mailbox p rowCodecDecode 4 (codecDecodeBody p session last inVa bytes maxGroups outVa) s)
def execCodecEncode (p : Post) (session : Nat) (last key : Bool) (inVa groups outVa outBytes : Nat) (s : State) : Result State :=
  .next (mailbox p rowCodecEncode 5 (codecEncodeBody p session last key inVa groups outVa outBytes) s)
def execCodecClose (p : Post) (session : Nat) (s : State) : Result State :=
  .next (mailbox p rowCodecClose 1 (codecCloseBody p session) s)
def execCodecQuery (p : Post) (session : Nat) (s : State) : Result State :=
  .next (mailbox p rowCodecQuery 1 (codecQueryBody p session) s)

/-! ## Colour conversion (R310, R311) -/

/-- FP32 rounding of n / d. -/
def const32 (n d : Nat) : Num := roundRatio fmtFp32 false false n d 0

/-- Kr and Kb of a matrix: 1 BT.601, 2 BT.709, 3 BT.2020; BT.709 when the stream names none (R306). -/
def krKb (m : Nat) : Num × Num :=
  match m with
  | 1 => (const32 299 1000, const32 114 1000)
  | 3 => (const32 2627 10000, const32 593 10000)
  | _ => (const32 2126 10000, const32 722 10000)

/-- The matrix in force for a frame: BT.709 when the stream signals none (R306). -/
def matrixOf (o : CodecParams) (f : Planes) : Nat := if field o.colour 2 2 = 0 then f.bt.getD 2 else field o.colour 2 2

/-- Whether the range in force is full: limited when the stream signals none (R306). -/
def fullRange (o : CodecParams) (f : Planes) : Bool :=
  match field o.colour 4 2 with
  | 1 => false
  | 2 => true
  | _ => f.full.getD false

def natNum (n : Nat) : Num := .fin false n 0

/-- A chroma sample of a plane of width w and height h, neighbours outside replaced by the nearest inside. -/
def chromaAt (pl : List Nat) (w h : Nat) (x y : Int) : Num := natNum (pl.getD (nearest y h * w + nearest x w) 0)

def half : Num := .fin false 1 (-1)

/-- Chroma at full resolution (R310). -/
def upsample (bilinear : Bool) (pl : List Nat) (w h x y : Nat) : Num :=
  if !bilinear then chromaAt pl w h (x / 2 : Nat) (y / 2 : Nat)
  else
    let row (r : Int) : Num :=
      if x % 2 = 0 then chromaAt pl w h (x / 2 : Nat) r
      else mul32 (add32 (chromaAt pl w h ((x - 1) / 2 : Nat) r) (chromaAt pl w h ((x + 1) / 2 : Nat) r)) half
    let r0 : Int := (y / 2 : Nat)
    let r1 : Int := if y % 2 = 0 then r0 - 1 else r0 + 1
    add32 (mul32 (.fin false 3 (-2)) (row r0)) (mul32 (.fin false 1 (-2)) (row r1))

/-- Range mapping of a luma or chroma sample (R310). -/
def rangeMap (full chroma : Bool) (b : Nat) (v : Num) : Num :=
  if full then div32 (if chroma then sub32 v (natNum (2 ^ (b - 1))) else v) (natNum (2 ^ b - 1))
  else if chroma then div32 (sub32 v (natNum (128 * 2 ^ (b - 8)))) (natNum (224 * 2 ^ (b - 8)))
  else div32 (sub32 v (natNum (16 * 2 ^ (b - 8)))) (natNum (219 * 2 ^ (b - 8)))

def two : Num := .fin false 2 0

/-- The three output values of a pixel of the cropped picture before MUL and ADD; what is cropped away serves as a neighbour (R310). -/
def pixelColour (o : CodecParams) (f : Planes) (px py : Nat) : List Num :=
  let x := f.left + px
  let y := f.top + py
  let b := o.bitDepth
  let full := fullRange o f
  let cw := (f.width + 1) / 2
  let ch := (f.height + 1) / 2
  let bil := bit o.colour 6
  let yy := rangeMap full false b (natNum (f.y.getD (y * f.width + x) 0))
  let cb := rangeMap full true b (upsample bil f.cb cw ch x y)
  let cr := rangeMap full true b (upsample bil f.cr cw ch x y)
  let v := if field o.colour 0 2 = 0 then
      let k := krKb (matrixOf o f)
      let r := add32 yy (mul32 (mul32 two (sub32 Num.one k.1)) cr)
      let bl := add32 yy (mul32 (mul32 two (sub32 Num.one k.2)) cb)
      let g := div32 (sub32 (sub32 yy (mul32 k.1 r)) (mul32 k.2 bl)) (sub32 (sub32 Num.one k.1) k.2)
      [r, g, bl]
    else [yy, cb, cr]
  if bit o.colour 7 then
    v.zipIdx.map fun e =>
      if field o.colour 0 2 = 0 || e.2 = 0 then clamp Num.zero Num.one e.1 else clamp (numNeg half) half e.1
  else v

/-- out[c] of R310, as bits of the tensor's format. -/
def pixelOut (o : CodecParams) (f : Planes) (x y c : Nat) : Nat :=
  let v := (pixelColour o f x y).getD c .nan
  let m := num32 (BitVec.ofNat 32 (o.mul.getD c 0))
  let a := num32 (BitVec.ofNat 32 (o.add.getD c 0))
  elemBits o.desc.format (add32 (mul32 v m) a)

/-- Element of pixel (x, y), channel c, frame dt of a group (R309). -/
def patchLoc (o : CodecParams) (base dt x y c : Nat) : Loc :=
  elemLoc o.desc base (((dt * o.ph + y % o.ph) * o.pw + x % o.pw) * 3 + c) [x / o.pw, y / o.ph, 0, 0]

/-- Write one frame of a group into T1. -/
def writeFrame (ctx : Nat) (o : CodecParams) (base dt : Nat) (f : Planes) (s : State) : State :=
  forAll (List.range (o.width * o.height * 3)) (fun i t =>
    let c := i % 3
    let x := i / 3 % o.width
    let y := i / 3 / o.width
    writeVaPage ctx (patchLoc o base dt x y c).addr (leBytes (bitsOf o.desc / 8) (pixelOut o f x y c)) t) s

/-- Write a whole group from its frames. -/
def writeGroup (x : Session) (base : Nat) (frames : List Planes) (s : State) : State :=
  forAll frames.zipIdx (fun e t => writeFrame x.ctx x.params base e.2 e.1 t) s

/-- An input element as FP32 (R311). -/
def inputNum (s : State) (x : Session) (base dt px py c : Nat) : Num :=
  fp32 (elemNum x.params.desc.format (readBits (byteVa s x.ctx) (bitsOf x.params.desc) (patchLoc x.params base dt px py c)))

/-- The values of a pixel before the colour inverse: (x − ADD) · (1 / MUL). -/
def inputColour (o : CodecParams) (v : List Num) : List Num :=
  v.zipIdx.map fun e =>
    mul32 (sub32 e.1 (num32 (BitVec.ofNat 32 (o.add.getD e.2 0)))) (div32 Num.one (num32 (BitVec.ofNat 32 (o.mul.getD e.2 0))))

/-- The inverse of the colour transform (R311). -/
def inverseColour (o : CodecParams) (v : List Num) : List Num :=
  if field o.colour 0 2 = 0 then
    let k := krKb (field o.colour 2 2)
    let r := v.getD 0 .nan
    let g := v.getD 1 .nan
    let b := v.getD 2 .nan
    let y := add32 (add32 (mul32 k.1 r) (mul32 (sub32 (sub32 Num.one k.1) k.2) g)) (mul32 k.2 b)
    [y, div32 (sub32 b y) (mul32 two (sub32 Num.one k.2)), div32 (sub32 r y) (mul32 two (sub32 Num.one k.1))]
  else v

/-- A value to an integer sample under the range in force, to nearest even and clamped (R311). -/
def toSample (o : CodecParams) (chroma : Bool) (v : Num) : Nat :=
  let b := o.bitDepth
  let z := if field o.colour 4 2 = 2 then
      add32 (mul32 v (natNum (2 ^ b - 1))) (natNum (if chroma then 2 ^ (b - 1) else 0))
    else if chroma then add32 (mul32 v (natNum (224 * 2 ^ (b - 8)))) (natNum (128 * 2 ^ (b - 8)))
    else add32 (mul32 v (natNum (219 * 2 ^ (b - 8)))) (natNum (16 * 2 ^ (b - 8)))
  (toInt 0 (2 ^ b - 1) z).toNat

/-- The three full-resolution samples of an input pixel, and how many of its elements are not finite (R311). -/
def inputPixel (s : State) (x : Session) (base dt px py : Nat) : List Nat × Nat :=
  let e := (List.range 3).map fun c => inputNum s x base dt px py c
  let bad := (e.filter fun v => !isFinite v).length
  let v := inverseColour x.params (inputColour x.params e)
  let smp := v.zipIdx.map fun a => toSample x.params (a.2 != 0) a.1
  if field x.params.colour 0 2 = 0 then (if bad = 0 then smp else [0, 0, 0], bad)
  else ((smp.zip e).map fun a => if isFinite a.2 then a.1 else 0, bad)

/-- One 4:2:0 chroma sample (R311). -/
def reduceChroma (full : List Nat) (w : Nat) (x y : Nat) : Nat :=
  let at_ (cx : Int) (cy : Nat) : Nat := full.getD (cy * w + nearest cx w) 0
  let row (cy : Nat) : Nat := at_ (2 * x - 1 : Int) cy + 2 * at_ (2 * x : Nat) cy + at_ (2 * x + 1 : Nat) cy
  divEven (row (2 * y) + row (2 * y + 1)) 8

/-- The sample planes that an encode pipeline forms for one frame, and its count of elements that are not finite (R311). -/
def inputPlanes (s : State) (x : Session) (base dt : Nat) : Planes × Nat :=
  let o := x.params
  let px := (List.range (o.width * o.height)).map fun i => inputPixel s x base dt (i % o.width) (i / o.width)
  let plane (c : Nat) : List Nat := px.map fun e => e.1.getD c 0
  let chroma (c : Nat) : List Nat := (List.range (o.width / 2 * (o.height / 2))).map fun i =>
    reduceChroma (plane c) o.width (i % (o.width / 2)) (i / (o.width / 2))
  (⟨o.width, o.height, 0, 0, o.width, o.height, plane 0, chroma 1, chroma 2, some (field o.colour 2 2), some (field o.colour 4 2 == 2)⟩,
    (px.map (·.2)).sum)

/-! ## The end of a frame (R305, R313 to R323) -/

/-- Write the groups that the held frames complete, within the command's groups; each adds 1 to the session's counter (R323). -/
def writeGroups : Nat → Nat → State → State
  | 0, _, s => s
  | fuel + 1, h, s =>
    match findSession s h with
    | none => s
    | some x =>
      match x.cmd with
      | none => s
      | some c =>
        if x.held.length < x.params.pt || c.maxGroups ≤ c.groups then s
        else
          let t := writeGroup x (c.outVa + c.groups * strAt x.params.desc 3) (x.held.take x.params.pt) s
          let u := updSession h (fun y =>
            { y with held := y.held.drop x.params.pt, framesOut := y.framesOut + x.params.pt,
                     cmd := some { c with groups := c.groups + 1, frames := c.frames + x.params.pt } }) t
          writeGroups fuel h (addSync x.part (x.params.sync % 4096) 1 u)

/-- END completes a partial group by repeating its last frame (R313). -/
def flushGroup (h : Nat) (s : State) : State :=
  match findSession s h with
  | none => s
  | some x =>
    match x.cmd, x.held.getLast? with
    | some c, some f =>
      if c.maxGroups ≤ c.groups then s
      else
        let t := writeGroup x (c.outVa + c.groups * strAt x.params.desc 3)
          (x.held ++ List.replicate (x.params.pt - x.held.length) f) s
        addSync x.part (x.params.sync % 4096) 1 (updSession h (fun y =>
          { y with held := [], framesOut := y.framesOut + x.held.length,
                   cmd := some { c with groups := c.groups + 1, frames := c.frames + x.held.length } }) t)
    | _, _ => s

/-- A profile, a level above LEVEL, a bit depth, a chroma format or a tool that the session does not admit (R302, R318). -/
def unsupported (o : CodecParams) (r : FrameReport) : Bool :=
  match r.stream with
  | some i => i.profile != o.profile || o.level < i.level || i.bitDepth != o.bitDepth || !i.chroma420 || i.barredTool
  | none => false

/-- A cropped size other than WIDTH and HEIGHT, or a coded size beyond W64 and H64 (R315). -/
def sizeError (o : CodecParams) (r : FrameReport) : Bool :=
  match r.picture with
  | some f => f.cropW != o.width || f.cropH != o.height || 64 * ceilDiv o.width 64 < f.width || 64 * ceilDiv o.height 64 < f.height
  | none => false

/-- The error of a frame: one of the parse, else UNSUPPORTED, else SIZE (R315, R318). -/
def reportError (o : CodecParams) (r : FrameReport) : Nat :=
  if r.errCode != 0 then r.errCode else if unsupported o r then 4 else if sizeError o r then 5 else 0

/-- Whether the engines can report such a frame: SYNTAX, LENGTH, TRUNCATED, REFERENCE and BOUNDS arise in the parse, and only a LENGTH
error is one of an outer length field (R314, R318). -/
def reportFits (r : FrameReport) : Bool :=
  [0, 1, 2, 3, 6, 7].contains r.errCode && (!r.outerLength || r.errCode == 2)

/-- Replace the lost blocks of a plane, of a side of so many samples, by the co-located ones of another plane. -/
def concealPlane (w side : Nat) (lost : List Nat) (old new : List Nat) : List Nat :=
  let across := ceilDiv w (max 1 side)
  new.zipIdx.map fun e => if lost.contains (e.2 / max 1 w / max 1 side * across + e.2 % max 1 w / max 1 side) then old.getD e.2 0 else e.1

/-- The concealment of R316: from the most recent frame decoded without it, else mid grey. -/
def conceal (o : CodecParams) (r : FrameReport) (last : Option Planes) (f : Planes) : Planes :=
  let grey (n : Nat) : List Nat := List.replicate n (2 ^ (o.bitDepth - 1))
  let cw := (f.width + 1) / 2
  let g := last.getD { f with y := grey f.y.length, cb := grey f.cb.length, cr := grey f.cr.length }
  { f with y := concealPlane f.width r.block r.lost g.y f.y, cb := concealPlane cw (r.block / 2) r.lost g.cb f.cb,
           cr := concealPlane cw (r.block / 2) r.lost g.cr f.cr }

/-- A session takes in the frame that was decoded: it keeps it under its number, drops those no longer kept, and holds the frames that
are now output (R313, R316). A STRICT session's frame in error, and a frame of the wrong size, is not kept. -/
def takePicture (r : FrameReport) (x : Session) : Session :=
  let strict := x.params.cls == 0
  let bad := (strict && reportError x.params r != 0) || sizeError x.params r
  let f := if bad then none else r.picture.map (conceal x.params r x.lastClean)
  let kept := x.pictures ++ (f.map fun g => (x.framesIn, g)).toList
  let out := if strict && reportError x.params r != 0 then [] else r.shown.filterMap fun i => (kept.find? fun e => e.1 == i).map (·.2)
  { x with
    held := x.held ++ out
    pictures := kept.filter fun e => !r.dropped.contains e.1
    lastClean := if r.lost.isEmpty then f.orElse (fun _ => x.lastClean) else x.lastClean
    framesIn := x.framesIn + (if r.picture.isSome then 1 else 0) }

/-- What a decode command records of a frame: the first error, counts, and the bytes consumed (R313 to R316). -/
def recordFrame (o : CodecParams) (r : FrameReport) (c : CodecCmd) : CodecCmd :=
  let e := reportError o r
  let strict := o.cls == 0
  { c with
    decoded := c.decoded + (if r.picture.isSome then 1 else 0)
    concealed := c.concealed + (if strict then 0 else r.lost.length)
    dropped := c.dropped + (if !strict && sizeError o r then 1 else 0)
    errCode := if c.errCode = 0 then e else c.errCode
    errFrame := if c.errCode = 0 && e != 0 then c.decoded else c.errFrame
    errOffset := if c.errCode = 0 && e != 0 then r.errOffset else c.errOffset
    used := if e != 0 && (strict || r.outerLength) then (if r.outerLength then r.errOffset else c.used)
      else min c.bytes (c.used + r.bytes) }

/-- Whether a decode command stops with this frame: an error, all bytes used, its groups complete, or its session closing. -/
def decodeStops (r : FrameReport) (x : Session) (c : CodecCmd) : Bool :=
  (reportError x.params r != 0 && (x.params.cls == 0 || r.outerLength)) || c.bytes ≤ c.used
    || (c.groups == c.maxGroups && r.unitEnd) || x.closing

/-- End the command of a session whose frame has ended, then the session itself if it closes (R324). -/
def finishCodec (h status : Nat) (s : State) : State :=
  match findSession s h with
  | none => s
  | some x =>
    let t := endCodecCmd h status ((x.cmd.map codecResult).getD []) s
    if x.closing then removeSession h t else t

/-- After END a session expects a new stream: no frame of the old one is kept (R313). -/
def endStream (h : Nat) : State → State := updSession h fun y => { y with pictures := [], lastClean := none }

/-- A decode pipeline ends a frame. -/
def decodeFrame (h : Nat) (r : FrameReport) (s : State) : State :=
  match findSession s h with
  | none => s
  | some x =>
    match x.cmd with
    | none => s
    | some c =>
      let strict := x.params.cls == 0
      let bad := reportError x.params r != 0
      let s1 := updSession h (fun y => { takePicture r y with cmd := some (recordFrame x.params r c) }) s
      let s2 := if bad then updPipe x.pipe (fun q => { q with lastErr := reportError x.params r }) s1 else s1
      let s3 := writeGroups 4096 h s2
      match (findSession s3 h).bind (·.cmd) with
      | none => s3
      | some d =>
        if decodeStops r x d then
          if strict && bad then finishCodec h stBadArg (updSession h (fun y => { y with state := 2 }) s3)
          else finishCodec h stOk (if d.last && d.bytes ≤ d.used then endStream h (flushGroup h s3) else s3)
        else s3

/-- The bit budget of the next frame; none is unbounded (R321). -/
def frameBudget (x : Session) : Option Int :=
  let w : Option Int := if x.params.windowCap = 0 then none
    else some ((x.params.windowCap : Int) - ((x.bits.take (x.params.window - 1)).sum : Nat))
  match w, x.params.frameCap with
  | none, 0 => none
  | none, f => some f
  | some b, 0 => some b
  | some b, f => some (min b f)

/-- Whether a frame starts a refresh wave: every REFRESH frames, and at each key frame (R319, R322). -/
def keyFrame (x : Session) (c : CodecCmd) : Bool := x.framesOut == 0 || (c.key && c.frames == 0)
def waveStart (x : Session) (c : CodecCmd) : Bool := keyFrame x c || x.coded % x.params.refresh == 0

/-- The index of the next frame in its wave (R322). -/
def waveIndex (x : Session) (c : CodecCmd) : Nat := if waveStart x c then 0 else x.coded

/-- The base quantiser: AV1 base_q_idx, HEVC QP (R321). -/
def baseQuant (o : CodecParams) : Int :=
  if o.standard = 1 then o.qi else (o.qi * (52 + 6 * (o.bitDepth - 8)) / 256 : Nat) - (6 * (o.bitDepth - 8) : Nat)

/-- The quantiser after a row beyond its share (R321). -/
def raiseQuant (o : CodecParams) (q : Int) : Int := if o.standard = 1 then min 255 (q + 16) else min 51 (q + 2)

/-- The columns that a frame codes as intra: those of its place in the wave, all of them in a key frame (R319, R322). -/
def intraColumns (x : Session) (c : CodecCmd) : Nat × Nat :=
  let n := ceilDiv x.params.width 64
  let i := waveIndex x c
  if keyFrame x c then (0, n) else (i * n / x.params.refresh, (i + 1) * n / x.params.refresh)

/-- The rows of a frame from row j on, of `left` that remain: each row beyond its share of what is left of the budget raises the
quantiser of every later one (R321). -/
def codeRows (o : CodecParams) (serial : Nat) (cols : Nat × Nat) (budget : Option Int) : Nat → Nat → Int → Nat → List Byte
  | 0, _, _, _ => []
  | left + 1, j, q, spent =>
    let row := Config.codedRow serial j q cols.1 cols.2
    let beyond : Bool := match budget with
      | some b => b - (spent : Int) < (8 * row.length * (left + 1) : Nat)
      | none => false
    row ++ codeRows o serial cols budget left (j + 1) (if beyond then raiseQuant o q else q) (spent + 8 * row.length)

/-- The bytes of the next frame: what precedes its rows signals MATRIX, RANGE and a wave's recovery point (R306, R319, R322). -/
def codedFrame (x : Session) (c : CodecCmd) (serial : Nat) : List Byte :=
  let o := x.params
  let head := Config.codedHead serial [o.standard, boolNat (keyFrame x c), field o.colour 2 2, field o.colour 4 2, o.width, o.height,
    if waveStart x c then o.refresh - 1 else 0]
  head ++ codeRows o serial (intraColumns x c) (frameBudget x) (ceilDiv o.height 64) 0 (baseQuant o) (8 * head.length)

/-- Write coded bytes, page by page. -/
def writeCoded (ctx va : Nat) (d : List Byte) (s : State) : State :=
  forAll (rangePages va d.length) (fun a t =>
    let lo := max a va
    let hi := min (a + kvPageBytes) (va + d.length)
    writeVaPage ctx lo ((d.drop (lo - va)).take (hi - lo)) t) s

/-- An encode pipeline ends a frame. -/
def encodeFrame (h : Nat) (old : State) : State :=
  let s := { old with free := old.free + 1 }
  match findSession s h with
  | none => s
  | some x =>
    match x.cmd with
    | none => s
    | some c =>
      let coded := codedFrame x c old.free
      if c.bytes < c.used + coded.length then finishCodec h stNoSpace s
      else
        let pt := x.params.pt
        let base := c.inVa + c.decoded / pt * strAt x.params.desc 3
        let pn := inputPlanes s x base (c.decoded % pt)
        let bits := 8 * coded.length
        let past : Bool := match frameBudget x with
          | some b => b < (bits : Int)
          | none => false
        let wave := waveStart x c
        let group : Bool := (c.decoded + 1) % pt == 0
        let d := { c with
          decoded := c.decoded + 1
          frames := c.frames + 1
          groups := if group then c.groups + 1 else c.groups
          used := c.used + coded.length
          capMiss := if past then c.capMiss + 1 else c.capMiss
          wave := if wave && c.wave = 0xFFFF_FFFF then c.frames else c.wave
          nonfinite := c.nonfinite + pn.2 }
        let s1 := writeCoded x.ctx (c.outVa + c.used) coded s
        let s2 := updSession h (fun y => { y with
          held := [pn.1], framesIn := y.framesIn + 1, framesOut := y.framesOut + 1,
          bits := bits :: y.bits.take 255, coded := waveIndex x c + 1, cmd := some d }) s1
        let s3 := if group then addSync x.part (x.params.sync % 4096) 1 s2 else s2
        if d.groups = d.maxGroups || x.closing then finishCodec h stOk s3 else s3

/-- The frame of a pipeline ends: FRAMES rises, the command takes it in, and the pipeline goes on (R304, R305, R325). -/
def frameDone (p : Nat) (r : FrameReport) (s : State) : State :=
  match (s.pipe p).session.bind (findSession s) with
  | none => s
  | some x =>
    let s1 := updPipe p (fun q => { q with busy := false, frames := (q.frames + 1) % 2 ^ 32 }) s
    let s2 := if x.params.dir = 1 then encodeFrame x.handle s1 else decodeFrame x.handle r s1
    kickPipe p (clearSuspect (pipeBit p) x.ctx s2)

/-- A frame can end on a pipeline that works on one and is not being reset. -/
def frameRuns (s : State) (p : Nat) : Bool :=
  (s.pipe p).busy && match (s.pipe p).session.bind (findSession s) with
    | some x => x.cmd.isSome && sessionServed s x
    | none => false

def execCodecFrameDone (pipe : Nat) (r : FrameReport) (s : State) : Result State :=
  event "CODEC_FRAME_DONE" (frameRuns s pipe && reportFits r) (frameDone pipe r s)

/-- The frame bound of R317, in beats. -/
def frameBound (o : CodecParams) : Nat := 4 * ceilDiv (o.width * o.height * 20000) 1990656000 + 4

def frameOverdue (s : State) (p : Nat) : Bool :=
  frameRuns s p && !(s.pipe p).raised && match (s.pipe p).session.bind (findSession s) with
    | some x => (s.pipe p).frameAt + frameBound x.params ≤ s.clock.beat
    | none => false

/-- WATCHDOG is raised (R317, R318, R325); the ladder takes it up at the next beat boundary (R403). -/
def execCodecWatchdog (pipe : Nat) (s : State) : Result State :=
  event "CODEC_WATCHDOG" (frameOverdue s pipe) (updPipe pipe (fun q => { q with wdog := true, raised := true, lastErr := 8 }) s)

end Sys2Proof.Machine
end

