-- ==== Sys2Proof/Machine/Runs.lean ====
section
/-! DEFINITION. The life of a RUN: its record (R110, R377), quiescing and slips (R71 to R74), its end (R111, R221), the waiting RUN
(R393), and RUN.QUERY (R394). -/

namespace Sys2Proof.Machine

/-! ## Quiescing (R72) -/

/-- The step after the last commit. -/
def currentStep (r : Run) : StepRef := ⟨r.doneInstr, r.doneRound, 0⟩

/-- The word of an instruction. -/
def wordAt (r : Run) (j : Nat) : Option TileWord := r.prog.words[j]?

def Desc.at (p : Program) (i : Nat) : Desc := p.descs.getD i Desc.null

/-- A slot of discarded steps: one that the oldest of them continued is HELD again with its entries, a fresh one and a score slot,
which has no DC, FREE (R72, R98). -/
def discardSlot (r : Run) (q : Slot) : Slot :=
  match q.users with
  | [] => q
  | x :: _ =>
    match wordAt r x.1 with
    | some w => if w.cont && q.dc != 0 then { q with st := .held, users := [], hold := true } else Slot.reset
    | none => Slot.reset

def dropFree (t : Table Slot) : Table Slot := t.filter fun e => !decide (e.2 = Slot.reset)

/-- The counters whose SY.WGRANT is in flight: their grants are withdrawn (R140). -/
def grantsInFlight (r : Run) : List Nat :=
  r.flight.filterMap fun x => (wordAt r x.instr).bind fun w => if w.opcode = 0x61 then some w.sub else none

/-- A pen leaves its discarded steps. -/
def discardPen (r : Run) (p : Pen) : Pen :=
  { p with active := false, slots := dropFree (p.slots.map fun e => (e.1, discardSlot r e.2)), restore := [], restoreSlot := none,
           grants := p.grants.filter fun g => !(grantsInFlight r).contains g.counter, attn := { p.attn with at_ := false },
           rowu := { p.rowu with busy := false } }

/-- The windows of discarded rounds are released (R153, R165). -/
def dropWindows (p : Pen) : Pen := { p with win := { p.win with valid0 := false, valid1 := false } }

/-- Whether a lot belongs to a step that has not committed, other than a layer's in the manger, which survives (R254), and the contents
of a bank that its word has switched to, which stay fixed from its first issue (R90, R181). -/
def lotOpen (r : Run) (l : LotRef) : Bool :=
  l.role != .layer && !((l.role == .codebook || l.role == .table) && tget 0 r.banks l.instr != 0) && (r.doneInstr < l.instr || (l.instr == r.doneInstr && r.doneRound ≤ l.round))

/-- A RUN without its uncommitted steps; store drovers open only on committed ones. -/
def discardSteps (r : Run) : Run :=
  { r with flight := [], replay := none, nextInstr := r.doneInstr, nextRound := r.doneRound, nextAt := 0, portFree := 0,
           rowFree := 0, ringFrom := (r.doneInstr, r.doneRound), ringBase := r.ringNext,
           placed := r.placed.filter fun l => !lotOpen r l,
           posted := r.posted.filter fun l => !lotOpen r l,
           arrived := r.arrived.filter fun a => !lotOpen r a.lot,
           opened := r.opened.filter fun o => o.1 < r.doneInstr || (64 ≤ o.2 && o.2 < 128) }

/-- The oldest of a drover's open work. -/
def oldestWork (l : List DrvWork) : Option DrvWork :=
  l.foldl (fun m x => match m with
    | none => some x
    | some y => if x.instr < y.instr then some x else some y) none

/-- INSTR and LOTS tell of the oldest open instruction (R40). -/
def showWork (v : Drover) : Drover :=
  match oldestWork v.work with
  | some x => { v with instr := x.instr, lots := x.done }
  | none => v

/-- The open work of a drover is what the RUN has open on it (R32, R40). -/
def setDrover (r : Run) (d : Nat) (v : Drover) : Drover :=
  showWork { v with work := v.work.filter fun x => r.opened.contains (x.instr, d) }

/-- Work opens on a drover. -/
def openWork (j done left : Nat) (v : Drover) : Drover := showWork { v with work := v.work ++ [⟨j, done, left⟩] }

/-- One lot of a drover's open work is complete. -/
def doneWork (j : Nat) (v : Drover) : Drover :=
  showWork { v with work := mapIf (fun x => x.instr == j) (fun x => { x with done := x.done + 1, left := x.left - 1 }) v.work }

/-- Bring DRV_STATUS in step with the RUN's open work. -/
def syncDrovers (k : Nat) (s : State) : State :=
  match (s.part k).run with
  | none => s
  | some r => forAll ((List.range 160).filter fun d => (droverParts s d).contains k) (fun d => updDrover d (setDrover r d)) s

/-- Drop the queued sector requests of a partition's lots that satisfy a test. -/
def dropReqs (k : Nat) (f : LotRef → Bool) : State → State :=
  updHbm fun h => { h with pcs := h.pcs.map fun e =>
    (e.1, { e.2 with reqs := e.2.reqs.filter fun q => !(q.lot.part == k && !q.write && f q.lot) }) }

/-- Quiesce a partition: its uncommitted steps are discarded and its drovers and gates leave their open work (R72). -/
def quiesce (k : Nat) (retry : Bool) (s : State) : State :=
  match (s.part k).run with
  | none => updPart k (fun q => { q with retry := retry }) s
  | some r =>
    let s1 := forAll (pensOf s k) (fun p => updPen p fun q => dropWindows (discardPen r q)) s
    let s2 := updPart k (fun q =>
      { q with st := .quiesced, retry := retry, quiescedAt := s.clock.beat, announced := 0, run := some (discardSteps r) }) s1
    let s3 := forAll (gatesOf s k) (fun g => updGate g fun v =>
      { v with sends := v.sends.filter fun h => h.part != k || h.instr < r.doneInstr
               recvs := v.recvs.filter fun h => h.part != k || h.instr < r.doneInstr }) s2
    partEvent k evQuiesce (dropReqs k (lotOpen r) (syncDrovers k s3))

/-- Mark how a quiesced RUN ends at the next beat boundary. -/
def endAtBoundary (k : Nat) (e : Ending) : State → State := updRun k fun r => { r with ending := some e }

/-- Stop a running RUN for good: quiesce without retry and end at the next boundary (R107, R138, R293). -/
def haltRun (k : Nat) (e : Ending) (s : State) : State := endAtBoundary k e (quiesce k false s)

/-- A partition slips while its RUN runs, or while the drovers of its accepted RUN work (R71, R393). -/
def slips (q : Part) (r : Run) : Bool := r.ending.isNone && (q.st == .running || (q.st == .accepted && r.begun))

/-- A slip (R71 to R74): the SLIP record, the cause, and the third slip of one step ends the RUN. -/
def slip (k cause : Nat) (s : State) : State :=
  match (s.part k).run with
  | none => s
  | some r =>
    if !slips (s.part k) r then s else
    let ref := currentStep r
    let s1 := daybook 0x0012 k noEngine r.ctx (leBytes 8 (stepRefNum ref) ++ leBytes 1 cause ++ leBytes 4 r.shift) s
    let s2 := updPart k (fun q => { q with cause := cause }) s1
    if (s.part k).slips < 2 then quiesce k true (updPart k (fun q => { q with slips := q.slips + 1 }) s2)
    else haltRun k ⟨stSlip, cause, 3, stepRefNum ref⟩ s2

/-! ## The end of a RUN -/

/-- Free every slot and queue entry of a partition's pens (R19). -/
def freeSlots (k : Nat) (s : State) : State :=
  forAll (pensOf s k) (fun p => updPen p fun q =>
    { q with slots := [], grants := [], restore := [], restoreSlot := none, active := false,
             attn := { q.attn with at_ := false }, rowu := { q.rowu with busy := false },
             win := { q.win with valid0 := false, valid1 := false } }) s

/-- The drovers and gate buffers of a partition have no open work. -/
def clearDrovers (k : Nat) (s : State) : State :=
  let t := forAll ((List.range 160).filter fun d => (droverParts s d).contains k) (fun d => updDrover d fun v =>
    { v with work := [] }) s
  forAll (gatesOf s k) (fun g => updGate g fun v =>
    { v with sends := v.sends.filter fun h => h.part != k
             recvs := v.recvs.filter fun h => h.part != k }) t

/-- Mapping changes that waited for a commit take effect: no step is in progress (R215). -/
def settleChanges (k : Nat) (s : State) : State :=
  updPart k (fun q => { q with changes := [] }) (settlePages (s.part k) s)

/-- Write the final completion of a RUN. -/
def completeRun (k : Nat) (r : Run) (status code whr index : Nat) (s : State) : State :=
  match findProg s (fun g => g.job == .run k r.id) with
  | some g => completeProg g status (runRecord r.id code whr index r.shift 0 (now s) r.trouble) s
  | none => s

/-- Release the sequences that leave with a RUN (R221). -/
def releaseLeaving (k : Nat) (r : Run) (s : State) : State :=
  forAll (r.batch.filter fun b => b.leave) (fun b => destroySeq k b.seq) s

/-- After the partition's RUN is gone: the waiting RUN takes its place, or the partition is idle (R390, R393). -/
def nextRunOf (k : Nat) : State → State :=
  updPart k fun q => match q.waiting with
    | some w => { q with run := some w, waiting := none, st := .accepted, retry := false, lag := 0, slips := 0, retries := 0 }
    | none => { q with run := none, st := .idle, retry := false, lag := 0, slips := 0 }

/-- The partition's RUN ends with a status: its completion is written, its holds are released, and its slots are free (R111, R246). -/
def endRun (k status code whr index : Nat) (s : State) : State :=
  match (s.part k).run with
  | none => s
  | some r =>
    let s1 := dropReqs k (fun _ => true) (clearDrovers k (freeSlots k (completeRun k r status code whr index s)))
    settleChanges k (nextRunOf k s1)

/-- The waiting RUN ends without having started (R393). -/
def endWaiting (k status code : Nat) (s : State) : State :=
  match (s.part k).waiting with
  | none => s
  | some r => updPart k (fun q => { q with waiting := none }) (completeRun k r status code 0 0 s)

/-- End both RUNs of a partition with one status. -/
def endRuns (k status : Nat) (s : State) : State := endRun k status 0 0 0 (endWaiting k status 0 s)

/-! ## Starting and resuming -/

/-- Bd of R393: the first beat in which a RUN's drovers may work. -/
def firstBeat (r : Run) : Nat := (65000 * r.startBeat - r.prog.leadAc) / 65000

/-- The smallest S of R73 that puts the lead of the next step at or after a beat. A shift is accumulated (R58): it never falls below the
present one (DESIGN CHOICE, log 53). -/
def shiftFor (r : Run) (beat : Nat) : Nat :=
  let issue := ((wordAt r r.doneInstr).map (·.issue)).getD 0
  ceilDiv (65000 * beat + r.prog.leadAc - issue) 65000 - r.startBeat

/-- A quiesced partition resumes at the start of a beat with the shift of R73, and lag 0. -/
def resumeAt (k beat : Nat) (counted : Bool) (s : State) : State :=
  match (s.part k).run with
  | none => s
  | some r =>
    let sh := max (max r.shift (shiftFor r beat)) (if r.prog.fabric then (s.part k).announced else 0)
    updPart k (fun q =>
      { q with st := .running, retry := false, lag := 0, retries := if counted then min 255 (q.retries + 1) else q.retries, run := some { r with shift := sh } }) s

/-- Whether a ladder step or search holds a partition (R407). -/
def partStep (s : State) (k : Nat) : Option LadderStep :=
  s.recov.steps.find? fun x => (x.level == 3 && x.part == k) || (x.level == 2 && (engineParts s x.engine).contains k)

/-- Whether an instruction's stores have all left (R35). -/
def storesDone (r : Run) : Bool := r.opened.isEmpty

/-- How a RUN that has reached its end completes, if it has (R74, R107, R111, R132). -/
def runEnd (s : State) (k : Nat) : Option Ending :=
  match (s.part k).run with
  | none => none
  | some r =>
    match r.ending with
    | some e => if (s.part k).quiescedAt < s.clock.beat && s.clock.acb == 0 then some e else none
    | none =>
      if r.decodeStop.isNone && r.prog.nWords ≤ r.doneInstr && r.flight.isEmpty && storesDone r && (s.part k).st == .running then
        some ⟨if 0 < r.trouble.fallbacks then stTroubleFallback else stOk, 0, 0, 0⟩
      else none

/-- A RUN whose decode stopped, and whose earlier words have committed with their stores done, ends at the boundary to the present
beat (R132). -/
def stopDecoded (k : Nat) (s : State) : State :=
  match (s.part k).run with
  | none => s
  | some r =>
    match r.decodeStop with
    | some j =>
      if r.ending.isNone && r.doneInstr = j && r.flight.isEmpty && storesDone r then
        endAtBoundary k ⟨stBadArg, (s.part k).dfCode, 3, stepRefNum ⟨j, 0, (s.part k).dfLpen⟩⟩ s
      else s
    | none => s

/-- Whether beat Bd of an accepted RUN whose drovers have not begun has come (R393). -/
def acceptedDue (s : State) (k : Nat) : Bool :=
  match (s.part k).st, (s.part k).run with
  | .accepted, some r => !r.begun && firstBeat r ≤ s.clock.beat
  | _, _ => false

/-- Whether beat Bd of a RUN that waits behind another has come. A RUN that has ended its work only awaits its completion, and does
not hold a waiting RUN back. -/
def waitingDue (s : State) (k : Nat) : Bool :=
  match (s.part k).waiting with
  | some w => (runEnd s k).isNone && firstBeat w ≤ s.clock.beat
  | none => false

def beginDue (s : State) (k : Nat) : Bool := acceptedDue s k || waitingDue s k

/-- An accepted RUN's drovers begin, but not while an engine of its partition is being reset (R393, R410). -/
def beginAccepted (k : Nat) (s : State) : State :=
  if (partStep s k).isSome then endRun k stQuiesced 0 0 0 s else updRun k (fun r => { r with begun := true, windowBase := (s.part k).windows }) s

/-- The decisions of beat Bd: an accepted RUN begins; a RUN that still waits never starts (R393, R410). -/
def beginRun (k : Nat) (s : State) : State :=
  let t := if acceptedDue s k then beginAccepted k s else s
  if waitingDue t k then endWaiting k stBadState 0 t else t

/-! ## RUN.QUERY (R394) -/

def runState (s : State) (k : Nat) (isWaiting : Bool) : Nat :=
  if isWaiting then 1
  else match (s.part k).st with
    | .accepted => 2
    | .running => 3
    | .quiesced => 4
    | _ => 0

def runReply (s : State) (k : Nat) (o : Option (Run × Bool)) : List Byte :=
  match o with
  | none => zeros 32 ++ troubleBytes Trouble.reset
  | some (r, w) =>
    let st := runState s k w
    leBytes 4 r.id ++ leBytes 1 st ++ zeros 3 ++ leBytes 4 r.ctx ++ zeros 4 ++ leBytes 8 r.startBeat
      ++ leBytes 8 (if st = 3 || st = 4 then tlyPartWord s k else 0) ++ troubleBytes r.trouble

def runQueryBody (p : Post) (runId : Nat) (s : State) : Reply :=
  let k := postTarget p
  if runId = 0 then .done stOk (runReply s k ((s.part k).run.map fun r => (r, false))) s
  else
    let l := (s.part k).run.toList.map (fun r => (r, false)) ++ (s.part k).waiting.toList.map (fun r => (r, true))
    match l.find? fun e => e.1.id == runId with
    | some e => .done stOk (runReply s k (some e)) s
    | none => .done stBadArg [] s

def execRunQuery (p : Post) (runId : Nat) (s : State) : Result State :=
  .next (mailbox p rowRunQuery 1 (runQueryBody p runId) s)

end Sys2Proof.Machine
end

