-- ==== Sys2Proof/Machine/Contexts.lean ====
section
/-! DEFINITION. Functions (R375), contexts, residence and swapping (R383 to R389), cancels (R408, R409), and sync counters
(R395 to R398). -/

namespace Sys2Proof.Machine

/-! ## Opening a function (R375) -/

/-- The security version of the running firmware. -/
def runningSvn (s : State) : Nat := ((s.sec.running).map (·.svn)).getD 0

def funcOpenBody (p : Post) (abi : Nat) (s : State) : Reply :=
  if abi != 1 && abi != 2 then .done stBadArg [] s
  else if (s.func p.func).opened && (s.ctxs.any fun c => c.func == p.func && !c.cancelled) then .done stBadState [] s
  else .done stOk [] (updFunc p.func (fun u => { u with opened := true, abi := abi }) s)

/-- The exposed partitions, as FUNC.INFO reports them (R356, R375). -/
def hdmPartsShown (s : State) : Nat := if s.host.linkMode = 0 then s.host.hdmParts else 0

def funcInfoBody (s : State) : Reply :=
  .done stOk (leBytes 1 6 ++ leBytes 1 s.host.linkMode ++ leBytes 1 s.host.width ++ leBytes 1 (runningSvn s)
    ++ leBytes 4 (hdmPartsShown s) ++ leBytes 8 s.host.hdmUnbacked ++ zeros 16) s

def execFuncOpen (p : Post) (abi : Nat) (s : State) : Result State :=
  .next (mailbox p rowFuncOpen 1 (funcOpenBody p abi) s)
def execFuncInfo (p : Post) (s : State) : Result State := .next (mailbox p rowFuncInfo 0 funcInfoBody s)

/-! ## States of a context (R384) -/

/-- Whether a context has a RUN accepted or running. -/
def ctxHasRun (s : State) (c : Ctx) : Bool := (runsOf (s.part c.part)).any fun r => r.ctx == c.handle

def ctxBlocked (s : State) (c : Ctx) : Bool := 0 < c.waits && !ctxHasRun s c

/-- The STATE code of R384. -/
def ctxCode (s : State) (c : Ctx) : Nat :=
  if c.out then (if c.runnable then 4 else if ctxBlocked s c then 3 else 0)
  else if ctxBlocked s c then 2 else 1

/-- Enter a reside request in the queue (R385). -/
def enterReside (k h prio beat : Nat) (s : State) : State :=
  updPart k (fun q => { q with resides := q.resides ++ [⟨h, prio, beat⟩] }) (updCtx h (fun c => { c with runnable := true }) s)

/-- Bring the contexts' SINCE and block beats up to date after a change from s0, and queue the contexts that the shepherd swapped
out and that are blocked no more (R382, R384, R388). -/
def settleContexts (s0 s : State) : State :=
  forAll s.ctxs (fun c t =>
    match ctxOf s0 c.handle with
    | none => t
    | some c0 =>
      let was := ctxBlocked s0 c0
      let is := ctxBlocked s c
      let t1 := if !was && is then updCtx c.handle (fun x => { x with blockBeat := now s }) t else t
      let t2 := if !is && c.out && c.byShepherd && !c.runnable && !c.cancelled then
          enterReside c.part c.handle c.priority (now s) (updCtx c.handle (fun x => { x with byShepherd := false }) t1) else t1
      match ctxOf t2 c.handle with
      | some c1 => if ctxCode t2 c1 != ctxCode s0 c0 then updCtx c.handle (fun x => { x with since := now s }) t2 else t2
      | none => t2) s

/-- A meaning whose context states are settled after it. -/
def settled (f : State → State) (s : State) : State := settleContexts s (f s)

/-- A command whose effects on the contexts' states fall with its completion (R371). -/
def settledCmd (f : State → State) (s : State) : State := setLead 0 (settleContexts s (setLead 1 (f s)))

def execWaitingRunStart (part : Nat) (s : State) : Result State :=
  event "WAITING_RUN_START" (beginDue s part) (settled (beginRun part) s)

/-! ## Residence (R385 to R388) -/

/-- The first of the reside queue: priority, beat of the request, handle. -/
def queueHead (q : Part) : Option Reside :=
  q.resides.foldl (fun m r => match m with
    | none => some r
    | some x => if r.priority < x.priority || (r.priority == x.priority && (r.beat < x.beat || (r.beat == x.beat && r.ctx < x.ctx)))
                then some r else some x) none

/-- A context becomes resident; a command that asked for it completes. -/
def makeResident (k h : Nat) (s : State) : State :=
  let t := updPart k (fun q => { q with resides := q.resides.filter fun r => r.ctx != h })
    (updCtx h (fun c => { c with out := false, runnable := false, byShepherd := false }) s)
  completeAll (fun g => g.job == .reside h) stOk t

/-- Free resident slots of a partition. -/
def slotFree (s : State) (k : Nat) : Bool := (residentCtxs s k).length < 8

/-- Whether a bale of a tensor that a context maps leaves with a swap-out (R387). -/
def swapBale (s : State) (h : Nat) (t : Tensor) (i : Nat) (b : Bale) : Bool :=
  t.backed && b.st == .resident && !held s (t.handle, i)
    && !(t.maps.any fun m => m.ctx != h && match ctxOf s m.ctx with
        | some c => !c.out && !c.cancelled
        | none => false)

/-- The bales that a context's swap-out evicts. -/
def swapBales (s : State) (h : Nat) : List (Nat × Nat) :=
  (s.place.tensors.filter fun t => t.maps.any fun m => m.ctx == h).flatMap fun t =>
    t.bales.zipIdx.filterMap fun e => if swapBale s h t e.2 e.1 then some (t.handle, e.2) else none

/-- Whether write-backs of a context's bales are still in flight. -/
def swapPending (s : State) (h : Nat) : Bool :=
  s.place.tensors.any fun t => (t.maps.any fun m => m.ctx == h) && t.bales.any fun b => b.st == .evicting

/-- Complete the swap-outs of a partition whose last write-back has ended: the slot frees, and goes to its reserved context (R386). -/
def finishSwaps (k : Nat) (s : State) : State :=
  forAll (s.part k).swapping (fun e t =>
    if swapPending t e.1 then t
    else
      let u := updPart k (fun q => { q with swapping := q.swapping.filter fun x => x.1 != e.1 })
        (updCtx e.1 (fun c => { c with out := true, byShepherd := e.2.isSome }) t)
      match e.2 with
      | some h => if ((u.part k).resides.any fun r => r.ctx == h) then makeResident k h u else u
      | none => u) s

/-- Start the swap-out of a context, with the slot reserved for another when the shepherd decides it (R386, R387). -/
def swapOut (k h : Nat) (reserved : Option Nat) (s : State) : State :=
  let l := if t2Usable s then swapBales s h else []
  let t := forAll l (fun b u => evictBale b.1 b.2 u) s
  serveFrames k (finishSwaps k (updPart k (fun q => { q with swapping := q.swapping ++ [(h, reserved)] }) t))

/-- The blocked resident context with the latest block beat, the highest handle on a tie (R386). -/
def swapVictim (s : State) (k : Nat) : Option Ctx :=
  (residentCtxs s k).foldl (fun m c => match m with
    | none => some c
    | some x => if x.blockBeat < c.blockBeat || (x.blockBeat == c.blockBeat && x.handle < c.handle) then some c else some x) none

/-- The decisions of R386 for one partition, one queue entry a turn. -/
def resideTurns : Nat → Nat → State → State
  | 0, _, s => s
  | fuel + 1, k, s =>
    match queueHead (s.part k) with
    | none => s
    | some r =>
      if slotFree s k then resideTurns fuel k (makeResident k r.ctx s)
      else if (s.part k).swapping.isEmpty && (residentCtxs s k).all (ctxBlocked s) then
        match swapVictim s k with
        | some v => resideTurns fuel k (swapOut k v.handle (some r.ctx) s)
        | none => s
      else s

/-- R386 in every partition. -/
def resideDecisions (s : State) : State :=
  forAll (partList s) (fun k t => settled (fun u => resideTurns (u.part k).resides.length k u) t) s

/-! ## The context commands -/

def contextRegisterBody (p : Post) (priority : Nat) (s : State) : Reply :=
  let k := postTarget p
  if 7 < priority then .done stBadArg [] s
  else if 256 ≤ (s.ctxs.filter fun c => !c.cancelled).length then .done stBadState [] s
  else
    let h := s.nextCtx
    let c : Ctx := { handle := h, func := p.func, part := k, priority := priority, out := !slotFree s k, runnable := false,
                     waits := 0, blockBeat := 0, byShepherd := false, since := now s, cancelled := false, goneAt := 0 }
    .done stOk (leBytes 4 h ++ zeros 4) { s with ctxs := s.ctxs ++ [c], nextCtx := h + 1 }

/-- Whether an ACCEPTED command of a context is in progress. -/
def ctxBusy (s : State) (h : Nat) : Bool := s.host.progs.any fun g => g.ctx == h

/-- Release what a context owns: codec sessions, tensors with their pins, key-value sequences, its slot and its tables (R389). -/
def releaseResources (h status : Nat) (s : State) : State :=
  let s1 := forAll (s.codec.sessions.filter fun x => x.ctx == h) (fun x t => abortSession status x.handle t) s
  let s2 := forAll (s1.place.tensors.filter fun t => t.maps.any fun m => m.ctx == h) (fun t u => unmapTensor h t.handle u) s1
  let s3 := forAll (s2.place.seqs.filter fun q => q.ctx == h) (fun q u => destroySeq q.part q.handle u) s2
  forAll (partList s3) (fun k => updPart k fun q =>
    { q with resides := q.resides.filter fun r => r.ctx != h, swapping := q.swapping.filter fun e => e.1 != h }) s3

def contextReleaseBody (p : Post) (ctx : Nat) : State → Reply :=
  withCtx p ctx fun c s =>
    if ctxHasRun s c || ctxBusy s ctx then .done stBadState [] s
    else .done stOk [] (updCtxs (fun l => l.filter fun x => x.handle != ctx) (releaseResources ctx stOk s))

def contextResideBody (p : Post) (ctx : Nat) (out : Bool) : State → Reply :=
  withCtx p ctx fun c s =>
    let k := postTarget p
    if out then
      if ctxHasRun s c then .done stBadState [] s
      else if c.out || (s.part k).swapping.any (fun e => e.1 == ctx) then .done stOk [] s
      else .done stOk [] (swapOut k ctx none s)
    else if !c.out then .done stOk [] s
    else if slotFree s k && (s.part k).resides.isEmpty then .done stOk [] (makeResident k ctx s)
    else
      let t := if (s.part k).resides.any (fun r => r.ctx == ctx) then s
        else enterReside k ctx c.priority s.clock.beat s
      .accept none [] ctx k (.reside ctx) t

/-! ## Cancels (R408, R409) -/

/-- Whether host transfers of a context are still in flight. -/
def ctxCopies (s : State) (h : Nat) : Bool := s.host.copies.any fun c => c.ctx == h

/-- The commands of a context that a cancel completes at once: all but host transfers, which end at a sector boundary. -/
def cancelNow (h : Nat) (g : InProgress) : Bool :=
  g.ctx == h && match g.job with
    | .cancel _ => false
    | .hostCopy _ => false
    | .run _ _ => false
    | .codec _ => false
    | .close _ => false
    | _ => true

/-- A load that is cut short leaves its tensor incomplete (R261). -/
def dropLoads (h : Nat) (s : State) : State :=
  forAll (s.place.loads.filter fun l => l.ctx == h) (fun l t =>
    updPlace (fun p => { p with loads := p.loads.filter fun x => x.tensor != l.tensor })
      (updTensor l.tensor (fun x => { x with load := 2 }) t)) s

/-- End the RUNs of a context with a status (R408 steps 1 and 2). -/
def endCtxRuns (k h status : Nat) (s : State) : State :=
  let s1 := match (s.part k).waiting with
    | some r => if r.ctx == h then endWaiting k status 0 s else s
    | none => s
  match (s1.part k).run with
  | some r => if r.ctx == h then endRun k status 0 0 0 (if (s1.part k).st == .running then quiesce k false s1 else s1) else s1
  | none => s1

/-- A cancel, from the decision on: RUNs, commands, sessions and, unless host transfers remain, resources (R408). -/
def cancelContext (h : Nat) (s : State) : State :=
  match ctxOf s h with
  | none => s
  | some c =>
    let s1 := endCtxRuns c.part h stCancelled s
    let s2 := forAll (s1.codec.sessions.filter fun x => x.ctx == h) (fun x t => abortSession stCancelled x.handle t) s1
    let s3 := dropLoads h (completeAll (cancelNow h) stCancelled s2)
    let s4 := updFabric (fun f => { f with copies := f.copies.filter fun x => x.ctx != h }) s3
    let s5 := updCtx h (fun x => { x with cancelled := true, waits := 0, runnable := false }) s4
    let s6 := updRecov (fun v => { v with cancels := v.cancels ++ [(h, now s)] }) s5
    if ctxCopies s6 h then s6 else releaseResources h stCancelled s6

/-- End the cancels whose work is gone, at a beat boundary after their decision (R408, R409). -/
def finishCancels (s : State) : State :=
  forAll s.recov.cancels (fun e t =>
    if ctxCopies t e.1 || now t ≤ e.2 then t
    else
      let u := updRecov (fun v => { v with cancels := v.cancels.filter fun x => x.1 != e.1 })
        (updCtx e.1 (fun c => { c with goneAt := t.clock.elapsed }) (releaseResources e.1 stCancelled t))
      completeAll (fun g => g.job == .cancel e.1) stOk u) s

def contextCancelBody (p : Post) (ctx : Nat) : State → Reply :=
  withCtx p ctx fun c s => .accept (some (s.clock.beat + 4)) [] ctx c.part (.cancel ctx) (cancelContext ctx s)

def execContextRegister (p : Post) (priority : Nat) (s : State) : Result State :=
  .next (settledCmd (mailbox p rowContextRegister 1 (contextRegisterBody p priority)) s)
def execContextRelease (p : Post) (ctx : Nat) (s : State) : Result State :=
  .next (settledCmd (mailbox p rowContextRelease 1 (contextReleaseBody p ctx)) s)
def execContextReside (p : Post) (ctx : Nat) (out : Bool) (s : State) : Result State :=
  .next (settledCmd (mailbox p rowContextReside 1 (contextResideBody p ctx out)) s)
def execContextCancel (p : Post) (ctx : Nat) (s : State) : Result State :=
  .next (settledCmd (mailbox p rowContextCancel 1 (contextCancelBody p ctx)) s)

/-- Whether a cancelled handle has been kept for 1,200,000 beats (R409). -/
def handleExpired (s : State) (h : Nat) : Bool :=
  match ctxOf s h with
  | some c => c.cancelled && !(s.recov.cancels.any fun e => e.1 == h) && c.goneAt + 1200000 ≤ s.clock.elapsed
  | none => false

def execHandleExpiry (ctx : Nat) (s : State) : Result State :=
  event "HANDLE_EXPIRY" (handleExpired s ctx) (updCtxs (fun l => l.filter fun x => x.handle != ctx) s)

/-! ## Sync counters (R396 to R398) -/

def syncAddBody (p : Post) (counter : Nat) (set : Bool) (value : Nat) (s : State) : Reply :=
  let k := postTarget p
  let v := if set then value else syncValue s k counter + value
  if 2 ^ 64 ≤ v then .done stBadArg [] s else .done stOk (leBytes 8 v) (setSync k counter v s)

def syncReadBody (p : Post) (first count : Nat) (s : State) : Reply :=
  let k := postTarget p
  if count < 1 || 500 < count then .done stBadLength [] s
  else if 4096 < first + count then .done stBadArg [] s
  else .done stOk ((List.range count).flatMap fun i => leBytes 8 (syncValue s k (first + i))) s

def syncWaitBody (p : Post) (ctx counter value timeout : Nat) : State → Reply :=
  withCtx p ctx fun c s =>
    if 1200000 < timeout then .done stBadArg [] s
    else
      let due := if timeout = 0 then none else some (s.clock.beat + 1 + timeout)
      .accept due [] ctx c.part (.syncWait ctx counter value (due.getD 0))
        (updCtx ctx (fun c => { c with waits := c.waits + 1 }) s)

def execSyncAdd (p : Post) (counter : Nat) (set : Bool) (value : Nat) (s : State) : Result State :=
  .next (mailbox p rowSyncAdd 2 (syncAddBody p counter set value) s)
def execSyncRead (p : Post) (first count : Nat) (s : State) : Result State :=
  .next (mailbox p rowSyncRead 1 (syncReadBody p first count) s)
def execSyncWait (p : Post) (ctx counter value timeout : Nat) (s : State) : Result State :=
  .next (settledCmd (mailbox p rowSyncWait 3 (syncWaitBody p ctx counter value timeout)) s)

/-- Complete a wait with MET and the value that it saw (R398). -/
def endWait (g : InProgress) (ctx counter : Nat) (met : Bool) (s : State) : State :=
  let v := syncValue s g.part counter
  completeProg g stOk (leBytes 4 (boolNat met) ++ zeros 4 ++ leBytes 8 v) (updCtx ctx (fun c => { c with waits := c.waits - 1 }) s)

/-- Evaluate every pending wait: from the second beat after its sampling on (R395 step 2, R398). -/
def evaluateWaits (s : State) : State :=
  forAll s.host.progs (fun g t => match g.job with
    | .syncWait ctx counter value _ =>
      if g.sampled + 2 ≤ t.clock.beat then
        if value ≤ syncValue t g.part counter then endWait g ctx counter true t else t
      else t
    | _ => t) s

/-- The wait of a mailbox, if its timeout beat has come. -/
def timedWait (s : State) (func mbx : Nat) : Option InProgress :=
  findProg s fun g => g.post.func == func && g.post.mbx == mbx && match g.job with
    | .syncWait _ _ _ deadline => deadline != 0 && deadline ≤ s.clock.beat
    | _ => false

def timeoutWait (func mbx : Nat) (s : State) : State :=
  match timedWait s func mbx with
  | none => s
  | some g => match g.job with
    | .syncWait ctx counter value _ => endWait g ctx counter (value ≤ syncValue s g.part counter) s
    | _ => s

def execSyncWaitTimeout (func mbx : Nat) (s : State) : Result State :=
  event "SYNC_WAIT_TIMEOUT" (timedWait s func mbx).isSome (settled (timeoutWait func mbx) s)

end Sys2Proof.Machine
end

