-- ==== Sys2Proof/Machine/Transfers.lean ====
section
/-! DEFINITION. The ends of lower-tier transfers (R244, R248, R262, R297): promotions, write-backs, frame zeroing, and the T2
responses and timeouts of the CXL link (R357). -/

namespace Sys2Proof.Machine

/-- Copy a range of one byte table into another. -/
def copyRange (src : Table Byte) (a : Nat) (dst : Table Byte) (b n : Nat) : Table Byte :=
  (src.filter fun e => a ≤ e.1 && e.1 < a + n).foldl (fun t e => tput (e.1 - a + b) e.2 t) (clearRange b n dst)

/-- The host address of a bale's T2 home, and its frame. -/
def baleHome (s : State) (t : Tensor) (b : Bale) : Option Nat := b.home.map (homeHost s t.part)

/-- Whether a line of a bale's home is poisoned in host memory (R293). -/
def homePoisoned (s : State) (t : Tensor) (b : Bale) : Bool :=
  match baleHome s t b with
  | some a => s.hbm.t2poison.any fun x => a ≤ 64 * x && 64 * x < a + baleBytes
  | none => false

/-- Whether a bale's promotion runs: it has its frame, and that frame is zeroed where it must be. -/
def promoting (s : State) (h i : Nat) : Bool :=
  match findTensor s h, getBale s h i with
  | some t, some b => b.st == .promoting && match b.frame with
    | some f => !s.place.zeroing.contains (t.part, f)
    | none => false
  | _, _ => false

/-- Whether a bale's transfer crosses the CXL link: a write-back, or a promotion of a bale that is not ZERO. -/
def crossesLink (s : State) (h i : Nat) : Bool :=
  match getBale s h i with
  | some b => b.st == .evicting || (promoting s h i && !b.zero)
  | none => false

/-- The copy of a promotion: the bytes of the home, or zeros for a ZERO bale (R237, R243). -/
def fillFrame (t : Tensor) (b : Bale) (s : State) : State :=
  match b.frame with
  | none => s
  | some f =>
    let u := zeroFrame f s
    match b.zero, baleHome s t b with
    | false, some a => updHbm (fun h => { h with t1 := copyRange h.t2 a h.t1 f baleBytes }) u
    | _, _ => u

/-- Re-evaluate an eviction intent (R244). -/
def settleIntent (h i k : Nat) (s : State) : State :=
  match getBale s h i with
  | none => s
  | some b =>
    if !b.intent then s
    else
      let go := b.st == .resident && !held s (h, i)
      let t := daybook 0x0041 k noEngine 0 (leBytes 4 h ++ leBytes 4 i ++ leBytes 1 (boolNat (!go))) s
      let u := updBale h i (fun x => { x with intent := false }) t
      if go then serveFrames k (evictBale h i u) else u

/-- A promotion completes (R244). -/
def promotionDone (h i : Nat) (s : State) : State :=
  match findTensor s h, getBale s h i with
  | some t, some b =>
    let s1 := updBale h i (fun x =>
      { x with st := if x.pinPending.isSome then .pinned else .resident, pin := x.pinPending, pinPending := none, dirty := false,
               lastUse := s.clock.beat }) (entryChange h (fillFrame t b s))
    settleIntent h i t.part (finishAllocs (settle false h i .ok s1))
  | _, _ => s

/-- A promotion fails (R244): the frame is freed and its requests complete with LOWER_TIER_FAIL. -/
def promotionFail (h i : Nat) (s : State) : State :=
  match findTensor s h, getBale s h i with
  | some t, some b =>
    let s1 := updBale h i (fun x => { x with st := .inT2, frame := none, intent := false, pinPending := none }) s
    let s2 := match b.frame with
      | some f => unmarkFrame f s1
      | none => s1
    serveFrames t.part (lowerTierRecord t.part 2 h i 0 (settle false h i .failed s2))
  | _, _ => s

/-- The lines of a frame that are poisoned, as lines of its home (R293). -/
def carryPoison (f a : Nat) (s : State) : State :=
  let bad := ((sectorsOf f baleBytes).filter (sectorPoisoned s)).map fun x => x - f / 64 + a / 64
  let keep (l : List Nat) : List Nat := l.filter fun x => !(a ≤ 64 * x && 64 * x < a + baleBytes)
  updHbm (fun h => { h with t2poison := bad.foldl (fun l x => insertSorted x l) (keep h.t2poison) }) s

/-- A frame's bytes as they read, written to its home (R243, R293). -/
def writeHome (t : Tensor) (b : Bale) (s : State) : State :=
  match b.frame, baleHome s t b with
  | some f, some a => endRead (sectorsOf f baleBytes) <| carryPoison f a (updHbm (fun h => { h with t2 := copyRange h.t1 f h.t2 a baleBytes }) s)
  | _, _ => s

/-- A write-back completes (R244). -/
def writeBackDone (h i : Nat) (s : State) : State :=
  match findTensor s h, getBale s h i with
  | some t, some b =>
    let s1 := settle true h i .ok (toT2 h i (writeHome t b s))
    let s2 := if b.waitPromote || b.pinPending.isSome then startPromotion h i s1 else s1
    finishSwaps t.part (serveFrames t.part s2)
  | _, _ => s

/-- The allocations of a partition that wait for frames and can get none any more end with LOWER_TIER_FAIL (R248). -/
def failAllocs (k : Nat) (s : State) : State :=
  let l := (((waitingBales s k).drop (comingFrames s k)).map (·.1)).dedup
  forAll s.host.progs (fun g t => match g.job with
    | .alloc _ h => if l.contains h then dropTensor h (completeProg g stLowerTierFail [] t) else t
    | _ => t) s

/-- A write-back fails (R244, R248). -/
def writeBackFail (h i : Nat) (s : State) : State :=
  match findTensor s h, getBale s h i with
  | some t, some b =>
    let s1 := updBale h i (fun x =>
      { x with st := if x.pinPending.isSome then .pinned else .resident, pin := x.pinPending, pinPending := none,
               waitPromote := false, wbFailed := true }) s
    let s2 := lowerTierRecord t.part 2 h i 1 (settle true h i .failed s1)
    let s3 := if b.waitPromote || b.pinPending.isSome then settle false h i .ok s2 else s2
    finishSwaps t.part (failWaiting t.part .failed (failAllocs t.part (serveFrames t.part s3)))
  | _, _ => s

def bytesInT2 (s : State) (h i : Nat) : Bool :=
  match findTensor s h, getBale s h i with
  | some t, some b => !homePoisoned s t b
  | _, _ => false

def zeroBale (s : State) (h i : Nat) : Bool := ((getBale s h i).map (·.zero)).getD false

def evicting (s : State) (h i : Nat) : Bool := ((getBale s h i).map fun b => b.st == .evicting).getD false

def execPromotionDone (tensor bale : Nat) (s : State) : Result State :=
  event "PROMOTION_DONE" (promoting s tensor bale && (zeroBale s tensor bale || (t2Usable s && bytesInT2 s tensor bale)))
    (settled (promotionDone tensor bale) s)
def execPromotionFail (tensor bale : Nat) (s : State) : Result State :=
  event "PROMOTION_FAIL" (promoting s tensor bale && !zeroBale s tensor bale) (settled (promotionFail tensor bale) s)
def execWriteBackDone (tensor bale : Nat) (s : State) : Result State :=
  event "WRITE_BACK_DONE" (evicting s tensor bale && t2Usable s) (settled (writeBackDone tensor bale) s)
def execWriteBackFail (tensor bale : Nat) (s : State) : Result State :=
  event "WRITE_BACK_FAIL" (evicting s tensor bale) (settled (writeBackFail tensor bale) s)

/-- End a bale's transfer in failure. -/
def transferFail (h i : Nat) (s : State) : State :=
  if evicting s h i then writeBackFail h i s else promotionFail h i s

/-- A response to a T2 request: poisoned data fail a promotion (R357); a good one ends nothing by itself, and the transfer's next request
has its own 1,000 beats. -/
def t2Response (h i : Nat) (poison : Bool) (s : State) : State :=
  if poison && promoting s h i then promotionFail h i s else updBale h i (fun b => { b with asked := s.clock.elapsed }) s

/-- A transfer's request has had no response within 1,000 beats. -/
def t2Overdue (s : State) (h i : Nat) : Bool :=
  crossesLink s h i && match getBale s h i with
    | some b => b.asked + 1000 ≤ s.clock.elapsed
    | none => false

def execT2Response (tensor bale : Nat) (poison : Bool) (s : State) : Result State :=
  event "T2_RESPONSE" (crossesLink s tensor bale) (settled (t2Response tensor bale poison) s)
def execT2Timeout (tensor bale : Nat) (s : State) : Result State :=
  event "T2_TIMEOUT" (t2Overdue s tensor bale) (settled (transferFail tensor bale) s)

/-- The zeroing of a frame ends (R297): a commons that was being zeroed as a whole ends its TIER.CONFIG (R241). -/
def endZeroing (f : Nat) (s : State) : State :=
  match s.place.zeroing.find? fun z => z.2 == f with
  | none => s
  | some z =>
    let start (t : Tensor) : Tensor := { t with bales := mapIf (fun b => b.frame == some f) (fun b => { b with asked := s.clock.elapsed }) t.bales }
    let s1 := updPlace (fun p => { p with zeroing := p.zeroing.filter (· != z), tensors := p.tensors.map start }) s
    match findProg s1 (fun g => g.job == .config z.1) with
    | some g =>
      if f = commonsBase z.1 then completeProg g stOk [] (clearCommons z.1 s1) else finishAllocs (zeroFrame f s1)
    | none =>
      if f = commonsBase z.1 && !(usedFrames s1).contains f then clearCommons z.1 s1 else finishAllocs (zeroFrame f s1)

def execFrameZeroDone (frame : Nat) (s : State) : Result State :=
  event "FRAME_ZERO_DONE" (s.place.zeroing.any fun z => z.2 == frame) (endZeroing frame s)

end Sys2Proof.Machine
end

