-- ==== Sys2Proof/Machine/Loads.lean ====
section
/-! DEFINITION. WEIGHT.LOAD: shard manifests and their checks (R257, R258), and the fetch of shards from network storage
(R259 to R262). -/

namespace Sys2Proof.Machine

/-- CRC-64 of R258: ECMA-182, reflected, initial value and final XOR all ones. -/
def crc64 (l : List Byte) : Nat := crcRaw 0xC96C5795D7870F42 (2 ^ 64 - 1) l ^^^ (2 ^ 64 - 1)

/-- A manifest's header (R257). -/
structure Manifest where
  nReplica : Nat
  nShard : Nat
  nChunk : Nat
  tensorBytes : Nat
  length : Nat
  shardOff : Nat
  crcOff : Nat
  deriving DecidableEq, Repr

/-- Read a header, if MAGIC, VERSION, the counts and the reserved bytes are as R257 gives. -/
def readManifest (b : List Byte) : Option Manifest :=
  if fieldAt b 0 4 = 0x4D53564F && fieldAt b 4 2 = 1 && between 1 8 (fieldAt b 6 2) && between 1 65536 (fieldAt b 8 4)
      && fieldAt b 48 16 = 0 && 224 ≤ fieldAt b 24 8 then
    some ⟨fieldAt b 6 2, fieldAt b 8 4, fieldAt b 12 4, fieldAt b 16 8, fieldAt b 24 8, fieldAt b 32 8, fieldAt b 40 8⟩
  else none

def readShard (b : List Byte) : Shard :=
  ⟨fieldAt b 0 8, fieldAt b 8 8, fieldAt b 16 4, fieldAt b 20 1, (b.drop 64).take 64⟩

/-- The chunks of a shard (R257). -/
def shardChunks (x : Shard) : Nat := ceilDiv x.length mib

def readReplica (b : List Byte) : Replica := ⟨b.take 16, fieldAt b 16 3, fieldAt b 20 4, fieldAt b 24 8, fieldAt b 32 1⟩

/-- Each chunk of each shard has its own entry of the CRC table. -/
def crcsFit (m : Manifest) (shards : List Shard) : Bool :=
  (shards.map shardChunks).sum == m.nChunk
    && shards.zipIdx.all fun e => (shards.drop (e.2 + 1)).all fun y =>
      e.1.crcIndex + shardChunks e.1 ≤ y.crcIndex || y.crcIndex + shardChunks y ≤ e.1.crcIndex

/-- The rules of R257 on the tables of a manifest: the parts lie in order within LENGTH, and the shards cover the tensor. -/
def tablesFit (m : Manifest) (size : Nat) (img : List Byte) (shards : List Shard) : Bool :=
  let ends := shards.map fun x => x.offset + x.length
  m.tensorBytes == size && crcsFit m shards && 64 + 64 * m.nReplica ≤ m.shardOff && m.shardOff + 128 * m.nShard ≤ m.crcOff
    && m.crcOff + 8 * m.nChunk ≤ m.length - 160
    && shards.map (·.offset) == 0 :: ends.dropLast && ends.getLast? == some size
    && shards.zipIdx.all (fun e =>
      e.1.offset % mib == 0 && between 1 gib e.1.length && (e.1.length % mib == 0 || e.2 + 1 == shards.length)
        && e.1.replicas != 0 && e.1.replicas < 2 ^ m.nReplica && e.1.crcIndex + shardChunks e.1 ≤ m.nChunk)
    && (List.range m.nReplica).all (fun i =>
      let r := (img.drop (64 + 64 * i)).take 64
      [7, 15, 255].contains (fieldAt r 32 1) && fieldAt r 19 1 == 0 && fieldAt r 33 31 == 0)
    && (List.range m.nShard).all (fun i => fieldAt img (m.shardOff + 128 * i + 21) 43 == 0)
    && fieldAt img (m.length - 20) 20 == 0

/-- Whether the manifest's signature verifies under an installed key that is not revoked (R258, R460). -/
def manifestSigned (s : State) (m : Manifest) (img : List Byte) : Bool :=
  let id := fieldAt img (m.length - 160) 8
  id != 0 && s.sec.keys.any fun e =>
    e.2.keyId == id && !e.2.revoked
      && Config.ecdsaVerify e.2.pub ((img.drop (m.length - 152)).take 132) (Config.sha512 (img.take (m.length - 160)))

/-- Ask for a shard of a load from a replica: an RDMA READ of its bytes (R257, R259). -/
def askShard (l : Load) (shard replica : Nat) (s : State) : State :=
  match l.replicas[replica]?, l.shards[shard]? with
  | some q, some x => emit (.rdmaRead l.tensor shard q (q.remoteVa + x.offset) x.length) s
  | _, _ => s

/-- The lowest replica of a mask, at or after a number and wrapping, that is in none of the lists. -/
def nextReplica (mask from_ : Nat) (gone : List Nat) : Option Nat :=
  (List.range 8).findSome? fun i =>
    let q := (from_ + i) % 8
    if bit mask q && !gone.contains q then some q else none

/-- Start the fetches that the window of four allows, in index order (R259). -/
def fillFlight : Nat → Load → State → Load × State
  | 0, l, s => (l, s)
  | fuel + 1, l, s =>
    if l.flight.length < 4 && l.nextShard < l.shards.length then
      let q := ((l.shards[l.nextShard]?).bind fun x => nextReplica x.replicas 0 []).getD 0
      fillFlight fuel { l with nextShard := l.nextShard + 1, flight := l.flight ++ [⟨l.nextShard, now s, q, 0, 0, [], [], []⟩] }
        (askShard l l.nextShard q s)
    else (l, s)

def setLoad (l : Load) : State → State :=
  updPlace fun p => { p with loads := mapIf (fun x => x.tensor == l.tensor) (fun _ => l) p.loads }

def findLoad (s : State) (tensor : Nat) : Option Load := s.place.loads.find? fun l => l.tensor == tensor

def weightLoadBody (p : Post) (ctx h manifest : Nat) (verified : Bool) : State → Reply :=
  withCtx p ctx fun c s =>
    match mappedTensor s ctx h with
    | none => .done stBadArg [] s
    | some t =>
      if t.load = 1 then .done stBadState [] s
      else match rangeCheck s ctx manifest 64 with
        | some st => .done st [] s
        | none =>
          match readManifest (readVa s ctx manifest 64) with
          | none => .done stBadArg [] s
          | some m =>
            match rangeCheck s ctx manifest m.length with
            | some st => .done st [] s
            | none =>
              let img := readVa s ctx manifest m.length
              let shards := (List.range m.nShard).map fun i => readShard ((img.drop (m.shardOff + 128 * i)).take 128)
              if !manifestSigned s m img then .done stDenied [] s
              else if !tablesFit m t.size img shards then .done stBadArg [] s
              else
                let l0 : Load :=
                  { tensor := h, ctx := ctx, verified := verified, shards := shards,
                    crcs := (List.range m.nChunk).map fun i => fieldAt img (m.crcOff + 8 * i) 8,
                    replicas := (List.range m.nReplica).map fun i => readReplica ((img.drop (64 + 64 * i)).take 64),
                    flight := [], nextShard := 0, done := 0, refetches := 0 }
                let r := fillFlight 4 l0 s
                .accept none [] ctx c.part (.load h)
                  (updPlace (fun q => { q with loads := q.loads ++ [r.1] }) (updTensor h (fun x => { x with load := 1 }) r.2))

def execWeightLoad (p : Post) (ctx tensor manifest : Nat) (verified : Bool) (s : State) : Result State :=
  .next (mailbox p rowWeightLoad 3 (weightLoadBody p ctx tensor manifest verified) s)

/-! ## Fetching -/

/-- The result of WEIGHT.LOAD (R260). -/
def loadResult (l : Load) (shard : Nat) : List Byte := leBytes 4 l.done ++ leBytes 4 l.refetches ++ leBytes 4 shard

/-- End a load (R261): OK completes the tensor; any other status leaves it incomplete and is recorded (R262, R425). -/
def endLoad (l : Load) (status shard : Nat) (s : State) : State :=
  let k := ((findTensor s l.tensor).map (·.part)).getD 0
  let s1 := updPlace (fun p => { p with loads := p.loads.filter fun x => x.tensor != l.tensor })
    (updTensor l.tensor (fun t => { t with load := if status = stOk then 0 else 2 }) s)
  let s2 := if status = stOk then s1
    else daybook 0x0042 k noEngine l.ctx (leBytes 4 l.tensor ++ leBytes 4 shard ++ leBytes 2 status) s1
  let s3 := if status = stLowerTierFail then lowerTierRecord k 3 l.tensor 0xFFFF_FFFF 2 s2 else s2
  match findProg s3 (fun g => g.job == .load l.tensor) with
  | some g => completeProg g status (loadResult l shard) s3
  | none => s3

def updFetch (shard : Nat) (f : ShardFetch → ShardFetch) (l : Load) : Load :=
  { l with flight := mapIf (fun x => x.shard == shard) f l.flight }

/-- A shard is done: the next ones start, and the last ends the load (R259). -/
def shardDone (l : Load) (shard : Nat) (s : State) : State :=
  let r := fillFlight 4 { l with done := l.done + 1, flight := l.flight.filter fun x => x.shard != shard } s
  if r.1.done = r.1.shards.length then endLoad r.1 stOk 0xFFFF_FFFF (setLoad r.1 r.2) else setLoad r.1 r.2

/-- Fetch a shard again in full from a replica. -/
def refetch (l : Load) (f : ShardFetch) (q : Nat) (s : State) : State :=
  setLoad (updFetch f.shard (fun _ => { f with replica := q, next := 0, since := now s, content := [] }) l) (askShard l f.shard q s)

/-- A corrupt shard (R259): a refetch from the next replica, or SHARD_CORRUPT after three. -/
def shardCorrupt (l : Load) (f : ShardFetch) (x : Shard) (s : State) : State :=
  if 3 ≤ f.refetches then endLoad l stShardCorrupt f.shard s
  else match nextReplica x.replicas (f.replica + 1) (f.absent ++ f.skipped) with
    | some q =>
      let l1 := { l with refetches := l.refetches + 1 }
      refetch l1 { f with refetches := f.refetches + 1 } q s
    | none => endLoad l stShardCorrupt f.shard s

/-- A replica is skipped (R259): the next one, or the end of the load. -/
def skipReplica (l : Load) (f : ShardFetch) (x : Shard) (s : State) : State :=
  match nextReplica x.replicas f.replica (f.absent ++ f.skipped) with
  | some q => refetch l f q s
  | none =>
    endLoad l (if (List.range 8).all (fun q => !bit x.replicas q || f.absent.contains q) then stShardMissing else stLowerTierFail)
      f.shard s

/-- Where a byte of a tensor is kept: a T1 frame, or its T2 home at a host address; none while its bale is in transfer (R260). -/
inductive Keep where
  | frame (pa : Nat)
  | home (host : Nat)
  | busy
  deriving DecidableEq, Repr

def keepOf (s : State) (t : Tensor) (off : Nat) : Keep :=
  match t.bales[off / baleBytes]? with
  | none => .busy
  | some b =>
    match b.st, b.frame, b.home with
    | .resident, some f, _ => .frame (f + off % baleBytes)
    | .pinned, some f, _ => .frame (f + off % baleBytes)
    | .inT2, _, some h => .home (homeHost s t.part h + off % baleBytes)
    | _, _, _ => .busy

/-- Write bytes of a load into a bale; the rest of a home that holds a ZERO bale reads zeros from then on (R237, R247, R260). -/
def writeKept (t : Tensor) (off : Nat) (d : List Byte) (s : State) : State :=
  match keepOf s t off with
  | .frame pa => writeT1 pa d s
  | .home a =>
    let fresh := (t.bales[off / baleBytes]?).any (·.zero)
    updBale t.handle (off / baleBytes) (fun b => { b with zero := false })
      (updHbm (fun h =>
        { h with t2 := putBytes (if fresh then clearRange (a - off % baleBytes) baleBytes h.t2 else h.t2) a d
                 t2poison := h.t2poison.filter fun x => !(if fresh then a - off % baleBytes ≤ 64 * x && 64 * x < a - off % baleBytes + baleBytes
                   else a ≤ 64 * x && 64 * x + 64 ≤ a + d.length) }) s)
  | .busy => s

/-- The bytes of chunk c of a shard. -/
def chunkLen (x : Shard) (c : Nat) : Nat := min mib (x.length - c * mib)

/-- A chunk arrives: its CRC is checked before it is written; the last chunk ends the shard, whose digest is that of the
chunks as they came (R258). -/
def takeChunk (l : Load) (f : ShardFetch) (x : Shard) (t : Tensor) (c : Nat) (d : List Byte) (s : State) : State :=
  if crc64 d != l.crcs.getD (x.crcIndex + c) 0 then shardCorrupt l f x s
  else
    let s1 := writeKept t (x.offset + c * mib) d s
    if c + 1 < shardChunks x then setLoad (updFetch f.shard (fun _ => { f with next := c + 1, since := now s, content := f.content ++ d }) l) s1
    else if l.verified && Config.sha512 (f.content ++ d) != x.digest then shardCorrupt l f x s1
    else shardDone l f.shard s1

/-- The load, its fetch, shard and tensor that an event names. -/
def fetchOf (s : State) (tensor shard : Nat) : Option (Load × ShardFetch × Shard × Tensor) :=
  match findLoad s tensor, findTensor s tensor with
  | some l, some t =>
    match l.flight.find? fun f => f.shard == shard, l.shards[shard]? with
    | some f, some x => some (l, f, x, t)
    | _, _ => none
  | _, _ => none

def chunkDue (s : State) (tensor shard chunk : Nat) (d : List Byte) : Bool :=
  match fetchOf s tensor shard with
  | some (_, f, x, t) =>
    f.next == chunk && chunk < shardChunks x && d.length == chunkLen x chunk && keepOf s t (x.offset + chunk * mib) != .busy
  | none => false

def chunkArrive (tensor shard chunk : Nat) (d : List Byte) (s : State) : State :=
  match fetchOf s tensor shard with
  | some (l, f, x, t) => takeChunk l f x t chunk d s
  | none => s

def execChunkArrive (tensor shard chunk : Nat) (data : List Byte) (s : State) : Result State :=
  event "CHUNK_ARRIVE" (chunkDue s tensor shard chunk data) (chunkArrive tensor shard chunk data s)

/-- The replica of a shard answers that it does not hold it. -/
def remoteAccessError (tensor shard : Nat) (s : State) : State :=
  match fetchOf s tensor shard with
  | some (l, f, x, _) =>
    let f1 := { f with absent := f.replica :: f.absent }
    skipReplica (updFetch shard (fun _ => f1) l) f1 x s
  | none => s

/-- The replica of a shard fails in transport. -/
def replicaFail (tensor shard : Nat) (s : State) : State :=
  match fetchOf s tensor shard with
  | some (l, f, x, _) =>
    let f1 := { f with skipped := f.replica :: f.skipped }
    skipReplica (updFetch shard (fun _ => f1) l) f1 x s
  | none => s

def replicaOverdue (s : State) (tensor shard : Nat) : Bool :=
  match fetchOf s tensor shard with
  | some (_, f, _, _) => f.since + 40000 ≤ s.clock.beat
  | none => false

def execRdmaRemoteAccessError (tensor shard : Nat) (s : State) : Result State :=
  event "RDMA_REMOTE_ACCESS_ERROR" (fetchOf s tensor shard).isSome (remoteAccessError tensor shard s)
def execReplicaTimeout (tensor shard : Nat) (s : State) : Result State :=
  event "REPLICA_TIMEOUT" (replicaOverdue s tensor shard) (replicaFail tensor shard s)

/-- Loss of an Ethernet gate fails in transport every fetch that can use no other (R257, R259). -/
def failFetches (g : Nat) (s : State) : State :=
  let up (e : Nat) : Bool := e != g && (s.gate e).st == 2 && gateEthernet s e
  forAll s.place.loads (fun l t =>
    forAll l.flight (fun f u =>
      let q := ((l.replicas[f.replica]?).map (·.gate)).getD 255
      if q = g || (q = 255 && !up 7 && !up 15) then replicaFail l.tensor f.shard u else u) t) s

end Sys2Proof.Machine
end

