-- ==== Sys2Proof/Machine/Link.lean ====
section
/-! DEFINITION. The host link: HOST.COPY and its drovers (R378, R358), the HDM window (R360, R379), link events (R355 to R359, R473),
and Data Object Exchange (R361). -/

namespace Sys2Proof.Machine

/-! ## HOST.COPY -/

def hostCopyBody (p : Post) (ctx dir sync va hostAddr bytes : Nat) : State → Reply :=
  withCtx p ctx fun c s =>
    if !between 64 (2 ^ 30) bytes || bytes % 64 != 0 then .done stBadLength [] s
    else if 1 < dir || !(sync < 4096 || sync == 0xFFFF) || va % 64 != 0 || hostAddr % 64 != 0 then .done stBadArg [] s
    else match rangeCheck s ctx va bytes with
      | some st => .done st [] s
      | none =>
        let id := s.host.nextCopy
        let x : HostCopy := { id := id, ctx := ctx, part := c.part, dir := dir, sync := sync, va := va, hostAddr := hostAddr,
                              bytes := bytes, since := now s, done := 0, dump := none, holds := rangeBales s ctx va bytes }
        .accept none [] ctx c.part (.hostCopy id)
          (updHost (fun h => { h with nextCopy := id + 1, copies := h.copies ++ [x] }) s)

def execHostCopy (p : Post) (ctx dir sync va hostAddr bytes : Nat) (s : State) : Result State :=
  .next (mailbox p rowHostCopy 4 (hostCopyBody p ctx dir sync va hostAddr bytes) s)

/-! ## Host drovers -/

/-- The engine bit of a host drover (R402). -/
def hostDroverBit (d : Nat) : Nat := 110 + d

/-- Requests are served in the order of their issue beats, then ascending partition (R37). -/
def servedBefore (a b : HostCopy) : Bool :=
  a.since < b.since || (a.since == b.since && (a.part < b.part || (a.part == b.part && a.id < b.id)))

/-- Whether a context's cancel has been decided. -/
def ctxCancelled (s : State) (h : Nat) : Bool := ((ctxOf s h).map (·.cancelled)).getD false

/-- The copy that a host drover serves. -/
def headCopy (s : State) (d : Nat) : Option HostCopy :=
  (s.host.copies.filter fun c =>
    hostDroverOf s c.part == d && c.since ≤ s.clock.beat && engineServes s (hostDroverBit d) c.ctx).foldl
    (fun m c => match m with
      | none => some c
      | some x => if servedBefore c x then some c else some x) none

def findCopy (s : State) (id : Nat) : Option HostCopy := s.host.copies.find? fun c => c.id == id

/-- The command of a copy. -/
def copyJob (c : HostCopy) : Job :=
  match c.dump with
  | some slot => .dumpRead c.id slot
  | none => .hostCopy c.id

/-- A copy ends with a status: its bales are released, its slot is read no more, and its command completes (R378, R420). -/
def endCopy (c : HostCopy) (done status : Nat) (s : State) : State :=
  let s1 := updHost (fun h => { h with copies := h.copies.filter fun x => x.id != c.id }) s
  let s2 := match c.dump with
    | some slot => updRecov (fun v => { v with dumps := tupd Dump.reset v.dumps slot fun d => { d with reading := false } }) s1
    | none => s1
  let s3 := if status = stOk && c.sync < 4096 then addSync c.part c.sync 1 s2 else s2
  let s4 := if status = stLowerTierFail then
      daybook 0x0040 c.part noEngine c.ctx (leBytes 1 2 ++ leBytes 4 0 ++ leBytes 4 0 ++ leBytes 1 3) s3
    else s3
  let s5 := match findProg s4 (fun g => g.job == copyJob c) with
    | some g => completeProg g status (leBytes 4 done ++ zeros 4) s4
    | none => s4
  clearSuspect (hostDroverBit (hostDroverOf s c.part)) c.ctx s5

/-- Progress of a copy. -/
def setDone (id done : Nat) : State → State :=
  updHost fun h => { h with copies := mapIf (fun c => c.id == id) (fun c => { c with done := done }) h.copies }

/-- Sectors from the host into T1 (R378). -/
def sectorsIn (c : HostCopy) (l : List (List Byte)) (s : State) : State :=
  forAll l.zipIdx (fun e t => writeVaPage c.ctx (c.va + c.done + 64 * e.2) e.1 t) s

/-- Whether a sector of a context's memory is poisoned (R293). -/
def vaPoisoned (s : State) (ctx va : Nat) : Bool :=
  match toT1 s ctx va with
  | some pa => sectorPoisoned s (pa / 64)
  | none => false

/-- The header of a dump (R418). -/
def dumpHeader (d : Dump) : List Byte :=
  leBytes 4 0x504D5544 ++ leBytes 2 1 ++ leBytes 1 d.level ++ leBytes 1 d.set ++ leBytes 8 d.id ++ leBytes 8 d.beat
    ++ leBytes 8 d.tally ++ leBytes 2 d.cause ++ leBytes 2 d.engine ++ leBytes 1 d.parts ++ leBytes 1 d.life
    ++ leBytes 2 d.nSect ++ leBytes 8 d.length ++ leBytes 8 256 ++ zeros 136

/-- A byte of a dump from 256 on: what was collected, or scratchpad content that the manual gives no layout (log 23). -/
def dumpBody (d : Dump) (off : Nat) : Byte :=
  if d.holes.any fun h => h.1 ≤ off && off < h.1 + h.2 then Config.dumpByte d.id off else tget 0 d.data off

/-- A byte of a dump: header, digest, body (R418). -/
def dumpByteAt (d : Dump) (off : Nat) : Byte :=
  if off < 192 then (dumpHeader d).getD off 0
  else if off < 256 then (Config.sha512 ((List.range (d.length - 256)).map fun i => dumpBody d (256 + i))).getD (off - 192) 0
  else dumpBody d off

/-- The 64 bytes that a copy to the host reads at an offset: T1, or a crash-dump slot (R420). -/
def outSector (s : State) (c : HostCopy) (off : Nat) : List Byte :=
  match c.dump with
  | some slot => (List.range 64).map fun i => dumpByteAt (tget Dump.reset s.recov.dumps slot) (c.va + off + i)
  | none => readVa s c.ctx (c.va + off) 64

/-- The read of a sector of a context's memory is over. -/
def endVa (ctx va : Nat) (t1 : Bool) (s : State) : State :=
  match t1, toT1 s ctx va with
  | true, some pa => endRead [pa / 64] s
  | _, _ => s

/-- Write n sectors to the host: a poisoned one is sent with poison and ends the transfer with BAD_STATE (R293). -/
def sectorsOut (c : HostCopy) : Nat → Nat → State → State × Nat × Bool
  | 0, done, s => (s, done, false)
  | n + 1, done, s =>
    let bad := c.dump.isNone && vaPoisoned s c.ctx (c.va + done)
    let t := endVa c.ctx (c.va + done) c.dump.isNone (emit (.hostWrite (c.hostAddr + done) (outSector s c done) bad) s)
    if bad then (t, done, true) else sectorsOut c n (done + 64) t

/-- Sectors of a copy complete; with `failed` the host side then fails (R358). -/
def copySectors (c : HostCopy) (l : List (List Byte)) (failed : Bool) (s : State) : State :=
  if ctxCancelled s c.ctx then endCopy c c.done stCancelled s
  else
    let r : State × Nat × Bool :=
      if c.dir = 0 then (sectorsIn c l s, c.done + 64 * l.length, false) else sectorsOut c l.length c.done s
    let t := setDone c.id r.2.1 r.1
    if r.2.2 then endCopy c r.2.1 stBadState t
    else if failed then endCopy c r.2.1 stLowerTierFail t
    else if r.2.1 = c.bytes then endCopy c r.2.1 stOk t
    else t

/-- Whether n sectors of a copy may complete now. -/
def copyServed (s : State) (c : HostCopy) (n : Nat) (failed : Bool) : Bool :=
  c.done + 64 * n ≤ c.bytes && (ctxCancelled s c.ctx
    || ((headCopy s (hostDroverOf s c.part)).map (·.id) == some c.id && (failed || s.host.up)))

def onCopy (id : Nat) (f : HostCopy → State → State) (s : State) : State :=
  match findCopy s id with
  | some c => f c s
  | none => s

def copyEnabled (s : State) (id : Nat) (f : HostCopy → Bool) : Bool :=
  match findCopy s id with
  | some c => f c
  | none => false

def execHostDroverCompletion (copy : Nat) (sectors : List (List Byte)) (failed : Bool) (s : State) : Result State :=
  event "HOST_DROVER_COMPLETION" (copyEnabled s copy fun c => copyServed s c sectors.length failed)
    (settled (onCopy copy fun c => copySectors c sectors failed) s)
def execHostCompletionTimeout (copy : Nat) (s : State) : Result State :=
  event "HOST_COMPLETION_TIMEOUT" (copyEnabled s copy fun c => c.dir == 0 && copyServed s c 0 true)
    (settled (onCopy copy fun c => copySectors c [] true) s)
def execHostSnoop (line : Nat) (s : State) : Result State := .next (emit (.snoopMiss line) s)

/-! ## The HDM window (R360) -/

/-- The window exists in CXL 3.1 mode (R356). -/
def hdmWindow (s : State) : Bool := s.host.up && s.host.linkMode == 0

def hdmAddr (off : Nat) : Nat := paddockBase (off / (48 * gib)) + off % (48 * gib)

/-- Whether an offset is backed (R360). -/
def hdmBacked (s : State) (off : Nat) : Bool :=
  let t := off / (48 * gib)
  let k := partOfStack s t
  off % (48 * gib) < paddockSize s (s.part k).commonsGib t && reserveOf s k t ≤ off % (48 * gib) && bit s.host.hdmParts k

/-- Ask the host to give up a line; it stays filtered until the host answers (R360, R379). -/
def backInvalidate (line : Nat) (s : State) : State :=
  if s.host.backInv.contains line then s
  else emit (.backInvalidate line) (updHost (fun h => { h with backInv := h.backInv ++ [line] }) s)

/-- Enter a line in the snoop filter, which holds 262,144: a full filter gives up its oldest line (R360). -/
def filterLine (line : Nat) (s : State) : State :=
  if s.host.snoop.contains line then s
  else
    let t := if 262144 ≤ s.host.snoop.length then
        match s.host.snoop with
        | old :: rest => backInvalidate old (updHost (fun h => { h with snoop := rest }) s)
        | [] => s
      else s
    updHost (fun h => { h with snoop := h.snoop ++ [line] }) t

def countUnbacked : State → State := updHost fun h => { h with hdmUnbacked := satAdd 64 h.hdmUnbacked 1 }

def hdmRead (off : Nat) (caches : Bool) (s : State) : State :=
  if !hdmWindow s then s
  else if !hdmBacked s off then emit (.hdmData off (zeros 64) true) (countUnbacked s)
  else
    let pa := hdmAddr off
    let t := endRead [pa / 64] (emit (.hdmData off (readT1s s pa 64) (sectorPoisoned s (pa / 64))) s)
    if caches then filterLine (pa / 64) t else t

def hdmWrite (off : Nat) (d : List Byte) (s : State) : State :=
  if !hdmWindow s then s
  else if !hdmBacked s off then countUnbacked s
  else writeT1 (hdmAddr off) d s

def execHdmRead (offset : Nat) (caches : Bool) (s : State) : Result State := .next (hdmRead offset caches s)
def execHdmWrite (offset : Nat) (data : List Byte) (s : State) : Result State := .next (hdmWrite offset data s)

/-- The lines of a partition's paddocks that the filter or a pending back-invalidation holds. -/
def partLines (s : State) (k : Nat) (l : List Nat) : List Nat := l.filter fun x => partOfPa s (64 * x) == k

/-- Back-invalidate every filtered line that satisfies a test. -/
def backInvalidateIf (f : Nat → Bool) (s : State) : State :=
  forAll (s.host.snoop.filter f) (fun l t => backInvalidate l (updHost (fun h => { h with snoop := h.snoop.filter (· != l) }) t)) s

/-- Whether back-invalidations of the partitions of a mask are still open. -/
def linesOpen (s : State) (mask : Nat) : Bool := s.host.backInv.any fun l => bit mask (partOfPa s (64 * l))

/-- Set the exposed partitions. -/
def expose (parts : Nat) : State → State := updHost fun h => { h with hdmParts := parts }

/-- HOST.HDM: withdrawn partitions give up their lines first; newly exposed ones are backed from the completion (R379). -/
def hostHdmBody (parts : Nat) (s : State) : Reply :=
  if s.host.linkMode != 0 then .done stBadState [] s
  else if 2 ^ s.mode ≤ parts then .done stBadArg [] s
  else
    let gone := s.host.hdmParts &&& (15 ^^^ parts)
    let t := backInvalidateIf (fun l => bit gone (partOfPa s (64 * l))) (expose (s.host.hdmParts &&& parts) s)
    if linesOpen t gone then .accept none [] 0 0 (.hdm gone parts) t else .done stOk [] (expose parts t)

def execHostHdm (p : Post) (parts : Nat) (s : State) : Result State :=
  .next (mailbox p rowHostHdm 1 (hostHdmBody parts) s)

/-- The host has given up a line; a withdrawal whose last line this was completes (R379). -/
def backInvalidated (line : Nat) (s : State) : State :=
  let t := updHost (fun h => { h with backInv := h.backInv.filter (· != line) }) s
  forAll t.host.progs (fun g u => match g.job with
    | .hdm gone parts => if linesOpen u gone then u else completeProg g stOk [] (expose parts u)
    | _ => u) t

def execBackInvalidateResponse (line : Nat) (s : State) : Result State := .next (backInvalidated line s)

/-! ## Link events -/

/-- Vectors that were held while the link was down (R359). -/
def sendPending (s : State) : State :=
  forAll (List.range 5) (fun f t =>
    let u := t.func f
    let go := u.pba.filter fun v => !u.masked.contains v
    forAll go (fun v => emit (.msix f v)) (updFunc f (fun x => { x with pba := x.pba.filter fun v => x.masked.contains v }) t)) s

/-- The port trains: a link narrower than x4 is not used, and the port stays in Detect (R355). -/
def linkTrained (mode width : Nat) (s : State) : State :=
  if width < 4 then updHost (fun h => { h with up := false, detect := true, detectAt := s.clock.elapsed }) s
  else sendPending (updHost (fun h => { h with up := true, linkMode := mode, width := width }) s)

/-- A link may train after readiness, outside a held Detect (R355, R448, R473). -/
def mayTrain (s : State) : Bool := s.power.stage == .ready && !s.host.perst && !s.host.detect && !s.host.up

def execLinkTrained (mode width : Nat) (s : State) : Result State :=
  event "LINK_TRAINED" (mayTrain s && mode < 6) (linkTrained mode width s)
/-- A port held in Detect retries every 20,000 beats (R355). -/
def detectDue (s : State) : Bool := s.host.detect && !s.host.perst && s.host.detectAt + 20000 ≤ s.clock.elapsed

def execLinkDetectRetry (s : State) : Result State :=
  event "LINK_DETECT_RETRY" (detectDue s)
    (updHost (fun h => { h with detect := false }) s)

/-- The bales whose transfers cross the link. -/
def linkBales (s : State) : List (Nat × Nat) :=
  s.place.tensors.flatMap fun t => (List.range t.bales.length).filterMap fun i =>
    if crossesLink s t.handle i then some (t.handle, i) else none

/-- The link leaves the active state (R357, R358, R359, R458). -/
def linkDown (s : State) : State :=
  let t := updHost (fun h => { h with up := false, ideKeys := false }) s
  let u := forAll (linkBales t) (fun b => transferFail b.1 b.2) t
  forAll u.host.copies (fun c => copySectors c [] true) u

def execLinkDown (s : State) : Result State := event "LINK_DOWN" s.host.up (settled linkDown s)

/-- Abandon the commands of a function (R359): none of them completes, and a crash-dump READ ends. -/
def abandonProgs (f : Nat) (s : State) : State :=
  let mine := s.host.progs.filter fun g => g.post.func == f
  let t := updHost (fun h => { h with progs := h.progs.filter fun g => g.post.func != f,
                                      sampled := h.sampled.filter fun x => x.func != f }) s
  forAll mine (fun g u => match g.job with
    | .dumpRead id slot =>
      updRecov (fun v => { v with dumps := tupd Dump.reset v.dumps slot fun d => { d with reading := false } })
        (updHost (fun h => { h with copies := h.copies.filter fun c => c.id != id }) u)
    | .syncWait ctx _ _ _ => updCtx ctx (fun c => { c with waits := c.waits - 1 }) u
    | _ => u) t

/-- Function Level Reset (R359): its contexts are cancelled, its commands abandoned, and it closes. -/
def functionReset (f : Nat) (s : State) : State :=
  let t := abandonProgs f s
  let u := forAll (t.ctxs.filter fun c => c.func == f && !c.cancelled) (fun c => cancelContext c.handle) t
  updFunc f (fun _ => Func.reset) u

/-- Hot Reset or Link Disable (R359). -/
def hotReset (s : State) : State := linkDown (forAll (List.range 5) functionReset s)

def execFunctionLevelReset (func : Nat) (s : State) : Result State := .next (settled (functionReset func) s)
def execHotReset (s : State) : Result State := .next (settled hotReset s)
def execPerstAssert (s : State) : Result State :=
  .next (updHost (fun h => { h with perst := true }) (settled hotReset s))
def execPerstDeassert (s : State) : Result State := .next (updHost (fun h => { h with perst := false }) s)

/-! ## Data Object Exchange (R361) -/

/-- The code by which a reply of a named protocol is told apart (log 12). -/
def doeCode : DoeKind → Nat
  | .discovery => 0
  | .spdm => 1
  | .secured => 2
  | .cdat => 3
  | .ideKm => 4
  | .other => 5

/-- A request of PF0's DOE mailbox: CDAT lists the exposed partitions; IDE_KM programs keys inside a secured session (R361, R458). -/
def doeRequest (kind : DoeKind) (body : List Byte) (s : State) : State :=
  if !s.host.up || kind == .other then s
  else
    let t := if kind == .ideKm && 0 < s.sec.spdmDoe && s.sec.entropyOk then updHost (fun h => { h with ideKeys := true }) s else s
    emit (.doe kind (Config.protocolReply (doeCode kind) (leBytes 1 (hdmPartsShown t) ++ body))) t

def execDoeRequest (kind : DoeKind) (body : List Byte) (s : State) : Result State := .next (doeRequest kind body s)

end Sys2Proof.Machine
end

