-- ==== Sys2Proof/Machine/Reset.lean ====
section
/-! DEFINITION. Resets and what precedes them: power budgets (R437, R438), collection and crash dumps (R416 to R419), mapping out
(R286), the chip reset (R414, R447), power-off (R445), and the content of a partition reset (R413). -/

namespace Sys2Proof.Machine

/-! ## Codes and words -/

/-- The life-cycle code (R464). -/
def lifeCode (s : State) : Nat := ((s.sec.entries.getLast?).map (·.target)).getD 0

/-- FLOOR (R437). -/
def floorWatts (s : State) : Nat := 400 + 2 * ((List.range 16).filter fun g => !(s.gate g).off).length

/-- HBM_STACK (R298). -/
def stackWord (s : State) (t : Nat) : Nat :=
  let q := s.stack t
  (if 2 ≤ q.st && stackDisabled s t then 3 else q.st) + 4 * mappedCount s t + 256 * q.temp + 65536 * boolNat q.plfull + 2 ^ 32 * q.ce

/-- HBM_CHAN (R299). -/
def chanWord (s : State) (c : Nat) : Nat :=
  let q := s.chan c
  (if s.hbm.mapped.contains c || stackDisabled s (c / 32) then 2 else q.mode) + 4 * q.dead0 + 256 * q.dead1 + 2 ^ 14 * boolNat q.trfail + 2 ^ 16 * q.ue
    + 2 ^ 32 * q.ce

/-- GATE_STATUS (R351). -/
def gateStatusWord (s : State) (g : Nat) : Nat :=
  let q := s.gate g
  q.st + 8 * q.mode + 32 * boolNat q.qtx + 64 * boolNat q.qrx + 128 * boolNat q.stale + 256 * q.erate + 2 ^ 24 * q.contend
    + 2 ^ 32 * q.crcerr + 2 ^ 48 * q.orphan

/-- GATE_LINK (R352). -/
def gateLinkWord (s : State) (g : Nat) : Nat :=
  let q := s.gate g
  q.peer + 2 ^ 16 * q.peerGate + 2 ^ 24 * q.h + 2 ^ 40 * q.delay

/-- The tensors of the partitions of a drover. -/
def droverTensors (s : State) (d : Nat) : List Tensor := s.place.tensors.filter fun t => (droverParts s d).contains t.part

/-- Whether a bale drover moves something: a bale between tiers, a page's copy, a shard, a FABRIC.COPY (R31, R213, R350). -/
def baleMoves (s : State) (d : Nat) : Bool :=
  ((droverTensors s d).any fun t =>
    (t.bales.zipIdx.any fun e => (e.1.st == .evicting || promoting s t.handle e.2) && (e.1.frame.all fun f => 2 ^ 42 ≤ f || f / 2 ^ 36 / 5 == (d - 136) / 2)) || s.place.loads.any fun l => l.tensor == t.handle)
    || ((droverParts s d).any fun k => !(s.part k).copies.isEmpty)
    || s.fabric.copies.any fun c => (droverParts s d).contains c.part

/-- BUSY: a transfer of the drover is in flight (R40). -/
def droverBusy (s : State) (d : Nat) : Bool :=
  match droverKind d with
  | 3 => baleMoves s d
  | 5 => s.host.copies.any fun c => (droverParts s d).contains c.part && c.since ≤ s.clock.beat
  | 6 => s.codec.sessions.any fun x => x.cmd.isSome && (droverParts s d).contains x.part
  | _ => (s.drover d).work.any fun w => w.left != 0

/-- DRV_STATUS (R40). -/
def droverWord (s : State) (d : Nat) : Nat :=
  let v := s.drover d
  droverKind d + 16 * v.work.length + 256 * boolNat (droverBusy s d) + 512 * boolNat v.late + 1024 * boolNat v.poison
    + 65536 * (v.lots % 65536) + 2 ^ 32 * (v.instr % 2 ^ 32)

/-- PWR_BELLMON (R401). -/
def bellmonWord (s : State) : Nat := s.recov.missed + 256 * s.recov.trips + 65536 * (s.recov.last % 2 ^ 48)

/-! ## The collection set (R416, R419) -/

/-- A section: type, PART and INDEX bytes, length, its bytes at offsets in it, and the length of scratchpad content at its start. -/
structure DumpSection where
  type : Nat
  part : Nat
  index : Nat
  length : Nat
  bytes : List (Nat × List Byte)
  hole : Nat
  deriving DecidableEq, Repr

def mailboxSection (s : State) (f : Nat) : DumpSection :=
  ⟨1, if f = 0 then moduleWide else f - 1, f, 262144, (List.range 64).flatMap fun m =>
    let b := s.mbx f m
    (4096 * m, mailboxHeader b) :: b.data.map fun e => (4096 * m + 64 + e.1, [e.2]), 0⟩

def syncSection (s : State) (k : Nat) : DumpSection :=
  ⟨2, k, 0, 32768, (s.part k).sync.map fun e => (8 * e.1, leBytes 8 e.2), 0⟩

def droverSection (s : State) : DumpSection :=
  ⟨3, moduleWide, 0, 1312, [(0, (List.range 164).flatMap fun d => leBytes 8 (droverWord s d))], 0⟩

/-- The registers of a pen, 8 bytes each. -/
def penRegs (s : State) (p : Nat) : List Byte :=
  let q := s.pen p
  leBytes 8 (penIdWord s p) ++ leBytes 8 (penStateWord s p) ++ leBytes 8 (trblWord q.trbl) ++ leBytes 8 (bankWord q.cbank)
    ++ leBytes 8 (bankWord q.fbank) ++ leBytes 8 (winWord q.win) ++ leBytes 8 (rowuWord (rowuAt (absAc s) q)) ++ leBytes 8 (attnWord (attnAt (absAc s) q.attn))

def penSection (s : State) (pens : List Nat) : DumpSection :=
  ⟨4, moduleWide, 0, 64 * pens.length, [(0, pens.flatMap (penRegs s))], 0⟩

/-- The instruction pointers of a partition; the manual gives their widths only in sum (log 23). -/
def pointerSection (s : State) (k : Nat) : DumpSection :=
  let q := s.part k
  let r := match q.run with
    | some r => leBytes 8 r.id ++ leBytes 8 r.ctx ++ leBytes 8 r.startBeat ++ leBytes 8 r.doneInstr ++ leBytes 8 (r.doneInstr - 1)
    | none => zeros 40
  ⟨5, k, 0, 1024, [(0, r ++ leBytes 8 (tlyPartWord s k) ++ leBytes 8 (dfaultWord s k)
    ++ (List.range 64).flatMap fun c => leBytes 8 (wcntWord (tget WorkCounter.reset q.wcnt c)))], 0⟩

def unitSection (s : State) : DumpSection :=
  ⟨6, moduleWide, 0, 7656, [(0, (List.range 20).flatMap (fun t => leBytes 8 (stackWord s t))
    ++ (List.range 640).flatMap (fun c => leBytes 8 (chanWord s c))
    ++ (List.range 16).flatMap (fun g => leBytes 8 (gateStatusWord s g))
    ++ (List.range 16).flatMap (fun g => leBytes 8 (gateLinkWord s g))
    ++ (List.range 6).flatMap (fun i => leBytes 8 (pipeWord s i)) ++ leBytes 8 (tlyStatusWord s) ++ leBytes 8 (bellmonWord s)
    ++ (s.recov.words.take 64).flatMap (leBytes 32))], 0⟩

/-- n entries of an accumulator slot, as words. -/
def slotSegs (q : Pen) (t n base : Nat) : List (Nat × List Byte) :=
  ((tget Slot.reset q.slots t).entries.filter fun e => e.1 < n).map fun e => (base + 4 * e.1, leBytes 4 e.2.toNat)

/-- The first 4 KiB of a pen's scratchpad, and of its accumulator memory. -/
def fullSections (s : State) (p : Nat) : List DumpSection :=
  [⟨7, partOfPen s p, p, 4096, [], 4096⟩, ⟨8, partOfPen s p, p, 4096, slotSegs (s.pen p) 0 1024 0, 0⟩]

/-- A pen's whole scratchpad and accumulator memory. -/
def t0Section (s : State) (p : Nat) : DumpSection :=
  ⟨9, partOfPen s p, p, 6 * mib, (List.range 8).flatMap fun t => slotSegs (s.pen p) t 65536 (4 * mib + 262144 * t), 4 * mib⟩

/-- The sections of a set over a scope of partitions; without a partition, every function is concerned (log 23). -/
def dumpSections (s : State) (set : Nat) (parts : List Nat) : List DumpSection :=
  let funcs := 0 :: (if parts.isEmpty then [1, 2, 3, 4] else parts.map (· + 1))
  let pens := parts.flatMap (pensOf s)
  funcs.map (mailboxSection s) ++ parts.map (syncSection s) ++ [droverSection s, penSection s pens]
    ++ parts.map (pointerSection s) ++ [unitSection s]
    ++ (if set = 1 then pens.flatMap (fullSections s) else if set = 2 then pens.map (t0Section s) else [])

/-- Lay sections out from an offset: their table entries, bytes and holes. -/
def layOut (off : Nat) : List DumpSection → List Byte × List (Nat × List Byte) × List (Nat × Nat)
  | [] => ([], [], [])
  | x :: xs =>
    let r := layOut (off + x.length) xs
    (leBytes 2 x.type ++ leBytes 1 x.part ++ leBytes 1 x.index ++ zeros 4 ++ leBytes 8 off ++ leBytes 8 x.length ++ r.1,
     x.bytes.map (fun e => (off + e.1, e.2)) ++ r.2.1, if x.hole = 0 then r.2.2 else (off, x.hole) :: r.2.2)

/-- A dump of a collection set, being written (R418). -/
def makeDump (s : State) (level set cause engine : Nat) (parts : List Nat) : Dump :=
  let l := dumpSections s set parts
  let body := 256 + 24 * l.length
  let r := layOut body l
  { valid := false, writing := true, keep := false, reading := false, id := 0, beat := now s, tally := tlyTime s, cause := cause,
    engine := engine, level := level, set := set, parts := maskOf parts, length := body + (l.map (·.length)).sum,
    life := lifeCode s, nSect := l.length,
    data := ((256, r.1) :: r.2.1).foldl (fun t e => putBytes t e.1 e.2) [], holes := r.2.2 }

def dumpAt (s : State) (i : Nat) : Dump := tget Dump.reset s.recov.dumps i

def updDump (i : Nat) (f : Dump → Dump) : State → State :=
  updRecov fun v => { v with dumps := tupd Dump.reset v.dumps i f }

/-- The slot that a dump takes: the lowest empty one, else that of the oldest dump neither kept nor in use (R417). -/
def dumpSlot (s : State) : Option Nat :=
  match (List.range 4).find? fun i => !(dumpAt s i).valid && !(dumpAt s i).writing with
  | some i => some i
  | none =>
    ((List.range 4).filter fun i => (dumpAt s i).valid && !(dumpAt s i).keep && !(dumpAt s i).reading).foldl
      (fun m i => match m with
        | none => some i
        | some j => if (dumpAt s i).id < (dumpAt s j).id then some i else some j) none

/-- PART of the DUMP record: the one partition in scope, else the module (R423). -/
def dumpPart (d : Dump) : Nat :=
  match (List.range 4).filter fun k => d.level != 4 && d.parts.testBit k with
  | [k] => k
  | _ => moduleWide

/-- The DUMP record (R425). -/
def dumpRecord (slot : Nat) (d : Dump) (noSlot : Bool) : State → State :=
  daybook 0x0065 (dumpPart d) d.engine 0
    (leBytes 1 slot ++ leBytes 1 d.set ++ leBytes 1 d.level ++ leBytes 1 (boolNat noSlot) ++ leBytes 4 d.length)

/-- Take a collection set: the slot that is written, or none with NOSLOT (R416, R417). -/
def collect (level set cause engine : Nat) (parts : List Nat) (s : State) : Option Nat × State :=
  let d := makeDump s level set cause engine parts
  match dumpSlot s with
  | some i => (some i, updDump i (fun _ => d) s)
  | none => (none, dumpRecord 0xFF d true s)

/-- The set of a ladder step: NORMAL only for a RECOVER.RESET in DEPLOYED after readiness (R416). -/
def ladderSet (s : State) (byCommand : Bool) : Nat :=
  if byCommand && lifeCode s = 2 && s.power.stage = .ready then 0 else 1

/-! ## Stopping commits -/

/-- Stop commits in every partition, without retry (R400, R430, R465). -/
def stopAll (s : State) : State :=
  forAll (partList s) (fun k t => if (t.part k).st == .running then quiesce k false t else updPart k (fun q => { q with retry := false }) t) s

/-- Whether a chip reset, a power cycle or a power-off is under way, so that no partition resumes. -/
def stopping (s : State) : Bool :=
  s.recov.steps.any (fun x => x.level == 4) || s.power.supply == 2 || s.power.cycleReq || s.recov.tripped

/-! ## Mapping out (R286, R274) -/

/-- Whether a channel is mapped out at the next reset: a dead pin or a failed retraining (R286). -/
def chanFailing (q : Chan) : Bool := q.dead0 != 0x3F || q.dead1 != 0x3F || q.failed

/-- Add a channel to the flash list with its record (R287, R425). -/
def mapOut (reason c : Nat) (s : State) : State :=
  if s.hbm.mapped.contains c then s
  else daybook 0x0032 (partOfStack s (c / 32)) (0x200 + c / 32) 0 (leBytes 2 c ++ leBytes 1 reason)
    (updHbm (fun h => { h with mapped := insertSorted c h.mapped }) s)

/-- The largest commons share that R274 admits, at most c. -/
def largestCommons (s : State) (k : Nat) : Nat → Nat
  | 0 => 0
  | c + 1 => if commonsFits s k (c + 1) then c + 1 else largestCommons s k c

/-- A commons share that mapping out has made too large is lowered and recorded (R274). -/
def fitCommons (k : Nat) (s : State) : State :=
  let c := (s.part k).commonsGib
  let d := largestCommons s k c
  if d = c then s
  else daybook 0x0034 k noEngine 0 (leBytes 1 c ++ leBytes 1 d) (updPart k (fun q => { q with commonsGib := d }) s)

/-! ## The chip reset (R414, R447) -/

/-- The daybook across a reset: the ring and its next SEQ survive. -/
def keptBook (b : Daybook) : Daybook := { b with inBeat := 0 }

/-- The dumps across a reset: what was being written is lost. -/
def keptDumps (t : Table Dump) : Table Dump :=
  (t.filter fun e => e.2.valid).map fun e => (e.1, { e.2 with reading := false })

/-- The recovery state across a chip reset (R401, R414). -/
def keptRecov (v : Recovery) : Recovery :=
  { Recovery.reset with
      trips := v.trips, last := v.last, lastWord := v.lastWord, chipResets := v.chipResets,
      dumps := keptDumps v.dumps, daybook := keptBook v.daybook, lastHang := v.lastHang, tripped := v.tripped }

/-- A new whitening key, different from those in use (R296). -/
def nextKey (h : Hbm) : Nat := 1 + (h.staleKey.map (·.2)).foldl max 0

/-- The stacked memory across a chip reset: the flash list and the stored bits under a new key, which the wipe of start-up clears (R287,
R295, R296), and the host's own memory. -/
def keptHbm (h : Hbm) : Hbm :=
  { Hbm.reset with mapped := h.mapped, trial := h.trial, t1 := h.t1, t2 := h.t2, t2poison := h.t2poison, staleKey := [(0, nextKey h)] }

/-- Fuses, flash and the identity area (R452 to R464). -/
def keptSec (x : Security) : Security :=
  { Security.reset with
      entries := x.entries, fusedSvn := x.fusedSvn, keySlots := x.keySlots, keyRevoked := x.keyRevoked,
      uds := x.uds, slotA := x.slotA, slotB := x.slotB, prefer := x.prefer, keys := x.keys, deviceCert := x.deviceCert,
      lifeKey := x.lifeKey }

/-- The first step of start-up: an erase that a life-cycle transition left pending comes before verification (R465). -/
def firstStage (x : Security) : Stage := if x.entries.any fun e => !e.wipeDone then .erase else .verify

/-- Power across a chip reset: the converters stay on; the input monitor's episode goes on; start-up waits for an input at 40 V
or above (R429, R447). -/
def keptPower (p : Power) (first : Stage) (elapsed : Nat) : Power :=
  { Power.reset with
      stage := if 0 < p.input && p.input < 40000 then .off else first, stageAt := elapsed, thermtrip := p.thermtrip,
      input := p.input, dipSamples := p.dipSamples, dipMin := p.dipMin, highSamples := p.highSamples, highMax := p.highMax,
      cycleReq := p.cycleReq }

/-- What a reset leaves of the chip: the start-up sequence begins again from its first step (R414, R447). -/
def chipCleared (s : State) : State :=
  { State.reset with
      clock := ⟨0, 0, s.clock.elapsed, 0⟩
      nextCtx := s.nextCtx
      nextRun := s.nextRun
      hbm := keptHbm s.hbm
      host := { HostPort.reset with perst := s.host.perst }
      recov := keptRecov s.recov
      power := keptPower s.power (firstStage s.sec) s.clock.elapsed
      sec := keptSec s.sec
      mgmt := { Mgmt.reset with mac7 := s.mgmt.mac7, mac15 := s.mgmt.mac15 }
      free := s.free
      out := s.out
      pending := s.pending }

/-- Map out the failing channels of a partition (R286). -/
def mapOutPart (k : Nat) (s : State) : State :=
  forAll ((stacksOf s k).flatMap fun t => (List.range 32).map fun c => 32 * t + c) (fun c t =>
    let q := t.chan c
    if chanFailing q then mapOut (if q.dead0 != 0x3F || q.dead1 != 0x3F then 0 else 1) c t else t) s

/-- A chip reset (R414, R447): failing channels are mapped out (R286), and start-up begins again. -/
def chipReset (s : State) : State := chipCleared (forAll (partList s) mapOutPart s)

/-- The converters are switched off: only module flash and fuses survive, and with them no mark of a failing channel (R445, R477; log 66). -/
def powerOff (needCycle : Bool) (s : State) : State :=
  let t := chipCleared s
  { t with
      clock := ⟨0, 0, 0, 0⟩
      hbm := { t.hbm with t1 := [] }
      recov := { Recovery.reset with dumps := t.recov.dumps, daybook := t.recov.daybook, lastHang := t.recov.lastHang }
      power := { Power.reset with stage := .off, bootTimer := false, pwrEn := s.power.pwrEn, pwrgd := false, converters := false,
                                  needEnCycle := needCycle, input := s.power.input } }

/-! ## The content of a partition reset (R413) -/

/-- The engines of a partition, by bitmap bit (R402). -/
def enginesOf (s : State) (k : Nat) : List Nat :=
  (List.range 112).filter fun e => (engineParts s e).contains k && e < 110

/-- A key change of a partition: nothing of it is readable or marked zeroed (R296, R297), its poison lists and counts are clear. -/
def keyChange (k : Nat) (s : State) : State :=
  let mine (pa : Nat) : Bool := partOfPa s pa == k
  let s1 := updHbm (fun h =>
    { h with staleKey := tset 0 h.staleKey k (nextKey h), zeroed := h.zeroed.filter fun f => !mine f,
             written := h.written.filter fun x => !mine (64 * x), unmarked := h.unmarked.filter fun f => !mine f,
             unlisted := h.unlisted.filter fun x => !mine (64 * x),
             poison := h.poison.filter fun e => !(diesOf s k).contains e.1,
             chans := h.chans.filter fun e => partOfStack s (e.1 / 32) != k,
             pcs := h.pcs.filter fun e => partOfStack s (e.1 / 64) != k }) s
  updSec (fun x => { x with drbgRequests := x.drbgRequests + 1 })
    (forAll (stacksOf s k) (fun t => updStack t fun q => { q with plfull := false, ce := 0 }) s1)

/-- Placement state of a partition is rebuilt empty (R413). -/
def clearPlacement (k : Nat) : State → State :=
  updPlace fun p =>
    let gone := (p.tensors.filter fun t => t.part == k).map (·.handle)
    { p with tensors := p.tensors.filter fun t => t.part != k, seqs := p.seqs.filter fun q => q.part != k,
             pages := p.pages.filter fun g => g.part != k, pool := p.pool.filter fun e => e.1 != k,
             loads := p.loads.filter fun l => !gone.contains l.tensor, zeroing := p.zeroing.filter fun z => z.1 != k,
             poolFree := p.poolFree.filter fun f => p.pool.any fun e => e.2 == f && e.1 != k }

/-- The gate drovers' buffers, acknowledgements and sequence counters are cleared, and the counts of GATE_STATUS (R342, R351). -/
def clearGate (g : Gate) : Gate :=
  { g with sends := [], recvs := [], acks := [], seq := 0, contend := 0, crcerr := 0, orphan := 0 }

/-- The pens, drovers and gates of a partition after its reset (R39, R40, R342). -/
def clearT0 (k : Nat) (s : State) : State :=
  let s1 := forAll (pensOf s k) (fun p => updPen p fun q => { Pen.reset with power := q.power }) s
  let s2 := forAll ((List.range 164).filter fun d => (droverParts s d).contains k) (fun d => updDrover d fun _ => Drover.reset) s1
  forAll (gatesOf s k) (fun g => updGate g clearGate) s2

/-- The partition's own state after its reset; the commons share, the T2 ranges, the route table and the budget are kept
(R241, R342, R413, R438). -/
def clearPart (k : Nat) : State → State :=
  updPart k fun q => { Part.reset .resetting q.budget with commonsGib := q.commonsGib, t2 := q.t2, routes := q.routes }

/-- The whole content of a partition reset, but for the commons share, which is fitted after the retest (R274, R412). -/
def resetPart (k : Nat) (s : State) : State :=
  let s1 := mapOutPart k s
  let s2 := clearPart k (clearT0 k (clearPlacement k (keyChange k s1)))
  updCtxs (mapIf (fun c => c.part == k) fun c => { c with waits := 0, runnable := false, byShepherd := false }) s2

end Sys2Proof.Machine
end

