-- ==== Sys2Proof/Machine/Ladder.lean ====
section
/-! DEFINITION. Hangs and the reset ladder (R402 to R415), the guilty search (R421, R422), PARTITION.CONFIG and PARTITION.QUERY (R381,
R382), RECOVER.* (R420, R427, R428), the daybook (R424 to R426, R485), and the bell monitor's trip (R400). -/

namespace Sys2Proof.Machine

/-! ## Suspects (R421) -/

/-- Whether a context has work of its own in progress on an engine. -/
def workOn (s : State) (e h : Nat) : Bool :=
  let ks := engineParts s e
  let run := ks.any fun k => match (s.part k).run with
    | some r => r.ctx == h && ((s.part k).st == .running || (s.part k).st == .quiesced)
    | none => false
  let bales := s.host.progs.any fun g => g.ctx == h && ks.contains g.part && match g.job with
    | .tier _ _ _ _ _ _ => true
    | .alloc _ _ => true
    | _ => false
  match engineClass e with
  | 1 => run
  | 2 => run || bales || s.host.copies.any (fun c => c.ctx == h && c.dump.isNone && ks.contains c.part)
  | 3 => run
  | 4 => s.codec.sessions.any fun x => x.ctx == h && x.pipe + 100 == e && x.cmd.isSome
  | 5 => run || bales
  | 6 => s.host.copies.any fun c => c.ctx == h && c.dump.isNone && 110 + hostDroverOf s c.part == e
  | 7 => s.codec.sessions.any fun x => x.ctx == h && 112 + hostDroverOf s x.part == e && x.cmd.isSome
  | _ => false

/-- The suspects of a hang, in ascending handle order (R422). -/
def suspectsOf (s : State) (e : Nat) : List Suspect :=
  ((s.ctxs.filter fun c => !c.cancelled && workOn s e c.handle).map fun c => c.handle).foldl
    (fun l h => insertSorted h l) [] |>.map fun h => ⟨h, 0⟩

/-! ## Records -/

/-- The STEP record (R425). -/
def stepRecord (x : LadderStep) (outcome : Nat) (s : State) : State :=
  daybook 0x0061 (if x.level = 3 then x.part else if x.level = 2 then engineHome s x.engine else moduleWide)
    (if x.level = 2 then engineId x.engine else noEngine) 0
    (leBytes 1 x.level ++ leBytes 1 outcome ++ leBytes 4 (s.clock.elapsed - x.from_)) s

/-- Complete the RECOVER.RESET commands of a step. -/
def completeResets (level scope status : Nat) : State → State :=
  completeAll (fun g => g.job == .resetStep level scope) status

/-! ## Level 5 and level 4 -/

def ladderStep (s : State) (level engine part : Nat) (slot : Option Nat) (suspects : List Suspect) (byCommand : Bool) :
    LadderStep :=
  { level := level, engine := engine, part := part, since := s.clock.beat, from_ := s.clock.elapsed, slot := slot,
    search := false, redo := false, turnAt := 0, suspects := suspects, byCommand := byCommand }

/-- A power cycle (R415). -/
def powerCycle (s : State) : State :=
  if s.power.cycleReq then s
  else updPower (fun p => { p with cycleReq := true }) (stepRecord (ladderStep s 5 120 moduleWide none [] false) 0 s)

/-- Chip resets that the ladder has taken within the last 1,200,000 beats (R406). -/
def recentResets (s : State) : List Nat := s.recov.chipResets.filter fun b => s.clock.elapsed < b + 1200000

/-- A step of level 4 (R414, R407, R416): every step ends, commits stop, the dump is written, and the chip reset follows it; a third
one of the ladder within 1,200,000 beats is a power cycle instead (R406). -/
def startChip (cause engine : Nat) (byCommand : Bool) (s : State) : State :=
  if s.recov.steps.any (fun x => x.level == 4) then s
  else if !byCommand && 2 ≤ (recentResets s).length then powerCycle s
  else
    let s1 := forAll s.recov.steps (fun x => stepRecord x 2) s
    let s2 := stopAll (updRecov (fun v => { v with steps := [] }) s1)
    let s3 := updRecov (fun v =>
      { v with chipResets := if byCommand then recentResets s else s.clock.elapsed :: recentResets s }) s2
    let r := collect 4 (ladderSet s byCommand) cause (if engine < 120 then engineId engine else noEngine) (partList s) s3
    match r.1 with
    | some i => updRecov (fun v => { v with steps := [ladderStep s 4 engine moduleWide (some i) [] byCommand] }) r.2
    | none => chipReset r.2

/-! ## Level 3 -/

/-- The commands of a partition that a partition reset completes: those of the module stay (R373). -/
def partCommand (k : Nat) (g : InProgress) : Bool :=
  g.part == k && match g.job with
    | .partConfig _ => false
    | .hdm _ _ => false
    | .dumpTake _ _ => false
    | .dumpRead _ _ => false
    | .resetStep _ _ => false
    | .lifecycle => false
    | _ => true

/-- Level-2 steps and cancels that a level 3 ends (R407). -/
def absorbSteps (k : Nat) (s : State) : State :=
  let gone := s.recov.steps.filter fun x => x.level == 2 && (engineParts s x.engine).contains k
  forAll gone (fun x t => completeResets 2 x.engine stPartitionReset (stepRecord x 2 (dropStep x.engine t))) s

/-- The first beat of a partition reset up to its collection: STATE 5 and PRESET, and every RUN, command and session of the partition
ends (R413). -/
def emptyPart (k : Nat) (s : State) : State :=
  let s1 := if (s.part k).st == .running then quiesce k false s else s
  let s2 := endRuns k stPartitionReset (absorbSteps k s1)
  let s3 := forAll (s2.codec.sessions.filter fun x => x.part == k) (fun x t => abortSession stPartitionReset x.handle t) s2
  let s4 := completeAll (partCommand k) stPartitionReset s3
  let s5 := updHost (fun h => { h with copies := h.copies.filter fun c => c.part != k || c.dump.isSome }) s4
  let s6 := updFabric (fun f => { f with copies := f.copies.filter fun c => c.part != k }) s5
  let s7 := backInvalidateIf (fun l => partOfPa s (64 * l) == k) s6
  partEvent k evPreset (updPart k (fun q => { q with st := .resetting }) s7)

/-- A step of level 3 (R406, R413); none starts on a partition that is being reset. -/
def startLevel3 (k cause engine : Nat) (byCommand : Bool) (s : State) : State :=
  if (s.part k).st == .resetting || stopping s then s
  else
    let t := emptyPart k s
    let r := collect 3 (ladderSet s byCommand) cause engine [k] t
    updRecov (fun v => { v with steps := v.steps ++ [ladderStep s 3 120 k r.1 [] byCommand] }) r.2

/-- Level 3 on every partition of an engine. -/
def level3On (e cause : Nat) (s : State) : State :=
  forAll (engineParts s e) (fun k => startLevel3 k cause (engineId e) false) s

/-! ## Level 2 -/

/-- A pen, stack, gate, pipeline, manger or drover after its engine reset (R410). -/
def resetEngine (e : Nat) (s : State) : State :=
  let drovers (l : List Nat) (t : State) : State := forAll l (fun d => updDrover d fun _ => Drover.reset) t
  match engineClass e with
  | 1 => drovers [e, 64 + e] (updPen e (fun q => { Pen.reset with power := q.power }) s)
  | 2 =>
    let t := e - 64
    let s1 := updStack t (fun _ => Stack.reset) s
    updHbm (fun h => { h with
      chans := (h.chans.map fun c => if c.1 / 32 = t then
          (c.1, { Chan.reset with mode := c.2.mode, dead0 := c.2.dead0, dead1 := c.2.dead1, failed := c.2.failed }) else c).filter
            fun c => !decide (c.2 = Chan.reset)
      pcs := h.pcs.filter fun c => c.1 / 64 != t }) s1
  | 3 => drovers [144 + (e - 84)] (updGate (e - 84) (fun g => { clearGate g with qtx := false, qrx := false, stale := false }) s)
  | 4 => updPipe (e - 100) (fun q => { Pipe.reset with power := q.power }) s
  | 5 =>
    let m := e - 106
    drovers [128 + 2 * m, 129 + 2 * m, 136 + 2 * m, 137 + 2 * m] (forAll (engineParts s e) (fun k => updPart k fun q =>
      { q with manger := [], run := q.run.map fun r =>
          { r with placed := r.placed.filter fun l => l.role != .layer || l.instr < r.doneInstr } }) s)
  | 6 => drovers [160 + (e - 110)] s
  | 7 => drovers [162 + (e - 112)] s
  | _ => s

/-- The partitions that an engine reset stops: those with a RUN running or awaiting a retry (R410). -/
def haltParts (e : Nat) (s : State) : State :=
  forAll (engineParts s e) (fun k t =>
    match (t.part k).st with
    | .running => quiesce k false t
    | .quiesced => partEvent k evQuiesce (updPart k (fun q => { q with retry := false }) t)
    | _ => t) s

/-- A step of level 2 (R410). -/
def startLevel2 (e cause : Nat) (byCommand : Bool) (s : State) : State :=
  let l := suspectsOf s e
  let s1 := haltParts e s
  let r := collect 2 (ladderSet s byCommand) cause (engineId e) (engineParts s e) s1
  let s2 := resetEngine e r.2
  updRecov (fun v =>
    { v with steps := v.steps ++ [ladderStep s 2 e moduleWide r.1 l byCommand], level2 := (e, s.clock.elapsed) :: v.level2 }) s2

/-- Level-2 steps on an engine within the last 20,000 beats (R406). -/
def recentLevel2 (s : State) (e : Nat) : Nat :=
  (s.recov.level2.filter fun x => x.1 == e && s.clock.elapsed < x.2 + 20000).length

/-- A RECOVER.RESET of an engine completes with the level 3 that takes the place of its step (R427). -/
def escalateJob (e : Nat) (s : State) : State :=
  match engineParts s e with
  | [] => s
  | k :: _ => updHost (fun h =>
      { h with progs := mapIf (fun g => g.job == .resetStep 2 e) (fun g => { g with job := .resetStep 3 k }) h.progs }) s

/-- Level 2, or level 3 in place of a third one on an engine that has partitions (R406). -/
def level2Or3 (e cause : Nat) (byCommand : Bool) (s : State) : State :=
  if 2 ≤ recentLevel2 s e && !(engineParts s e).isEmpty then level3On e cause (escalateJob e s) else startLevel2 e cause byCommand s

/-! ## The guilty verdict (R422) -/

/-- The suspect that is being replayed on an engine. -/
def replaying (s : State) (e : Nat) : Option Nat :=
  (engineStep s e).bind fun st => if st.search then (st.suspects.find? fun x => x.state == 1).map (·.ctx) else none

/-- End the work of a context on an engine with a status. -/
def endWorkOn (e h status : Nat) (s : State) : State :=
  let s1 := forAll (engineParts s e) (fun k t => if workOn t e h then endCtxRuns k h status t else t) s
  let s2 := forAll (s1.host.copies.filter fun c => c.ctx == h && c.dump.isNone) (fun c => endCopy c c.done status) s1
  let s3 := forAll (s2.codec.sessions.filter fun x => x.ctx == h && x.cmd.isSome) (fun x t =>
    endCodecCmd x.handle status ((x.cmd.map codecResult).getD []) t) s2
  completeAll (fun g => g.ctx == h && match g.job with
    | .tier _ _ _ _ _ _ => true
    | .alloc _ _ => true
    | _ => false) status s3

/-- A suspect whose replay hangs the engine again is guilty: the engine is reset once more, and the context is cancelled. -/
def guilty (e h : Nat) (s : State) : State :=
  let index := ((engineStep s e).map fun st => (st.suspects.takeWhile fun x => x.ctx != h).length).getD 0
  let s1 := endWorkOn e h stGuilty (haltParts e s)
  let s2 := cancelContext h (resetEngine e s1)
  let s3 := daybook 0x0063 (engineHome s e) (engineId e) h (leBytes 4 index) s2
  updStep e (fun st =>
    { st with search := false, redo := true, since := s.clock.beat, from_ := s.clock.elapsed,
              suspects := mapIf (fun x => x.ctx == h) (fun x => { x with state := 3 }) st.suspects }) s3

/-! ## Hangs (R403, R406, R407) -/

def hangCode : HangKind → Nat
  | .noVerdict => 1
  | .noAbandon => 2
  | .noProgress => 3
  | .watchdog => 4
  | .noIdle => 5
  | .noRefresh => 6
  | .noResponse => 7

/-- The HANG record, with its SEQ kept for the engine's partitions (R425, R428). -/
def hangRecord (h : Hang) (s : State) : State :=
  let seq := s.recov.daybook.next
  let t := daybook 0x0060 (engineHome s h.engine) (engineId h.engine) 0
    (leBytes 1 (hangCode h.kind) ++ leBytes 2 (suspectsOf s h.engine).length ++ leBytes 8 h.lastProgress) s
  let written := t.recov.daybook.next != seq
  let last (l : Table (Option Nat)) : Table (Option Nat) := (engineParts s h.engine).foldl (fun l k => tset none l k (some seq)) l
  updRecov (fun v => { v with hung := insertSorted h.engine v.hung, lastHang := if written then last v.lastHang else v.lastHang }) t

/-- Partitions of an engine in a level-2 step or search. -/
def busyParts (s : State) (e : Nat) : List Nat :=
  (engineParts s e).filter fun k => s.recov.steps.any fun x => x.level == 2 && (engineParts s x.engine).contains k

/-- The step that a hang starts. -/
def answerHang (h : Hang) (s : State) : State :=
  let e := h.engine
  let cause := hangCode h.kind
  if engineClass e = 8 then startChip cause e false s
  else if h.kind = .noRefresh then level3On e cause s
  else match replaying s e with
    | some c => guilty e c s
    | none =>
      if !(busyParts s e).isEmpty then forAll (busyParts s e) (fun k => startLevel3 k cause (engineId e) false) s
      else if (engineParts s e).any (fun k => (s.part k).st == .resetting) then s
      else match engineStep s e with
        | some st => if st.search then level2Or3 e cause false (dropStep e s) else s
        | none => level2Or3 e cause false s

/-- A hang found at a beat boundary; a fenced engine is not watched. -/
def takeHang (h : Hang) (s : State) : State :=
  if s.recov.fenced.contains h.engine || stopping s then s else answerHang h (hangRecord h s)

/-! ## Ends of steps -/

/-- The step on an engine ends: its record and commands, and the guilty search begins in the next beat (R410, R422). -/
def engineReady (e : Nat) (s : State) : State :=
  match engineStep s e with
  | none => s
  | some st =>
    let s1 := if engineClass e = 2 then updStack (e - 64) (fun q => { q with st := if stackDisabled s (e - 64) then 3 else 2 }) s else s
    let s2 := if st.redo then s1 else completeResets 2 e stOk (stepRecord st 0 s1)
    let s3 := updStep e (fun x => { x with search := true, redo := false, turnAt := s.clock.elapsed + 1 }) s2
    let s4 := endSearch e s3
    if engineClass e = 4 && (engineStep s4 e).isNone then kickPipe (e - 100) s4 else s4

/-- Whether an engine's reset may end: its dump is written. -/
def engineResetting (s : State) (e : Nat) : Bool :=
  match engineStep s e with
  | some st => !st.search && st.slot.isNone
  | none => false

def execEngineReady (engine : Nat) (s : State) : Result State :=
  event "ENGINE_READY" (engineResetting s engine) (settled (engineReady engine) s)

/-- The next suspect, if one waits and none is replayed. -/
def nextSuspect (s : State) (e : Nat) : Option Nat :=
  (engineStep s e).bind fun st =>
    if st.search && st.turnAt ≤ s.clock.elapsed && !st.suspects.any fun x => x.state == 1 then
      (st.suspects.find? fun x => x.state == 0).map (·.ctx)
    else none

/-- Whether a partition's RUN is that of a context and waits for its search. -/
def runWaits (s : State) (k h : Nat) : Bool :=
  (s.part k).st == .quiesced && match (s.part k).run with
    | some r => r.ctx == h && r.ending.isNone
    | none => false

/-- A suspect is replayed alone: its RUN resumes as a retry that does not count, its frame starts again (R421, R422). -/
def guiltyReplay (e h : Nat) (s : State) : State :=
  let s1 := updStep e (fun st => { st with suspects := mapIf (fun x => x.ctx == h) (fun x => { x with state := 1 }) st.suspects }) s
  let s2 := forAll (engineParts s e) (fun k t => if runWaits t k h then resumeAt k (t.clock.beat + 1) false t else t) s1
  forAll (List.range 6) kickPipe s2

def execGuiltyReplay (engine : Nat) (s : State) : Result State :=
  event "GUILTY_REPLAY" (nextSuspect s engine).isSome
    (match nextSuspect s engine with
     | some h => settled (guiltyReplay engine h) s
     | none => s)

/-- At a beat boundary, a suspect with no work left on its engine has passed (R421). -/
def passIdleSuspects (s : State) : State :=
  forAll s.recov.steps (fun st t =>
    match replaying t st.engine with
    | some h => if workOn t st.engine h then t else clearSuspect st.engine h t
    | none => t) s

/-- A RUN that an engine reset left quiesced resumes at a beat boundary once no step holds its partition (R422). -/
def resumeHeld (s : State) : State :=
  if stopping s then s
  else forAll (partList s) (fun k t =>
    match (t.part k).st, (t.part k).run with
    | .quiesced, some r =>
      if !(t.part k).retry && r.ending.isNone && r.decodeStop.isNone && (partStep t k).isNone then resumeAt k t.clock.beat false t
      else t
    | _, _ => t) s

/-! ## Fencing (R411, R412) -/

/-- Routes that use a gate are STALE: first hop or RXGATE. -/
def routeUses (g : Nat) (r : Route) : Bool := r.plane * 8 + r.path % 8 == g || r.rxGate == g

def markStale (f : Route → Bool) (s : State) : State :=
  forAll (partList s) (fun k => updPart k fun q =>
    { q with routes := q.routes.map fun e => (e.1, if e.2.written && f e.2.r then { e.2 with stale := true } else e.2) }) s

/-- The sessions of a fenced pipeline enter ERROR, their commands complete with BAD_STATE. -/
def failPipe (p : Nat) (s : State) : State :=
  forAll (pipeSessions s p) (fun x t =>
    let u := updSession x.handle (fun y => { y with state := 2 }) t
    if x.cmd.isSome then endCodecCmd x.handle stBadState ((x.cmd.map codecResult).getD []) u else u) s

/-- An engine's power domain is switched off (R411). -/
def switchOff (e : Nat) (s : State) : State :=
  let s1 := updRecov (fun v => { v with fenced := insertSorted e v.fenced }) s
  match engineClass e with
  | 1 => updPen e (fun q => { q with power := 2 }) s1
  | 2 => forAll (healthyChans s (e - 64)) (fun c => daybook 0x0032 (engineHome s e) (engineId e) 0 (leBytes 2 c ++ leBytes 1 3))
      (updStack (e - 64) (fun q => { q with st := 3 }) s1)
  | 3 => markStale (routeUses (e - 84)) (updGate (e - 84) (fun g => { g with st := 4 }) s1)
  | 4 => failPipe (e - 100) (updPipe (e - 100) (fun q => { q with power := 2, busy := false, session := none }) s1)
  | _ => s1

/-- Fence an engine, with its record (R411). -/
def fenceEngine (e : Nat) (s : State) : State :=
  switchOff e (daybook 0x0062 (engineHome s e) (engineId e) 0 (leBytes 1 0) s)

/-- A fenced engine passes its retest (R412). -/
def restoreEngine (e : Nat) (s : State) : State :=
  let s1 := daybook 0x0062 (engineHome s e) (engineId e) 0 (leBytes 1 1)
    (updRecov (fun v => { v with fenced := v.fenced.filter (· != e) }) s)
  match engineClass e with
  | 1 => updPen e (fun q => { q with power := 1 }) s1
  | 2 => updStack (e - 64) (fun q => { q with st := if stackDisabled s1 (e - 64) then 3 else 2 }) s1
  | 3 => updGate (e - 84) (fun g => { g with st := 1, begun := true, since := s.clock.elapsed }) s1
  | _ => s1

/-- A fenced engine fails its retest: it stays fenced until the next chip reset (R412). -/
def keepFenced (e : Nat) (s : State) : State :=
  daybook 0x0062 (engineHome s e) (engineId e) 0 (leBytes 1 2)
    (updRecov (fun v => { v with failed := insertSorted e v.failed }) s)

/-- The retest of a partition reset: the engines fenced since the last one (R412). -/
def retest (k : Nat) (failed : List Nat) (s : State) : State :=
  forAll (s.recov.fenced.filter fun e => (engineParts s e).contains k && !s.recov.failed.contains e) (fun e =>
    if failed.contains e then keepFenced e else restoreEngine e) s

/-! ## The end of a partition reset (R413, R381) -/

/-- PEN_STAGGER (R446, R451). -/
def staggerRecord (parts pens : Nat) : State → State := daybook 0x0075 moduleWide noEngine 0 (leBytes 1 parts ++ leBytes 1 pens)

/-- Whether a partition has a fenced pen. -/
def hasFencedPen (s : State) (k : Nat) : Bool := (pensOf s k).any fun p => (s.pen p).power == 2

/-- The command is a PARTITION.CONFIG. -/
def isConfig (g : InProgress) : Bool :=
  match g.job with
  | .partConfig _ => true
  | _ => false

/-- Whether PARTITION.CONFIG resets the partitions: that is no step of the ladder and writes no STEP record (R381, R447). -/
def configuring (s : State) : Bool := s.host.progs.any isConfig

/-- PARTITION.CONFIG completes when the last new partition is idle (R381). -/
def finishConfig (s : State) : State :=
  if (partList s).any (fun k => (s.part k).st == .resetting) then s
  else completeAll isConfig stOk s

def partitionReady (k : Nat) (failed : List Nat) (s : State) : State :=
  match s.recov.steps.find? fun x => x.level == 3 && x.part == k with
  | none => s
  | some x =>
    let s1 := fitCommons k (retest k failed (resetPart k s))
    let s2 := updRecov (fun v => { v with steps := v.steps.filter fun y => !(y.level == 3 && y.part == k) }) s1
    let s3 := updPart k (fun q => { q with st := if s.power.thermalOn then .quiesced else .idle, thermal := s.power.thermalOn,
                                           degraded := hasFencedPen s2 k }) s2
    let s4 := partEvent k evPready s3
    let s5 := if hasFencedPen s4 k then partEvent k evDegrade s4 else s4
    let s6 := staggerRecord (2 ^ k) (penCount s5 k) (if configuring s5 then s5 else stepRecord x 0 s5)
    finishConfig (completeResets 3 k stOk s6)

/-- Whether a partition's reset may end: its dump is written and the host has given up its lines (R360, R413). -/
def partResetting (s : State) (k : Nat) : Bool :=
  (match s.recov.steps.find? fun x => x.level == 3 && x.part == k with
   | some x => x.slot.isNone
   | none => false) && !linesOpen s (2 ^ k)

def execPartitionReady (part : Nat) (failed : List Nat) (s : State) : Result State :=
  event "PARTITION_READY" (partResetting s part) (settled (partitionReady part failed) s)

/-! ## Budgets (R405, R406) -/

/-- A level 1 that is not finished: level 2 on the engines that still hold work of the context. -/
def cancelOverdue (h : Nat) (s : State) : State :=
  forAll ((List.range 114).filter fun e => workOn s e h && (engineStep s e).isNone) (fun e => level2Or3 e 0x0200 false) s

/-- A level 2 that is not finished (R406). -/
def engineOverdue (e : Nat) (s : State) : State :=
  match engineStep s e with
  | none => s
  | some st =>
    let s1 := stepRecord st 1 (dropStep e s)
    let c := engineClass e
    if 5 ≤ c then startChip 0x0200 e false s1
    else
      let s2 := fenceEngine e s1
      match engineParts s e with
      | [] => completeResets 2 e stOk s2
      | _ :: _ => level3On e 0x0200 (escalateJob e s2)

/-- A level 3 that is not finished (R406). -/
def partOverdue (k : Nat) (s : State) : State :=
  match s.recov.steps.find? fun x => x.level == 3 && x.part == k with
  | none => s
  | some x => startChip 0x0200 120 false (stepRecord x 1 (updRecov (fun v => { v with steps := v.steps.filter (· != x) }) s))

def overdue (s : State) : LadderRef → Bool
  | .cancel h => (s.recov.cancels.any fun e => e.1 == h && e.2 + 4 ≤ s.clock.beat)
      && (List.range 114).any fun e => workOn s e h && (engineStep s e).isNone
  | .engine e => match engineStep s e with
    | some st => !st.search && st.from_ + 40 ≤ s.clock.elapsed
    | none => false
  | .partition k => s.recov.steps.any fun x => x.level == 3 && x.part == k && x.from_ + 400 ≤ s.clock.elapsed
  | .chip => !s.power.cycleReq && s.power.stage != .ready && s.power.stage != .off && s.power.stage != .recoveryWait && s.power.stage != .erase
      && s.power.stageAt + 48600 ≤ s.clock.elapsed

def escalate : LadderRef → State → State
  | .cancel h => cancelOverdue h
  | .engine e => engineOverdue e
  | .partition k => partOverdue k
  | .chip => powerCycle

def execLadderBudgetExpired (step : LadderRef) (s : State) : Result State :=
  event "LADDER_BUDGET_EXPIRED" (overdue s step) (settled (escalate step) s)

/-! ## The bell monitor's trip (R400) -/

/-- At the 64th consecutive missed beat, commits stop and a chip reset begins; its records are written by the following start-up
(R400, R425). -/
def bellTrip (s : State) : State :=
  let t := updRecov (fun v => { v with trips := min 255 (v.trips + 1), tripped := true }) s
  startChip 0x0100 120 false t

def execBellTrip (s : State) : Result State :=
  event "BELL_TRIP" (64 ≤ s.recov.missed && !s.recov.tripped) (settled bellTrip s)

/-! ## Dumps written and taken (R417, R420) -/

/-- A slot summary (R428). -/
def slotSummary (d : Dump) : List Byte :=
  leBytes 8 d.id ++ leBytes 8 d.beat ++ leBytes 2 d.cause ++ leBytes 1 d.level
    ++ leBytes 1 (boolNat d.valid + 2 * boolNat d.keep + 4 * boolNat d.reading) ++ leBytes 1 d.parts ++ zeros 3 ++ leBytes 8 d.length

/-- SUPPLY_DIP (R451). -/
def dipRecord (outcome : Nat) (s : State) : State :=
  daybook 0x0070 moduleWide noEngine 0 (leBytes 2 s.power.dipMin ++ leBytes 4 (10 * s.power.dipSamples) ++ leBytes 1 outcome) s

/-- The name of a dump whose record is not written yet. -/
def unnamed : Nat := 2 ^ 64 - 1

/-- The record of a dump that is written, which names it. After a bell trip the next start-up writes it (R425). -/
def nameDump (slot : Nat) (s : State) : State :=
  let id := if s.recov.tripped then unnamed else s.recov.daybook.next
  let t := updDump slot (fun d => { d with valid := true, writing := false, id := id }) s
  if s.recov.tripped then t else dumpRecord slot (dumpAt t slot) false t

/-- The TAKE that waits for a slot. -/
def finishTake (slot : Nat) (s : State) : State :=
  if (dumpAt s slot).level != 0 then s
  else match findProg s (fun g => match g.job with
      | .dumpTake _ _ => !s.recov.takes.any fun t => g.job == .dumpTake t.1 t.2.1
      | _ => false) with
    | some g => completeProg g stOk (slotSummary (dumpAt s slot)) s
    | none => s

/-- A dump is written: what waited for it goes on (R417, R430). -/
def dumpWritten (slot : Nat) (s : State) : State :=
  let s1 := finishTake slot (nameDump slot s)
  let s2 := updRecov (fun v => { v with steps := v.steps.map fun x => if x.slot = some slot then { x with slot := none } else x }) s1
  if s2.power.supply = 2 && (dumpAt s slot).level = 4 then powerOff true (dipRecord 1 s2)
  else if s2.recov.steps.any (fun x => x.level == 4 && x.slot.isNone) then chipReset s2
  else s2

def execDumpWritten (slot : Nat) (s : State) : Result State :=
  event "DUMP_WRITTEN" (dumpAt s slot).writing (settled (dumpWritten slot) s)

/-- The collection of a TAKE (R420). -/
def takeCollect (s : State) : State :=
  match s.recov.takes with
  | [] => s
  | (k, set, _) :: rest =>
    let s1 := updRecov (fun v => { v with takes := rest }) s
    let r := collect 0 set 0 noEngine (if set = 2 then partList s else [k]) s1
    match r.1 with
    | some _ => r.2
    | none => match findProg r.2 (fun g => g.job == .dumpTake k set) with
      | some g => completeProg g stBadState [] r.2
      | none => r.2

/-- A TAKE collects at the beat boundary after its sampling (R420). -/
def takeDue (s : State) : Bool := (s.recov.takes.head?).any fun t => t.2.2 ≤ s.clock.beat

def execDumpTakeCollect (s : State) : Result State :=
  event "DUMP_TAKE_COLLECT" (takeDue s) (takeCollect s)

/-! ## RECOVER.DUMP -/

def allIdle (s : State) : Bool := (partList s).all fun k => (s.part k).st == .idle

def dumpTakeBody (p : Post) (slot set : Nat) (s : State) : Reply :=
  if slot != 0 || 2 < set then .done stBadArg [] s
  else if set = 2 && lifeCode s = 2 then .done stDenied [] s
  else if (set = 1 && (s.part p.part).st != .idle) || (set = 2 && !allIdle s) then .done stBadState [] s
  else .accept none [] 0 p.part (.dumpTake p.part set) (updRecov (fun v => { v with takes := v.takes ++ [(p.part, set, s.clock.beat + 1)] }) s)

/-- The bytes of a slot (R417). -/
def slotBytes : Nat := 2 ^ 29

def dumpReadBody (slot set hostAddr offset bytes : Nat) (s : State) : Reply :=
  if 3 < slot || set != 0 || hostAddr % 64 != 0 || offset % 64 != 0 then .done stBadArg [] s
  else if !between 64 slotBytes bytes || bytes % 64 != 0 || slotBytes < offset + bytes then .done stBadLength [] s
  else if !(dumpAt s slot).valid then .done stBadState [] s
  else
    let id := s.host.nextCopy
    let c : HostCopy := { id := id, ctx := 0, part := 0, dir := 1, sync := 0xFFFF, va := offset, hostAddr := hostAddr,
                          bytes := bytes, since := now s, done := 0, dump := some slot, holds := [] }
    .accept none [] 0 0 (.dumpRead id slot) (updDump slot (fun d => { d with reading := true })
      (updHost (fun h => { h with nextCopy := id + 1, copies := h.copies ++ [c] }) s))

def dumpKeepBody (slot set : Nat) (s : State) : Reply :=
  if 3 < slot || set != 0 then .done stBadArg [] s
  else if !(dumpAt s slot).valid then .done stBadState [] s
  else .done stOk [] (updDump slot (fun d => { d with keep := true }) s)

def dumpReleaseBody (slot set : Nat) (s : State) : Reply :=
  if 3 < slot || set != 0 then .done stBadArg [] s
  else .done stOk [] (if (dumpAt s slot).valid then updDump slot (fun _ => Dump.reset) s else s)

def execRecoverDumpTake (p : Post) (slot set : Nat) (s : State) : Result State :=
  .next (mailbox p rowRecoverDump 4 (dumpTakeBody p slot set) s)
def execRecoverDumpRead (p : Post) (slot set hostAddr offset bytes : Nat) (s : State) : Result State :=
  .next (mailbox p rowRecoverDump 4 (dumpReadBody slot set hostAddr offset bytes) s)
def execRecoverDumpKeep (p : Post) (slot set : Nat) (s : State) : Result State :=
  .next (mailbox p rowRecoverDump 4 (dumpKeepBody slot set) s)
def execRecoverDumpRelease (p : Post) (slot set : Nat) (s : State) : Result State :=
  .next (mailbox p rowRecoverDump 4 (dumpReleaseBody slot set) s)

/-! ## RECOVER.RESET and RECOVER.QUERY (R427, R428) -/

/-- Whether a step of the same scope at a level or above is in progress; a partition has at most one step of level 2 or 3 (R407). -/
def scopeBusy (s : State) (level part engine : Nat) : Bool :=
  stopping s || match level with
    | 2 => (engineStep s engine).isSome || !(busyParts s engine).isEmpty || (engineParts s engine).any fun k => (s.part k).st == .resetting
    | 3 => (s.part part).st == .resetting
    | _ => false

def recoverResetBody (level part engine : Nat) (s : State) : Reply :=
  let e := engineBit engine
  if !between 2 5 level || (level = 2 && e.isNone) || (level = 3 && !partExists s part) then .done stBadArg [] s
  else if scopeBusy s level part (e.getD 120) then .done stBadState [] s
  else
    let scope := if level = 2 then e.getD 120 else part
    .accept none [] 0 0 (.resetStep level scope)
      (updRecov (fun v => { v with resetQueued := v.resetQueued ++ [(s.clock.beat + 2, level, scope, engine)] }) s)

def execRecoverReset (p : Post) (level part engine : Nat) (s : State) : Result State :=
  .next (mailbox p rowRecoverReset 1 (recoverResetBody level part engine) s)

/-- A step that RECOVER.RESET asked for begins (R427). -/
def startQueued (level scope : Nat) (s : State) : State :=
  match level with
  | 2 =>
    if (engineStep s scope).isSome then s
    else if (engineParts s scope).any (fun k => (s.part k).st == .resetting) then completeResets 2 scope stPartitionReset s
    else level2Or3 scope 0x0300 true s
  | 3 => startLevel3 scope 0x0300 noEngine true s
  | 4 => startChip 0x0300 120 true s
  | _ => powerCycle s

/-- At a beat boundary, the queued steps whose beat has come; an engine reset waits for another one of its partition to end (R407). -/
def startQueuedSteps (s : State) : State :=
  let due (q : Nat × Nat × Nat × Nat) : Bool :=
    q.1 ≤ s.clock.beat && !(q.2.1 == 2 && (engineStep s q.2.2.1).isNone && !(busyParts s q.2.2.1).isEmpty)
  forAll (s.recov.resetQueued.filter due) (fun q => startQueued q.2.1 q.2.2.1)
    (updRecov (fun v => { v with resetQueued := v.resetQueued.filter fun q => !due q }) s)

/-- LEVEL, ENGINE and SINCE of RECOVER.QUERY for a partition. -/
def recoverHead (s : State) (k : Nat) : Nat × Nat × Nat × List Suspect :=
  match partStep s k with
  | some x => (if x.level = 2 && (x.search || x.redo) then 5 else x.level, if x.level = 2 then engineId x.engine else noEngine,
      x.since, if x.level = 2 then x.suspects else [])
  | none => (match s.recov.cancels.find? fun e => match ctxOf s e.1 with
      | some c => c.part == k
      | none => false with
    | some e => (1, noEngine, e.2, [])
    | none => (0, noEngine, 0, []))

def recoverQueryBody (p : Post) (s : State) : Reply :=
  let k := postTarget p
  let h := recoverHead s k
  let slots := if p.func = 0 then (List.range 4).flatMap fun i => slotSummary (dumpAt s i) else zeros 128
  let sus := padTo 512 ((h.2.2.2.take 64).flatMap fun x => leBytes 4 x.ctx ++ leBytes 1 x.state ++ zeros 3)
  let last := match tget none s.recov.lastHang k with
    | some q => q
    | none => 2 ^ 64 - 1
  .done stOk (leBytes 1 h.1 ++ zeros 1 ++ leBytes 2 h.2.1 ++ leBytes 4 h.2.2.2.length ++ leBytes 8 h.2.2.1
    ++ leBytes 16 (maskOf s.recov.fenced) ++ slots ++ sus ++ leBytes 8 last ++ zeros 8) s

def execRecoverQuery (p : Post) (s : State) : Result State :=
  .next (mailbox p rowRecoverQuery 1 (recoverQueryBody p) s)

/-! ## The daybook (R424, R426, R485) -/

/-- A record as read back: one whose RCRC fails returns TYPE 0xFFFF; the model's flash keeps its bits. -/
def readRecords (ring : List Record) (start count : Nat) : List Record :=
  (ring.filter fun r => decide ((r.seq + 2 ^ 48 - start) % 2 ^ 48 < 2 ^ 47)).take count

/-- Where the records of a read start, if any are due (R426). -/
def readFrom (fromSeq oldest newest : Nat) : Option Nat :=
  let span := (newest + 2 ^ 48 - oldest) % 2 ^ 48
  if (fromSeq + 2 ^ 48 - oldest) % 2 ^ 48 ≤ span then some fromSeq
  else if serialAfter 48 newest fromSeq then none
  else some oldest

def daybookReadBody (fromSeq count : Nat) (s : State) : Reply :=
  if !between 1 62 count then .done stBadLength [] s
  else
    let ring := s.recov.daybook.ring
    match ring.head?, ring.getLast? with
    | some a, some b =>
      let l := match readFrom fromSeq a.seq b.seq with
        | some q => readRecords ring q count
        | none => []
      .done stOk (leBytes 8 a.seq ++ leBytes 8 b.seq ++ leBytes 4 l.length ++ zeros 4 ++ l.flatMap recordBytes) s
    | _, _ => .done stOk (zeros 24) s

def execDaybookRead (p : Post) (fromSeq count : Nat) (s : State) : Result State :=
  .next (mailbox p rowDaybookRead 2 (daybookReadBody fromSeq count) s)

/-- A new beat of the daybook: deferred CORRECTED records first, then the OVERFLOW record (R424, R485). -/
def openDaybook (s : State) : State :=
  let d := s.recov.daybook
  let n := if recordsWait s then 0 else 64
  let s1 := updRecov (fun v => { v with daybook := { v.daybook with inBeat := 0, overflow := 0, deferred := d.deferred.drop n } }) s
  let s2 := forAll (d.deferred.take n) appendRecord s1
  if d.overflow = 0 then s2 else daybook 0x0067 moduleWide noEngine 0 (leBytes 4 d.overflow) s2

/-- Write a CORRECTED record, or defer it when the beat is full (R485). -/
def correctedRecord (e : Nat) (s : State) : State :=
  let r := recordOf s 0x0020 (engineHome s e) (engineId e) 0
    (leBytes 4 (min (tget 0 s.recov.corrected e) (2 ^ 32 - 1)) ++ leBytes 8 s.recov.periodFrom)
  if s.recov.daybook.inBeat < 64 && !recordsWait s then appendRecord r s else deferRecord r s

/-- The end of a period of 20,000 beats: the counts of corrected errors are recorded, and they and those of the channels return to 0
(R285, R485). -/
def correctedPeriodEnd (s : State) : State :=
  let t := forAll s.recov.corrected (fun e => correctedRecord e.1) s
  let quiet (l : Table Chan) : Table Chan :=
    (l.map fun c => (c.1, { c.2 with ce := 0, pins := [] })).filter fun c => !decide (c.2 = Chan.reset)
  updHbm (fun h => { h with chans := quiet h.chans })
    (updRecov (fun v => { v with corrected := [], periodFrom := s.clock.beat }) t)

def execCorrectedPeriodEnd (s : State) : Result State :=
  event "CORRECTED_PERIOD_END" (periodDue s) (correctedPeriodEnd s)

/-! ## PARTITION.CONFIG and PARTITION.QUERY (R381, R382, R44) -/

/-- The new partitions, each in its reset. -/
def newParts (s : State) (mode : Nat) : State :=
  let budget := (s.power.limit - floorWatts s) / mode
  { s with mode := mode, parts := (List.range mode).map (fun k => (k, Part.reset .resetting budget)) }

/-- Each new partition is in a level-3 step that takes no collection (R416). -/
def configStep (k : Nat) (s : State) : State :=
  partEvent k evPreset (updRecov (fun v => { v with steps := v.steps ++ [ladderStep s 3 120 k none [] true] }) s)

def changeMode (mode : Nat) (s : State) : State :=
  let s1 := forAll (partList s) (fun k t => completeAll (partCommand k) stPartitionReset (absorbSteps k t)) s
  let withdraw (g : InProgress) : InProgress := match g.job with
    | .hdm gone _ => { g with job := .hdm gone 0 }
    | _ => g
  let s2 := backInvalidateIf (fun _ => true) (updHost (fun h => { h with hdmParts := 0, progs := h.progs.map withdraw }) s1)
  let s3 := updPlace (fun q => { Placement.reset with nextTensor := q.nextTensor, nextSeq := q.nextSeq }) s2
  forAll (List.range mode) configStep (newParts s3 mode)

def partitionConfigBody (mode : Nat) (s : State) : Reply :=
  if mode != 1 && mode != 2 && mode != 4 then .done stBadArg [] s
  else if s.ctxs.any (fun c => !c.cancelled) || !allIdle s then .done stBadState [] s
  else .accept (some (s.clock.beat + 401)) [] 0 0 (.partConfig mode) (changeMode mode s)

def execPartitionConfig (p : Post) (mode : Nat) (s : State) : Result State :=
  .next (mailbox p rowPartitionConfig 1 (partitionConfigBody mode) s)

def contextEntry (s : State) (c : Ctx) : List Byte :=
  leBytes 4 c.handle ++ leBytes 1 (ctxCode s c) ++ leBytes 1 c.priority ++ leBytes 1 c.func ++ zeros 1 ++ leBytes 8 c.since

/-- The registered contexts of a partition (R383, R409). -/
def partCtxs (s : State) (k : Nat) : List Ctx := s.ctxs.filter fun c => c.part == k && !c.cancelled

def partitionSummary (s : State) (k : Nat) : List Byte :=
  leBytes 1 s.mode ++ leBytes 1 k ++ leBytes 1 (penCount s k) ++ leBytes 1 (residentCtxs s k).length
    ++ leBytes 2 (partCtxs s k).length ++ zeros 2 ++ leBytes 8 (pstateWord s k) ++ leBytes 8 (tlyPartWord s k)
    ++ leBytes 8 (dfaultWord s k) ++ (pensOf s k).flatMap (fun p => leBytes 4 (penIdWord s p) ++ leBytes 4 (penStateWord s p))
    ++ ((List.range 164).filter fun d => (droverParts s d).contains k).flatMap fun d => leBytes 8 (droverWord s d)

def partitionQueryBody (p : Post) (sect first : Nat) (s : State) : Reply :=
  let k := postTarget p
  match sect with
  | 0 => if first != 0 then .done stBadArg [] s else .done stOk (partitionSummary s k) s
  | 1 =>
    let l := ((partCtxs s k).drop first).take 250
    .done stOk (leBytes 4 l.length ++ zeros 4 ++ l.flatMap (contextEntry s)) s
  | _ => .done stBadArg [] s

def execPartitionQuery (p : Post) (sect first : Nat) (s : State) : Result State :=
  .next (mailbox p rowPartitionQuery 1 (partitionQueryBody p sect first) s)

end Sys2Proof.Machine
end

