-- ==== Sys2Proof/Machine/Power.lean ====
section
/-! DEFINITION. Power: budgets (R437 to R440), the input supply (R429 to R432, R477), thermal limits (R441, R442), firmware images
(R452, R453, R455), and start-up (R448). -/

namespace Sys2Proof.Machine

/-! ## Budgets -/

/-- The largest declared energy of a RUN, in µJ (R435). -/
def maxEnergy (r : Run) : Nat := (r.prog.energy.map (·.2)).foldl max 0

/-- Whether a RUN forbids a new budget of its partition (R438, R439). -/
def budgetBreaks (old new : Nat) (r : Run) : Bool := if r.abi = 1 then old != new else 50 * new < maxEnergy r

/-- Whether a list of budgets breaks a RUN of any partition. -/
def budgetsBreak (s : State) (l : List Nat) : Bool :=
  (partList s).any fun k => (runsOf (s.part k)).any (budgetBreaks (s.part k).budget (l.getD k 0))

/-- The BUDGET record (R451). -/
def budgetRecord (s : State) : State :=
  daybook 0x0074 moduleWide noEngine 0 (leBytes 2 s.power.limit ++ leBytes 2 (floorWatts s)
    ++ (List.range 4).flatMap fun k => leBytes 2 (s.part k).budget) s

def setBudgets (l : List Nat) (s : State) : State :=
  forAll (partList s) (fun k => updPart k fun q => { q with budget := l.getD k 0 }) s

def powerBudgetBody (limit : Nat) (budgets : List Nat) (s : State) : Reply :=
  let f := floorWatts s
  if !between (f + 100) 2400 limit || limit < f + budgets.sum || (budgets.drop s.mode).any (· != 0) then .done stBadArg [] s
  else if budgetsBreak s budgets then .done stBadState [] s
  else .done stOk [] (budgetRecord (setBudgets budgets (updPower (fun p => { p with limit := limit }) s)))

def execPowerBudget (p : Post) (limit : Nat) (budgets : List Nat) (s : State) : Result State :=
  .next (mailbox p rowPowerBudget 2 (powerBudgetBody limit budgets) s)

/-- PWR_INPUT (R449). -/
def pwrInputWord (s : State) : Nat :=
  let p := s.power
  min p.vin 65535 + 65536 * min p.iin 65535 + 2 ^ 32 * min p.pin 4095 + 2 ^ 44 * p.supply + 2 ^ 47 * boolNat p.dip
    + 2 ^ 48 * min p.vmin 65535

def dieTemp (s : State) (i : Nat) : DieTemp := tget DieTemp.reset s.power.temps i

/-- PWR_TEMP (R450). -/
def pwrTempWord (s : State) (i : Nat) : Nat :=
  let t := dieTemp s i
  t.tj + 256 * t.tjmax + 65536 * boolNat t.warn + 131072 * boolNat t.hot

def powerQueryBody (p : Post) (s : State) : Reply :=
  .done stOk (leBytes 2 s.power.limit ++ leBytes 2 (floorWatts s) ++ leBytes 4 20000
    ++ (List.range 4).flatMap (fun k => leBytes 2 (if p.func = 0 || p.func = k + 1 then (s.part k).budget else 0))
    ++ leBytes 8 (pwrInputWord s) ++ (List.range 10).flatMap (fun i => leBytes 4 (pwrTempWord s i))
    ++ leBytes 4 s.power.eLast ++ zeros 12) s

def execPowerQuery (p : Post) (s : State) : Result State := .next (mailbox p rowPowerQuery 1 (powerQueryBody p) s)

/-! ## The input supply -/

/-- A dip that the module has ridden through ends with its record (R429). -/
def endDip (s : State) : State :=
  if s.power.dipSamples = 0 then s
  else updPower (fun p => { p with dip := true, dipSamples := 0, dipMin := 0 }) (dipRecord 0 s)

/-- SUPPLY_HIGH, one record for each episode (R429, R451). -/
def endHigh (s : State) : State :=
  if s.power.highSamples = 0 then s
  else updPower (fun p => { p with highSamples := 0, highMax := 0 })
    (daybook 0x0071 moduleWide noEngine 0 (leBytes 2 s.power.highMax ++ leBytes 4 (10 * s.power.highSamples)) s)

/-- The least of the samples so far; none is 0. -/
def lowest (old v : Nat) : Nat := if old = 0 then v else min old v

/-- A dip sample: the 101st consecutive one, or any below 36 V, is hold-up (R429). -/
def dipSample (v : Nat) (s : State) : State :=
  updPower (fun p =>
    { p with dipSamples := p.dipSamples + 1, dipMin := lowest p.dipMin v,
             supply := if v < 36000 || 100 ≤ p.dipSamples then 2 else 1 }) (endHigh s)

/-- What a sample of the input voltage does (R429). In hold-up the sequence of R430 runs to its end; above 62 V every
converter is switched off at once. -/
def classifySupply (v : Nat) (s : State) : State :=
  if 62000 < v then powerOff (s.power.supply == 2) s
  else if s.power.supply = 2 then s
  else if v < 40000 then dipSample v s
  else if 60000 < v then
    updPower (fun p => { p with supply := 3, highSamples := p.highSamples + 1, highMax := max p.highMax v }) (endDip s)
  else updPower (fun p => { p with supply := 0 }) (endHigh (endDip s))

/-- A sample of the input monitor, every 10 µs (R429, R449). -/
def supplySample (v i : Nat) (s : State) : State :=
  let t := updPower (fun p =>
    { p with input := v, vin := v, iin := i, vmin := lowest p.vmin v, sampleSum := p.sampleSum + v * i, samples := p.samples + 1 }) s
  if s.power.converters then classifySupply v t else t

def execSupplySample (millivolt tenMilliamp : Nat) (s : State) : Result State :=
  .next (supplySample millivolt tenMilliamp s)

/-- Whether a dump of level 4 is being written. -/
def levelFourDump (s : State) : Bool := (List.range 4).any fun i => (dumpAt s i).writing && (dumpAt s i).level == 4

/-- Hold-up (R430): commits stop, the collection is taken, and after its dump the module powers down. -/
def holdUp (s : State) : State :=
  let t := stopAll s
  let r := collect 4 (if lifeCode s = 2 then 0 else 1) 0 noEngine (partList s) t
  match r.1 with
  | some _ => r.2
  | none => powerOff true (dipRecord 1 r.2)

def execHoldUp (s : State) : Result State :=
  event "HOLD_UP" (s.power.converters && s.power.supply == 2 && !levelFourDump s) (settled holdUp s)

/-- The mean of a beat's samples, at its end: PIN, the energy, and the beats in a row above LIMIT (R432, R440, R449). -/
def closePowerBeat (s : State) : State :=
  updPower (fun p =>
    if p.samples = 0 then p
    else
      let mean := divEven p.sampleSum (p.samples * 100000)
      let over_ := p.limit * 100000 * p.samples < p.sampleSum
      { p with pin := mean, eLast := divEven (p.sampleSum * 50) (p.samples * 100000), sampleSum := 0, samples := 0,
               overBeats := if over_ then p.overBeats + 1 else 0, overMax := if over_ then max p.overMax mean else 0,
               overRecorded := over_ && p.overRecorded }) s

def powerOver (s : State) : State :=
  updPower (fun p => { p with overRecorded := true })
    (daybook 0x0073 moduleWide noEngine 0 (leBytes 4 s.power.overBeats ++ leBytes 2 s.power.overMax) s)

def execPowerOver (s : State) : Result State :=
  event "POWER_OVER" (20 ≤ s.power.overBeats && !s.power.overRecorded) (powerOver s)

/-! ## Power-on and power-off (R477) -/

/-- The converters start and start-up begins; after hold-up only once PWR_EN has been low (R430). -/
def powerOn (s : State) : State :=
  updPower (fun p =>
    { p with stage := firstStage s.sec, stageAt := s.clock.elapsed, bootTimer := true, pwrEn := true, pwrgd := true,
             converters := true, needEnCycle := false }) s

def mayPowerOn (s : State) : Bool :=
  s.power.stage == .off && between 40000 62000 s.power.input && !(s.power.needEnCycle && s.power.pwrEn)

def execPowerOn (s : State) : Result State := event "POWER_ON" (mayPowerOn s) (powerOn s)

def pwrEnLow (s : State) : State :=
  updPower (fun p => { p with pwrEn := false, needEnCycle := false }) (if s.power.converters then powerOff false s else s)

def execPwrEnLow (s : State) : Result State := .next (pwrEnLow s)

/-! ## Thermal limits (R441, R442) -/

/-- Sensors 0 to 9 are the dies in PWR_TEMP order, 10 to 29 the stacks. -/
def warnAt (sensor : Nat) : Nat := if sensor < 10 then 100 else 90

/-- The source byte of a THERMAL record (R451). -/
def thermalSource (sensor : Nat) : Nat := if sensor < 10 then sensor else 16 + (sensor - 10)

def sensorTemp (s : State) (sensor : Nat) : Nat := if sensor < 10 then (dieTemp s sensor).tj else (s.stack (sensor - 10)).temp

def updDie (i : Nat) (f : DieTemp → DieTemp) : State → State :=
  updPower fun p => { p with temps := tupd DieTemp.reset p.temps i f }

/-- Keep a reading in its register. -/
def storeTemp (sensor temp : Nat) (s : State) : State :=
  if sensor < 10 then updDie sensor (fun t => { t with tj := temp, tjmax := max t.tjmax temp }) s
  else updStack (sensor - 10) (fun q => { q with temp := temp }) s

/-- A reading compared with the thresholds: warnings and quiesces wait for the next beat boundary, the trip does not (R441). -/
def thermalSample (sensor temp : Nat) (s : State) : State :=
  let w := warnAt sensor
  updPower (fun p =>
    { p with warned := if w ≤ temp then insertSorted sensor p.warned else p.warned.filter (· != sensor),
             warnPending := if w ≤ temp && !p.warned.contains sensor then insertSorted sensor p.warnPending else p.warnPending,
             quiescePending := if w + 5 ≤ temp then insertSorted sensor p.quiescePending else p.quiescePending,
             thermtrip := p.thermtrip || w + 15 ≤ temp }) (storeTemp sensor temp s)

def execThermalSample (sensor temp : Nat) (s : State) : Result State := .next (thermalSample sensor temp s)

/-- The THERMAL record (R451). -/
def thermalRecord (sensor ev : Nat) (s : State) : State :=
  daybook 0x0072 moduleWide noEngine 0 (leBytes 1 (thermalSource sensor) ++ leBytes 1 (sensorTemp s sensor) ++ leBytes 1 ev) s

def thermalWarning (s : State) : State :=
  let t := forAll s.power.warnPending (fun i u =>
    thermalRecord i 0 (if i < 10 then updDie i (fun d => { d with warn := true }) u else u)) s
  allEvent evThermal (updPower (fun p => { p with warnPending := [] }) t)

def execThermalWarning (s : State) : Result State :=
  event "THERMAL_WARNING" (!s.power.warnPending.isEmpty) (thermalWarning s)

/-- A thermal quiesce stops a partition: its RUNs complete with QUIESCED, and STATE reads 4 (R442). -/
def thermalStop (k : Nat) (s : State) : State :=
  if (s.part k).st == .resetting then s
  else
    let t := endRuns k stQuiesced (if (s.part k).st == .running then quiesce k false s else s)
    partEvent k evQuiesce (updPart k (fun q => { q with st := .quiesced, thermal := true, retry := false }) t)

def thermalQuiesce (s : State) : State :=
  let l := s.power.quiescePending
  let s1 := forAll l (fun i t => thermalRecord i 1 (if i < 10 then updDie i (fun d => { d with hot := true }) t else t)) s
  let s2 := forAll (partList s) thermalStop s1
  updPower (fun p => { p with quiescePending := [], thermalOn := true, thermalBy := l, coolBeats := 0 }) s2

def execThermalQuiesce (s : State) : Result State :=
  event "THERMAL_QUIESCE" (!s.power.quiescePending.isEmpty && !s.power.thermalOn) (settled thermalQuiesce s)

/-- Whether every die reads below 95 °C and every stack below 85 °C (R442). -/
def isCool (s : State) : Bool := (List.range 30).all fun i => sensorTemp s i < warnAt i - 5

/-- Cool beats in a row, counted at beat boundaries. -/
def countCool (s : State) : State :=
  updPower (fun p => { p with coolBeats := if p.thermalOn && isCool s then p.coolBeats + 1 else 0,
                              quiescePending := if p.thermalOn then [] else p.quiescePending }) s

def thermalClear (s : State) : State :=
  let s1 := forAll s.power.thermalBy (fun i t => thermalRecord i 2 (if i < 10 then updDie i (fun d => { d with hot := false }) t else t)) s
  let s2 := forAll (partList s) (fun k => updPart k fun q =>
    if q.thermal then { q with thermal := false, st := if q.st == .quiesced then .idle else q.st } else q) s1
  updPower (fun p => { p with thermalOn := false, thermalBy := [], coolBeats := 0 }) s2

def execThermalClear (s : State) : Result State :=
  event "THERMAL_CLEAR" (s.power.thermalOn && 200 ≤ s.power.coolBeats) (settled thermalClear s)

/-! ## Firmware images (R452, R453) -/

/-- Whether a slot's image is accepted (R453). -/
def imageAccepted (x : Security) (i : Image) : Bool :=
  i.magic == 0x4657564F && i.version == 1 && i.length ≤ 64 * mib && i.length == i.body.length + 160
    && tget [] x.keySlots i.keyIndex == Config.sha512 i.pubkey && !bit x.keyRevoked i.keyIndex
    && Config.ecdsaVerify i.pubkey i.signature (Config.sha512 i.body) && x.fusedSvn ≤ i.svn

def acceptedSlot (x : Security) (slot : Nat) : Option Image :=
  (if slot = 0 then x.slotA else x.slotB).filter (imageAccepted x)

/-- The slot that the boot ROM runs: PREFER first, then the other (R453). -/
def bootSlot (x : Security) : Option (Nat × Image) :=
  match acceptedSlot x x.prefer with
  | some i => some (x.prefer, i)
  | none => (acceptedSlot x (1 - x.prefer)).map fun i => (1 - x.prefer, i)

/-- Whether debug is open (R467). -/
def debugOpen (s : State) : Bool := lifeCode s != 2 && lifeCode s != 4

/-- ASCII text as bytes. -/
def ascii (t : String) : List Byte := t.toList.map fun c => BitVec.ofNat 8 c.toNat

/-- The SHA-512 of an image (R452, R457). -/
def imageDigest (i : Image) : List Byte := Config.sha512 (i.body ++ i.signature ++ zeros 28)

/-- The identity of a start-up: DeviceID from the UDS, and the Alias key from the compound identifier (R456, R457). -/
def formIdentity (s : State) (slot : Nat) (i : Image) : Security :=
  let x := s.sec
  let y := { x with running := some i, slot := slot, fallback := slot != x.prefer, drbgRequests := 0 }
  match x.uds with
  | none => y
  | some u =>
    if lifeCode s = 4 then y
    else
      let secret := leBytes 32 u
      let dice := imageDigest i ++ leBytes 1 i.svn ++ leBytes 1 x.fusedSvn ++ leBytes 1 (lifeCode s)
        ++ leBytes 1 (boolNat (debugOpen s))
      { y with deviceKey := Config.derive secret (ascii "OV DeviceID"),
               aliasKey := Config.derive (Config.hmac (Config.derive secret (ascii "OV CDI")) dice) [] }

/-! ## Start-up (R448) -/

def toStage (st : Stage) : State → State := updPower fun p => { p with stage := st }

/-- The boot ROM verifies the slots: it runs the first image that it accepts, or waits for recovery (R453, R454). -/
def firmwareVerify (s : State) : State :=
  match bootSlot s.sec with
  | some (slot, i) => toStage .training { s with sec := formIdentity s slot i }
  | none => updPower (fun p => { p with stage := .recoveryWait, bootTimer := false }) s

def execFirmwareVerify (s : State) : Result State :=
  event "FIRMWARE_VERIFY" (s.power.stage == .verify) (firmwareVerify s)

/-- Whether a channel on trial passes: its training succeeds, and in the pattern test no pin's symbol was in error, corrected or not; an
error count is (channel, pseudo-channel, pin, sectors) (R287). -/
def trialPassed (failed : List Nat) (errors : List (Nat × Nat × Nat × Nat)) (c : Nat) : Bool :=
  !failed.contains c && errors.all fun e => e.1 != c || e.2.2.2 == 0

/-- Start-up training ends: channels that fail join the list, tried channels that pass leave it (R287). The wipe that follows writes
under a new key (R296). -/
def trainingDone (failed : List Nat) (errors : List (Nat × Nat × Nat × Nat)) (s : State) : State :=
  let back := s.hbm.trial.filter fun c => trialPassed failed errors c && s.hbm.mapped.contains c
  let s1 := updHbm (fun h => { h with mapped := h.mapped.filter fun c => !back.contains c, trial := [] }) s
  let lost := failed.filter fun c => !s1.hbm.mapped.contains c
  toStage .wipe (updSec (fun x => { x with drbgRequests := x.drbgRequests + 1 }) (forAll lost (mapOut 2) s1))

def execHbmTrainingDone (failed : List Nat) (errors : List (Nat × Nat × Nat × Nat)) (s : State) : Result State :=
  event "HBM_TRAINING_DONE" (s.power.stage == .training) (trainingDone failed errors s)

/-- The wipe ends: every frame reads zeros and is marked zeroed, and the enabled stacks are in service (R295, R297, R288). -/
def wipeDone (s : State) : State :=
  let s1 := updHbm (fun h => { h with t1 := [], poison := [], staleKey := [], zeroed := [], written := [], unmarked := [], unlisted := [] }) s
  let s2 := forAll (List.range 20) (fun t u => updStack t (fun q => { q with st := if stackDisabled u t then 3 else 2 }) u) s1
  toStage .gates s2

def execHbmWipeDone (s : State) : Result State :=
  event "HBM_WIPE_DONE" (s.power.stage == .wipe) (wipeDone s)

/-- The records of a bell trip, which the following start-up writes: BELL_TRIP, and DUMP for each slot still unnamed (R425). -/
def bellRecords (s : State) : State :=
  if !s.recov.tripped then s
  else
    let s1 := updRecov (fun v => { v with tripped := false }) s
    let s2 := daybook 0x0066 moduleWide noEngine 0 (leBytes 8 s.recov.last ++ leBytes 8 s.recov.lastWord) s1
    forAll ((List.range 4).filter fun i => (dumpAt s i).valid && (dumpAt s i).id == unnamed) nameDump s2

/-- The state before the last transition (R465). -/
def formerCode (s : State) : Nat := ((s.sec.entries.dropLast.getLast?).map (·.target)).getD 0

/-- The LIFECYCLE record, WIPE_DONE and the event of a transition that this start-up ends; the records of the start-up follow (R465). -/
def endTransition (s : State) : State :=
  if !recordsWait s then s
  else
    let s1 := updSec (fun x => { x with entries := x.entries.map fun e => { e with wipeDone := true } }) s
    allEvent evLifecycle (daybook 0x0080 moduleWide noEngine 0 (leBytes 1 (formerCode s) ++ leBytes 1 (lifeCode s)
      ++ leBytes 1 s.sec.entries.length ++ leBytes 1 (runningSvn s)) s1)

/-- The fused SVN and the revoke bits at readiness (R455). -/
def raiseSvn (s : State) : State :=
  updSec (fun x =>
    let svns := [0, 1].filterMap fun i => (acceptedSlot x i).map (·.svn)
    let low := svns.foldl min 127
    let run := x.running
    let index := (run.map (·.keyIndex)).getD 0
    let revoke := ((run.map (·.revoke)).getD 0) % 2 ^ index
    { x with fusedSvn := if svns.isEmpty then x.fusedSvn else max x.fusedSvn low, keyRevoked := x.keyRevoked ||| revoke }) s

/-- The self-test of start-up: an engine that fails it stays fenced (R412), and partition 0 is degraded by its fenced pens. -/
def selfTest (failed : List Nat) (s : State) : State :=
  let s1 := forAll (failed.filter fun e => between 1 4 (engineClass e)) (fun e t => keepFenced e (switchOff e t)) s
  fitCommons 0 (updPart 0 (fun q => { q with degraded := hasFencedPen s1 0 }) s1)

/-- Readiness (R448): pens are enabled, partition 0 is idle with its budget, the records are written, the host link is released. -/
def startupReady (failed : List Nat) (s : State) : State :=
  let s1 := forAll (List.range 64) (fun p => updPen p fun q => { q with power := if q.power = 2 then 2 else 1 }) (selfTest failed s)
  let s2 := toStage .ready (setBudgets [s.power.limit - floorWatts s] (raiseSvn (endTransition s1)))
  let s3 := staggerRecord 1 (penCount s2 0) (bellRecords s2)
  daybook 0x0001 moduleWide noEngine 0 (leBytes 1 (lifeCode s) ++ leBytes 1 (runningSvn s)
    ++ leBytes 4 (s.clock.elapsed - s.power.stageAt)) (updPower (fun p => { p with bootTimer := false }) s3)

def execStartupReady (failed : List Nat) (s : State) : Result State :=
  event "STARTUP_READY" (s.power.stage == .gates) (startupReady failed s)

/-- Whether 2.5 s have passed since PWRGD; no beat is counted before the PLLs lock (R448). -/
def bootOverdue (s : State) : Bool :=
  s.power.bootTimer && !s.power.cycleReq && match s.power.stage with
    | .verify => true
    | .training | .wipe | .gates => s.power.stageAt + 48600 ≤ s.clock.elapsed
    | _ => false

def execBootTimerExpired (s : State) : Result State :=
  event "BOOT_TIMER_EXPIRED" (bootOverdue s) (powerCycle s)

end Sys2Proof.Machine
end

