-- ==== Sys2Proof/Machine/Secure.lean ====
section
/-! DEFINITION. Security and management: manifest keys (R460 to R462), random numbers (R463), the life cycle (R464 to R466), debug
(R467), attestation (R458, R459), and the management controller (R480 to R482). -/

namespace Sys2Proof.Machine

/-! ## SEC.KEY and SEC.QUERY -/

def manifestKey (s : State) (i : Nat) : ManifestKey := tget ManifestKey.reset s.sec.keys i

/-- Whether a KEY_ID stands in a slot other than one. -/
def keyElsewhere (s : State) (slot id : Nat) : Bool := (List.range 16).any fun i => i != slot && (manifestKey s i).keyId == id

/-- SEC.KEY is denied in BLANK and SCRAPPED (R461). -/
def keysDenied (s : State) : Bool := lifeCode s == 0 || lifeCode s == 4

/-- Change a slot of the key table; measurement block 5 is measured again (R459). -/
def setKey (slot : Nat) (k : ManifestKey) : State → State :=
  updSec fun x => { x with keys := tset ManifestKey.reset x.keys slot k, measured := x.measured + 1 }

def keyInstallBody (slot id : Nat) (pub : List Byte) (s : State) : Reply :=
  if keysDenied s then .done stDenied [] s
  else if 15 < slot || id = 0 || 2 ^ 63 ≤ id || !Config.isPoint pub || keyElsewhere s slot id then .done stBadArg [] s
  else if (manifestKey s slot).keyId != 0 then .done stBadState [] s
  else .done stOk [] (setKey slot ⟨id, false, pub⟩ s)

def keyRevokeBody (slot id : Nat) (pub : List Byte) (s : State) : Reply :=
  if keysDenied s then .done stDenied [] s
  else if 15 < slot || id = 0 || pub.any (· != 0) || keyElsewhere s slot id then .done stBadArg [] s
  else if (manifestKey s slot).keyId != id then .done stBadState [] s
  else .done stOk [] (setKey slot { manifestKey s slot with revoked := true } s)

def execSecKeyInstall (p : Post) (slot keyId : Nat) (pub : List Byte) (s : State) : Result State :=
  .next (mailbox p rowSecKey 19 (keyInstallBody slot keyId pub) s)
def execSecKeyRevoke (p : Post) (slot keyId : Nat) (pub : List Byte) (s : State) : Result State :=
  .next (mailbox p rowSecKey 19 (keyRevokeBody slot keyId pub) s)

/-- SEC_STATUS (R468). -/
def secStatusWord (s : State) : Nat :=
  let x := s.sec
  lifeCode s + 8 * boolNat (match x.entries.getLast? with
      | some e => !e.wipeDone
      | none => false)
    + 16 * x.slot + 32 * boolNat x.fallback + 64 * boolNat (debugOpen s) + 128 * boolNat x.debugUsed + 256 * x.fusedSvn
    + 2 ^ 16 * x.keyRevoked + 2 ^ 20 * ((x.running.map (·.keyIndex)).getD 0) + 2 ^ 24 * x.entries.length

def slotSvn (x : Security) (i : Nat) : Nat := ((acceptedSlot x i).map (·.svn)).getD 0xFF

def slotBuild (o : Option Image) : Nat := (o.map (·.build)).getD 0

def secQueryBody (s : State) : Reply :=
  let x := s.sec
  .done stOk (leBytes 4 (secStatusWord s) ++ leBytes 1 (slotSvn x 0) ++ leBytes 1 (slotSvn x 1) ++ zeros 2
    ++ leBytes 8 (slotBuild x.slotA) ++ leBytes 8 (slotBuild x.slotB)
    ++ (List.range 16).flatMap (fun i =>
      let k := manifestKey s i
      leBytes 8 (k.keyId + 2 ^ 63 * boolNat k.revoked))
    ++ (match x.running with
        | some i => imageDigest i
        | none => zeros 64)) s

def execSecQuery (p : Post) (s : State) : Result State := .next (mailbox p rowSecQuery 1 secQueryBody s)

/-! ## Random numbers (R463) -/

/-- A fresh random number below a bound. -/
def random (bound : Nat) (s : State) : Nat × State :=
  let r := fresh s
  (r.1 % bound, updSec (fun x => { x with drbgRequests := x.drbgRequests + 1 }) r.2)

def execDrbgReseed (s : State) : Result State :=
  event "DRBG_RESEED" (2 ^ 20 ≤ s.sec.drbgRequests) (updSec (fun x => { x with drbgRequests := 0 }) s)

/-- A failed health test stops key generation and is a hang of SHARED engine 2 (R463); the kind is NO_RESPONSE. -/
def entropyFail (s : State) : State :=
  if s.power.stage = .off then s
  else takeHang ⟨116, .noResponse, s.clock.beat⟩ (updSec (fun x => { x with entropyOk := false }) s)

def execEntropyFail (s : State) : Result State := .next (settled entropyFail s)

/-! ## Life cycle (R464, R465) -/

/-- The DEVICE_ID digest, or zeros in BLANK (R465). -/
def deviceDigest (s : State) : List Byte := if lifeCode s = 0 then zeros 64 else Config.sha512 s.sec.deviceKey

def lifecycleQueryBody (s : State) : Reply :=
  let r := random (2 ^ 256) s
  .done stOk (leBytes 1 (lifeCode s) ++ leBytes 1 s.sec.entries.length ++ zeros 6 ++ leBytes 32 r.1 ++ deviceDigest s)
    (updSec (fun x => { x with nonce := some r.1, nonceIssued := true }) r.2)

def execLifecycleQuery (p : Post) (s : State) : Result State :=
  .next (mailbox p rowLifecycleQuery 1 lifecycleQueryBody s)

/-- Whether a transition is permitted (R464). -/
def mayAdvance (s : State) (target : Nat) : Bool :=
  let used := s.sec.entries.length
  used < 16 && match lifeCode s, target with
    | 4, _ => false
    | _, 4 => true
    | 0, 1 => used < 15
    | 1, 2 => used < 15
    | 2, 3 => used < 15
    | 3, 2 => used < 15
    | _, _ => false

/-- Whether a transition needs an authorisation (R464). -/
def needsAuth (s : State) (target : Nat) : Bool := target != 4 && lifeCode s != 1

/-- Whether the authorisation signs the device, the NONCE and the target (R464). -/
def authValid (s : State) (target nonce : Nat) (auth : List Byte) : Bool :=
  Config.ecdsaVerify s.sec.lifeKey auth
    (Config.sha512 ((if lifeCode s = 0 then zeros 64 else deviceDigest s) ++ leBytes 32 nonce ++ leBytes 1 target))

/-- No NONCE since the last chip reset, or a required authorisation that fails (R465). -/
def advanceDenied (s : State) (target : Nat) (auth : List Byte) : Bool :=
  !s.sec.nonceIssued || (needsAuth s target && match s.sec.nonce with
    | none => true
    | some n => !authValid s target n auth)

/-- Whether a RUN is accepted or running, or a partition is quiesced or resetting (R465). -/
def anyBusy (s : State) : Bool := (partList s).any fun k => (s.part k).st != .idle || !(runsOf (s.part k)).isEmpty

def lifecycleAdvanceBody (target : Nat) (auth : List Byte) (s : State) : Reply :=
  let t := updSec (fun x => { x with nonce := none }) s
  if !mayAdvance s target || (!needsAuth s target && auth.any (· != 0)) then .done stBadArg [] t
  else if advanceDenied s target auth then .done stDenied [] t
  else if anyBusy s then .done stBadState [] t
  else .accept none [] 0 0 .lifecycle (updSec (fun x => { x with accepted := some (target, s.clock.beat + 2) }) t)

def execLifecycleAdvance (p : Post) (target : Nat) (auth : List Byte) (s : State) : Result State :=
  .next (mailbox p rowLifecycleAdvance 18 (lifecycleAdvanceBody target auth) s)

/-- The transition that is due (R465); none to PROVISIONED while no key can be generated (R456, R463). -/
def dueTransition (s : State) : Option Nat :=
  s.sec.accepted.bind fun e => if e.2 ≤ s.clock.beat && (e.1 != 1 || s.sec.entropyOk) then some e.1 else none

/-- The UDS and the certificate of the transition to PROVISIONED (R456). -/
def provision (target : Nat) (s : State) : State :=
  if target = 1 then
    let r := random (2 ^ 256) s
    updSec (fun x => { x with uds := some r.1, deviceCert := true }) r.2
  else s

/-- The transition (R465): everything stops, other commands complete with QUIESCED, the entry is blown, and a chip reset begins. -/
def lifecycleCommit (s : State) : State :=
  match dueTransition s with
  | none => s
  | some target =>
    let s1 := completeAll (fun g => g.job != .lifecycle) stQuiesced (stopAll s)
    let s2 := provision target s1
    chipReset (updSec (fun x => { x with entries := x.entries ++ [⟨target, false⟩] }) s2)

def execLifecycleCommit (s : State) : Result State :=
  event "LIFECYCLE_COMMIT" (dueTransition s).isSome (lifecycleCommit s)

/-- The erase of module flash but for the firmware slots and PREFER (R465). -/
def flashErased (s : State) : State :=
  let s1 := updRecov (fun v => { v with daybook := Daybook.reset, dumps := [], lastHang := [] }) s
  let s2 := updHbm (fun h => { h with mapped := [], trial := [] }) s1
  toStage .verify (updSec (fun x => { x with keys := [] }) s2)

def execLifecycleEraseDone (s : State) : Result State :=
  event "LIFECYCLE_ERASE_DONE" (s.power.stage == .erase) (flashErased s)

/-! ## Attestation (R458, R459) -/

/-- The code by which a reply of DSP0274 is told apart (log 12). -/
def spdmNumber : SpdmCode → Nat
  | .getVersion => 0x10
  | .getCapabilities => 0x11
  | .negotiateAlgorithms => 0x12
  | .getDigests => 0x13
  | .getCertificate => 0x14
  | .challenge => 0x15
  | .getMeasurements _ => 0x16
  | .keyExchange => 0x17
  | .finish => 0x18
  | .heartbeat => 0x19
  | .endSession => 0x1A
  | .pskExchange => 0x1B
  | .other => 0x1C

/-- The content that a measurement block measures (R459). -/
def measurement (s : State) (index : Nat) : List Byte :=
  let x := s.sec
  match index with
  | 2 => (x.running.map imageDigest).getD []
  | 3 => leBytes 1 (runningSvn s) ++ leBytes 1 x.fusedSvn ++ leBytes 1 x.slot ++ leBytes 1 (boolNat x.fallback)
  | 4 => leBytes 1 (lifeCode s) ++ leBytes 1 x.entries.length
  | 5 => (List.range 16).flatMap fun i => leBytes 8 (manifestKey s i).keyId ++ padTo 133 (manifestKey s i).pub
  | 6 => leBytes 1 (boolNat (debugOpen s)) ++ leBytes 1 (boolNat x.debugUsed)
  | _ => []

/-- The state that an SPDM reply may depend on. -/
def spdmInput (s : State) (code : SpdmCode) (body : List Byte) : List Byte :=
  match code with
  | .getMeasurements i => measurement s i ++ body
  | _ => body

/-- Sessions of a transport. -/
def spdmSessions (s : State) (mctp : Bool) : Nat := if mctp then s.sec.spdmMctp else s.sec.spdmDoe

def setSpdmSessions (mctp : Bool) (n : Nat) : State → State :=
  updSec fun x => if mctp then { x with spdmMctp := n } else { x with spdmDoe := n }

/-- Whether a request receives an ERROR response: no identity, no PSK, a third session, or no key for one (R458, R463). -/
def spdmError (s : State) (mctp : Bool) (code : SpdmCode) : Bool :=
  match code with
  | .getVersion | .getCapabilities => false
  | .pskExchange => true
  | .keyExchange => keysDenied s || 2 ≤ spdmSessions s mctp || !s.sec.entropyOk
  | _ => keysDenied s

/-- An SPDM request: over DOE while the host link is up, over MCTP while the module has power and does not wait for recovery, when it
accepts only a firmware update (R454, R458, R480). -/
def spdmRequest (mctp : Bool) (code : SpdmCode) (body : List Byte) (s : State) : State :=
  if s.power.stage = .off || s.power.stage = .recoveryWait || (!mctp && !s.host.up) then s
  else if spdmError s mctp code then emit (.spdm mctp true []) s
  else
    let n := spdmSessions s mctp
    let t := match code with
      | .keyExchange => setSpdmSessions mctp (n + 1) (random 1 s).2
      | .endSession => setSpdmSessions mctp (n - 1) s
      | _ => s
    emit (.spdm mctp false (Config.protocolReply (spdmNumber code) (spdmInput s code body))) t

def execSpdmRequest (mctp : Bool) (code : SpdmCode) (body : List Byte) (s : State) : Result State :=
  .next (spdmRequest mctp code body s)

/-! ## Debug (R467) -/

/-- The instruction that a shift selects. -/
def selectedIr (s : State) (ir : JtagIr) : JtagIr :=
  match ir with
  | .debug _ => if debugOpen s then ir else .bypass
  | _ => ir

def jtagInstruction (ir : JtagIr) (s : State) : State :=
  if s.power.stage = .off then s
  else
    let sel := selectedIr s ir
    let t := updMgmt (fun m => { m with ir := sel }) s
    let u := match sel with
      | .debug _ => updSec (fun x => { x with debugUsed := true }) t
      | _ => t
    emit (.jtag sel) u

def execJtagInstruction (ir : JtagIr) (s : State) : Result State := .next (jtagInstruction ir s)

/-! ## The management controller (R480 to R482) -/

/-- The controller has power only while PWRGD is asserted (R480). -/
def whilePowered (f : State → State) (s : State) : State := if s.power.pwrgd then f s else s

def setUpdate (u : UpdateStage) : State → State := updMgmt fun m => { m with update := u }

/-- RequestUpdate is refused while an update is in progress (R482). -/
def requestUpdate (s : State) : State :=
  if s.mgmt.update = .none then emit (.pldm true 1) (setUpdate .requested s) else emit (.pldm false 1) s

/-- The slot that an update writes (R454, R482). -/
def updateSlot (s : State) : Nat := if s.power.stage = .recoveryWait then 0 else 1 - s.sec.slot

/-- UpdateComponent: the slot is written and verified; in recovery the boot ROM then verifies the slots again (R454, R482). -/
def updateComponent (i : Image) (s : State) : State :=
  if s.mgmt.update = .none then emit (.pldm false 2) s
  else
    let slot := updateSlot s
    let t := updSec (fun x => if slot = 0 then { x with slotA := some i } else { x with slotB := some i }) s
    let ok := imageAccepted t.sec i
    let u := emit (.pldm ok 2) (setUpdate (if ok then .verified slot else .requested) t)
    if s.power.stage = .recoveryWait then toStage .verify u else u

/-- ActivateFirmware sets PREFER for the next chip reset (R482). -/
def activateFirmware (s : State) : State :=
  match s.mgmt.update with
  | .verified slot => emit (.pldm true 3) (setUpdate .none (updSec (fun x => { x with prefer := slot }) s))
  | _ => emit (.pldm false 3) s

def execPldmRequestUpdate (s : State) : Result State := .next (whilePowered requestUpdate s)
def execPldmUpdateComponent (image : Image) (s : State) : Result State := .next (whilePowered (updateComponent image) s)
def execPldmActivateFirmware (s : State) : Result State := .next (whilePowered activateFirmware s)

/-- The numeric sensors and the state sensors 50 and 51 (R481). -/
def sensorIds : List Nat := [1, 2, 3] ++ (List.range 10).map (10 + ·) ++ (List.range 20).map (20 + ·) ++ [50, 51]

def sensorValue (s : State) (id : Nat) : Nat :=
  if id = 1 then s.power.vin else if id = 2 then s.power.iin else if id = 3 then s.power.pin
  else if id < 20 then (dieTemp s (id - 10)).tj else if id < 40 then (s.stack (id - 20)).temp
  else if id = 50 then lifeCode s else boolNat ((partList s).any fun k => (s.part k).st == .quiesced)

/-- The level of a reading: 0 normal, 1 warning, 2 critical, 3 fatal (R481). -/
def sensorLevel (s : State) (id : Nat) : Nat :=
  let v := sensorValue s id
  if id = 1 then (if v < 36000 || 62000 < v then 2 else if v < 40000 || 60000 < v then 1 else 0)
  else if id = 3 then boolNat (s.power.limit < v)
  else if 10 ≤ id && id < 40 then
    let w := if id < 20 then 100 else 90
    if w + 15 ≤ v then 3 else if w + 5 ≤ v then 2 else if w ≤ v then 1 else 0
  else 0

/-- Refresh one sensor; a crossing sends an event when the bus owner has enabled them. -/
def refreshSensor (id : Nat) (s : State) : State :=
  let l := sensorLevel s id
  let t := updMgmt (fun m => { m with sensors := tset 0 m.sensors id (sensorValue s id), levels := tset 0 m.levels id l }) s
  if s.mgmt.eventsOn && tget 0 s.mgmt.levels id != l then emit (.pldmEvent id l) t else t

/-- A refresh is due at every 20,000th beat (R481). -/
def refreshDue (s : State) : Bool := s.power.stage == .ready && s.clock.beat % 20000 == 0 && s.mgmt.refreshed != s.clock.beat

def execPldmSensorRefresh (s : State) : Result State :=
  event "PLDM_SENSOR_REFRESH" (refreshDue s) (updMgmt (fun m => { m with refreshed := s.clock.beat }) (forAll sensorIds refreshSensor s))
/-- The bus owner enables events; in recovery only a firmware update is accepted (R454). -/
def enableEvents (on : Bool) (s : State) : State :=
  if s.power.stage = .recoveryWait then s else updMgmt (fun m => { m with eventsOn := on }) s

def execPldmEventEnable (on : Bool) (s : State) : Result State := .next (whilePowered (enableEvents on) s)
def execMctpEndpointIdAssign (eid : Nat) (s : State) : Result State :=
  .next (whilePowered (updMgmt fun m => { m with eid := eid }) s)

end Sys2Proof.Machine
end

