-- ==== Sys2Proof/Machine/Hbm.lean ====
section
/-! DEFINITION. The stacked memory: the burst code (R283, R284), dead pins (R285), poison (R292, R294), the slot template and its
arbitration (R275 to R281), refresh and retraining (R276, R289 to R291), MEM.QUERY and MEM.RESTORE (R287, R300). -/

namespace Sys2Proof.Machine

/-! ## Sectors on pins (R270) -/

/-- The data pin and the beat of bit n of a sector. -/
def pinOf (n : Nat) : Nat := n % 32
def beatOf (n : Nat) : Nat := n / 32

/-- The 16 bits that data pin i carries over the burst, beat b as bit b. -/
def dataSymbol (d : List Byte) (i : Nat) : Nat :=
  (List.range 512).foldl (fun a n => if pinOf n = i && (d.getD (n / 8) 0).getLsbD (n % 8) then a + 2 ^ beatOf n else a) 0

/-! ## The burst code (R283) -/

/-- Multiply by α in GF(2^16) with the field polynomial x^16 + x^12 + x^3 + x + 1. -/
def gfTwice (a : Nat) : Nat := if a < 32768 then 2 * a else (2 * a) ^^^ 0x1100B

/-- Multiply by α^n. -/
def gfAlpha : Nat → Nat → Nat
  | 0, a => a
  | n + 1, a => gfAlpha n (gfTwice a)

/-- The product of two field elements. -/
def gfMul (a b : Nat) : Nat := (List.range 16).foldl (fun z i => if b.testBit i then z ^^^ gfAlpha i a else z) 0

/-- The coefficients of (x − α⁰)(x − α¹)(x − α²)(x − α³) below x⁴, from x³ down. -/
def generator : List Nat :=
  ((List.range 4).foldl (fun (l : List Nat) j => (l ++ [0]).zipWith (· ^^^ ·) (0 :: l.map (gfMul (gfAlpha j 1)))) [1]).drop 1

/-- The remainder of the data symbols, the coefficients of x³⁵ down to x⁴: one step of the division for each. -/
def divideStep (rem : List Nat) (d : Nat) : List Nat :=
  let q := rem.headD 0 ^^^ d
  (rem.drop 1 ++ [0]).zipWith (· ^^^ ·) (generator.map (gfMul q))
def checkSymbols (data : List Nat) : List Nat := data.foldl divideStep [0, 0, 0, 0]

/-- The 36 symbols of a sector, by pin. -/
def codeword (d : List Byte) : List (Nat × Nat) :=
  let data := (List.range 32).map (dataSymbol d)
  (data ++ checkSymbols data).zipIdx.map fun e => (e.2, e.1)

/-- The codeword of a sector as it is stored: the burst code covers the whitened bits (R296). -/
def storedWord (s : State) (addr : Nat) : List (Nat × Nat) :=
  codeword ((readT1s s addr 64).zipIdx.map fun e => e.1 ^^^ Config.whitened (tget 0 s.hbm.staleKey (partOfPa s addr)) (addr + e.2))

/-- What arrives at the decoder: the stored codeword with the errors of its pins. -/
def received (s : State) (addr : Nat) (errors : List (Nat × Nat)) : List (Nat × Nat) :=
  (storedWord s addr).map fun e => (e.1, (errors.filter fun x => x.1 == e.1).foldl (fun a x => a ^^^ x.2) e.2)

/-- Syndrome j of an error pattern: pin i carries the coefficient of x^(35 − i). -/
def syndrome (pins : List (Nat × Nat)) (j : Nat) : Nat := pins.foldl (fun a e => a ^^^ gfAlpha (j * (35 - e.1)) e.2) 0

/-- The four syndromes as 8 bytes, the first lowest (log 31). -/
def syndromeBytes (pins : List (Nat × Nat)) : List Byte := (List.range 4).flatMap fun j => leBytes 2 (syndrome pins j)

/-- What the decoder answers: a good sector with the pins that it corrected, an uncorrectable one, or a pattern beyond the limits
of R284, which it may take for good or not. -/
inductive Burst where
  | good (corrected : List Nat)
  | bad
  | beyond
  deriving DecidableEq, Repr

/-- The decoder in its two modes (R284): 0x3F stands for no erased pin. -/
def decodeBurst (dead : Nat) (pins : List (Nat × Nat)) : Burst :=
  let hit := (pins.filter fun e => e.2 % 65536 != 0).map (·.1)
  let free := hit.filter (· != dead)
  if free.length ≤ 1 then .good hit
  else if free.length ≤ (if dead = 0x3F then 3 else 2) then .bad
  else .beyond

/-! ## Counts and dead pins (R285) -/

/-- The erased pin of a pseudo-channel. -/
def deadPin (q : Chan) (pc : Nat) : Nat := if pc = 0 then q.dead0 else q.dead1

/-- Declare a pin dead: the first of its pseudo-channel is erased, and each is recorded (R285, R425). -/
def declareDead (c pc pin : Nat) (s : State) : State :=
  daybook 0x0030 (partOfStack s (c / 32)) (0x200 + c / 32) 0 (leBytes 2 c ++ leBytes 1 pc ++ leBytes 1 pin)
    (if deadPin (s.chan c) pc = 0x3F then
      updChan c (fun q => if pc = 0 then { q with mode := 1, dead0 := pin } else { q with mode := 1, dead1 := pin }) s
    else s)

/-- One corrected symbol of a pin: its count reaches 32 once in a period. -/
def countPin (c pc pin : Nat) (s : State) : State :=
  let n := tget 0 (s.chan c).pins (36 * pc + pin) + 1
  let t := updChan c (fun q => { q with pins := tset 0 q.pins (36 * pc + pin) n }) s
  if n = 32 then declareDead c pc pin t else t

/-- A sector returned good after correction: the counts of its channel, stack and engine (R285, R298, R299, R485). -/
def countCorrected (c pc : Nat) (pins : List Nat) (s : State) : State :=
  if pins.isEmpty then s
  else
    let s1 := updChan c (fun q => { q with ce := satAdd 16 q.ce 1 }) s
    let s2 := updStack (c / 32) (fun q => { q with ce := satAdd 32 q.ce 1 }) s1
    let s3 := updRecov (fun v => { v with corrected := tupd 0 v.corrected (64 + c / 32) (· + 1) }) s2
    forAll pins (fun p => countPin c pc p) s3

/-! ## Poison (R292, R294) -/

/-- An uncorrectable read: counted, recorded, and listed unless the list is full. -/
def poisonRead (c pc addr : Nat) (pins : List (Nat × Nat)) (s : State) : State :=
  let listed := (tget [] s.hbm.poison (dieOfPa s addr)).length < 4096
  daybook 0x0031 (partOfStack s (c / 32)) (0x200 + c / 32) 0
    (leBytes 2 c ++ leBytes 1 pc ++ leBytes 8 addr ++ syndromeBytes pins ++ leBytes 1 (boolNat listed))
    (poisonSector (addr / 64) (updChan c (fun q => { q with ue := satAdd 16 q.ue 1 }) s))

/-- The outcome of one sector read: whether it is poisoned, and whether its bytes are as stored. -/
structure ReadOut where
  bad : Bool
  wrong : Bool
  deriving DecidableEq, Repr

/-- Read a sector through the burst code: a listed one is poisoned whatever the stored bits; beyond the limits of R284 a free value
decides whether the decoder detects (log 31). -/
def readSector (c pc addr : Nat) (pins : List (Nat × Nat)) (s : State) : ReadOut × State :=
  if sectorListed s (addr / 64) then (⟨true, false⟩, s)
  else match decodeBurst (deadPin (s.chan c) pc) pins with
    | .good l => (⟨false, false⟩, countCorrected c pc l s)
    | .bad => (⟨true, false⟩, poisonRead c pc addr pins s)
    | .beyond =>
      let r := fresh s
      if r.1 % 2 = 0 then (⟨true, false⟩, poisonRead c pc addr pins r.2) else (⟨false, true⟩, r.2)

/-! ## The slot template (R275) -/

/-- The run, 0 to 4, of an access slot of a beat; none for a refresh slot or a gap. -/
def slotRun (slot : Nat) : Option Nat :=
  let x := slot % 125
  if between 5 27 x then some 0 else if between 29 51 x then some 1 else if between 53 75 x then some 2
  else if between 77 99 x then some 3 else if 101 ≤ x then some 4 else none

/-- The number of a run of access slots in a beat, and the slot of the gap before it. -/
def runNumber (slot run : Nat) : Nat := slot / 125 * 5 + run
def runGap (slot run : Nat) : Nat := slot / 125 * 125 + 4 + 24 * run

/-- The reserved run: run 5 of frame 19 (R277). -/
def reservedSlot (slot : Nat) : Bool := slot / 125 == 19 && 101 ≤ slot % 125

/-- Whether a channel, or any channel of its partition, has its maintenance window in a beat (R289, R290). -/
def windowOf (c beat : Nat) : Bool := beat % 8192 == c
def partWindow (s : State) (k beat : Nat) : Bool :=
  let c := beat % 8192
  c < 640 && partOfStack s (c / 32) == k

/-- Whether a slot of a beat can serve a sector at an address: not under its channel's window, nor a commons sector under any window
of the partition (R289, R290). -/
def slotServes (s : State) (c beat slot addr : Nat) : Bool :=
  153 < slot || !(windowOf c beat || (commonsBase 0 ≤ addr && partWindow s (partOfStack s (c / 32)) beat))

/-! ## Arbitration (R278, R281) -/

/-- The ac before a slot's start by which a write's sector must be at the memory-side die (R65). -/
def writeMargin (pa : Nat) : Nat := if pa < commonsBase 0 then 8 else 14

/-- Bank and row of an address. -/
def bankRow (s : State) (addr : Nat) : Nat × Nat :=
  let x := (channelOf s addr).2
  (localBank x, localRow x)

/-- The order of candidates: tag, then requester rank, then physical address. -/
def reqBefore (a b : Req) : Bool :=
  a.tag < b.tag || (a.tag == b.tag && (a.rank < b.rank || (a.rank == b.rank && a.addr < b.addr)))

def insertReq (q : Req) : List Req → List Req
  | [] => [q]
  | r :: rs => if reqBefore q r then q :: r :: rs else r :: insertReq q rs

def sortReqs (l : List Req) : List Req := l.foldr insertReq []

/-- What a slot has taken: its sectors, the rows now open, and its activations. -/
structure Taken where
  reqs : List Req
  open_ : List (Nat × Nat × Nat)
  acts : Nat
  deriving DecidableEq, Repr

/-- Offer one request to a slot: at most 5 sectors and 2 activations; a row serves its slot and the next; a bank waits 5 slots. -/
def offer (s : State) (slot : Nat) (t : Taken) (q : Req) : Taken :=
  let b := bankRow s q.addr
  if 5 ≤ t.reqs.length then t
  else if t.open_.any fun o => o.1 == b.1 && o.2.1 == b.2 && slot ≤ o.2.2 + 1 then { t with reqs := t.reqs ++ [q] }
  else if t.acts < 2 && !(t.open_.any fun o => o.1 == b.1 && slot < o.2.2 + 5) then
    { reqs := t.reqs ++ [q], open_ := t.open_ ++ [(b.1, b.2, slot)], acts := t.acts + 1 }
  else t

/-- The least request of a list. -/
def firstReq (l : List Req) : Option Req := (sortReqs l).head?

/-- The direction that a gap sets: that of the queued exact request with the lowest tag, else read. -/
def gapDirection (reqs : List Req) (gapAc : Nat) : Bool :=
  ((firstReq (reqs.filter fun q => q.at_ ≤ gapAc)).map (·.write)).getD false

/-- A read waits behind a queued write of its sector (R163). -/
def behindWrite (reqs : List Req) (q : Req) : Bool := !q.write && reqs.any fun w => w.write && w.addr == q.addr

/-- The pseudo-channel with the direction of the run that holds a slot; slots and runs are numbered from beat 0. -/
def setDirection (beat slot run : Nat) (p : PseudoChan) : PseudoChan :=
  let n := 200 * beat + runNumber slot run + 1
  if p.dirRun = n then p
  else { p with dirRun := n, write := gapDirection p.reqs (65000 * beat + 13 * runGap slot run) }

/-- The requests that a slot serves, and the pseudo-channel after it. -/
def fillSlot (s : State) (c beat slot : Nat) (p : PseudoChan) : List Req × PseudoChan :=
  let abs := 5000 * beat + slot
  let cand := p.reqs.filter fun q =>
    q.write == p.write && q.at_ + (if q.write then writeMargin q.addr else 0) ≤ 65000 * beat + 13 * slot
      && !behindWrite p.reqs q && slotServes s c beat slot q.addr
  let t := (sortReqs cand).foldl (offer s abs) ⟨[], p.open_.filter fun o => abs < o.2.2 + 5, 0⟩
  (t.reqs, { p with reqs := p.reqs.filter fun q => !t.reqs.contains q, open_ := t.open_, lastSlot := abs + 1 })

/-! ## Serving a slot -/

/-- The index of a pseudo-channel. -/
def pcIndex (c pc : Nat) : Nat := 2 * c + pc
def pcAt (s : State) (c pc : Nat) : PseudoChan := tget PseudoChan.reset s.hbm.pcs (pcIndex c pc)

def updPc (c pc : Nat) (f : PseudoChan → PseudoChan) : State → State :=
  updHbm fun h => { h with pcs := tupd PseudoChan.reset h.pcs (pcIndex c pc) f }

/-- The ac from a slot's start to the consumer of a read, by requester rank and tier (R64, R65, R281). -/
def readLatency (rank pa : Nat) : Nat :=
  (if pa < commonsBase 0 then 150 else 156) + (if rank = 0 then 4 else if rank ≤ 128 then 12 else 10)

/-- The sector goes to the reader of its lot. -/
def arrive (q : Req) (at_ : Nat) (bad : Bool) (data : List Byte) : State → State :=
  updRun q.lot.part fun r => { r with arrived := r.arrived ++ [⟨q.lot, q.addr, at_, data, bad⟩] }

/-- The error that a slot's read of an address meets. -/
def errorAt (errors : List SectorError) (addr : Nat) : List (Nat × Nat) :=
  ((errors.find? fun e => e.addr == addr).map (·.pins)).getD []

/-- n free bytes. -/
def freshBytes (n : Nat) (s : State) : List Byte × State :=
  ((List.range n).map fun i => BitVec.ofNat 8 (Config.freeValue (s.free + i)), { s with free := s.free + n })

/-- Serve one request in a slot that starts at an ac: a store's bytes reached T1 when its lot was read out (log 30), so a write frees
its place in the queue. -/
def serveReq (c pc at_ : Nat) (errors : List SectorError) (q : Req) (s : State) : State :=
  if q.write then s
  else
    let r := readSector c pc q.addr (errorAt errors q.addr) s
    if r.1.wrong then
      let d := freshBytes 64 r.2
      arrive q (at_ + readLatency q.rank q.addr) false d.1 d.2
    else arrive q (at_ + readLatency q.rank q.addr) r.1.bad (readT1s s q.addr 64) r.2

/-- Whether a beat is free of exact traffic for a partition (R281). -/
def freeBeat (s : State) (k : Nat) : Bool :=
  (s.part k).st != .running && (s.part k).st != .quiesced && (runsOf (s.part k)).all fun r => s.clock.beat < firstBeat r

/-- Whether non-exact traffic may use a slot: the reserved run, or every run of a free beat. -/
def slotOpen (s : State) (c slot : Nat) : Bool := reservedSlot slot || freeBeat s (partOfStack s (c / 32))

/-- A read of non-exact traffic that met an error: it is in no queue (log 30). Under a full list the sector is poisoned for this read
(R294). -/
def strayError (c pc : Nat) (e : SectorError) (s : State) : State :=
  let r := readSector c pc e.addr e.pins s
  if r.1.bad && !sectorListed r.2 (e.addr / 64) then updHbm (fun h => { h with unlisted := insertSorted (e.addr / 64) h.unlisted }) r.2
  else r.2

/-- The errors that non-exact reads of a slot met: those on sectors that the slot serves for them (R281, R289, R290). -/
def strays (s : State) (c slot : Nat) (served : List Req) (errors : List SectorError) : List SectorError :=
  errors.filter fun e => slotOpen s c slot && slotServes s c s.clock.beat slot e.addr && !served.any fun q => q.addr == e.addr

/-- One access slot of a pseudo-channel. -/
def hbmSlot (c pc slot run : Nat) (errors : List SectorError) (s : State) : State :=
  let beat := s.clock.beat
  if reservedSlot slot then forAll (strays s c slot [] errors) (strayError c pc) (updPc c pc (fun p => { p with lastSlot := 5000 * beat + slot + 1 }) s)
  else
    let f := fillSlot s c beat slot (setDirection beat slot run (pcAt s c pc))
    let t := forAll f.1 (serveReq c pc (65000 * beat + 13 * slot) errors) (updPc c pc (fun _ => f.2) s)
    forAll (strays s c slot f.1 errors) (strayError c pc) t

/-- The errors of a slot lie on sectors of its pseudo-channel that it may read. -/
def errorsFit (s : State) (c pc slot : Nat) (errors : List SectorError) : Bool :=
  errors.all fun e =>
    inT1 s e.addr && (channelOf s e.addr).1 == c && localPc (channelOf s e.addr).2 == pc
      && ((slotOpen s c slot && slotServes s c s.clock.beat slot e.addr) || (pcAt s c pc).reqs.any fun q => !q.write && q.addr == e.addr)

/-- Whether a channel is in service. -/
def chanServes (s : State) (c : Nat) : Bool := (s.stack (c / 32)).st == 2 && !s.hbm.mapped.contains c && !stackDisabled s (c / 32)

/-- Move the clock within its beat: the later of the present ac and that of an event (log 32). -/
def advanceAc (n : Nat) (s : State) : State := { s with clock := { s.clock with acb := max s.clock.acb n } }

def execHbmSlot (chan pc slot : Nat) (errors : List SectorError) (s : State) : Result State :=
  match slotRun slot with
  | none => .fault (.notEnabled "HBM_SLOT")
  | some run =>
    event "HBM_SLOT" (slot < 5000 && (slot == 0 || !boundaryDue s) && chanServes s chan && (pcAt s chan pc).lastSlot ≤ 5000 * s.clock.beat + slot
        && errorsFit s chan pc slot errors)
      (advanceAc (13 * slot) (hbmSlot chan pc slot run errors s))

/-- A refresh slot: no data; in frame 0 the stack's temperature is read (R276, R298). -/
def execRefreshSlot (stack temp : Nat) (s : State) : Result State :=
  event "REFRESH_SLOT" ((s.stack stack).st == 2) (updStack stack (fun q => { q with temp := temp }) s)

/-! ## Retraining (R289, R291) -/

/-- A channel's window in its beat: a failure keeps the old timing; failed pins are dead (R285). -/
def retrain (c : Nat) (ok : Bool) (pins : List (Nat × Nat)) (s : State) : State :=
  let t := if ok then s
    else daybook 0x0033 (partOfStack s (c / 32)) (0x200 + c / 32) 0 (leBytes 2 c)
      (updChan c (fun q => { q with trfail := true, failed := true }) s)
  advanceAc 2002 (forAll pins (fun p => declareDead c p.1 p.2) t)

def execRetrainWindow (chan : Nat) (ok : Bool) (failedPins : List (Nat × Nat)) (s : State) : Result State :=
  event "RETRAIN_WINDOW" (windowOf chan s.clock.beat && !boundaryDue s && chanServes s chan && s.clock.acb < 2002) (retrain chan ok failedPins s)

/-! ## Commands (R287, R300) -/

/-- HBM_STACK and the HBM_CHAN of its 32 channels. -/
def stackEntry (s : State) (t : Nat) : List Byte :=
  leBytes 8 (stackWord s t) ++ (List.range 32).flatMap fun i => leBytes 8 (chanWord s (32 * t + i))

def memQueryBody (p : Post) (first count : Nat) (s : State) : Reply :=
  let l := (List.range count).map (first + ·)
  if count < 1 || 15 < count then .done stBadLength [] s
  else if l.any fun t => !(stacksOf s (postTarget p)).contains t then .done stBadArg [] s
  else .done stOk (l.flatMap (stackEntry s)) s

def memRestoreBody (s : State) : Reply := .done stOk [] (updHbm (fun h => { h with trial := h.mapped }) s)

def execMemQuery (p : Post) (first count : Nat) (s : State) : Result State :=
  .next (mailbox p rowMemQuery 1 (memQueryBody p first count) s)
def execMemRestore (p : Post) (s : State) : Result State := .next (mailbox p rowMemRestore 0 memRestoreBody s)

end Sys2Proof.Machine
end

