-- ==== Sys2Proof/Machine/Tally.lean ====
section
/-! DEFINITION. The tally unit: lock and holdover (R49 to R55), the election of the grandmaster (R344), TALLY_IN (R345), PTP (R346),
and TALLY.CONFIG with SET_TIME (R347). -/

namespace Sys2Proof.Machine

/-- ±2 ns in units of 10 ps (R49). -/
def phaseFits (z : Int) : Bool := -200 ≤ z && z ≤ 200

/-! ## States (R49, R366) -/

/-- A change of TLY_STATUS.STATE: the TALLY record and event. -/
def tallyTo (st : TallyState) (s : State) : State :=
  if s.tally.st = st then s
  else
    setEvent 0 evTally (daybook 0x0002 moduleWide noEngine 0
      (leBytes 1 (tallyCode s.tally.st) ++ leBytes 1 (tallyCode st) ++ leBytes 1 (if s.tally.selected then s.tally.source else 0))
      (updTally (fun t => { t with st := st }) s))

/-- HOLD returns to 0 when the unit enters LOCKED or HOLDOVER (R51). -/
def enterLocked (s : State) : State := tallyTo .locked (updTally (fun t => { t with hold := 0 }) s)
def enterHoldover (s : State) : State := tallyTo .holdover (updTally (fun t => { t with hold := 0 }) s)

/-- A move from LOCKED or HOLDOVER to UNLOCKED makes the effects of R52 due; the source is given up until the next election
(log 33). -/
def enterUnlocked (s : State) : State :=
  tallyTo .unlocked (updTally (fun t => { t with selected := false, lostPending := true }) s)

/-- A measured phase error, in 10 ps: while LOCKED it is slewed away, and one beyond 2 ns unlocks the unit (R50). -/
def measured (phase : Int) (s : State) : State :=
  let t := updTally (fun t => { t with phase := phase, slew := phase }) s
  if s.tally.st = .locked && !phaseFits phase then enterUnlocked t else t

def clearSource : State → State := updTally fun t => { t with selected := false, source := 0, gate := 0 }

/-! ## The election (R344) -/

/-- A candidate: priority, module ID, steps, and its gate; none for the module itself. -/
structure Candidate where
  prio : Nat
  id : Nat
  steps : Nat
  gate : Option Nat
  deriving DecidableEq, Repr

/-- The module's own candidacy with a priority. -/
def ownCandidate (s : State) (prio : Nat) : Candidate := ⟨prio, s.fabric.moduleId, 0, none⟩

/-- The announcements of the last beat on UP gates in Droveway 224 mode; a Droveway 112 link gives none (R350, log 33). -/
def heardCandidates (s : State) : List Candidate :=
  (List.range 16).filterMap fun g =>
    match tget none s.tally.heard g with
    | some a =>
      if (s.gate g).st == 2 && (s.gate g).mode == 0 && s.clock.elapsed ≤ a.at_ + 1 && a.steps < 255 then
        some ⟨a.gmPrio, a.gmId, a.steps + 1, some g⟩
      else none
    | none => none

/-- Lowest priority, then lowest ID, then fewest steps, then lowest gate: the candidates come in that last order. -/
def candidateBefore (a b : Candidate) : Bool :=
  a.prio < b.prio || (a.prio == b.prio && (a.id < b.id || (a.id == b.id && a.steps < b.steps)))

/-- The best candidate that can be elected: a priority of 255 never is. -/
def bestCandidate (s : State) (prio : Nat) : Option Candidate :=
  ((ownCandidate s prio :: heardCandidates s).filter fun c => c.prio < 255).foldl (fun m c => match m with
    | none => some c
    | some x => if candidateBefore c x then some c else some x) none

/-- Whether the module is grandmaster under a priority. -/
def isGrandmaster (s : State) (prio : Nat) : Bool :=
  match bestCandidate s prio with
  | some c => c.gate.isNone
  | none => false

/-- SOURCE and GATE of the grandmaster by INPUT (R55, R344). -/
def inputSource (input : Nat) : Nat × Nat :=
  match input with
  | 1 => (1, 0)
  | 2 => (2, 7)
  | 3 => (2, 15)
  | _ => (3, 0)

/-- The state after a source is selected: an UNLOCKED unit acquires; its own reference is LOCKED at once. -/
def afterSelect (s : State) : State :=
  if s.tally.source = 3 then (if s.tally.st = .locked then s else enterLocked s)
  else if s.tally.st = .unlocked then tallyTo .acquiring s else s

/-- No candidacy can be elected. -/
def loseSource (s : State) : State :=
  match s.tally.st with
  | .locked => enterHoldover (clearSource s)
  | .acquiring => tallyTo .unlocked (clearSource s)
  | _ => clearSource s

/-- The continuous election; it waits for a SET_TIME that is pending (log 33). -/
def elect (s : State) : State :=
  if s.tally.setTime != 0 then s
  else match bestCandidate s s.tally.gmPrio with
  | none => loseSource s
  | some c =>
    let src : Nat × Nat := match c.gate with
      | some g => (0, g)
      | none => inputSource s.tally.input
    afterSelect (updTally (fun t => { t with selected := true, source := src.1, gate := src.2,
                                             following := ⟨c.id, c.prio, c.steps, 0⟩ }) s)

/-! ## Steps of tally time (R50, R347) -/

/-- Raise the DUE of the mailboxes whose command is in progress. -/
def raiseDue (d : Nat) (s : State) : State :=
  forAll s.host.progs (fun g => updMbx g.post.func g.post.mbx fun m => if m.due = noDue then m else { m with due := m.due + d }) s

def shiftJob (d : Nat) : Job → Job
  | .syncWait c k v t => .syncWait c k v (if t = 0 then 0 else t + d)
  | j => j

/-- The bounds that are counted in beats from an event count elapsed beats: what they are counted from moves with the jump (R347). -/
def shiftBounds (d : Nat) (s : State) : State :=
  let s1 := updHost (fun h => { h with progs := h.progs.map fun g => { g with job := shiftJob d g.job },
                                       copies := h.copies.map fun c => { c with since := c.since + d } }) s
  let s2 := updPlace (fun p => { p with loads := p.loads.map fun l =>
    { l with flight := l.flight.map fun f => { f with since := f.since + d } } }) s1
  let s3 := updFabric (fun f => { f with copies := f.copies.map fun c => { c with since := c.since + d } }) s2
  let s4 := updCodec (fun c => { c with pipes := c.pipes.map fun e => (e.1, { e.2 with frameAt := e.2.frameAt + d }) }) s3
  let s5 := updRecov (fun v => { v with cancels := v.cancels.map fun e => (e.1, e.2 + d),
                                        resetQueued := v.resetQueued.map fun q => (q.1 + d, q.2) }) s4
  updSec (fun x => { x with accepted := x.accepted.map fun e => (e.1, e.2 + d) }) s5

/-- Tally time takes a later value. -/
def stepTally (ns : Nat) (s : State) : State :=
  let d := ns / 50000 - s.clock.beat
  let t := if d = 0 then s else shiftBounds d (raiseDue d s)
  { t with clock := { t.clock with beat := ns / 50000, acb := ns % 50000 * 13 / 10 } }

/-- No partition has a RUN accepted. -/
def noRuns (s : State) : Bool := (partList s).all fun k => (runsOf (s.part k)).isEmpty

/-! ## Events of the tally unit -/

def execTallyLocked (stepNs : Nat) (phase : Int) (s : State) : Result State :=
  event "TALLY_LOCKED" (s.tally.st == .acquiring && phaseFits phase && (stepNs == 0 || noRuns s))
    (enterLocked (measured phase
      (if stepNs = 0 then s else stepTally (tlyTime s + stepNs) s)))
def execTallyUnlock (phase : Int) (s : State) : Result State :=
  event "TALLY_UNLOCK" (s.tally.st == .locked && !phaseFits phase) (measured phase s)
def execTallySourceLost (s : State) : Result State :=
  event "TALLY_SOURCE_LOST" (s.tally.st == .locked && s.tally.source != 3) (enterHoldover s)
def execTallySourceReturn (phase : Int) (s : State) : Result State :=
  event "TALLY_SOURCE_RETURN" (s.tally.st == .holdover && s.tally.selected && phaseFits phase && s.tally.hold < 200)
    (enterLocked (measured phase s))
def execHoldoverExpired (s : State) : Result State :=
  event "HOLDOVER_EXPIRED" (s.tally.st == .holdover && s.tally.hold == 200 && s.clock.acb == 0) (enterUnlocked s)

/-- What is left of a phase error after a beat's slew: at most 0.5 ns is taken off (R50). -/
def slewed (z : Int) : Int := if 50 < z then z - 50 else if z < -50 then z + 50 else 0

/-- HOLD rises at each boundary that the unit passes in HOLDOVER (R51); the beats without a valid code are counted (R345). While LOCKED
the phase error is slewed away (R50). -/
def tallyBeat (s : State) : State :=
  updTally (fun t =>
    { t with slew := if t.st = .locked then slewed t.slew else t.slew
             hold := if t.st = .holdover then min 200 (t.hold + 1) else t.hold,
             codeMiss := if t.input = 1 then min 4 (t.codeMiss + 1) else 0 }) s

/-- R52 on one partition: a fabric RUN that runs ends with SLIP, cause 6, and one that is accepted or waits ends too. -/
def endFabricRuns (k : Nat) (s : State) : State :=
  let s1 := match (s.part k).waiting with
    | some r => if r.prog.fabric then endWaiting k stSlip slipTallyLost s else s
    | none => s
  match (s1.part k).run with
  | none => s1
  | some r =>
    if !r.prog.fabric then s1
    else
      let started := (s1.part k).st == .running || (s1.part k).st == .quiesced
      let s2 := if started then updPart k (fun q => { q with cause := slipTallyLost }) s1 else s1
      let s3 := if (s1.part k).st == .running then
          quiesce k false (daybook 0x0012 k noEngine r.ctx
            (leBytes 8 (stepRefNum (currentStep r)) ++ leBytes 1 slipTallyLost ++ leBytes 4 r.shift) s2)
        else s2
      endRun k stSlip slipTallyLost (if started then 3 else 0) (if started then stepRefNum (currentStep r) else 0) s3

def execTallyLostRunEnd (s : State) : Result State :=
  event "TALLY_LOST_RUN_END" (s.tally.lostPending && s.clock.acb == 0)
    (settled (fun u => forAll (partList u) endFabricRuns (updTally (fun t => { t with lostPending := false }) u)) s)

/-- CRC-16/CCITT: polynomial 0x1021, all-ones initial value, bytes in ascending order, each from its most significant bit (R345, log 15). -/
def crc16 (l : List Byte) : Nat :=
  l.foldl (fun c b => (List.range 8).foldl (fun c _ => if c / 2 ^ 15 % 2 = 1 then (2 * c % 2 ^ 16) ^^^ 0x1021 else 2 * c % 2 ^ 16)
    (c ^^^ (256 * b.toNat))) 0xFFFF

/-- The tally code of a beat (R345). -/
def tallyWord (beat gmId gmPrio steps : Nat) : Nat :=
  let n := beat % 2 ^ 64 + 2 ^ 64 * (gmId % 2 ^ 16) + 2 ^ 80 * (gmPrio % 2 ^ 8) + 2 ^ 88 * (steps % 2 ^ 8)
  n + 2 ^ 112 * crc16 (leBytes 14 n)

/-- A code on TALLY_IN (R345): one whose CRC fails is ignored; the pulse is compensated by TALLY_IN_DELAY. -/
def tallyCodeIn (code : Nat) (phase : Int) (s : State) : State :=
  if s.tally.input = 1 && code / 2 ^ 112 == crc16 (leBytes 14 (code % 2 ^ 112)) then
    let t := updTally (fun t => { t with codeMiss := 0 }) s
    if s.tally.selected && s.tally.source == 1 then measured (phase - (divEven s.tally.inDelay 10 : Nat)) t else t
  else s

def execTallyCode (code : Nat) (phase : Int) (s : State) : Result State := .next (tallyCodeIn code phase s)
def execTallyInLoss (s : State) : Result State :=
  event "TALLY_IN_LOSS" (tallyInLost s) (enterHoldover s)

/-- A PTP message (R346): a master's time less PTP_OFFSET, and the path delay, give the phase error against it. -/
def ptpMessage (gate : Nat) (msg : PtpMessage) (s : State) : State :=
  let t := s.tally
  let mine := t.selected && t.source == 2 && t.gate == gate && gateEthernet s gate && (s.gate gate).st == 2
  let err (m l : Nat) : Int := ((l : Int) - (m : Int) + (t.ptpOffset : Int) - (t.pathDelayNs : Int)) * 100
  if !mine then s
  else match msg with
    | .sync m l => emit (.delayRequest gate) (measured (err m l) s)
    | .followUp m l => measured (err m l) s
    | .delayResponse d => updTally (fun u => { u with pathDelayNs := d }) s
    | .other => s

def execPtpMessage (gate : Nat) (msg : PtpMessage) (s : State) : Result State := .next (ptpMessage gate msg s)

/-! ## TALLY.CONFIG (R347) -/

def tallyConfigBody (gmPrio input inDelay ptpOffset setTime : Nat) (s : State) : Reply :=
  let t := updTally (fun u => { u with gmPrio := gmPrio, input := input, inDelay := inDelay, ptpOffset := ptpOffset,
                                       setTime := setTime, setAt := s.clock.beat, codeMiss := 0 }) s
  if 3 < input || (input == 2 && !gateEthernet s 7) || (input == 3 && !gateEthernet s 15) then .done stBadArg [] s
  else if setTime = 0 then .done stOk [] (elect t)
  else if setTime % 50000 != 0 || setTime ≤ 50000 * (s.clock.beat + 1) then .done stBadArg [] s
  else if !noRuns s || s.tally.st != .unlocked || !isGrandmaster s gmPrio then .done stBadState [] s
  else .done stOk [] t

def execTallyConfig (p : Post) (gmPrio input inDelay ptpOffset setTime : Nat) (s : State) : Result State :=
  .next (mailbox p rowTallyConfig 3 (tallyConfigBody gmPrio input inDelay ptpOffset setTime) s)

/-- Whether a SET_TIME falls at the present boundary. -/
def setTimeDue (s : State) : Bool := s.tally.setTime != 0 && s.clock.acb == 0 && s.clock.beat == s.tally.setAt + 1

/-- Whether tally time may be stepped to SET_TIME: R50's conditions, checked again at the boundary. -/
def maySetTime (s : State) : Bool := noRuns s && s.tally.st == .unlocked && isGrandmaster s s.tally.gmPrio

/-- Tally time takes SET_TIME, unless a RUN was accepted since or the module is grandmaster no more (R50); the election, which waited for
it, is made (log 33). -/
def execSetTimeApply (s : State) : Result State :=
  event "SET_TIME_APPLY" (setTimeDue s)
    (elect (updTally (fun t => { t with setTime := 0 }) (if maySetTime s then stepTally s.tally.setTime s else s)))

end Sys2Proof.Machine
end

