-- ==== Sys2Proof/Machine/Fabric.lean ====
section
/-! DEFINITION. The Droveway: gates and their training (R326 to R331), routes (R332), cells and relaying (R328, R329, R333),
transfers (R334 to R338), idle words (R330, R341, R343), storage Ethernet (R348, R349), FABRIC.COPY (R350) and the fabric commands
(R353). -/

namespace Sys2Proof.Machine

/-! ## Time of an exact event -/

/-- The beat of an ac has come, and the work of its boundary is done before anything later. -/
def acCome (n : Nat) (s : State) : Bool := n / 65000 ≤ s.clock.beat && (n ≤ 65000 * s.clock.beat || !boundaryDue s)

/-- The clock reaches an ac of its beat (log 32). -/
def moveTo (n : Nat) (s : State) : State := if n / 65000 = s.clock.beat then advanceAc (n % 65000) s else s

/-! ## Gates -/

def droveway (g : Gate) : Bool := g.mode != 2 && !g.off

/-- A Droveway gate that is UP. -/
def gateUp (s : State) (g : Nat) : Bool := (s.gate g).st == 2 && (s.gate g).mode != 2

/-- The ac that a cell occupies, and the constants of R66, which are longer in Droveway 112 mode (R350). -/
def cellAc (g : Gate) : Nat := if g.mode = 1 then 26 else 13
def sendAc (g : Gate) : Nat := if g.mode = 1 then 65 else 52

/-- The gate of a plane, and the plane of a gate. -/
def planeGate (plane i : Nat) : Nat := 8 * plane + i % 8
def planeOf (g : Nat) : Nat := g / 8

/-- The gate that a path names for a hop (R329). -/
def hopGate (plane path hop : Nat) : Nat := planeGate plane (path / 8 ^ hop % 8)

def firstGate (r : Route) : Nat := hopGate r.plane r.path 0

/-- A written route of a partition. -/
def routeAt (s : State) (k i : Nat) : Option Route :=
  let e := tget RouteSlot.reset (s.part k).routes i
  if e.written then some e.r else none

/-! ## The fabric's work and the RUN -/

/-- A drover's work on an instruction is no longer open (R32). -/
def closeWork (k instr drover : Nat) (s : State) : State :=
  updDrover drover (fun v => showWork { v with work := v.work.filter (·.instr != instr) }) (updRun k (fun r =>
    { r with opened := r.opened.filter fun o => o != (instr, drover) }) s)

/-- A send buffer's transfer is released: acknowledged, or its last attempt has left (R335). -/
def releaseSend (g : Nat) (h : SendHold) (s : State) : State :=
  closeWork h.part h.instr (144 + g) (updGate g (fun v => { v with sends := v.sends.filter fun x => x != h }) s)

/-! ## FABRIC.COPY (R350) -/

/-- A copy ends: its command completes. The manual gives it no result. -/
def endFabricCopy (c : FabricCopy) (status : Nat) (s : State) : State :=
  let t := updFabric (fun f => { f with copies := f.copies.filter fun x => x.id != c.id }) s
  match findProg t (fun g => g.job == .fabricCopy c.id) with
  | some g => completeProg g status [] t
  | none => t

/-- The gate that a copy uses: the first hop of a send, RXGATE of a receive. -/
def copyGate (s : State) (c : FabricCopy) : Nat :=
  match routeAt s c.part c.route with
  | some r => if c.dir = 0 then firstGate r else r.rxGate
  | none => 16

/-- The copies that use a gate fail. -/
def failCopies (g : Nat) (s : State) : State :=
  forAll (s.fabric.copies.filter fun c => copyGate s c == g) (fun c => endFabricCopy c stLowerTierFail) s

def fabricCopyOverdue (s : State) (id : Nat) : Bool :=
  s.fabric.copies.any fun c => c.id == id && c.dir == 1 && c.since + 40000 ≤ s.clock.beat

def execFabricCopyTimeout (copy : Nat) (s : State) : Result State :=
  event "FABRIC_COPY_TIMEOUT" (fabricCopyOverdue s copy)
    (settled (fun u => forAll (u.fabric.copies.filter fun c => c.id == copy) (fun c => endFabricCopy c stLowerTierFail) u) s)

/-! ## Cells (R329, R333) -/

def cellBytes : Nat := 2000
def cellCount (bytes : Nat) : Nat := ceilDiv bytes cellBytes

/-- The 28 bytes of a cell header before its HCRC (R329). -/
def headerBytes (h : CellHeader) : List Byte :=
  leBytes 1 h.type ++ leBytes 1 (h.hops % 16 + 16 * h.hop) ++ leBytes 6 h.path ++ leBytes 2 h.dest ++ leBytes 2 h.src ++ leBytes 2 h.tag
    ++ leBytes 2 h.seq ++ leBytes 1 (h.gate % 16 + 16 * (h.attempt % 4) + 64 * boolNat h.contended) ++ leBytes 3 h.cell
    ++ leBytes 3 h.ncell ++ leBytes 5 h.due

/-- A header with its HCRC, which is formed at each hop. -/
def withHcrc (h : CellHeader) : CellHeader := { h with hcrc := crc32c (headerBytes h) }

def hcrcGood (h : CellHeader) : Bool := h.hcrc == crc32c (headerBytes h)

/-- The cells of a transfer from an ac on: cell k leaves the drover at the ac + one cell time · k (R336). -/
def transferCells (g : Gate) (h : CellHeader) (data : List Byte) (at_ gate copy : Nat) : List WaitCell :=
  let n := cellCount data.length
  (List.range n).map fun k =>
    { h := { h with cell := k, ncell := n }, payload := padTo cellBytes (data.drop (cellBytes * k)),
      crc := if k + 1 = n then crc64 data else 0, dueLeave := at_ + cellAc g * k + sendAc g, relayed := false,
      inputGate := gate, copy := if k + 1 = n then copy else 0 }

def queueCells (g : Nat) (l : List WaitCell) : State → State := updGate g fun v => { v with waiting := v.waiting ++ l }

/-- Cells leave by due ac, relayed before local, then by input gate (R333). -/
def cellBefore (a b : WaitCell) : Bool :=
  a.dueLeave < b.dueLeave || (a.dueLeave == b.dueLeave
    && ((a.relayed && !b.relayed) || (a.relayed == b.relayed && a.inputGate < b.inputGate)))

def firstCell (l : List WaitCell) : Option WaitCell :=
  l.foldl (fun m c => match m with
    | none => some c
    | some x => if cellBefore c x then some c else some x) none

/-- The ac at which a waiting cell leaves: its due ac, or when the lanes are free. -/
def leaveAc (g : Gate) (c : WaitCell) : Nat := max c.dueLeave g.laneFree

/-- A cell leaves: one that waited is CONTENDED and counted. -/
def cellLeave (g : Nat) (c : WaitCell) (s : State) : State :=
  let v := s.gate g
  let n := leaveAc v c
  let late : Bool := c.dueLeave < n
  let h := withHcrc { c.h with contended := c.h.contended || late }
  let s1 := updGate g (fun v => { v with waiting := v.waiting.erase c, laneFree := n + cellAc v,
                                         contend := if late then satAdd 8 v.contend 1 else v.contend }) s
  let s2 := emit (.cell g h c.payload c.crc) (moveTo n s1)
  if c.copy = 0 then s2 else forAll (s2.fabric.copies.filter fun x => x.id == c.copy) (fun x => endFabricCopy x stOk) s2

def execCellLeave (gate : Nat) (s : State) : Result State :=
  match firstCell (s.gate gate).waiting with
  | none => .fault (.notEnabled "CELL_LEAVE")
  | some c => event "CELL_LEAVE" (gateUp s gate && acCome (leaveAc (s.gate gate) c) s) (settled (cellLeave gate c) s)

/-- Relay a cell to the gate of its next hop, or discard it (R333). -/
def relayCell (g : Nat) (h : CellHeader) (payload : List Byte) (crc : Nat) (s : State) : State :=
  let out := hopGate (planeOf g) h.path (h.hop + 1)
  if h.hops ≤ h.hop || !gateUp s out then s
  else queueCells out [⟨{ h with hop := h.hop + 1 }, payload, crc, absAc s + sendAc (s.gate out), true, g, 0⟩] s

def countOrphan (g : Nat) : State → State := updGate g fun v => { v with orphan := satAdd 16 v.orphan 1 }

/-- Whether an open MV.RECV takes a cell (R337). -/
def recvTakes (h : CellHeader) (x : RecvHold) : Bool :=
  x.src == h.src && x.tag == h.tag && x.due % 2 ^ 40 == h.due && x.ncell == h.ncell && x.accepted.isNone && h.cell < h.ncell

/-- Enter a cell in its copy: a higher attempt discards the partial copy of a lower one; a lower attempt's cell is dropped. -/
def assemble (h : CellHeader) (payload : List Byte) (crc : Nat) (x : RecvHold) : RecvHold :=
  let lower : Bool := match x.attempt with
    | some a => a < h.attempt
    | none => true
  let y := if lower then { x with attempt := some h.attempt, cells := [] } else x
  if y.attempt != some h.attempt then x
  else
    let t := tput h.cell payload y.cells
    { y with cells := if h.cell + 1 = h.ncell then tput h.ncell (leBytes 8 crc) t else t }

/-- The transfer of a copy whose cells are all present. -/
def assembled (x : RecvHold) : Option (List Byte) :=
  if x.cells.length = x.ncell + 1 then some (((x.cells.filter fun e => e.1 < x.ncell).flatMap (·.2)).take x.bytes) else none

/-- The acknowledgement of a transfer, along the route entry's PATH (R337). -/
def ackOf (r : Route) (h : CellHeader) : Ack := ⟨h.src, r.hops - 1, 0, r.path, h.gate, h.seq⟩

/-- A cell for an MV.RECV of the gate's partition. -/
def takeCell (g : Nat) (h : CellHeader) (payload : List Byte) (crc : Nat) (x : RecvHold) (s : State) : State :=
  let y := assemble h payload crc x
  let put (z : RecvHold) : State → State := updGate g fun v => { v with recvs := v.recvs.map fun w => if w = x then z else w }
  match assembled y with
  | none => put y s
  | some d =>
    if crc64 d == ofLe (tget [] y.cells y.ncell) then
      let t := put { y with accepted := some d } s
      match routeAt s x.part x.route with
      | some r => updGate (firstGate r) (fun v => { v with acks := v.acks ++ [ackOf r h] }) t
      | none => t
    else updGate g (fun v => { v with crcerr := satAdd 16 v.crcerr 1 }) (put { y with attempt := none, cells := [] } s)

/-- A cell for a FABRIC.COPY receive: cells in order, the copy ends with the CRC of its last (log 34). -/
def copyTakes (s : State) (g : Nat) (h : CellHeader) (c : FabricCopy) : Bool :=
  c.dir == 1 && c.since ≤ s.clock.beat && s.clock.beat < c.since + 40000 && copyGate s c == g && c.tag == h.tag && cellCount c.bytes == h.ncell
    && c.got == cellBytes * h.cell
    && match routeAt s c.part c.route with
      | some r => r.peer == h.src
      | none => false

def takeCopyCell (h : CellHeader) (payload : List Byte) (crc : Nat) (c : FabricCopy) (s : State) : State :=
  let n := min cellBytes (c.bytes - c.got)
  let set (got : Nat) : State → State :=
    updFabric fun f => { f with copies := mapIf (fun x => x.id == c.id) (fun x => { x with got := got }) f.copies }
  let t := writeVa c.ctx (c.va + c.got) (payload.take n) s
  if h.cell + 1 < h.ncell then set (c.got + n) t
  else if crc64 (readVa t c.ctx c.va c.bytes) == crc then endFabricCopy c stOk t
  else updGate (copyGate s c) (fun v => { v with crcerr := satAdd 16 v.crcerr 1 }) (set 0 t)

/-- A cell reaches a gate's receive path (R329, R333, R337). -/
def cellArrive (g : Nat) (h : CellHeader) (payload : List Byte) (crc : Nat) (s : State) : State :=
  if !gateUp s g || !hcrcGood h || h.type != 1 then s
  else if h.dest != s.fabric.moduleId then relayCell g h payload crc s
  else match (s.gate g).recvs.find? (recvTakes h) with
    | some x => takeCell g h payload crc x s
    | none => match s.fabric.copies.find? (copyTakes s g h) with
      | some c => takeCopyCell h payload crc c s
      | none => countOrphan g s

def execCellArrive (gate : Nat) (h : CellHeader) (payload : List Byte) (crc : Nat) (s : State) : Result State :=
  .next (settled (cellArrive gate h payload crc) s)

/-! ## Attempts (R336) -/

/-- The ac of attempt a of a held transfer. -/
def attemptAc (r : Route) (h : SendHold) (a : Nat) : Nat := h.issue + a * r.retryGap

/-- The route that an attempt takes: its own when the first gate is UP, else ALT if that arrives by DUE, else none. -/
def attemptRoute (s : State) (h : SendHold) (r : Route) (at_ : Nat) : Option Route :=
  if gateUp s (firstGate r) then some r
  else if r.alt = 255 then none
  else (routeAt s h.part r.alt).bind fun q =>
    if gateUp s (firstGate q) && at_ + 13 * (cellCount h.bytes - 1) + q.lat ≤ h.due then some q else none

/-- The header of a transfer's cells. -/
def sendHeader (s : State) (g : Nat) (h : SendHold) (r : Route) (a : Nat) : CellHeader :=
  { type := 1, hops := r.hops - 1, hop := 0, path := r.path, dest := r.peer, src := s.fabric.moduleId, tag := h.tag, seq := h.seq,
    gate := g, attempt := a, contended := false, cell := 0, ncell := 0, due := h.due % 2 ^ 40, hcrc := 0 }

/-- One attempt: its cells go to the lanes of the route's first gate; after the last one the buffer is released. -/
def sendAttempt (g : Nat) (h : SendHold) (r : Route) (a : Nat) (s : State) : State :=
  let n := attemptAc r h a
  let t := match attemptRoute s h r n with
    | none => s
    | some q => queueCells (firstGate q)
        (transferCells (s.gate (firstGate q)) (sendHeader s g h q a) (bytesAt h.data 0 h.bytes) n g 0) s
  let u := moveTo n t
  if h.retries ≤ a then releaseSend g h u
  else updGate g (fun v => { v with sends := v.sends.map fun x => if x = h then { h with nextAttempt := a + 1 } else x }) u

/-- The transfer that an instruction holds, with its gate and route. -/
def heldSend (s : State) (k instr : Nat) : Option (Nat × SendHold × Route) :=
  (List.range 16).findSome? fun g =>
    ((s.gate g).sends.find? fun h => h.part == k && h.instr == instr).bind fun h =>
      (routeAt s k h.route).map fun r => (g, h, r)

def execSendAttempt (part instr attempt : Nat) (s : State) : Result State :=
  match heldSend s part instr with
  | none => .fault (.notEnabled "SEND_ATTEMPT")
  | some (g, h, r) =>
    event "SEND_ATTEMPT" (h.issued && h.nextAttempt == attempt && acCome (attemptAc r h attempt) s) (sendAttempt g h r attempt s)

/-! ## Idle words (R330, R337, R341, R343) -/

/-- The shift that a partition announces: its own, or while it waits for its retry the one that R73 and R341 will choose. -/
def announcedShift (s : State) (k : Nat) (r : Run) : Nat :=
  let q := s.part k
  if q.st == .quiesced && q.retry then
    max (max r.shift (shiftFor r (q.quiescedAt + 1 + s.fabric.shiftMargin))) q.announced
  else r.shift

/-- The fabric RUN of a gate's partition, in STATE 3 or 4. -/
def fabricRunOf (s : State) (g : Nat) : Option Run :=
  let q := s.part (partOfGate s g)
  if q.st == .running || q.st == .quiesced then q.run.bind fun r => if r.prog.fabric then some r else none else none

/-- An acknowledgement entry (R330). -/
def ackBytes (a : Ack) : List Byte :=
  leBytes 2 a.dest ++ leBytes 1 (a.hops % 16 + 16 * a.hop) ++ leBytes 6 a.path ++ leBytes 1 a.sgate ++ leBytes 2 a.seq ++ zeros 4

/-- The 252 bytes of an idle word before its WCRC (R330). -/
def idleBytes (w : IdleWord) : List Byte :=
  leBytes 8 w.tally ++ leBytes 2 w.module ++ leBytes 1 (w.gate % 16) ++ leBytes 1 (w.tstate % 4 + 4 * (w.source % 4)) ++ leBytes 2 w.gmId
    ++ leBytes 1 w.gmPrio ++ leBytes 1 w.steps ++ leBytes 1 (boolNat w.quiesced + 2 * boolNat w.fabricRun) ++ zeros 7 ++ leBytes 8 w.bs
    ++ leBytes 4 w.shift ++ leBytes 4 w.acks.length ++ padTo 192 (w.acks.flatMap ackBytes) ++ zeros 20

def withWcrc (w : IdleWord) : IdleWord := { w with wcrc := crc32c (idleBytes w) }

def wcrcGood (w : IdleWord) : Bool := w.wcrc == crc32c (idleBytes w)

/-- The idle word of a gate in a gate frame. -/
def idleWordOf (s : State) (g frame : Nat) : IdleWord :=
  let t := s.tally
  let f := if t.selected then t.following else ⟨0, 255, 0, 0⟩
  let k := partOfGate s g
  let r := fabricRunOf s g
  let w : IdleWord :=
  { tally := 500 * frame, module := s.fabric.moduleId, gate := g, tstate := tallyCode t.st,
    source := if t.selected then t.source else 0, gmId := f.gmId, gmPrio := f.gmPrio, steps := f.steps,
    quiesced := (s.part k).st == .quiesced, fabricRun := r.isSome, bs := (r.map (·.startBeat)).getD 0,
    shift := (r.map (announcedShift s k)).getD 0, acks := (s.gate g).acks.take 12, wcrc := 0 }
  withWcrc w

/-- The gate frame whose idle word is next, numbered from beat 0 (R328). -/
def nextFrame (s : State) (g : Nat) : Nat := max (s.gate g).lastIdle (100 * s.clock.beat + s.clock.acb / 650)

def idleWordSend (g : Nat) (s : State) : State :=
  let f := nextFrame s g
  let w := idleWordOf s g f
  emit (.idleWord g w) (moveTo (650 * f) (updGate g (fun v =>
    { v with qtx := w.quiesced, acks := v.acks.drop 12, lastIdle := f + 1 }) s))

def execIdleWordSend (gate : Nat) (s : State) : Result State :=
  event "IDLE_WORD_SEND" (gateUp s gate && acCome (650 * nextFrame s gate) s) (idleWordSend gate s)

/-- An acknowledgement arrives: at its sender, or to be relayed in the next idle word of its hop's gate (R337, R338). -/
def takeAck (g : Nat) (a : Ack) (s : State) : State :=
  if a.dest = s.fabric.moduleId then
    match (s.gate a.sgate).sends.find? fun h => h.issued && h.seq == a.seq with
    | some h => releaseSend a.sgate h s
    | none => s
  else
    let out := hopGate (planeOf g) a.path (a.hop + 1)
    if a.hops ≤ a.hop || !gateUp s out then s
    else updGate out (fun v => { v with acks := v.acks ++ [{ a with hop := a.hop + 1 }] }) s

/-- The quiesced flag of a peer that shares the start beat with a larger shift (R341). -/
def takeQuiesce (g : Nat) (w : IdleWord) (s : State) : State :=
  let k := partOfGate s g
  match fabricRunOf s g with
  | none => s
  | some r =>
    if w.quiesced && w.fabricRun && w.bs == r.startBeat && r.shift < w.shift then
      if (s.part k).st == .running then updPart k (fun q => { q with announced := w.shift }) (slip k slipFabricLate s)
      else updPart k (fun q => { q with announced := max q.announced w.shift }) s
    else s

/-- A mark: the offset of an idle word on the gate that supplies the marks, in 10 ps (R343). -/
def takeMark (g : Nat) (w : IdleWord) (arrivalNs : Nat) (s : State) : State :=
  if s.tally.selected && s.tally.source == 0 && s.tally.gate == g then
    measured (((arrivalNs : Int) - (w.tally : Int)) * 100 - ((s.gate g).delay : Int)) s
  else s

def hear (g : Nat) (w : IdleWord) (s : State) : State :=
  updTally (fun t => { t with heard := tset none t.heard g (some ⟨w.gmId, w.gmPrio, w.steps, s.clock.elapsed⟩) }) s

/-- An idle word arrives: one whose WCRC fails is ignored. -/
def idleWordReceive (g : Nat) (w : IdleWord) (arrivalNs : Nat) (s : State) : State :=
  if !gateUp s g || !wcrcGood w then s
  else
    let s1 := elect (hear g w (takeMark g w arrivalNs (updGate g (fun v => { v with qrx := w.quiesced }) s)))
    takeQuiesce g w (forAll w.acks (takeAck g) s1)

def execIdleWordReceive (gate : Nat) (w : IdleWord) (arrivalNs : Nat) (s : State) : Result State :=
  .next (settled (idleWordReceive gate w arrivalNs) s)

/-! ## Training (R331) -/

/-- What a gate loses with its link: waiting cells, copies, and in Ethernet mode the fetches that can use no other. -/
def loseGate (g : Nat) (s : State) : State :=
  let t := failCopies g (updGate g (fun v => { v with waiting := [], qrx := false }) s)
  elect (if gateEthernet s g then failFetches g t else t)

def gateDown (g : Nat) (s : State) : State :=
  loseGate g (updGate g (fun v => { v with st := 3, begun := false, since := s.clock.elapsed, failedTrain := false }) s)

def execGateDown (gate : Nat) (s : State) : Result State :=
  event "GATE_DOWN" ((s.gate gate).st == 2) (settled (gateDown gate) s)

def execGateTrainStart (gate : Nat) (s : State) : Result State :=
  event "GATE_TRAIN_START" (mayTrainGate s gate) (updGate gate (fun v => { v with st := 1, begun := true, since := s.clock.elapsed }) s)

/-- The GATE_TRAIN record (R425). -/
def trainRecord (g oldH newH st : Nat) (s : State) : State :=
  daybook 0x0050 (engineHome s (84 + g)) (engineId (84 + g)) 0 (leBytes 1 g ++ leBytes 2 oldH ++ leBytes 2 newH ++ leBytes 1 st) s

/-- A gate comes up: H is its delay rounded up to whole ac; a retraining is recorded, and a changed H marks the routes whose first
hop it is STALE. -/
def gateTrained (g peer peerGate delay : Nat) (s : State) : State :=
  let v := s.gate g
  let h := ceilDiv (13 * delay) 1000
  let changed : Bool := v.trained && v.h != h
  let t := updGate g (fun v => { v with st := 2, peer := peer, peerGate := peerGate, h := h, delay := delay, stale := changed,
                                        since := s.clock.elapsed, failedTrain := false, trained := true }) s
  let u := if v.trained then trainRecord g v.h h 2 t else t
  if changed then markStale (fun r => firstGate r == g) u else u

def execGateTrained (gate peer peerGate hop delay : Nat) (s : State) : Result State :=
  event "GATE_TRAINED" ((s.gate gate).st == 1 && (s.gate gate).begun && s.clock.elapsed ≤ (s.gate gate).since + 2000 && hop == ceilDiv (13 * delay) 1000) (gateTrained gate peer peerGate delay s)

/-- Whether a gate's training has taken 2,000 beats. -/
def trainOverdue (s : State) (g : Nat) : Bool := (s.gate g).st == 1 && (s.gate g).begun && (s.gate g).since + 2000 ≤ s.clock.elapsed

/-- Training that takes more than 2,000 beats leaves the gate DOWN. -/
def gateTrainTimeout (g : Nat) (s : State) : State :=
  trainRecord g (s.gate g).h (s.gate g).h 3
    (updGate g (fun v => { v with st := 3, begun := false, since := s.clock.elapsed, failedTrain := true }) s)

def execGateTrainTimeout (gate : Nat) (s : State) : Result State :=
  event "GATE_TRAIN_TIMEOUT" (trainOverdue s gate) (gateTrainTimeout gate s)

/-! ## Storage Ethernet (R348, R349) -/

def ethernetUp (s : State) (g : Nat) : Bool := gateEthernet s g && (s.gate g).st == 2

/-- The addresses of an Ethernet gate; 0 is none. -/
def gateAddrs (s : State) (g : Nat) : List Nat :=
  (if g = 7 then [s.fabric.ipv6, s.fabric.ipv4] else if g = 15 then [s.fabric.ipv6b, s.fabric.ipv4b] else []).filter (· != 0)

def execArpNdRequest (gate addr : Nat) (s : State) : Result State :=
  .next (if ethernetUp s gate && (gateAddrs s gate).contains addr then emit (.arp gate addr) s else s)
def execRoceInboundRequest (gate qpn : Nat) (s : State) : Result State :=
  .next (if ethernetUp s gate then emit (.remoteAccessError gate qpn) s else s)
def execCnpReceive (gate : Nat) (s : State) : Result State :=
  .next (if ethernetUp s gate then updGate gate (fun v => { v with rate := v.rate / 2, cnpAt := s.clock.elapsed }) s else s)

/-- 1,000 µs have passed without a congestion notification at a lowered rate. -/
def restoresRate (s : State) (g : Nat) : Bool := ethernetUp s g && (s.gate g).rate < 2 ^ 32 && (s.gate g).cnpAt + 20 ≤ s.clock.elapsed

def execEcnRateRestore (gate : Nat) (s : State) : Result State :=
  event "ECN_RATE_RESTORE" (restoresRate s gate)
    (updGate gate (fun v => { v with rate := min (2 ^ 32) (v.rate + 2 ^ 28), cnpAt := s.clock.elapsed }) s)

/-- A pause frame stops RoCEv2 frames of its priority, or lets them go on. -/
def execPfcPauseFrame (gate priority : Nat) (pause : Bool) (s : State) : Result State :=
  .next (if ethernetUp s gate then
      updGate gate (fun v => { v with paused := if pause then insertSorted priority v.paused
                                                else v.paused.filter (· != priority) }) s
    else s)

/-! ## FABRIC.CONFIG (R353) -/

/-- The (MODE, ERATE, off) of a mode byte. -/
def modeOf (code : Nat) : Option (Nat × Nat × Bool) :=
  match code with
  | 0 => some (0, 0, false)
  | 1 => some (1, 0, false)
  | 2 => some (2, 1, false)
  | 3 => some (2, 2, false)
  | 4 => some (2, 3, false)
  | 255 => some (0, 0, true)
  | _ => none

def gateMode (v : Gate) : Nat × Nat × Bool := (if v.off then 0 else v.mode, if v.off then 0 else v.erate, v.off)

/-- The gates that a configuration changes. -/
def changedGates (s : State) (modes : List Nat) : List Nat :=
  (List.range 16).filter fun g => some (gateMode (s.gate g)) != modeOf (modes.getD g 0)

/-- A gate takes a new mode; it retrains, unless it is off or fenced. -/
def setMode (m : Nat × Nat × Bool) (elapsed : Nat) (v : Gate) : Gate :=
  { v with mode := m.1, erate := m.2.1, off := m.2.2, begun := false, since := elapsed, failedTrain := false,
           st := if v.st = 4 then 4 else if m.2.2 then 0 else 3 }

def floorOf (modes : List Nat) : Nat := 400 + 2 * (modes.filter (· != 255)).length

/-- The budgets after a change of FLOOR (R438). -/
def loweredBudgets (s : State) (floor : Nat) : List Nat :=
  let l := (List.range 4).map fun k => (s.part k).budget
  let room := s.power.limit - floor
  if l.sum ≤ room then l else l.map fun b => b * room / l.sum

def fabricConfigBody (c : FabricParams) (s : State) : Reply :=
  let changed := changedGates s c.modes
  let l := loweredBudgets s (floorOf c.modes)
  let busy (k : Nat) : Bool := !(runsOf (s.part k)).isEmpty
  if 15 < c.shiftMargin || c.modes.any (fun m => (modeOf m).isNone)
      || (List.range 16).any (fun g => between 2 4 (c.modes.getD g 0) && g != 7 && g != 15) then .done stBadArg [] s
  else if (c.moduleId != s.fabric.moduleId && !noRuns s) || changed.any (fun g => busy (partOfGate s g))
      || budgetsBreak s l then .done stBadState [] s
  else
    let s1 := updFabric (fun f => { f with moduleId := c.moduleId, shiftMargin := c.shiftMargin, ipv6 := c.ipv6, ipv6b := c.ipv6b,
                                           ipv4 := c.ipv4, ipv4b := c.ipv4b }) s
    let s2 := forAll changed (fun g t =>
      loseGate g (updGate g (setMode ((modeOf (c.modes.getD g 0)).getD (0, 0, true)) t.clock.elapsed) t)) s1
    .done stOk [] (if l = (List.range 4).map (fun k => (s.part k).budget) then s2 else budgetRecord (setBudgets l s2))

def execFabricConfig (p : Post) (c : FabricParams) (s : State) : Result State :=
  .next (mailbox p rowFabricConfig 8 (fabricConfigBody c) s)

/-! ## FABRIC.ROUTE, FABRIC.QUERY, FABRIC.COPY -/

/-- A Droveway gate of a partition. -/
def ownDroveway (s : State) (k g : Nat) : Bool := (gatesOf s k).contains g && droveway (s.gate g)

/-- The rules of R332 on one entry, in the table as written. -/
def routeFits (s : State) (k : Nat) (table : Table RouteSlot) (r : Route) : Bool :=
  let a := tget RouteSlot.reset table r.alt
  between 1 16 r.hops && r.plane < 2 && between 1 65000 r.retryGap && ownDroveway s k (firstGate r) && ownDroveway s k r.rxGate
    && 130 * r.hops + 6 + (s.gate (firstGate r)).h ≤ r.lat
    && (r.alt == 255 || (a.written && a.r.peer == r.peer && a.r.plane != r.plane))

def fabricRouteBody (p : Post) (first count : Nat) (entries : List Route) (s : State) : Reply :=
  let k := postTarget p
  let table := entries.zipIdx.foldl (fun t e => tput (first + e.2) ⟨true, false, e.1⟩ t) (s.part k).routes
  if count < 1 || 125 < count then .done stBadLength [] s
  else if 256 < first + count || entries.any (fun r => !routeFits s k table r) then .done stBadArg [] s
  else if !(runsOf (s.part k)).isEmpty then .done stBadState [] s
  else .done stOk [] (updPart k (fun q => { q with routes := table }) s)

def execFabricRoute (p : Post) (first count : Nat) (entries : List Route) (s : State) : Result State :=
  .next (mailbox p rowFabricRoute (1 + 4 * count) (fabricRouteBody p first count entries) s)

def fabricQueryBody (s : State) : Reply :=
  .done stOk (leBytes 2 s.fabric.moduleId ++ zeros 6 ++ (List.range 16).flatMap (fun g => leBytes 8 (gateStatusWord s g))
    ++ (List.range 16).flatMap (fun g => leBytes 8 (gateLinkWord s g)) ++ leBytes 4 (tlyStatusWord s)) s

def execFabricQuery (p : Post) (s : State) : Result State := .next (mailbox p rowFabricQuery 0 fabricQueryBody s)

/-- The cells of a FABRIC.COPY send, queued at its first gate from the start of the next beat; its bytes are those of that
instant (log 34). -/
def startCopySend (r : Route) (c : FabricCopy) (s : State) : State :=
  let g := firstGate r
  let v := s.gate g
  let h : CellHeader :=
    { type := 1, hops := r.hops - 1, hop := 0, path := r.path, dest := r.peer, src := s.fabric.moduleId, tag := c.tag, seq := v.seq,
      gate := g, attempt := 0, contended := false, cell := 0, ncell := 0, due := 0, hcrc := 0 }
  queueCells g (transferCells v h (readVa s c.ctx c.va c.bytes) (65000 * now s) g c.id)
    (updGate g (fun v => { v with seq := (v.seq + 1) % 65536 }) s)

def fabricCopyBody (p : Post) (ctx route dir tag va bytes : Nat) : State → Reply :=
  withCtx p ctx fun x s =>
    match routeAt s x.part route with
    | none => .done stBadArg [] s
    | some r =>
      if 1 < dir then .done stBadArg [] s
      else if bytes < 1 || 2 ^ 30 < bytes then .done stBadLength [] s
      else match rangeCheck s ctx va bytes with
        | some st => .done st [] s
        | none =>
          let id := s.fabric.nextCopy
          let c : FabricCopy := ⟨id, ctx, x.part, route, dir, tag, va, bytes, now s, 0⟩
          if !gateUp s (copyGate s c) then .done stLowerTierFail [] s
          else
            let t := updFabric (fun f => { f with nextCopy := id + 1, copies := f.copies ++ [c] }) s
            .accept none [] ctx x.part (.fabricCopy id) (if dir = 0 then startCopySend r c t else t)

def execFabricCopy (p : Post) (ctx route dir tag va bytes : Nat) (s : State) : Result State :=
  .next (settledCmd (mailbox p rowFabricCopy 3 (fabricCopyBody p ctx route dir tag va bytes)) s)

end Sys2Proof.Machine
end

