-- ==== Sys2Proof/Machine/Programs.lean ====
section
/-! DEFINITION. Fold programs: the image (R115, R116, R120), the classes and fields of tile words (R121, R122), the reduction of a word
(R123, R148, R149, R158), its rounds (R28, R29), its key blocks (R200, R201), and its times (R125 to R128). -/

namespace Sys2Proof.Machine

/-! ## The image -/

/-- A tile word from its 256 bits (R120). `rsv` holds bits [13] and [135:133], `hi8` bits [255:248]. -/
def decodeWord (w : Nat) : TileWord where
  opcode := field w 0 8
  anchor := bit w 8
  assay := bit w 9
  hold := bit w 10
  cont := bit w 11
  work := bit w 12
  policy := field w 14 2
  runlen := field w 16 2
  sub := field w 18 6
  issue := field w 24 40
  da := field w 64 16
  db := field w 80 16
  dc := field w 96 16
  k := field w 112 21
  sel := field w 136 32
  cb := field w 168 16
  rbFirst := field w 184 24
  rbCount := field w 208 24
  koff := field w 232 24
  value := field w 184 64
  rsv := bit w 13 || field w 133 3 != 0
  hi8 := field w 248 8

/-- The header, with its tables empty (R115). -/
def decodeHeader (b : List Byte) : Program where
  magic := fieldAt b 0 4
  version := fieldAt b 4 2
  penCount := fieldAt b 6 1
  fabric := bit (fieldAt b 7 1) 0
  nDesc := fieldAt b 8 4
  nWords := fieldAt b 12 4
  slackAc := fieldAt b 16 4
  leadAc := fieldAt b 20 4
  descOff := fieldAt b 24 8
  wordOff := fieldAt b 32 8
  energyOff := fieldAt b 40 8
  energyN := fieldAt b 48 4
  length := fieldAt b 56 8
  headRsv := fieldAt b 7 1 / 2 != 0 || fieldAt b 52 4 != 0 || (b.drop 64).any (· != 0)
  descs := []
  words := []
  energy := []

/-- The tables of the image, read by a function from offset and length. -/
def fillTables (rd : Nat → Nat → List Byte) (p : Program) : Program :=
  { p with
    descs := (List.range p.nDesc).map fun i => decodeDesc (rd (p.descOff + 128 * i) 128)
    words := (List.range p.nWords).map fun i => decodeWord (ofLe (rd (p.wordOff + 32 * i) 32))
    energy := (List.range p.energyN).map fun i =>
      (ofLe (rd (p.energyOff + 8 * i) 4), ofLe (rd (p.energyOff + 8 * i + 4) 4)) }

/-! ## Classes (R122) -/

def opMm : Nat := 0x10
def opCv : Nat := 0x20
def opDw : Nat := 0x21
def opAt : Nat := 0x30
def opRw : Nat := 0x40
def opLoad : Nat := 0x50
def opStore : Nat := 0x51
def opWeight : Nat := 0x52
def opSend : Nat := 0x53
def opRecv : Nat := 0x54
def opFold : Nat := 0x60
def opGrant : Nat := 0x61
def opSignal : Nat := 0x62
def opWait : Nat := 0x63
def opTl : Nat := 0x70

def opcodes : List Nat :=
  [opMm, opCv, opDw, opAt, opRw, opLoad, opStore, opWeight, opSend, opRecv, opFold, opGrant, opSignal, opWait, opTl]

def isCv (w : TileWord) : Bool := w.opcode == opCv || w.opcode == opDw

/-- MM, CV and CV.DW. -/
def isMac (w : TileWord) : Bool := w.opcode == opMm || isCv w

/-- The words that use accumulator slots (R130). -/
def isSlotted (w : TileWord) : Bool := isMac w || w.opcode == opAt

def isMv (w : TileWord) : Bool := 0x50 ≤ w.opcode && w.opcode ≤ 0x54

/-- A word that takes its row blocks from grants (R139). -/
def isWork (w : TileWord) : Bool := isSlotted w && w.work

/-- Anchored words (R70). -/
def anchored (w : TileWord) : Bool := w.anchor || w.opcode == opTl || w.opcode == opSend || w.opcode == opRecv

/-- The SEL fields of RW (R170). -/
def rwBform (w : TileWord) : Nat := field w.sel 0 2
def rwPreop (w : TileWord) : Nat := field w.sel 2 2
def rwBcol (w : TileWord) : Nat := field w.sel 4 2
def rwOld (w : TileWord) : Bool := bit w.sel 6
def rwPos (w : TileWord) : Bool := bit w.sel 7

/-- The SEL fields of MV.SEND and MV.RECV (R334). -/
def mvRoute (w : TileWord) : Nat := field w.sel 0 8
def mvTag (w : TileWord) : Nat := field w.sel 8 16
def mvRetries (w : TileWord) : Nat := field w.sel 24 2
def mvDirect (w : TileWord) : Bool := bit w.sel 26
def mvMode (w : TileWord) : Nat := field w.sel 27 2

/-- Whether a transfer is received into the pens (R334). -/
def toPens (w : TileWord) : Bool := w.opcode == opRecv && mvDirect w

/-! ## Layers (R252, R253) -/

/-- The reduction length of a TILED descriptor (R232): EXT1 to EXT4 multiplied. -/
def tiledLen (d : Desc) : Nat := rowsOf d

def stripBytes (d : Desc) : Nat := 32 * bitsOf d * (ceilDiv (tiledLen d) 128 * 128)

/-- The MV.WEIGHT words before a word, with their indices. -/
def weightsBefore (p : Program) (j : Nat) : List (Nat × TileWord) :=
  ((p.words.take j).zipIdx.map fun e => (e.2, e.1)).filter fun e => e.2.opcode == opWeight

/-- The ordinal of an MV.WEIGHT among its kind. -/
def weightOrdinal (p : Program) (j : Nat) : Nat := (weightsBefore p j).length

/-- Whether a descriptor names a layer: its own descriptor, or a view of whole column blocks (R253). -/
def namesLayer (p : Program) (db da : Nat) : Bool :=
  let v := Desc.at p db
  let l := Desc.at p da
  db == da || (v.layout == 3 && l.layout == 3 && v.format == l.format
    && (List.range 4).all (fun i => extAt v (i + 1) == extAt l (i + 1)) && l.base ≤ v.base
    && (v.base - l.base) % max 1 (stripBytes l) == 0
    && (extAt v 0 % 256 == 0 || (v.base - l.base) / max 1 (stripBytes l) * 256 + extAt v 0 == extAt l 0)
    && (v.base - l.base) / max 1 (stripBytes l) + ceilDiv (extAt v 0) 256 ≤ ceilDiv (extAt l 0) 256)

/-- The layer that a word reads: its MV.WEIGHT's index, its window slot, and its descriptor. -/
def layerOf (p : Program) (j : Nat) (w : TileWord) : Option (Nat × Nat × Nat) :=
  ((weightsBefore p j).zipIdx.reverse.find? fun e => namesLayer p w.db e.1.2.da).map fun e => (e.1.1, e.2 % 3, e.1.2.da)

/-- The layer's descriptor for the broadcast operand of a word; its own when no MV.WEIGHT names it. -/
def broadcastDesc (p : Program) (j : Nat) (w : TileWord) : Desc :=
  Desc.at p (match layerOf p j w with
    | some l => l.2.2
    | none => w.db)

/-- The layer's column of column 0 of the word's DB (R253). -/
def columnBase (p : Program) (j : Nat) (w : TileWord) : Nat :=
  let l := broadcastDesc p j w
  ((Desc.at p w.db).base - l.base) / max 1 (stripBytes l) * 256

/-! ## Operand formats of a word -/

/-- The 8-bit target of an INLINE operand (R87). -/
def inlineFormat (d : Desc) : Nat := [0x07, 0x08, 0x09].getD d.qfmt 0

/-- The activation format as the cells take it: QFMT of an INLINE operand (R87). -/
def actFormat (d : Desc) : Nat := if d.qmode = 1 then inlineFormat d else d.format

def is16 (f : Nat) : Bool := f == 0x0A || f == 0x0B

/-- The accumulator type of R83. -/
def intSlot (p : Program) (j : Nat) (w : TileWord) : Bool :=
  let a := Desc.at p w.da
  let b := broadcastDesc p j w
  isMac w && b.format == 0x07 && actFormat a == 0x07 && a.scaleA == 0 && b.scaleW == 0 && b.scaleC == 0 && b.ledgerList == 0
    && (Desc.at p w.dc).format == 0x0D

/-! ## Reductions -/

/-- A position of a word's reduction: tap and channel (R149); an MM has tap 0. -/
structure RPos where
  tap : Nat
  ch : Nat
  deriving DecidableEq, Repr

def tapCount (f : Desc) : Nat := extAt f 2 * extAt f 3 * extAt f 4

/-- The taps that a word selects, ascending (R121). -/
def tapsOf (w : TileWord) : List Nat := ((List.range 32).filter fun t => bit w.sel t).map fun t => 32 * w.sub + t

/-- The first channel of a word's range. -/
def chanStart (w : TileWord) : Nat := 128 * w.koff

/-- The reduction of an MM, CV or CV.DW word in order (R123, R149, R158). -/
def reduction (w : TileWord) : List RPos :=
  (if isCv w then tapsOf w else [0]).flatMap fun t => (List.range w.k).map fun i => ⟨t, chanStart w + i⟩

/-- K positions in the reduction. -/
def reductionLen (w : TileWord) : Nat := (if isCv w then (tapsOf w).length else 1) * w.k

/-- The linear reduction index of a position for a column (R232); none where CV.DW has no weight (R158). -/
def linearIndex (w : TileWord) (f : Desc) (n : Nat) (q : RPos) : Option Nat :=
  if w.opcode = opDw then
    let g := max 1 (extAt f 1)
    if q.ch / g = n / g then some (q.tap * g + q.ch % g) else none
  else if isCv w then some (q.tap * extAt f 1 + q.ch)
  else some q.ch

/-- The row of SCALE_W and of the ledger list for a position (R117, R149); a CV.DW group takes its tap's row. -/
def groupRow (w : TileWord) (f : Desc) (q : RPos) : Nat :=
  if w.opcode = opDw then q.tap * ceilDiv (extAt f 1) 128
  else if isCv w then q.tap * ceilDiv (extAt f 1) 128 + q.ch / 128
  else q.ch / 128

/-! ## Geometry of a convolution (R147, R148) -/

/-- The coordinates of a tap: along W, H and T. -/
def tapCoord (f : Desc) (t : Nat) : List Nat :=
  [t % extAt f 2, t / extAt f 2 % extAt f 3, t / extAt f 2 / extAt f 3]

/-- The input position of an output row and a tap along W, H and T. -/
def inputCoord (a f c : Desc) (row tap : Nat) : List Int :=
  (List.range 3).map fun i =>
    let x := (rowCoord c row).getD i 0
    let k := (tapCoord f tap).getD i 0
    (x * padAt f i + k * padAt f (3 + i) : Nat) - (padAt a (4 - 2 * i) : Nat)

def coordAt (l : List Int) (i : Nat) : Int := l.getD i 0

/-- Whether a position lies in padding. -/
def inPadding (a : Desc) (x : List Int) : Bool := !(List.range 3).all fun i => inside (coordAt x i) (extAt a (i + 1))

/-- A position's coordinates inside the extents, the nearest ones when it is outside. -/
def nearestCoord (a : Desc) (x : List Int) (n : Nat) : List Nat :=
  (List.range 3).map (fun i => nearest (coordAt x i) (extAt a (i + 1))) ++ [n]

/-- The extent of DC along dimension i (0 W, 1 H, 2 T) that R148 gives; none when it is not positive. -/
def outExtent (a f : Desc) (i : Nat) : Option Nat :=
  let room : Int := (extAt a (i + 1) + padAt a (4 - 2 * i) + padAt a (5 - 2 * i) : Nat)
    - (padAt f (3 + i) * (extAt f (i + 2) - 1) + 1 : Nat)
  if room < 0 ∨ padAt f i = 0 then none else some (room.toNat / padAt f i + 1)

/-- A tap is dead when it lies in padding for every output row: each dimension is separate (R155). -/
def deadTap (a f c : Desc) (tap : Nat) : Bool :=
  a.padmode != 3 && (List.range 3).any fun i =>
    (List.range (extAt c (i + 1))).all fun x =>
      !inside ((x * padAt f i + (tapCoord f tap).getD i 0 * padAt f (3 + i) : Nat) - (padAt a (4 - 2 * i) : Nat)) (extAt a (i + 1))

/-- The unselected dead taps of a word's group (R156). -/
def droppedTaps (a f c : Desc) (w : TileWord) : List Nat :=
  ((List.range 32).map fun t => 32 * w.sub + t).filter fun t =>
    t < tapCount f && !bit w.sel (t - 32 * w.sub) && deadTap a f c t

/-! ## Rounds (R28, R29, R139) -/

/-- Rounds of a word with P pens. -/
def roundsOf (pens : Nat) (w : TileWord) : Nat := if isWork w then w.rbFirst else ceilDiv w.rbCount (max 1 pens)

/-- The row block of a logical pen in a round, counted from 0. -/
def staticBlock (pens : Nat) (w : TileWord) (lp n : Nat) : Option Nat :=
  let b := w.rbFirst + (lp + pens - w.rbFirst % max 1 pens) % max 1 pens + n * pens
  if lp < pens && b < w.rbFirst + w.rbCount then some b else none

/-- The row blocks of a round. -/
def roundBlocks (pens : Nat) (w : TileWord) (n : Nat) : List Nat :=
  (List.range pens).filterMap fun lp => staticBlock pens w lp n

/-- The number of row blocks on a pen (R130). -/
def blocksOn (pens : Nat) (w : TileWord) (lp : Nat) : Nat :=
  if isWork w then w.rbFirst
  else ((List.range (roundsOf pens w)).filter fun n => (staticBlock pens w lp n).isSome).length

/-- Valid rows of a row block. -/
def validRows (c : Desc) (b : Nat) : Nat := min 256 (rowsOf c - 256 * b)

/-- Valid columns of a column block. -/
def validCols (c : Desc) (cb : Nat) : Nat := min 256 (extAt c 0 - 256 * cb)

/-! ## Key blocks of AT (R198 to R201) -/

def atQbase (a : Desc) : Nat := padAt a 0 + 2 ^ 16 * padAt a 1 + 2 ^ 32 * padAt a 2

/-- The first key visible to a query position, and the key after the last, by the mask alone. -/
def maskRange (sel q : Nat) : Int × Int :=
  let param := sel / 4
  match sel % 4 with
  | 0 => (0, 2 ^ 60)
  | 1 => (0, (q : Int) + signedField 30 param + 1)
  | 2 => (0, ((q / max 1 param + 1) * max 1 param : Nat))
  | _ => ((q : Int) - param + 1, (q : Int) + 1)

/-- The visible keys of a query row of a word (R200). -/
def visible (w : TileWord) (a b : Desc) (row : Nat) : Int × Int :=
  let m := maskRange w.sel (atQbase a + row)
  (max m.1 (256 * w.koff : Nat), min m.2 (min (extAt b 1) (256 * w.koff + w.k) : Nat))

def sees (w : TileWord) (a b : Desc) (row key : Nat) : Bool :=
  let v := visible w a b row
  v.1 ≤ key && (key : Int) < v.2

/-- Whether some valid row of a row block sees a key of a key block. -/
def blockSeen (w : TileWord) (a b c : Desc) (rb k : Nat) : Bool :=
  (List.range (validRows c rb)).any fun i =>
    let v := visible w a b (256 * rb + i)
    max v.1 (256 * k : Nat) < min v.2 (256 * k + 256 : Nat)

/-- The key blocks issued in a round, ascending (R201). The row blocks of a WORK word are not known at submission: any row block of
DC may be granted. -/
def keyBlocks (p : Program) (w : TileWord) (n : Nat) : List Nat :=
  let a := Desc.at p w.da
  let b := Desc.at p w.db
  let c := Desc.at p w.dc
  let rbs := if isWork w then List.range (rowBlocks c) else roundBlocks p.penCount w n
  ((List.range (ceilDiv w.k 256)).map (w.koff + ·)).filter fun k => rbs.any fun rb => blockSeen w a b c rb k

/-! ## Times (R61, R125 to R128) -/

/-- ac of n K positions in a broadcast format (R14). -/
def acOf (fmt n : Nat) : Nat := if is16 fmt then 4 * n else ceilDiv n (posPerAc fmt)

/-- Kac of an MM, CV or CV.DW word. -/
def kacOf (p : Program) (j : Nat) (w : TileWord) (assay : Bool) : Nat :=
  (if assay then 4 else 1) * acOf (broadcastDesc p j w).format (reductionLen w)

/-- Kd and Kv of an AT word (R126, R192). -/
def atKd (p : Program) (w : TileWord) (assay : Bool) : Nat := (if assay then 4 else 1) * acOf (Desc.at p w.db).format 128
def atKv (p : Program) (w : TileWord) (assay : Bool) : Nat := (if assay then 4 else 1) * acOf (Desc.at p w.db).format 256

/-- ac of one key block. -/
def atBlockAc (p : Program) (w : TileWord) (assay : Bool) : Nat := atKd p w assay + atKv p w assay + 88

/-- A of R126 for a round; in assay mode every block is issued twice (R203). -/
def atRoundAc (p : Program) (w : TileWord) (assay : Bool) (n : Nat) : Nat :=
  (if assay then 2 else 1) * (keyBlocks p w n).length * atBlockAc p w assay

/-- λ of a function code (R173). -/
def lambdaOf (sub : Nat) : Nat :=
  match sub with
  | 0x00 => 0
  | 0x01 | 0x03 | 0x04 | 0x05 => 8
  | 0x02 | 0x08 | 0x09 => 10
  | 0x06 | 0x07 => 16
  | 0x0A | 0x0B => 12
  | 0x0C => 14
  | 0x18 => 6
  | 0x20 => 20
  | _ => 2

/-- X of R127. -/
def rwAc (pens : Nat) (w : TileWord) : Nat := 256 * roundsOf pens w * ceilDiv w.k 256

/-- The steps of a word: its rounds, or one. -/
def stepsOf (pens : Nat) (w : TileWord) : Nat := if isSlotted w then max 1 (roundsOf pens w) else 1

/-- The ac from the issue of a round, as programmed, to that of the next. -/
def periodOf (p : Program) (j : Nat) (w : TileWord) (n : Nat) : Nat :=
  if isMac w then (if w.hold then kacOf p j w w.assay else max 256 (kacOf p j w w.assay))
  else if w.opcode = opAt then atRoundAc p w w.assay n + (if w.hold then 0 else 256)
  else 0

/-- The nominal offset of a round from the word's issue. -/
def roundOffset (p : Program) (j : Nat) (w : TileWord) (n : Nat) : Nat := ((List.range n).map (periodOf p j w)).sum

/-- The ac from a step's issue to its verdict. -/
def verdictAc (p : Program) (j : Nat) (w : TileWord) (assay : Bool) (n : Nat) : Nat :=
  if isMac w then kacOf p j w assay + 24
  else if w.opcode = opAt then atRoundAc p w assay n
  else if w.opcode = opRw then rwAc p.penCount w + 12 + lambdaOf w.sub + (if rwPreop w = 0 then 0 else 2)
  else if w.opcode = opFold then 64
  else if w.opcode = opGrant then 8 + w.rbCount
  else if w.opcode = opSignal || w.opcode = opWait then 8
  else if w.opcode = opTl then 1
  else 0

/-- The ac from a step's issue at which the operand port is free. -/
def portAc (p : Program) (j : Nat) (w : TileWord) (assay : Bool) (n : Nat) : Nat :=
  if isMac w then kacOf p j w assay
  else if w.opcode = opAt then atRoundAc p w assay n
  else if w.opcode = opRw then rwAc p.penCount w
  else verdictAc p j w assay n

/-- The ac from a step's issue to the end of its row-unit use; 0 where it has none. -/
def rowUnitAc (p : Program) (j : Nat) (w : TileWord) (assay : Bool) (n : Nat) : Nat :=
  if isMac w then (if w.hold then 0 else kacOf p j w assay + 264)
  else if w.opcode = opAt then
    let a := atRoundAc p w assay n
    if w.hold then (if a = 0 then 0 else a - atKv p w assay - 24) else if a = 0 then 256 else a + 240
  else if w.opcode = opRw then rwAc p.penCount w
  else 0

/-- u of R128: the ac from a word's issue to its first row-unit use, if it has one. -/
def firstRowUse (p : Program) (j : Nat) (w : TileWord) : Option Nat :=
  if isMac w then (if w.hold then none else some (kacOf p j w w.assay + 8))
  else if w.opcode = opAt then some (atKd p w w.assay + 24)
  else if w.opcode = opRw then some 0
  else none

/-- O and the end of row-unit use of a word on the nominal schedule, from its issue. -/
def wordPort (p : Program) (j : Nat) (w : TileWord) : Nat :=
  let n := stepsOf p.penCount w - 1
  roundOffset p j w n + portAc p j w w.assay n
def wordRowUse (p : Program) (j : Nat) (w : TileWord) : Nat :=
  let n := stepsOf p.penCount w - 1
  if rowUnitAc p j w w.assay n = 0 then 0 else roundOffset p j w n + rowUnitAc p j w w.assay n

/-- The nominal commit of a step, from the start of Bs. -/
def nominalCommit (p : Program) (j : Nat) (w : TileWord) (n : Nat) : Nat :=
  w.issue + roundOffset p j w n + verdictAc p j w w.assay n

/-- The nominal commit of a word's last step. -/
def wordCommit (p : Program) (j : Nat) (w : TileWord) : Nat := nominalCommit p j w (stepsOf p.penCount w - 1)

/-- The earliest issue that the work before word j allows: max(O*, Z* − u_j) (R128), over the given ends. -/
def occupancy (p : Program) (j : Nat) (w : TileWord) (port row : Nat) : Nat :=
  match firstRowUse p j w with
  | some u => max port (row - u)
  | none => port

/-! ## Grants (R139) -/

/-- The SY.WGRANT that a WORK word consumes: the n-th for the n-th. -/
def grantOf (p : Program) (j : Nat) : Option (Nat × TileWord) :=
  let n := ((p.words.take j).filter isWork).length
  ((p.words.take j).zipIdx.filter fun e => e.1.opcode == opGrant)[n]?.map fun e => (e.2, e.1)

/-- The WORK word that consumes a SY.WGRANT. -/
def consumerOf (p : Program) (i : Nat) : Option Nat :=
  let n := ((p.words.take i).filter fun w => w.opcode == opGrant).length
  ((p.words.zipIdx.filter fun e => isWork e.1)[n]?).map (·.2)

/-- The row block of a logical pen in a round: static, or the n-th entry of its grant queue that its counter gave, less the rounds
that have committed (R139). -/
def penBlock (s : State) (k : Nat) (r : Run) (j : Nat) (w : TileWord) (lp n : Nat) : Option Nat :=
  if isWork w then
    match grantOf r.prog j with
    | none => none
    | some g =>
      let done := if r.doneInstr = j then r.doneRound else 0
      (((s.pen (physPen s k lp)).grants.filter fun x => x.counter == g.2.sub)[n - done]?).map (·.rb)
  else staticBlock r.prog.penCount w lp n

/-- The logical pens with a row block in a round, with their blocks. -/
def activePens (s : State) (k : Nat) (r : Run) (j : Nat) (w : TileWord) (n : Nat) : List (Nat × Nat) :=
  (List.range r.prog.penCount).filterMap fun lp => (penBlock s k r j w lp n).map fun b => (lp, b)

/-- The address in T1 of a virtual address of a RUN: the translation that it was accepted with, or its context's (R216, R266). -/
def runT1 (s : State) (r : Run) (va : Nat) : Option Nat :=
  match tget 0 r.xlat (va / 65536) with
  | 0 => toT1 s r.ctx va
  | n + 1 => some (65536 * n + va % 65536)

/-- The nominal absolute ac of an ac count from the start of a RUN (R58). -/
def nominalAc (r : Run) (n : Nat) : Nat := 65000 * (r.startBeat + r.shift) + n

end Sys2Proof.Machine
end

