-- ==== Sys2Proof/Machine/Lots.lean ====
section
/-! DEFINITION. Lots (R33, R34): what each operand of a tile word reads from T1 and in which order, its first read, and the drover
that places it. Contents are told by device virtual address (log 21). -/

namespace Sys2Proof.Machine

/-! ## Views with padding (R134) -/

/-- The coordinates of a row of a tensor's padded view; REPLICATE takes the nearest element. -/
def viewCoord (d : Desc) (r : Nat) : List Int :=
  let e := (List.range 3).map fun i => extAt d (i + 1) + padAt d (4 - 2 * i) + padAt d (5 - 2 * i)
  let e0 := max 1 (e.getD 0 1)
  let e1 := max 1 (e.getD 1 1)
  let e2 := max 1 (e.getD 2 1)
  [((r % e0 : Nat) : Int) - (padAt d 4 : Nat), ((r / e0 % e1 : Nat) : Int) - (padAt d 2 : Nat),
   ((r / e0 / e1 % e2 : Nat) : Int) - (padAt d 0 : Nat), ((r / e0 / e1 / e2 : Nat) : Int)]

/-- A descriptor whose PAD field carries positions has no padding widths (R198). -/
def unpadded (d : Desc) : Desc := { d with pad := [] }

/-- Where element c of row r of the view lies; none is the padding value, read outside the extents and inside the widths of PAD. -/
def viewLoc (d : Desc) (r c : Nat) : Option Loc :=
  if d.layout = 4 then (if r < extAt d 1 then some (kvLoc d.format d.base (extAt d 2 == 2) r c) else none)
  else
    let x := viewCoord d r
    let within := c < extAt d 0 && (List.range 4).all fun i => inside (coordAt x i) (extAt d (i + 1))
    if within || d.padmode = 3 then
      some (elemLoc d d.base (min c (extAt d 0 - 1)) ((List.range 4).map fun i => nearest (coordAt x i) (extAt d (i + 1))))
    else none

/-- The bits of an element of a view. -/
def viewBits (rd : Nat → Byte) (d : Desc) (r c : Nat) : Nat :=
  match viewLoc d r c with
  | some l => readBits rd (bitsOf d) l
  | none => padCode d

/-- Byte x of row r of a tensor packed as in R118. -/
def packedAddr (d : Desc) (r x : Nat) : Nat :=
  if bitsOf d < 8 then (rowLoc d r 0).addr + x else (rowLoc d r (x / (bitsOf d / 8))).addr + x % (bitsOf d / 8)

def rowBytes (d : Desc) : Nat := packedLen d 0

/-- The rows of a transfer (R334), and its bytes. -/
def transferDesc (p : Program) (w : TileWord) : Desc := Desc.at p (if w.opcode = opSend then w.da else w.dc)
def transferRows (d : Desc) (w : TileWord) : List Nat :=
  (List.range (256 * w.rbCount)).filterMap fun i => if 256 * w.rbFirst + i < rowsOf d then some (256 * w.rbFirst + i) else none
def transferBytes (p : Program) (w : TileWord) : Nat :=
  let d := transferDesc p w
  (min (256 * w.rbCount) (rowsOf d - 256 * w.rbFirst)) * rowBytes d

/-- The address of byte x of a transfer. -/
def transferAddr (p : Program) (w : TileWord) (x : Nat) : Nat :=
  let d := transferDesc p w
  packedAddr d (256 * w.rbFirst + x / max 1 (rowBytes d)) (x % max 1 (rowBytes d))

/-- The row of byte x of a transfer. -/
def transferRow (p : Program) (w : TileWord) (x : Nat) : Nat := 256 * w.rbFirst + x / max 1 (rowBytes (transferDesc p w))

/-! ## Regions -/

/-- A destination region in the order in which it is consumed: its elements, their width, where each comes from (none when it is not
fetched), and the ac from the round's issue at which each is first read. -/
structure Region where
  count : Nat
  bits : Nat
  elem : Nat → Option Loc
  first : Nat → Nat

def Region.perLot (g : Region) : Nat := 524288 / max 1 g.bits
def Region.lots (g : Region) : Nat := ceilDiv g.count g.perLot

/-- The locations that a lot fetches. -/
def Region.locs (g : Region) (i : Nat) : List Loc :=
  (List.range (min g.perLot (g.count - i * g.perLot))).filterMap fun e => g.elem (i * g.perLot + e)

/-- The bytes that a lot fetches, and their sectors, as virtual addresses. -/
def Region.bytes (g : Region) (i : Nat) : List Nat :=
  (g.locs i).flatMap fun l => (List.range (max 1 (g.bits / 8))).map (l.addr + ·)
def Region.sectors (g : Region) (i : Nat) : List Nat := ((g.bytes i).map (· / 64)).dedup

/-- Rows by reduction positions, as the cells consume them: 256 rows of each position (R33). -/
def positionRegion (bits acs : Nat) (loc : Nat → Nat → Option Loc) (n : Nat) : Region where
  count := 256 * n
  bits := bits
  elem e := loc (e % 256) (e / 256)
  first e := e / 256 * acs / max 1 n

/-- Rows of a row-unit operand, in chunks of 256 elements. -/
def rowRegion (bits k : Nat) (loc : Nat → Nat → Option Loc) : Region where
  count := 256 * (256 * ceilDiv k 256)
  bits := bits
  elem e :=
    let n := 256 * ceilDiv k 256
    if e % n < k then loc (e / n) (e % n) else none
  first e := e / 256

/-- A list of locations read at the round's issue, or after. -/
def listRegion (bits at_ : Nat) (l : List (Option Loc)) : Region where
  count := l.length
  bits := bits
  elem e := (l[e]?).join
  first _ := at_

/-! ## The window of a CV round (R151) -/

/-- The linear index of an input position. -/
def pixelIndex (a : Desc) (x : List Nat) : Nat :=
  x.getD 0 0 + extAt a 1 * (x.getD 1 0 + extAt a 2 * (x.getD 2 0 + extAt a 3 * x.getD 3 0))

def pixelCoord (a : Desc) (i : Nat) : List Nat :=
  [i % extAt a 1, i / extAt a 1 % extAt a 2, i / extAt a 1 / extAt a 2 % extAt a 3, i / extAt a 1 / extAt a 2 / extAt a 3]

/-- The input position that an output row reads for a tap, if it is fetched. -/
def tapPixel (a f c : Desc) (row tap : Nat) : Option Nat :=
  let x := inputCoord a f c row tap
  if inPadding a x && a.padmode != 3 then none
  else some (pixelIndex a (nearestCoord a x ((rowCoord c row).getD 3 0)))

/-- The positions of a window in raster order. -/
def windowPixels (a f c : Desc) (w : TileWord) (rb : Nat) : List Nat :=
  ((List.range (validRows c rb)).flatMap fun i => (tapsOf w).filterMap fun t => tapPixel a f c (256 * rb + i) t).foldl
    (fun l x => insertSorted x l) []

/-- Channels of a window's channel block; a ROWMAJOR tensor has no blocks, and its window is one block of the word's channels
(DESIGN CHOICE, log 55). -/
def windowBlock (a : Desc) (w : TileWord) : Nat := if a.layout = 0 then max 1 w.k else blockOf a.layout

def windowRegion (a f c : Desc) (w : TileWord) (rb : Nat) : Region :=
  let px := windowPixels a f c w rb
  let b := windowBlock a w
  let n := max 1 px.length
  let full := w.k / b * (n * b)
  let rest := max 1 (w.k % b)
  let at_ (ch i : Nat) : Option Loc := (px[i]?).map fun x => elemLoc a a.base (chanStart w + ch) (pixelCoord a x)
  { count := w.k * px.length
    bits := bitsOf a
    elem := fun e =>
      if e < full then at_ (e / (n * b) * b + e % b) (e / b % n) else at_ (w.k / b * b + (e - full) % rest) ((e - full) / rest)
    first := fun _ => 0 }

/-- Bytes of a window (R152). -/
def windowBytes (a f c : Desc) (w : TileWord) (rb : Nat) : Nat := ceilDiv ((windowPixels a f c w rb).length * w.k * bitsOf a) 8

/-- Whether a word places windows (R157). -/
def placesWindow (w : TileWord) : Bool := isCv w && w.sel != 0

/-- The windows of a program in order, as (word, round). -/
def windowList (p : Program) : List (Nat × Nat) :=
  (p.words.zipIdx.filter fun e => placesWindow e.1).flatMap fun e =>
    (List.range (roundsOf p.penCount e.1)).map fun n => (e.2, n)

def windowOrdinal (p : Program) (j n : Nat) : Nat := ((windowList p).takeWhile (· != (j, n))).length

/-! ## Regions of the operands -/

/-- Whether a descriptor is the DC of an earlier word of a kind. -/
def madeBefore (p : Program) (j d : Nat) (f : TileWord → Bool) : Bool := (p.words.take j).any fun w => w.dc == d && f w

/-- What stands in the scratchpad before a word needs it: MV.LOAD places it, or MV.RECV with DIRECT (R164, R334). -/
def ofLoad (w : TileWord) : Bool := w.opcode == opLoad || toPens w
def ofResult (w : TileWord) : Bool := isSlotted w || w.opcode == opRw

/-- Whether an MV.RECV with DIRECT before a word receives the byte at an address of a descriptor (R164). -/
def receivedAt (p : Program) (j d a : Nat) : Bool :=
  (p.words.take j).any fun w => toPens w && w.dc == d && (List.range (transferBytes p w)).any fun x => transferAddr p w x == a

/-- A window without the rows that a transfer received into the pen. -/
def Region.without (g : Region) (f : Nat → Bool) : Region :=
  { g with elem := fun e => (g.elem e).bind fun l => if f l.addr then none else some l }

/-- Activations of MM and queries of AT. -/
def actRegion (p : Program) (j : Nat) (w : TileWord) (rb : Nat) : Region :=
  let a := Desc.at p w.da
  let c := Desc.at p w.dc
  if isCv w then
    let g := windowRegion a (Desc.at p w.db) c w rb
    if (p.words.take j).any (fun v => toPens v && v.dc == w.da) then g.without (receivedAt p j w.da) else g
  else
    let n := if w.opcode = opAt then 128 else w.k
    let start := if w.opcode = opAt then 0 else chanStart w
    positionRegion (bitsOf a) (if w.opcode = opAt then atKd p w w.assay else kacOf p j w w.assay)
      (fun i k => if i < validRows c rb then viewLoc (if w.opcode = opAt then unpadded a else a) (256 * rb + i) (start + k) else none) n

/-- Elements of a vector descriptor's row 0. -/
def vectorLocs (d : Desc) (l : List (Option Nat)) : List (Option Loc) :=
  l.map fun o => o.map fun i => elemLoc d d.base i [0, 0, 0, 0]

def validRowList (c : Desc) (rb : Nat) : List (Option Nat) :=
  (List.range 256).map fun i => if i < validRows c rb then some (256 * rb + i) else none

/-- The layer's columns of the word's column block. -/
def columnList (p : Program) (j : Nat) (w : TileWord) : List (Option Nat) :=
  (List.range 256).map fun n => if n < validCols (Desc.at p w.dc) w.cb then some (columnBase p j w + 256 * w.cb + n) else none

/-- The distinct rows of SCALE_W that a word's reduction meets, in order. -/
def groupRows (p : Program) (j : Nat) (w : TileWord) : List Nat :=
  ((reduction w).map (groupRow w (broadcastDesc p j w))).dedup

/-- The bytes of a 16-bit element. -/
def halfBytes (l : Loc) : List (Option Loc) := [some ⟨l.addr, 0⟩, some ⟨l.addr + 1, 0⟩]

/-- The ledger list, then the STORED operand's ledger activations (R99, R100), byte by byte. -/
def ledgerRegion (p : Program) (j : Nat) (w : TileWord) (rb : Nat) : Region :=
  let b := broadcastDesc p j w
  let c := Desc.at p w.dc
  let list := Desc.at p b.ledgerList
  let act := Desc.at p b.ledgerAct
  let gs := groupRows p j w
  listRegion 8 0 ((gs.flatMap fun g => (List.range 4).map fun i => some (rowLoc list g i))
    ++ (if (Desc.at p w.da).qmode = 0 then (validRowList c rb).flatMap fun o => match o with
          | some r => gs.flatMap fun g => (List.range 4).flatMap fun i => halfBytes (rowLoc act r (4 * g + i))
          | none => []
        else []))

/-- The key or value page of block k (R207). -/
def pageLocs (b : Desc) (k : Nat) (value : Bool) : List (Option Loc) :=
  let n := pagesPerBlock b.format
  (List.range 65536).map fun i => some ⟨b.base + 65536 * (n * k + (if value then 1 else 0)) + i, 0⟩

/-- Rows of the layer's side data, whole, as bytes (R86, R252). -/
def sideLocs (d : Desc) : List (Option Loc) :=
  (List.range (rowsOf d)).flatMap fun r => (List.range (rowBytes d)).map fun x => some ⟨packedAddr d r x, 0⟩

def sideData (p : Program) (l : Desc) : List (Option Loc) :=
  (if l.format = 0x06 && l.bscale != 0 then sideLocs (Desc.at p l.bscale) else [])
    ++ (if l.ledgerList != 0 && l.ledgerW != 0 then sideLocs (Desc.at p l.ledgerW) else [])
    ++ (if l.scaleW != 0 then sideLocs (Desc.at p l.scaleW) else [])

/-- A layer: its strips, then its side data. -/
def layerRegion (p : Program) (w : TileWord) : Region :=
  let l := Desc.at p w.da
  let n := tiledBytes l.format (tiledLen l) (extAt l 0)
  let side := sideData p l
  { count := n + side.length, bits := 8, elem := fun e => if e < n then some ⟨l.base + e, 0⟩ else (side[e - n]?).join,
    first := fun _ => 0 }

/-- The manger, of Q, that supplies a byte of a layer: a stripe of each broadcast word's columns (R25, R80, R86, R232). A weight word has
256 bytes, or 128 in the modes of 128 bytes; a row of side data has `width` bytes a column. -/
def weightStripe (fmt q x : Nat) : Nat :=
  let n := if fmt = 0x01 || is16 fmt then 128 else 256
  x % n * q / n
def sideStripe (width q x : Nat) : Nat := x / max 1 width % 256 * q / 256

/-- The side data of a layer that a manger holds. -/
def sideShare (p : Program) (l : Desc) (q m : Nat) : List (Option Loc) :=
  let part (d : Desc) : List (Option Loc) := (List.range (rowsOf d)).flatMap fun r =>
    ((List.range (rowBytes d)).filter fun x => sideStripe (bitsOf d / 8) q x == m).map fun x => some ⟨packedAddr d r x, 0⟩
  (if l.format = 0x06 && l.bscale != 0 then part (Desc.at p l.bscale) else [])
    ++ (if l.ledgerList != 0 && l.ledgerW != 0 then part (Desc.at p l.ledgerW) else [])
    ++ (if l.scaleW != 0 then part (Desc.at p l.scaleW) else [])

/-- The share of a layer that manger m of Q holds, in the order of its broadcast reads (R25, R31). -/
def layerShare (p : Program) (w : TileWord) (q m : Nat) : Region :=
  let l := Desc.at p w.da
  let n := if l.format = 0x01 || is16 l.format then 128 else 256
  let s := max 1 (n / max 1 q)
  let strips := tiledBytes l.format (tiledLen l) (extAt l 0) / max 1 q
  let side := sideShare p l q m
  { count := strips + side.length, bits := 8
    elem := fun e => if e < strips then some ⟨l.base + e / s * n + m * s + e % s, 0⟩ else (side[e - strips]?).join
    first := fun _ => 0 }

/-- LB of R254. -/
def layerBytes (p : Program) (w : TileWord) : Nat := (layerRegion p w).count

/-- The region of a lot's operand; the row block is that of the lot's pen. A layer's region is one manger's share: its row block is
8·Q + m. -/
def regionOf (p : Program) (j : Nat) (w : TileWord) (role : LotRole) (round rb : Nat) : Region :=
  let a := Desc.at p w.da
  let b := Desc.at p w.db
  let l := broadcastDesc p j w
  let c := Desc.at p w.dc
  match role with
  | .activation => actRegion p j w rb
  | .scaleA => listRegion 32 0 ((if a.scaleA = 0 then [] else vectorLocs (Desc.at p a.scaleA) (validRowList c rb))
      ++ (if w.opcode = opAt && b.scaleW != 0 then vectorLocs (Desc.at p b.scaleW) [some 0, some 1] else []))
  | .scaleC => listRegion 32 (verdictAc p j w w.assay 0 - (if w.hold then 0 else 16)) (vectorLocs (Desc.at p l.scaleC) (columnList p j w))
  | .codebook => listRegion 8 0 ((List.range 8).map fun i =>
      let row := (columnBase p j w + 256 * w.cb) / 128 + i / 4
      if row < rowsOf (Desc.at p l.codebook) then some (rowLoc (Desc.at p l.codebook) row (i % 4)) else none)
  | .table => listRegion 32 0 (vectorLocs b ((List.range 260).map some))
  | .rowConst => listRegion (bitsOf b) 0 ((validRowList c rb).map fun o => o.map fun r => rowLoc b r (rwBcol w))
  | .secondOperand =>
    if rwBform w = 1 then
      rowRegion (bitsOf b) w.k fun i k => if i < validRows c rb then viewLoc b (256 * rb + i) k else none
    else listRegion (bitsOf b) 0 ((List.range w.k).map fun k => some (rowLoc b 0 k))
  | .workList => listRegion 32 0 (vectorLocs a ((List.range (extAt a 0)).map some))
  | .source =>
    if w.opcode = opRw then rowRegion (bitsOf a) w.k fun i k => if i < validRows c rb then viewLoc a (256 * rb + i) k else none
    else listRegion (bitsOf a) 0 ((List.range (validRows c rb)).flatMap fun i =>
      (List.range (extAt a 0)).map fun k => viewLoc a (256 * rb + i) k)
  | .layer => layerShare p w (rb / 8) (rb % 8)
  | .keyPage =>
    listRegion 8 (round * atBlockAc p w w.assay) (pageLocs b rb false)
  | .valuePage =>
    listRegion 8 (round * atBlockAc p w w.assay + atKd p w w.assay + 64) (pageLocs b rb true)
  | .sendSource | .recvDest =>
    listRegion 8 0 ((List.range (transferBytes p w)).map fun x => some ⟨transferAddr p w x, 0⟩)
  | .ledgerAct => ledgerRegion p j w rb
  | .store =>
    let cols := if isMac w then 256 else if w.opcode = opAt then 128 else if w.opcode = opRw then
      (if w.sub = 0x20 then 4 else w.k) else extAt c 0
    let base := if isMac w then 256 * w.cb else 0
    { count := 256 * cols, bits := bitsOf c,
      elem := fun e => if e / max 1 cols < validRows c rb && base + e % max 1 cols < extAt c 0 then
        some (rowLoc c (256 * rb + e / max 1 cols) (base + e % max 1 cols)) else none,
      first := fun _ => 0 }

/-! ## Reloads of codebooks and tables (R89, R180) -/

def readsCodebook (p : Program) (j : Nat) (w : TileWord) : Bool := isMac w && (broadcastDesc p j w).format == 0x04
def readsTable (w : TileWord) : Bool := w.opcode == opRw && w.sub == 0x18

/-- The key of a W2C word: codebook descriptor and column block; of a TBL word: its DB. -/
def codebookKey (p : Program) (j : Nat) (w : TileWord) : Nat × Nat :=
  ((broadcastDesc p j w).codebook, columnBase p j w / 256 + w.cb)

def lastBefore (p : Program) (j : Nat) (f : Nat → TileWord → Bool) : Option (Nat × TileWord) :=
  ((p.words.take j).zipIdx.reverse.find? fun e => f e.2 e.1).map fun e => (e.2, e.1)

def reloadsCodebook (p : Program) (j : Nat) (w : TileWord) : Bool :=
  readsCodebook p j w && match lastBefore p j (readsCodebook p) with
    | some e => codebookKey p e.1 e.2 != codebookKey p j w
    | none => true

def reloadsTable (p : Program) (j : Nat) (w : TileWord) : Bool :=
  readsTable w && match lastBefore p j (fun _ v => readsTable v) with
    | some e => e.2.db != w.db
    | none => true

/-! ## The lots of a word -/

/-- The roles that a word's load drovers place for each round, and once. -/
def roundRoles (p : Program) (j : Nat) (w : TileWord) : List LotRole :=
  let a := Desc.at p w.da
  let made := madeBefore p j w.da ofLoad
  if isSlotted w then
    (if (isCv w && w.sel = 0) || (!isCv w && made) then [] else [.activation]) ++ (if a.scaleA = 0 && !(w.opcode = opAt && (Desc.at p w.db).scaleW != 0) then [] else [.scaleA])
      ++ (if isMac w && (broadcastDesc p j w).ledgerList != 0 then [.ledgerAct] else [])
  else if w.opcode = opRw then
    (if made then [] else [.source])
      ++ (if madeBefore p j w.db ofLoad then []
          else match rwBform w with
            | 0 => []
            | 2 => [.rowConst]
            | _ => [.secondOperand])
  else if w.opcode = opLoad then [.source]
  else if w.opcode = opStore then (if made || madeBefore p j w.da ofResult then [] else [.source])
  else []

def onceRoles (p : Program) (j : Nat) (w : TileWord) : List LotRole :=
  if isMac w && (broadcastDesc p j w).scaleC != 0 then [.scaleC] else []

/-- The contents of a bank that a word reloads. -/
def bankRoles (p : Program) (j : Nat) (w : TileWord) : List LotRole :=
  (if reloadsCodebook p j w then [.codebook] else []) ++ (if reloadsTable p j w then [.table] else [])

/-- A lot with its region, its row block and its round's offset. -/
structure LotPlan where
  lot : LotRef
  rb : Nat
  drover : Nat
  direct : Bool

/-- The lots of one region. -/
def regionLots (p : Program) (k j : Nat) (w : TileWord) (role : LotRole) (round rb lp drover : Nat) : List LotPlan :=
  (List.range (regionOf p j w role round rb).lots).map fun i => ⟨⟨k, j, round, role, lp, i⟩, rb, drover, false⟩

/-- The lots that the pens' load drovers place. Every pen takes the contents of a bank, since every pen switches (R89, R180); a work list
comes through logical pen 0's load drover (DESIGN CHOICE, log 56). -/
def penLots (s : State) (k : Nat) (r : Run) (j : Nat) (w : TileWord) : List LotPlan :=
  let p := r.prog
  let steps := if w.opcode = opLoad || w.opcode = opStore || w.opcode = opRw then roundsOf p.penCount w else stepsOf p.penCount w
  ((List.range steps).flatMap fun n => (activePens s k r j w n).flatMap fun e =>
      (roundRoles p j w).flatMap fun role => regionLots p k j w role n e.2 e.1 (physPen s k e.1))
    ++ ((activePens s k r j w 0).flatMap fun e =>
      (onceRoles p j w).flatMap fun role => regionLots p k j w role 0 e.2 e.1 (physPen s k e.1))
    ++ ((List.range p.penCount).flatMap fun lp =>
      (bankRoles p j w).flatMap fun role => regionLots p k j w role 0 0 lp (physPen s k lp))
    ++ (if w.opcode = opGrant then regionLots p k j w .workList 0 0 0 (physPen s k 0) else [])

/-- The weight drovers of a partition. -/
def weightDrovers (s : State) (k : Nat) : List Nat := ((List.range 8).map (128 + ·)).filter fun d => (droverParts s d).contains k

/-- Q: the mangers of a partition (R25, R41). -/
def mangerCount (s : State) : Nat := 4 / max 1 s.mode

/-- A key-value page is split among the partition's mangers; its weight drovers take the pages in turn (log 37). -/
def weightDrover (s : State) (k i : Nat) : Nat :=
  let l := weightDrovers s k
  l.getD (i % max 1 l.length) 128

/-- The pages of an AT word in issue order, as (round, position in the round, block, value page). In assay mode, that of the word or of
an attempt at a round of `twice`, each of the two passes issues every block; the first reads no values (R203, R209, R256; log 37). -/
def pageList (p : Program) (twice : List (Nat × Nat)) (j : Nat) (w : TileWord) : List (Nat × Nat × Nat × Bool) :=
  (List.range (stepsOf p.penCount w)).flatMap fun n =>
    let l := keyBlocks p w n
    let assay := w.assay || twice.contains (j, n)
    ((if assay then l ++ l else l).zipIdx).flatMap fun e =>
      (n, e.2, e.1, false)
        :: (if is16 (Desc.at p w.db).format && !(assay && e.2 < l.length) then [(n, e.2, e.1, true)] else [])

/-- Layer lots and key-value pages. A page's lot has its round, and its position in the round as its index. -/
def broadcastLots (s : State) (k : Nat) (r : Run) (j : Nat) (w : TileWord) : List LotPlan :=
  if w.opcode = opWeight then
    (List.range (mangerCount s)).flatMap fun m =>
      (List.range (layerShare r.prog w (mangerCount s) m).lots).map fun i =>
        ⟨⟨k, j, 0, .layer, m, i⟩, 8 * mangerCount s + m, 128 + 2 * (mangerCount s * k + m) + i % 2, false⟩
  else if w.opcode = opAt then
    (pageList r.prog r.twice j w).zipIdx.map fun e =>
      ⟨⟨k, j, e.1.1, if e.1.2.2.2 then .valuePage else .keyPage, 0, e.1.2.1⟩, e.1.2.2.1, weightDrover s k e.2, false⟩
  else []

/-- The gate whose drover moves a transfer (R334): the first hop of a send, RXGATE of a receive. -/
def transferGate (s : State) (k : Nat) (w : TileWord) : Nat :=
  match routeAt s k (mvRoute w) with
  | some r => if w.opcode = opSend then firstGate r else r.rxGate
  | none => 0

/-- The lots of a gate drover: the source of a send, and the staged destination of an ADD mode. -/
def gateLots (s : State) (k : Nat) (r : Run) (j : Nat) (w : TileWord) : List LotPlan :=
  let role := if w.opcode = opSend then LotRole.sendSource else .recvDest
  if w.opcode = opSend || (w.opcode = opRecv && mvMode w != 0) then
    (List.range (ceilDiv (transferBytes r.prog w) 65536)).map fun i =>
      ⟨⟨k, j, 0, role, 0, i⟩, 0, 144 + transferGate s k w, mvDirect w⟩
  else []

def lotPlans (s : State) (k : Nat) (r : Run) (j : Nat) (w : TileWord) : List LotPlan :=
  penLots s k r j w ++ broadcastLots s k r j w ++ gateLots s k r j w

/-- The store drovers that move the rows of a DIRECT send from the pens to the gate drover (R31, R334). -/
def sendDrovers (s : State) (k : Nat) (r : Run) (w : TileWord) : List Nat :=
  if w.opcode = opSend && mvDirect w then
    ((transferRows (transferDesc r.prog w) w).map fun x => 64 + physPen s k (x / 256 % max 1 r.prog.penCount)).dedup
  else []

/-- The drovers with work on a word before its issue; a gate drover opens for every transfer. -/
def droversFor (s : State) (k : Nat) (r : Run) (j : Nat) (w : TileWord) : List Nat :=
  ((lotPlans s k r j w).map (·.drover) ++ sendDrovers s k r w
    ++ (if w.opcode = opSend || w.opcode = opRecv then [144 + transferGate s k w] else [])).dedup

/-- The region of a planned lot; a page's region is its own. -/
def planRegion (p : Program) (w : TileWord) (x : LotPlan) : Region :=
  match x.lot.role with
  | .keyPage => regionOf p x.lot.instr w .keyPage x.lot.index x.rb
  | .valuePage => regionOf p x.lot.instr w .valuePage x.lot.index x.rb
  | role => regionOf p x.lot.instr w role x.lot.round x.rb

def planIndex (x : LotPlan) : Nat :=
  match x.lot.role with
  | .keyPage => 0
  | .valuePage => 0
  | _ => x.lot.index

def planSectors (p : Program) (w : TileWord) (x : LotPlan) : List Nat :=
  if x.direct then [] else (planRegion p w x).sectors (planIndex x)
def planBytes (p : Program) (w : TileWord) (x : LotPlan) : List Nat := (planRegion p w x).bytes (planIndex x)

/-- The ac from its round's issue at which a lot is due (R34). -/
def dueOffset (p : Program) (w : TileWord) (x : LotPlan) : Nat :=
  let g := planRegion p w x
  g.first (planIndex x * g.perLot)

/-- The round's offset from the word's issue; RW, MV and SY words have one step. -/
def planRound (p : Program) (w : TileWord) (x : LotPlan) : Nat :=
  if isSlotted w then roundOffset p x.lot.instr w x.lot.round
  else if w.opcode = opRw then x.lot.round * 256 * ceilDiv w.k 256 else 0

/-- A page is read from its manger 20 ac before its first use (R61, R209). -/
def mangerLead (x : LotPlan) : Nat :=
  match x.lot.role with
  | .keyPage => 20
  | .valuePage => 20
  | _ => 0

/-- The nominal deadline of a lot. -/
def nominalDue (r : Run) (w : TileWord) (x : LotPlan) : Nat :=
  nominalAc r (w.issue + planRound r.prog w x + dueOffset r.prog w x) - mangerLead x

end Sys2Proof.Machine
end

