-- ==== Sys2Proof/Machine/Drovers.lean ====
section
/-! DEFINITION. The decode of tile words (R129 to R132), and the drovers: their start (R32, R280), the completion of lots (R33, R36,
R99, R179) and late lots (R34). -/

namespace Sys2Proof.Machine

/-! ## Decode -/

/-- A decode fault: its code and the lowest logical pen at fault (R131). -/
abbrev DecodeFault := Nat × Nat

/-- The tags of a word's row blocks, by logical pen. -/
def tagsOf (p : Program) (w : TileWord) : List HeldTag :=
  (List.range (roundsOf p.penCount w)).flatMap fun n => (List.range p.penCount).filterMap fun lp =>
    (staticBlock p.penCount w lp n).map fun b => ⟨lp, w.dc, w.cb, b⟩

/-- D of R130. -/
def slotDemand (p : Program) (w : TileWord) (lp : Nat) : Nat :=
  let n := blocksOn p.penCount w lp
  if !isSlotted w || n = 0 then 0
  else (if w.cont || w.hold then n else 1) + (if w.opcode = opAt then 2 else 1)

/-- H of R130. -/
def slotHeld (held : List HeldTag) (p : Program) (w : TileWord) (lp : Nat) : Nat :=
  (held.filter fun t => t.lpen == lp && !(isSlotted w && w.cont && (tagsOf p w).contains t)).length

/-- The HELD slots after a word. -/
def heldAfter (held : List HeldTag) (p : Program) (w : TileWord) : List HeldTag :=
  if !isSlotted w then held
  else
    let l := if w.cont then held.filter fun t => !(tagsOf p w).contains t else held
    if w.hold then l ++ tagsOf p w else l

def lowestPen (l : List HeldTag) : Nat := ((l.map (·.lpen)).min?).getD 0

/-- The decode fault of a word, the first in the order of R131. WCNT_BUSY concerns no pen, and is given with pen 0 (DESIGN CHOICE,
log 59). -/
def decodeFault (q : Part) (r : Run) (j : Nat) (w : TileWord) : Option DecodeFault :=
  let p := r.prog
  let tags := if isSlotted w then tagsOf p w else []
  let over8 := (List.range p.penCount).filter fun lp => 8 < slotHeld r.held p w lp + slotDemand p w lp
  let missing := if w.cont then tags.filter fun t => !r.held.contains t else []
  let twice := if w.hold && !w.cont then tags.filter fun t => r.held.contains t else []
  let left := if j + 1 = p.nWords then heldAfter r.held p w else []
  match over8 with
  | lp :: _ => some (1, lp)
  | [] =>
    if !missing.isEmpty then some (2, lowestPen missing)
    else if !twice.isEmpty then some (3, lowestPen twice)
    else if !left.isEmpty then some (4, lowestPen left)
    else if w.opcode = opGrant && (tget WorkCounter.reset q.wcnt w.sub).busy then some (5, 0)
    else none

def updCounter (k c : Nat) (f : WorkCounter → WorkCounter) : State → State :=
  updPart k fun q => { q with wcnt := tupd WorkCounter.reset q.wcnt c f }

/-- Decode one word. -/
def tileDecode (k : Nat) (r : Run) (w : TileWord) (s : State) : State :=
  let j := r.decoded
  match decodeFault (s.part k) r j w with
  | some e =>
    updRun k (fun x => { x with decodeStop := some j }) (updPart k (fun q => { q with dfCode := e.1, dfLpen := e.2, dfInstr := j }) s)
  | none =>
    let t := updRun k (fun x => { x with decoded := j + 1, held := heldAfter r.held r.prog w }) s
    if w.opcode = opGrant then updCounter k w.sub (fun c => { c with busy := true, granter := j % 2 ^ 24 }) t else t

/-- Whether a partition's drovers work: its RUN is running, or accepted with its beat Bd come. -/
def droversRun (s : State) (k : Nat) : Bool :=
  match (s.part k).run with
  | some r => r.begun && ((s.part k).st == .running || (s.part k).st == .accepted) && r.ending.isNone
  | none => false

/-- A word decodes when drover work on it may first start (R32, R129). -/
def decodeReady (s : State) (k : Nat) : Option (Run × TileWord) :=
  (s.part k).run.bind fun r =>
    if droversRun s k && r.decodeStop.isNone && r.decoded < r.doneInstr + 8 then (wordAt r r.decoded).map fun w => (r, w) else none

def execTileDecode (part : Nat) (s : State) : Result State :=
  match decodeReady s part with
  | some (r, w) => .next (tileDecode part r w s)
  | none => .fault (.notEnabled "TILE_DECODE")

/-! ## Starting a drover (R280) -/

/-- The requester rank (R281). -/
def droverRank (d : Nat) : Nat := if d < 128 then 1 + d else if d < 136 then 0 else 129 + (d - 144)

/-- Queue one sector request at its pseudo-channel. -/
def postReq (q : Req) (s : State) : State :=
  let c := channelOf s q.addr
  updPc c.1 (localPc c.2) (fun p => { p with reqs := p.reqs ++ [q] }) s

/-- The tag of a read: the latest slot start from which the sector still reaches its consumer before the lot's deadline (R280). -/
def readTag (due rank pa : Nat) : Nat := (due - 1 - readLatency rank pa) / 13 * 13

/-- The requests of a lot. -/
def lotReqs (s : State) (r : Run) (w : TileWord) (x : LotPlan) : List Req :=
  (planSectors r.prog w x).filterMap fun v => (runT1 s r (64 * v)).map fun pa =>
    { addr := pa, write := false, tag := readTag (nominalDue r w x) (droverRank x.drover) pa, rank := droverRank x.drover,
      at_ := absAc s, lot := x.lot }

/-- The buffer of a transfer, opened when its gate drover starts (R335). -/
def openTransfer (k j : Nat) (r : Run) (w : TileWord) (s : State) : State :=
  let g := transferGate s k w
  let n := transferBytes r.prog w
  match routeAt s k (mvRoute w) with
  | none => s
  | some q =>
    let at_ := nominalAc r w.issue
    if w.opcode = opSend then
      updGate g (fun v => { v with sends := v.sends ++
        [⟨k, j, n, [], false, 0, mvRoute w, mvTag w, mvRetries w, at_,
          at_ + mvRetries w * q.retryGap + 13 * (cellCount n - 1) + q.lat, 0, false⟩] }) s
    else
      updGate g (fun v => { v with recvs := v.recvs ++
        [⟨k, j, q.peer, mvTag w, at_, cellCount n, n, mvRoute w, none, [], [], none, false⟩] }) s

/-- The last SY.FOLD before a word. -/
def foldBefore (r : Run) (j : Nat) : Option Nat := (lastBefore r.prog j fun _ v => v.opcode == opFold).map (·.1)

/-- A load drover fetches for a word only after the SY.FOLD before it has committed, and 12 ac more (R163). -/
def foldPassed (r : Run) (j : Nat) : Bool :=
  match foldBefore r j with
  | some i => i < r.doneInstr
  | none => true

/-- The grants of a WORK word have been made. -/
def grantsMade (r : Run) (j : Nat) (w : TileWord) : Bool :=
  !isWork w || match grantOf r.prog j with
    | some g => g.1 < r.doneInstr
    | none => false

/-- The buffer of a window has been released by the window before the last (R153). -/
def windowReleased (r : Run) (j n : Nat) : Bool :=
  let o := windowOrdinal r.prog j n
  o < 2 || match (windowList r.prog)[o - 2]? with
    | some e => e.1 < r.doneInstr || (e.1 == r.doneInstr && e.2 < r.doneRound)
    | none => true

/-- Whether a drover may start a lot: that of a window waits for its buffer (R153). -/
def lotStarts (r : Run) (w : TileWord) (x : LotPlan) : Bool :=
  x.lot.role != .activation || !placesWindow w || windowReleased r x.lot.instr x.lot.round

/-- The lots that a drover starts on a word: those that it has not posted, and may start. -/
def lotsToStart (s : State) (k j d : Nat) (r : Run) (w : TileWord) : List LotPlan :=
  (lotPlans s k r j w).filter fun x => x.drover == d && !r.placed.contains x.lot && !r.posted.contains x.lot && lotStarts r w x

/-- The ac at which a drover starts lots of a word: its lead, 12 ac after the last SY.FOLD for a load drover, and for the later windows
the ac after their buffer's release (R153, R163, R280). -/
def startAc (r : Run) (j d : Nat) (w : TileWord) : Nat :=
  max (nominalAc r w.issue - r.prog.leadAc)
    (max (if d < 64 && (foldBefore r j).isSome then r.foldAt + 12 else 0) (if r.opened.contains (j, d) then r.lastCommit + 1 else 0))

/-- A drover has started on every instruction before this one that it works on, and no more than eight are open (R32). -/
def droverTurn (s : State) (k j d : Nat) (r : Run) : Bool :=
  (List.range (j - r.doneInstr)).all (fun i =>
    r.opened.contains (r.doneInstr + i, d) || (wordAt r (r.doneInstr + i)).all fun v => !(droversFor s k r (r.doneInstr + i) v).contains d)
  && ((r.opened.map (·.1)).contains j || (r.opened.map (·.1)).dedup.length < 8)

/-- A drover may start on a word, or on the lots of it that it could not start before (R32, R153, R280). -/
def droverReady (s : State) (k j d : Nat) : Option (Run × TileWord) :=
  (s.part k).run.bind fun r => (wordAt r j).bind fun w =>
    if droversRun s k && j < r.decoded && r.doneInstr ≤ j && j < r.doneInstr + 8
        && (!r.opened.contains (j, d) || !(lotsToStart s k j d r w).isEmpty)
        && (droversFor s k r j w).contains d && acCome (startAc r j d w) s && grantsMade r j w
        && (64 ≤ d || foldPassed r j) && droverTurn s k j d r then some (r, w) else none

/-- Start a drover on a word: its lots' requests are posted, lots with nothing to fetch are placed (R33), its work is open. -/
def droverStart (k j d : Nat) (r : Run) (w : TileWord) (s : State) : State :=
  let first : Bool := !r.opened.contains (j, d)
  let s0 := moveTo (startAc r j d w) s
  let all := (lotPlans s k r j w).filter fun x => x.drover == d && !r.placed.contains x.lot
  let l := lotsToStart s k j d r w
  let empty := l.filter fun x => !x.direct && (planSectors r.prog w x).isEmpty
  let s1 := if 144 ≤ d && first then openTransfer k j r w s0 else s0
  let s2 := forAll (l.flatMap (lotReqs s0 r w)) postReq s1
  let s3 := updRun k (fun x =>
    { x with opened := if first then x.opened ++ [(j, d)] else x.opened
             placed := x.placed ++ empty.map (·.lot)
             posted := x.posted ++ l.map (·.lot) }) s2
  syncDrovers k (updDrover d (fun v =>
    let u := if first then openWork j 0 all.length v else v
    empty.foldl (fun u _ => doneWork j u) u) s3)

def execDroverStart (part instr drover : Nat) (s : State) : Result State :=
  match droverReady s part instr drover with
  | some (r, w) => .next (droverStart part instr drover r w s)
  | none => .fault (.notEnabled "DROVER_START")

/-! ## Placing a lot -/

/-- The plan of a lot. -/
def planOf (s : State) (r : Run) (w : TileWord) (lot : LotRef) : Option LotPlan :=
  (lotPlans s lot.part r lot.instr w).find? fun x => x.lot == lot

/-- A byte that has arrived for a lot. -/
def arrivedByte (s : State) (r : Run) (lot : LotRef) (va : Nat) : Option Byte :=
  (runT1 s r va).bind fun pa =>
    (r.arrived.find? fun a => a.lot == lot && a.addr == pa / 64 * 64).bind fun a => a.data[pa % 64]?

/-- Whether every sector of a lot has reached its consumer by the present ac (R64, R65). -/
def allArrived (s : State) (r : Run) (w : TileWord) (x : LotPlan) : Bool :=
  (planSectors r.prog w x).all fun v => match runT1 s r (64 * v) with
    | some pa => r.arrived.any fun a => a.lot == x.lot && a.addr == pa && a.at_ ≤ absAc s
    | none => true

/-- The bytes of a lot by virtual address. -/
def lotData (s : State) (r : Run) (w : TileWord) (x : LotPlan) : List (Nat × Byte) :=
  (planBytes r.prog w x).filterMap fun va => (arrivedByte s r x.lot va).map fun b => (va, b)

/-- The little-endian words that a lot's elements spell, in order. -/
def lotWords (l : List (Nat × Byte)) (g : Region) (i : Nat) : List Word32 :=
  let t := putAll l []
  (g.locs i).map fun loc => readWord (tget 0 t) loc.addr

/-- A bank is written only once no uncommitted word that reads it remains (R91, R182). -/
def bankFree (r : Run) (f : Nat → TileWord → Bool) (bank : Nat) : Bool :=
  r.prog.words.zipIdx.all fun e => !(r.doneInstr ≤ e.2 && f e.2 e.1 && tget 0 r.banks e.2 == bank + 1)

/-- Every earlier word that reloads has switched: the bank not active is then the one that the next reload fills (R90, R180). -/
def switchedBefore (r : Run) (f : Nat → TileWord → Bool) (j : Nat) : Bool :=
  r.prog.words.zipIdx.all fun e => !(e.2 < j && f e.2 e.1) || tget 0 r.banks e.2 != 0

/-- The word that last reads the layer of an MV.WEIGHT, if any (R254). -/
def lastReader (p : Program) (j : Nat) : Nat :=
  ((p.words.zipIdx.filter fun e => isMac e.1 && (layerOf p e.2 e.1).map (·.1) == some j).map (·.2)).foldl max j

/-- The window slot of a layer has been released. -/
def slotReleased (r : Run) (j : Nat) : Bool :=
  let l := weightsBefore r.prog j
  l.length < 3 || match l[l.length - 3]? with
    | some e => lastReader r.prog e.1 < r.doneInstr
    | none => true

/-! ### The KV ring (R256) -/

/-- The pages of a RUN in issue order from an AT step on, as (instruction, round, position in the round, value page). -/
def pagesFrom (p : Program) (twice : List (Nat × Nat)) (o : Nat × Nat) : List (Nat × Nat × Nat × Bool) :=
  (p.words.zipIdx.filter fun e => e.1.opcode == opAt).flatMap fun e =>
    ((pageList p twice e.2 e.1).filter fun x => o.1 < e.2 || (o.1 == e.2 && o.2 ≤ x.1)).map fun x => (e.2, x.1, x.2.1, x.2.2.2)

/-- The number of a page among the pages fetched in the RUN. -/
def pageNumber (r : Run) (lot : LotRef) : Nat :=
  r.ringBase + ((pagesFrom r.prog r.twice r.ringFrom).takeWhile fun x => x != (lot.instr, lot.round, lot.index, lot.role == .valuePage)).length

/-- A placed page is free once its step has committed or left the flight, or after its last manger read: that of its QKᵀ for a key page
and for any page of the first pass of assay mode, of its PV otherwise. -/
def pageRead (s : State) (r : Run) (lot : LotRef) : Bool :=
  !r.placed.contains lot || match r.flight.find? fun x => x.instr == lot.instr && x.round == lot.round with
    | none => false
    | some x => match wordAt r lot.instr with
      | none => true
      | some w =>
        let first := x.assay && lot.index < (keyBlocks r.prog w lot.round).length
        let pv := lot.role == .valuePage || !(first || is16 (Desc.at r.prog w.db).format)
        let last := x.issue + lot.index * atBlockAc r.prog w x.assay
          + (if pv then atKd r.prog w x.assay + 64 + atKv r.prog w x.assay else atKd r.prog w x.assay) - 20
        last < absAc s

/-- The position of a page is free (R256). -/
def ringFree (s : State) (r : Run) (lot : LotRef) : Bool :=
  (tget none r.ring (pageNumber r lot % 32)).all (pageRead s r)

/-- A page takes its position. -/
def takeRing (lot : LotRef) (r : Run) : Run :=
  { r with ring := tset none r.ring (pageNumber r lot % 32) (some lot), ringNext := max r.ringNext (pageNumber r lot + 1) }

/-- The transfers that an MV.RECV with DIRECT brings to a window's rows are in the pen (R164). -/
def haloHere (r : Run) (w : TileWord) (j : Nat) : Bool :=
  (r.prog.words.take j).zipIdx.all fun e => !(toPens e.1 && e.1.dc == w.da) || (e.2 < r.doneInstr && r.toStore.all (·.instr != e.2))

/-- Whether the place that a lot fills is free. -/
def placeFree (s : State) (r : Run) (w : TileWord) (x : LotPlan) : Bool :=
  let p := s.pen (physPen s x.lot.part x.lot.lpen)
  match x.lot.role with
  | .codebook =>
    switchedBefore r (reloadsCodebook r.prog) x.lot.instr && bankFree r (readsCodebook r.prog) (1 - p.cbank.active)
  | .table => switchedBefore r (reloadsTable r.prog) x.lot.instr && bankFree r (fun _ v => readsTable v) (1 - p.fbank.active)
  | .layer => slotReleased r x.lot.instr
  | .activation => !placesWindow w || (windowReleased r x.lot.instr x.lot.round && haloHere r w x.lot.instr)
  | .keyPage | .valuePage => ringFree s r x.lot
  | _ => true

/-- The port through which a drover's lots pass, named by a drover: a pen's own, or one for the two weight drovers of a die (R20, R254). -/
def portOf (d : Nat) : Nat := if 128 ≤ d && d < 136 then d / 2 * 2 else d

/-- A lot has passed its port's 512 bytes an ac since the lot before it (R20). -/
def portPassed (s : State) (d bytes : Nat) : Bool := 144 ≤ d || (s.drover (portOf d)).portAt + ceilDiv bytes 512 ≤ absAc s

/-- The drover has completed its lots of the instructions before (R32). -/
def droverInOrder (s : State) (j d : Nat) : Bool := (s.drover d).work.all fun x => !(x.instr < j && 0 < x.left)

/-- The shadow bank takes new contents. -/
def loadShadow (l : List Word32) (b : Banks) : Banks :=
  let t : Table Word32 := (l.zipIdx.map fun e => (e.2, e.1)).filter fun e => e.2 != 0
  if b.active = 0 then { b with bank1 := t, shadowValid := true } else { b with bank0 := t, shadowValid := true }

/-- The key of a column or row constant: each instruction's, and each round's, are separate. -/
def constKey (j n i : Nat) : Nat := (65536 * j + n) * 256 + i

/-- The window register of a pen when a lot of a window is placed (R165). -/
def markWindow (o : Nat) (v : Win) : Win := if o % 2 = 0 then { v with valid0 := true } else { v with valid1 := true }

def updManger (k i : Nat) (f : MangerSlot → MangerSlot) : State → State :=
  updPart k fun q => { q with manger := tupd MangerSlot.reset q.manger i f }

/-- The manger slot that holds key-value pages. -/
def pageSlot : Nat := 3

def updSend (g k j : Nat) (f : SendHold → SendHold) : State → State :=
  updGate g fun v => { v with sends := mapIf (fun h => h.part == k && h.instr == j) f v.sends }
def updRecv (g k j : Nat) (f : RecvHold → RecvHold) : State → State :=
  updGate g fun v => { v with recvs := mapIf (fun h => h.part == k && h.instr == j) f v.recvs }

/-- The bytes of a transfer's lot from the pens' scratchpads (R334, DIRECT): they left the drain ports 22 ac ago (R64). -/
def directData (s : State) (k : Nat) (r : Run) (w : TileWord) (i : Nat) : List (Nat × Byte) :=
  (List.range (min 65536 (transferBytes r.prog w - 65536 * i))).map fun x =>
    let o := 65536 * i + x
    let p := physPen s k (transferRow r.prog w o / 256 % max 1 r.prog.penCount)
    (o, spadRead (s.pen p).stage (absAc s - 21) (transferAddr r.prog w o))

/-- The bytes of a transfer's lot by offset. -/
def transferData (s : State) (r : Run) (w : TileWord) (x : LotPlan) : List (Nat × Byte) :=
  if x.direct then directData s x.lot.part r w x.lot.index
  else (List.range (min 65536 (transferBytes r.prog w - 65536 * x.lot.index))).filterMap fun i =>
    (arrivedByte s r x.lot (transferAddr r.prog w (65536 * x.lot.index + i))).map fun b => (65536 * x.lot.index + i, b)

/-- Put a lot where its consumer reads it. -/
def placeLot (s : State) (r : Run) (w : TileWord) (x : LotPlan) : State :=
  let lot := x.lot
  let p := physPen s lot.part lot.lpen
  let g := planRegion r.prog w x
  let d := lotData s r w x
  match lot.role with
  | .scaleC => updPen p (fun v => { v with colConst := ((lotWords d g lot.index).zipIdx).foldl (fun t e =>
      tset 0 t (constKey lot.instr 0 e.2) e.1) v.colConst }) s
  | .rowConst =>
    let m := putAll d []
    updPen p (fun v => { v with rowConst := ((g.locs lot.index).zipIdx).foldl (fun t e =>
      tset 0 t (constKey lot.instr lot.round e.2)
        (bits32 (elemNum (Desc.at r.prog w.db).format (readBits (tget 0 m) g.bits e.1)))) v.rowConst }) s
  | .codebook => updPen p (fun v => { v with cbank := loadShadow (d.map fun e => e.2.setWidth 32) v.cbank }) s
  | .table => updPen p (fun v => { v with fbank := loadShadow (lotWords d g lot.index) v.fbank }) s
  | .workList => updCounter lot.part w.sub (fun c =>
      { c with list := (if lot.index = 0 then [] else c.list) ++ (lotWords d g lot.index).map (·.toNat) }) s
  | .layer => updManger lot.part (weightOrdinal r.prog lot.instr % 3) (fun m =>
      if lot.index = 0 || m.instr != lot.instr then ⟨lot.instr, w.da, false, putAll d (if m.instr = lot.instr then m.data else []), []⟩
      else { m with data := putAll d m.data }) s
  | .keyPage | .valuePage =>
    updManger lot.part pageSlot (fun m => { m with data := putAll d m.data })
      (updRun lot.part (takeRing lot) (updPart lot.part (fun q => { q with kvRing := q.kvRing + 1 }) s))
  | .sendSource => updSend (x.drover - 144) lot.part lot.instr (fun h => { h with data := putAll (transferData s r w x) h.data }) s
  | .recvDest => updRecv (x.drover - 144) lot.part lot.instr (fun h => { h with staged := putAll (transferData s r w x) h.staged }) s
  | role =>
    if role == .activation && placesWindow w then
      let o := r.windowBase + windowOrdinal r.prog lot.instr lot.round
      updPart lot.part (fun q => { q with windows := max q.windows (o + 1) }) (updPen p (fun v =>
        { v with win := markWindow o v.win
                 win0 := if o % 2 = 0 then spadPut (absAc s) d v.win0 else v.win0
                 win1 := if o % 2 = 0 then v.win1 else spadPut (absAc s) d v.win1 }) s)
    else updPen p (fun v => { v with spad := spadPut (absAc s) d v.spad }) s

/-! ## Checks as a lot is placed -/

/-- Whether four list bytes obey R99: valid entries first, their offsets distinct. -/
def listGroupFits (b : List Nat) : Bool :=
  let v := b.takeWhile fun x => 128 ≤ x
  (b.drop v.length).all (· < 128) && v.dedup.length == v.length

/-- The ledger list of a word as placed. -/
def listFits (rd : Nat → Byte) (p : Program) (j : Nat) (w : TileWord) : Bool :=
  (groupRows p j w).all fun g => listGroupFits ((List.range 4).map fun i =>
    (rd (rowLoc (Desc.at p (broadcastDesc p j w).ledgerList) g i).addr).toNat)

/-- INV_STEP is finite and above 0 (R179). -/
def tableFits (l : List Word32) : Bool :=
  let x := num32 (l.getD 1 0)
  isFinite x && numLt .zero x

/-- Whether the content of a lot passes the drover's check. -/
def lotFits (s : State) (r : Run) (w : TileWord) (x : LotPlan) : Bool :=
  match x.lot.role with
  | .ledgerAct =>
    x.lot.index != (4 * (groupRows r.prog x.lot.instr w).length - 1) / 65536
      || listFits (spadRead (s.pen (physPen s x.lot.part x.lot.lpen)).spad (absAc s + 1)) r.prog x.lot.instr w
  | .table => tableFits (lotWords (lotData s r w x) (planRegion r.prog w x) 0)
  | _ => true

/-- The first poisoned sector of a lot (R293). -/
def badSector (r : Run) (lot : LotRef) : Option Nat := (r.arrived.find? fun a => a.lot == lot && a.bad).map (·.addr)

/-- A poisoned lot: POISON and its mark; the RUN ends with BAD_STATE and the sector's address (R36, R293). -/
def poisonLot (x : LotPlan) (slot : Nat) (lines : List Nat) (pa : Nat) (s : State) : State :=
  let t := updDrover x.drover (fun v => { v with poison := true }) s
  let u := if x.drover < 64 then updPen x.drover (fun v => { v with marked := lines.foldl (fun l a => insertSorted a l) v.marked }) t
    else if x.drover < 136 then updManger x.lot.part slot (fun m => { m with marked := lines.foldl (fun l a => insertSorted a l) m.marked }) t
    else updRecv (x.drover - 144) x.lot.part x.lot.instr (fun h => { h with marked := true })
      (updSend (x.drover - 144) x.lot.part x.lot.instr (fun h => { h with marked := true }) t)
  haltRun x.lot.part ⟨stBadState, 0, 4, pa⟩ u

/-- The virtual lines of a lot whose sectors are poisoned. -/
def badLines (s : State) (r : Run) (w : TileWord) (x : LotPlan) : List Nat :=
  (planSectors r.prog w x).filter fun v => match runT1 s r (64 * v) with
    | some pa => r.arrived.any fun a => a.lot == x.lot && a.addr == pa && a.bad
    | none => false

/-- A scratchpad write collision (R22). -/
def hazard (k pen : Nat) (s : State) : State := slip k slipHazard (updPen pen (fun v => { v with haz := true }) s)

/-- The lot is no longer in flight: its drover's counts, and the time of its port. -/
def countLot (d j : Nat) (s : State) : State :=
  updDrover (portOf d) (fun v => { v with portAt := absAc s }) (updDrover d (doneWork j) s)

/-- A lot has been placed. A list that breaks R99 quiesces the partition as it is placed, and the steps ahead are discarded too
(DESIGN CHOICE, log 57). -/
def loadLot (r : Run) (w : TileWord) (x : LotPlan) (collision : Bool) (s : State) : State :=
  let k := x.lot.part
  let t := countLot x.drover x.lot.instr (placeLot s r w x)
  let u := updRun k (fun y => { y with placed := y.placed ++ [x.lot], arrived := y.arrived.filter fun a => a.lot != x.lot }) t
  match badSector r x.lot with
  | some pa =>
    poisonLot x (if x.lot.role == .layer then weightOrdinal r.prog x.lot.instr % 3 else pageSlot) (badLines s r w x) pa u
  | none =>
    if !lotFits t r w x then haltRun k ⟨stBadArg, 0, 3, stepRefNum ⟨x.lot.instr, x.lot.round, x.lot.lpen⟩⟩ u
    else if collision && x.drover < 64 then hazard k x.drover u
    else u

/-! ## Store lots (R34, R35) -/

/-- The drover that reads a store lot out: the pen's, or the gate's for MV.RECV. -/
def storeDrover (s : State) (k : Nat) (w : TileWord) (lot : LotRef) : Nat :=
  if w.opcode = opRecv then 144 + transferGate s k w else 64 + physPen s k lot.lpen

/-- The bytes of a store lot by virtual address. -/
def storeData (s : State) (r : Run) (w : TileWord) (lot : LotRef) : List (Nat × Byte) :=
  if w.opcode = opRecv then
    match (s.gate (transferGate s lot.part w)).recvs.find? fun h => h.part == lot.part && h.instr == lot.instr with
    | none => []
    | some h => ((h.accepted.getD []).drop (65536 * lot.index)).take 65536 |>.zipIdx.map fun e =>
        (transferAddr r.prog w (65536 * lot.index + e.2), e.1)
  else
    let p := s.pen (physPen s lot.part lot.lpen)
    ((regionOf r.prog lot.instr w .store 0 lot.round).bytes lot.index).map fun a => (a, spadRead p.stage (absAc s) a)

/-- The sectors of T1 that a store lot writes. -/
def storeSectors (s : State) (r : Run) (d : List (Nat × Byte)) : List Nat :=
  (d.filterMap fun e => (runT1 s r e.1).map fun pa => pa / 64 * 64).dedup

/-- Bytes in a memory-side die's write queue. -/
def queuedBytes (s : State) (die : Nat) : Nat :=
  64 * (s.hbm.pcs.map fun e => if e.1 / 2 / 160 = die then (e.2.reqs.filter (·.write)).length else 0).sum

/-- The write queues have room for a lot (R280). -/
def queueRoom (s : State) (secs : List Nat) : Bool :=
  (List.range 4).all fun m => queuedBytes s m + 64 * (secs.filter fun a => dieOfPa s a == m).length ≤ 2 * mib

/-- The rows of a store lot have drained, and their write-back is over (R62). -/
def drained (s : State) (lot : LotRef) : Bool :=
  let p := s.pen (physPen s lot.part lot.lpen)
  p.wroteAt ≤ absAc s && p.slots.all fun e =>
    !(e.2.instr == lot.instr && e.2.rb == lot.round && e.2.st != .free && e.2.st != .held)

/-- The deadline of a store lot (log 22). -/
def storeDue (r : Run) (lot : LotRef) : Nat := nominalAc r (Config.storeDeadline lot.instr (65536 * lot.lpen + lot.index))

/-- A store lot can be read out: its rows are in the pen, the write queues have room, its drover is done with the instructions before,
it has passed the drain port, and it is not late (R20, R34, R35, R280). -/
def storeReady (s : State) (lot : LotRef) : Option (Run × TileWord) :=
  (s.part lot.part).run.bind fun r => (wordAt r lot.instr).bind fun w =>
    if r.toStore.contains lot && (w.opcode == opRecv || drained s lot)
        && (toPens w || queueRoom s (storeSectors s r (storeData s r w lot)))
        && droverInOrder s lot.instr (storeDrover s lot.part w lot)
        && portPassed s (storeDrover s lot.part w lot) (storeData s r w lot).length
        && absAc s < storeDue r lot then some (r, w) else none

/-- The pen of a byte of a received lot: that of its row block (R334). -/
def recvPen (s : State) (k : Nat) (r : Run) (w : TileWord) (lot : LotRef) (i : Nat) : Nat :=
  physPen s k (transferRow r.prog w (65536 * lot.index + i) / 256 % max 1 r.prog.penCount)

/-- The rows of a received transfer go to the pens of their row blocks. -/
def fillPens (k : Nat) (r : Run) (w : TileWord) (lot : LotRef) (d : List (Nat × Byte)) (s : State) : State :=
  forAll (pensOf s k) (fun p => updPen p fun v =>
    { v with stage := spadPut (absAc s) ((d.zipIdx.filter fun e => recvPen s k r w lot e.2 == p).map (·.1)) v.stage }) s

/-- Write bytes that lie in one page of a RUN's memory. -/
def writeRun (r : Run) (va : Nat) (d : List Byte) (s : State) : State :=
  match runT1 s r va with
  | some pa => writeT1 pa d s
  | none => s

/-- Close a word's store work at a drover once its last store lot has been read out; a receive buffer is then free (R32, R335). -/
def closeStores (k j d : Nat) (w : TileWord) (s : State) : State :=
  match (s.part k).run with
  | none => s
  | some r =>
    if r.toStore.any fun l => l.instr == j && storeDrover s k w l == d then s
    else
      let t := syncDrovers k (updRun k (fun x => { x with opened := x.opened.filter fun o => o != (j, d) }) s)
      if w.opcode = opRecv then updGate (d - 144) (fun v =>
        { v with recvs := v.recvs.filter fun h => !(h.part == k && h.instr == j) }) t else t

/-- Read a store lot out: its bytes reach T1, and its sectors enter the write queues 12 ac later, 10 from a gate (R64, log 30). A
collision of a DIRECT receive's fill is a hazard (R22). -/
def storeLot (r : Run) (w : TileWord) (lot : LotRef) (collision : Bool) (s : State) : State :=
  let d := storeData s r w lot
  let dr := storeDrover s lot.part w lot
  let at_ := absAc s + (if dr < 128 then 12 else 10)
  let t := if toPens w then fillPens lot.part r w lot d s
    else forAll (storeSectors s r d) (fun a => postReq ⟨a, true, at_ + 4096, droverRank dr, at_, lot⟩)
      (forAll (byteRuns d) (fun e u => writeRun r e.1 e.2 u) s)
  let u := closeStores lot.part lot.instr dr w
    (updRun lot.part (fun x => { x with toStore := x.toStore.filter (· != lot) }) (countLot dr lot.instr t))
  if collision && toPens w then hazard lot.part (recvPen s lot.part r w lot 0) u else u

/-! ## Deadlines (R34, R68, R71) -/

/-- The ac at which the next round issues (R68, R125, R128). -/
def nextIssue (r : Run) : Nat :=
  match wordAt r r.nextInstr with
  | none => 0
  | some w =>
    if r.nextRound = 0 then max (nominalAc r w.issue) (occupancy r.prog r.nextInstr w r.portFree r.rowFree) else r.nextAt

/-- The steps that have issued or are next, with their issue ac and whether the attempt is an assay attempt. -/
def openSteps (r : Run) : List (Nat × Nat × Nat × Bool) :=
  r.flight.map (fun x => (x.instr, x.round, x.issue, x.assay)) ++
    match r.replay, wordAt r r.nextInstr with
    | some y, _ => [(y.instr, y.round, y.issue, y.assay)]
    | none, some w => if r.decodeStop = some r.nextInstr then [] else [(r.nextInstr, r.nextRound, nextIssue r, w.assay)]
    | none, none => []

/-- The deadline of a lot of a step that has issued or is next, at the attempt's rate; RW, MV and SY words have one step. -/
def lotDue (r : Run) (w : TileWord) (x : LotPlan) : Option Nat :=
  let n := if isSlotted w then x.lot.round else 0
  ((openSteps r).find? fun e => e.1 == x.lot.instr && e.2.1 == n).map fun e =>
    e.2.2.1 + (if isSlotted w then 0 else planRound r.prog w x)
      + dueOffset r.prog { w with assay := w.assay || e.2.2.2 } x - mangerLead x

/-- The deadlines of a partition's incomplete lots of those steps, with their drovers. -/
def lotDues (s : State) (k : Nat) (r : Run) : List (Nat × Nat) :=
  (openSteps r).flatMap fun e => match wordAt r e.1 with
    | none => []
    | some w => ((lotPlans s k r e.1 w).filter fun x => !r.placed.contains x.lot && (!isSlotted w || x.lot.round == e.2.1)).filterMap
        fun x => (lotDue r w x).map fun n => (n, x.drover)

/-- The ac at which a reissue, or else the next round, issues, when there is one. -/
def issueDue (r : Run) : Option Nat :=
  match r.replay with
  | some y => some y.issue
  | none => if r.nextInstr < r.prog.nWords && r.decodeStop != some r.nextInstr then some (nextIssue r) else none

/-- The ac of the next verdict (R103, R128). -/
def verdictAt (r : Run) : Option Nat := r.flight.head?.map fun x => max x.verdict r.lastCommit

/-- The first anchored instruction that has not issued, when it can no longer issue at its nominal ac (R70, R71). -/
def lateAnchor (r : Run) : Option (TileWord × Nat) :=
  let first := if r.nextRound = 0 then r.nextInstr else r.nextInstr + 1
  (((r.prog.words.drop first).find? anchored).map fun w => (w, nominalAc r w.issue)).bind fun e =>
    if (r.decodeStop.all fun j => ((r.prog.words.take j).drop first).any anchored) && (issueDue r).any (e.2 < ·) then some e else none

/-- The oldest slot of a pen that drains, or will when its step ends: the next to drain, with its number. -/
def drainingSlot (q : Pen) : Option (Nat × Slot) :=
  (q.slots.filter fun e => e.2.st == .draining).foldl (fun m e => match m with
    | none => some e
    | some x => if e.2.instr < x.2.instr || (e.2.instr == x.2.instr && e.2.round < x.2.round) then some e else some x) none

/-- The ac at which a committed slot's drain is over: 256 after the later of its step end and the end of the drain before (R17, R62). -/
def drainOver (p : Pen) (q : Slot) : Nat := max q.endAt p.drainEnd + 256

/-- The ends of the drains of a partition's committed slots. -/
def drainDues (s : State) (k : Nat) : List Nat :=
  (enabledPens s k).filterMap fun p => (drainingSlot (s.pen p)).map fun e => drainOver (s.pen p) e.2

/-- Nothing of a kind is due before an ac; nothing is due up to an ac. -/
def noneBefore (n : Nat) (l : List Nat) : Bool := l.all (n ≤ ·)
def noneUpTo (n : Nat) (l : List Nat) : Bool := l.all (n < ·)

/-- What a partition's exact events are due at: verdicts, issues, slips of anchors, lots, and drains. The events of a partition take
place in the order of their ac. -/
structure Dues where
  verdicts : List Nat
  issues : List Nat
  anchors : List Nat
  lots : List Nat
  drains : List Nat

def duesOf (s : State) (k : Nat) (r : Run) : Dues :=
  if slips (s.part k) r then
    ⟨(verdictAt r).toList, (issueDue r).toList, ((lateAnchor r).map (·.2)).toList, (lotDues s k r).map (·.1), drainDues s k⟩
  else ⟨[], [], [], [], drainDues s k⟩

/-- A verdict takes place when nothing else is due before it; a slip that is due in its ac takes its place (R71, R72). -/
def verdictTurn (n : Nat) (d : Dues) : Bool :=
  noneBefore n d.issues && noneBefore n d.anchors && noneBefore n d.lots && noneBefore n d.drains

/-- An issue takes place after every verdict, drain and late lot up to its ac. -/
def issueTurn (n : Nat) (d : Dues) : Bool :=
  noneUpTo n d.verdicts && d.anchors.isEmpty && noneUpTo n d.lots && noneUpTo n d.drains

/-- An anchored instruction slips at its nominal ac, ahead of a lot that is late in the same ac (R71). -/
def anchorTurn (n : Nat) (d : Dues) : Bool := noneUpTo n d.verdicts && noneBefore n d.lots && noneBefore n d.drains

/-- A lot is late when nothing is due before its deadline. -/
def lateTurn (n : Nat) (d : Dues) : Bool :=
  noneUpTo n d.verdicts && noneBefore n d.issues && noneUpTo n d.anchors && noneBefore n d.lots && noneBefore n d.drains

/-- A drain ends when nothing is due before. -/
def drainTurn (n : Nat) (d : Dues) : Bool :=
  noneBefore n d.verdicts && noneBefore n d.issues && noneBefore n d.anchors && noneBefore n d.lots

/-- Whether a beat may end in a partition: nothing of its RUN is due in it. -/
def beatDone (s : State) (k : Nat) : Bool :=
  match (s.part k).run with
  | none => true
  | some r =>
    let n := 65000 * (s.clock.beat + 1)
    let d := duesOf s k r
    noneBefore n d.verdicts && noneBefore n d.issues && noneBefore n d.anchors && noneBefore n d.lots && noneBefore n d.drains

/-! ## Lots that complete, and late lots (R34, R71) -/

/-- A lot can be placed: its drover is at it, its sectors are here, its place is free, it has passed its port, and it is not late. -/
def lotReady (s : State) (lot : LotRef) : Option (Run × TileWord × LotPlan) :=
  (s.part lot.part).run.bind fun r => (wordAt r lot.instr).bind fun w => (planOf s r w lot).bind fun x =>
    if droversRun s lot.part && r.opened.contains (lot.instr, x.drover) && r.posted.contains lot && !r.placed.contains lot
        && allArrived s r w x && placeFree s r w x && droverInOrder s lot.instr x.drover
        && portPassed s x.drover (planBytes r.prog w x).length && (lotDue r w x).all (absAc s < ·) then some (r, w, x) else none

def execLotComplete (lot : LotRef) (collision : Bool) (s : State) : Result State :=
  if lot.role = .store then
    match storeReady s lot with
    | some (r, w) => .next (storeLot r w lot collision s)
    | none => .fault (.notEnabled "LOT_COMPLETE")
  else
    match lotReady s lot with
    | some (r, w, x) => .next (loadLot r w x collision s)
    | none => .fault (.notEnabled "LOT_COMPLETE")

/-- The deadline of a lot that is not complete, with its drover, when nothing is due before it. -/
def lotOverdue (s : State) (lot : LotRef) : Option (Nat × Nat) :=
  (s.part lot.part).run.bind fun r => (wordAt r lot.instr).bind fun w =>
    if !slips (s.part lot.part) r then none
    else if lot.role = .store then
      if r.toStore.contains lot then some (storeDue r lot, storeDrover s lot.part w lot) else none
    else (planOf s r w lot).bind fun x =>
      if r.placed.contains lot then none
      else (lotDue r w x).bind fun n => if lateTurn n (duesOf s lot.part r) then some (n, x.drover) else none

/-- LATE of the drover and of its pen, and the slip. A weight or gate lot serves no single pen, and sets no pen's LATE (DESIGN CHOICE,
log 58). -/
def lotLate (k n d : Nat) (s : State) : State :=
  let t := updDrover d (fun v => { v with late := true }) (moveTo n s)
  slip k slipLotLate (if d < 128 then updPen (d % 64) (fun v => { v with late := true }) t else t)

def execLotLate (lot : LotRef) (s : State) : Result State :=
  match lotOverdue s lot with
  | some (n, d) => event "LOT_LATE" (acCome n s) (lotLate lot.part n d s)
  | none => .fault (.notEnabled "LOT_LATE")

end Sys2Proof.Machine
end

