-- ==== Sys2Proof/Machine/Functions.lean ====
section
/-! DEFINITION. The mathematical functions of the row unit (R173 to R178): exact results where a function has one, and otherwise
1,100-bit fixed-point values below the true one, rounded once (log 36). -/

namespace Sys2Proof.Machine

/-! ## Fixed point -/

/-- Fraction bits of the fixed-point values. -/
def fixBits : Nat := 1100
def fixOne : Int := (2 : Int) ^ fixBits

def fixMul (a b : Int) : Int := a * b / fixOne
def fixDiv (a b : Int) : Int := a * fixOne / b

/-- m · 2^e as a fixed-point value. -/
def fixOf (m : Int) (e : Int) : Int :=
  if 0 ≤ e + fixBits then m * (2 : Int) ^ (e + fixBits).toNat else m / (2 : Int) ^ (-(e + fixBits)).toNat

/-- A finite number as a fixed-point value. -/
def fixNum : Num → Int
  | .fin s m e => fixOf (if s then -(m : Int) else m) e
  | _ => 0

/-- Sum of a series whose next term the function gives from the present one and its index. -/
def series (next : Nat → Int → Int) : Nat → Nat → Int → Int → Int
  | 0, _, _, acc => acc
  | fuel + 1, n, t, acc => series next fuel (n + 1) (next n t) (acc + t)

/-- The inverse hyperbolic tangent of a fixed-point value of magnitude at most 1/3. -/
def fixAtanh (z : Int) : Int :=
  let q := fixMul z z
  (List.range 400).foldl (fun (a : Int × Int) n => (fixMul a.1 q, a.2 + a.1 / (2 * n + 1 : Nat))) (z, 0) |>.2

/-- The inverse tangent of 1 / n. -/
def fixAtanInv (n : Nat) : Int :=
  (List.range 800).foldl (fun (a : Int × Int) k =>
    (-(a.1 / ((n * n : Nat) : Int)), a.2 + a.1 / ((2 * k + 1 : Nat) : Int))) (fixOne / (n : Int), 0) |>.2

def fixPi : Int := 4 * (4 * fixAtanInv 5 - fixAtanInv 239)
def fixLn2 : Int := 2 * fixAtanh (fixOne / 3)

/-- e^z for a fixed-point value of magnitude at most 1. -/
def fixExpSmall (z : Int) : Int := series (fun n t => fixMul t z / ((n + 1 : Nat) : Int)) 250 0 fixOne 0

/-- e^z as a significand and an exponent of 2. -/
def fixExp (z : Int) : Int × Int :=
  let i := z / fixLn2
  (fixExpSmall (z - i * fixLn2), i)

/-- sin z and cos z for a fixed-point value of magnitude at most 4. -/
def fixSin (z : Int) : Int :=
  series (fun n t => -(fixMul (fixMul t z) z / (((2 * n + 2) * (2 * n + 3) : Nat) : Int))) 250 0 z 0
def fixCos (z : Int) : Int :=
  series (fun n t => -(fixMul (fixMul t z) z / (((2 * n + 1) * (2 * n + 2) : Nat) : Int))) 250 0 fixOne 0

/-- erf z for a fixed-point value of magnitude at most 8. -/
def fixErf (z : Int) : Int :=
  let q := fixMul z z
  let s := (List.range 700).foldl (fun (a : Int × Int) n =>
    (-(fixMul a.1 q / ((n + 1 : Nat) : Int)), a.2 + a.1 / ((2 * n + 1 : Nat) : Int))) (z, 0) |>.2
  fixDiv (2 * s) ((Nat.sqrt (fixPi.toNat * 2 ^ fixBits) : Nat) : Int)

/-! ## Real results -/

/-- The result of a function before its rounding: a number that is exact, or a value strictly between a significand and the next,
sign · (m, m + 1) · 2^e. -/
inductive Real where
  | exact (x : Num)
  | between (neg : Bool) (m : Nat) (e : Int)
  deriving DecidableEq, Repr

/-- A fixed-point value scaled by 2^e, as a real that is not exact. -/
def realOf (z : Int) (e : Int) : Real := .between (z < 0) z.natAbs (e - fixBits)

/-- The number that rounds as a real does: a bit below the significand stands for the rest. -/
def stickyNum : Real → Num
  | .exact x => x
  | .between s m e => .fin s (2 * m + 1) (e - 1)

/-- A real rounded once into a format; a finite value beyond the largest magnitude gives that magnitude (R174). -/
def roundReal (f : FloatFmt) (r : Real) : Num := roundNum f true (stickyNum r)

/-! ## The functions (R173 to R178) -/

/-- Whether a finite number is an integer, and that integer. -/
def asInteger : Num → Option Int
  | .fin s m e =>
    if m = 0 then some 0
    else
      let a : Option Nat := if 0 ≤ e then some (m * 2 ^ e.toNat) else if m % 2 ^ (-e).toNat = 0 then some (m / 2 ^ (-e).toNat) else none
      a.map fun n => if s then -(n : Int) else n
  | _ => none

/-- 2^x for a finite x; beyond every format's range the magnitude alone matters. -/
def realExp2 (x : Num) : Real :=
  match asInteger x with
  | some z => if 4096 < z then .exact (.fin false 1 4096) else if z < -4096 then .between false 0 (-4096) else .exact (.fin false 1 z)
  | none =>
    if numLt (.fin false 1 12) (numAbs x) then (if isNeg x then .between false 0 (-4096) else .exact (.fin false 1 4096))
    else
      let z := fixNum x
      let i := z / fixOne
      realOf (fixExpSmall (fixMul (z - i * fixOne) fixLn2)) i

def fnExp2 : Num → Real
  | .nan => .exact .nan
  | .inf true => .exact .zero
  | .inf false => .exact (.inf false)
  | x => realExp2 x

/-- log₂ of a positive finite number. -/
def realLog2 (m : Nat) (e : Int) : Real :=
  let l := m.log2
  if m = 2 ^ l then .exact (numOfInt ((l : Int) + e))
  else
    let y := fixOf m (-(l : Int))
    realOf (fixDiv (2 * fixAtanh (fixDiv (y - fixOne) (y + fixOne))) fixLn2 + ((l : Int) + e) * fixOne) 0

def fnLog2 : Num → Real
  | .nan => .exact .nan
  | .inf s => .exact (if s then .nan else .inf false)
  | .fin s m e => if m = 0 then .exact (.inf true) else if s then .exact .nan else realLog2 m e

/-- A ratio of naturals scaled by 2^e, with its sign. -/
def realRatio (neg : Bool) (a b : Nat) (e : Int) : Real :=
  let k := 2 * fixBits
  if a * 2 ^ k % b = 0 then .exact (.fin neg (a * 2 ^ k / b) (e - k)) else .between neg (a * 2 ^ k / b) (e - k)

def fnRecip : Num → Real
  | .nan => .exact .nan
  | .inf s => .exact (.fin s 0 0)
  | .fin s m e => if m = 0 then .exact (.inf s) else realRatio s 1 m (-e)

/-- The square root of m · 2^e, e made even. -/
def realSqrt (m : Nat) (e : Int) : Real :=
  let n := if e % 2 = 0 then m else 2 * m
  let f := if e % 2 = 0 then e else e - 1
  let a := n * 2 ^ (2 * fixBits)
  let q := Nat.sqrt a
  if q * q = a then .exact (.fin false q (f / 2 - fixBits)) else .between false q (f / 2 - fixBits)

def fnSqrt : Num → Real
  | .nan => .exact .nan
  | .inf s => .exact (if s then .nan else .inf false)
  | .fin s m e => if m = 0 then .exact (.fin s 0 0) else if s then .exact .nan else realSqrt m e

/-- 1 / √(m · 2^e): the root of the reciprocal, exact only when m is an even power of two. -/
def realRsqrt (m : Nat) (e : Int) : Real :=
  let n := if e % 2 = 0 then m else 2 * m
  let f := if e % 2 = 0 then e else e - 1
  let a := 2 ^ (4 * fixBits) / n
  let q := Nat.sqrt a
  if q * q * n = 2 ^ (4 * fixBits) then .exact (.fin false q (-(f / 2) - 2 * fixBits))
  else .between false q (-(f / 2) - 2 * fixBits)

def fnRsqrt : Num → Real
  | .nan => .exact .nan
  | .inf s => .exact (if s then .nan else .zero)
  | .fin s m e => if m = 0 then .exact (.inf s) else if s then .exact .nan else realRsqrt m e

/-- A fraction of a turn, φ · 2^-fixBits, as the angle in radians. -/
def turnAngle (phi : Int) : Int := fixMul (2 * phi) fixPi

/-- sin 2πφ for a phase in [−1/2, 1/2], exact at the quarter turns and at ±1/12 and ±5/12. -/
def sinPhase (negZero : Bool) (phi : Int) : Real :=
  if phi = 0 then .exact (.fin negZero 0 0)
  else if 2 * phi.natAbs = 2 ^ fixBits then .exact .zero
  else if 4 * phi.natAbs = 2 ^ fixBits then .exact (numOfInt (if phi < 0 then -1 else 1))
  else realOf (fixSin (turnAngle phi)) 0

/-- cos 2πφ for a phase in [−1/2, 1/2]. -/
def cosPhase (phi : Int) : Real :=
  if phi = 0 then .exact .one
  else if 2 * phi.natAbs = 2 ^ fixBits then .exact (numOfInt (-1))
  else if 4 * phi.natAbs = 2 ^ fixBits then .exact .zero
  else realOf (fixCos (turnAngle phi)) 0

/-- The phase of a number of turns: less its nearest integer (R177). -/
def turnPhase (x : Num) : Int :=
  let z := fixNum x
  z - (z + fixOne / 2) / fixOne * fixOne

def fnSinTurns : Num → Real
  | .fin s m e => sinPhase (s && m == 0) (turnPhase (.fin s m e))
  | _ => .exact .nan

def fnCosTurns : Num → Real
  | .fin s m e => cosPhase (turnPhase (.fin s m e))
  | _ => .exact .nan

/-- Radians reduced to [−π, π]. -/
def reduceAngle (x : Num) : Int :=
  let z := fixNum x
  let t := 2 * fixPi
  z - (z + fixPi) / t * t

def fnSin : Num → Real
  | .fin s m e => if m = 0 then .exact (.fin s 0 0) else realOf (fixSin (reduceAngle (.fin s m e))) 0
  | _ => .exact .nan

def fnCos : Num → Real
  | .fin s m e => if m = 0 then .exact .one else realOf (fixCos (reduceAngle (.fin s m e))) 0
  | _ => .exact .nan

/-- A value just below 1 in magnitude. -/
def nearOne (neg : Bool) : Real := .between neg (2 ^ 200 - 1) (-200)

def fnTanh : Num → Real
  | .nan => .exact .nan
  | .inf s => .exact (numOfInt (if s then -1 else 1))
  | .fin s m e =>
    if m = 0 then .exact (.fin s 0 0)
    else if numLt (.fin false 1 6) (.fin false m e) then nearOne s
    else
      let q := fixExp (2 * fixOf m e)
      let y := q.1 * (2 : Int) ^ q.2.toNat
      realOf (if s then -(fixDiv (y - fixOne) (y + fixOne)) else fixDiv (y - fixOne) (y + fixOne)) 0

def fnSigmoid : Num → Real
  | .nan => .exact .nan
  | .inf s => .exact (if s then .zero else .one)
  | .fin s m e =>
    if m = 0 then .exact (.fin false 1 (-1))
    else if numLt (.fin false 1 9) (.fin false m e) then (if s then .between false 0 (-600) else nearOne false)
    else
      let q := fixExp (if s then fixOf m e else -(fixOf m e))
      let y := if 0 ≤ q.2 then q.1 * (2 : Int) ^ q.2.toNat else q.1 / (2 : Int) ^ (-q.2).toNat
      realOf (fixDiv fixOne (fixOne + y)) 0

def fnErf : Num → Real
  | .nan => .exact .nan
  | .inf s => .exact (numOfInt (if s then -1 else 1))
  | .fin s m e =>
    if m = 0 then .exact (.fin s 0 0)
    else if numLt (.fin false 1 3) (.fin false m e) then nearOne s
    else
      let v := fixErf (fixOf m e)
      realOf (if s then -v else v) 0

/-- A unary function by its code (R173). -/
def unaryFn (code : Nat) (x : Num) : Real :=
  match code with
  | 0x01 => fnExp2 x
  | 0x02 => fnLog2 x
  | 0x03 => fnRecip x
  | 0x04 => fnSqrt x
  | 0x05 => fnRsqrt x
  | 0x06 => fnSin x
  | 0x07 => fnCos x
  | 0x08 => fnSinTurns x
  | 0x09 => fnCosTurns x
  | 0x0A => fnTanh x
  | 0x0B => fnSigmoid x
  | 0x0C => fnErf x
  | _ => .exact x

/-- 2^x rounded once to FP32 (R195). -/
def exp2Fp32 (x : Num) : Num := roundReal fmtFp32 (fnExp2 x)

/-- The phase of position mode: P · F mod 2^32, in units of 2^-32 turns, nearest to 0 (R178). -/
def positionPhase (p f : Nat) : Int :=
  let q : Int := (p * f % 2 ^ 32 : Nat)
  (if 2 ^ 31 < q then q - 2 ^ 32 else q) * (2 : Int) ^ (fixBits - 32)

/-- SIN_TURNS or COS_TURNS in position mode. -/
def positionFn (code p f : Nat) : Real :=
  if code = 0x08 then sinPhase false (positionPhase p f) else cosPhase (positionPhase p f)

end Sys2Proof.Machine
end

