-- ==== Sys2Proof/Machine/Cells.lean ====
section
/-! DEFINITION. The arithmetic of an MM, CV or CV.DW step on one pen: operands (R84, R88, R99 to R101, R154), the fast path (R93 to
R97, R156), assay mode (R112), and the trouble it finds (R102). -/

namespace Sys2Proof.Machine

/-! ## What a step reads on a pen -/

/-- The sources of a step's operands on one pen: the attempt's issue ac and mode, scratchpad elements of DA and the pen's side data by
the ac of the read and the address, the manger, the codebook bank, the column constants of s_c, the rescaled scales, and the sums D[n]
that the RUN was accepted with. -/
structure StepEnv where
  p : Program
  j : Nat
  w : TileWord
  rb : Nat
  lp : Nat
  runlen : Nat
  issue : Nat
  assay : Bool
  act : Nat → Nat → Byte
  side : Nat → Nat → Byte
  wts : Nat → Byte
  book : Table Word32
  colConst : Table Word32
  scales : Table Word32
  dead : List (Option (Int × Int))

def StepEnv.da (v : StepEnv) : Desc := Desc.at v.p v.w.da
def StepEnv.dc (v : StepEnv) : Desc := Desc.at v.p v.w.dc
def StepEnv.db (v : StepEnv) : Desc := broadcastDesc v.p v.j v.w

/-- What one pen's part of a step gives: new entries of its slot, its trouble, the clipped elements, the largest magnitude of each
row (R88), and for AT the block stages that rescaled and the last block. -/
structure PenResult where
  entries : Table Word32
  kinds : Nat
  nfRow : Nat
  nfCol : Nat
  lfGroup : Nat
  clips : Nat
  amax : List Num
  rescales : Nat
  deriving DecidableEq, Repr

/-! ## Operands -/

/-- The ac in which the operand port reads position i of the reduction (R14, R61). -/
def StepEnv.readAc (v : StepEnv) (i : Nat) : Nat :=
  v.issue + i * kacOf v.p v.j v.w v.assay / max 1 (reductionLen v.w)

/-- The bits of the activation of an output row at position i of the reduction. -/
def actBits (v : StepEnv) (row i : Nat) (q : RPos) : Nat :=
  let a := v.da
  let rd := v.act (v.readAc i)
  if isCv v.w then
    let x := inputCoord a (Desc.at v.p v.w.db) v.dc row q.tap
    if inPadding a x && a.padmode != 3 then padCode a
    else readBits rd (bitsOf a) (elemLoc a a.base q.ch (nearestCoord a x ((rowCoord v.dc row).getD 3 0)))
  else viewBits rd a row q.ch

/-- The staged per-token scale of a row, or its rescaled value (R84, R106). -/
def rowScale (v : StepEnv) (i : Nat) : Num :=
  match v.scales.find? fun e => e.1 == 256 * v.lp + i with
  | some e => num32 e.2
  | none =>
    if v.da.scaleA = 0 then .one
    else num32 (readWord (v.side v.issue) (elemLoc (Desc.at v.p v.da.scaleA) (Desc.at v.p v.da.scaleA).base (256 * v.rb + i) [0, 0, 0, 0]).addr)

/-- The nearest value of an 8-bit target, and whether the conversion saturates (R88). -/
def quantise (fmt : Nat) (scale x : Num) : Num × Bool :=
  let y := mul32 x (div32 .one scale)
  match floatOf fmt with
  | some f =>
    let z := roundNum f true y
    ((match z with
      | .inf s => if f.hasInf then .inf s else .nan
      | z => z), clips f y)
  | none => (numOfInt (toInt (-127) 127 y), match y with
      | .nan => false
      | y => toInt (-127) 127 y != toInt (-(2 : Int) ^ 140) ((2 : Int) ^ 140) y)

/-- Whether a conversion meets a NaN, from the element, its scale, or their product (R9, R102). -/
def quantNan (scale x : Num) : Bool := mul32 x (div32 .one scale) == .nan

/-- The valid ledger slots of the group at a row of the list, as channel offsets (R99). -/
def ledgerSlots (v : StepEnv) (g : Nat) : List Nat :=
  if v.db.ledgerList = 0 then []
  else (((List.range 4).map fun i => (v.side v.issue (rowLoc (Desc.at v.p v.db.ledgerList) g i).addr).toNat).takeWhile (128 ≤ ·)).map (· % 128)

/-- A group of at most 128 positions as one row sees it: the path's values, the ledger values by slot, which elements clipped, the
largest magnitude, and whether an operand is not finite. -/
structure RowGroup where
  acts : List Num
  ledger : List Num
  clipped : List Bool
  amax : Num
  bad : Bool

/-- Cut a list into pieces of n. -/
def pieces {α : Type} (n : Nat) (l : List α) : List (List α) :=
  (List.range (ceilDiv l.length n)).map fun i => (l.drop (i * n)).take n

/-- The groups of a word's reduction (R84, R95). -/
def kGroups (w : TileWord) : List (List RPos) := pieces 128 (reduction w)

def groupRowOf (v : StepEnv) (g : List RPos) : Nat :=
  match g with
  | q :: _ => groupRow v.w v.db q
  | [] => 0

/-- The ledger activation of a slot of the group that starts at position i: from the BF16 stream, or from LEDGER_ACT (R100). -/
def ledgerAct (v : StepEnv) (row grow slot off i : Nat) (g : List RPos) : Num :=
  if v.da.qmode = 1 then (match g[off]? with
    | some q => elemNum 0x0A (actBits v row (i + off) q)
    | none => .zero)
  else
    let d := Desc.at v.p v.db.ledgerAct
    elemNum d.format (readBits (v.side (v.readAc i)) (bitsOf d) (rowLoc d row (4 * grow + slot)))

/-- One row's values of a group that starts at a position of the reduction. -/
def rowGroup (v : StepEnv) (i : Nat) (g : List RPos) (at_ : Nat) : RowGroup :=
  let row := 256 * v.rb + i
  let slots := ledgerSlots v (groupRowOf v g)
  let raw := g.zipIdx.map fun e => (slots.contains e.2, elemNum v.da.format (actBits v row (at_ + e.2) e.1))
  let q := raw.map fun e =>
    if e.1 then (Num.zero, false)
    else if v.da.qmode = 1 then quantise (actFormat v.da) (rowScale v i) e.2 else (e.2, false)
  let led := slots.zipIdx.map fun e => ledgerAct v row (groupRowOf v g) e.2 e.1 at_ g
  { acts := q.map (·.1), ledger := led, clipped := q.map (·.2),
    amax := (raw.filter fun e => !e.1).foldl (fun m e => numMax m (numAbs e.2)) .zero,
    bad := raw.any (fun e => !e.1 && (!isFinite e.2 || (v.da.qmode == 1 && quantNan (rowScale v i) e.2)))
      || led.any fun x => !isFinite x }

/-- The layer's column of column n of the block. -/
def layerCol (v : StepEnv) (n : Nat) : Nat := columnBase v.p v.j v.w + 256 * v.w.cb + n

/-- The weight at a position for column n (R79, R80, R89, R158). -/
def weightNum (v : StepEnv) (n : Nat) (q : RPos) : Num :=
  let f := v.db
  match linearIndex v.w f (256 * v.w.cb + n) q with
  | none => .zero
  | some r =>
    let bits := readBits v.wts (bitsOf f) (tiledLoc f.format f.base (tiledLen f) (layerCol v n) r)
    if f.format = 0x04 then elemNum 0x07 (tget 0 v.book (4 * (n / 128) + bits)).toNat else elemNum f.format bits

/-- s_w of a group and column; 1.0 when absent. -/
def groupScale (v : StepEnv) (grow n : Nat) : Num :=
  if v.db.scaleW = 0 then .one else num32 (readWord v.wts (rowLoc (Desc.at v.p v.db.scaleW) grow (layerCol v n)).addr)

/-- The E8M0 scale of block b of a group and column. -/
def blockScale (v : StepEnv) (grow b n : Nat) : Num :=
  elemNum 0x0E (readBits v.wts 8 (rowLoc (Desc.at v.p v.db.bscale) (4 * grow + b) (layerCol v n)))

/-- The ledger weight of a slot and column. -/
def ledgerWeight (v : StepEnv) (grow slot n : Nat) : Num :=
  elemNum 0x07 (readBits v.wts 8 (rowLoc (Desc.at v.p v.db.ledgerW) (4 * grow + slot) (layerCol v n)))

/-- s_c of a column; 1.0 when absent. -/
def colScale (v : StepEnv) (n : Nat) : Num :=
  if isMac v.w && v.db.scaleC != 0 then num32 (tget 0 v.colConst (constKey v.j 0 n)) else .one

def isMx (v : StepEnv) : Bool := v.db.format == 0x06

/-- Whether the narrow adder is the integer one (R82). -/
def intPairing (wfmt afmt : Nat) : Bool := afmt == 0x07 && (wfmt ≤ 0x05 || wfmt == 0x07)

/-- The run length L (R95). -/
def runLength (mx : Bool) (runlen : Nat) : Nat := min (16 * 2 ^ runlen) (if mx then 32 else 128)

/-! ## The fast path -/

def intOf (x : Num) : Int := toInt (-(2 : Int) ^ 62) ((2 : Int) ^ 62) x

/-- An integer run: its sum, and whether it saturated (R93). -/
def intRun (l : List (Num × Num)) : Int × Bool :=
  l.foldl (fun a e =>
    let t := narrowInt a.1 (intOf e.1 * intOf e.2)
    (t.1, a.2 || t.2)) (0, false)

/-- A float run (R94). -/
def floatRun (l : List (Num × Num)) : Num := l.foldl (fun a e => narrowFloat a (numMul e.1 e.2)) .zero

/-- The group partial p and whether a run saturated; each float run is scaled by its block scale before promotion. -/
def groupPartial (int : Bool) (len : Nat) (scale : Nat → Num) (l : List (Num × Num)) : Num × Bool :=
  if int then
    let t := (pieces len l).foldl (fun a run => (a.1 + (intRun run).1, a.2 || (intRun run).2)) ((0 : Int), false)
    (numOfInt t.1, t.2)
  else ((pieces len l).zipIdx.foldl (fun a e => add32 a (numMul (scale (e.2 * len / 32)) (floatRun e.1))) .zero, false)

/-- A 16-bit reduction: every product goes straight into FP32 (R97). -/
def directSum (acc : Num) (l : List (Num × Num)) : Num := l.foldl (fun a e => add32 a (numMul e.1 e.2)) acc

/-- acc + s_w (s_a p + lg 2^-LS), every operation rounded to FP32 (R84). -/
def groupStep (acc sw sa p lg : Num) (ls : Nat) : Num :=
  add32 acc (mul32 sw (add32 (mul32 sa p) (mul32 lg (.fin false 1 (-(ls : Int))))))

/-- The ledger partial of a group (R100). -/
def ledgerPartial (v : StepEnv) (grow n : Nat) (led : List Num) : Num :=
  led.zipIdx.foldl (fun a e => add32 a (numMul (ledgerWeight v grow e.2 n) e.1)) .zero

def satInt32 (z : Int) : Int := max (-2147483648) (min 2147483647 z)

/-- D[n] as the shepherd forms it at the RUN's acceptance (R156): exact. -/
def deadSum (v : StepEnv) (n : Nat) : Num :=
  if !isCv v.w then .zero
  else
    let x := elemNum v.da.format (padCode v.da)
    (droppedTaps v.da (Desc.at v.p v.w.db) v.dc v.w).foldl (fun a t =>
      (List.range v.w.k).foldl (fun a i =>
        let q : RPos := ⟨t, chanStart v.w + i⟩
        numAdd a (numMul (groupScale v (groupRow v.w v.db q) n) (numMul x (weightNum v n q)))) a) .zero

/-- A sum D[n] as the RUN holds it, and read back. -/
def holdNum : Num → Option (Int × Int)
  | .fin s m e => some (if s then -(m : Int) else m, e)
  | _ => none
def heldNum : Option (Int × Int) → Num
  | some (z, e) => .fin (z < 0) z.natAbs e
  | none => .nan

/-- Whether a word drops dead taps, and its term for a column. -/
def hasDead (v : StepEnv) : Bool := !v.dead.isEmpty
def deadTerm (v : StepEnv) (n : Nat) : Num := heldNum (v.dead.getD n none)

/-- An entry after a fast step: its value and whether a narrow adder saturated. -/
def fastEntry (v : StepEnv) (sa : Num) (row : List (RowGroup × List RPos)) (n : Nat) (start : Word32) : Word32 × Bool :=
  let pairs (e : RowGroup × List RPos) : List (Num × Num) := e.1.acts.zip (e.2.map (weightNum v n))
  let len := runLength (isMx v) v.runlen
  if intSlot v.p v.j v.w then
    let t := row.foldl (fun (a : Int × Bool) e =>
      let g := groupPartial true len (fun _ => .one) (pairs e)
      (satInt32 (a.1 + intOf g.1), a.2 || g.2)) (start.toInt, false)
    (BitVec.ofInt 32 (if hasDead v then satInt32 (t.1 + intOf (deadTerm v n)) else t.1), t.2)
  else if is16 v.db.format then
    let t := row.foldl (fun a e => directSum a (pairs e)) (num32 start)
    (bits32 (if hasDead v then add32 t (mul32 sa (fp32 (deadTerm v n))) else t), false)
  else
    let t := row.foldl (fun (a : Num × Bool) e =>
      let grow := groupRowOf v e.2
      let g := groupPartial (intPairing v.db.format (actFormat v.da)) len
        (fun b => if isMx v then blockScale v grow b n else .one) (pairs e)
      (groupStep a.1 (groupScale v grow n) sa g.1 (ledgerPartial v grow n e.1.ledger) v.db.ls, a.2 || g.2)) (num32 start, false)
    (bits32 (if hasDead v then add32 t.1 (mul32 sa (fp32 (deadTerm v n))) else t.1), t.2)

/-! ## Assay mode (R112) -/

/-- The exact terms of one group. -/
def exactGroup (v : StepEnv) (sa : Num) (n : Nat) (acc : Num) (e : RowGroup × List RPos) : Num :=
  let grow := groupRowOf v e.2
  let sw := groupScale v grow n
  let s := if is16 v.db.format then Num.one else numMul sa sw
  let a1 := (e.1.acts.zip e.2).zipIdx.foldl (fun a x =>
    let b := if isMx v then blockScale v grow (x.2 / 32) n else .one
    numAdd a (numMul (numMul s b) (numMul (weightNum v n x.1.2) x.1.1))) acc
  e.1.ledger.zipIdx.foldl (fun a x =>
    numAdd a (numMul (numMul sw (.fin false 1 (-(v.db.ls : Int)))) (numMul (ledgerWeight v grow x.2 n) x.1))) a1

def assayEntry (v : StepEnv) (sa : Num) (row : List (RowGroup × List RPos)) (n : Nat) (start : Word32) : Word32 :=
  let int := intSlot v.p v.j v.w
  let t := row.foldl (exactGroup v sa n) (if int then numOfInt start.toInt else num32 start)
  let u := if hasDead v then numAdd t (numMul (if int then .one else sa) (deadTerm v n)) else t
  if int then BitVec.ofInt 32 (toInt (-2147483648) 2147483647 u) else bits32 (fp32 u)

/-! ## A step on a pen -/

/-- Whether an accumulator entry is a NaN or an infinity. -/
def notFinite (isInt : Bool) (x : Word32) : Bool := !isInt && !isFinite (num32 x)

/-- The groups in which declared and clipped channels are more than 4 (R102), counted from the word's first group (DESIGN CHOICE for
LF_GROUP of R109 when KOFF is not 0, log 61). -/
def fullGroups (v : StepEnv) (gs : List (List RPos)) (rows : List (List RowGroup)) : List Nat :=
  (gs.zipIdx.filter fun e =>
    let hit := (List.range e.1.length).filter fun i => rows.any fun r => match r[e.2]? with
      | some x => x.clipped.getD i false
      | none => false
    4 < (ledgerSlots v (groupRowOf v e.1)).length + hit.length).map (·.2)

def clipCount (rows : List (List RowGroup)) : Nat :=
  (rows.map fun r => (r.map fun g => (g.clipped.filter (· == true)).length).sum).sum

/-- Trouble kinds 1 to 3 of R102. -/
def softKinds (sat : Bool) (full : List Nat) (clips limit : Nat) : Nat :=
  (if sat then kindNarrowSat else 0) + (if full.isEmpty then 0 else kindLedgerFull)
    + (if limit != 0xFFFF_FFFF && limit < clips then kindClipExcess else 0)

/-- An MM, CV or CV.DW step on one pen, from the restore values of its slot. A non-finite activation, scale or ledger value of a row is
reported at column 0 of it, and a non-finite s_c at the first valid row (DESIGN CHOICE, log 60). -/
def macStep (v : StepEnv) (assay : Bool) (start : Table Word32) : PenResult :=
  let gs := kGroups v.w
  let nr := validRows v.dc v.rb
  let nc := validCols v.dc v.w.cb
  let isInt := intSlot v.p v.j v.w
  let rows := (List.range nr).map fun i => gs.zipIdx.map fun g => rowGroup v i g.1 (128 * g.2)
  let rowBad := (List.range nr).map fun i => !isFinite (rowScale v i)
  let out := (rows.zipIdx.flatMap fun r => (List.range nc).map fun n =>
    let st := tget 0 start (256 * r.2 + n)
    let sa := rowScale v r.2
    let e := if assay then (assayEntry v sa (r.1.zip gs) n st, false) else fastEntry v sa (r.1.zip gs) n st
    (256 * r.2 + n, e))
  let colBad := (List.range nc).map fun n => !isFinite (colScale v n)
  let bad := out.zipIdx.find? fun e =>
    ((rows.getD (e.2 / max 1 nc) []).any (·.bad)) || rowBad.getD (e.2 / max 1 nc) false || colBad.getD (e.2 % max 1 nc) false || notFinite isInt e.1.2.1
  let full := if assay || v.da.qmode = 0 then [] else fullGroups v gs rows
  let clips := if assay then 0 else clipCount rows
  { entries := (out.map fun e => (e.1, e.2.1)).filter fun e => e.2 != 0
    kinds := (if assay then 0 else softKinds (out.any fun e => e.2.2) full (if v.da.qmode = 0 then 0 else clips)
        (if v.da.qmode = 0 then 0xFFFF_FFFF else v.da.clipLimit)) + (if bad.isSome then kindNonFinite else 0)
    nfRow := (bad.map (·.2 / max 1 nc)).getD 0
    nfCol := (bad.map (·.2 % max 1 nc)).getD 0
    lfGroup := full.headD 0
    clips := clips
    amax := rows.map fun r => (r.foldl (fun m g => numMax m g.amax) .zero)
    rescales := 0 }

/-- The scales after a rescale (R106): a row whose largest magnitude is 0 keeps its own. -/
def rescaled (v : StepEnv) (amax : List Num) : List (Nat × Word32) :=
  if v.da.qmode = 0 then []
  else amax.zipIdx.filterMap fun e =>
    if isZero e.1 then none
    else
      let q := match actFormat v.da with
        | 0x08 => numOfInt 448
        | 0x09 => numOfInt 57344
        | _ => numOfInt 127
      some (256 * v.lp + e.2, bits32 (div32 e.1 q))

/-! ## The drain (R168) -/

/-- A drained FP32 entry: s_c applied, saturating; INT32 passes. -/
def drainNum (v : StepEnv) (n : Nat) (x : Word32) : Num :=
  if intSlot v.p v.j v.w then numOfInt x.toInt else roundNum fmtFp32 true (numMul (num32 x) (colScale v n))

end Sys2Proof.Machine
end

