-- ==== Sys2Proof/Machine/Attention.lean ====
section
/-! DEFINITION. The arithmetic of an AT round on one pen: scores (R194), the block stage (R195), PV, the assay reference (R203, R204),
and the drain (R196). -/

namespace Sys2Proof.Machine

/-- One level of the pairwise tree (R185). -/
def treeLevel : List Num → List Num
  | a :: b :: t => add32 a b :: treeLevel t
  | l => l

/-- The fixed tree over 256 lanes: masked lanes enter as +0. -/
def treeSum (l : List Num) : Num :=
  let v := l ++ List.replicate (256 - l.length) .zero
  ((List.range 8).foldl (fun t _ => treeLevel t) v).headD .zero

/-- maximum of IEEE 754-2019: a NaN operand gives NaN, +0 exceeds −0 (R173). -/
def ieeeMax (a b : Num) : Num :=
  if a = .nan || b = .nan then .nan else if isZero a && isZero b then (if isNeg a then b else a) else numMax a b
def ieeeMin (a b : Num) : Num :=
  if a = .nan || b = .nan then .nan else if isZero a && isZero b then (if isNeg a then a else b) else numMin a b

/-- The running state of a query row: its maximum, its sum, and its partial output (R193). -/
structure AttnRow where
  m : Num
  l : Num
  o : List Num
  deriving DecidableEq, Repr

def AttnRow.fresh : AttnRow := ⟨.inf true, .zero, List.replicate 128 .zero⟩

/-- A row of a slot, and a row put back. -/
def attnRow (t : Table Word32) (i : Nat) : AttnRow :=
  ⟨num32 (tget 0 t (256 * i + 128)), num32 (tget 0 t (256 * i + 129)),
   (List.range 128).map fun d => num32 (tget 0 t (256 * i + d))⟩
def attnEntries (i : Nat) (r : AttnRow) : List (Nat × Word32) :=
  ((r.o ++ [r.m, r.l]).zipIdx.map fun e => (256 * i + e.2, bits32 e.1)).filter fun e => e.2 != 0

/-! ## Operands -/

/-- AT keys and values come from the page's own descriptor. -/
def StepEnv.kv (v : StepEnv) : Desc := Desc.at v.p v.w.db

/-- σ_K (0) or σ_V (1) (R194). -/
def sigma (v : StepEnv) (i : Nat) : Num :=
  if v.kv.scaleW = 0 then .one
  else num32 (readWord (v.side v.issue) (elemLoc (Desc.at v.p v.kv.scaleW) (Desc.at v.p v.kv.scaleW).base i [0, 0, 0, 0]).addr)

def keyNum (v : StepEnv) (key e : Nat) : Num :=
  elemNum v.kv.format (readBits v.wts (bitsOf v.kv) (kvLoc v.kv.format v.kv.base false key e))
def valueNum (v : StepEnv) (key d : Nat) : Num :=
  elemNum v.kv.format (readBits v.wts (bitsOf v.kv) (kvLoc v.kv.format v.kv.base true key d))

/-- The P format (R192). -/
def probFmt (v : StepEnv) : FloatFmt := if v.kv.format = 0x0A then fmtBf16 else if v.kv.format = 0x0B then fmtFp16 else fmtE4m3

/-- A group's products, summed as the pairing has it; 16-bit pairings sum into FP32 (log 38). -/
def pairSum (v : StepEnv) (l : List (Num × Num)) : Num :=
  if is16 v.kv.format then directSum .zero l else (groupPartial false (runLength false v.runlen) (fun _ => .one) l).1

/-- A query row as the cells take it: values and clips. Its elements are read during the QKᵀ of the round's first block. -/
def queryRow (v : StepEnv) (i : Nat) : RowGroup :=
  let at_ (e : Nat) : Nat := v.issue + e * atKd v.p v.w v.assay / 128
  let raw := (List.range 128).map fun e => elemNum v.da.format (viewBits (v.act (at_ e)) (unpadded v.da) (256 * v.rb + i) e)
  let q := raw.map fun x => if v.da.qmode = 1 then quantise (actFormat v.da) (rowScale v i) x else (x, false)
  { acts := q.map (·.1), ledger := [], clipped := q.map (·.2), amax := raw.foldl (fun m x => numMax m (numAbs x)) .zero,
    bad := raw.any (fun x => !isFinite x || (v.da.qmode == 1 && quantNan (rowScale v i) x)) || !isFinite (rowScale v i) }

/-- Whether a key is visible to a row of the block (R200). -/
def rowSees (v : StepEnv) (i key : Nat) : Bool := sees v.w v.da v.kv (256 * v.rb + i) key

/-- The visible keys of a key block for a row. -/
def keysOf (v : StepEnv) (i k : Nat) : List Nat := ((List.range 256).map (256 * k + ·)).filter (rowSees v i)

/-! ## The fast path -/

def fastScore (v : StepEnv) (q : List Num) (sa : Num) (key : Nat) : Num :=
  groupStep .zero (sigma v 0) sa (pairSum v (q.zip ((List.range 128).map (keyNum v key)))) .zero 0

/-- One block of one row: the stage of R195 and PV. The flags: a below 1, and a value that is not finite. -/
def fastBlock (v : StepEnv) (i : Nat) (q : List Num) (sa : Num) (k : Nat) (x : AttnRow × Nat × Bool) : AttnRow × Nat × Bool :=
  let s := (keysOf v i k).map fun key => (key, fastScore v q sa key)
  let mn := s.foldl (fun m e => ieeeMax m e.2) x.1.m
  let none_ : Bool := mn = .inf true
  let a := if none_ then Num.one else exp2Fp32 (sub32 x.1.m mn)
  let p (key : Nat) : Num :=
    match s.find? fun e => e.1 == key with
    | some e => if none_ then .zero else roundReal (probFmt v) (fnExp2 (sub32 e.2 mn))
    | none => .zero
  let ps := (List.range 256).map fun j => p (256 * k + j)
  let l := add32 (mul32 a x.1.l) (treeSum ps)
  let o := x.1.o.zipIdx.map fun e =>
    (pieces 128 (ps.zipIdx)).foldl (fun acc g =>
      groupStep acc (sigma v 1) .one (pairSum v (g.map fun pj =>
        (pj.1, if rowSees v i (256 * k + pj.2) then valueNum v (256 * k + pj.2) e.2 else .zero))) .zero 0) (mul32 a e.1)
  (⟨mn, l, o⟩, x.2.1 ||| (if numLt a .one then 1 else 0),
   x.2.2 || s.any (fun e => !isFinite e.2) || !isFinite a || !isFinite l || o.any fun z => !isFinite z)

/-! ## The assay reference -/

def exactScore (v : StepEnv) (q : List Num) (sa : Num) (key : Nat) : Num :=
  let s := numMul sa (sigma v 0)
  fp32 ((q.zip ((List.range 128).map (keyNum v key))).foldl (fun a e => numAdd a (numMul s (numMul e.2 e.1))) .zero)

/-- A row over all issued blocks: the exact sums of pass 2, before any rounding. Visible scores that all round to −∞ are not finite, and
neither are their p* (R202, R203). -/
def assayRow (v : StepEnv) (i : Nat) (q : List Num) (sa : Num) (blocks : List Nat) (x : AttnRow) : AttnRow × Bool :=
  let s := (blocks.flatMap (keysOf v i)).map fun key => (key, exactScore v q sa key)
  let mn := s.foldl (fun m e => ieeeMax m e.2) x.m
  if mn = .inf true then (x, !s.isEmpty)
  else
    let al := exp2Fp32 (sub32 x.m mn)
    let ps := s.map fun e => (e.1, exp2Fp32 (sub32 e.2 mn))
    let l := ps.foldl (fun a e => numAdd a e.2) (numMul al x.l)
    let o := x.o.zipIdx.map fun e =>
      ps.foldl (fun a z => numAdd a (numMul z.2 (numMul (sigma v 1) (valueNum v z.1 e.2)))) (numMul al e.1)
    (⟨mn, l, o⟩, s.any fun e => !isFinite e.2)

/-- How an assay row rests in its slot: a held row rounded once; a row that drains holds its quotient, rounded once, over a sum of 1
(R203, R204). -/
def restRow (hold : Bool) (x : AttnRow) : AttnRow :=
  if hold then ⟨fp32 x.m, fp32 x.l, x.o.map fp32⟩
  else if isZero x.l then ⟨x.m, .zero, x.o.map fun _ => .zero⟩
  else ⟨x.m, .one, x.o.map fun z => div32 z x.l⟩

/-! ## A round on a pen -/

/-- An AT round on one pen over its issued blocks, from the restore values of its slot. A round that issues no block reads nothing, and
finds no trouble (R201). -/
def atStep (v : StepEnv) (assay : Bool) (blocks : List Nat) (start : Table Word32) : PenResult :=
  let nr := validRows v.dc v.rb
  let qs := (List.range nr).map (queryRow v)
  let rows := qs.zipIdx.map fun e =>
    let x := if v.w.cont then attnRow start e.2 else AttnRow.fresh
    let sa := rowScale v e.2
    if assay then
      let t := assayRow v e.2 e.1.acts sa blocks x
      (restRow v.w.hold t.1, 0, t.2)
    else blocks.foldl (fun (t : AttnRow × Nat × Bool) k =>
      let u := fastBlock v e.2 e.1.acts sa k (t.1, 0, t.2.2)
      (u.1, if u.2.1 = 1 then t.2.1 ||| 2 ^ (k - v.w.koff) else t.2.1, u.2.2)) (x, 0, false)
  let scaleBad : Bool := !isFinite (sigma v 0) || !isFinite (sigma v 1)
  let bad := if blocks.isEmpty then none else ((List.range nr).find? fun i => match rows[i]?, qs[i]? with
    | some r, some q => scaleBad || q.bad || r.2.2 || !isFinite r.1.l || r.1.o.any (fun z => !isFinite z)
        || (!v.w.hold && !isZero r.1.l && r.1.o.any fun z => !isFinite (div32 z r.1.l))
    | _, _ => false)
  let clips := if assay || v.da.qmode = 0 || blocks.isEmpty then 0 else clipCount (qs.map fun q => [q])
  { entries := rows.zipIdx.flatMap fun e => attnEntries e.2 e.1.1
    kinds := (if assay then 0 else softKinds false [] clips (if v.da.qmode = 0 then 0xFFFF_FFFF else v.da.clipLimit))
      + (if bad.isSome then kindNonFinite else 0)
    nfRow := bad.getD 0
    nfCol := match bad with
      | some i => ((rows[i]?).bind fun r => r.1.o.findIdx? fun z => !isFinite z).getD 0
      | none => 0
    lfGroup := 0
    clips := clips
    amax := qs.map (·.amax)
    rescales :=
      let mask := rows.foldl (fun a r => a ||| r.2.1) 0
      ((List.range 4096).filter fun b => bit mask b).length }

/-- A drained AT element: O / l rounded once, or +0 (R196). -/
def attnDrain (r : AttnRow) (d : Nat) : Num := if isZero r.l then .zero else div32 (r.o.getD d .zero) r.l

end Sys2Proof.Machine
end

