-- ==== Sys2Proof/Machine/RowUnit.lean ====
section
/-! DEFINITION. The row unit's RW words on one pen (R167 to R191): operands, functions, user table, statistics. -/

namespace Sys2Proof.Machine

/-! ## Elements -/

/-- An element as FP32 (R172): exact, but rounded once from INT32. -/
def toFp32 (x : Num) : Num := fp32 x

/-- The ac in which the row unit reads element k of row i in a round (R127, R167). -/
def StepEnv.rowAc (v : StepEnv) (round i k : Nat) : Nat :=
  let n := 256 * ceilDiv v.w.k 256
  v.issue + round * n + (i * n + k) / 256

/-- The element of the second operand for row i and element k. A per-row operand comes from the row-constant register, or from the
scratchpad where MV.LOAD placed it. -/
def secondNum (v : StepEnv) (rowConst : Table Word32) (round i k : Nat) (rdb : Nat → Byte) : Num :=
  let d := Desc.at v.p v.w.db
  match rwBform v.w with
  | 1 => toFp32 (elemNum d.format (viewBits rdb d (256 * v.rb + i) k))
  | 2 =>
    if madeBefore v.p v.j v.w.db ofLoad then toFp32 (elemNum d.format (readBits rdb (bitsOf d) (rowLoc d (256 * v.rb + i) (rwBcol v.w))))
    else toFp32 (num32 (tget 0 rowConst (constKey v.j round i)))
  | 3 => toFp32 (elemNum d.format (readBits rdb (bitsOf d) (rowLoc d 0 k)))
  | _ => .zero

/-- The argument after the pre-operation (R172). -/
def preOp (w : TileWord) (x b : Num) : Num :=
  match rwPreop w with
  | 1 => sub32 x b
  | 2 => mul32 x b
  | 3 => mul32 x (div32 .one b)
  | _ => x

/-- The user table (R179). -/
def tableFn (t : Table Word32) (x : Num) : Num :=
  let at_ (i : Nat) : Num := num32 (tget 0 t i)
  let u := mul32 (sub32 x (at_ 0)) (at_ 1)
  if x = .nan || u = .nan then .nan
  else if numLt u .zero then at_ 2
  else if !numLt u (numOfInt 256) then at_ 258
  else
    let i : Nat := match u with
      | .fin _ m e => m * pow2 e / pow2 (-e)
      | _ => 0
    let f := sub32 u (numOfInt i)
    add32 (at_ (i + 2)) (mul32 f (sub32 (at_ (i + 3)) (at_ (i + 2))))

/-- A subnormal FP32 number becomes a zero of its sign (R189). -/
def flush (x : Num) : Num :=
  match x with
  | .fin s m e => if belowPow m 1 e (-126) then .fin s 0 0 else .fin s m e
  | x => x

/-- The special values of R175: every argument for which a function's result is exact by that table. -/
def specialArg (sub : Nat) (x : Num) : Bool :=
  match x with
  | .fin s m e => (sub == 0x02 && numAdd (.fin s m e) (numOfInt (-1)) matches .fin _ 0 _) || (m == 0 && sub != 0x01 && sub != 0x07 && sub != 0x0B) || (s && (sub == 0x02 || sub == 0x04 || sub == 0x05))
  | _ => true

/-- The code of an FP32 number in the order of its values, as an integer. -/
def orderCode (x : Num) : Int :=
  let n := (bits32 x).toNat
  if 2 ^ 31 ≤ n then 2 ^ 31 - (n : Int) else n

/-- The Kuler bounds: steps of FP32 for most functions, 2^-21 for SIN and COS of arguments up to 2^16 and nothing beyond (R189). -/
def kulerFits (sub : Nat) (y k : Num) : Bool :=
  let r := unaryFn sub y
  let e := roundReal fmtFp32 r
  let diff := numAbs (numAdd k (match stickyNum r with
    | .fin s m x => .fin (!s) m x
    | z => z))
  if sub == 0x06 || sub == 0x07 then
    if numLt (.fin false 1 16) (numAbs y) then true else isFinite k && !numLt (.fin false 1 (-21)) diff
  else (orderCode k - orderCode e).natAbs ≤ (if sub == 0x0A || sub == 0x0B then 4 else 2)

/-- Old-stock mode: the Kuler unit's FP32 result, but for the special values (R189): a free value within the bounds (log 20). -/
def oldFn (sub : Nat) (x : Num) : Num :=
  let y := flush x
  let k := num32 (Config.kuler sub (bits32 y))
  if specialArg sub y then stickyNum (unaryFn sub y)
  else flush (if kulerFits sub y k then k else roundReal fmtFp32 (unaryFn sub y))

/-- Convert a result into DC's format: a real rounded once (R174), a number as in R168. -/
def resultBits (fmt : Nat) (r : Real) : Nat :=
  match fmt with
  | 0x07 | 0x0D => elemBits fmt (roundReal fmtFp32 r)
  | 0x0C => floatBits fmtFp32 (roundReal fmtFp32 r)
  | _ => elemBits fmt (stickyNum r)

/-- Convert an FP32 result: a finite value stays finite (R168). -/
def numberBits (fmt : Nat) (x : Num) : Nat := elemBits fmt x

/-- A binary function (R173). -/
def binaryFn (sub : Nat) (x b : Num) : Num :=
  match sub with
  | 0x10 => add32 x b
  | 0x11 => sub32 x b
  | 0x12 => mul32 x b
  | 0x13 => ieeeMax x b
  | _ => ieeeMin x b

/-- Whether bits of a format spell a NaN. -/
def isNanBits (fmt bits : Nat) : Bool := formatKnown fmt && (floatOf fmt).isSome && elemNum fmt bits == .nan

/-- The bits written for one element, and whether its result is NaN before or after conversion (R176). -/
def rwElement (v : StepEnv) (abi : Nat) (table rowConst : Table Word32) (round i k : Nat) (rdb : Nat → Nat → Byte) : Nat × Bool :=
  let a := v.da
  let fmt := v.dc.format
  let sub := v.w.sub
  let raw := viewBits (v.act (v.rowAc round i k)) a (256 * v.rb + i) k
  let b := secondNum v rowConst round i k (rdb (v.rowAc round i k))
  let old := rwOld v.w || (abi == 1 && ((1 ≤ sub && sub ≤ 7) || sub == 0x0A || sub == 0x0B))
  if rwPos v.w then
    let f := readBits (rdb (v.rowAc round i k)) 32 (rowLoc (Desc.at v.p v.w.db) 0 k)
    (resultBits fmt (positionFn sub raw f), false)
  else
    let x := toFp32 (elemNum a.format raw)
    if between 0x10 0x14 sub then
      let y := binaryFn sub x b
      (numberBits fmt y, y = .nan || isNanBits fmt (numberBits fmt y))
    else
      let y := preOp v.w x b
      if sub = 0 then (numberBits fmt y, y = .nan || isNanBits fmt (numberBits fmt y))
      else if sub = 0x18 then
        let z := tableFn table y
        (numberBits fmt z, z = .nan || isNanBits fmt (numberBits fmt z))
      else if old then
        let z := oldFn sub y
        (numberBits fmt z, z = .nan || isNanBits fmt (numberBits fmt z))
      else
        let z := unaryFn sub y
        (resultBits fmt z, stickyNum z = .nan || isNanBits fmt (resultBits fmt z))

/-! ## Statistics (R185, R186) -/

/-- MAX, SUM, MEAN and VAR of a row. -/
def statsRow (a : List Num) : List Num :=
  let n := numOfInt a.length
  let x0 := a.headD .zero
  let t := (pieces 256 a).foldl (fun (s : Num × Num × Num) c =>
    let d := c.map fun x => sub32 x x0
    let q := d.map fun x => mul32 x x
    (add32 s.1 (treeSum d), add32 s.2.1 (treeSum q), c.foldl ieeeMax s.2.2)) (.zero, .zero, x0)
  let sum := add32 (mul32 n x0) t.1
  let mean := add32 x0 (div32 t.1 n)
  let var := div32 (sub32 t.2.1 (div32 (mul32 t.1 t.1) n)) n
  [t.2.2, sum, mean, if isNeg var then .zero else var]

/-! ## A round on a pen -/

/-- What an RW round writes on a pen, as lists of (address, bytes) with the ac of their write-back, and its first NaN as (row, element)
(R169, R176). -/
structure RwResult where
  out : List (Nat × List (Loc × Nat))
  nan : Option (Nat × Nat)

def rwRound (v : StepEnv) (abi : Nat) (table rowConst : Table Word32) (round : Nat) (rdb : Nat → Nat → Byte) : RwResult :=
  let nr := validRows v.dc v.rb
  let after := 12 + lambdaOf v.w.sub + (if rwPreop v.w = 0 then 0 else 2)
  if v.w.sub = 0x20 then
    let rows := (List.range nr).map fun i =>
      (i, statsRow ((List.range v.w.k).map fun k => toFp32 (elemNum v.da.format (viewBits (v.act (v.rowAc round i k)) v.da (256 * v.rb + i) k))))
    { out := rows.map fun r => (v.rowAc round r.1 (v.w.k - 1) + after,
        r.2.zipIdx.map fun e => (rowLoc v.dc (256 * v.rb + r.1) e.2, floatBits fmtFp32 e.1))
      nan := (rows.find? fun r => r.2.any (· == .nan)).map fun r => (r.1, (r.2.findIdx? (· == .nan)).getD 0) }
  else
    let rows := (List.range nr).map fun i => (i, (List.range v.w.k).map fun k => rwElement v abi table rowConst round i k rdb)
    { out := rows.flatMap fun r => (pieces 256 (r.2.zipIdx)).zipIdx.map fun c => (v.rowAc round r.1 (256 * c.2) + after,
        c.1.map fun e => (rowLoc v.dc (256 * v.rb + r.1) e.2, e.1.1))
      nan := rows.findSome? fun r => (r.2.findIdx? (·.2)).map fun k => (r.1, k) }

/-- Write elements into a pen's staging in an ac. -/
def stageElems (at_ bits : Nat) (l : List (Loc × Nat)) (t : List SpadWrite) : List SpadWrite :=
  if 8 ≤ bits then
    spadPut at_ (l.flatMap fun e => (elemBytes (fun _ => 0) bits e.1 e.2).zipIdx.map fun b => (e.1.addr + b.2, b.1)) t
  else l.foldl (fun t e =>
    spadPut at_ ((elemBytes (spadRead t (at_ + 1)) bits e.1 e.2).zipIdx.map fun b => (e.1.addr + b.2, b.1)) t) t

end Sys2Proof.Machine
end

