-- ==== Sys2Proof/Machine/Fold.lean ====
section
/-! DEFINITION. The Fold's exact events: the issue of every class of tile word (R58, R68, R125 to R127, R137, R142, R252, R336, R339),
verdicts and replays (R102 to R111), drains (R17, R62) and the end of a RUN (R111). -/

namespace Sys2Proof.Machine

/-! ## Issue -/

/-- The next instruction of a running RUN, when it is decoded, is of the opcode given, and its ac has come. -/
def issueReady (s : State) (k op : Nat) : Option (Run × TileWord) :=
  (s.part k).run.bind fun r => (wordAt r r.nextInstr).bind fun w =>
    if (s.part k).st == .running && r.ending.isNone && r.replay.isNone && r.nextInstr < r.decoded && w.opcode == op
        && acCome (nextIssue r) s && issueTurn (nextIssue r) (duesOf s k r) then some (r, w) else none

/-- The nominal ac at which the first anchored instruction, of the opcode given, slips with ANCHOR_LATE (R70, R71). -/
def anchorSlip (s : State) (k op : Nat) : Option Nat :=
  (s.part k).run.bind fun r => (lateAnchor r).bind fun e =>
    if slips (s.part k) r && e.1.opcode == op && acCome e.2 s && anchorTurn e.2 (duesOf s k r) then some e.2 else none

/-- ANCHOR_LATE slips at the nominal ac. -/
def slipAnchor (k n : Nat) (s : State) : State := slip k slipAnchorLate (moveTo n s)

/-- The lag of an issue (R68). -/
def setLag (k n : Nat) : State → State := updPart k fun q => { q with lag := n }

/-- The ac from a round's issue, at its attempt's rate, to that of the next. -/
def attemptPeriod (p : Program) (j : Nat) (w : TileWord) (assay : Bool) (n : Nat) : Nat :=
  if isMac w then (if w.hold then kacOf p j w assay else max 256 (kacOf p j w assay))
  else if w.opcode = opAt then atRoundAc p w assay n + (if w.hold then 0 else 256)
  else 0

/-- An attempt that is to issue. -/
structure Attempt where
  round : Nat
  number : Nat
  assay : Bool
  at_ : Nat
  runlen : Nat
  scales : Table Word32
  epoch : Nat

/-- Attempt 0 of the next round. -/
def firstAttempt (s : State) (k : Nat) (r : Run) (w : TileWord) : Attempt :=
  ⟨r.nextRound, 0, w.assay, nextIssue r, w.runlen, [], ((r.epochs.find? fun e => e.1 == (r.nextInstr, r.nextRound)).map (·.2)).getD (s.part k).epoch⟩

/-- The slots of a pen for a round: the output slot, continued or lowest FREE, and the score slot of AT (R16, R124, R193). A slot that a
step in flight will hold can be continued. -/
def pickSlots (w : TileWord) (b : Nat) (q : Pen) : Option (Nat × Option Nat) :=
  let isFree (i : Nat) : Bool := (tget Slot.reset q.slots i).st == .free
  let out := (List.range 8).find? fun i =>
    let x := tget Slot.reset q.slots i
    if w.cont then (x.st == .held || (x.st == .accumulating && x.hold)) && x.dc == w.dc && x.cb == w.cb && x.rb == b else x.st == .free
  out.bind fun o =>
    if w.opcode = opAt then ((List.range 8).find? fun i => isFree i && i != o).map fun i => (o, some i) else some (o, none)

/-- The step end of an attempt (R61): the last promotion of MM and CV, the start of an AT round's drain, or its commit with HOLD
(R126, R193, R201). -/
def stepEnd (p : Program) (j : Nat) (w : TileWord) (a : Attempt) : Nat :=
  let c := a.at_ + verdictAc p j w a.assay a.round
  if isMac w then c - 16 else if w.hold then c else max a.at_ (c - 16)

/-- A slot that a step begins to accumulate into; a score slot has no DC. -/
def beginSlot (p : Program) (j : Nat) (w : TileWord) (a : Attempt) (b dc : Nat) (from_ end_ : Nat) (x : Slot) : Slot :=
  { x with st := .accumulating, dc := dc, cb := if dc = 0 then 0 else w.cb, rb := b, isInt := dc != 0 && intSlot p j w, instr := j
           round := a.round, users := x.users ++ [(j, a.round)], cont := w.cont, hold := w.hold, beginAt := from_, endAt := end_ }

/-- The last step end of the steps in flight on a pen. -/
def lastEnd (q : Pen) : Nat := (q.slots.map fun e => if e.2.st == .accumulating && e.2.dc != 0 then e.2.endAt else 0).foldl max 0

/-- The window register when a round that places windows, of the ordinal given, begins (R165). -/
def beginWin (p : Program) (w : TileWord) (b o : Nat) (v : Win) : Win :=
  if !isCv w then v
  else if w.sel = 0 then { v with kib := 0 }
  else { v with cur := o % 2, kib := ceilDiv (windowBytes (Desc.at p w.da) (Desc.at p w.db) (Desc.at p w.dc) w b) 1024 }

/-- PEN_ATTN when an AT round begins (R226). -/
def beginAttn (p : Program) (w : TileWord) (a : Attempt) (v : AttnReg) : AttnReg :=
  if w.opcode = opAt then
    { v with rescales := 0, at_ := true, assayPass := false, since := a.at_, period := atBlockAc p w a.assay
             blocks := keyBlocks p w a.round, assay := a.assay }
  else v

/-- A pen takes its part of a round, whose window has the ordinal given (R39, R98, R165, R226). -/
def beginPen (p : Program) (j : Nat) (w : TileWord) (a : Attempt) (b o : Nat) (q : Pen) : Pen :=
  match pickSlots w b q with
  | none => q
  | some (out, sc) =>
    let from_ := max a.at_ (lastEnd q)
    let t1 := tupd Slot.reset q.slots out (beginSlot p j w a b w.dc from_ (stepEnd p j w a))
    let t2 := match sc with
      | some i => tupd Slot.reset t1 i (beginSlot p j w a b 0 from_ (a.at_ + verdictAc p j w a.assay a.round + 1))
      | none => t1
    { q with active := true, slots := t2, restore := (tget Slot.reset q.slots out).entries, restoreSlot := some out,
             win := beginWin p w b o q.win, attn := beginAttn p w a q.attn }

/-- The bank that a word reads: fixed at its first issue, where a reload switches (R89, R90, R180, R181). -/
def bankFor (r : Run) (j : Nat) (reload : Bool) (b : Banks) : Nat :=
  match tget 0 r.banks j with
  | 0 => if reload then 1 - b.active else b.active
  | n + 1 => n

def switchBank (first reload : Bool) (bank : Nat) (b : Banks) : Banks :=
  if first then { active := bank, shadowValid := b.shadowValid && !reload, bank0 := b.bank0, bank1 := b.bank1 } else b

/-- The banks after an issue, and the bank that the word reads. -/
def useBanks (k : Nat) (r : Run) (j : Nat) (w : TileWord) (s : State) : Nat × State :=
  let q := s.pen (physPen s k 0)
  let first : Bool := tget 0 r.banks j == 0
  let mark (n : Nat) : State → State := updRun k fun x => { x with banks := tset 0 x.banks j (n + 1) }
  if readsCodebook r.prog j w then
    let n := bankFor r j (reloadsCodebook r.prog j w) q.cbank
    (n, mark n (forAll (enabledPens s k) (fun i => updPen i fun v =>
      { v with cbank := switchBank first (reloadsCodebook r.prog j w) n v.cbank }) s))
  else if readsTable w then
    let n := bankFor r j (reloadsTable r.prog j w) q.fbank
    (n, mark n (forAll (enabledPens s k) (fun i => updPen i fun v =>
      { v with fbank := switchBank first (reloadsTable r.prog j w) n v.fbank }) s))
  else (0, s)

/-- A correction is counted toward an engine's CORRECTED record (R485). -/
def countEngine (e : Nat) : State → State := updRecov fun v => { v with corrected := tupd 0 v.corrected e (· + 1) }

/-- The error that an attempt meets (R26, R140): a corrected broadcast word is counted for its manger, a double error sets BCERR on every
pen; a corrected queue entry is counted for its pen. -/
def takeEcc (k : Nat) (w : TileWord) (e : Ecc) (s : State) : State :=
  match e with
  | .single m => countEngine (106 + (diesOf s k).getD (m % mangerCount s) 0) s
  | .double => forAll (enabledPens s k) (fun i => updPen i fun v => { v with bcerr := true }) s
  | .entrySingle p => if isWork w && (enabledPens s k).contains p then countEngine p s else s
  | _ => s

/-- Whether the error is an engine fault of the attempt; a WORK round then reads its entries again from the list memory, which holds
them unchanged. -/
def eccFault (w : TileWord) (e : Ecc) : Bool :=
  match e with
  | .double => true
  | .entryDouble _ => isWork w
  | _ => false

/-- The step after (j, n). -/
def stepAfter (r : Run) (j n : Nat) (w : TileWord) : Nat × Nat :=
  if n + 1 < stepsOf r.prog.penCount w then (j, n + 1) else (j + 1, 0)

/-- A step holds an epoch from its first issue on (R216). -/
def holdEpoch (x : Nat × Nat) (e : Nat) (l : List ((Nat × Nat) × Nat)) : List ((Nat × Nat) × Nat) :=
  if l.any fun y => y.1 == x then l else l ++ [(x, e)]

/-- An attempt enters the flight, and the next step follows it. -/
def launch (k j : Nat) (w : TileWord) (a : Attempt) (bank : Nat) (fault : Bool) : State → State :=
  updRun k fun r =>
    let p := r.prog
    let next := stepAfter r j a.round w
    let x : StepRec := ⟨j, a.round, a.number, a.assay, a.at_, a.at_ + verdictAc p j w a.assay a.round, fault, a.runlen, bank, a.epoch,
                        a.scales⟩
    let row := rowUnitAc p j w a.assay a.round
    { r with flight := r.flight ++ [x], replay := none, epochs := holdEpoch (j, a.round) a.epoch r.epochs, nextInstr := next.1, nextRound := next.2,
             nextAt := a.at_ + attemptPeriod p j w a.assay a.round, portFree := a.at_ + portAc p j w a.assay a.round,
             rowFree := if row = 0 then r.rowFree else max r.rowFree (a.at_ + row) }

/-- Issue one attempt of an MM, CV, CV.DW or AT round. -/
def issueRound (k j : Nat) (r : Run) (w : TileWord) (a : Attempt) (ecc : Ecc) (s : State) : State :=
  let s1 := forAll (activePens s k r j w a.round) (fun e t =>
    updPen (physPen s k e.1) (beginPen r.prog j w a e.2 (r.windowBase + windowOrdinal r.prog j a.round)) t) (moveTo a.at_ s)
  let u := useBanks k r j w s1
  let s2 := takeEcc k w ecc (launch k j w a u.1 (eccFault w ecc) u.2)
  setLag k (a.at_ - nominalAc r (w.issue + roundOffset r.prog j w a.round)) s2

/-- Whether every pen of a round has its slots. -/
def slotsFree (s : State) (k : Nat) (r : Run) (j : Nat) (w : TileWord) (n : Nat) : Bool :=
  (activePens s k r j w n).all fun e => (pickSlots w e.2 (s.pen (physPen s k e.1))).isSome

/-- The issue of a slotted word's next round. -/
def issueSlotted (name : String) (op part : Nat) (ecc : Ecc) (s : State) : Result State :=
  match anchorSlip s part op, issueReady s part op with
  | some n, _ => .next (settled (slipAnchor part n) s)
  | none, none => .fault (.notEnabled name)
  | none, some (r, w) => event name (slotsFree s part r r.nextInstr w r.nextRound)
      (issueRound part r.nextInstr r w (firstAttempt s part r w) ecc s)

def execMm (part : Nat) (ecc : Ecc) (s : State) : Result State := issueSlotted "MM" opMm part ecc s
def execCv (part : Nat) (ecc : Ecc) (s : State) : Result State := issueSlotted "CV" opCv part ecc s
def execCvDw (part : Nat) (ecc : Ecc) (s : State) : Result State := issueSlotted "CV.DW" opDw part ecc s
def execAttn (part : Nat) (ecc : Ecc) (s : State) : Result State := issueSlotted "AT" opAt part ecc s

/-- PEN_ROWU while an RW word runs (R190). -/
def beginRw (w : TileWord) (v : Rowu) : Rowu := { v with func := w.sub, old := rwOld w, busy := true, drain := false }

/-- Issue an RW word. -/
def issueRw (k : Nat) (r : Run) (w : TileWord) (s : State) : State :=
  let a := firstAttempt s k r w
  let s1 := forAll (activePens s k r r.nextInstr w 0) (fun e t =>
    updPen (physPen s k e.1) (fun q => { q with active := true, rowu := beginRw w q.rowu }) t) (moveTo a.at_ s)
  let u := useBanks k r r.nextInstr w s1
  setLag k (a.at_ - nominalAc r w.issue) (launch k r.nextInstr w a u.1 false u.2)

def execRw (part : Nat) (s : State) : Result State :=
  match anchorSlip s part opRw, issueReady s part opRw with
  | some n, _ => .next (settled (slipAnchor part n) s)
  | none, none => .fault (.notEnabled "RW")
  | none, some (r, w) => .next (issueRw part r w s)

/-! ## Commits -/

/-- A page's entry in a context is dirty (R247, R264). -/
def dirtyPage (ctx f : Nat) : State → State :=
  updPlace fun p => { p with seqs := mapIf (fun q => q.ctx == ctx) (fun q =>
    { q with maps := q.maps.map fun e => (e.1, e.2.map fun m => if m.frame == f && !m.dropped then { m with dirty := true } else m) }) p.seqs }

/-- The pages of a KVPAGED output that row blocks write take the commit's beat as AGE (R211). -/
def agePages (r : Run) (c : Desc) (rbs : List Nat) (s : State) : State :=
  if c.layout != 4 then s
  else
    let n := pagesPerBlock c.format
    forAll rbs (fun b t =>
      match runT1 t r (c.base + 65536 * (n * b + (if extAt c 2 = 2 then n - 1 else 0))) with
      | some pa => dirtyPage r.ctx (pa / 65536 * 65536) (updPage (pa / 65536 * 65536) (fun g => { g with age := t.clock.beat }) t)
      | none => t) s

/-- Store lots of a row block wait for their drover, whose work opens (R32, R35). -/
def queueStores (k : Nat) (r : Run) (j : Nat) (w : TileWord) (lp rb : Nat) (s : State) : State :=
  let n := (regionOf r.prog j w .store 0 rb).lots
  let d := 64 + physPen s k lp
  updRun k (fun x =>
    { x with toStore := x.toStore ++ (List.range n).map (fun i => ⟨k, j, rb, .store, lp, i⟩)
             opened := if x.opened.contains (j, d) then x.opened else x.opened ++ [(j, d)] }) s

/-- The drovers whose work on a word ends with its commit: load and weight drovers, and a store drover with no store. -/
def closesAtCommit (d : Nat) : Bool := d < 64 || (128 ≤ d && d < 136)

/-- Release the grant that each pen used in a round of a WORK word, and after the last round the counter (R139, R141). -/
def releaseGrants (k : Nat) (r : Run) (j : Nat) (w : TileWord) (last : Bool) (s : State) : State :=
  match (if isWork w then grantOf r.prog j else none) with
  | none => s
  | some g =>
    let t := forAll (enabledPens s k) (fun i => updPen i fun q =>
      match q.grants.find? fun x => x.counter == g.2.sub with
      | some x => { q with grants := q.grants.erase x }
      | none => q) s
    if last then updCounter k g.2.sub (fun c => { c with busy := false }) t else t

/-- The engines of a partition whose guilty search replays its RUN pass the suspect at a commit (R421). -/
def passSuspects (k ctx : Nat) (s : State) : State :=
  let l := (s.recov.steps.filter fun x => x.search && (engineParts s x.engine).contains k
    && x.suspects.any fun u => u.ctx == ctx && u.state == 1).map (·.engine)
  let t := forAll l (fun e => clearSuspect e ctx) s
  if !l.isEmpty && l.any (fun e => (engineStep t e).isSome) then quiesce k false t else t

/-- The final commit of a RUN that will complete with OK or TROUBLE_FALLBACK releases its leaving sequences (R221). -/
def leaveAtEnd (k : Nat) (s : State) : State :=
  match (s.part k).run with
  | some r => if r.prog.nWords ≤ r.doneInstr && r.ending.isNone && r.decodeStop.isNone then releaseLeaving k r s else s
  | none => s

/-- The bookkeeping of a commit at an ac: the step is done, slips return to 0 (R74), the epoch may rise (R215). -/
def commitStep (k j n : Nat) (w : TileWord) (at_ : Nat) (s : State) : State :=
  match (s.part k).run with
  | none => s
  | some r =>
    let done := stepAfter r j n w
    let s1 := releaseGrants k r j w (done.1 != j) s
    let s2 := updRun k (fun x =>
      { x with flight := x.flight.filter (fun y => !(y.instr == j && y.round == n)), doneInstr := done.1, doneRound := done.2
               epochs := x.epochs.filter (fun e => e.1 != (j, n))
               lastCommit := at_
               foldAt := if w.opcode = opFold then at_ else x.foldAt
               placed := x.placed.filter (fun l => !(l.instr + 8 < j))
               posted := x.posted.filter (fun l => !(l.instr + 8 < j))
               opened := if done.1 = j then x.opened else x.opened.filter fun o =>
                 !(o.1 == j && (closesAtCommit o.2 || (w.opcode == opSend && o.2 < 128))) }) s1
    let s3 := updPart k (fun q => { q with slips := 0 }) s2
    passSuspects k r.ctx (syncDrovers k (advanceEpoch k (leaveAtEnd k s3)))

/-! ## MV, SY and TL words -/

/-- A pen's elements of a descriptor in an ac: what MV.LOAD or a DIRECT receive placed, or what a load drover did. -/
def operandByte (p : Program) (j d : Nat) (q : Pen) (n a : Nat) : Byte :=
  if madeBefore p j d ofLoad then spadRead q.stage n a else spadRead q.spad n a

/-- A pen's elements of the window of a CV round, with the ordinal of the window: its buffer's, and the rows that a DIRECT receive brought
(R151, R164). -/
def windowByte (p : Program) (j d o : Nat) (q : Pen) (n a : Nat) : Byte :=
  if receivedAt p j d a then spadRead q.stage n a else spadRead (if o % 2 = 0 then q.win0 else q.win1) n a

/-- The rows of a view copied to a descriptor's addresses in a pen's scratchpad, in the ac before the word's issue. -/
def copyRows (at_ : Nat) (a c : Desc) (rd : Nat → Byte) (rb : Nat) (q : Pen) : Pen :=
  let l := (List.range (validRows c rb)).flatMap fun i => (List.range (extAt c 0)).map fun k =>
    (rowLoc c (256 * rb + i) k, viewBits rd a (256 * rb + i) k)
  { q with stage := stageElems (at_ - 1) (bitsOf c) l q.stage }

/-- The row blocks of an MV word with their logical pens. -/
def mvBlocks (p : Program) (w : TileWord) : List (Nat × Nat) :=
  (List.range w.rbCount).map fun i => ((w.rbFirst + i) % max 1 p.penCount, w.rbFirst + i)

/-- MV.LOAD and MV.STORE, which take effect at an ac: DA's rows take DC's places in the scratchpad. -/
def copyWord (k : Nat) (r : Run) (j : Nat) (w : TileWord) (at_ : Nat) (s : State) : State :=
  let a := Desc.at r.prog w.da
  let c := Desc.at r.prog w.dc
  forAll (mvBlocks r.prog w) (fun e t => updPen (physPen t k e.1) (fun q =>
    copyRows at_ a c (fun x => if madeBefore r.prog j w.da ofResult then spadRead q.stage at_ x else operandByte r.prog j w.da q at_ x)
      e.2 q) t) s

def loadWord (k : Nat) (r : Run) (j : Nat) (w : TileWord) (at_ : Nat) (s : State) : State := copyWord k r j w at_ s

/-- MV.STORE: the stores follow. -/
def storeWord (k : Nat) (r : Run) (j : Nat) (w : TileWord) (at_ : Nat) (s : State) : State :=
  let t := forAll (mvBlocks r.prog w) (fun e => queueStores k r j w e.1 e.2) (copyWord k r j w at_ s)
  agePages r (Desc.at r.prog w.dc) ((mvBlocks r.prog w).map (·.2)) t

/-- MV.WEIGHT: the layer is in its window slot (R252). -/
def weightWord (k : Nat) (r : Run) (j : Nat) (w : TileWord) (s : State) : State :=
  updManger k (weightOrdinal r.prog j % 3) (fun m =>
    if m.instr = j then { m with valid := true, desc := w.da } else ⟨j, w.da, true, [], []⟩) s

/-- MV.SEND: the transfer takes its SEQ, and its attempts may leave (R336, R338). -/
def sendWord (k j : Nat) (w : TileWord) (s : State) : State :=
  let g := transferGate s k w
  let n := (s.gate g).seq
  updGate g (fun v => { v with seq := (v.seq + 1) % 65536 }) (updSend g k j (fun h => { h with issued := true, seq := n }) s)

/-- The sum of an element in an ADD mode (R339). -/
def addElem (mode : Nat) (x y : Nat) : Num :=
  if mode = 1 then add32 (elemNum 0x0C x) (elemNum 0x0C y) else roundNum fmtBf16 true (numAdd (elemNum 0x0A x) (elemNum 0x0A y))

/-- The elements that MV.RECV stores, in the order of the transfer, with whether each sum is finite. -/
def recvSums (mode : Nat) (h : RecvHold) (d : List Byte) : List (List Byte × Bool) :=
  if mode = 0 then [(d, true)]
  else
    let n := if mode = 1 then 4 else 2
    (pieces n d).zipIdx.map fun e =>
      let z := addElem mode (ofLe e.1) (ofLe (bytesAt h.staged (n * e.2) n))
      (leBytes n (floatBits (if mode = 1 then fmtFp32 else fmtBf16) z), isFinite z)

/-- The bytes that MV.RECV stores, or none where a sum is not finite. -/
def recvResult (mode : Nat) (h : RecvHold) (d : List Byte) : Option (List Byte) :=
  let l := recvSums mode h d
  if l.all (·.2) then some (l.flatMap (·.1)) else none

/-- The step reference of a non-finite verdict, and the end of its RUN (R107, R110). -/
def endNonFinite (k : Nat) (ref : StepRef) (row col : Nat) (s : State) : State :=
  haltRun k ⟨stNonFinite, 0, 3, stepRefNum ref⟩ (updRun k (fun r =>
    let t := r.trouble
    { r with trouble := { t with kindsSeen := t.kindsSeen ||| kindNonFinite, nfRow := row, nfCol := col, nfStep := some ref
                                 firstTrouble := if t.firstTrouble.isNone then some ref else t.firstTrouble } }) s)

/-- Whether a copy of the transfer of an MV.RECV has been accepted (R337). -/
def accepted (s : State) (k j : Nat) (w : TileWord) : Bool :=
  ((s.gate (transferGate s k w)).recvs.find? fun h => h.part == k && h.instr == j).any (·.accepted.isSome)

/-- MV.RECV takes effect: FABRIC_LATE when no copy has been accepted; else the moves begin (R339). -/
def recvWord (k : Nat) (r : Run) (j : Nat) (w : TileWord) (at_ : Nat) (s : State) : State :=
  let g := transferGate s k w
  match (s.gate g).recvs.find? fun h => h.part == k && h.instr == j with
  | none => slip k slipFabricLate s
  | some h => match h.accepted with
    | none => slip k slipFabricLate s
    | some d => match recvResult (mvMode w) h d with
      | none =>
        let l := recvSums (mvMode w) h d
        let o := ((l.findIdx? fun e => !e.2).getD 0) * (if mvMode w = 1 then 4 else 2)
        let c := transferDesc r.prog w
        let row := transferRow r.prog w o
        endNonFinite k ⟨j, 0, row / 256 % max 1 r.prog.penCount⟩ (row % 256) (o % max 1 (rowBytes c) / max 1 (bitsOf c / 8) % 256) s
      | some v =>
        let t := updRecv g k j (fun h => { h with accepted := some v }) s
        let u := updRun k (fun x =>
          { x with toStore := x.toStore ++ (List.range (ceilDiv v.length 65536)).map fun i => ⟨k, j, 0, .store, 0, i⟩ }) t
        commitStep k j 0 w at_ (agePages r (Desc.at r.prog w.dc) ((mvBlocks r.prog w).map (·.2)) u)

/-- The entries of a work list, checked as they are granted: the status of the first that fails, and how many were granted before it
(R138). -/
def listScan (p : Program) (w : TileWord) : List Nat → List Nat → Nat → Option (Nat × Nat)
  | [], _, _ => none
  | b :: l, seen, n =>
    if w.rbFirst ≤ (seen.filter fun x => x % max 1 p.penCount == b % max 1 p.penCount).length then some (stBadLength, n)
    else if (seen.head?).any (b ≤ ·) || rowBlocks (Desc.at p w.dc) ≤ b then some (stBadArg, n)
    else listScan p w l (b :: seen) (n + 1)

/-- How a work list fails, if it does, with the entries granted before (R138). -/
def listFault (p : Program) (w : TileWord) (l : List Nat) : Option (Nat × Nat) :=
  let n := l.headD 0
  if w.rbCount < n || extAt (Desc.at p w.da) 0 - 1 < n then some (stBadLength, 0)
  else listScan p w ((l.drop 1).take n) [] 0

/-- SY.WGRANT at its commit: every entry goes to the queue of its pen (R137, R139). -/
def grantWord (k : Nat) (r : Run) (w : TileWord) (s : State) : State :=
  let l := (tget WorkCounter.reset (s.part k).wcnt w.sub).list
  let n := l.headD 0
  let t := updCounter k w.sub (fun c => { c with next := n, limit := n }) s
  forAll (((l.drop 1).take n).zipIdx) (fun e u =>
    updPen (physPen u k (e.1 % max 1 r.prog.penCount)) (fun q => { q with grants := q.grants ++ [⟨e.1, e.2 + 1, w.sub⟩] }) u) t

/-- The effect and the commit of a word that has no arithmetic. -/
def commitWord (k : Nat) (r : Run) (j : Nat) (w : TileWord) (at_ : Nat) (s : State) : State :=
  if w.opcode = opLoad then commitStep k j 0 w at_ (loadWord k r j w at_ s)
  else if w.opcode = opStore then commitStep k j 0 w at_ (storeWord k r j w at_ s)
  else if w.opcode = opWeight then commitStep k j 0 w at_ (weightWord k r j w s)
  else if w.opcode = opSend then commitStep k j 0 w at_ (sendWord k j w s)
  else if w.opcode = opRecv then recvWord k r j w at_ s
  else if w.opcode = opGrant then
    let l := (tget WorkCounter.reset (s.part k).wcnt w.sub).list
    match listFault r.prog w l with
    | some e => haltRun k ⟨e.1, 0, 3, stepRefNum ⟨j, 0, 0⟩⟩
        (updCounter k w.sub (fun c => { c with next := e.2, limit := l.headD 0 % 2 ^ 17 }) s)
    | none => commitStep k j 0 w at_ (grantWord k r w s)
  else if w.opcode = opSignal then
    settled (fun t => commitStep k j 0 w at_ (addSync k (w.sel % 4096) w.value t)) s
  else commitStep k j 0 w at_ s

/-- Whether SY.FOLD can commit: every store lot of the instructions that committed before it has been read out (R127). -/
def foldClear (r : Run) (w : TileWord) : Bool := w.opcode != opFold || r.toStore.isEmpty

/-- Whether a word without arithmetic commits as it issues: no step is in flight, its commit has come, and nothing is due before it. -/
def commitsAtOnce (k : Nat) (r : Run) (w : TileWord) (c : Nat) (s : State) : Bool :=
  match (s.part k).run with
  | none => false
  | some x =>
    let d := duesOf s k x
    r.flight.isEmpty && foldClear r w && acCome c s && noneBefore c d.lots && noneBefore c d.anchors && noneBefore c d.drains
      && noneBefore c d.issues

/-- Issue a word without arithmetic: an MV.RECV whose transfer is not here slips; with no step in flight it commits at once, else in
order with its own verdict. -/
def issuePlain (k : Nat) (r : Run) (w : TileWord) (s : State) : State :=
  let a := firstAttempt s k r w
  let j := r.nextInstr
  let c := a.at_ + verdictAc r.prog j w false 0
  let s1 := setLag k (a.at_ - nominalAc r w.issue) (moveTo a.at_ s)
  let s2 := launch k j w a 0 false s1
  if w.opcode = opRecv && !accepted s k j w then slip k slipFabricLate s1
  else if commitsAtOnce k r w c s2 then commitWord k r j w c (moveTo c (updRun k (fun x => { x with flight := [] }) s2))
  else s2

/-- The issue of an MV, SY or TL word. -/
def issueOther (name : String) (op part : Nat) (s : State) : Result State :=
  match anchorSlip s part op, issueReady s part op with
  | some n, _ => .next (settled (slipAnchor part n) s)
  | none, none => .fault (.notEnabled name)
  | none, some (r, w) => .next (settled (issuePlain part r w) s)

def execMvLoad (part : Nat) (s : State) : Result State := issueOther "MV.LOAD" opLoad part s
def execMvStore (part : Nat) (s : State) : Result State := issueOther "MV.STORE" opStore part s
def execMvWeight (part : Nat) (s : State) : Result State := issueOther "MV.WEIGHT" opWeight part s
def execMvSend (part : Nat) (s : State) : Result State := issueOther "MV.SEND" opSend part s
def execMvRecv (part : Nat) (s : State) : Result State := issueOther "MV.RECV" opRecv part s
def execSyFold (part : Nat) (s : State) : Result State := issueOther "SY.FOLD" opFold part s
def execSySignal (part : Nat) (s : State) : Result State := issueOther "SY.SIGNAL" opSignal part s
def execTl (part : Nat) (s : State) : Result State := issueOther "TL" opTl part s

/-- A parity error of the counter: the step reissues at its verdict, unless the slack is exhausted (R26, R69, R140). -/
def grantParity (k : Nat) (r : Run) (w : TileWord) (s : State) : State :=
  let a := firstAttempt s k r w
  let at_ := a.at_ + verdictAc r.prog r.nextInstr w false 0
  let t := updCounter k w.sub (fun c => { c with perr := true, next := 0 }) (moveTo at_ s)
  if r.prog.slackAc < at_ - nominalAc r w.issue then slip k slipLagLimit t
  else
    setLag k (at_ - nominalAc r w.issue)
      (updRun k (fun x => { x with nextAt := at_, portFree := max x.portFree at_ }) t)

def execSyWgrant (part : Nat) (parity : Bool) (s : State) : Result State :=
  match anchorSlip s part opGrant, issueReady s part opGrant with
  | some n, _ => .next (settled (slipAnchor part n) s)
  | none, none => .fault (.notEnabled "SY.WGRANT")
  | none, some (r, w) => .next (if parity then grantParity part r w s else settled (issuePlain part r w) s)

/-- SY.WAIT compares at its issue; below VALUE it is a late lot (R142). -/
def execSyWait (part : Nat) (s : State) : Result State :=
  match anchorSlip s part opWait, issueReady s part opWait with
  | some n, _ => .next (settled (slipAnchor part n) s)
  | none, none => .fault (.notEnabled "SY.WAIT")
  | none, some (r, w) =>
    .next (settled (fun t =>
      if w.value ≤ syncValue t part (w.sel % 4096) then issuePlain part r w t
      else slip part slipLotLate (moveTo (nextIssue r) t)) s)

/-! ## Verdicts -/

def bankAt (b : Banks) (i : Nat) : Table Word32 := if i = 0 then b.bank0 else b.bank1

/-- What a step reads on a pen. -/
def stepEnv (s : State) (k : Nat) (r : Run) (x : StepRec) (w : TileWord) (lp rb : Nat) : StepEnv :=
  let q := s.pen (physPen s k lp)
  let slot := if w.opcode = opAt then pageSlot else match layerOf r.prog x.instr w with
    | some l => l.2.1
    | none => 0
  let m := tget MangerSlot.reset (s.part k).manger slot
  { p := r.prog, j := x.instr, w := w, rb := rb, lp := lp, runlen := x.runlen
    issue := x.issue
    assay := x.assay
    act := if isCv w then windowByte r.prog x.instr w.da (r.windowBase + windowOrdinal r.prog x.instr x.round) q
      else operandByte r.prog x.instr w.da q
    side := spadRead q.spad
    wts := fun a => tget 0 m.data a
    book := bankAt q.cbank x.bank
    colConst := q.colConst
    scales := x.scales
    dead := ((r.dead.find? fun e => e.1 == x.instr).map (·.2)).getD [] }

/-- The output slot of a step on a pen: the score slot has no DC. -/
def outSlot (x : StepRec) (q : Pen) : Option (Nat × Slot) :=
  q.slots.find? fun e => e.2.users.contains (x.instr, x.round) && e.2.dc != 0

/-- The results of a slotted step, by logical pen and row block. -/
def stepResults (s : State) (k : Nat) (r : Run) (x : StepRec) (w : TileWord) : List (Nat × Nat × PenResult) :=
  (activePens s k r x.instr w x.round).map fun e =>
    let v := stepEnv s k r x w e.1 e.2
    let start := if w.cont then ((outSlot x (s.pen (physPen s k e.1))).map (·.2.entries)).getD [] else []
    (e.1, e.2, if w.opcode = opAt then atStep v x.assay (keyBlocks r.prog w x.round) start else macStep v x.assay start)

/-- PEN_TRBL of every pen after a verdict (R109). -/
def reportTrouble (k : Nat) (x : StepRec) (l : List (Nat × Nat × PenResult)) (s : State) : State :=
  forAll (enabledPens s k) (fun i => updPen i fun q =>
    match l.find? fun e => physPen s k e.1 == i with
    | some e => { q with trbl := ⟨e.2.2.kinds, (if x.assay then 3 else x.attempt), e.2.2.nfRow, e.2.2.nfCol, e.2.2.lfGroup, min 0x7FFFFFF e.2.2.clips⟩ }
    | none => { q with trbl := ⟨0, (if x.assay then 3 else x.attempt), 0, 0, 0, 0⟩ }) s

/-- A slot whose step has committed with its entries: it drains, or is held, unless a later step in flight continues it (R16, R124). -/
def finishSlot (x : StepRec) (w : TileWord) (entries : Table Word32) (v : Slot) : Slot :=
  let users := v.users.filter (· != (x.instr, x.round))
  { v with st := if !users.isEmpty then .accumulating else if w.hold then .held else .draining, users := users, entries := entries }

/-- A pen's slots after its step has committed: drained or held, the score slot FREE (R16, R193). -/
def finishPen (x : StepRec) (w : TileWord) (res : PenResult) (q : Pen) : Pen :=
  match outSlot x q with
  | none => q
  | some (i, _) =>
    let t1 := tupd Slot.reset q.slots i (finishSlot x w res.entries)
    let t2 := dropFree (t1.map fun e => (e.1, if e.2.users.contains (x.instr, x.round) then Slot.reset else e.2))
    { q with slots := t2, restore := [], restoreSlot := none,
             active := t2.any fun e => e.2.st == .accumulating,
             attn := if w.opcode = opAt then
               { q.attn with at_ := false, rescales := min 65535 res.rescales, assayPass := x.assay
                             block := (q.attn.blocks.getLast?).getD q.attn.block % 2 ^ 24 } else q.attn }

/-- A window buffer is released at the commit of its round (R153). -/
def releaseWindow (o : Nat) (v : Win) : Win := if o % 2 = 0 then { v with valid0 := false } else { v with valid1 := false }

/-- Commit a slotted step with its results. -/
def commitRound (k : Nat) (r : Run) (x : StepRec) (w : TileWord) (at_ : Nat) (l : List (Nat × Nat × PenResult)) (s : State) : State :=
  let s1 := forAll l (fun e => updPen (physPen s k e.1) (fun q =>
    let v := finishPen x w e.2.2 q
    if placesWindow w then { v with win := releaseWindow (r.windowBase + windowOrdinal r.prog x.instr x.round) v.win } else v)) s
  let s2 := if w.hold then s1 else forAll l (fun e => queueStores k r x.instr w e.1 e.2.1) s1
  commitStep k x.instr x.round w at_ (if w.hold then s2 else agePages r (Desc.at r.prog w.dc) (l.map (·.2.1)) s2)

/-- A step is to issue again: the flight is abandoned, slots are restored, pages are fetched anew (R69, R98, R256). -/
def reissue (k : Nat) (r : Run) (x : StepRec) (w : TileWord) (y : Replay) (s : State) : State :=
  let s1 := forAll (pensOf s k) (fun p => updPen p (discardPen r)) s
  let next := stepAfter r x.instr x.round w
  let gone (l : LotRef) : Bool := (l.role == .keyPage || l.role == .valuePage) && lotOpen r l
  syncDrovers k (updRun k (fun z =>
    { z with flight := [], replay := some y, nextInstr := next.1, nextRound := next.2
             placed := z.placed.filter (fun l => !gone l)
             posted := z.posted.filter (fun l => !gone l)
             ringFrom := (x.instr, x.round)
             twice := if y.assay then (x.instr, x.round) :: z.twice else z.twice
             ringBase := z.ringNext
             opened := z.opened.filter fun o => !(128 ≤ o.2 && o.2 < 136 && z.posted.any fun l => gone l && l.instr == o.1) }) s1)

/-- The slip that a reissue at an ac would be: its lag would pass SLACK_AC, or its word is anchored and would issue with a lag (R70,
R71; DEDUCED, log 63). -/
def reissueSlip (r : Run) (x : StepRec) (w : TileWord) (at_ : Nat) : Option Nat :=
  let lag := at_ - nominalAc r (w.issue + roundOffset r.prog x.instr w x.round)
  if r.prog.slackAc < lag then some slipLagLimit else if anchored w && 0 < lag then some slipAnchorLate else none

/-- The reissue at an ac, unless it would be a slip. -/
def tryReissue (k : Nat) (r : Run) (x : StepRec) (w : TileWord) (y : Replay) (s : State) : State :=
  match reissueSlip r x w y.issue with
  | some c => slip k c s
  | none => setLag k (y.issue - nominalAc r (w.issue + roundOffset r.prog x.instr w x.round)) (reissue k r x w y s)

/-- An engine fault reissues the same attempt at its verdict (R26, R108). -/
def faultReissue (k : Nat) (r : Run) (x : StepRec) (w : TileWord) (at_ : Nat) (s : State) : State :=
  tryReissue k r x w ⟨x.instr, x.round, x.attempt, x.assay, at_, x.runlen, x.bank, x.scales, x.epoch⟩ s

/-- RUNLEN one setting shorter, from the cap of R95. -/
def shorter (mx : Bool) (runlen : Nat) : Nat := (if mx then min runlen 1 else runlen) - 1

/-- The attempt after a troubled one (R104, R105). -/
def nextAttempt (s : State) (k : Nat) (r : Run) (x : StepRec) (w : TileWord) (at_ : Nat) (l : List (Nat × Nat × PenResult)) : Replay :=
  let scales := l.foldl (fun t e => (rescaled (stepEnv s k r x w e.1 e.2.1) e.2.2.amax).foldl (fun t z => tput z.1 z.2 t) t) x.scales
  if w.policy = 0 && x.attempt < 2 then
    ⟨x.instr, x.round, x.attempt + 1, false, at_ + 512, shorter ((broadcastDesc r.prog x.instr w).format == 0x06) x.runlen, x.bank, scales,
     x.epoch⟩
  else ⟨x.instr, x.round, 3, true, at_ + 512, x.runlen, x.bank, x.scales, x.epoch⟩

/-- Record the kinds of a verdict in the RUN's summary (R110). -/
def seeTrouble (k kinds : Nat) (ref : StepRef) : State → State :=
  updRun k fun r =>
    let t := r.trouble
    { r with trouble := { t with kindsSeen := t.kindsSeen ||| kinds
                                 firstTrouble := if t.firstTrouble.isNone && kinds != 0 then some ref else t.firstTrouble } }

/-- A replay is decided: counted, recorded with the attempt it makes, and issued 512 ac later; an assay attempt that commits is recorded
as a fallback instead (R105, R111). -/
def troubleReissue (k : Nat) (r : Run) (x : StepRec) (w : TileWord) (at_ kinds : Nat) (ref : StepRef) (l : List (Nat × Nat × PenResult))
    (s : State) : State :=
  let y := nextAttempt s k r x w at_ l
  match reissueSlip r x w y.issue with
  | some c => slip k c s
  | none =>
    let t := updRun k (fun z => { z with trouble := { z.trouble with replays := if y.assay then z.trouble.replays else satAdd 32 z.trouble.replays 1 } }) s
    tryReissue k r x w y (if y.assay then t else
      daybook 0x0010 k noEngine r.ctx (leBytes 8 (stepRefNum ref) ++ leBytes 1 kinds ++ leBytes 1 y.attempt) t)

/-- The summary of a step that commits: a fallback, or trouble under COMMIT (R110, R111). -/
def countCommit (k : Nat) (x : StepRec) (kinds ctx : Nat) (ref : StepRef) (s : State) : State :=
  if x.attempt = 3 then
    daybook 0x0011 k noEngine ctx (leBytes 8 (stepRefNum ref)) (updRun k (fun z =>
      { z with trouble := { z.trouble with fallbacks := z.trouble.fallbacks + 1, lastFallback := some ref } }) s)
  else if kinds != 0 then updRun k (fun z => { z with trouble := { z.trouble with committed := z.trouble.committed + 1 } }) s
  else s

/-- The verdict on a slotted step (R103 to R107). Where no pen reports, as in the assay verdict that commits, the step reference names
logical pen 0 (DESIGN CHOICE, log 62). -/
def slottedVerdict (k : Nat) (r : Run) (x : StepRec) (w : TileWord) (at_ : Nat) (s : State) : State :=
  let l := stepResults s k r x w
  let kinds := l.foldl (fun a e => a ||| e.2.2.kinds) 0
  let lp := ((l.find? fun e => e.2.2.kinds != 0).map (·.1)).getD 0
  let ref : StepRef := ⟨x.instr, x.round, lp⟩
  let s1 := seeTrouble k kinds ref (reportTrouble k x l s)
  if kinds &&& kindNonFinite != 0 then
    match l.find? fun e => e.2.2.kinds &&& kindNonFinite != 0 with
    | some e => endNonFinite k ⟨x.instr, x.round, e.1⟩ e.2.2.nfRow e.2.2.nfCol s1
    | none => s1
  else if kinds != 0 && w.policy != 2 then troubleReissue k r x w at_ kinds ref l s1
  else commitRound k r x w at_ l (countCommit k x kinds r.ctx ref s1)

/-- The rounds of an RW word, by logical pen, row block and round. -/
def rwResults (s : State) (k : Nat) (r : Run) (x : StepRec) (w : TileWord) : List (Nat × Nat × RwResult) :=
  (List.range (roundsOf r.prog.penCount w)).flatMap fun n => (activePens s k r x.instr w n).map fun e =>
    let q := s.pen (physPen s k e.1)
    (e.1, e.2, rwRound (stepEnv s k r x w e.1 e.2) r.abi (bankAt q.fbank x.bank) q.rowConst n (operandByte r.prog x.instr w.db q))

/-- The verdict on an RW word: a NaN ends the RUN and is reported in PEN_TRBL, else its results are staged and stored (R109, R176). -/
def rwVerdict (k : Nat) (r : Run) (x : StepRec) (w : TileWord) (at_ : Nat) (s : State) : State :=
  let l := rwResults s k r x w
  let bad := (List.range r.prog.penCount).findSome? fun lp => (l.find? fun e => e.1 == lp && e.2.2.nan.isSome)
  let trbl (i : Nat) : Trbl :=
    match l.find? fun e => physPen s k e.1 == i && e.2.2.nan.isSome with
    | some e =>
      let z := e.2.2.nan.getD (0, 0)
      ⟨kindNonFinite, 0, z.1, z.2 % 256, 0, 0⟩
    | none => ⟨0, 0, 0, 0, 0, 0⟩
  let idle := forAll (enabledPens s k) (fun i => updPen i fun q =>
    { q with active := q.slots.any (fun e => e.2.st == .accumulating), rowu := { q.rowu with busy := false }, trbl := trbl i }) s
  match bad with
  | some e =>
    let z := e.2.2.nan.getD (0, 0)
    endNonFinite k ⟨x.instr, 0, e.1⟩ z.1 (z.2 % 256)
      (updPen (physPen s k e.1) (fun q => { q with rowu := { q.rowu with nan := true } }) idle)
  | none =>
    let t := forAll l (fun e u => updPen (physPen s k e.1) (fun q =>
      { q with stage := e.2.2.out.foldl (fun t z => stageElems z.1 (bitsOf (Desc.at r.prog w.dc)) z.2 t) q.stage
               wroteAt := max q.wroteAt at_ }) u) idle
    commitStep k x.instr 0 w at_ (agePages r (Desc.at r.prog w.dc) (l.map (·.2.1))
      (forAll l (fun e => queueStores k r x.instr w e.1 e.2.1) t))

/-- The verdict on a step by its class. -/
def verdictWork (k : Nat) (r : Run) (x : StepRec) (w : TileWord) (at_ : Nat) (s : State) : State :=
  if x.engineFault then faultReissue k r x w at_ s
  else if isSlotted w then slottedVerdict k r x w at_ s
  else if w.opcode = opRw then rwVerdict k r x w at_ s
  else commitWord k r x.instr w at_ s

/-- The verdict on the oldest step in flight, in program order (R103, R128). No step commits in an ac in which the partition slips: a slip
that is due then takes the verdict's place, unless the verdict slips with the lower code (R71, R72). -/
def stepVerdict (k : Nat) (r : Run) (x : StepRec) (w : TileWord) (s : State) : State :=
  let at_ := max x.verdict r.lastCommit
  let s1 := moveTo at_ s
  let late := (lotDues s k r).find? fun e => e.1 == at_
  let anchor := (lateAnchor r).any fun e => e.2 == at_
  if late.isNone && !anchor then verdictWork k r x w at_ s1
  else
    let probe := verdictWork k r x w at_ (updPart k (fun q => { q with cause := 0 }) s1)
    if (probe.part k).cause == slipLagLimit then probe
    else if anchor then slipAnchor k at_ s1
    else lotLate k at_ ((late.map (·.2)).getD 0) s1

def verdictReady (s : State) (k : Nat) : Option (Run × StepRec × TileWord) :=
  (s.part k).run.bind fun r => r.flight.head?.bind fun x => (wordAt r x.instr).bind fun w =>
    if (s.part k).st == .running && r.ending.isNone && acCome (max x.verdict r.lastCommit) s && foldClear r w
        && verdictTurn (max x.verdict r.lastCommit) (duesOf s k r) then some (r, x, w) else none

def execStepVerdict (part : Nat) (s : State) : Result State :=
  match verdictReady s part with
  | some (r, x, w) => .next (settled (stepVerdict part r x w) s)
  | none => .fault (.notEnabled "STEP_VERDICT")

/-! ## Replays (R105) -/

def replayReady (s : State) (k : Nat) : Option (Run × Replay × TileWord) :=
  (s.part k).run.bind fun r => r.replay.bind fun y => (wordAt r y.instr).bind fun w =>
    if (s.part k).st == .running && r.ending.isNone && acCome y.issue s && issueTurn y.issue (duesOf s k r)
        && slotsFree s k r y.instr w y.round then some (r, y, w) else none

def execTroubleReplay (part : Nat) (ecc : Ecc) (s : State) : Result State :=
  match replayReady s part with
  | some (r, y, w) =>
    .next (issueRound part y.instr r w ⟨y.round, y.attempt, y.assay, y.issue, y.runlen, y.scales, y.epoch⟩ ecc s)
  | none => .fault (.notEnabled "TROUBLE_REPLAY")

/-! ## Drains (R17, R62, R168, R196) -/

/-- A drain that is over: its slot is the next to drain on its pen, and nothing is due before. -/
def drainReady (s : State) (k lp : Nat) : Option (Run × TileWord × Nat × Slot) :=
  (s.part k).run.bind fun r => (drainingSlot (s.pen (physPen s k lp))).bind fun e => (wordAt r e.2.instr).bind fun w =>
    let n := drainOver (s.pen (physPen s k lp)) e.2
    if lp < r.prog.penCount && acCome n s && drainTurn n (duesOf s k r) then some (r, w, e.1, e.2) else none

/-- What the row unit writes for row i of a drained slot, as (address, bits). -/
def drainRow (v : StepEnv) (q : Slot) (i : Nat) : List (Loc × Nat) :=
  let c := v.dc
  if v.w.opcode = opAt then
    let a := attnRow q.entries i
    (List.range 128).map fun d => (rowLoc c (256 * q.rb + i) d, elemBits c.format (attnDrain a d))
  else (List.range (validCols c v.w.cb)).map fun n =>
    (rowLoc c (256 * q.rb + i) (256 * v.w.cb + n), elemBits c.format (drainNum v n (tget 0 q.entries (256 * i + n))))

/-- The scratchpad after a drain that started at an ac: row r is written back 12 ac after it reaches the row unit (R62). -/
def drainStage (start : Nat) (v : StepEnv) (q : Slot) (t : List SpadWrite) : List SpadWrite :=
  (List.range (validRows v.dc q.rb)).foldl (fun t i => stageElems (start + i + 12) (bitsOf v.dc) (drainRow v q i) t) t

/-- Whether a drained AT row has no unmasked key (R226). -/
def emptyRow (c : Desc) (q : Slot) : Bool := (List.range (validRows c q.rb)).any fun i => isZero (attnRow q.entries i).l

/-- The end of a slot's drain: its rows are staged, and it is FREE (R16, R17, R62). -/
def drainSlot (k lp : Nat) (r : Run) (w : TileWord) (i : Nat) (q : Slot) (collision : Bool) (s : State) : State :=
  let n := drainOver (s.pen (physPen s k lp)) q
  let x : StepRec := ⟨q.instr, q.round, 0, false, 0, 0, false, 0, 0, 0, []⟩
  let v := stepEnv s k r x w lp q.rb
  let t := updPen (physPen s k lp) (fun p =>
    { p with
      slots := terase i p.slots
      stage := drainStage (n - 256) v q p.stage
      drainEnd := n
      wroteAt := max p.wroteAt (n + 12)
      rowu := { p.rowu with func := 0, old := false, drain := true }
      attn := if w.opcode = opAt && emptyRow v.dc q then { p.attn with empty := true } else p.attn }) (moveTo n s)
  if collision then hazard k (physPen s k lp) t else t

def execDrain (part lpen : Nat) (collision : Bool) (s : State) : Result State :=
  match drainReady s part lpen with
  | some (r, w, i, q) => .next (settled (drainSlot part lpen r w i q collision) s)
  | none => .fault (.notEnabled "DRAIN")

/-! ## The end of a RUN -/

/-- The completion is written; after a decode fault, whose code it carries, the context is cancelled (R132); it stays registered after a
failed list (R138). -/
def runComplete (k : Nat) (e : Ending) (s : State) : State :=
  match (s.part k).run with
  | none => s
  | some r =>
    let t := endRun k e.status e.code e.whr e.index s
    if r.decodeStop.isSome && e.status = stBadArg && e.code != 0 then cancelContext r.ctx t else t

def execRunComplete (part : Nat) (s : State) : Result State :=
  match runEnd s part with
  | some e => .next (settled (runComplete part e) s)
  | none => .fault (.notEnabled "RUN_COMPLETE")

end Sys2Proof.Machine
end

