-- ==== Sys2Proof/Machine/Payload.lean ====
section
/-! DEFINITION. The payloads of the mailbox commands (R380 and the rules it names): their layouts, and the command that a sampled
POST, CTRL and payload spell (R367, R368). -/

namespace Sys2Proof.Machine

/-! ## Layouts -/

/-- A field of a payload, in bits from the lowest; an unnamed one is reserved (R6). -/
structure Piece where
  width : Nat
  named : Bool
  deriving DecidableEq, Repr

def fld (w : Nat) : Piece := ⟨w, true⟩
def gap (w : Nat) : Piece := ⟨w, false⟩

/-- The named fields of a payload, read from its number. -/
def readFields : List Piece → Nat → List Nat
  | [], _ => []
  | p :: l, n => if p.named then n % 2 ^ p.width :: readFields l (n / 2 ^ p.width) else readFields l (n / 2 ^ p.width)

/-- Whether a reserved field of a payload is not 0. -/
def gapsSet : List Piece → Nat → Bool
  | [], _ => false
  | p :: l, n => (!p.named && n % 2 ^ p.width != 0) || gapsSet l (n / 2 ^ p.width)

/-- The number of a payload with the given named fields, and reserved fields of 0. -/
def writeFields : List Piece → List Nat → Nat
  | [], _ => 0
  | p :: l, v =>
    if p.named then v.headD 0 % 2 ^ p.width + 2 ^ p.width * writeFields l v.tail else 2 ^ p.width * writeFields l v

/-- Bits that a layout spans. -/
def layoutBits (l : List Piece) : Nat := (l.map (·.width)).sum

/-- A layout n times over. -/
def rep : Nat → List Piece → List Piece
  | 0, _ => []
  | n + 1, l => l ++ rep n l

def handleLayout : List Piece := [fld 32, gap 32]
def byteLayout : List Piece := [fld 8, gap 56]
def batchLayout : List Piece := [fld 32, fld 1, gap 31]
def rangeLayout : List Piece := [fld 64, fld 64, fld 2, gap 62]
def tierLayout : List Piece := [fld 32, fld 32, fld 32, fld 32]
def kvLayout : List Piece := [fld 32, fld 32, fld 32, fld 32, fld 32, gap 32]

/-- R332. -/
def routeLayout : List Piece := [fld 16, fld 8, fld 8, fld 48, fld 8, fld 8, fld 32, fld 32, gap 96]

/-- R117. -/
def descLayout : List Piece :=
  [fld 48, gap 16, fld 8, fld 8, fld 1, fld 3, fld 2, gap 2, fld 8, fld 32, fld 32, gap 32] ++ rep 5 [fld 32] ++ [gap 32]
    ++ rep 4 [fld 48, gap 16] ++ rep 6 [fld 16] ++ [gap 32] ++ rep 8 [fld 16] ++ [gap 128]

/-- R306. -/
def codecLayout : List Piece :=
  [fld 32] ++ rep 8 [fld 8] ++ [fld 16, fld 16, fld 8, fld 8, fld 8, fld 8, fld 12, gap 20, fld 48, gap 16, fld 64]
    ++ rep 6 [fld 32] ++ descLayout ++ [fld 8, gap 8, fld 16, fld 16, gap 16, fld 32, gap 32, fld 64]

/-- RUN.SUBMIT's entries, at most one more than any LEN can hold (R377). -/
def batchCount (n : Nat) : Nat := min (field n 192 32) 501

/-- COUNT or N_RANGE in byte 1 (R241, R332). -/
def entryCount (n : Nat) : Nat := field n 8 8

/-- The layouts of opcodes below 0x0800. -/
def layoutLow (op n : Nat) : List Piece :=
  if op == 0x0001 then byteLayout
  else if op == 0x0101 then byteLayout
  else if op == 0x0102 then handleLayout
  else if op == 0x0103 then batchLayout
  else if op == 0x0104 then handleLayout
  else if op == 0x0201 then
    [fld 32, gap 32, fld 48, gap 16, fld 64, fld 32, gap 32] ++ rep (batchCount n) batchLayout
  else if op == 0x0202 then handleLayout
  else if op == 0x0301 then [fld 12, gap 4, fld 1, gap 15, gap 32, fld 64]
  else if op == 0x0302 then [fld 16, fld 16, gap 32]
  else if op == 0x0303 then [fld 32, fld 12, gap 4, gap 16, fld 64, fld 32, gap 32]
  else if op == 0x0401 then [fld 32, fld 1, fld 1, gap 30, fld 48, gap 16, fld 64, fld 12, gap 4, gap 16, fld 32]
  else if op == 0x0402 then [fld 32, fld 32]
  else if op == 0x0501 then [fld 8, fld 8, gap 48] ++ rep (entryCount n) rangeLayout
  else if 0x0502 ≤ op && op ≤ 0x0506 then tierLayout
  else if op == 0x0601 then [fld 32, fld 32, fld 48, gap 16, fld 1, gap 31, gap 32]
  else if op == 0x0701 then [fld 32, fld 16, fld 8, gap 8, fld 48, gap 16, fld 32, gap 32]
  else if 0x0702 ≤ op && op ≤ 0x0704 then kvLayout
  else if op == 0x0705 then [fld 32, fld 32]
  else []

/-- The layouts of opcodes from 0x0800 up. -/
def layoutHigh (op n : Nat) : List Piece :=
  if op == 0x0801 then [fld 8, fld 8, gap 48]
  else if op == 0x0901 then codecLayout
  else if op == 0x0902 then [fld 32, fld 1, gap 31, fld 48, gap 16, fld 32, fld 32, fld 48, gap 16]
  else if op == 0x0903 then
    [fld 32, fld 1, fld 1, gap 30, fld 48, gap 16, fld 32, gap 32, fld 48, gap 16, fld 32, gap 32]
  else if op == 0x0904 then handleLayout
  else if op == 0x0905 then [fld 32]
  else if op == 0x0A01 then [fld 16, fld 8, gap 8] ++ rep 16 [fld 8] ++ [fld 128, fld 128, fld 32, fld 32]
  else if op == 0x0A02 then [fld 8, fld 8, gap 48] ++ rep (entryCount n) routeLayout
  else if op == 0x0A04 then [fld 32, fld 8, fld 8, fld 16, fld 48, gap 16, fld 32, gap 32]
  else if op == 0x0B01 then [fld 8, fld 8, gap 16, fld 32, fld 64, fld 64]
  else if op == 0x0C01 then byteLayout
  else if op == 0x0C02 then [fld 8, gap 24, fld 32]
  else if op == 0x0D01 then [fld 32, fld 8, gap 8, fld 16, fld 48, gap 16, fld 64, fld 32, gap 32]
  else if op == 0x0D02 then byteLayout
  else if op == 0x0E01 then [fld 16, gap 48, fld 16, fld 16, fld 16, fld 16]
  else if op == 0x0E02 then [gap 64]
  else if op == 0x0F01 then [fld 8, fld 8, fld 8, gap 40, fld 64, fld 32, fld 32, gap 64]
  else if op == 0x0F02 then [fld 8, fld 8, fld 16, gap 32]
  else if op == 0x0F03 then [gap 64]
  else if op == 0x1001 then [fld 48, gap 16, fld 32, gap 32]
  else if op == 0x1101 then [fld 8, fld 8, gap 48, fld 64, fld 1064, gap 24]
  else if op == 0x1102 then [gap 64]
  else if op == 0x1201 then [fld 8, gap 56, fld 1056, gap 32]
  else if op == 0x1202 then [gap 64]
  else []

/-- The layout of an opcode's payload; counts come from the payload itself (R369). -/
def layoutOf (op n : Nat) : List Piece := if op < 0x0800 then layoutLow op n else layoutHigh op n

/-! ## From fields to commands -/

/-- Field i of a list. -/
def fieldNo (v : List Nat) (i : Nat) : Nat := v.getD i 0

def flagOf (n : Nat) : Bool := n % 2 == 1

/-- Batch entries in pairs of fields (R377). -/
def batchOf : List Nat → List BatchEntry
  | q :: l :: t => ⟨q, flagOf l⟩ :: batchOf t
  | _ => []

/-- T2 ranges in triples (R241). -/
def t2RangesOf : List Nat → List T2Range
  | b :: l :: p :: t => ⟨b, l, p⟩ :: t2RangesOf t
  | _ => []

/-- Routes in groups of eight (R332). -/
def routesOf : List Nat → List Route
  | a :: b :: c :: d :: e :: f :: g :: h :: t => ⟨a, b, c, d, e, f, g, h⟩ :: routesOf t
  | _ => []

/-- A descriptor from its 33 fields (R117). -/
def descOf (v : List Nat) : Desc :=
  let x := fieldNo v
  { base := x 0, format := x 1, layout := x 2, qmode := x 3, ls := x 4, qfmt := x 5, padmode := x 6, padval := x 7,
    clipLimit := x 8, ext := (v.drop 9).take 5, str := (v.drop 14).take 4, pad := (v.drop 18).take 6, scaleA := x 24,
    scaleW := x 25, scaleC := x 26, bscale := x 27, ledgerList := x 28, ledgerAct := x 29, codebook := x 30, ledgerW := x 31,
    rsv := false }

/-- CODEC.OPEN's parameters (R306). -/
def codecOf (v : List Nat) : CodecParams :=
  let x := fieldNo v
  { ctx := x 0, dir := x 1, standard := x 2, profile := x 3, level := x 4, cls := x 5, framing := x 6, bitDepth := x 7,
    pipe := x 8, width := x 9, height := x 10, pw := x 11, ph := x 12, pt := x 13, colour := x 14, sync := x 15,
    workVa := x 16, workBytes := x 17, mul := (v.drop 18).take 3, add := (v.drop 21).take 3, desc := descOf (v.drop 24),
    qi := x 56, refresh := x 57, window := x 58, frameCap := x 59, windowCap := x 60 }

/-- FABRIC.CONFIG's parameters (R353). -/
def fabricOf (v : List Nat) : FabricParams :=
  let x := fieldNo v
  { moduleId := x 0, shiftMargin := x 1, modes := (v.drop 2).take 16, ipv6 := x 18, ipv6b := x 19, ipv4 := x 20, ipv4b := x 21 }

/-- The commands of opcodes below 0x0800. -/
def commandLow (p : Post) (op : Nat) (v : List Nat) : Option Instr :=
  let x := fieldNo v
  if op == 0x0001 then some (.funcOpen p (x 0))
  else if op == 0x0002 then some (.funcInfo p)
  else if op == 0x0101 then some (.contextRegister p (x 0))
  else if op == 0x0102 then some (.contextRelease p (x 0))
  else if op == 0x0103 then some (.contextReside p (x 0) (flagOf (x 1)))
  else if op == 0x0104 then some (.contextCancel p (x 0))
  else if op == 0x0201 then some (.runSubmit p (x 0) (x 1) (x 2) (batchOf (v.drop 4)))
  else if op == 0x0202 then some (.runQuery p (x 0))
  else if op == 0x0301 then some (.syncAdd p (x 0) (flagOf (x 1)) (x 2))
  else if op == 0x0302 then some (.syncRead p (x 0) (x 1))
  else if op == 0x0303 then some (.syncWait p (x 0) (x 1) (x 2) (x 3))
  else if op == 0x0401 then some (.allocTensor p (x 0) (flagOf (x 1)) (flagOf (x 2)) (x 3) (x 4) (x 5) (x 6))
  else if op == 0x0402 then some (.allocFree p (x 0) (x 1))
  else if op == 0x0501 then some (.tierConfig p (x 0) (t2RangesOf (v.drop 2)))
  else if op == 0x0502 then some (.tierPromote p (x 0) (x 1) (x 2) (x 3))
  else if op == 0x0503 then some (.tierEvict p (x 0) (x 1) (x 2) (x 3))
  else if op == 0x0504 then some (.tierPin p (x 0) (x 1) (x 2) (x 3))
  else if op == 0x0505 then some (.tierUnpin p (x 0) (x 1) (x 2) (x 3))
  else if op == 0x0506 then some (.tierQuery p (x 0) (x 1) (x 2) (x 3))
  else if op == 0x0601 then some (.weightLoad p (x 0) (x 1) (x 2) (flagOf (x 3)))
  else if op == 0x0701 then some (.kvCreate p (x 0) (x 1) (x 2) (x 3) (x 4))
  else if op == 0x0702 then some (.kvShare p (x 0) (x 1) (x 2) (x 3) (x 4))
  else if op == 0x0703 then some (.kvRelease p (x 0) (x 1) (x 2) (x 3) (x 4))
  else if op == 0x0704 then some (.kvMark p (x 0) (x 1) (x 2) (x 3) (x 4))
  else if op == 0x0705 then some (.kvQuery p (x 0) (x 1))
  else none

/-- RECOVER.DUMP by its OP (R420). -/
def dumpCommand (p : Post) (v : List Nat) : Option Instr :=
  let x := fieldNo v
  if x 0 == 0 then some (.recoverDumpTake p (x 1) (x 2))
  else if x 0 == 1 then some (.recoverDumpRead p (x 1) (x 2) (x 3) (x 4) (x 5))
  else if x 0 == 2 then some (.recoverDumpKeep p (x 1) (x 2))
  else if x 0 == 3 then some (.recoverDumpRelease p (x 1) (x 2))
  else none

/-- SEC.KEY by its OP (R461). -/
def keyCommand (p : Post) (v : List Nat) : Option Instr :=
  let x := fieldNo v
  if x 0 == 0 then some (.secKeyInstall p (x 1) (x 2) (leBytes 133 (x 3)))
  else if x 0 == 1 then some (.secKeyRevoke p (x 1) (x 2) (leBytes 133 (x 3)))
  else none

/-- The commands of opcodes from 0x0800 up. -/
def commandHigh (p : Post) (op : Nat) (v : List Nat) : Option Instr :=
  let x := fieldNo v
  if op == 0x0801 then some (.memQuery p (x 0) (x 1))
  else if op == 0x0802 then some (.memRestore p)
  else if op == 0x0901 then some (.codecOpen p (codecOf v))
  else if op == 0x0902 then some (.codecDecode p (x 0) (flagOf (x 1)) (x 2) (x 3) (x 4) (x 5))
  else if op == 0x0903 then some (.codecEncode p (x 0) (flagOf (x 1)) (flagOf (x 2)) (x 3) (x 4) (x 5) (x 6))
  else if op == 0x0904 then some (.codecClose p (x 0))
  else if op == 0x0905 then some (.codecQuery p (x 0))
  else if op == 0x0A01 then some (.fabricConfig p (fabricOf v))
  else if op == 0x0A02 then some (.fabricRoute p (x 0) (x 1) (routesOf (v.drop 2)))
  else if op == 0x0A03 then some (.fabricQuery p)
  else if op == 0x0A04 then some (.fabricCopy p (x 0) (x 1) (x 2) (x 3) (x 4) (x 5))
  else if op == 0x0B01 then some (.tallyConfig p (x 0) (x 1) (x 2) (x 3) (x 4))
  else if op == 0x0C01 then some (.partitionConfig p (x 0))
  else if op == 0x0C02 then some (.partitionQuery p (x 0) (x 1))
  else if op == 0x0D01 then some (.hostCopy p (x 0) (x 1) (x 2) (x 3) (x 4) (x 5))
  else if op == 0x0D02 then some (.hostHdm p (x 0))
  else if op == 0x0E01 then some (.powerBudget p (x 0) ((v.drop 1).take 4))
  else if op == 0x0E02 then some (.powerQuery p)
  else if op == 0x0F01 then dumpCommand p v
  else if op == 0x0F02 then some (.recoverReset p (x 0) (x 1) (x 2))
  else if op == 0x0F03 then some (.recoverQuery p)
  else if op == 0x1001 then some (.daybookRead p (x 0) (x 1))
  else if op == 0x1101 then keyCommand p v
  else if op == 0x1102 then some (.secQuery p)
  else if op == 0x1201 then some (.lifecycleAdvance p (x 0) (leBytes 132 (x 1)))
  else if op == 0x1202 then some (.lifecycleQuery p)
  else none

/-- The opcode of a POST word (R367). -/
def postedOp (q : Posted) : Nat := field q.post 16 16

/-- The posting header of a sampled mailbox: POST and CTRL, with the reserved bits of CTRL and of the payload (R6, R367). -/
def postOf (q : Posted) : Post :=
  let n := ofLe q.payload
  { func := q.func, mbx := q.mbx, seq := field q.post 0 16, len := field q.ctrl 0 16, part := field q.ctrl 18 2,
    irqFinal := bit q.ctrl 16, irqAccept := bit q.ctrl 17,
    rsv := field q.ctrl 20 12 != 0 || gapsSet (layoutOf (postedOp q) n) n }

/-- The command that a sampled mailbox spells; none for an opcode that R380 does not list, or an OP that has no row. -/
def postedCommand (q : Posted) : Option Instr :=
  let n := ofLe q.payload
  let v := readFields (layoutOf (postedOp q) n) n
  if postedOp q < 0x0800 then commandLow (postOf q) (postedOp q) v else commandHigh (postOf q) (postedOp q) v

/-! ## From commands to mailboxes -/

def unbatch (l : List BatchEntry) : List Nat := l.flatMap fun b => [b.seq, boolNat b.leave]
def unrange (l : List T2Range) : List Nat := l.flatMap fun r => [r.base, r.length, r.part]
def unroute (l : List Route) : List Nat :=
  l.flatMap fun r => [r.peer, r.hops, r.rxGate, r.path, r.plane, r.alt, r.lat, r.retryGap]

/-- The fields of a descriptor in order (R117). -/
def descFields (d : Desc) : List Nat :=
  [d.base, d.format, d.layout, d.qmode, d.ls, d.qfmt, d.padmode, d.padval, d.clipLimit] ++ d.ext ++ d.str ++ d.pad
    ++ [d.scaleA, d.scaleW, d.scaleC, d.bscale, d.ledgerList, d.ledgerAct, d.codebook, d.ledgerW]

/-- The fields of CODEC.OPEN in order (R306). -/
def codecFields (o : CodecParams) : List Nat :=
  [o.ctx, o.dir, o.standard, o.profile, o.level, o.cls, o.framing, o.bitDepth, o.pipe, o.width, o.height, o.pw, o.ph, o.pt,
   o.colour, o.sync, o.workVa, o.workBytes] ++ o.mul ++ o.add ++ descFields o.desc
    ++ [o.qi, o.refresh, o.window, o.frameCap, o.windowCap]

/-- A mailbox command's header, opcode and named payload fields in order; none for a command that no mailbox carries. -/
def commandFields : Instr → Option (Post × Nat × List Nat)
  | .funcOpen p a => some (p, 0x0001, [a])
  | .funcInfo p => some (p, 0x0002, [])
  | .contextRegister p a => some (p, 0x0101, [a])
  | .contextRelease p c => some (p, 0x0102, [c])
  | .contextReside p c o => some (p, 0x0103, [c, boolNat o])
  | .contextCancel p c => some (p, 0x0104, [c])
  | .runSubmit p c g b l => some (p, 0x0201, [c, g, b, l.length] ++ unbatch l)
  | .runQuery p r => some (p, 0x0202, [r])
  | .syncAdd p c f v => some (p, 0x0301, [c, boolNat f, v])
  | .syncRead p f c => some (p, 0x0302, [f, c])
  | .syncWait p x c v t => some (p, 0x0303, [x, c, v, t])
  | .allocTensor p c r b va sz tg sr => some (p, 0x0401, [c, boolNat r, boolNat b, va, sz, tg, sr])
  | .allocFree p c t => some (p, 0x0402, [c, t])
  | .tierConfig p c l => some (p, 0x0501, [c, l.length] ++ unrange l)
  | .tierPromote p c t f n => some (p, 0x0502, [c, t, f, n])
  | .tierEvict p c t f n => some (p, 0x0503, [c, t, f, n])
  | .tierPin p c t f n => some (p, 0x0504, [c, t, f, n])
  | .tierUnpin p c t f n => some (p, 0x0505, [c, t, f, n])
  | .tierQuery p c t f n => some (p, 0x0506, [c, t, f, n])
  | .weightLoad p c t m v => some (p, 0x0601, [c, t, m, boolNat v])
  | .kvCreate p c h f b m => some (p, 0x0701, [c, h, f, b, m])
  | .kvShare p q f c g r => some (p, 0x0702, [q, f, c, g, r])
  | .kvRelease p q f c g r => some (p, 0x0703, [q, f, c, g, r])
  | .kvMark p q f c g r => some (p, 0x0704, [q, f, c, g, r])
  | .kvQuery p q f => some (p, 0x0705, [q, f])
  | .memQuery p f c => some (p, 0x0801, [f, c])
  | .memRestore p => some (p, 0x0802, [])
  | .codecOpen p o => some (p, 0x0901, codecFields o)
  | .codecDecode p q l a b g o => some (p, 0x0902, [q, boolNat l, a, b, g, o])
  | .codecEncode p q l k a g o b => some (p, 0x0903, [q, boolNat l, boolNat k, a, g, o, b])
  | .codecClose p q => some (p, 0x0904, [q])
  | .codecQuery p q => some (p, 0x0905, [q])
  | .fabricConfig p c =>
    some (p, 0x0A01, [c.moduleId, c.shiftMargin] ++ c.modes ++ [c.ipv6, c.ipv6b, c.ipv4, c.ipv4b])
  | .fabricRoute p f c l => some (p, 0x0A02, [f, c] ++ unroute l)
  | .fabricQuery p => some (p, 0x0A03, [])
  | .fabricCopy p c r d t va b => some (p, 0x0A04, [c, r, d, t, va, b])
  | .tallyConfig p g i d o t => some (p, 0x0B01, [g, i, d, o, t])
  | .partitionConfig p m => some (p, 0x0C01, [m])
  | .partitionQuery p q f => some (p, 0x0C02, [q, f])
  | .hostCopy p c d q va h b => some (p, 0x0D01, [c, d, q, va, h, b])
  | .hostHdm p m => some (p, 0x0D02, [m])
  | .powerBudget p l b => some (p, 0x0E01, l :: b)
  | .powerQuery p => some (p, 0x0E02, [])
  | .recoverDumpTake p q t => some (p, 0x0F01, [0, q, t, 0, 0, 0])
  | .recoverDumpRead p q t h o b => some (p, 0x0F01, [1, q, t, h, o, b])
  | .recoverDumpKeep p q t => some (p, 0x0F01, [2, q, t, 0, 0, 0])
  | .recoverDumpRelease p q t => some (p, 0x0F01, [3, q, t, 0, 0, 0])
  | .recoverReset p l q e => some (p, 0x0F02, [l, q, e])
  | .recoverQuery p => some (p, 0x0F03, [])
  | .daybookRead p f c => some (p, 0x1001, [f, c])
  | .secKeyInstall p q k b => some (p, 0x1101, [0, q, k, ofLe b])
  | .secKeyRevoke p q k b => some (p, 0x1101, [1, q, k, ofLe b])
  | .secQuery p => some (p, 0x1102, [])
  | .lifecycleAdvance p t a => some (p, 0x1201, [t, ofLe a])
  | .lifecycleQuery p => some (p, 0x1202, [])
  | _ => none

/-- The count that a command's layout takes from its fields, as a payload number that holds it where the layout looks. -/
def countSeed (op : Nat) (v : List Nat) : Nat := if op == 0x0201 then 2 ^ 192 * fieldNo v 3 else 2 ^ 8 * fieldNo v 1

/-- A mailbox command as the host writes it: POST, CTRL and payload, reserved fields 0. -/
def postedForm (i : Instr) : Option Posted :=
  (commandFields i).map fun e =>
    { func := e.1.func, mbx := e.1.mbx, post := e.1.seq + 65536 * e.2.1, ctrl := ctrlWord e.1,
      payload := leBytes (8 * e.1.len) (writeFields (layoutOf e.2.1 (countSeed e.2.1 e.2.2)) e.2.2) }

end Sys2Proof.Machine
end

