-- ==== Sys2Proof/Machine/Checks.lean ====
section
/-! DEFINITION. The static checks of RUN.SUBMIT, in the order of R143: the rows of R143, R166, R191, R227 and R354, and the rules of
R233, R252, R253, R255 and R435. -/

namespace Sys2Proof.Machine

/-! ## Failures -/

/-- Why a program is not accepted: the status, and the index with its form (R377). -/
structure Failure where
  status : Nat
  whr : Nat
  index : Nat
  deriving DecidableEq, Repr

def failIf (b : Bool) (st : Nat) : Option Nat := if b then some st else none

/-- A check of the header. -/
def headFail (b : Bool) (st : Nat) : Option Failure := if b then some ⟨st, 0, 0⟩ else none

/-- The first descriptor that fails a check; descriptor 0 is none (R116). -/
def descFail (p : Program) (f : Desc → Option Nat) : Option Failure :=
  (p.descs.zipIdx.drop 1).findSome? fun e => (f e.1).map fun st => ⟨st, 2, e.2⟩

/-- The first tile word that fails a check. -/
def wordFail (p : Program) (f : Nat → TileWord → Option Nat) : Option Failure :=
  p.words.zipIdx.findSome? fun e => (f e.2 e.1).map fun st => ⟨st, 1, e.2⟩

/-- A check of the words of one kind with one status. -/
def badWords (p : Program) (kind : TileWord → Bool) (bad : Nat → TileWord → Bool) (st : Nat) : Option Failure :=
  wordFail p fun j w => failIf (kind w && bad j w) st

def badDescs (p : Program) (bad : Desc → Bool) (st : Nat) : Option Failure := descFail p fun d => failIf (bad d) st

/-! ## The header and the tables (R143, first rows) -/

/-- The parts of an image: header, descriptors, words, profile. -/
def imageParts (p : Program) : List (Nat × Nat) :=
  [(0, 128), (p.descOff, 128 * p.nDesc), (p.wordOff, 32 * p.nWords), (p.energyOff, 8 * p.energyN)].filter fun e => e.2 != 0

def partsOverlap : List (Nat × Nat) → Bool
  | [] => false
  | e :: t => t.any (fun x => e.1 < x.1 + x.2 && x.1 < e.1 + e.2) || partsOverlap t

def magicWord : Nat := 0x4650564F

/-- The rows that need the header alone. -/
def headerChecks (abi : Nat) (p : Program) : Option Failure :=
  headFail (p.magic != magicWord || p.version != abi || p.descOff % 128 != 0 || p.wordOff % 32 != 0
      || partsOverlap (imageParts p)) stBadArg
  <|> headFail (p.nDesc < 1 || 65536 < p.nDesc || p.nWords < 1 || 16777216 < p.nWords
      || (imageParts p).any fun e => p.length < e.1 + e.2) stBadLength

/-! ## Reserved fields (R6, R120, R121) -/

/-- A word whose fields reserved for its class are not 0. HOLD, CONT, WORK, ASSAY, POLICY and RUNLEN of MV, SY and TL words are in no row of
R121 and are not looked at (DESIGN CHOICE, log 64); those of RW words are R191's. -/
def wordReserved (w : TileWord) : Bool :=
  let op := w.opcode
  w.rsv || (
    if op = opMm then w.sel != 0 || w.sub != 0
    else if op = opAt then w.sub != 0
    else if op = opRw then w.koff != 0 || 256 ≤ w.sel || (w.db != 0 && rwBform w = 0 && w.sub != 0x18)
    else if isMv w then
      w.db != 0 || w.k != 0 || w.sub != 0 || w.koff != 0 || (if op = opSend || op = opRecv then 2 ^ 29 ≤ w.sel else w.sel != 0)
    else if op = opGrant then w.db != 0 || w.k != 0 || w.sel != 0 || w.cb != 0 || w.koff != 0
    else if op = opFold || op = opSignal || op = opWait || op = opTl then
      w.da != 0 || w.db != 0 || w.dc != 0 || w.k != 0 || w.cb != 0 || w.hi8 != 0 || w.sub != 0
        || (if op = opFold || op = opTl then w.sel != 0 || w.value != 0 else 4096 ≤ w.sel)
    else false)

def reservedRow (p : Program) : Option Failure :=
  headFail p.headRsv stBadArg
  <|> (if p.descs.head? = some Desc.null then none else some ⟨stBadArg, 2, 0⟩)
  <|> badDescs p (·.rsv) stBadArg
  <|> badWords p (fun _ => true) (fun _ => wordReserved) stBadArg

/-! ## Opcodes and descriptors -/

/-- The opcodes of ABI version 1 (R376). -/
def oldOpcodes : List Nat := [opMm, opCv, opRw, opLoad, opStore, opWeight, opFold, opSignal, opWait, opTl]

def opcodeRow (p : Program) : Option Failure :=
  badWords p (fun _ => true) (fun _ w => !(if p.version = 1 then oldOpcodes else opcodes).contains w.opcode) stBadOpcode

/-- Whether a word must name its DA, DB and DC (R121, R334). -/
def needsDa (w : TileWord) : Bool := isSlotted w || w.opcode == opRw || (isMv w && w.opcode != opRecv) || w.opcode == opGrant
def needsDb (w : TileWord) : Bool := isSlotted w
def needsDc (w : TileWord) : Bool := isSlotted w || w.opcode == opRw || (isMv w && w.opcode != opSend) || w.opcode == opGrant

def indexRow (p : Program) : Option Failure :=
  badWords p (fun _ => true) (fun _ w =>
    p.nDesc ≤ w.da || p.nDesc ≤ w.db || p.nDesc ≤ w.dc || (needsDa w && w.da = 0) || (needsDb w && w.db = 0)
      || (needsDc w && w.dc = 0)) stBadArg

/-- The strides of R118. -/
def stridesFit (d : Desc) : Bool :=
  if d.layout = 0 then
    (List.range 4).all fun i => extAt d (i + 1) == 1 || (strAt d (i + 1) % 64 == 0 && packedLen d i ≤ strAt d (i + 1))
  else if d.layout = 1 || d.layout = 2 then true
  else d.str.all (· == 0)

def extentRow (p : Program) : Option Failure := badDescs p (fun d => d.ext.any (· == 0) || !stridesFit d) stBadArg

def rowCountRow (p : Program) : Option Failure :=
  badDescs p (fun d => 2 ^ 32 < extAt d 1 * extAt d 2 * extAt d 3 * extAt d 4) stBadLength

def hasK (w : TileWord) : Bool := isSlotted w || w.opcode == opRw

def kRow (p : Program) : Option Failure := badWords p hasK (fun _ w => w.k < 1 || 2 ^ 20 < w.k) stBadLength

/-- The words of class AT. -/
def isAt (w : TileWord) : Bool := w.opcode == opAt

/-- The sequence of a batch whose head base a descriptor's BASE is, with the head (R217). -/
def headOf (s : State) (k ctx : Nat) (batch : List BatchEntry) (d : Desc) : Option (KvSeq × Nat) :=
  batch.findSome? fun b => (findSeq s k b.seq).bind fun q =>
    let size := q.nb * pagesPerBlock q.format * kvPageBytes
    if q.ctx == ctx && q.base ≤ d.base && (d.base - q.base) % max 1 size == 0 && (d.base - q.base) / max 1 size < q.heads
        && pagesPerBlock d.format == pagesPerBlock q.format then some (q, (d.base - q.base) / max 1 size) else none

def beyondHead (s : State) (k ctx : Nat) (batch : List BatchEntry) (d : Desc) (n : Nat) : Bool :=
  match headOf s k ctx batch d with
  | some h => 256 * h.1.nb < n
  | none => false

/-- The reduction range lies in EXT0 of DA (R123), and for MM in the layer's reduction rounded up to a K group, beyond whose end the
tiles hold zeros (R232); that of AT in the keys of its sequence (R227). -/
def reductionRow (s : State) (k ctx : Nat) (batch : List BatchEntry) (p : Program) : Option Failure :=
  badWords p isSlotted (fun j w =>
    if isAt w then beyondHead s k ctx batch (Desc.at p w.db) (256 * w.koff + w.k)
    else extAt (Desc.at p w.da) 0 < chanStart w + w.k
      || (w.opcode == opMm && ceilDiv (extAt (broadcastDesc p j w) 1) 128 * 128 < chanStart w + w.k)) stBadLength

/-- The words whose row blocks this row bounds, and the descriptor that bounds them. -/
def hasRows (w : TileWord) : Bool :=
  (isSlotted w && !w.work) || w.opcode == opRw || (isMv w && w.opcode != opWeight)

def blockRow (p : Program) : Option Failure :=
  badWords p (fun w => isSlotted w || w.opcode == opRw || isMv w) (fun _ w =>
    let d := Desc.at p (if w.opcode = opSend then w.da else w.dc)
    (hasRows w && (w.rbCount = 0 || rowBlocks d < w.rbFirst + w.rbCount))
      || (w.opcode != opSend && colBlocks d ≤ w.cb)) stBadLength

/-! ## Formats, pairings, auxiliary items, chains and WORK -/

def isFp8 (f : Nat) : Bool := f == 0x08 || f == 0x09
def isLow (f : Nat) : Bool := 1 ≤ f && f ≤ 5
def isAct8 (f : Nat) : Bool := f == 0x07 || isFp8 f

/-- R82. -/
def pairs (wf af : Nat) : Bool :=
  (wf == 0x07 && af == 0x07) || (isFp8 wf && isFp8 af) || ((isLow wf || wf == 0x06) && isAct8 af) || (is16 wf && is16 af)

/-- The formats of ABI version 1 (R376). -/
def oldFormats : List Nat := [0x05, 0x07, 0x08, 0x09, 0x0A, 0x0B, 0x0C, 0x0D]

/-- R79, R87, R117, R134 and R376 on one descriptor. -/
def descFits (p : Program) (d : Desc) : Bool :=
  between 1 14 d.format && d.layout ≤ 5 && d.base % 64 == 0 && (if d.qmode = 1 then d.format == 0x0A && d.qfmt != 3 else d.qfmt == 0)
    && (match d.padmode with
        | 0 => true
        | 1 => d.padval < 256 && bitsOf d ≤ 8
        | 2 => d.padval == 0
        | 3 => d.padval == 0
        | _ => false)
    && (p.version != 1 || (oldFormats.contains d.format && d.ledgerList == 0 && d.codebook == 0))

/-- The K groups of a layer's reduction, over its taps (R149). -/
def layerGroups (b : Desc) : Nat := ceilDiv (extAt b 1) 128 * extAt b 2 * extAt b 3 * extAt b 4

/-- A present item has its format and shape: row length, rows (R117); a ledger list and its weights are ROWMAJOR. -/
def itemFits (p : Program) (i fmt e0 rows : Nat) (rowMajor : Bool) : Bool :=
  i == 0 || (i < p.nDesc && (Desc.at p i).format == fmt && extAt (Desc.at p i) 0 == e0 && rowsOf (Desc.at p i) == rows
    && (Desc.at p i).layout ≤ (if rowMajor then 0 else 2))

/-- The auxiliary items of an MM, CV or CV.DW word: their presence (R82, R119) and shapes. -/
def auxFits (p : Program) (j : Nat) (w : TileWord) : Bool :=
  let a := Desc.at p w.da
  let b := broadcastDesc p j w
  let c := Desc.at p w.dc
  let n := extAt b 0
  let g := layerGroups b
  let led := b.ledgerList != 0
  (!isLow b.format || b.scaleW != 0) && ((b.format != 0x06 && !is16 b.format) || b.scaleW == 0)
    && (b.format != 0x06 || b.bscale != 0) && (!led || isLow b.format || b.format == 0x06)
    && (!led || (b.ledgerW != 0 && (a.qmode == 1 || b.ledgerAct != 0))) && (b.format != 0x04 || b.codebook != 0)
    && itemFits p a.scaleA 0x0C (rowsOf c) 1 false && itemFits p b.scaleW 0x0C n g false && itemFits p b.scaleC 0x0C n 1 false
    && (b.format != 0x06 || itemFits p b.bscale 0x0E n (4 * g) false) && itemFits p b.ledgerList 0x07 4 g true
    && (!led || (itemFits p b.ledgerW 0x07 n (4 * g) true && (a.qmode == 1 || itemFits p b.ledgerAct 0x0A (4 * g) (rowsOf c) false)))
    && (b.format != 0x04 || itemFits p b.codebook 0x07 4 (ceilDiv n 128) false)

/-- The outputs of R168, and keys or values for MM (R208). -/
def outFits (w : TileWord) (c : Desc) : Bool :=
  if c.layout = 4 then w.opcode == opMm else c.format == 0x07 || between 0x08 0x0D c.format

/-- R85, per tap for CV (R149). -/
def groupsFit (b : Desc) (w : TileWord) : Bool :=
  w.k % 128 == 0 || (b.scaleW == 0 && b.format != 0x06 && b.ledgerList == 0)

def macFits (p : Program) (j : Nat) (w : TileWord) : Bool :=
  pairs (broadcastDesc p j w).format (actFormat (Desc.at p w.da)) && (isCv w || (Desc.at p w.db).layout == 3) && outFits w (Desc.at p w.dc)
    && groupsFit (broadcastDesc p j w) w && auxFits p j w

/-- The items of an AT word. -/
def atItemsFit (p : Program) (w : TileWord) : Bool :=
  itemFits p (Desc.at p w.da).scaleA 0x0C (rowsOf (Desc.at p w.dc)) 1 false && itemFits p (Desc.at p w.db).scaleW 0x0C 2 1 false

/-- The reduction range of a word, as (tap, first, end): a CV word counts its unselected dead taps (R124, R157). -/
def rangesOf (p : Program) (w : TileWord) : List (Nat × Nat × Nat) :=
  if w.opcode = opAt then [(0, 256 * w.koff, 256 * w.koff + w.k)]
  else
    (if isCv w then tapsOf w ++ droppedTaps (Desc.at p w.da) (Desc.at p w.db) (Desc.at p w.dc) w else [0]).map fun t =>
      (t, chanStart w, chanStart w + w.k)

def rangesMeet (x y : List (Nat × Nat × Nat)) : Bool :=
  x.any fun a => y.any fun b => a.1 == b.1 && a.2.1 < b.2.2 && b.2.1 < a.2.2

/-- The word that a CONT word continues: the last that used a tile of it, if it holds (R124). -/
def heldBy (p : Program) (j : Nat) (w : TileWord) : Option (Nat × TileWord) :=
  (lastBefore p j fun _ v => isSlotted v && !v.work && v.dc == w.dc && v.cb == w.cb && v.rbFirst < w.rbFirst + w.rbCount
    && w.rbFirst < v.rbFirst + v.rbCount).filter fun e => e.2.hold

/-- The words of the chain before a word. -/
def chainOf (p : Program) : Nat → Nat → TileWord → List (Nat × TileWord)
  | 0, _, _ => []
  | n + 1, j, w => if w.cont then match heldBy p j w with
      | some e => e :: chainOf p n e.1 e.2
      | none => []
    else []

def chainFits (p : Program) (j : Nat) (w : TileWord) : Bool :=
  !(w.work && (w.hold || w.cont)) && (chainOf p j j w).all fun e =>
    e.2.rbFirst == w.rbFirst && e.2.rbCount == w.rbCount && intSlot p e.1 e.2 == intSlot p j w
      && !rangesMeet (rangesOf p e.2) (rangesOf p w)

/-- R139. -/
def workFits (p : Program) (j : Nat) (w : TileWord) : Bool :=
  !isWork w || match grantOf p j with
    | some g => g.2.rbFirst == w.rbFirst && g.2.rbCount == w.rbCount
    | none => false

/-- A broadcast operand is not padded (R134). -/
def broadcastPlain (p : Program) (w : TileWord) : Bool :=
  !isSlotted w || ((Desc.at p w.db).padmode == 0 && (Desc.at p w.db).padval == 0)

/-- No word names a tensor of block scales as an operand (R79). -/
def noScaleOperand (p : Program) (w : TileWord) : Bool :=
  (Desc.at p w.da).format != 0x0E && (Desc.at p w.db).format != 0x0E && (Desc.at p w.dc).format != 0x0E

def wordFits (p : Program) (j : Nat) (w : TileWord) : Bool :=
  w.policy != 3 && noScaleOperand p w && broadcastPlain p w && (!isMac w || macFits p j w) && (w.opcode != opAt || atItemsFit p w)
    && (w.opcode != opGrant || ((Desc.at p w.da).layout == 5 && (Desc.at p w.da).format == 0x0D))
    && (!isSlotted w || (chainFits p j w && workFits p j w))

/-- ABI version 1 has no profile and no fabric (R376). -/
def formatRow (p : Program) : Option Failure :=
  headFail (p.version = 1 && (p.fabric || p.energyOff != 0 || p.energyN != 0)) stBadArg
  <|> badDescs p (fun d => !descFits p d) stBadArg
  <|> badWords p (fun _ => true) (fun j w => !wordFits p j w) stBadArg

def grantRow (p : Program) : Option Failure :=
  badWords p (fun w => w.opcode == opGrant) (fun _ w =>
    w.rbCount < 1 || 65536 < w.rbCount || w.rbFirst < 1 || 4096 < w.rbFirst) stBadLength

/-! ## CV and CV.DW (R166) -/

/-- R145. -/
def blockedFitsSubmit (d : Desc) : Bool :=
  let b := blockOf d.layout
  let e := bitsOf d / 8
  (bitsOf d == 8 || bitsOf d == 16 || bitsOf d == 32) && extAt d 0 % b == 0 && d.str.all (· % 64 == 0)
    && extAt d 1 * b * e ≤ strAt d 1 && strAt d 1 * extAt d 0 / b ≤ strAt d 2 && strAt d 2 * extAt d 2 ≤ strAt d 3
    && strAt d 3 * extAt d 3 ≤ strAt d 4

/-- R148. -/
def geometryFits (p : Program) (w : TileWord) : Bool :=
  let a := Desc.at p w.da
  let f := Desc.at p w.db
  let c := Desc.at p w.dc
  (List.range 3).all (fun i => outExtent a f i == some (extAt c (i + 1))) && extAt c 4 == extAt a 4 && extAt c 0 == extAt f 0
    && extAt a 0 == (if w.opcode = opDw then extAt f 0 else extAt f 1)

/-- The row blocks that a word may compute; those of a WORK word are known only at run time. -/
def possibleBlocks (p : Program) (w : TileWord) : List Nat :=
  if isWork w then List.range (rowBlocks (Desc.at p w.dc)) else (List.range w.rbCount).map (w.rbFirst + ·)

/-- The largest window of a word's rounds (R152). -/
def largestWindow (p : Program) (w : TileWord) (blocks : List Nat) : Nat :=
  if placesWindow w then
    (blocks.map (windowBytes (Desc.at p w.da) (Desc.at p w.db) (Desc.at p w.dc) w)).foldl max 0
  else 0

/-- Whether a word may leave a dead tap unselected (R157). -/
def mayDrop (p : Program) (j : Nat) (w : TileWord) : Bool :=
  let a := Desc.at p w.da
  let b := broadcastDesc p j w
  b.ledgerList == 0 && b.format != 0x06
    && (a.qmode == 0 || (a.padmode == 0 && num32 (BitVec.ofNat 32 a.padval) matches .fin _ 0 _))

/-- R158. -/
def dwFits (p : Program) (j : Nat) (w : TileWord) : Bool :=
  let b := broadcastDesc p j w
  let f := Desc.at p w.db
  [1, 2, 4, 8, 16, 32, 64, 128].contains (extAt f 1) && extAt f 0 % max 1 (extAt f 1) == 0 && w.koff == 2 * w.cb
    && w.k == min 256 (extAt f 0 - 256 * w.cb) && b.ledgerList == 0

def cvRows (p : Program) : Option Failure :=
  badDescs p (fun d => between 1 2 d.layout && !blockedFitsSubmit d) stBadArg
  <|> badWords p isCv (fun _ w => 2 < (Desc.at p w.da).layout) stBadArg
  <|> wordFail p (fun _ w => if !isCv w then none
      else failIf ((Desc.at p w.db).layout != 3) stBadArg <|> failIf (2048 < tapCount (Desc.at p w.db)) stBadLength)
  <|> badWords p isCv (fun _ w => (Desc.at p w.db).pad.any (· == 0)) stBadArg
  <|> badWords p isCv (fun _ w => !geometryFits p w) stBadArg
  <|> badWords p isCv (fun _ w => (tapsOf w).any fun t => tapCount (Desc.at p w.db) ≤ t) stBadArg
  <|> badWords p isCv (fun _ w => mib < largestWindow p w (possibleBlocks p w)) stBadLength
  <|> badWords p isCv (fun j w => !mayDrop p j w
      && !(droppedTaps (Desc.at p w.da) (Desc.at p w.db) (Desc.at p w.dc) w).isEmpty) stBadArg
  <|> badWords p (fun w => w.opcode == opDw) (fun j w => !dwFits p j w) stBadArg

/-! ## RW (R191) -/

def isRw (w : TileWord) : Bool := w.opcode == opRw
def rwUnary (w : TileWord) : Bool := w.sub ≤ 0x0C
def rwBinary (w : TileWord) : Bool := between 0x10 0x14 w.sub

/-- R171. -/
def selFits (w : TileWord) : Bool :=
  (if rwUnary w then (rwPreop w == 0) == (rwBform w == 0) || (rwPos w && rwBform w == 3)
   else if rwBinary w then rwBform w != 0 && rwPreop w == 0
   else rwBform w == 0 && rwPreop w == 0)
    && (!rwPos w || ((w.sub == 0x08 || w.sub == 0x09) && rwBform w == 3 && rwPreop w == 0 && !rwOld w))
    && (w.db != 0) == (rwBform w != 0 || w.sub == 0x18) && (rwBform w == 2 || rwBcol w == 0) && w.sel < 256

def rwOldFits (w : TileWord) : Bool := !rwOld w || between 0x01 0x07 w.sub || between 0x0A 0x0B w.sub

def rwOperand (f : Nat) : Bool := f == 0x07 || between 0x08 0x0D f

/-- R172. -/
def rwFormats (p : Program) (w : TileWord) : Bool :=
  rwOperand (Desc.at p w.da).format && rwOperand (Desc.at p w.dc).format
    && (rwBform w == 0 || (if rwPos w then (Desc.at p w.db).format == 0x0D else between 0x0A 0x0C (Desc.at p w.db).format))
    && (!rwPos w || (Desc.at p w.da).format == 0x0D)

def rwLengths (p : Program) (w : TileWord) : Bool :=
  w.k ≤ extAt (Desc.at p w.da) 0 && ((rwBform w != 1 && rwBform w != 3) || w.k ≤ extAt (Desc.at p w.db) 0)
    && (w.sub == 0x20 || w.k ≤ extAt (Desc.at p w.dc) 0)

def rwSecond (p : Program) (w : TileWord) : Bool :=
  let b := Desc.at p w.db
  (rwBform w != 2 || rwBcol w < extAt b 0) && ((rwBform w != 1 && rwBform w != 2) || rowsOf (Desc.at p w.da) ≤ rowsOf b)

def rwRows (p : Program) : Option Failure :=
  badWords p isRw (fun _ w => !(rwUnary w || rwBinary w || w.sub == 0x18 || w.sub == 0x20)) stBadArg
  <|> badWords p isRw (fun _ w => !selFits w) stBadArg
  <|> badWords p isRw (fun _ w => !rwOldFits w) stBadArg
  <|> badWords p isRw (fun _ w => w.assay || w.hold || w.cont || w.work || w.policy != 0 || w.runlen != 0 || w.koff != 0) stBadArg
  <|> badWords p isRw (fun _ w => !rwFormats p w) stBadArg
  <|> badWords p isRw (fun _ w => !rwLengths p w) stBadLength
  <|> badWords p isRw (fun _ w => rwBform w == 3 && 2097152 < w.k * bitsOf (Desc.at p w.db)) stBadLength
  <|> badWords p isRw (fun _ w => !rwSecond p w) stBadArg
  <|> badWords p (fun w => isRw w && w.sub == 0x20) (fun _ w =>
      let c := Desc.at p w.dc
      c.format != 0x0C || c.layout != 0 || extAt c 0 != 4 || rowsOf c != rowsOf (Desc.at p w.da)) stBadArg
  <|> badWords p (fun w => isRw w && w.sub == 0x18) (fun _ w =>
      let b := Desc.at p w.db
      b.format != 0x0C || b.layout != 0 || extAt b 0 != 260 || rowsOf b != 1) stBadArg

/-! ## AT and KVPAGED (R227) -/

/-- R192. -/
def atShapes (p : Program) (w : TileWord) : Bool :=
  let a := Desc.at p w.da
  let b := Desc.at p w.db
  let c := Desc.at p w.dc
  let f := actFormat a
  extAt a 0 == 128 && (isFp8 f || (is16 f && a.qmode == 0)) && b.layout == 4 && (isFp8 b.format || is16 b.format)
    && is16 f == is16 b.format && extAt b 2 == 3 && extAt c 0 == 128 && rowsOf c == rowsOf a && w.cb == 0 && between 0x08 0x0C c.format
    && c.layout != 4 && b.ledgerList == 0

/-- R198. -/
def atPositions (a : Desc) : Bool := (a.pad.drop 3).all (· == 0) && a.padmode == 0 && a.padval == 0

/-- R199. -/
def atMask (w : TileWord) : Bool :=
  match w.sel % 4 with
  | 0 => w.sel / 4 == 0
  | 1 => true
  | _ => between 1 (2 ^ 30 - 1) (w.sel / 4)

/-- R206. -/
def pagedFits (d : Desc) : Bool :=
  d.base % 65536 == 0 && (isFp8 d.format || is16 d.format) && extAt d 0 == 128 && between 1 3 (extAt d 2) && extAt d 3 == 1
    && extAt d 4 == 1 && d.pad.all (· == 0) && d.padmode == 0 && d.padval == 0

def isPaged (p : Program) (i : Nat) : Bool := (Desc.at p i).layout == 4

/-- The roles of R208: 3 for the DB of AT, 1 for the source of MV.LOAD, 1 or 2 for a destination of MM, MV.STORE or MV.RECV. -/
def pagedRoles (p : Program) (w : TileWord) : Bool :=
  (!isPaged p w.da || (w.opcode == opLoad && extAt (Desc.at p w.da) 2 == 1))
    && (!isPaged p w.db || (isAt w && extAt (Desc.at p w.db) 2 == 3))
    && (!isPaged p w.dc || ((w.opcode == opMm || w.opcode == opStore || w.opcode == opRecv) && extAt (Desc.at p w.dc) 2 ≤ 2))

/-- A check of the KVPAGED descriptors that some word names: R217 ties a BASE to the batch for the use that a word makes of it. -/
def badPaged (p : Program) (bad : Nat → Desc → Bool) (st : Nat) : Option Failure :=
  (p.descs.zipIdx.drop 1).findSome? fun e =>
    (failIf (e.1.layout == 4 && p.words.any (fun w => [w.da, w.db, w.dc].contains e.2) && bad e.2 e.1) st).map fun t => ⟨t, 2, e.2⟩

/-- Whether a descriptor is the DB of an AT word. -/
def keysOfAt (p : Program) (i : Nat) : Bool := p.words.any fun w => isAt w && w.db == i

/-- The fields of R206; EXT1 of the DB of an AT word has a row of its own. -/
def pagedRow (s : State) (k ctx : Nat) (batch : List BatchEntry) (p : Program) : Option Failure :=
  (p.descs.zipIdx.drop 1).findSome? fun e =>
    (failIf (e.1.layout == 4 && (!pagedFits e.1 || (p.words.any (fun w => [w.da, w.dc].contains e.2) && !keysOfAt p e.2
      && beyondHead s k ctx batch e.1 (extAt e.1 1)))) stBadArg).map fun t => ⟨t, 2, e.2⟩

def atRows (s : State) (k ctx : Nat) (batch : List BatchEntry) (p : Program) : Option Failure :=
  badWords p isAt (fun _ w => !atShapes p w) stBadArg
  <|> badWords p isAt (fun _ w => !atPositions (Desc.at p w.da)) stBadArg
  <|> badWords p isAt (fun _ w => !atMask w) stBadArg
  <|> pagedRow s k ctx batch p
  <|> badWords p (fun _ => true) (fun _ w => !pagedRoles p w) stBadArg
  <|> badWords p isAt (fun _ w => beyondHead s k ctx batch (Desc.at p w.db) (256 * w.koff + w.k)) stBadLength
  <|> badPaged p (fun i d => keysOfAt p i && beyondHead s k ctx batch d (extAt d 1)) stBadLength
  <|> headFail (batch.any fun b => (findSeq s k b.seq).isNone) stBadArg
  <|> badPaged p (fun _ d => (headOf s k ctx batch d).isNone) stBadArg

/-! ## MV.SEND and MV.RECV (R354) -/

def isTransfer (w : TileWord) : Bool := w.opcode == opSend || w.opcode == opRecv

def selTransfer (w : TileWord) : Bool :=
  w.sel < 2 ^ 29 && (if w.opcode = opSend then mvMode w == 0 && w.dc == 0 else mvMode w != 3 && w.da == 0)

/-- A Droveway 224 gate of the partition. -/
def gate224 (s : State) (k g : Nat) : Bool := ownDroveway s k g && (s.gate g).mode == 0

def routeUsable (s : State) (k : Nat) (w : TileWord) : Bool :=
  match routeAt s k (mvRoute w) with
  | some r => gate224 s k (firstGate r) && gate224 s k r.rxGate
  | none => false

/-- The commit of every word on the nominal schedule, in program order (R128), from the start of Bs. -/
def commitsOf (p : Program) : List Nat :=
  (p.words.zipIdx.foldl (fun (a : List Nat × Nat) e => let c := max a.2 (wordCommit p e.2 e.1); (a.1 ++ [c], c)) ([], 0)).1

/-- The ac at which a drover starts on a word, from the start of Bs: the later of the issue cycle less LEAD_AC and the first ac that
R32 allows (R280). -/
def nominalStart (p : Program) (commits : List Nat) (j : Nat) (w : TileWord) : Int :=
  let lead : Int := (w.issue : Int) - p.leadAc
  if j < 8 then lead else max lead (commits.getD (j - 8) 0)

/-- Two receives of one route and TAG that are open at the same time. -/
def twoReceives (p : Program) : Option Failure :=
  let c := commitsOf p
  let l := p.words.zipIdx.filter fun e => e.1.opcode == opRecv
  badWords p (fun w => w.opcode == opRecv) (fun j w => l.any fun e =>
    e.2 < j && mvRoute e.1 == mvRoute w && mvTag e.1 == mvTag w && nominalStart p c j w ≤ e.1.issue
      && nominalStart p c e.2 e.1 ≤ w.issue) stBadArg

def transferRows_ (s : State) (k : Nat) (p : Program) : Option Failure :=
  badWords p isTransfer (fun _ w => !selTransfer w) stBadArg
  <|> badWords p isTransfer (fun _ w => !routeUsable s k w) stBadArg
  <|> badWords p isTransfer (fun _ w => !between 1 4194304 (transferBytes p w)) stBadLength
  <|> badWords p (fun w => w.opcode == opRecv) (fun _ w =>
      (mvMode w == 1 && (Desc.at p w.dc).format != 0x0C) || (mvMode w == 2 && (Desc.at p w.dc).format != 0x0A)) stBadArg
  <|> twoReceives p
  <|> badWords p isTransfer (fun _ _ => !p.fabric) stBadArg

/-! ## Tiles, layers and the profile's form -/

/-- The runs of the linear index that a CV or CV.DW word streams (R233). -/
def streamRuns (p : Program) (w : TileWord) : List (Nat × Nat) :=
  let g := extAt (Desc.at p w.db) 1
  (tapsOf w).map fun t => if w.opcode = opDw then (t * g, g) else (t * g + chanStart w, w.k)

def runsJoin : List (Nat × Nat) → Bool
  | a :: b :: t => a.1 + a.2 == b.1 && runsJoin (b :: t)
  | _ => true

/-- R233. -/
def streamFitsTiles (p : Program) (w : TileWord) : Bool :=
  let l := streamRuns p w
  let n := posPerAc (Desc.at p w.db).format
  runsJoin l || l.all fun e => e.1 % n == 0 && e.2 % n == 0

/-- R252. -/
def weightFits (p : Program) (w : TileWord) : Bool :=
  (Desc.at p w.da).layout == 3 && w.dc == w.da && w.cb == 0 && w.rbFirst == 0 && w.rbCount == 0

/-- R253: the layer is still in its slot, the first manger read does not precede its issue, and the columns lie in it. -/
def layerFits (p : Program) (j : Nat) (w : TileWord) : Bool :=
  match layerOf p j w with
  | none => false
  | some l =>
    weightOrdinal p j < weightOrdinal p l.1 + 4 && ((p.words[l.1]?).map (·.issue)).getD 0 + 20 ≤ w.issue
      && columnBase p j w / 256 + w.cb < colBlocks (Desc.at p l.2.2)

/-- LB of R254: the strips over the column blocks, and 1,024 bytes of side data for each item, group and column block (R86). -/
def layerLoad (p : Program) (w : TileWord) : Nat :=
  let l := Desc.at p w.da
  let items := (if l.format = 0x06 && l.bscale != 0 then 1 else 0) + (if l.ledgerList != 0 then 1 else 0)
    + (if l.scaleW != 0 then 1 else 0)
  tiledBytes l.format (tiledLen l) (extAt l 0) + colBlocks l * layerGroups l * 1024 * items

def mangersOf (s : State) (k : Nat) : Nat := (diesOf s k).length

/-- The manger share less the KV ring (R41, R251). -/
def mangerRoom (s : State) (k : Nat) (p : Program) : Nat :=
  mangersOf s k * 64 * mib - (if p.words.any isAt then 2 * mib else 0)

/-- R255. -/
def layersFit (s : State) (k : Nat) (p : Program) : Option Failure :=
  badWords p (fun w => w.opcode == opWeight) (fun j w =>
    let l := weightsBefore p j
    mangerRoom s k p < layerLoad p w || 2 ≤ l.length && mangerRoom s k p < layerLoad p w + ((l.drop (l.length - 2)).map fun e => layerLoad p e.2).sum) stBadLength

/-- R435. -/
def profileForm (p : Program) : Option Failure :=
  if p.version = 1 then none
  else headFail (p.energyN < 1 || 1048576 < p.energyN) stBadLength <|> headFail (p.energy.any fun e => e.1 == 0) stBadArg

/-- The static phase after the header's own rows (R143). -/
def staticChecks (s : State) (k ctx : Nat) (batch : List BatchEntry) (p : Program) : Option Failure :=
  reservedRow p <|> opcodeRow p <|> indexRow p <|> extentRow p <|> rowCountRow p <|> kRow p <|> reductionRow s k ctx batch p <|> blockRow p
  <|> formatRow p <|> grantRow p <|> cvRows p <|> rwRows p <|> atRows s k ctx batch p <|> transferRows_ s k p
  <|> badWords p isCv (fun _ w => !streamFitsTiles p w) stBadArg
  <|> badWords p (fun w => w.opcode == opWeight) (fun _ w => !weightFits p w) stBadArg
  <|> badWords p isMac (fun j w => !layerFits p j w) stBadArg
  <|> layersFit s k p
  <|> profileForm p

end Sys2Proof.Machine
end

