-- ==== Sys2Proof/Machine/Schedule.lean ====
section
/-! DEFINITION. The schedule checks of RUN.SUBMIT on the nominal schedule (R143): issue cycles (R59), windows (R153), banks (R91,
R182), the manger window (R254), buffer holds (R335), the arbitration (R282), and the energy charged (R433, R434, R436). -/

namespace Sys2Proof.Machine

/-! ## Issue cycles (R59, R128) -/

/-- The ends of port and row-unit use of the words before the next one, and the last issue. -/
structure Occupied where
  port : Nat
  row : Nat
  issue : Nat
  ok : Bool

/-- One word joins the schedule. -/
def occupy (p : Program) (o : Occupied) (j : Nat) (w : TileWord) : Occupied where
  port := max o.port (w.issue + wordPort p j w)
  row := max o.row (if wordRowUse p j w = 0 then 0 else w.issue + wordRowUse p j w)
  issue := w.issue
  ok := o.issue ≤ w.issue && (j == 0 || occupancy p j w o.port o.row ≤ w.issue)

/-- The occupancy after each word. -/
def occupiedList (p : Program) : List Occupied :=
  (p.words.zipIdx.foldl (fun (a : List Occupied × Occupied) e => let o := occupy p a.2 e.2 e.1; (a.1 ++ [o], o))
    ([], ⟨0, 0, 0, true⟩)).1

def issueRow (p : Program) : Option Failure :=
  let l := occupiedList p
  headFail (65000 < p.slackAc || 1048575 < p.leadAc) stBadArg
  <|> badWords p (fun _ => true) (fun j _ => !((l[j]?).map (·.ok)).getD true) stBadArg
  <|> badWords p (fun _ => true) (fun j _ => j + 1 = p.nWords && 2 ^ 40 ≤ (commitsOf p).getLast?.getD 0) stBadArg

/-! ## Windows (R153) -/

/-- The commit of a round on the nominal schedule, in program order (R128). -/
def roundCommit (p : Program) (commits : List Nat) (j : Nat) (w : TileWord) (n : Nat) : Nat :=
  max (if j = 0 then 0 else commits.getD (j - 1) 0) (nominalCommit p j w n)

/-- The ac after the release of the buffer of a window, by the window before the last. -/
def bufferFree (p : Program) (commits : List Nat) (j n : Nat) : Int :=
  let o := windowOrdinal p j n
  if o < 2 then -(2 ^ 62)
  else match (windowList p)[o - 2]? with
    | some e => match p.words[e.1]? with
      | some v => (roundCommit p commits e.1 v e.2 : Int) + 1
      | none => -(2 ^ 62)
    | none => -(2 ^ 62)

def windowInTime (p : Program) (commits : List Nat) (j : Nat) (w : TileWord) (n : Nat) : Bool :=
  let due : Int := (w.issue + roundOffset p j w n : Nat)
  let blocks := if isWork w then possibleBlocks p w else roundBlocks p.penCount w n
  let start := max (bufferFree p commits j n) (max (due - p.leadAc) (nominalStart p commits j w))
  start + (ceilDiv (largestWindow p w blocks) 512 : Nat) ≤ due

def windowRow (p : Program) : Option Failure :=
  let c := commitsOf p
  badWords p placesWindow (fun j w => !(List.range (roundsOf p.penCount w)).all (windowInTime p c j w)) stBadArg

/-! ## Banks (R91, R182) -/

/-- Which bank is active, and the last commit of a word that reads each. -/
structure BankUse where
  active : Nat
  last : Nat → Option Nat
  late : List Nat

/-- One word of the kind that reads the banks. -/
def useBank (commits : List Nat) (reload : Nat → TileWord → Bool) (b : BankUse) (j : Nat) (w : TileWord) : BankUse :=
  let bank := if reload j w then 1 - b.active else b.active
  let late := match b.last bank with
    | some c => reload j w && w.issue ≤ c + 1
    | none => false
  { active := bank, last := fun i => if i = bank then some (commits.getD j 0) else b.last i,
    late := if late then b.late ++ [j] else b.late }

/-- The reloading words whose lot the nominal schedule makes late. -/
def lateReloads (p : Program) (reads : Nat → TileWord → Bool) (reload : Nat → TileWord → Bool) : List Nat :=
  ((p.words.zipIdx.filter fun e => reads e.2 e.1).foldl (fun b e => useBank (commitsOf p) reload b e.2 e.1)
    ⟨0, fun _ => none, []⟩).late

def reloadRow (p : Program) : Option Failure :=
  let books := lateReloads p (readsCodebook p) (reloadsCodebook p)
  let tables := lateReloads p (fun _ w => readsTable w) (reloadsTable p)
  badWords p (fun _ => true) (fun j _ => books.contains j) stBadArg
  <|> badWords p (fun _ => true) (fun j _ => tables.contains j) stBadArg

/-! ## The manger window (R254) -/

def layerInTime (s : State) (k : Nat) (p : Program) (commits : List Nat) (j : Nat) (w : TileWord) : Bool :=
  let need := layerLoad p w
  let rate := 512 * mangersOf s k
  let l := weightsBefore p j
  let slot : Bool := match if l.length < 3 then none else l[l.length - 3]? with
    | some e => let r := commits.getD (lastReader p e.1) 0; r ≤ w.issue && need ≤ (w.issue - r) * rate
    | none => true
  slot && (need : Int) ≤ (w.issue - nominalStart p commits j w) * rate

def layerRow (s : State) (k : Nat) (p : Program) : Option Failure :=
  let c := commitsOf p
  badWords p (fun w => w.opcode == opWeight) (fun j w => !layerInTime s k p c j w) stBadArg

/-! ## Buffer holds (R335) -/

/-- A hold on a gate drover's buffer: whether it is the send buffer, the gate, from, to, bytes. -/
structure BufferHold where
  send : Bool
  gate : Nat
  from_ : Int
  to_ : Int
  bytes : Nat

def holdOf (s : State) (k : Nat) (p : Program) (commits : List Nat) (j : Nat) (w : TileWord) : BufferHold :=
  let n := transferBytes p w
  let g := transferGate s k w
  let gap := ((routeAt s k (mvRoute w)).map (·.retryGap)).getD 0
  if w.opcode = opSend then
    ⟨true, g, nominalStart p commits j w, (w.issue + mvRetries w * gap + 13 * (cellCount n - 1) : Nat), n⟩
  else ⟨false, g, nominalStart p commits j w, w.issue, if mvMode w = 0 then n else 2 * n⟩

def holdRow (s : State) (k : Nat) (p : Program) : Option Failure :=
  let c := commitsOf p
  let l := (p.words.zipIdx.filter fun e => isTransfer e.1).map fun e => holdOf s k p c e.2 e.1
  badWords p isTransfer (fun j w =>
    let h := holdOf s k p c j w
    4 * mib < ((l.filter fun x => x.send == h.send && x.gate == h.gate && x.from_ ≤ h.from_ && h.from_ ≤ x.to_).map (·.bytes)).sum)
    stBadLength

/-! ## The arbitration (R282) -/

/-- The absolute ac at which a drover starts on a word in the nominal schedule; a load drover waits for the SY.FOLD before (R163). -/
def absStart (p : Program) (r : Run) (commits : List Nat) (j : Nat) (w : TileWord) (drover : Nat) : Nat :=
  let base : Int := (nominalAc r 0 : Nat)
  let n := nominalStart p commits j w
  let m := match foldBefore r j with
    | some i => if drover < 64 then max n ((commits.getD i 0 : Int) + 12) else n
    | none => n
  (base + m).toNat

/-- The read requests of a word's lots; a WORK word's are known only at run time. -/
def wordReads (s : State) (k : Nat) (r : Run) (commits : List Nat) (j : Nat) (w : TileWord) : List Req :=
  ((lotPlans s k r j w).filter fun x => x.lot.role != .store).flatMap fun x =>
    (lotReqs s r w x).map fun q => { q with at_ := absStart r.prog r commits j w x.drover }

/-- The ac from a round's issue at which its store lots are read out: after the write-back of row 255 (R125, R127). -/
def storeAfter (p : Program) (j : Nat) (w : TileWord) (n : Nat) : Nat :=
  if isMac w then kacOf p j w w.assay + 276
  else if w.opcode = opAt then atRoundAc p w w.assay n + 252
  else if w.opcode = opRw then verdictAc p j w w.assay n
  else 0

/-- Words whose results leave for T1. -/
def storesRows (w : TileWord) : Bool := (isSlotted w && !w.hold) || w.opcode == opRw || w.opcode == opStore

/-- The write requests of a receive: its destination's sectors, 10 ac after it takes effect (R64, R339). -/
def recvWrites (s : State) (k : Nat) (r : Run) (j : Nat) (w : TileWord) : List Req :=
  if w.opcode != opRecv || mvDirect w then []
  else
    let d := 144 + transferGate s k w
    let at_ := nominalAc r w.issue + 10
    (((List.range (ceilDiv (transferBytes r.prog w) 64 + 1)).map fun i => transferAddr r.prog w (min (64 * i) (transferBytes r.prog w - 1)) / 64).dedup.filterMap
      fun v => runT1 s r (64 * v)).map fun pa => ⟨pa / 64 * 64, true, at_ + 4096, droverRank d, at_, ⟨k, j, 0, .store, 0, 0⟩⟩

/-- The write requests of a word's store lots on the nominal schedule. -/
def wordWrites (s : State) (k : Nat) (r : Run) (j : Nat) (w : TileWord) : List Req :=
  let p := r.prog
  if !storesRows w || isWork w then []
  else (List.range (roundsOf p.penCount w)).flatMap fun n => (List.range p.penCount).flatMap fun lp =>
    match staticBlock p.penCount w lp n with
    | none => []
    | some b =>
      let g := regionOf p j w .store 0 b
      let d := 64 + physPen s k lp
      let at_ := nominalAc r (w.issue + roundOffset p j w n + storeAfter p j w n) + 12
      (List.range g.lots).flatMap fun i =>
        ((g.sectors i).filterMap fun v => runT1 s r (64 * v)).map fun pa =>
          ⟨pa / 64 * 64, true, at_ + 4096, droverRank d, at_, ⟨k, j, b, .store, lp, i⟩⟩

/-- The requests that wait for a pseudo-channel while its slots are filled in turn. -/
structure ChannelRun where
  waiting : List Req
  pc : PseudoChan
  late : List Nat
  served : List (Req × Nat)

/-- One slot: the requests posted by its start join the queue; a read that a slot starts too late for is late. -/
def runSlot (s : State) (c : Nat) (r : ChannelRun) (slot : Nat) : ChannelRun :=
  let beat := slot / 5000
  let i := slot % 5000
  let ac := 65000 * beat + 13 * i
  let posted := r.waiting.filter fun q => q.at_ ≤ ac
  let pc := { r.pc with reqs := r.pc.reqs ++ posted }
  let rest := r.waiting.filter fun q => ac < q.at_
  match slotRun i with
  | none => { r with waiting := rest, pc := pc }
  | some n =>
    if reservedSlot i then { r with waiting := rest, pc := pc }
    else
      let f := fillSlot s c beat i (setDirection beat i n pc)
      { waiting := rest, pc := f.2, late := r.late ++ (f.1.filter fun q => !q.write && q.tag < ac).map (·.lot.instr)
        served := r.served ++ (f.1.filter (·.write)).map fun q => (q, ac) }

/-- What a pseudo-channel does with its requests, up to their last tag: the words with a read that it serves late or not at all, and the
writes with the ac at which they left the queue. -/
def channelRun (s : State) (c pc : Nat) (l : List Req) : List Nat × List (Req × Nat) :=
  let mine := l.filter fun q => (channelOf s q.addr).1 == c && localPc (channelOf s q.addr).2 == pc
  let first := (mine.map (·.at_)).foldl min (mine.headD ⟨0, false, 0, 0, 0, ⟨0, 0, 0, .layer, 0, 0⟩⟩).at_ / 13
  let last := (mine.map (·.tag)).foldl max 0 / 13
  let r := ((List.range (last + 1 - first)).map (first + ·)).foldl (runSlot s c) ⟨mine, PseudoChan.reset, [], []⟩
  let rest := r.pc.reqs ++ r.waiting
  (r.late ++ (rest.filter fun q => !q.write).map (·.lot.instr), r.served ++ (rest.filter (·.write)).map fun q => (q, 13 * (last + 1)))

/-- The words with a store lot that finds the 2 MiB write queue of its memory-side die full (R280). -/
def fullQueues (s : State) (l : List (Req × Nat)) : List Nat :=
  (l.filter fun e => 32768 < (l.filter fun x =>
    dieOfPa s x.1.addr == dieOfPa s e.1.addr && x.1.at_ ≤ e.1.at_ && e.1.at_ < x.2).length).map (·.1.lot.instr)

def arbitrationRow (s : State) (k : Nat) (r : Run) : Option Failure :=
  let p := r.prog
  let c := commitsOf p
  let reqs := p.words.zipIdx.flatMap fun e => wordReads s k r c e.2 e.1 ++ wordWrites s k r e.2 e.1 ++ recvWrites s k r e.2 e.1
  let chans := (reqs.map fun q => 2 * (channelOf s q.addr).1 + localPc (channelOf s q.addr).2).dedup
  let l := chans.map fun i => channelRun s (i / 2) (i % 2) reqs
  let late := l.flatMap (·.1) ++ fullQueues s (l.flatMap (·.2))
  badWords p (fun _ => true) (fun j _ => late.contains j) stBadArg

/-! ## Energy (R433 to R436), in fJ -/

/-- A charge: so much in every ac of an interval, or once over it. -/
structure Charge where
  from_ : Int
  until_ : Int
  amount : Nat
  perAc : Bool

/-- The products of one pen in one ac. -/
def productEnergy (fmt : Nat) : Nat :=
  if is16 fmt then 65536 * 150 else if fmt ≤ 4 then 262144 * 74 else if fmt ≤ 6 then 131072 * 125 else 65536 * 220

/-- The weight bytes of a broadcast word (R14). -/
def weightBytes (fmt : Nat) : Nat := if fmt = 1 || is16 fmt then 128 else 256

/-- An assay step works at a quarter of the rate, at three times the energy of a product. -/
def assayProducts (assay : Bool) (n : Nat) : Nat := if assay then 3 * n / 4 else n
def assayRate (assay : Bool) (n : Nat) : Nat := if assay then n / 4 else n

/-- A K loop of so many ac: its products, its ledger products and its broadcast, 20 ac earlier, to every pen of the partition. -/
def loopCharges (fmt : Nat) (assay ledger : Bool) (items at_ acs active pens : Nat) : List Charge :=
  let per := max 1 (acOf fmt 128 * (if assay then 4 else 1))
  [⟨at_, (at_ + acs : Nat), active * assayProducts assay (productEnergy fmt), true⟩]
    ++ (if ledger then [⟨at_, (at_ + acs : Nat), active * assayRate assay (65536 * 300 / (if fmt ≤ 4 then 8 else 16)), true⟩] else [])
    ++ [⟨(at_ : Int) - 20, (at_ : Int) - 20 + acs, pens * 100 * assayRate assay (weightBytes fmt), true⟩]
    ++ (if items = 0 then []
        else (List.range (ceilDiv acs per)).map fun g =>
          ⟨(at_ : Int) - 20 + (g * per : Nat), (at_ : Int) - 20 + (g * per + 16 * items * (if assay then 4 else 1) : Nat),
            pens * 100 * assayRate assay 64, true⟩)

/-- The side-data items of a word's layer (R86). -/
def sideItems (b : Desc) : Nat :=
  (if b.format = 0x06 then 1 else 0) + (if b.ledgerList != 0 then 1 else 0) + (if b.scaleW != 0 then 1 else 0)

/-- The pens with a row block in a round; every pen for a WORK word. -/
def roundPens (p : Program) (w : TileWord) (n : Nat) : Nat :=
  if isWork w then p.penCount else (roundBlocks p.penCount w n).length

/-- A drain: 256 elements in each of 256 ac on every pen with a row block. -/
def drainCharge (at_ pens : Nat) : Charge := ⟨at_, (at_ + 256 : Nat), pens * 256 * 2000, true⟩

/-- The Fold and row-unit charges of a word. -/
def foldCharges (p : Program) (j : Nat) (w : TileWord) : List Charge :=
  let n := p.penCount
  if isMac w then
    let b := broadcastDesc p j w
    let kac := kacOf p j w w.assay
    (List.range (stepsOf n w)).flatMap fun i =>
      let at_ := w.issue + roundOffset p j w i
      loopCharges b.format w.assay (b.ledgerList != 0) (sideItems b) at_ kac (roundPens p w i) n
        ++ (if w.hold then [] else [drainCharge (at_ + kac + 8) (roundPens p w i)])
  else if isAt w then
    let f := (Desc.at p w.db).format
    let kd := atKd p w w.assay
    let kv := atKv p w w.assay
    (List.range (stepsOf n w)).flatMap fun i =>
      let at_ := w.issue + roundOffset p j w i
      let b := (keyBlocks p w i).length
      (List.range ((if w.assay then 2 else 1) * b)).flatMap (fun m =>
          loopCharges f w.assay false 0 (at_ + m * (kd + kv + 88)) kd (roundPens p w i) n
            ++ (if w.assay && m < b then [] else loopCharges f w.assay false 0 (at_ + m * (kd + kv + 88) + kd + 64) kv (roundPens p w i) n))
        ++ (if w.hold then [] else [drainCharge (at_ + atRoundAc p w w.assay i - 16) (roundPens p w i)])
  else if isRw w then
    let x := 256 * ceilDiv w.k 256
    (List.range (roundsOf n w)).map fun i =>
      ⟨(w.issue + i * x : Nat), (w.issue + (i + 1) * x : Nat), roundPens p w i * 256 * 2000, true⟩
  else []

/-- The cells of a transfer. -/
def cellCharges (p : Program) (w : TileWord) : List Charge :=
  let n := transferBytes p w
  let c := cellCount n
  (List.range c).map fun i =>
    let at_ : Int := if w.opcode = opSend then (w.issue + 13 * i : Nat) else (w.issue : Int) - 13 * (c - 1 - i : Nat)
    ⟨at_, at_ + 1, 5000 * min 2000 (n - 2000 * i), false⟩

/-- A lot's charge over its interval: T1 bytes, and manger bytes for a weight lot. -/
def lotCharge (r : Run) (commits : List Nat) (w : TileWord) (x : LotPlan) : Charge :=
  let p := r.prog
  let base : Int := (nominalAc r 0 : Nat)
  let n := if x.direct then 0 else (planBytes p w x).length
  let manger := x.lot.role == .layer || x.lot.role == .keyPage || x.lot.role == .valuePage
  ⟨(absStart p r commits x.lot.instr w x.drover : Int) - base, (nominalDue r w x : Int) - base + 1, n * (if manger then 22000 else 20000), false⟩

/-- A store lot's charge, from its read-out to its deadline. -/
def storeCharges (s : State) (k : Nat) (r : Run) (j : Nat) (w : TileWord) : List Charge :=
  let base : Int := (nominalAc r 0 : Nat)
  let lots := ((wordWrites s k r j w).map fun q => (q.lot, q.at_)).dedup
  lots.map fun l =>
    ⟨(l.2 : Int) - base, max ((l.2 : Int) - base) (Config.storeDeadline j (65536 * l.1.lpen + l.1.index)) + 1,
      20000 * ((regionOf r.prog j w .store 0 l.1.round).bytes l.1.index).length, false⟩

/-- What a charge puts into beat k: its extended window reaches back by SLACK_AC, and to every ac before Bs for beat 0 (R434). -/
def chargeIn (slack k : Nat) (c : Charge) : Nat :=
  let lo : Int := if k = 0 then -(2 ^ 62) else (65000 * k : Nat) - (slack : Int)
  let hi : Int := (65000 * (k + 1) : Nat)
  let a := max lo c.from_
  let b := min hi c.until_
  if a < b then (if c.perAc then (b - a).toNat * c.amount else c.amount) else 0

/-- What the Fold and the row units are charged in one ac. -/
def acCharge (l : List Charge) (a : Int) : Nat := ((l.filter fun c => c.perAc && c.from_ ≤ a && a < c.until_).map (·.amount)).sum

/-- E_max of R434: it is reached where some charge begins. -/
def peakCharge (l : List Charge) : Nat := (l.map fun c => acCharge l c.from_).foldl max 0

/-- Every charge of a RUN. -/
def allCharges (s : State) (k : Nat) (r : Run) : List Charge :=
  let p := r.prog
  let c := commitsOf p
  p.words.zipIdx.flatMap fun e =>
    foldCharges p e.2 e.1 ++ (if isTransfer e.1 then cellCharges p e.1 else [])
      ++ (lotPlans s k r e.2 e.1).map (lotCharge r c e.1) ++ storeCharges s k r e.2 e.1

/-- The declared energy of beat k in µJ (R435). -/
def declared : List (Nat × Nat) → Nat → Nat
  | [], _ => 0
  | e :: t, k => if k < e.1 then e.2 else declared t (k - e.1)

/-- The last beat that a charge reaches. -/
def lastCharged (slack : Nat) (l : List Charge) : Nat := ((l.map fun c => (c.until_ - 1 + (slack : Int)).toNat / 65000)).foldl max 0

/-- R436: the profile covers the charges, and never rises by more than 20,000 µJ. -/
def energyFits (s : State) (k : Nat) (r : Run) : Bool :=
  let p := r.prog
  let l := allCharges s k r
  let peak := p.slackAc * peakCharge l
  let beats := max ((p.energy.map (·.1)).sum) (lastCharged p.slackAc l + 1)
  (List.range beats).all fun b =>
    (lastCharged p.slackAc l < b || (l.map (chargeIn p.slackAc b)).sum + peak ≤ declared p.energy b * 10 ^ 9)
      && declared p.energy b ≤ (if b = 0 then 0 else declared p.energy (b - 1)) + 20000

def energyRow (s : State) (k : Nat) (r : Run) : Option Failure :=
  headFail (r.prog.version != 1 && !energyFits s k r) stBadArg

/-! ## The phases -/

def scheduleChecks (s : State) (k : Nat) (r : Run) : Option Failure :=
  let p := r.prog
  issueRow p <|> windowRow p <|> reloadRow p <|> layerRow s k p <|> holdRow s k p <|> arbitrationRow s k r <|> energyRow s k r

/-- The third phase: the pen count, the tally unit, and stale routes (R30, R53, R354). -/
def stateChecks (s : State) (k : Nat) (p : Program) : Option Failure :=
  headFail (p.penCount != penCount s k || (p.fabric && s.tally.st != .locked)) stBadState
  <|> badWords p isTransfer (fun _ w => (tget RouteSlot.reset (s.part k).routes (mvRoute w)).stale) stBadState

end Sys2Proof.Machine
end

