-- ==== Sys2Proof/Machine/Submit.lean ====
section
/-! DEFINITION. RUN.SUBMIT: its checks in the order of R391, the admission of key-value pages (R217 to R220), copy-on-write (R213), the
working set (R246, R266, R267), and acceptance (R390, R393). -/

namespace Sys2Proof.Machine

/-! ## The image (R143, R266) -/

/-- A byte of an image: images lie in any tensor, in T1 or T2. -/
def imageByte (s : State) (k ctx va : Nat) : Byte :=
  match translate s ctx va with
  | .t1 pa => readT1 s pa
  | .t2 a => tget 0 s.hbm.t2 (homeHost s k a)
  | _ => 0

def imageBytes (s : State) (k ctx va n : Nat) : List Byte := (List.range n).map fun i => imageByte s k ctx (va + i)

/-- Whether no page of a range has VALID 0. -/
def rangeValid (s : State) (ctx va n : Nat) : Bool :=
  (rangePages va n).all fun a => match translate s ctx a with
    | .unmapped => false
    | .dropped => false
    | _ => true

/-- The program at an address, or why it is refused: the image's mapping, then the rows of the header (R143). -/
def loadProgram (s : State) (k ctx abi va : Nat) : Except Failure Program :=
  if !rangeValid s ctx va 128 then .error ⟨stBadArg, 0, 0⟩
  else
    let h := decodeHeader (imageBytes s k ctx va 128)
    if h.magic == magicWord && !rangeValid s ctx va h.length then .error ⟨stBadArg, 0, 0⟩
    else match headerChecks abi h with
      | some e => .error e
      | none => .ok (fillTables (fun off n => imageBytes s k ctx (va + off) n) h)

/-! ## The working set -/

/-- The bytes from BASE that a descriptor covers. -/
def descSpan (d : Desc) : Nat :=
  match d.layout with
  | 0 => packedLen d 4
  | 3 => tiledBytes d.format (tiledLen d) (extAt d 0)
  | 5 => 4 * extAt d 0
  | _ =>
    let b := blockOf d.layout
    strAt d 4 * (extAt d 4 - 1) + strAt d 3 * (extAt d 3 - 1) + strAt d 2 * (extAt d 2 - 1) + strAt d 1 * (extAt d 0 / b - 1)
      + extAt d 1 * b * (bitsOf d / 8)

/-- The ranges of a program's descriptors that are no key-value blocks. -/
def descRanges (p : Program) : List (Nat × Nat) :=
  ((p.descs.drop 1).filter fun d => d.layout != 4).map fun d => (d.base, descSpan d)

/-- The bales of a program and its image (R246). -/
def workingSet (s : State) (ctx va : Nat) (p : Program) : List (Nat × Nat) :=
  (((va, p.length) :: descRanges p).flatMap fun e => rangeBales s ctx e.1 e.2).dedup

/-- Whether a bale is in T1 for a RUN. -/
def baleReady (s : State) (b : Nat × Nat) : Bool :=
  match getBale s b.1 b.2 with
  | some x => x.st == .resident || x.st == .pinned
  | none => false

/-- Whether a bale's tensor is loading, incomplete, or still being allocated (R260, R261). -/
def baleLoading (s : State) (b : Nat × Nat) : Bool :=
  match findTensor s b.1 with
  | some t => t.load != 0 || !t.ready
  | none => false

/-! ## Read and write sets (R217) -/

/-- A page of a sequence as one number, in the order of sequence, head, block. -/
def pageCode (q : KvSeq) (j : Nat) : Nat := q.handle * 2 ^ 48 + j
def codeSeq (c : Nat) : Nat := c / 2 ^ 48
def codePage (c : Nat) : Nat := c % 2 ^ 48

/-- The pages of a block of a KVPAGED descriptor. -/
def blockCodes (q : KvSeq) (head : Nat) (d : Desc) (b : Nat) : List Nat :=
  let n := pagesPerBlock q.format
  if q.nb ≤ b then []
  else ((List.range n).filter fun i => n = 1 || extAt d 2 = 3 || i + 1 = extAt d 2).map fun i => pageCode q ((head * q.nb + b) * n + i)

def codesOf (s : State) (k ctx : Nat) (batch : List BatchEntry) (d : Desc) (blocks : List Nat) : List Nat :=
  match headOf s k ctx batch d with
  | some h => blocks.flatMap (blockCodes h.1 h.2 d)
  | none => []

def writeCodes (s : State) (k ctx : Nat) (batch : List BatchEntry) (p : Program) : List Nat :=
  (p.words.flatMap fun w =>
    if isPaged p w.dc && (w.opcode == opMm || w.opcode == opStore || w.opcode == opRecv) then
      codesOf s k ctx batch (Desc.at p w.dc) (possibleBlocks p w)
    else []).foldl (fun l c => insertSorted c l) []

def readCodes (s : State) (k ctx : Nat) (batch : List BatchEntry) (p : Program) : List Nat :=
  (p.words.flatMap fun w =>
    if isAt w then codesOf s k ctx batch (Desc.at p w.db) ((List.range (stepsOf p.penCount w)).flatMap (keyBlocks p w)).dedup
    else if w.opcode == opLoad && isPaged p w.da then codesOf s k ctx batch (Desc.at p w.da) (possibleBlocks p w)
    else []).foldl (fun l c => insertSorted c l) []

def codeMap (s : State) (k c : Nat) : Option KvMap := (findSeq s k (codeSeq c)).bind fun q => seqMap q (codePage c)

def codeDropped (s : State) (k c : Nat) : Bool :=
  match codeMap s k c with
  | some m => m.dropped
  | none => false

/-- The frame of a mapped page. -/
def codeFrame (s : State) (k c : Nat) : Option Nat := (codeMap s k c).bind fun m => if m.dropped then none else some m.frame

/-- The record of R220 for dropped pages that are read and not written. -/
def droppedRecord (s : State) (k : Nat) (l : List Nat) : List Byte :=
  let blocks := (l.filterMap fun c => (findSeq s k (codeSeq c)).map fun q =>
    (q.handle, codePage c / pagesPerBlock q.format / max 1 q.nb, codePage c / pagesPerBlock q.format % max 1 q.nb)).dedup
  let es := blocks.take 250
  leBytes 8 3 ++ leBytes 4 l.length ++ leBytes 4 es.length ++ zeros 8 ++ es.flatMap fun e => blockEntry e.1 e.2

/-! ## Admission and copies (R213, R218) -/

/-- What a page of the write set needs: a new page, or a copy of a shared one. -/
def needsNew (s : State) (k c : Nat) : Bool := (codeFrame s k c).isNone
def needsCopy (s : State) (k c : Nat) : Option Nat :=
  (codeFrame s k c).bind fun f => (findPage s f).bind fun g => if 1 < g.refs then some f else none

/-- NEED: each copy takes a reference off the page that it copies (R213, R218). -/
def pagesNeeded (s : State) (k : Nat) (writes : List Nat) : Nat :=
  (writes.foldl (fun (m : Nat × Table Nat) c =>
    if needsNew s k c then (m.1 + 1, m.2)
    else match needsCopy s k c with
      | none => m
      | some f =>
        let left := ((findPage s f).map (·.refs)).getD 0 - tget 0 m.2 f
        if 1 < left then (m.1 + 1, tput f (tget 0 m.2 f + 1) m.2) else m) (0, [])).1

/-- The context and page of virtual addresses of a page of a sequence. -/
def codeVa (s : State) (k c : Nat) : Option (Nat × Nat) := (findSeq s k (codeSeq c)).map fun q => (q.ctx, q.base / 65536 + codePage c)

/-- Map a page of a sequence to a frame. -/
def mapPage (k c f : Nat) (drop : Bool) (s : State) : State :=
  let t := setSeqMap (codeSeq c) (codePage c) (some ⟨f, false, drop, false, false⟩) s
  match codeVa s k c with
  | some e => endOld k e.1 e.2 t
  | none => t

/-- Give one page of the write set its own frame: zeroed, or to be copied, when the old page loses a reference. -/
def admitPage (k c : Nat) (s : State) : State :=
  if needsNew s k c then
    match takePage k 1 s with
    | some (f, t) => mapPage k c f false t
    | none => s
  else match needsCopy s k c with
    | none => s
    | some old => match takePage k 1 s with
      | some (f, t) =>
        let drop := ((codeMap s k c).map (·.droppable)).getD false
        let u := unrefPage k old (codeVa s k c) (mapPage k c f drop t)
        updPart k (fun q => { q with copies := q.copies ++ [⟨old, f, false, s.clock.beat + 1⟩] }) u
      | none => s

def admitPages (k : Nat) (writes : List Nat) : State → State := forAll writes (admitPage k)

/-- The copies of a partition as R213 times them. -/
def copyTimes (s : State) (k : Nat) : List CopyTime :=
  (s.part k).copies.map fun c => ⟨stackOfPa s c.src, stackOfPa s c.dst, if c.readDone then some c.since else none, false⟩

/-- Whether copies made at acceptance would not end before Bd. -/
def copiesLate (s0 s : State) (k bd : Nat) : Bool :=
  let l := copyTimes s k
  let n := s0.clock.beat
  (s.part k).copies.length != (s0.part k).copies.length
    && (bd ≤ n + 1 || bd ≤ copyEnd bd ((s0.part k).run.isNone && (s0.part k).waiting.isNone) (2 * l.length + 2) (n + 1) l)

/-- The record of R218. -/
def admissionRecord (need free elig : Nat) : List Byte :=
  leBytes 8 2 ++ leBytes 4 need ++ leBytes 4 free ++ leBytes 4 elig ++ leBytes 4 (need - free - elig)

/-! ## Translation entries (R266) -/

def entriesShort (s : State) (k : Nat) (bales pages : Nat) : Nat :=
  let q := mangersOf s k
  let other := runsOf (s.part k)
  let b := bales + (other.map fun r => r.holds.length).sum
  let g := pages + (other.map fun r => (r.writeSet ++ r.readSet).dedup.length).sum
  (b - q * 131072) + (g - q * 1048576)

/-! ## Acceptance -/

/-- A RUN as it is accepted. -/
def newRun (s : State) (p : Post) (ctx startBeat abi : Nat) (prog : Program) (batch : List BatchEntry) : Run where
  id := s.nextRun
  ctx := ctx
  post := p
  acceptedAt := s.clock.beat + 1
  startBeat := startBeat
  shift := 0
  abi := abi
  prog := prog
  batch := batch
  decoded := 0
  held := []
  decodeStop := none
  nextInstr := 0
  nextRound := 0
  nextAt := 0
  doneInstr := 0
  doneRound := 0
  opened := []
  placed := []
  arrived := []
  toStore := []
  flight := []
  replay := none
  portFree := 0
  rowFree := 0
  lastCommit := 0
  foldAt := 0
  posted := []
  banks := []
  xlat := []
  dead := []
  windowBase := 0
  epochs := []
  ring := []
  ringFrom := (0, 0)
  ringBase := 0
  ringNext := 0
  twice := []
  ending := none
  trouble := Trouble.reset
  holds := []
  writeSet := []
  readSet := []
  begun := false

/-- The RUN takes a place of its partition (R390). -/
def placeRun (r : Run) (q : Part) : Part :=
  match q.run with
  | none => { q with run := some r, st := .accepted, retry := false, lag := 0, slips := 0, retries := 0 }
  | some _ => { q with waiting := some r }

/-- The translations of the key-value pages that a RUN may read or write, loaded at its acceptance (R216, R266): for each page of
virtual addresses the number of its frame, plus one. -/
def loadPages (s : State) (k : Nat) (r : Run) : Table Nat :=
  (r.prog.descs.filter fun d => d.layout == 4).foldl (fun t d => match headOf s k r.ctx r.batch d with
    | none => t
    | some (q, head) =>
      let n := q.nb * pagesPerBlock q.format
      (List.range n).foldl (fun u i => match codeFrame s k (pageCode q (head * n + i)) with
        | some f => tput (d.base / 65536 + i) (f / 65536 + 1) u
        | none => u) t) []

/-- A word's operands as they stand in T1. -/
def acceptEnv (s : State) (r : Run) (j : Nat) (w : TileWord) : StepEnv :=
  let wts (a : Nat) : Byte := match runT1 s r a with
    | some pa => readT1 s pa
    | none => 0
  let book := regionOf r.prog j w .codebook 0 0
  { p := r.prog, j := j, w := w, rb := 0, lp := 0, runlen := w.runlen, issue := 0, assay := false, act := fun _ a => wts a
    side := fun _ a => wts a, wts := wts
    book := ((List.range 8).map fun i => (i, match book.elem i with
      | some l => (wts l.addr).setWidth 32
      | none => 0))
    colConst := [], scales := [], dead := [] }

/-- The shepherd forms D[n] of every CV word that leaves dead taps out (R156). -/
def deadSums (s : State) (r : Run) : List (Nat × List (Option (Int × Int))) :=
  r.prog.words.zipIdx.filterMap fun e =>
    let v := acceptEnv s r e.2 e.1
    if isCv e.1 && !(droppedTaps v.da (Desc.at v.p e.1.db) v.dc e.1).isEmpty then
      some (e.2, (List.range (validCols v.dc e.1.cb)).map fun n => holdNum (deadSum v n))
    else none

/-- The entries of a RUN's pages are accessed (R264). -/
def markPages (k : Nat) (l : List Nat) : State → State :=
  forAll l fun c => updSeq (codeSeq c) fun q =>
    if q.part == k then { q with maps := tset none q.maps (codePage c) ((seqMap q (codePage c)).map fun m => { m with accessed := true }) } else q

/-- Whether a line of 64 bytes lies in a bale's frame. -/
def lineOf (s : State) (b : Nat × Nat) (l : Nat) : Bool :=
  match (getBale s b.1 b.2).bind (·.frame) with
  | some f => f ≤ 64 * l && 64 * l < f + baleBytes
  | none => false

/-- The RUN with what its acceptance fixes: its sets as they stand after admission, its pages' translations, and its dead-tap terms;
the bales that it holds are accessed, and used at this beat (R248, R264), and give up their filtered lines (R360). -/
def acceptRun (k : Nat) (r : Run) (reads writes : List Nat) (holds : List (Nat × Nat)) (s : State) : State :=
  let r1 := { r with holds := holds, writeSet := (writes.filterMap (codeFrame s k)).dedup,
                     readSet := (reads.filterMap (codeFrame s k)).dedup, xlat := loadPages s k r }
  let r' := { r1 with dead := deadSums s r1 }
  let t := forAll holds (fun b => updBale b.1 b.2 fun x => { x with accessed := true, lastUse := now s }) (markPages k (reads ++ writes) s)
  let u := backInvalidateIf (fun l => holds.any fun b => lineOf s b l) t
  { updPart k (placeRun r') u with nextRun := if r.id = 0xFFFF_FFFE then 1 else r.id + 1 }

/-! ## The command -/

/-- The RUN record of an ACCEPTED completion: RUN_ID, and every other field 0 (R377). -/
def acceptRecord (id : Nat) : List Byte := zeros 8 ++ leBytes 4 id ++ zeros 76

/-- A rejection with a RUN record. -/
def reject (st whr index count : Nat) (s : State) : Reply := .done st (rejectRecord whr index count) s

/-- Checks 10 to 13 of R391 and the acceptance. -/
def admitRun (k : Nat) (r : Run) (holds : List (Nat × Nat)) (s : State) : Reply :=
  let writes := writeCodes s k r.ctx r.batch r.prog
  let reads := readCodes s k r.ctx r.batch r.prog
  let only := reads.filter fun c => !writes.contains c
  let gone := only.filter (codeDropped s k)
  let keep := (writes ++ reads).filterMap (codeFrame s k)
  let need := pagesNeeded s k writes
  let free := freePages s k
  let elig := (eligiblePages s k keep).length
  let s1 := dropPages k keep (need - free) s
  let s2 := admitPages k writes s1
  let pages := ((writes ++ reads).filterMap (codeFrame s2 k)).dedup.length
  let short := entriesShort s k holds.length pages
  if only.any fun c => (codeMap s k c).isNone then reject stBadArg 0 0 0 s
  else if !gone.isEmpty then .done stPagesDropped (droppedRecord s k gone) s
  else if free + elig < need then .done stNoSpace (admissionRecord need free elig) s
  else if copiesLate s s2 k (firstBeat r) then reject stBadArg 0 0 0 s
  else if 0 < short then .done stNoSpace (leBytes 8 1 ++ shortRecord 3 short) s
  else
    .accept none (acceptRecord r.id) r.ctx k (.run k r.id) (acceptRun k r reads writes holds s2)

/-- Checks 7 to 9 of R391. -/
def checkSets (k va : Nat) (r : Run) (s : State) : Reply :=
  let holds := workingSet s r.ctx va r.prog
  let out := holds.filter fun b => !baleReady s b
  if r.prog.version != 1 && 50 * (s.part k).budget < maxEnergy r then reject stDenied 0 0 0 s
  else if holds.any (baleLoading s) then reject stBadState 0 0 0 s
  else match descFail r.prog (fun d => failIf (d.layout != 4 && !rangeValid s r.ctx d.base (descSpan d)) stBadArg) with
    | some e => reject e.status e.whr e.index 0 s
    | none =>
      if !out.isEmpty then reject stBadState 0 0 out.length (forAll out (fun b t => (actPromote b.1 b.2 t).1) s)
      else admitRun k r holds s

/-- The key-value pages that a RUN would be given at its acceptance now (R216, R218). -/
def pagesAtAcceptance (s : State) (k : Nat) (r : Run) : State :=
  let writes := writeCodes s k r.ctx r.batch r.prog
  let keep := (writes ++ readCodes s k r.ctx r.batch r.prog).filterMap (codeFrame s k)
  admitPages k writes (dropPages k keep (pagesNeeded s k writes - freePages s k) s)

/-- The RUN with the translations that the schedule checks are made with. -/
def withPages (s : State) (k : Nat) (r : Run) : Run := { r with xlat := loadPages (pagesAtAcceptance s k r) k r }

/-- Check 6: the program. -/
def checkProgram (k va : Nat) (r : Run) (s : State) : Reply :=
  match staticChecks s k r.ctx r.batch r.prog <|> scheduleChecks s k (withPages s k r) <|> stateChecks s k r.prog with
  | some e => reject e.status e.whr e.index 0 s
  | none => checkSets k va r s

/-- Whether a stack of the partition has a full poison list (R294). -/
def listFull (s : State) (k : Nat) : Bool := (stacksOf s k).any fun t => (s.stack t).plfull

/-- Checks 2 to 5, and the image. -/
def submitCtx (p : Post) (va startBeat : Nat) (batch : List BatchEntry) (c : Ctx) (s : State) : Reply :=
  let k := postTarget p
  let q := s.part k
  let n := s.clock.beat
  let abi := (s.func p.func).abi
  if ctxCode s c != 1 then reject stBadState 0 0 0 s
  else if q.st == .quiesced || q.st == .resetting then reject stQuiesced 0 0 0 s
  else if q.run.isSome && q.waiting.isSome then reject stBadState 0 0 0 s
  else if startBeat < n + 2 || n + 1200000 < startBeat then reject stBadArg 0 0 0 s
  else if listFull s k then reject stBadState 0 0 0 s
  else match loadProgram s k c.handle abi va with
    | .error e => reject e.status e.whr e.index 0 s
    | .ok prog => checkProgram k va (newRun s p c.handle startBeat abi prog batch) s

def runSubmitBody (p : Post) (ctx program startBeat : Nat) (batch : List BatchEntry) (s : State) : Reply :=
  match checkCtx p ctx s with
  | .error st => reject st 0 0 0 s
  | .ok c => submitCtx p program startBeat batch c s

def execRunSubmit (p : Post) (ctx program startBeat : Nat) (batch : List BatchEntry) (s : State) : Result State :=
  .next (settledCmd (mailbox p rowRunSubmit (4 + batch.length) (runSubmitBody p ctx program startBeat batch)) s)

end Sys2Proof.Machine
end

