-- ==== Sys2Proof/Machine/Pulse.lean ====
section
/-! DEFINITION. The beat boundary (R56): the commands that the shepherd sampled, the bell, hangs, RUN starts and resumptions, and the
snapshot of the POST words; and the host's writes to registers (R7, R363, R367). -/

namespace Sys2Proof.Machine

/-! ## Sampled commands -/

/-- The state that an answer leaves; a stop leaves the state as it was. -/
def answered (s : State) : Result State → State
  | .next t => t
  | _ => s

/-- The answer of a sampled command of an opcode below 0x0800. -/
def runLow : Instr → State → Result State
  | .funcOpen p a, s => execFuncOpen p a s
  | .funcInfo p, s => execFuncInfo p s
  | .contextRegister p a, s => execContextRegister p a s
  | .contextRelease p c, s => execContextRelease p c s
  | .contextReside p c o, s => execContextReside p c o s
  | .contextCancel p c, s => execContextCancel p c s
  | .runSubmit p c g b l, s => execRunSubmit p c g b l s
  | .runQuery p r, s => execRunQuery p r s
  | .syncAdd p c f v, s => execSyncAdd p c f v s
  | .syncRead p f c, s => execSyncRead p f c s
  | .syncWait p x c v t, s => execSyncWait p x c v t s
  | .allocTensor p c r b va sz tg sr, s => execAllocTensor p c r b va sz tg sr s
  | .allocFree p c t, s => execAllocFree p c t s
  | .tierConfig p c l, s => execTierConfig p c l s
  | .tierPromote p c t f n, s => execTierPromote p c t f n s
  | .tierEvict p c t f n, s => execTierEvict p c t f n s
  | .tierPin p c t f n, s => execTierPin p c t f n s
  | .tierUnpin p c t f n, s => execTierUnpin p c t f n s
  | .tierQuery p c t f n, s => execTierQuery p c t f n s
  | .weightLoad p c t m v, s => execWeightLoad p c t m v s
  | .kvCreate p c h f b m, s => execKvCreate p c h f b m s
  | .kvShare p q f c g r, s => execKvShare p q f c g r s
  | .kvRelease p q f c g r, s => execKvRelease p q f c g r s
  | .kvMark p q f c g r, s => execKvMark p q f c g r s
  | .kvQuery p q f, s => execKvQuery p q f s
  | _, s => .next s

/-- The answer of a sampled command of an opcode from 0x0800 up. -/
def runHigh : Instr → State → Result State
  | .memQuery p f c, s => execMemQuery p f c s
  | .memRestore p, s => execMemRestore p s
  | .codecOpen p o, s => execCodecOpen p o s
  | .codecDecode p q l a b g o, s => execCodecDecode p q l a b g o s
  | .codecEncode p q l k a g o b, s => execCodecEncode p q l k a g o b s
  | .codecClose p q, s => execCodecClose p q s
  | .codecQuery p q, s => execCodecQuery p q s
  | .fabricConfig p c, s => execFabricConfig p c s
  | .fabricRoute p f c l, s => execFabricRoute p f c l s
  | .fabricQuery p, s => execFabricQuery p s
  | .fabricCopy p c r d t va b, s => execFabricCopy p c r d t va b s
  | .tallyConfig p g i d o t, s => execTallyConfig p g i d o t s
  | .partitionConfig p m, s => execPartitionConfig p m s
  | .partitionQuery p q f, s => execPartitionQuery p q f s
  | .hostCopy p c d q va h b, s => execHostCopy p c d q va h b s
  | .hostHdm p m, s => execHostHdm p m s
  | .powerBudget p l b, s => execPowerBudget p l b s
  | .powerQuery p, s => execPowerQuery p s
  | .recoverDumpTake p q t, s => execRecoverDumpTake p q t s
  | .recoverDumpRead p q t h o b, s => execRecoverDumpRead p q t h o b s
  | .recoverDumpKeep p q t, s => execRecoverDumpKeep p q t s
  | .recoverDumpRelease p q t, s => execRecoverDumpRelease p q t s
  | .recoverReset p l q e, s => execRecoverReset p l q e s
  | .recoverQuery p, s => execRecoverQuery p s
  | .daybookRead p f c, s => execDaybookRead p f c s
  | .secKeyInstall p q k b, s => execSecKeyInstall p q k b s
  | .secKeyRevoke p q k b, s => execSecKeyRevoke p q k b s
  | .secQuery p, s => execSecQuery p s
  | .lifecycleAdvance p t a, s => execLifecycleAdvance p t a s
  | .lifecycleQuery p, s => execLifecycleQuery p s
  | _, s => .next s

/-- A row for the check of a post whose opcode R380 does not list. -/
def noRow : CmdRow := ⟨0, false, false, true⟩

/-- A post whose opcode R380 does not list: checks 1 to 3 of R369. -/
def unknownOpcode (p : Post) (s : State) : State :=
  if !sampling p s then s
  else
    let stale : Bool := p.seq != ((s.mbx p.func p.mbx).lastSeq + 1) % 65536
    completeNow p (if stale then stStaleSeq else if p.len > 504 then stBadLength else stBadOpcode) [] (samplePost p stale s)

/-- A post of RECOVER.DUMP or SEC.KEY whose OP names nothing (R420, R461, R484). -/
def unknownOp (p : Post) (op : Nat) : State → State :=
  if op == 0x0F01 then mailbox p rowRecoverDump 4 fun s => .done stBadArg [] s
  else if op == 0x1101 then mailbox p rowSecKey 19 fun s => .done (if keysDenied s then stDenied else stBadArg) [] s
  else unknownOpcode p

/-- The effect of a sampled post. -/
def postedEffect (q : Posted) (s : State) : State :=
  match postedCommand q with
  | some i => answered s (if postedOp q < 0x0800 then runLow i s else runHigh i s)
  | none => unknownOp (postOf q) (postedOp q) s

/-- Execute a post that was sampled in this beat; what the host has since written to the header stays for a later sampling (R368). -/
def runPosted (q : Posted) (s : State) : State :=
  let m := s.mbx q.func q.mbx
  let t := postedEffect q (updMbx q.func q.mbx (fun m => { m with busy := false }) s)
  updMbx q.func q.mbx (fun x => { x with post := m.post, ctrl := m.ctrl }) t

/-- Execute the posts sampled in this beat, in the order of R372. -/
def runSampled (s : State) : State :=
  forAll s.host.sampled runPosted (updHost (fun h => { h with sampled := [] }) s)

/-- The idle codec pipelines take up commands, once every command of the beat is known (R305). -/
def serveCodecs : State → State := forAll (List.range 6) kickPipe

/-- Sample one mailbox: POST is read and cleared, the payload copied, the mailbox busy (R368). -/
def sampleMailbox (f m : Nat) (s : State) : State :=
  let b := s.mbx f m
  if !mailboxIdle s.clock.beat b || b.post == 0 then s
  else
    updHost (fun h => { h with sampled := h.sampled ++ [⟨f, m, b.post, b.ctrl, bytesAt b.data 0 (8 * min (field b.ctrl 0 16) 504)⟩] })
      (updMbx f m (fun x => { x with post := 0, busy := true }) s)

/-- The mailboxes that hold a POST, PF0 first, then VF1 to VF4, ascending (R372). -/
def postedMailboxes (s : State) : List (Nat × Nat) :=
  s.host.funcs.flatMap fun e => e.2.mailboxes.map fun x => (e.1, x.1)

/-- The snapshot of the POST words (R56, R368), once the host reaches the mailboxes (R448). -/
def snapshot (s : State) : State :=
  if s.power.stage ≠ .ready then s else forAll (postedMailboxes s) (fun e => sampleMailbox e.1 e.2) s

/-! ## The bell (R399, R400) -/

/-- The highest ladder level in progress. -/
def ladderLevel (s : State) : Nat :=
  (s.recov.steps.map (·.level)).foldl max (if s.recov.cancels.isEmpty then 0 else 1)

/-- The bell word of the boundary to the present beat. -/
def bellWord (s : State) : Nat :=
  let b := (s.clock.beat + 2 ^ 32 - 1) % 2 ^ 32
  b + 2 ^ 32 * (65535 - b % 65536) + 2 ^ 48 * ladderLevel s + 2 ^ 64 * maskOf s.recov.hung

/-- The monitor's count: a good word clears it, a beat without one raises it. The last 64 words are kept (R419). -/
def ringBell (alive : Bool) (s : State) : State :=
  if alive then
    let w := bellWord s
    updHost (fun h => { h with bellCount := (h.bellCount + 1) % 2 ^ 64 })
      (updRecov (fun v => { v with missed := 0, last := (s.clock.beat - 1) % 2 ^ 48, lastWord := w, words := (w :: v.words).take 64 }) s)
  else updRecov (fun v => { v with missed := min 64 (v.missed + 1) }) s

/-- Whether State bears out a hang that the shepherd's status read reports (R403): its kind is one of the engine's class, and a request
without progress is old enough. WATCHDOG and NO_IDLE follow from State alone. -/
def hangFits (s : State) (h : Hang) : Bool :=
  let c := engineClass h.engine
  let old (n : Nat) : Bool := n + 2000 ≤ s.clock.elapsed
  h.engine < 120 && match h.kind with
    | .noVerdict => c == 1
    | .noAbandon => [1, 2, 3, 5, 6, 7].contains c
    | .noProgress => [2, 5, 6, 7].contains c && old h.lastProgress
    | .noRefresh => c == 2
    | .noResponse => true
    | .watchdog | .noIdle => false

/-- The codec pipelines that raised WATCHDOG over the beat that ended (R317). -/
def watchdogHangs (s : State) : List Hang :=
  (List.range 6).filterMap fun p => if (s.pipe p).raised then some ⟨pipeBit p, .watchdog, (s.pipe p).frameAt⟩ else none

/-- The gates that were UP and sent no idle word for the whole beat that ended (R403). -/
def idleHangs (s : State) : List Hang :=
  (List.range 16).filterMap fun g =>
    if gateUp s g && (s.gate g).since + 1 < s.clock.elapsed && (s.gate g).lastIdle ≤ 100 * (s.clock.beat - 1) then
      some ⟨84 + g, .noIdle, (s.gate g).lastIdle / 100⟩
    else none

/-- The hangs found over the beat that ended, in engine order (R403). -/
def takeHangs (l : List Hang) (s : State) : State :=
  let t := forAll (List.range 6) (fun p => updPipe p fun q => { q with raised := false }) (updRecov (fun v => { v with hung := [] }) s)
  forAll (l.filter (hangFits s) ++ watchdogHangs s ++ idleHangs s) takeHang t

/-! ## RUNs at a boundary -/

/-- A RUN whose start beat has come takes ac 0 as issue cycle 0 (R56). -/
def startRun (k : Nat) (s : State) : State :=
  match (s.part k).st, (s.part k).run with
  | .accepted, some r => if r.begun && r.startBeat ≤ s.clock.beat then updPart k (fun q => { q with st := .running }) s else s
  | _, _ => s

/-- A partition that quiesced in an earlier beat leaves the quiesced state and retries (R73, R341), unless the tally is lost at this
boundary, or was before it, under a RUN that uses the fabric (R52). -/
def retryPart (k : Nat) (s : State) : State :=
  let q := s.part k
  let gone : Bool := s.tally.lostPending || (s.tally.st == .holdover && 200 ≤ s.tally.hold)
  let lost : Bool := gone && (q.run.map (·.prog.fabric)).getD false
  if q.st == .quiesced && q.retry && q.quiescedAt < s.clock.beat && !stopping s && !lost && (q.run.all (·.ending.isNone)) then
    resumeAt k (s.clock.beat + if (q.run.map (·.prog.fabric)).getD false then s.fabric.shiftMargin else 0) true s
  else s

/-- What a boundary does in each partition. -/
def pulsePart (k : Nat) (s : State) : State :=
  let t := if beginDue s k then settled (beginRun k) s else s
  startRun k (retryPart k (stopDecoded k t))

/-! ## The boundary -/

/-- Next beat. -/
def tick (s : State) : State :=
  { s with clock := { beat := s.clock.beat + 1, acb := 0, elapsed := s.clock.elapsed + 1, lead := 0 } }

/-- TALLY_OUT emits the beat and the code while the unit is LOCKED (R345, R475). -/
def beatOut (s : State) : State :=
  if s.tally.st = .locked then
    emit (.beatPulse (tallyWord (s.clock.beat + 1) s.tally.following.gmId s.tally.following.gmPrio s.tally.following.steps)) s
  else s

/-- The tally unit at a boundary: HOLD, slewing, the election, the pulse. -/
def pulseTally (s : State) : State :=
  let t := tallyBeat s
  beatOut (elect t)

/-- The shepherd at a boundary (R395, R399, R403). -/
def pulseShepherd (alive : Bool) (hangs : List Hang) (s : State) : State :=
  let s1 := settled evaluateWaits s
  let s2 := settled finishCancels (resideDecisions s1)
  let s3 := settled (takeHangs hangs) (startQueuedSteps (passIdleSuspects s2))
  ringBell alive s3

/-- A beat boundary. -/
def beatBoundary (alive : Bool) (hangs : List Hang) (s : State) : State :=
  let s1 := tick (notePool (serveCodecs (runSampled s)))
  let s2 := countCool (closePowerBeat (openDaybook s1))
  let s3 := pulseShepherd alive hangs (pulseTally s2)
  let s4 := forAll (partList s3) pulsePart (resumeHeld s3)
  snapshot s4

/-- Whether the beat clock runs: from the training of the stacks on (R448). -/
def beating (s : State) : Bool :=
  s.power.stage == .training || s.power.stage == .wipe || s.power.stage == .gates || s.power.stage == .ready

/-- A host command's time is over, or a transfer's (R259, R349, R350, R357, R398). -/
def transferTimer (s : State) : Bool :=
  s.host.progs.any (fun g => (timedWait s g.post.func g.post.mbx).isSome) || s.fabric.copies.any (fun c => fabricCopyOverdue s c.id)
    || (s.place.loads.any fun l => l.flight.any fun f => replicaOverdue s l.tensor f.shard) || (List.range 16).any (restoresRate s)
    || s.place.tensors.any fun t => (List.range t.bales.length).any (t2Overdue s t.handle)

/-- A cell or an attempt leaves a gate within this beat, or a gate's training is over its time (R331, R333, R336). -/
def gateTimer (s : State) : Bool :=
  (List.range 16).any fun g =>
    let v := s.gate g
    trainOverdue s g || (gateUp s g && (firstCell v.waiting).any fun c => leaveAc v c < 65000 * (s.clock.beat + 1))
      || v.sends.any fun h => h.issued && (routeAt s h.part h.route).any fun r => attemptAc r h h.nextAttempt < 65000 * (s.clock.beat + 1)

/-- A step of the recovery, power or security rules is due (R400, R406, R409, R420, R422, R430, R432, R441, R442, R465). -/
def shepherdTimer (s : State) : Bool :=
  (s.ctxs.any fun c => handleExpired s c.handle || overdue s (.cancel c.handle)) || (List.range 120).any (fun e => overdue s (.engine e))
    || (partList s).any (fun k => overdue s (.partition k)) || overdue s .chip || (List.range 120).any (fun e => (nextSuspect s e).isSome)
    || (64 ≤ s.recov.missed && !s.recov.tripped) || takeDue s || (s.power.converters && s.power.supply == 2 && !levelFourDump s)
    || (20 ≤ s.power.overBeats && !s.power.overRecorded) || !s.power.warnPending.isEmpty
    || (!s.power.quiescePending.isEmpty && !s.power.thermalOn) || (s.power.thermalOn && 200 ≤ s.power.coolBeats)
    || (dueTransition s).isSome || bootOverdue s || refreshDue s || detectDue s

/-- Work of this beat that has not taken place: copies of key-value pages, frames beyond their bound, timers. -/
def beatOpen (s : State) : Bool :=
  (partList s).any (fun k => (nextTouch s.clock.beat (s.part k).copies).isSome) || (List.range 6).any (frameOverdue s)
    || transferTimer s || gateTimer s || shepherdTimer s

/-- A beat ends once everything that is due in it has taken place. -/
def execBeatBoundary (alive : Bool) (hangs : List Hang) (s : State) : Result State :=
  event "BEAT_BOUNDARY" (beating s && !setTimeDue s && !boundaryDue s && (partList s).all (beatDone s) && !beatOpen s)
    (beatBoundary alive hangs s)

/-! ## Register writes (R7, R363) -/

/-- Whether the host reaches BAR0 (R448). -/
def hostReaches (s : State) : Bool := s.power.stage == .ready

/-- A write to an MSI-X vector's mask: unmasking sends a vector that is pending (R363, R366). -/
def writeMask (f v value : Nat) (s : State) : State :=
  if bit value 0 then updFunc f (fun u => { u with masked := insertSorted v u.masked }) s
  else
    let was := (s.func f).pba.contains v
    let t := updFunc f (fun u => { u with masked := u.masked.filter (· != v), pba := u.pba.filter (· != v) }) s
    if was then sendVector f v t else t

/-- A write to a register of BAR0. -/
def writeBar (t : RegTarget) (value : Nat) (s : State) : State :=
  match t with
  | .events f => updFunc f (fun u => { u with events := w1c u.events (BitVec.ofNat 32 value) }) s
  | .mailboxPost f m => updMbx f m (fun x => { x with post := value % 2 ^ 32 }) s
  | .mailboxCtrl f m => updMbx f m (fun x => { x with ctrl := value % 2 ^ 32 }) s
  | .mailboxData f m o => updMbx f m (fun x => { x with data := putBytes x.data o ((leBytes 8 value).take (4032 - o)) }) s
  | .msixMask f v => writeMask f v value s
  | .msixMessage f v w => updFunc f (fun u => { u with messages := tset 0 u.messages (4 * v + w) (value % 2 ^ 32) }) s
  | _ => s

/-- A write to the W1C fields of a register outside BAR0; every other field ignores it (R7). -/
def writeW1c (t : RegTarget) (value : Nat) (s : State) : State :=
  match t with
  | .penState p => updPen p (fun q => { q with haz := w1cBool q.haz (bit value 24), bcerr := w1cBool q.bcerr (bit value 25),
                                               late := w1cBool q.late (bit value 26) }) s
  | .penRowu p => updPen p (fun q => { q with rowu := { q.rowu with nan := w1cBool q.rowu.nan (bit value 9) } }) s
  | .penAttn p => updPen p (fun q => { q with attn := { q.attn with empty := w1cBool q.attn.empty (bit value 41) } }) s
  | .drvStatus d => updDrover d (fun q => { q with late := w1cBool q.late (bit value 9), poison := w1cBool q.poison (bit value 10) }) s
  | .penWcnt k c => updPart k (fun q => { q with wcnt := tupd WorkCounter.reset q.wcnt c fun w =>
      { w with perr := w1cBool w.perr (bit value 35) } }) s
  | .hbmChan c => updChan c (fun q => { q with trfail := w1cBool q.trfail (bit value 14) }) s
  | .cdcPipe i => updPipe i (fun q => { q with wdog := w1cBool q.wdog (bit value 20) }) s
  | .pwrInput => updPower (fun p => if bit value 47 then { p with dip := false, vmin := 0 } else p) s
  | .pwrTemp i => updDie i (fun d => { d with warn := w1cBool d.warn (bit value 16) }) s
  | _ => s

/-- Whether a register lies in BAR0. -/
def inBar : RegTarget → Bool
  | .events _ | .mailboxPost _ _ | .mailboxCtrl _ _ | .mailboxData _ _ _ | .msixMask _ _ | .msixMessage _ _ _ => true
  | _ => false

def execRegisterWrite (target : RegTarget) (value : Nat) (s : State) : Result State :=
  .next (if inBar target then (if hostReaches s then writeBar target value s else s) else writeW1c target value s)

end Sys2Proof.Machine
end

