-- ==== Sys2Proof/Machine/Dispatch.lean ====
section
/-! DEFINITION. The meaning of each command: one arm for each constructor of Instr. -/

namespace Sys2Proof.Machine

def exec (i : Instr) (s : State) : Host.Outcome State Fault Refusal :=
  match i with
  | .funcOpen p abi => Sys2Proof.Machine.execFuncOpen p abi s
  | .funcInfo p => Sys2Proof.Machine.execFuncInfo p s
  | .contextRegister p priority => Sys2Proof.Machine.execContextRegister p priority s
  | .contextRelease p ctx => Sys2Proof.Machine.execContextRelease p ctx s
  | .contextReside p ctx out => Sys2Proof.Machine.execContextReside p ctx out s
  | .contextCancel p ctx => Sys2Proof.Machine.execContextCancel p ctx s
  | .runSubmit p ctx program startBeat batch => Sys2Proof.Machine.execRunSubmit p ctx program startBeat batch s
  | .runQuery p runId => Sys2Proof.Machine.execRunQuery p runId s
  | .syncAdd p counter set value => Sys2Proof.Machine.execSyncAdd p counter set value s
  | .syncRead p first count => Sys2Proof.Machine.execSyncRead p first count s
  | .syncWait p ctx counter value timeout => Sys2Proof.Machine.execSyncWait p ctx counter value timeout s
  | .allocTensor p ctx random backed va size tag src => Sys2Proof.Machine.execAllocTensor p ctx random backed va size tag src s
  | .allocFree p ctx tensor => Sys2Proof.Machine.execAllocFree p ctx tensor s
  | .tierConfig p commonsGib ranges => Sys2Proof.Machine.execTierConfig p commonsGib ranges s
  | .tierPromote p ctx tensor first count => Sys2Proof.Machine.execTierPromote p ctx tensor first count s
  | .tierEvict p ctx tensor first count => Sys2Proof.Machine.execTierEvict p ctx tensor first count s
  | .tierPin p ctx tensor first count => Sys2Proof.Machine.execTierPin p ctx tensor first count s
  | .tierUnpin p ctx tensor first count => Sys2Proof.Machine.execTierUnpin p ctx tensor first count s
  | .tierQuery p ctx tensor first count => Sys2Proof.Machine.execTierQuery p ctx tensor first count s
  | .weightLoad p ctx tensor manifest verified => Sys2Proof.Machine.execWeightLoad p ctx tensor manifest verified s
  | .kvCreate p ctx heads format base maxPos => Sys2Proof.Machine.execKvCreate p ctx heads format base maxPos s
  | .kvShare p seq first count flags src => Sys2Proof.Machine.execKvShare p seq first count flags src s
  | .kvRelease p seq first count flags src => Sys2Proof.Machine.execKvRelease p seq first count flags src s
  | .kvMark p seq first count flags src => Sys2Proof.Machine.execKvMark p seq first count flags src s
  | .kvQuery p seq firstEntry => Sys2Proof.Machine.execKvQuery p seq firstEntry s
  | .memQuery p first count => Sys2Proof.Machine.execMemQuery p first count s
  | .memRestore p => Sys2Proof.Machine.execMemRestore p s
  | .codecOpen p o => Sys2Proof.Machine.execCodecOpen p o s
  | .codecDecode p session last inVa bytes maxGroups outVa => Sys2Proof.Machine.execCodecDecode p session last inVa bytes maxGroups outVa s
  | .codecEncode p session last key inVa groups outVa outBytes => Sys2Proof.Machine.execCodecEncode p session last key inVa groups outVa outBytes s
  | .codecClose p session => Sys2Proof.Machine.execCodecClose p session s
  | .codecQuery p session => Sys2Proof.Machine.execCodecQuery p session s
  | .fabricConfig p c => Sys2Proof.Machine.execFabricConfig p c s
  | .fabricRoute p first count entries => Sys2Proof.Machine.execFabricRoute p first count entries s
  | .fabricQuery p => Sys2Proof.Machine.execFabricQuery p s
  | .fabricCopy p ctx route dir tag va bytes => Sys2Proof.Machine.execFabricCopy p ctx route dir tag va bytes s
  | .tallyConfig p gmPrio input inDelay ptpOffset setTime => Sys2Proof.Machine.execTallyConfig p gmPrio input inDelay ptpOffset setTime s
  | .partitionConfig p mode => Sys2Proof.Machine.execPartitionConfig p mode s
  | .partitionQuery p sect first => Sys2Proof.Machine.execPartitionQuery p sect first s
  | .hostCopy p ctx dir sync va hostAddr bytes => Sys2Proof.Machine.execHostCopy p ctx dir sync va hostAddr bytes s
  | .hostHdm p parts => Sys2Proof.Machine.execHostHdm p parts s
  | .powerBudget p limit budgets => Sys2Proof.Machine.execPowerBudget p limit budgets s
  | .powerQuery p => Sys2Proof.Machine.execPowerQuery p s
  | .recoverDumpTake p slot set => Sys2Proof.Machine.execRecoverDumpTake p slot set s
  | .recoverDumpRead p slot set hostAddr offset bytes => Sys2Proof.Machine.execRecoverDumpRead p slot set hostAddr offset bytes s
  | .recoverDumpKeep p slot set => Sys2Proof.Machine.execRecoverDumpKeep p slot set s
  | .recoverDumpRelease p slot set => Sys2Proof.Machine.execRecoverDumpRelease p slot set s
  | .recoverReset p level part engine => Sys2Proof.Machine.execRecoverReset p level part engine s
  | .recoverQuery p => Sys2Proof.Machine.execRecoverQuery p s
  | .daybookRead p fromSeq count => Sys2Proof.Machine.execDaybookRead p fromSeq count s
  | .secKeyInstall p slot keyId pub => Sys2Proof.Machine.execSecKeyInstall p slot keyId pub s
  | .secKeyRevoke p slot keyId pub => Sys2Proof.Machine.execSecKeyRevoke p slot keyId pub s
  | .secQuery p => Sys2Proof.Machine.execSecQuery p s
  | .lifecycleAdvance p target auth => Sys2Proof.Machine.execLifecycleAdvance p target auth s
  | .lifecycleQuery p => Sys2Proof.Machine.execLifecycleQuery p s
  | .lifecycleCommit => Sys2Proof.Machine.execLifecycleCommit s
  | .lifecycleEraseDone => Sys2Proof.Machine.execLifecycleEraseDone s
  | .registerWrite target value => Sys2Proof.Machine.execRegisterWrite target value s
  | .beatBoundary alive hangs => Sys2Proof.Machine.execBeatBoundary alive hangs s
  | .bellTrip => Sys2Proof.Machine.execBellTrip s
  | .engineReady engine => Sys2Proof.Machine.execEngineReady engine s
  | .guiltyReplay engine => Sys2Proof.Machine.execGuiltyReplay engine s
  | .ladderBudgetExpired step => Sys2Proof.Machine.execLadderBudgetExpired step s
  | .partitionReady part failed => Sys2Proof.Machine.execPartitionReady part failed s
  | .dumpTakeCollect => Sys2Proof.Machine.execDumpTakeCollect s
  | .dumpWritten slot => Sys2Proof.Machine.execDumpWritten slot s
  | .handleExpiry ctx => Sys2Proof.Machine.execHandleExpiry ctx s
  | .correctedPeriodEnd => Sys2Proof.Machine.execCorrectedPeriodEnd s
  | .tileDecode part => Sys2Proof.Machine.execTileDecode part s
  | .droverStart part instr drover => Sys2Proof.Machine.execDroverStart part instr drover s
  | .lotComplete lot collision => Sys2Proof.Machine.execLotComplete lot collision s
  | .lotLate lot => Sys2Proof.Machine.execLotLate lot s
  | .mm part ecc => Sys2Proof.Machine.execMm part ecc s
  | .cv part ecc => Sys2Proof.Machine.execCv part ecc s
  | .cvDw part ecc => Sys2Proof.Machine.execCvDw part ecc s
  | .attn part ecc => Sys2Proof.Machine.execAttn part ecc s
  | .rw part => Sys2Proof.Machine.execRw part s
  | .mvLoad part => Sys2Proof.Machine.execMvLoad part s
  | .mvStore part => Sys2Proof.Machine.execMvStore part s
  | .mvWeight part => Sys2Proof.Machine.execMvWeight part s
  | .mvSend part => Sys2Proof.Machine.execMvSend part s
  | .mvRecv part => Sys2Proof.Machine.execMvRecv part s
  | .syFold part => Sys2Proof.Machine.execSyFold part s
  | .syWgrant part parity => Sys2Proof.Machine.execSyWgrant part parity s
  | .sySignal part => Sys2Proof.Machine.execSySignal part s
  | .syWait part => Sys2Proof.Machine.execSyWait part s
  | .tl part => Sys2Proof.Machine.execTl part s
  | .stepVerdict part => Sys2Proof.Machine.execStepVerdict part s
  | .troubleReplay part ecc => Sys2Proof.Machine.execTroubleReplay part ecc s
  | .drain part lpen collision => Sys2Proof.Machine.execDrain part lpen collision s
  | .runComplete part => Sys2Proof.Machine.execRunComplete part s
  | .waitingRunStart part => Sys2Proof.Machine.execWaitingRunStart part s
  | .kvPageReclaim part frame => Sys2Proof.Machine.execKvPageReclaim part frame s
  | .cowCopyDone part => Sys2Proof.Machine.execCowCopyDone part s
  | .kvPoolBaleReturn part frame => Sys2Proof.Machine.execKvPoolBaleReturn part frame s
  | .hbmSlot chan pc slot errors => Sys2Proof.Machine.execHbmSlot chan pc slot errors s
  | .refreshSlot stack temp => Sys2Proof.Machine.execRefreshSlot stack temp s
  | .retrainWindow chan ok failedPins => Sys2Proof.Machine.execRetrainWindow chan ok failedPins s
  | .promotionDone tensor bale => Sys2Proof.Machine.execPromotionDone tensor bale s
  | .promotionFail tensor bale => Sys2Proof.Machine.execPromotionFail tensor bale s
  | .writeBackDone tensor bale => Sys2Proof.Machine.execWriteBackDone tensor bale s
  | .writeBackFail tensor bale => Sys2Proof.Machine.execWriteBackFail tensor bale s
  | .frameZeroDone frame => Sys2Proof.Machine.execFrameZeroDone frame s
  | .chunkArrive tensor shard chunk data => Sys2Proof.Machine.execChunkArrive tensor shard chunk data s
  | .rdmaRemoteAccessError tensor shard => Sys2Proof.Machine.execRdmaRemoteAccessError tensor shard s
  | .replicaTimeout tensor shard => Sys2Proof.Machine.execReplicaTimeout tensor shard s
  | .t2Response tensor bale poison => Sys2Proof.Machine.execT2Response tensor bale poison s
  | .t2Timeout tensor bale => Sys2Proof.Machine.execT2Timeout tensor bale s
  | .hostDroverCompletion copy sectors failed => Sys2Proof.Machine.execHostDroverCompletion copy sectors failed s
  | .hostCompletionTimeout copy => Sys2Proof.Machine.execHostCompletionTimeout copy s
  | .hostSnoop line => Sys2Proof.Machine.execHostSnoop line s
  | .hdmRead offset caches => Sys2Proof.Machine.execHdmRead offset caches s
  | .hdmWrite offset data => Sys2Proof.Machine.execHdmWrite offset data s
  | .linkTrained mode width => Sys2Proof.Machine.execLinkTrained mode width s
  | .linkDetectRetry => Sys2Proof.Machine.execLinkDetectRetry s
  | .linkDown => Sys2Proof.Machine.execLinkDown s
  | .functionLevelReset func => Sys2Proof.Machine.execFunctionLevelReset func s
  | .hotReset => Sys2Proof.Machine.execHotReset s
  | .perstAssert => Sys2Proof.Machine.execPerstAssert s
  | .doeRequest kind body => Sys2Proof.Machine.execDoeRequest kind body s
  | .codecFrameDone pipe r => Sys2Proof.Machine.execCodecFrameDone pipe r s
  | .codecWatchdog pipe => Sys2Proof.Machine.execCodecWatchdog pipe s
  | .syncWaitTimeout func mbx => Sys2Proof.Machine.execSyncWaitTimeout func mbx s
  | .tallyLocked stepNs phase => Sys2Proof.Machine.execTallyLocked stepNs phase s
  | .tallyUnlock phase => Sys2Proof.Machine.execTallyUnlock phase s
  | .tallySourceLost => Sys2Proof.Machine.execTallySourceLost s
  | .tallySourceReturn phase => Sys2Proof.Machine.execTallySourceReturn phase s
  | .holdoverExpired => Sys2Proof.Machine.execHoldoverExpired s
  | .tallyLostRunEnd => Sys2Proof.Machine.execTallyLostRunEnd s
  | .tallyCode code phase => Sys2Proof.Machine.execTallyCode code phase s
  | .tallyInLoss => Sys2Proof.Machine.execTallyInLoss s
  | .ptpMessage gate msg => Sys2Proof.Machine.execPtpMessage gate msg s
  | .setTimeApply => Sys2Proof.Machine.execSetTimeApply s
  | .idleWordSend gate => Sys2Proof.Machine.execIdleWordSend gate s
  | .idleWordReceive gate w arrivalNs => Sys2Proof.Machine.execIdleWordReceive gate w arrivalNs s
  | .cellArrive gate h payload crc => Sys2Proof.Machine.execCellArrive gate h payload crc s
  | .cellLeave gate => Sys2Proof.Machine.execCellLeave gate s
  | .sendAttempt part instr attempt => Sys2Proof.Machine.execSendAttempt part instr attempt s
  | .gateDown gate => Sys2Proof.Machine.execGateDown gate s
  | .gateTrainStart gate => Sys2Proof.Machine.execGateTrainStart gate s
  | .gateTrained gate peer peerGate hop delay => Sys2Proof.Machine.execGateTrained gate peer peerGate hop delay s
  | .gateTrainTimeout gate => Sys2Proof.Machine.execGateTrainTimeout gate s
  | .fabricCopyTimeout copy => Sys2Proof.Machine.execFabricCopyTimeout copy s
  | .arpNdRequest gate addr => Sys2Proof.Machine.execArpNdRequest gate addr s
  | .roceInboundRequest gate qpn => Sys2Proof.Machine.execRoceInboundRequest gate qpn s
  | .cnpReceive gate => Sys2Proof.Machine.execCnpReceive gate s
  | .ecnRateRestore gate => Sys2Proof.Machine.execEcnRateRestore gate s
  | .powerOn => Sys2Proof.Machine.execPowerOn s
  | .pwrEnLow => Sys2Proof.Machine.execPwrEnLow s
  | .supplySample millivolt tenMilliamp => Sys2Proof.Machine.execSupplySample millivolt tenMilliamp s
  | .holdUp => Sys2Proof.Machine.execHoldUp s
  | .powerOver => Sys2Proof.Machine.execPowerOver s
  | .thermalSample sensor temp => Sys2Proof.Machine.execThermalSample sensor temp s
  | .thermalWarning => Sys2Proof.Machine.execThermalWarning s
  | .thermalQuiesce => Sys2Proof.Machine.execThermalQuiesce s
  | .thermalClear => Sys2Proof.Machine.execThermalClear s
  | .firmwareVerify => Sys2Proof.Machine.execFirmwareVerify s
  | .hbmTrainingDone failed errors => Sys2Proof.Machine.execHbmTrainingDone failed errors s
  | .hbmWipeDone => Sys2Proof.Machine.execHbmWipeDone s
  | .startupReady failed => Sys2Proof.Machine.execStartupReady failed s
  | .bootTimerExpired => Sys2Proof.Machine.execBootTimerExpired s
  | .drbgReseed => Sys2Proof.Machine.execDrbgReseed s
  | .entropyFail => Sys2Proof.Machine.execEntropyFail s
  | .spdmRequest mctp code body => Sys2Proof.Machine.execSpdmRequest mctp code body s
  | .pldmRequestUpdate => Sys2Proof.Machine.execPldmRequestUpdate s
  | .pldmUpdateComponent image => Sys2Proof.Machine.execPldmUpdateComponent image s
  | .pldmActivateFirmware => Sys2Proof.Machine.execPldmActivateFirmware s
  | .pldmSensorRefresh => Sys2Proof.Machine.execPldmSensorRefresh s
  | .jtagInstruction ir => Sys2Proof.Machine.execJtagInstruction ir s
  | .perstDeassert => Sys2Proof.Machine.execPerstDeassert s
  | .backInvalidateResponse line => Sys2Proof.Machine.execBackInvalidateResponse line s
  | .pfcPauseFrame gate priority pause => Sys2Proof.Machine.execPfcPauseFrame gate priority pause s
  | .mctpEndpointIdAssign eid => Sys2Proof.Machine.execMctpEndpointIdAssign eid s
  | .pldmEventEnable on => Sys2Proof.Machine.execPldmEventEnable on s

end Sys2Proof.Machine
end

