-- ==== Sys2Proof/WellFormed.lean ====
section
/-! DEFINITION. Well-formed commands: every operand fits the width that the manual gives its field. A value that a field can hold
but the manual does not admit is well formed; the command then completes with a status (R484). -/

namespace Sys2Proof

/-- `fits w n`: n fits a field of w bits. -/
def fits (w n : Nat) : Bool := n < 2 ^ w

/-- Every element of a list fits w bits. -/
def allFit (w : Nat) (l : List Nat) : Bool := l.all (fits w)

/-- The posting header: five functions, 64 mailboxes, 16-bit SEQ and LEN, 2-bit PART (R362, R367). -/
def Post.wf (p : Post) : Bool :=
  p.func < 5 && p.mbx < 64 && fits 16 p.seq && fits 16 p.len && fits 2 p.part

def Route.wf (r : Route) : Bool :=
  fits 16 r.peer && fits 8 r.hops && fits 8 r.rxGate && fits 48 r.path && fits 8 r.plane && fits 8 r.alt
    && fits 32 r.lat && fits 32 r.retryGap

def T2Range.wf (r : T2Range) : Bool := fits 64 r.base && fits 64 r.length && fits 2 r.part

/-- A descriptor's fields at their widths of R117. -/
def Desc.wf (d : Desc) : Bool :=
  fits 48 d.base && fits 8 d.format && fits 8 d.layout && fits 1 d.qmode && fits 3 d.ls && fits 2 d.qfmt
    && fits 8 d.padmode && fits 32 d.padval && fits 32 d.clipLimit
    && d.ext.length == 5 && allFit 32 d.ext && d.str.length == 4 && allFit 48 d.str
    && d.pad.length == 6 && allFit 16 d.pad
    && allFit 16 [d.scaleA, d.scaleW, d.scaleC, d.bscale, d.ledgerList, d.ledgerAct, d.codebook, d.ledgerW]

/-- CODEC.OPEN's fields at their widths of R306. -/
def CodecParams.wf (o : CodecParams) : Bool :=
  fits 32 o.ctx && allFit 8 [o.dir, o.standard, o.profile, o.level, o.cls, o.framing, o.bitDepth, o.pipe]
    && allFit 16 [o.width, o.height] && allFit 8 [o.pw, o.ph, o.pt, o.colour] && fits 12 o.sync
    && fits 48 o.workVa && fits 64 o.workBytes
    && o.mul.length == 3 && allFit 32 o.mul && o.add.length == 3 && allFit 32 o.add && o.desc.wf
    && fits 8 o.qi && allFit 16 [o.refresh, o.window] && fits 32 o.frameCap && fits 64 o.windowCap

/-- FABRIC.CONFIG's fields at their widths of R353. -/
def FabricParams.wf (c : FabricParams) : Bool :=
  fits 16 c.moduleId && fits 8 c.shiftMargin && c.modes.length == 16 && allFit 8 c.modes
    && fits 128 c.ipv6 && fits 128 c.ipv6b && fits 32 c.ipv4 && fits 32 c.ipv4b

def CellHeader.wf (h : CellHeader) : Bool :=
  fits 8 h.type && fits 4 h.hops && fits 4 h.hop && fits 48 h.path && fits 16 h.dest && fits 16 h.src && fits 16 h.tag
    && fits 16 h.seq && fits 4 h.gate && fits 2 h.attempt && fits 24 h.cell && fits 24 h.ncell && fits 40 h.due && fits 32 h.hcrc

def IdleWord.wf (w : IdleWord) : Bool :=
  fits 64 w.tally && fits 16 w.module && fits 4 w.gate && fits 2 w.tstate && fits 2 w.source && fits 16 w.gmId
    && fits 8 w.gmPrio && fits 8 w.steps && fits 64 w.bs && fits 32 w.shift && w.acks.length ≤ 12 && fits 32 w.wcrc

def RegTarget.wf : RegTarget → Bool
  | .events f => f < 5
  | .penState p | .penRowu p | .penAttn p => p < 64
  | .drvStatus d => d < 164
  | .penWcnt p c => p < 4 && c < 64
  | .hbmChan c => c < 640
  | .cdcPipe i => i < 6
  | .pwrInput => true
  | .pwrTemp i => i < 10
  | .mailboxPost f m | .mailboxCtrl f m => f < 5 && m < 64
  | .mailboxData f m o => f < 5 && m < 64 && o < 4032
  | .msixMask f v => f < 5 && v < 66
  | .msixMessage f v w => f < 5 && v < 66 && w < 3
  | .readOnly _ => true

def LotRef.wf (l : LotRef) : Bool := l.part < 4 && fits 24 l.instr && l.lpen < 64

/-- A partition operand, a tensor-and-bale operand, and the other small operands of the device's events. -/
def partWf (n : Nat) : Bool := n < 4

/-- Every operand of a command fits its field. -/
def Instr.wf : Instr → Bool
  | .funcOpen p abi => p.wf && fits 8 abi
  | .funcInfo p => p.wf
  | .contextRegister p prio => p.wf && fits 8 prio
  | .contextRelease p c => p.wf && fits 32 c
  | .contextReside p c _ => p.wf && fits 32 c
  | .contextCancel p c => p.wf && fits 32 c
  | .runSubmit p c prog bs batch => p.wf && fits 32 c && fits 48 prog && fits 64 bs && batch.all fun b => fits 32 b.seq
  | .runQuery p r => p.wf && fits 32 r
  | .syncAdd p c _ v => p.wf && fits 12 c && fits 64 v
  | .syncRead p f c => p.wf && fits 16 f && fits 16 c
  | .syncWait p x c v t => p.wf && fits 32 x && fits 12 c && fits 64 v && fits 32 t
  | .allocTensor p c _ _ va sz tag src => p.wf && fits 32 c && fits 48 va && fits 64 sz && fits 12 tag && fits 32 src
  | .allocFree p c t => p.wf && fits 32 c && fits 32 t
  | .tierConfig p c rs => p.wf && fits 8 c && fits 8 rs.length && rs.all T2Range.wf
  | .tierPromote p c t f n => p.wf && allFit 32 [c, t, f, n]
  | .tierEvict p c t f n => p.wf && allFit 32 [c, t, f, n]
  | .tierPin p c t f n => p.wf && allFit 32 [c, t, f, n]
  | .tierUnpin p c t f n => p.wf && allFit 32 [c, t, f, n]
  | .tierQuery p c t f n => p.wf && allFit 32 [c, t, f, n]
  | .weightLoad p c t m _ => p.wf && allFit 32 [c, t] && fits 48 m
  | .kvCreate p c h f b m => p.wf && fits 32 c && fits 16 h && fits 8 f && fits 48 b && fits 32 m
  | .kvShare p s f c fl sr => p.wf && allFit 32 [s, f, c, fl, sr]
  | .kvRelease p s f c fl sr => p.wf && allFit 32 [s, f, c, fl, sr]
  | .kvMark p s f c fl sr => p.wf && allFit 32 [s, f, c, fl, sr]
  | .kvQuery p s f => p.wf && allFit 32 [s, f]
  | .memQuery p f c => p.wf && allFit 8 [f, c]
  | .memRestore p => p.wf
  | .codecOpen p o => p.wf && o.wf
  | .codecDecode p s _ a b g o => p.wf && allFit 32 [s, b, g] && allFit 48 [a, o]
  | .codecEncode p s _ _ a g o b => p.wf && allFit 32 [s, g, b] && allFit 48 [a, o]
  | .codecClose p s => p.wf && fits 32 s
  | .codecQuery p s => p.wf && fits 32 s
  | .fabricConfig p c => p.wf && c.wf
  | .fabricRoute p f c es => p.wf && allFit 8 [f, c] && es.length == c && es.all Route.wf
  | .fabricQuery p => p.wf
  | .fabricCopy p c r d t va b => p.wf && fits 32 c && allFit 8 [r, d] && fits 16 t && fits 48 va && fits 32 b
  | .tallyConfig p g i d o t => p.wf && allFit 8 [g, i] && fits 32 d && allFit 64 [o, t]
  | .partitionConfig p m => p.wf && fits 8 m
  | .partitionQuery p s f => p.wf && fits 8 s && fits 32 f
  | .hostCopy p c d s va h b => p.wf && fits 32 c && fits 8 d && fits 16 s && fits 48 va && fits 64 h && fits 32 b
  | .hostHdm p m => p.wf && fits 8 m
  | .powerBudget p l bs => p.wf && fits 16 l && bs.length == 4 && allFit 16 bs
  | .powerQuery p => p.wf
  | .recoverDumpTake p s t => p.wf && allFit 8 [s, t]
  | .recoverDumpRead p s t h o b => p.wf && allFit 8 [s, t] && fits 64 h && allFit 32 [o, b]
  | .recoverDumpKeep p s t => p.wf && allFit 8 [s, t]
  | .recoverDumpRelease p s t => p.wf && allFit 8 [s, t]
  | .recoverReset p l q e => p.wf && allFit 8 [l, q] && fits 16 e
  | .recoverQuery p => p.wf
  | .daybookRead p f c => p.wf && fits 48 f && fits 32 c
  | .secKeyInstall p s k b => p.wf && fits 8 s && fits 64 k && b.length == 133
  | .secKeyRevoke p s k b => p.wf && fits 8 s && fits 64 k && b.length == 133
  | .secQuery p => p.wf
  | .lifecycleAdvance p t a => p.wf && fits 8 t && a.length == 132
  | .lifecycleQuery p => p.wf
  | .lifecycleCommit => true
  | .lifecycleEraseDone => true
  | .registerWrite t v => t.wf && fits 64 v
  | .beatBoundary _ hs => hs.all fun h => h.engine < 120
  | .bellTrip => true
  | .engineReady e => e < 120
  | .guiltyReplay e => e < 120
  | .ladderBudgetExpired r =>
    match r with
    | .cancel c => fits 32 c
    | .engine b => b < 120
    | .partition p => partWf p
    | .chip => true
  | .partitionReady p fs => partWf p && fs.all (· < 120)
  | .dumpTakeCollect => true
  | .dumpWritten s => s < 4
  | .handleExpiry c => fits 32 c
  | .correctedPeriodEnd => true
  | .tileDecode p => partWf p
  | .droverStart p i d => partWf p && fits 24 i && d < 164
  | .lotComplete l _ => l.wf
  | .lotLate l => l.wf
  | .mm p _ => partWf p
  | .cv p _ => partWf p
  | .cvDw p _ => partWf p
  | .attn p _ => partWf p
  | .rw p => partWf p
  | .mvLoad p => partWf p
  | .mvStore p => partWf p
  | .mvWeight p => partWf p
  | .mvSend p => partWf p
  | .mvRecv p => partWf p
  | .syFold p => partWf p
  | .syWgrant p _ => partWf p
  | .sySignal p => partWf p
  | .syWait p => partWf p
  | .tl p => partWf p
  | .stepVerdict p => partWf p
  | .troubleReplay p _ => partWf p
  | .drain p l _ => partWf p && l < 64
  | .runComplete p => partWf p
  | .waitingRunStart p => partWf p
  | .kvPageReclaim p f => partWf p && fits 52 f
  | .cowCopyDone p => partWf p
  | .kvPoolBaleReturn p f => partWf p && fits 52 f
  | .hbmSlot c q s _ => c < 640 && q < 2 && s < 5000
  | .refreshSlot s t => s < 20 && fits 8 t
  | .retrainWindow c _ ps => c < 640 && ps.all fun x => x.1 < 2 && x.2 < 36
  | .promotionDone t b => allFit 32 [t, b]
  | .promotionFail t b => allFit 32 [t, b]
  | .writeBackDone t b => allFit 32 [t, b]
  | .writeBackFail t b => allFit 32 [t, b]
  | .frameZeroDone f => fits 52 f
  | .chunkArrive t s c d => allFit 32 [t, s, c] && d.length ≤ 1048576
  | .rdmaRemoteAccessError t s => allFit 32 [t, s]
  | .replicaTimeout t s => allFit 32 [t, s]
  | .t2Response t b _ => allFit 32 [t, b]
  | .t2Timeout t b => allFit 32 [t, b]
  | .hostDroverCompletion c ss _ => fits 32 c && ss.all fun x => x.length == 64
  | .hostCompletionTimeout c => fits 32 c
  | .hostSnoop l => fits 64 l
  | .hdmRead o _ => o < 20 * 48 * 2 ^ 30 && o % 64 == 0
  | .hdmWrite o d => o < 20 * 48 * 2 ^ 30 && o % 64 == 0 && d.length == 64
  | .linkTrained m w => m < 6 && fits 5 w
  | .linkDetectRetry => true
  | .linkDown => true
  | .functionLevelReset f => f < 5
  | .hotReset => true
  | .perstAssert => true
  | .doeRequest _ _ => true
  | .codecFrameDone p _ => p < 6
  | .codecWatchdog p => p < 6
  | .syncWaitTimeout f m => f < 5 && m < 64
  | .tallyLocked t _ => fits 64 t
  | .tallyUnlock _ => true
  | .tallySourceLost => true
  | .tallySourceReturn _ => true
  | .holdoverExpired => true
  | .tallyLostRunEnd => true
  | .tallyCode c _ => fits 128 c
  | .tallyInLoss => true
  | .ptpMessage g _ => g < 16
  | .setTimeApply => true
  | .idleWordSend g => g < 16
  | .idleWordReceive g w t => g < 16 && w.wf && fits 64 t
  | .cellArrive g h d c => g < 16 && h.wf && d.length == 2000 && fits 64 c
  | .cellLeave g => g < 16
  | .sendAttempt p i a => partWf p && fits 24 i && a < 4
  | .gateDown g => g < 16
  | .gateTrainStart g => g < 16
  | .gateTrained g p q h d => g < 16 && fits 16 p && fits 4 q && fits 16 h && fits 24 d
  | .gateTrainTimeout g => g < 16
  | .fabricCopyTimeout c => fits 32 c
  | .arpNdRequest g a => g < 16 && fits 128 a
  | .roceInboundRequest g q => g < 16 && fits 24 q
  | .cnpReceive g => g < 16
  | .ecnRateRestore g => g < 16
  | .powerOn => true
  | .pwrEnLow => true
  | .supplySample v i => allFit 17 [v, i]
  | .holdUp => true
  | .powerOver => true
  | .thermalSample s t => s < 30 && fits 8 t
  | .thermalWarning => true
  | .thermalQuiesce => true
  | .thermalClear => true
  | .firmwareVerify => true
  | .hbmTrainingDone f q => f.all (· < 640) && q.all fun e => e.1 < 640 && e.2.1 < 2 && e.2.2.1 < 36
  | .hbmWipeDone => true
  | .startupReady f => f.all (· < 106)
  | .bootTimerExpired => true
  | .drbgReseed => true
  | .entropyFail => true
  | .spdmRequest _ _ _ => true
  | .pldmRequestUpdate => true
  | .pldmUpdateComponent _ => true
  | .pldmActivateFirmware => true
  | .pldmSensorRefresh => true
  | .jtagInstruction _ => true
  | .perstDeassert => true
  | .backInvalidateResponse l => fits 64 l
  | .pfcPauseFrame g q _ => g < 16 && q < 8
  | .mctpEndpointIdAssign e => fits 8 e
  | .pldmEventEnable _ => true

end Sys2Proof
end

