-- ==== Sys2Proof/Safety.lean ====
section
/-! DEFINITION. The words that claims use. A sound state: the partition mode is one of R41's, the clock stands between commands, the
memories are in canonical form, and every waiting command fits its fields. A post that passes the checks of R369, and the two forms
of a completion (R367, R370, R371). -/

namespace Sys2Proof.Machine

/-- The canonical form of a memory: addresses rise strictly, and no entry holds the zero that an unlisted address reads as. -/
def Memory.wf (m : Table Byte) : Bool := Table.canon 0 m

/-- The module is divided into one, two or four partitions (R41). -/
def State.modeLegal (s : State) : Bool := s.mode == 1 || s.mode == 2 || s.mode == 4

/-- No command is half done (log 2). -/
def State.rested (s : State) : Bool := s.clock.lead == 0

/-- Every command that waits fits its fields. -/
def State.queueWf (s : State) : Bool := s.pending.all Instr.wf

/-- The invariant of every step. -/
structure State.Sound (s : State) : Prop where
  mode : s.modeLegal = true
  rested : s.rested = true
  t1 : Memory.wf s.hbm.t1 = true
  t2 : Memory.wf s.hbm.t2 = true
  queue : s.queueWf = true

/-! ## Mailbox commands -/

/-- A post that is sampled in this beat and passes checks 1 to 6 of R369 for a command of a row whose LEN is `units`: the module is
ready (R448), the mailbox is idle (R367), the sequence number is the next (R369), LEN is right, no reserved bit is set, the function
is open in an ABI version that has the command (FUNC.OPEN and FUNC.INFO need no open function, R375), the command is permitted to
the function, the part is not SCRAPPED unless the command is among R466's, the partition exists (R362), and it is not resetting
unless the command stands beside partitions (R373). -/
structure Posts (p : Post) (r : CmdRow) (units : Nat) (s : State) : Prop where
  ready : s.power.stage = .ready
  idle : (s.mbx p.func p.mbx).busy = false
  free : (s.mbx p.func p.mbx).done < s.clock.beat ∨ (s.mbx p.func p.mbx).complete = 0xFFFF_FFFF
  seq : p.seq = ((s.mbx p.func p.mbx).lastSeq + 1) % 65536
  len : p.len = units
  fits : units ≤ 504
  plain : p.rsv = false
  opened : openless r = false → (s.func p.func).opened = true
  version : r.v2 = true → (s.func p.func).opened = true → (s.func p.func).abi = 2
  permitted : r.pf0 = true → p.func = 0
  inUse : scrappedAllows r.opcode = false → s.sec.entries.getLast?.map (·.target) ≠ some 4
  vf : p.func ≠ 0 → p.part = 0
  partition : p.func = 0 ∨ openless r = false → postTarget p < s.mode
  running : r.wide = false → (s.part (postTarget p)).st ≠ .resetting

/-- The state in which a command's own checks and effects are applied: its mailbox is taken, and the beat of the effects is the next
(R368, R371). -/
def taken (p : Post) (s : State) : State := setLead 1 (samplePost p false s)

/-- What a command answers when it completes at once, on the state u that its effects leave. -/
def finish (p : Post) (status : Nat) (result : List Byte) (u : State) : State := setLead 0 (answer p (.done status result u))

/-- What a command answers when it is accepted, on the state u that its effects leave. -/
def start (p : Post) (due : Option Nat) (result : List Byte) (ctx part : Nat) (job : Job) (u : State) : State :=
  setLead 0 (answer p (.accept due result ctx part job u))

/-- The final completion that a command sampled in s has in t (R367, R370, R371): its status, its result padded to 8-byte words, and
the beats of the sampling and of the completion; the mailbox is idle again. -/
structure Completed (p : Post) (status : Nat) (result : List Byte) (s t : State) : Prop where
  complete : (t.mbx p.func p.mbx).complete = p.seq + 65536 * status
  rlen : (t.mbx p.func p.mbx).rlen = ceilDiv result.length 8
  data : bytesAt (t.mbx p.func p.mbx).data 0 result.length = result
  sampled : (t.mbx p.func p.mbx).sampled = s.clock.beat
  done : (t.mbx p.func p.mbx).done = s.clock.beat + 1
  idle : (t.mbx p.func p.mbx).busy = false

/-- The ACCEPTED completion that a command sampled in s has in t: the mailbox stays busy, DUE holds the bound or all ones, and the
work is recorded (R370, R371). -/
structure Accepted (p : Post) (due : Option Nat) (ctx part : Nat) (job : Job) (s t : State) : Prop where
  complete : (t.mbx p.func p.mbx).complete = p.seq + 65536 * stAccepted
  due : (t.mbx p.func p.mbx).due = due.getD noDue
  sampled : (t.mbx p.func p.mbx).sampled = s.clock.beat
  done : (t.mbx p.func p.mbx).done = s.clock.beat + 1
  busy : (t.mbx p.func p.mbx).busy = true
  work : ⟨p, s.clock.beat, ctx, part, job⟩ ∈ t.host.progs

/-- A command that was in progress has its final completion in t: COMPLETE holds its sequence number and status, its mailbox is idle,
and it is in progress no more (R370, R371). -/
structure Ended (g : InProgress) (status : Nat) (t : State) : Prop where
  complete : (t.mbx g.post.func g.post.mbx).complete = g.post.seq + 65536 * status
  idle : (t.mbx g.post.func g.post.mbx).busy = false
  gone : g ∉ t.host.progs

/-- A command in progress that is the only one of its mailbox (R367). -/
def Sole (g : InProgress) (s : State) : Prop :=
  g ∈ s.host.progs ∧ ∀ x ∈ s.host.progs, x.post.func = g.post.func → x.post.mbx = g.post.mbx → x = g

/-! ## The checks of every mailbox command -/

/-- The rows of R380, one for each opcode. -/
def allRows : List CmdRow :=
  [rowFuncOpen, rowFuncInfo, rowContextRegister, rowContextRelease, rowContextReside, rowContextCancel, rowRunSubmit,
   rowRunQuery, rowSyncAdd, rowSyncRead, rowSyncWait, rowAllocTensor, rowAllocFree, rowTierConfig, rowTierPromote,
   rowTierEvict, rowTierPin, rowTierUnpin, rowTierQuery, rowWeightLoad, rowKvCreate, rowKvShare, rowKvRelease, rowKvMark,
   rowKvQuery, rowMemQuery, rowMemRestore, rowCodecOpen, rowCodecDecode, rowCodecEncode, rowCodecClose, rowCodecQuery,
   rowFabricConfig, rowFabricRoute, rowFabricQuery, rowFabricCopy, rowTallyConfig, rowPartitionConfig, rowPartitionQuery,
   rowHostCopy, rowHostHdm, rowPowerBudget, rowPowerQuery, rowRecoverDump, rowRecoverReset, rowRecoverQuery, rowDaybookRead,
   rowSecKey, rowSecQuery, rowLifecycleAdvance, rowLifecycleQuery]

/-- The row of an opcode. -/
def rowOf (op : Nat) : Option CmdRow := allRows.find? fun r => r.opcode == op

/-- LEN as R369 computes it, in 8-byte units, with counts taken from the payload's own count fields. -/
def unitsOf (op : Nat) (v : List Nat) : Nat := ceilDiv (layoutBits (layoutOf op (countSeed op v))) 64

/-- The command completes at the sampling beat plus 1 with a status, LAST_SEQ takes a value, and the rest of the device is as it was
(R369, R370). It carries no result, or, for RUN.SUBMIT, the RUN record of a RUN that was not accepted (R377). -/
def Answers (i : Instr) (p : Post) (r : CmdRow) (status last : Nat) (s : State) : Prop :=
  ∃ t, exec i s = .next t ∧ Completed p status (checkResult r) s t ∧ (t.mbx p.func p.mbx).lastSeq = last ∧ t.hbm = s.hbm ∧ t.pens = s.pens
    ∧ t.place = s.place ∧ t.power = s.power ∧ t.sec = s.sec ∧ t.fabric = s.fabric ∧ t.codec = s.codec ∧ t.recov = s.recov

/-! ## Commands that reach no memory -/

/-- The mailbox commands whose effect writes neither T1 nor T2. -/
def storesNothing : Instr → Bool
  | .funcOpen _ _ | .funcInfo _ | .contextRegister _ _ | .runQuery _ _ | .syncAdd _ _ _ _ | .syncRead _ _ _
  | .syncWait _ _ _ _ _ | .tierPin _ _ _ _ _ | .tierUnpin _ _ _ _ _ | .tierQuery _ _ _ _ _ | .weightLoad _ _ _ _ _
  | .kvCreate _ _ _ _ _ _ | .kvMark _ _ _ _ _ _ | .kvQuery _ _ _ | .memQuery _ _ _ | .memRestore _ | .codecOpen _ _
  | .codecDecode _ _ _ _ _ _ _ | .codecEncode _ _ _ _ _ _ _ _ | .codecQuery _ _ | .fabricRoute _ _ _ _ | .fabricQuery _
  | .fabricCopy _ _ _ _ _ _ _ | .tallyConfig _ _ _ _ _ _ | .partitionQuery _ _ _ | .hostCopy _ _ _ _ _ _ _ | .hostHdm _ _
  | .powerBudget _ _ _ | .powerQuery _ | .recoverDumpTake _ _ _ | .recoverDumpRead _ _ _ _ _ _ | .recoverDumpKeep _ _ _
  | .recoverDumpRelease _ _ _ | .recoverReset _ _ _ _ | .recoverQuery _ | .daybookRead _ _ _ | .secKeyInstall _ _ _ _
  | .secKeyRevoke _ _ _ _ | .secQuery _ | .lifecycleQuery _ | .lifecycleAdvance _ _ _ => true
  | _ => false

/-! ## Tile words -/

/-- The state in which the next word issues: the clock and the lag (R68). -/
def atIssue (k : Nat) (r : Run) (w : TileWord) (s : State) : State :=
  setLag k (nextIssue r - nominalAc r w.issue) (moveTo (nextIssue r) s)

/-- The ac of the commit of a word without arithmetic that issues with no step in flight (R128). -/
def commitAc (r : Run) (w : TileWord) : Nat := nextIssue r + verdictAc r.prog r.nextInstr w false 0

/-- The state in which such a word commits. -/
def atCommit (k : Nat) (r : Run) (w : TileWord) (s : State) : State :=
  moveTo (commitAc r w) (updRun k (fun x => { x with flight := [] })
    (launch k r.nextInstr w (firstAttempt s k r w) 0 false (atIssue k r w s)))

/-- Such a word commits as it issues: nothing of its partition is due before its commit, and no guilty search replays (log 32). -/
structure AtOnce (k : Nat) (r : Run) (w : TileWord) (s : State) : Prop where
  free : commitsAtOnce k r w (commitAc r w) (launch k r.nextInstr w (firstAttempt s k r w) 0 false (atIssue k r w s)) = true
  search : ∀ x ∈ s.recov.steps, x.search = false

/-- What the commit of such a word leaves: the next step is the word after it, its lag is set, its slips are 0, nothing is in flight
(R68, R74, R103), no byte of T1 or T2 has changed, and no other partition's RUN. -/
structure Committed (k : Nat) (r : Run) (w : TileWord) (s t : State) : Prop where
  done : ∃ q, (t.part k).run = some q ∧ (q.doneInstr, q.doneRound) = stepAfter r r.nextInstr 0 w
    ∧ (q.nextInstr, q.nextRound) = stepAfter r r.nextInstr r.nextRound w ∧ q.lastCommit = commitAc r w ∧ q.flight = []
    ∧ q.trouble = r.trouble ∧ q.shift = r.shift
  slips : (t.part k).slips = 0
  st : (t.part k).st = .running
  lag : (t.part k).lag = nextIssue r - nominalAc r w.issue
  others : ∀ i, i ≠ k → (t.part i).run = (s.part i).run
  t1 : t.hbm.t1 = s.hbm.t1
  t2 : t.hbm.t2 = s.hbm.t2

/-- A partition that slips for a cause: it is quiesced with the slip counted, or at the third slip of a step its RUN is to end with SLIP
(R71 to R74). -/
structure Slipped (k cause : Nat) (s t : State) : Prop where
  st : (t.part k).st = .quiesced
  why : (t.part k).cause = cause
  again : (s.part k).slips < 2 → (t.part k).slips = (s.part k).slips + 1 ∧ (t.part k).retry = true
  third : 2 ≤ (s.part k).slips → (t.part k).retry = false
    ∧ ∀ r, (s.part k).run = some r → ∃ q, (t.part k).run = some q ∧ q.ending = some ⟨stSlip, cause, 3, stepRefNum (currentStep r)⟩
  steps : ∀ q, (t.part k).run = some q → q.flight = [] ∧ q.replay = none ∧ (q.nextInstr, q.nextRound) = (q.doneInstr, q.doneRound)

/-- What the issue of a round leaves: the step is in flight from its issue to its verdict, the lag is set, and nothing outside the
partition, its pens and the clock changes (R68, R103, R128). -/
structure Issued (k : Nat) (r : Run) (w : TileWord) (s t : State) : Prop where
  flight : ∃ x, (t.part k).run.map (·.flight) = some (r.flight ++ [x]) ∧ x.instr = r.nextInstr ∧ x.round = r.nextRound
    ∧ x.attempt = 0 ∧ x.assay = w.assay ∧ x.issue = nextIssue r ∧ x.verdict = nextIssue r + verdictAc r.prog r.nextInstr w w.assay r.nextRound
  step : (t.part k).run.map (fun y => (y.nextInstr, y.nextRound)) = some (stepAfter r r.nextInstr r.nextRound w)
  lag : (t.part k).lag = nextIssue r - nominalAc r (w.issue + roundOffset r.prog r.nextInstr w r.nextRound)
  others : ∀ j, j ≠ k → t.part j = s.part j
  memory : t.hbm = s.hbm
  host : t.host = s.host
  place : t.place = s.place
  ctxs : t.ctxs = s.ctxs
  fabric : t.fabric = s.fabric
  drovers : t.drovers = s.drovers

end Sys2Proof.Machine
end

