-- ==== Sys2Proof/Certificates/Slice0/Obligations.lean ====
section
/-! DEFINITION. The statements for the provers. A mailbox command is stated as an equation: when its post passes the checks of R369
(Posts) and the conditions of its rule hold, exec answers the state that its effect and its completion leave (finish, start), which
says its result and its frame at once. A device event is stated under its conditions on the state, with what the next state holds. -/

open Sys2Proof Sys2Proof.Machine

/-- The state after reset is sound. The state after reset meets the invariant that every step keeps (R41; the clock's lead is log 2,
the canonical form of memory is the model's). -/
def Obligations.ResetSound : Prop :=
  State.Sound State.reset

/-- The registers that the spec gives reset values hold them after reset. The reset values that the spec gives (R19, R39, R40, R41,
R92, R366, R367, R375, R395, R438). -/
def Obligations.ResetValues : Prop :=
  State.reset.mode = 1 ∧ State.reset.pending = [] ∧ State.reset.tally.st = .unlocked
    ∧ (∀ k, k < State.reset.mode → (State.reset.part k).budget = State.reset.power.limit - floorWatts State.reset ∧ (State.reset.part k).epoch = 0
        ∧ (State.reset.part k).manger = [] ∧ (State.reset.part k).routes = [] ∧ (State.reset.part k).sync = [])
    ∧ (∀ p, p < 64 → (State.reset.pen p).slots = [] ∧ (State.reset.pen p).cbank = ⟨0, false, [], []⟩
        ∧ (State.reset.pen p).haz = false ∧ (State.reset.pen p).bcerr = false ∧ (State.reset.pen p).late = false)
    ∧ (∀ d, d < 164 → State.reset.drover d = Drover.reset)
    ∧ (∀ f, f < 5 → (State.reset.func f).opened = false ∧ (State.reset.func f).events = 0)
    ∧ (∀ f m, f < 5 → m < 64 → (State.reset.mbx f m).lastSeq = 0xFFFF ∧ (State.reset.mbx f m).complete = 0xFFFF_FFFF)
    ∧ State.reset.power.limit = 2400 ∧ State.reset.ctxs = [] ∧ State.reset.place.tensors = [] ∧ State.reset.codec.sessions = []

/-- A step runs the command at the front of the queue; an empty queue idles (log 1). The queue is the model's (log 1); its order is
that in which commands are executed (R368, R372). -/
def Obligations.StepRunsFront : Prop :=
  ∀ s : State, (∀ c rest, s.pending = c :: rest → step s = exec c { s with pending := rest }) ∧ (s.pending = [] → step s = .next s)

/-- Every step keeps the state sound. Every step keeps the invariant: the partition mode stays one of R41's, and both memories stay
in canonical form. -/
def Obligations.StepKeepsSound : Prop :=
  ∀ s t : State, State.Sound s → step s = .next t → State.Sound t

/-- A mailbox command written by the host is read back as the same command. No bit of a mailbox command is lost between the payload
that the host writes and the command that is sampled (R5, R6, R367, R368, R380). -/
def Obligations.PostRoundTrip : Prop :=
  ∀ (i : Instr) (p : Post) (op : Nat) (v : List Nat) (q : Posted), i.wf = true → commandFields i = some (p, op, v) → p.rsv = false →
    (∀ o, i = .codecOpen p o → o.desc.rsv = false) → (∀ c a b l, i = .runSubmit p c a b l → l.length ≤ 500) →
    unitsOf op v ≤ p.len → postedForm i = some q → postedCommand q = some i

/-- The checks of every mailbox command, in their order and with their status; a post that is not sampled does nothing. Checks 1 to
6 of R369 for every command of R380. The second part is the model's choice (log 40). -/
def Obligations.MailboxChecks : Prop :=
  (∀ (i : Instr) (p : Post) (op : Nat) (v : List Nat) (r : CmdRow) (s : State), i.wf = true → commandFields i = some (p, op, v) →
    rowOf op = some r → sampling p s = true → (∀ c a b l, i = .runSubmit p c a b l → l.length ≤ 500) →
    (p.seq ≠ ((s.mbx p.func p.mbx).lastSeq + 1) % 65536 → Answers i p r stStaleSeq (s.mbx p.func p.mbx).lastSeq s)
    ∧ (p.seq = ((s.mbx p.func p.mbx).lastSeq + 1) % 65536 →
      (504 < p.len → Answers i p r stBadLength p.seq s)
      ∧ (p.len ≤ 504 → (s.func p.func).opened = true → r.v2 = true → (s.func p.func).abi ≠ 2 → Answers i p r stBadOpcode p.seq s)
      ∧ (p.len ≤ 504 → abiAdmits s p r = true →
        (r.pf0 = true → p.func ≠ 0 → Answers i p r stDenied p.seq s)
        ∧ ((r.pf0 = true → p.func = 0) → lifeCode s ≠ 4 →
          (openless r = false → (s.func p.func).opened = false → Answers i p r stBadState p.seq s)
          ∧ ((openless r = true ∨ (s.func p.func).opened = true ∧ postTarget p < s.mode) → p.len ≠ unitsOf op v →
            Answers i p r stBadLength p.seq s)))))
  ∧ (∀ (i : Instr) (p : Post) (op : Nat) (v : List Nat) (s : State), commandFields i = some (p, op, v) → sampling p s = false →
    ∃ t, exec i s = .next t ∧ (∀ f m, t.mbx f m = s.mbx f m) ∧ t.hbm = s.hbm ∧ t.pens = s.pens ∧ t.place = s.place ∧ t.host = s.host
      ∧ t.fabric = s.fabric ∧ t.codec = s.codec ∧ t.recov = s.recov ∧ t.power = s.power ∧ t.sec = s.sec)

/-- Functions are closed after reset, and what FUNC.OPEN and FUNC.INFO do. R375. -/
def Obligations.FunctionRule : Prop :=
  (∀ (s : State) (f : Nat), ((chipReset s).func f).opened = false
    ∧ ∃ t, exec (.functionLevelReset f) s = .next t ∧ (t.func f).opened = false)
  ∧ (∀ (i : Instr) (p : Post) (op : Nat) (v : List Nat) (r : CmdRow) (s : State), commandFields i = some (p, op, v) → rowOf op = some r →
    sampling p s = true → p.seq = ((s.mbx p.func p.mbx).lastSeq + 1) % 65536 → p.len ≤ 504 → (r.pf0 = true → p.func = 0) →
    lifeCode s ≠ 4 → (s.func p.func).opened = false → op ≠ 0x0001 → op ≠ 0x0002 → Answers i p r stBadState p.seq s)
  ∧ ∀ (p : Post) (s : State),
    (∀ abi, abi = 1 ∨ abi = 2 → Posts p rowFuncOpen 1 s → ((s.func p.func).opened = true → ∀ c ∈ s.ctxs, c.func = p.func → c.cancelled = true) →
      exec (.funcOpen p abi) s =
        .next (finish p stOk [] (updFunc p.func (fun u => { u with opened := true, abi := abi }) (taken p s))))
    ∧ (∀ abi, abi = 1 ∨ abi = 2 → Posts p rowFuncOpen 1 s → (s.func p.func).opened = true →
      (∃ c ∈ s.ctxs, c.func = p.func ∧ c.cancelled = false) →
      exec (.funcOpen p abi) s = .next (finish p stBadState [] (taken p s)))
    ∧ (∀ abi, abi ≠ 1 → abi ≠ 2 → Posts p rowFuncOpen 1 s →
      exec (.funcOpen p abi) s = .next (finish p stBadArg [] (taken p s)))
    ∧ (Posts p rowFuncInfo 0 s →
      exec (.funcInfo p) s = .next (finish p stOk (leBytes 1 6 ++ leBytes 1 s.host.linkMode ++ leBytes 1 s.host.width
        ++ leBytes 1 (runningSvn s) ++ leBytes 4 (hdmPartsShown s) ++ leBytes 8 s.host.hdmUnbacked ++ zeros 16) (taken p s)))

/-- In SCRAPPED every command but five completes with DENIED, and no identity exists. R466. Where DENIED stands among the checks of
R369 is log 17. -/
def Obligations.ScrappedDenies : Prop :=
  (∀ (i : Instr) (p : Post) (op : Nat) (v : List Nat) (r : CmdRow) (s : State), commandFields i = some (p, op, v) →
    rowOf op = some r → sampling p s = true → lifeCode s = 4 → p.seq = ((s.mbx p.func p.mbx).lastSeq + 1) % 65536 → p.len ≤ 504 →
    abiAdmits s p r = true → op ≠ 0x0001 → op ≠ 0x0002 → op ≠ 0x1102 → op ≠ 0x1202 → op ≠ 0x1001 → Answers i p r stDenied p.seq s)
  ∧ (∀ (s : State) (slot : Nat) (i : Image), lifeCode s = 4 →
    (formIdentity s slot i).deviceKey = s.sec.deviceKey ∧ (formIdentity s slot i).aliasKey = s.sec.aliasKey
      ∧ (chipReset s).sec.deviceKey = [] ∧ (chipReset s).sec.aliasKey = []
      ∧ ∀ mctp code, code ≠ .getVersion → code ≠ .getCapabilities → spdmError s mctp code = true)

/-- What a completion and the settling of contexts leave unchanged. The frame of every command whose effect is stated elsewhere as
an equation: a completion changes its own mailbox (R367, R370), settling changes contexts and reside queues (R384, R388). -/
def Obligations.CommandFrames : Prop :=
  (∀ (p : Post) (u : State),
    (∀ st res, (finish p st res u).tally = u.tally ∧ (finish p st res u).mode = u.mode ∧ (finish p st res u).pens = u.pens
      ∧ (finish p st res u).drovers = u.drovers ∧ (finish p st res u).parts = u.parts ∧ (finish p st res u).ctxs = u.ctxs
      ∧ (finish p st res u).place = u.place ∧ (finish p st res u).hbm = u.hbm ∧ (finish p st res u).codec = u.codec
      ∧ (finish p st res u).fabric = u.fabric ∧ (finish p st res u).recov = u.recov ∧ (finish p st res u).power = u.power
      ∧ (finish p st res u).sec = u.sec ∧ (finish p st res u).mgmt = u.mgmt ∧ (finish p st res u).pending = u.pending
      ∧ (finish p st res u).host.progs = u.host.progs
      ∧ (∀ f m, f ≠ p.func ∨ m ≠ p.mbx → (finish p st res u).mbx f m = u.mbx f m))
    ∧ (∀ due res c k j, (start p due res c k j u).tally = u.tally ∧ (start p due res c k j u).mode = u.mode
      ∧ (start p due res c k j u).pens = u.pens ∧ (start p due res c k j u).drovers = u.drovers
      ∧ (start p due res c k j u).parts = u.parts ∧ (start p due res c k j u).ctxs = u.ctxs
      ∧ (start p due res c k j u).place = u.place ∧ (start p due res c k j u).hbm = u.hbm
      ∧ (start p due res c k j u).codec = u.codec ∧ (start p due res c k j u).fabric = u.fabric
      ∧ (start p due res c k j u).recov = u.recov ∧ (start p due res c k j u).power = u.power
      ∧ (start p due res c k j u).sec = u.sec ∧ (start p due res c k j u).mgmt = u.mgmt
      ∧ (start p due res c k j u).host.progs = u.host.progs ++ [⟨p, u.clock.beat, c, k, j⟩]
      ∧ (∀ f m, f ≠ p.func ∨ m ≠ p.mbx → (start p due res c k j u).mbx f m = u.mbx f m)))
  ∧ (∀ (f : State → State) (s : State),
    (settled f s).pens = (f s).pens ∧ (settled f s).hbm = (f s).hbm ∧ (settled f s).place = (f s).place ∧ (settled f s).host = (f s).host
    ∧ (settled f s).codec = (f s).codec ∧ (settled f s).fabric = (f s).fabric ∧ (settled f s).recov = (f s).recov
    ∧ (settled f s).power = (f s).power ∧ (settled f s).sec = (f s).sec ∧ (settled f s).tally = (f s).tally
    ∧ (settled f s).drovers = (f s).drovers ∧ (settled f s).clock = (f s).clock ∧ (settled f s).mode = (f s).mode
    ∧ (∀ k, { (settled f s).part k with resides := ((f s).part k).resides } = (f s).part k)
    ∧ (settled f s).ctxs.map (·.handle) = (f s).ctxs.map (·.handle))

/-- The mailbox commands that store nothing leave every byte of T1 and T2. No command that moves no data writes a byte of T1 or T2
(R380 and the rules it names). -/
def Obligations.MemoryFrame : Prop :=
  ∀ (i : Instr) (s t : State), storesNothing i = true → exec i s = .next t →
    ∀ a, tget 0 t.hbm.t1 a = tget 0 s.hbm.t1 a ∧ tget 0 t.hbm.t2 a = tget 0 s.hbm.t2 a

/-- Serial-number comparison of counters. R76. -/
def Obligations.SerialNumbers : Prop :=
  ∀ (w a b d : Nat), 1 ≤ w → a < 2 ^ w → b < 2 ^ w → d = (b + 2 ^ w - a) % 2 ^ w →
    (d = 0 ↔ a = b)
    ∧ (1 ≤ d → d ≤ 2 ^ (w - 1) - 1 → serialAfter w a b = true)
    ∧ (d = 2 ^ (w - 1) → serialAfter w a b = false)
    ∧ (2 ^ (w - 1) + 1 ≤ d → serialAfter w a b = false ∧ serialAfter w b a = true)
    ∧ (d = 0 → serialAfter w a b = false ∧ serialAfter w b a = false)

/-- Conversions to FP16, BF16, E4M3 and E5M2 round to nearest, ties to even, and saturate. R81 and R9 for finite numbers, on the one
rounding function that every conversion uses. -/
def Obligations.RoundsToNearest : Prop :=
  ∀ (f : FloatFmt) (neg : Bool) (m : Nat) (e : Int), f = fmtFp16 ∨ f = fmtBf16 ∨ f = fmtE4m3 ∨ f = fmtE5m2 →
    ∃ m' e', roundNum f true (.fin neg m e) = .fin neg m' e' ∧ m' ≤ 2 ^ f.p ∧ f.emin ≤ e'
      ∧ (m' : ℚ) * 2 ^ e' ≤ (f.maxM : ℚ) * 2 ^ f.maxE
      ∧ ∀ (n : Nat) (q : Int), n < 2 ^ f.p → f.emin ≤ q → (n : ℚ) * 2 ^ q ≤ (f.maxM : ℚ) * 2 ^ f.maxE →
          |(m : ℚ) * 2 ^ e - (m' : ℚ) * 2 ^ e'| ≤ |(m : ℚ) * 2 ^ e - (n : ℚ) * 2 ^ q|
          ∧ (|(m : ℚ) * 2 ^ e - (m' : ℚ) * 2 ^ e'| = |(m : ℚ) * 2 ^ e - (n : ℚ) * 2 ^ q| → (m' : ℚ) * 2 ^ e' ≠ (n : ℚ) * 2 ^ q → m' % 2 = 0)

/-- CONTEXT.REGISTER and CONTEXT.RELEASE. R383, R389; handles are log 48. -/
def Obligations.ContextRegistration : Prop :=
  ∀ (p : Post) (s : State),
    (∀ priority, Posts p rowContextRegister 1 s → priority ≤ 7 → (s.ctxs.filter fun c => !c.cancelled).length < 256 →
      ∃ t, exec (.contextRegister p priority) s = .next t ∧ Completed p stOk (leBytes 4 s.nextCtx ++ zeros 4) s t
        ∧ t.nextCtx = s.nextCtx + 1
        ∧ ∃ c ∈ t.ctxs, c.handle = s.nextCtx ∧ c.func = p.func ∧ c.part = postTarget p ∧ c.priority = priority
            ∧ c.cancelled = false ∧ c.out = decide (8 ≤ (residentCtxs s (postTarget p)).length))
    ∧ (∀ ctx c, Posts p rowContextRelease 1 s → checkCtx p ctx s = .ok c → ctxHasRun s c = false → ctxBusy s ctx = false →
      ∃ t, exec (.contextRelease p ctx) s = .next t ∧ Completed p stOk [] s t ∧ ctxOf t ctx = none)

/-- CONTEXT.RESIDE, CONTEXT.CANCEL, the end of a cancelled handle, a waiting RUN at its beat, and the timeout of SYNC.WAIT. R385,
R388, R393, R398, R408, R409. -/
def Obligations.ContextResidence : Prop :=
  (∀ (p : Post) (ctx : Nat) (c : Ctx) (s : State), checkCtx p ctx s = .ok c →
    (Posts p rowContextReside 1 s → c.out = true → (residentCtxs s (postTarget p)).length < 8 → (s.part (postTarget p)).resides = [] →
      ∃ t, exec (.contextReside p ctx false) s = .next t ∧ Completed p stOk [] s t ∧ ∀ d, ctxOf t ctx = some d → d.out = false)
    ∧ (Posts p rowContextReside 1 s → c.out = true → (8 ≤ (residentCtxs s (postTarget p)).length) →
      ∃ t, exec (.contextReside p ctx false) s = .next t ∧ Accepted p none ctx (postTarget p) (.reside ctx) s t)
    ∧ (Posts p rowContextCancel 1 s →
      exec (.contextCancel p ctx) s = .next (settledCmd (fun u =>
        start p (some (s.clock.beat + 4)) [] ctx c.part (.cancel ctx) (cancelContext ctx (taken p u))) s)
      ∧ ∃ t, exec (.contextCancel p ctx) s = .next t ∧ Accepted p (some (s.clock.beat + 4)) ctx c.part (.cancel ctx) s t)
    ∧ (Posts p rowContextReside 1 s → ctxHasRun s c = true →
      ∃ t, exec (.contextReside p ctx true) s = .next t ∧ Completed p stBadState [] s t ∧ t.ctxs.map (·.handle) = s.ctxs.map (·.handle)))
  ∧ (∀ (s : State),
    (∀ h c, ctxOf s h = some c → c.cancelled = true → (∀ e ∈ s.recov.cancels, e.1 ≠ h) → c.goneAt + 1200000 ≤ s.clock.elapsed →
      exec (.handleExpiry h) s = .next { s with ctxs := s.ctxs.filter fun x => x.handle != h })
    ∧ (∀ k r, (s.part k).run = some r → (s.part k).st = .accepted → (s.part k).waiting = none → r.begun = false →
      (65000 * r.startBeat - r.prog.leadAc) / 65000 ≤ s.clock.beat → partStep s k = none →
      ∃ t, exec (.waitingRunStart k) s = .next t ∧ t.hbm = s.hbm ∧ t.pens = s.pens ∧ t.host = s.host
        ∧ ∃ q, (t.part k).run = some q ∧ q.begun = true ∧ q.id = r.id ∧ (t.part k).st = .accepted)
    ∧ (∀ k r w g, (s.part k).run = some r → (s.part k).st = .running → r.ending = none → r.doneInstr < r.prog.nWords →
      (s.part k).waiting = some w → (65000 * w.startBeat - w.prog.leadAc) / 65000 ≤ s.clock.beat →
      findProg s (fun x => x.job == .run k w.id) = some g →
      ∃ t, exec (.waitingRunStart k) s = .next t ∧ Ended g stBadState t ∧ (t.part k).waiting = none ∧ (t.part k).run = some r)
    ∧ (∀ f m g ctx counter value deadline, timedWait s f m = some g → g.job = .syncWait ctx counter value deadline →
      ∃ t, exec (.syncWaitTimeout f m) s = .next t ∧ Ended g stOk t ∧ (t.mbx f m).rlen = 2
        ∧ bytesAt (t.mbx f m).data 0 16 = leBytes 4 (if value ≤ syncValue s g.part counter then 1 else 0) ++ zeros 4
            ++ leBytes 8 (syncValue s g.part counter)
        ∧ (∀ k n, syncValue t k n = syncValue s k n) ∧ t.hbm = s.hbm ∧ t.pens = s.pens ∧ t.place = s.place))

/-- SYNC.ADD, SYNC.READ and SYNC.WAIT. R396, R397, R398. -/
def Obligations.SyncCommands : Prop :=
  ∀ (p : Post) (s : State),
    (∀ counter value, Posts p rowSyncAdd 2 s → syncValue s (postTarget p) counter + value < 2 ^ 64 →
      exec (.syncAdd p counter false value) s =
        .next (finish p stOk (leBytes 8 (syncValue s (postTarget p) counter + value))
          (setSync (postTarget p) counter (syncValue s (postTarget p) counter + value) (taken p s))))
    ∧ (∀ counter value, Posts p rowSyncAdd 2 s → 2 ^ 64 ≤ syncValue s (postTarget p) counter + value →
      exec (.syncAdd p counter false value) s = .next (finish p stBadArg [] (taken p s)))
    ∧ (∀ counter value, Posts p rowSyncAdd 2 s → value < 2 ^ 64 →
      exec (.syncAdd p counter true value) s =
        .next (finish p stOk (leBytes 8 value) (setSync (postTarget p) counter value (taken p s))))
    ∧ (∀ first count, Posts p rowSyncRead 1 s → 1 ≤ count → count ≤ 500 → first + count ≤ 4096 →
      exec (.syncRead p first count) s =
        .next (finish p stOk ((List.range count).flatMap fun i => leBytes 8 (syncValue s (postTarget p) (first + i))) (taken p s)))
    ∧ (∀ ctx c counter value timeout, Posts p rowSyncWait 3 s → checkCtx p ctx s = .ok c → timeout ≤ 1200000 →
      ∃ t, exec (.syncWait p ctx counter value timeout) s = .next t
        ∧ Accepted p (if timeout = 0 then none else some (s.clock.beat + 1 + timeout)) ctx c.part
            (.syncWait ctx counter value (if timeout = 0 then 0 else s.clock.beat + 1 + timeout)) s t)

/-- TIER.PIN, UNPIN, EVICT, PROMOTE and QUERY on one bale. TIER.PIN, TIER.UNPIN, TIER.EVICT, TIER.PROMOTE and TIER.QUERY on one bale
(R242 to R246, R249, R250). -/
def Obligations.TierCommands : Prop :=
  (∀ (p : Post) (ctx h i : Nat) (c : Ctx) (x : Tensor) (b : Bale) (s : State),
    checkCtx p ctx s = .ok c → mappedTensor s c.handle h = some x → x.handle = h → x.bales[i]? = some b →
    (Posts p rowTierPin 2 s → b.st = .resident →
      exec (.tierPin p ctx h i 1) s = .next (finish p stOk (leBytes 4 0)
        (updBale h i (fun y => { y with st := .pinned, pin := some ctx }) (touchBales h [i] (taken p s)))))
    ∧ (Posts p rowTierPin 2 s → b.st = .pinned → b.pin ≠ some ctx →
      exec (.tierPin p ctx h i 1) s = .next (finish p stPinnedByOther [] (taken p s)))
    ∧ (Posts p rowTierUnpin 2 s → b.st = .pinned → b.pin = some ctx →
      exec (.tierUnpin p ctx h i 1) s = .next (finish p stOk (leBytes 4 0)
        (updBale h i (fun y => { y with st := .resident, pin := none }) (touchBales h [i] (taken p s)))))
    ∧ (Posts p rowTierUnpin 2 s → b.st = .resident →
      exec (.tierUnpin p ctx h i 1) s = .next (finish p stBadState [] (taken p s))))
  ∧ (∀ (p : Post) (ctx h i : Nat) (c : Ctx) (x : Tensor) (b : Bale) (s : State),
    checkCtx p ctx s = .ok c → mappedTensor s c.handle h = some x → findTensor s h = some x → x.bales[i]? = some b →
    (Posts p rowTierEvict 2 s → x.backed = true → held s (x.handle, i) = false → b.st = .resident → b.dirty = false →
      exec (.tierEvict p ctx h i 1) s =
        .next (finish p stOk (leBytes 4 0 ++ leBytes 4 0) (toT2 h i (touchBales h [i] (taken p s)))))
    ∧ (Posts p rowTierEvict 2 s → x.backed = true → held s (x.handle, i) = false → b.st = .resident → b.dirty = true →
      exec (.tierEvict p ctx h i 1) s = .next (start p none [] ctx x.part (.tier true h [i] 0 0 0)
        (updBale h i (fun y => { y with st := .evicting, asked := s.clock.elapsed }) (touchBales h [i] (taken p s)))))
    ∧ (Posts p rowTierPromote 2 s → b.st = .resident →
      exec (.tierPromote p ctx h i 1) s = .next (finish p stOk (leBytes 4 0) (touchBales h [i] (taken p s))))
    ∧ (Posts p rowTierPromote 2 s → b.st = .inT2 →
      ∀ d, getBale (startPromotion h i (touchBales h [i] (taken p s))) h i = some d → d.st = .promoting → d.frame.isSome = true →
      exec (.tierPromote p ctx h i 1) s = .next (start p none [] ctx x.part (.tier false h [i] 0 0 0)
        (startPromotion h i (touchBales h [i] (taken p s)))))
    ∧ (Posts p rowTierQuery 2 s →
      exec (.tierQuery p ctx h i 1) s = .next (finish p stOk (leBytes 4 (paddockFree s x.part) ++ leBytes 4 (commonsFree s x.part)
        ++ leBytes 8 (commonsSize s x.part) ++ leBytes 8 (t2Free s x.part) ++ leBytes 4 x.load ++ zeros 4 ++ baleRecord s h i b)
        (touchBales h [i] (taken p s)))))

/-- TIER.CONFIG changes the commons share and zeroes the commons. R231, R241 and R274 with R297. -/
def Obligations.TierConfiguration : Prop :=
  ∀ (p : Post) (c : Nat) (s : State), Posts p rowTierConfig 1 s → placementBusy s (postTarget p) = false → c ≤ 48 →
    commonsFits s (postTarget p) c = true → c ≠ (s.part (postTarget p)).commonsGib → commonsDirty s (postTarget p) = false →
    ∃ t, exec (.tierConfig p c []) s = .next t ∧ Completed p stOk [] s t
      ∧ (∀ k, t.part k = if k = postTarget p then { s.part k with commonsGib := c } else s.part k)
      ∧ t.place = s.place ∧ t.ctxs = s.ctxs ∧ t.pens = s.pens ∧ t.hbm.t2 = s.hbm.t2
      ∧ (∀ a, commonsBase (postTarget p) ≤ a → a < commonsBase (postTarget p) + 2 ^ 40 → tget 0 t.hbm.t1 a = 0)
      ∧ (∀ a, a < commonsBase (postTarget p) ∨ commonsBase (postTarget p) + 2 ^ 40 ≤ a → tget 0 t.hbm.t1 a = tget 0 s.hbm.t1 a)

/-- ALLOC.TENSOR and ALLOC.FREE. R235 to R237, R239, R240; handles are log 48. -/
def Obligations.TensorCommands : Prop :=
  ∀ (p : Post) (ctx : Nat) (c : Ctx) (s : State), checkCtx p ctx s = .ok c →
    (∀ random backed va size tag, Posts p rowAllocTensor 4 s → va % baleBytes = 0 → 64 ≤ size → size ≤ 2 ^ 44 → size % 64 = 0 →
      va + ceilDiv size baleBytes * baleBytes ≤ 2 ^ 48 → rangeMapped s ctx va (ceilDiv size baleBytes * baleBytes) = false →
      (backed = true → s.host.linkMode ≤ 2 ∧ ceilDiv size baleBytes ≤ t2Free s (postTarget p) / baleBytes) →
      choosePlacing s (postTarget p) (ceilDiv size baleBytes) random backed ≠ .none →
      ∃ t, exec (.allocTensor p ctx random backed va size tag 0) s = .next t
        ∧ ((t.mbx p.func p.mbx).complete = p.seq + 65536 * stOk ∨ (t.mbx p.func p.mbx).complete = p.seq + 65536 * stAccepted)
        ∧ t.place.nextTensor = s.place.nextTensor + 1
        ∧ ∃ x ∈ t.place.tensors, x.handle = s.place.nextTensor ∧ x.part = postTarget p ∧ x.size = size ∧ x.tag = tag
            ∧ x.random = random ∧ x.backed = backed ∧ x.maps = [⟨ctx, va, tag⟩] ∧ x.bales.length = ceilDiv size baleBytes)
    ∧ (∀ random backed va size tag src x, Posts p rowAllocTensor 4 s → va % baleBytes = 0 → src ≠ 0 → findTensor s src = some x →
      x.part = postTarget p → va + x.bales.length * baleBytes ≤ 2 ^ 48 → rangeMapped s ctx va (x.bales.length * baleBytes) = false →
      exec (.allocTensor p ctx random backed va size tag src) s = .next (finish p stOk (allocResult x ++ zeros 4)
        (updTensor src (fun y => { y with maps := y.maps ++ [⟨ctx, va, tag⟩] }) (taken p s))))
    ∧ (∀ h x, Posts p rowAllocFree 1 s → mappedTensor s ctx h = some x → freeRefused s ctx x = false →
      exec (.allocFree p ctx h) s = .next (finish p stOk [] (unmapTensor ctx h (taken p s))))

/-- KV.CREATE, KV.SHARE, KV.RELEASE, KV.MARK and KV.QUERY. R210, R212, R214, R219, R222 to R224; handles are log 48. -/
def Obligations.KvCommands : Prop :=
  ∀ (p : Post) (s : State),
    (∀ ctx c heads format base maxPos, Posts p rowKvCreate 3 s → checkCtx p ctx s = .ok c → 1 ≤ heads → heads ≤ 256 →
      kvFormat format = true → base % 65536 = 0 → 1 ≤ maxPos → maxPos ≤ 2 ^ 32 - 256 →
      base + heads * ceilDiv maxPos 256 * pagesPerBlock format * kvPageBytes ≤ 2 ^ 48 →
      rangeMapped s ctx base (heads * ceilDiv maxPos 256 * pagesPerBlock format * kvPageBytes) = false →
      (s.place.seqs.filter fun q => q.part == postTarget p).length < 65536 →
      ∃ t, exec (.kvCreate p ctx heads format base maxPos) s = .next t
        ∧ Completed p stOk (leBytes 4 s.place.nextSeq ++ leBytes 4 (ceilDiv maxPos 256)) s t
        ∧ t.place = { s.place with
            nextSeq := s.place.nextSeq + 1
            seqs := s.place.seqs ++ [⟨s.place.nextSeq, ctx, postTarget p, heads, format, base, ceilDiv maxPos 256, []⟩] }
        ∧ t.parts = s.parts ∧ t.hbm = s.hbm ∧ t.ctxs = s.ctxs ∧ t.pens = s.pens)
    ∧ (∀ seq src first count d o m, Posts p rowKvShare 3 s → findSeq s (postTarget p) seq = some d →
      findSeq s (postTarget p) src = some o → 1 ≤ count → d.heads = o.heads → d.format = o.format → first + count ≤ o.nb →
      first + count ≤ d.nb → (blockPages d first count).all (destFree d) = true → m = sharedMaps o (blockPages o first count) →
      m.length = (blockPages o first count).length → inBatch s (postTarget p) seq = false →
      (∀ e ∈ m, inWriteSet s (postTarget p) e.2.frame = false) →
      ((∀ e ∈ m, ∀ g, findPage s e.2.frame = some g → g.refs < 65535) →
        ∃ t x, exec (.kvShare p seq first count 0 src) s = .next t
          ∧ Completed p stOk (leBytes 4 (blockPages o first count).length ++ zeros 4) s t ∧ findSeq t (postTarget p) seq = some x
          ∧ (∀ e ∈ (blockPages d first count).zip m, seqMap x e.1 = some ⟨e.2.2.frame, false, false, false, false⟩)
          ∧ (∀ j, j ∉ blockPages d first count → seqMap x j = seqMap d j)
          ∧ (∀ f g, findPage s f = some g →
              ∃ u, findPage t f = some u ∧ u = { g with refs := g.refs + (m.filter fun e => e.2.frame == f).length })
          ∧ t.hbm = s.hbm ∧ t.pens = s.pens ∧ t.ctxs = s.ctxs)
      ∧ ((∃ e ∈ m, ∃ g, findPage s e.2.frame = some g ∧ 65535 ≤ g.refs) →
        exec (.kvShare p seq first count 0 src) s = .next (finish p stShareLimit [] (taken p s))))
    ∧ (∀ seq first count q live, Posts p rowKvRelease 3 s → findSeq s (postTarget p) seq = some q → (q.maps.map (·.1)).Nodup →
      inBatch s (postTarget p) seq = false →
      live = (q.maps.map (·.1)).filterMap (fun j => (seqMap q j).bind fun k => if k.dropped then none else some k.frame) →
      (∀ f ∈ live, ∀ g, findPage s f = some g → g.refs ≠ 0) →
      ∃ t n, exec (.kvRelease p seq first count 1 0) s = .next t ∧ Completed p stOk (leBytes 4 live.length ++ leBytes 4 n) s t
        ∧ (∀ r ∈ t.place.seqs, r.handle ≠ seq) ∧ n ≤ live.length
        ∧ (∀ f g, findPage s f = some g → (live.filter (· == f)).length < g.refs →
            ∃ u, findPage t f = some u ∧ u.refs = g.refs - (live.filter (· == f)).length)
        ∧ t.hbm = s.hbm ∧ t.pens = s.pens ∧ t.ctxs = s.ctxs)
    ∧ (∀ seq first count q live, Posts p rowKvRelease 3 s → findSeq s (postTarget p) seq = some q → 1 ≤ count → first + count ≤ q.nb →
      inBatch s (postTarget p) seq = false →
      live = (blockPages q first count).filterMap (fun j => (seqMap q j).bind fun k => if k.dropped then none else some k.frame) →
      (∀ f ∈ live, ∀ g, findPage s f = some g → g.refs ≠ 0) →
      ∃ t n x, exec (.kvRelease p seq first count 0 0) s = .next t ∧ Completed p stOk (leBytes 4 live.length ++ leBytes 4 n) s t
        ∧ n ≤ live.length ∧ findSeq t (postTarget p) seq = some x ∧ (∀ j ∈ blockPages q first count, seqMap x j = none)
        ∧ (∀ j, j ∉ blockPages q first count → seqMap x j = seqMap q j) ∧ t.hbm = s.hbm ∧ t.pens = s.pens ∧ t.ctxs = s.ctxs)
    ∧ (∀ seq first count flags q, Posts p rowKvMark 3 s → findSeq s (postTarget p) seq = some q → 1 ≤ count → flags ≤ 1 →
      first + count ≤ q.nb →
      ∃ t x, exec (.kvMark p seq first count flags 0) s = .next t ∧ Completed p stOk [] s t ∧ findSeq t (postTarget p) seq = some x
        ∧ (∀ j ∈ blockPages q first count,
            seqMap x j = (seqMap q j).map fun m => if m.dropped then m else { m with droppable := flags == 1 })
        ∧ (∀ j, j ∉ blockPages q first count → seqMap x j = seqMap q j)
        ∧ t.place.pages = s.place.pages ∧ t.hbm = s.hbm ∧ t.pens = s.pens ∧ t.ctxs = s.ctxs)
    ∧ (∀ firstEntry free, Posts p rowKvQuery 1 s → free = leBytes 4 (freePages s (postTarget p))
        ++ leBytes 4 (s.place.pages.filter fun g => g.part == postTarget p && g.refs != 0 && pageDroppable s g.frame).length →
      exec (.kvQuery p 0xFFFF_FFFF firstEntry) s = .next (finish p stOk (free ++ zeros 16) (taken p s))
      ∧ (∀ seq q l, seq ≠ 0xFFFF_FFFF → findSeq s (postTarget p) seq = some q → l = ((droppedBlocks q).drop firstEntry).take 250 →
        exec (.kvQuery p seq firstEntry) s = .next (finish p stOk (free
          ++ leBytes 4 (q.maps.filter fun e => e.2.any fun m => !m.dropped).length
          ++ leBytes 4 (q.maps.filter fun e => e.2.any fun m => m.dropped).length ++ leBytes 4 l.length ++ zeros 4
          ++ l.flatMap (fun b => leBytes 4 seq ++ leBytes 4 b.1 ++ leBytes 8 b.2)) (taken p s))))

/-- A page becomes free, the pool gives a bale back, and a page is copied on write. R211, R213, R215, R238; the timing of the pool
is log 24. -/
def Obligations.KvEvents : Prop :=
  ∀ (s : State) (k : Nat),
    (∀ g, findPage s g.frame = some g → g.part = k → g.refs = 0 → (∀ c ∈ (s.part k).changes, c.page ≠ some g.frame) →
      (s.clock.acb = 0 ∧ stepsRun s k = false
        ∨ ∃ r, (s.part k).run = some r ∧ r.lastCommit = absAc s ∧ ∀ e ∈ r.epochs, serialAfter 32 g.freeEpoch e.2 = true) →
      exec (.kvPageReclaim k g.frame) s =
        .next { s with place := { s.place with pages := s.place.pages.filter fun x => x.frame != g.frame } })
    ∧ (∀ f, (k, f) ∈ s.place.pool → s.clock.acb = 0 → f ∈ s.place.poolFree →
      (∀ g ∈ s.place.pages, g.frame / baleBytes * baleBytes ≠ f) →
      ∃ t, exec (.kvPoolBaleReturn k f) s = .next t ∧ t.place.pool = s.place.pool.filter (fun e => e != (k, f))
        ∧ t.place.pages = s.place.pages ∧ t.place.seqs = s.place.seqs ∧ f ∈ t.hbm.unmarked ∧ f ∉ t.hbm.zeroed
        ∧ t.hbm.t1 = s.hbm.t1 ∧ t.hbm.t2 = s.hbm.t2 ∧ t.pens = s.pens ∧ t.host = s.host)
    ∧ (∀ a b n l, (s.part k).copies = ⟨a, b, false, n⟩ :: l →
      exec (.cowCopyDone k) s = .next (updPart k (fun q => { q with copies := ⟨a, b, true, s.clock.beat⟩ :: l }) s))
    ∧ (∀ a b n l, (s.part k).copies = ⟨a, b, true, n⟩ :: l → n < s.clock.beat →
      Memory.wf s.hbm.t1 = true → (∀ j, tget 0 s.hbm.staleKey j = 0) →
      ∃ t, exec (.cowCopyDone k) s = .next t ∧ (t.part k).copies = l
        ∧ (∀ x, tget 0 t.hbm.t1 x = if b ≤ x ∧ x < b + kvPageBytes then tget 0 s.hbm.t1 (x - b + a) else tget 0 s.hbm.t1 x)
        ∧ t.hbm.t2 = s.hbm.t2 ∧ t.place = s.place ∧ t.pens = s.pens ∧ t.host = s.host)

/-- Promotions and write-backs end, fail or time out. R243 to R246, R248, R262, and T2 as R357 gives it. -/
def Obligations.BaleEvents : Prop :=
  ∀ (s : State) (h i : Nat) (x : Tensor) (b : Bale), findTensor s h = some x → getBale s h i = some b →
    (promoting s h i = true → b.zero = true ∨ (t2Usable s = true ∧ homePoisoned s x b = false) →
      b.intent = false ∨ b.pinPending.isSome = true ∨ held s (h, i) = true →
      ∃ t d, exec (.promotionDone h i) s = .next t ∧ getBale t h i = some d
        ∧ d.st = (if b.pinPending.isSome then .pinned else .resident) ∧ d.pin = b.pinPending ∧ d.pinPending = none
        ∧ d.dirty = false ∧ d.intent = false ∧ d.lastUse = s.clock.beat ∧ d.frame = b.frame
        ∧ t.hbm.t1 = (fillFrame x b s).hbm.t1 ∧ t.hbm.t2 = s.hbm.t2
        ∧ ∀ g, Sole g s → g.job = .tier false h [i] 0 0 0 → Ended g stOk t)
    ∧ (promoting s h i = true → b.zero = false → ∀ c, c = .promotionFail h i ∨ c = .t2Response h i true
        ∨ c = .t2Timeout h i ∧ b.asked + 1000 ≤ s.clock.elapsed →
      ∃ t d, exec c s = .next t ∧ getBale t h i = some d ∧ d.st = .inT2 ∧ d.frame = none ∧ d.intent = false ∧ d.pinPending = none
        ∧ t.hbm.t1 = s.hbm.t1 ∧ t.hbm.t2 = s.hbm.t2
        ∧ ∀ g, Sole g s → g.job = .tier false h [i] 0 0 0 → Ended g stLowerTierFail t)
    ∧ (promoting s h i = true → b.zero = false →
      ∃ t, exec (.t2Response h i false) s = .next t ∧ getBale t h i = some { b with asked := s.clock.elapsed } ∧ t.hbm = s.hbm
        ∧ t.host = s.host ∧ t.pens = s.pens)
    ∧ (b.st = .evicting → t2Usable s = true →
      ∃ t d, exec (.writeBackDone h i) s = .next t ∧ getBale t h i = some d
        ∧ d.st = (if b.waitPromote = true ∨ b.pinPending.isSome = true then .promoting else .inT2) ∧ d.dirty = false
        ∧ d.pinPending = b.pinPending ∧ t.hbm.t1 = s.hbm.t1 ∧ t.hbm.t2 = (writeHome x b s).hbm.t2
        ∧ ∀ g, Sole g s → g.job = .tier true h [i] 0 0 0 → Ended g stOk t)
    ∧ (b.st = .evicting → (∀ g ∈ s.host.progs, ∀ c, g.job ≠ .alloc c h) →
      ∀ c, c = .writeBackFail h i ∨ c = .t2Timeout h i ∧ b.asked + 1000 ≤ s.clock.elapsed →
      ∃ t d, exec c s = .next t ∧ getBale t h i = some d ∧ d.st = (if b.pinPending.isSome then .pinned else .resident)
        ∧ d.pin = b.pinPending ∧ d.dirty = b.dirty ∧ d.frame = b.frame ∧ t.hbm.t1 = s.hbm.t1 ∧ t.hbm.t2 = s.hbm.t2
        ∧ ∀ g, Sole g s → g.job = .tier true h [i] 0 0 0 → Ended g stLowerTierFail t)

/-- What a promotion, a write-back and the zeroing of a frame leave in every byte of memory. The bytes that bale drovers move (R243,
R244) and the zeroing of frames (R237, R297). -/
def Obligations.FrameContents : Prop :=
  (∀ (s : State) (x : Tensor) (b : Bale) (f : Nat), b.frame = some f →
    (b.zero = true → ∀ a, tget 0 (fillFrame x b s).hbm.t1 a = if f ≤ a ∧ a < f + baleBytes then 0 else tget 0 s.hbm.t1 a)
    ∧ (∀ v, b.zero = false → baleHome s x b = some v → Memory.wf s.hbm.t1 = true → Memory.wf s.hbm.t2 = true →
      ∀ a, tget 0 (fillFrame x b s).hbm.t1 a =
        if f ≤ a ∧ a < f + baleBytes then tget 0 s.hbm.t2 (a - f + v) else tget 0 s.hbm.t1 a)
    ∧ (∀ v, baleHome s x b = some v → Memory.wf s.hbm.t1 = true → Memory.wf s.hbm.t2 = true →
      ∀ a, tget 0 (writeHome x b s).hbm.t2 a =
        if v ≤ a ∧ a < v + baleBytes then tget 0 s.hbm.t1 (a - v + f) else tget 0 s.hbm.t2 a))
  ∧ (∀ (s : State) (k f : Nat), s.place.zeroing.find? (fun z => z.2 == f) = some (k, f) → f ≠ commonsBase k →
    ∃ t, exec (.frameZeroDone f) s = .next t
      ∧ t.place.zeroing = s.place.zeroing.filter (· != (k, f))
      ∧ (∀ a, tget 0 t.hbm.t1 a = if f ≤ a ∧ a < f + baleBytes then 0 else tget 0 s.hbm.t1 a)
      ∧ f ∈ t.hbm.zeroed ∧ t.hbm.t2 = s.hbm.t2)

/-- WEIGHT.LOAD and the checks of its manifest. R257 to R260; the order of the manifest's checks is log 52. -/
def Obligations.WeightLoading : Prop :=
  ∀ (p : Post) (ctx h va : Nat) (verified : Bool) (c : Ctx) (x : Tensor) (m : Manifest) (img : List Byte) (shards : List Shard)
    (s : State), Posts p rowWeightLoad 3 s → checkCtx p ctx s = .ok c → mappedTensor s ctx h = some x → x.handle = h →
    (x.load = 1 → exec (.weightLoad p ctx h va verified) s = .next (finish p stBadState [] (taken p s)))
    ∧ (x.load ≠ 1 → rangeCheck s ctx va 64 = none → readManifest (readVa s ctx va 64) = some m → rangeCheck s ctx va m.length = none →
      img = readVa s ctx va m.length →
      shards = (List.range m.nShard).map (fun i => readShard ((img.drop (m.shardOff + 128 * i)).take 128)) →
      (manifestSigned s m img = false → exec (.weightLoad p ctx h va verified) s = .next (finish p stDenied [] (taken p s)))
      ∧ (manifestSigned s m img = true → tablesFit m x.size img shards = false →
        exec (.weightLoad p ctx h va verified) s = .next (finish p stBadArg [] (taken p s)))
      ∧ (manifestSigned s m img = true → tablesFit m x.size img shards = true →
        ∃ t l, exec (.weightLoad p ctx h va verified) s = .next t ∧ Accepted p none ctx c.part (.load h) s t
          ∧ t.place.loads = s.place.loads ++ [l] ∧ l.tensor = h ∧ l.ctx = ctx ∧ l.verified = verified ∧ l.shards = shards
          ∧ l.done = 0 ∧ l.flight.length = min 4 shards.length ∧ l.nextShard = min 4 shards.length
          ∧ t.place.tensors = mapIf (fun y => y.handle == h) (fun y => { y with load := 1 }) s.place.tensors
          ∧ t.hbm = s.hbm ∧ t.ctxs = s.ctxs ∧ t.parts = s.parts))

/-- A chunk of a shard arrives, a replica fails, or a fetch times out. R257 to R259, R261, R262. -/
def Obligations.LoadEvents : Prop :=
  ∀ (s : State) (h shard : Nat) (l : Load) (f : ShardFetch) (x : Shard) (t : Tensor), fetchOf s h shard = some (l, f, x, t) →
    (∀ c d, f.next = c → c < shardChunks x → d.length = chunkLen x c → keepOf s t (x.offset + c * mib) ≠ .busy →
      (crc64 d = l.crcs.getD (x.crcIndex + c) 0 → c + 1 < shardChunks x →
        ∃ u, exec (.chunkArrive h shard c d) s = .next u
          ∧ findLoad u h = some (updFetch shard (fun _ => { f with next := c + 1, since := s.clock.beat + s.clock.lead, content := f.content ++ d }) l)
          ∧ (∀ pa, keepOf s t (x.offset + c * mib) = .frame pa → u.hbm.t2 = s.hbm.t2
              ∧ ∀ a, tget 0 u.hbm.t1 a = if pa ≤ a ∧ a < pa + d.length then d.getD (a - pa) 0 else tget 0 s.hbm.t1 a)
          ∧ (∀ v, keepOf s t (x.offset + c * mib) = .home v → u.hbm.t1 = s.hbm.t1
              ∧ ∀ a, v ≤ a → a < v + d.length → tget 0 u.hbm.t2 a = d.getD (a - v) 0))
      ∧ (crc64 d = l.crcs.getD (x.crcIndex + c) 0 → c + 1 = shardChunks x → l.verified = false → l.done + 1 = l.shards.length →
        ∃ u y, exec (.chunkArrive h shard c d) s = .next u ∧ findLoad u h = none ∧ findTensor u h = some y ∧ y.load = 0
          ∧ ∀ g, findProg s (fun q => q.job == .load h) = some g → Ended g stOk u)
      ∧ (crc64 d ≠ l.crcs.getD (x.crcIndex + c) 0 → f.refetches < 3 → ∀ q,
        nextReplica x.replicas (f.replica + 1) (f.absent ++ f.skipped) = some q →
        ∃ u, exec (.chunkArrive h shard c d) s = .next u
          ∧ findLoad u h = some (updFetch shard (fun _ => { f with refetches := f.refetches + 1, replica := q, next := 0, since := s.clock.beat + s.clock.lead, content := [] }) { l with refetches := l.refetches + 1 })
          ∧ u.hbm = s.hbm ∧ u.place.tensors = s.place.tensors)
      ∧ (crc64 d ≠ l.crcs.getD (x.crcIndex + c) 0 → 3 ≤ f.refetches →
        ∃ u y, exec (.chunkArrive h shard c d) s = .next u ∧ findLoad u h = none ∧ findTensor u h = some y ∧ y.load = 2
          ∧ u.hbm = s.hbm ∧ ∀ g, findProg s (fun q => q.job == .load h) = some g → Ended g stShardCorrupt u))
    ∧ (∀ q, nextReplica x.replicas f.replica (f.replica :: f.absent ++ f.skipped) = some q →
      ∃ u, exec (.rdmaRemoteAccessError h shard) s = .next u
        ∧ findLoad u h = some (updFetch shard (fun _ => { f with absent := f.replica :: f.absent, replica := q, next := 0, since := s.clock.beat + s.clock.lead, content := [] }) l)
        ∧ u.hbm = s.hbm ∧ u.place.tensors = s.place.tensors)
    ∧ ((∀ q < 8, bit x.replicas q = true → q = f.replica ∨ q ∈ f.absent) →
      ∃ u y, exec (.rdmaRemoteAccessError h shard) s = .next u ∧ findLoad u h = none ∧ findTensor u h = some y ∧ y.load = 2
        ∧ u.hbm = s.hbm ∧ ∀ g, findProg s (fun q => q.job == .load h) = some g → Ended g stShardMissing u)
    ∧ (f.since + 40000 ≤ s.clock.beat →
      (∀ q, nextReplica x.replicas f.replica (f.absent ++ f.replica :: f.skipped) = some q →
        ∃ u, exec (.replicaTimeout h shard) s = .next u
          ∧ findLoad u h = some (updFetch shard (fun _ => { f with skipped := f.replica :: f.skipped, replica := q, next := 0, since := s.clock.beat + s.clock.lead, content := [] }) l)
          ∧ u.hbm = s.hbm ∧ u.place.tensors = s.place.tensors)
      ∧ (nextReplica x.replicas f.replica (f.absent ++ f.replica :: f.skipped) = none →
        (∃ q < 8, bit x.replicas q = true ∧ q ∉ f.absent) →
        ∃ u y, exec (.replicaTimeout h shard) s = .next u ∧ findLoad u h = none ∧ findTensor u h = some y ∧ y.load = 2
          ∧ u.hbm = s.hbm ∧ ∀ g, findProg s (fun q => q.job == .load h) = some g → Ended g stLowerTierFail u))

/-- CODEC.OPEN, CODEC.CLOSE and CODEC.QUERY. R305 to R307, R309, R324, R325; handles are log 48. -/
def Obligations.CodecSessions : Prop :=
  ∀ (p : Post) (s : State),
    (∀ o c q, Posts p rowCodecOpen 27 s → checkCtx p o.ctx s = .ok c → streamFits o = true → pictureFits o = true → rateFits o = true →
      patchDescFits o = true → patchShapeFits o = true → o.workVa + o.workBytes ≤ 2 ^ 48 → workNeed o ≤ o.workBytes →
      rangeCheck s o.ctx o.workVa o.workBytes = none → (∃ z ∈ pipeChoices s o, (s.pipe z).power ≠ 2) → choosePipe s o = some q →
      ∃ t, exec (.codecOpen p o) s = .next t
        ∧ Completed p stOk (leBytes 4 s.codec.nextSession ++ leBytes 1 (if o.dir = 1 then q else q - 2) ++ zeros 3
            ++ leBytes 8 (workNeed o)) s t
        ∧ t.codec.nextSession = s.codec.nextSession + 1 ∧ (t.pipe q).power = 1
        ∧ ∃ x, t.codec.sessions = s.codec.sessions ++ [x] ∧ x.handle = s.codec.nextSession ∧ x.ctx = o.ctx
            ∧ x.part = postTarget p ∧ x.pipe = q ∧ x.params = o ∧ x.state = 0 ∧ x.cmd = none
            ∧ x.holds = rangeBales s o.ctx o.workVa o.workBytes)
    ∧ (∀ h x, Posts p rowCodecClose 1 s → namedSession s p h = some x → x.closing = false → midFrame s x = false →
      exec (.codecClose p h) s = .next (finish p stOk [] (abortSession stOk h (taken p s))))
    ∧ (∀ h x, Posts p rowCodecClose 1 s → namedSession s p h = some x → x.closing = false → midFrame s x = true →
      exec (.codecClose p h) s = .next (start p none [] x.ctx x.part (.close h)
        (updSession h (fun y => { y with closing := true }) (taken p s))))
    ∧ (Posts p rowCodecQuery 1 s →
      exec (.codecQuery p 0xFFFF_FFFF) s =
        .next (finish p stOk ((List.range 6).flatMap fun i => leBytes 8 (pipeWord s i)) (taken p s)))
    ∧ (∀ h x, Posts p rowCodecQuery 1 s → h ≠ 0xFFFF_FFFF → namedSession s p h = some x →
      exec (.codecQuery p h) s = .next (finish p stOk (((List.range 6).flatMap fun i => leBytes 8 (pipeWord s i))
        ++ leBytes 4 x.state ++ leBytes 4 x.framesIn ++ leBytes 4 x.framesOut) (taken p s)))

/-- CODEC.DECODE, CODEC.ENCODE, the end of a frame, and the watchdog. R304, R308, R313, R316 to R318, R320; frame contents are free
values (log 13). -/
def Obligations.CodecWork : Prop :=
  (∀ (p : Post) (h : Nat) (x : Session) (s : State), namedSession s p h = some x → x.state = 0 → x.closing = false →
    (∀ last inVa bytes groups outVa, Posts p rowCodecDecode 4 s → x.params.dir = 0 → bytes ≤ 2 ^ 30 → (bytes = 0 → last = true) →
      1 ≤ groups → groups ≤ 4096 →
      codecRanges s x.ctx [(inVa, bytes), (outVa, (groups - 1) * strAt x.params.desc 3 + groupExtent x.params.desc)] = none →
      ∃ t, exec (.codecDecode p h last inVa bytes groups outVa) s = .next t
        ∧ Accepted p none x.ctx x.part (.codec x.handle) s t ∧ t.codec.pipes = s.codec.pipes
        ∧ t.codec.sessions = mapIf (fun y => y.handle == x.handle) (fun y => { y with
            cmd := some (newCodecCmd (taken p s) false last false inVa bytes groups outVa
              ([(inVa, bytes), (outVa, (groups - 1) * strAt x.params.desc 3 + groupExtent x.params.desc)].flatMap fun e =>
                if e.2 = 0 then [] else rangeBales s x.ctx e.1 e.2).dedup)
            state := 1 }) s.codec.sessions)
    ∧ (∀ last key inVa groups outVa bytes, Posts p rowCodecEncode 5 s → x.params.dir = 1 → 1 ≤ groups → groups ≤ 4096 →
      1 ≤ bytes → bytes ≤ 2 ^ 30 →
      codecRanges s x.ctx [(inVa, (groups - 1) * strAt x.params.desc 3 + groupExtent x.params.desc), (outVa, bytes)] = none →
      ∃ t, exec (.codecEncode p h last key inVa groups outVa bytes) s = .next t
        ∧ Accepted p none x.ctx x.part (.codec x.handle) s t ∧ t.codec.pipes = s.codec.pipes
        ∧ t.codec.sessions = mapIf (fun y => y.handle == x.handle) (fun y => { y with
            cmd := some (newCodecCmd (taken p s) true last key inVa bytes groups outVa
              ([(inVa, (groups - 1) * strAt x.params.desc 3 + groupExtent x.params.desc), (outVa, bytes)].flatMap fun e =>
                rangeBales s x.ctx e.1 e.2).dedup)
            state := 1 }) s.codec.sessions))
  ∧ (∀ (s : State) (q : Nat) (x : Session), (s.pipe q).busy = true → (s.pipe q).session.bind (findSession s) = some x →
    x.cmd.isSome = true → sessionServed s x = true →
    (∀ r, reportFits r = true →
      ∃ t, exec (.codecFrameDone q r) s = .next t ∧ (t.pipe q).frames = ((s.pipe q).frames + 1) % 2 ^ 32 ∧ t.ctxs = s.ctxs
        ∧ (x.params.dir = 0 → x.params.cls = 0 → x.closing = false → reportError x.params r ≠ 0 →
            (∃ y, findSession t x.handle = some y ∧ y.state = 2 ∧ y.cmd = none)
            ∧ ∀ g, findProg s (fun y => y.job == .codec x.handle) = some g → Ended g stBadArg t))
    ∧ ((s.pipe q).raised = false →
      (s.pipe q).frameAt + (4 * ceilDiv (x.params.width * x.params.height * 20000) 1990656000 + 4) ≤ s.clock.beat →
      exec (.codecWatchdog q) s = .next (updPipe q (fun v => { v with wdog := true, raised := true, lastErr := 8 }) s)))

/-- MEM.QUERY, MEM.RESTORE, refresh, retraining and the slots of a pseudo-channel. R275, R276, R280, R281, R285, R287, R289, R291,
R298, R299, with the latencies of R64 and R65; non-exact requests are log 30. -/
def Obligations.MemoryCommands : Prop :=
  (∀ (p : Post) (s : State),
    (∀ first count, Posts p rowMemQuery 1 s → 1 ≤ count → count ≤ 15 →
      (∀ i < count, first + i ∈ stacksOf s (postTarget p)) →
      exec (.memQuery p first count) s =
        .next (finish p stOk (((List.range count).map (first + ·)).flatMap fun t =>
          leBytes 8 (stackWord s t) ++ (List.range 32).flatMap fun i => leBytes 8 (chanWord s (32 * t + i))) (taken p s)))
    ∧ (Posts p rowMemRestore 0 s →
      exec (.memRestore p) s = .next (finish p stOk [] (updHbm (fun h => { h with trial := h.mapped }) (taken p s)))))
  ∧ (∀ (s : State),
    (∀ t temp, (s.stack t).st = 2 →
      ∃ u, exec (.refreshSlot t temp) s = .next u ∧ (u.stack t).temp = temp ∧ (∀ j, j ≠ t → u.stack j = s.stack j)
        ∧ u.hbm.t1 = s.hbm.t1 ∧ u.hbm.t2 = s.hbm.t2 ∧ u.hbm.chans = s.hbm.chans ∧ u.parts = s.parts ∧ u.pens = s.pens ∧ u.host = s.host)
    ∧ (∀ c pins, windowOf c s.clock.beat = true → chanServes s c = true → s.clock.acb < 2002 → boundaryDue s = false →
      exec (.retrainWindow c true pins) s = .next (advanceAc 2002 (forAll pins (fun p => declareDead c p.1 p.2) s)))
    ∧ (∀ c, windowOf c s.clock.beat = true → chanServes s c = true → s.clock.acb < 2002 → boundaryDue s = false →
      exec (.retrainWindow c false []) s = .next (advanceAc 2002 (daybook 0x0033 (partOfStack s (c / 32)) (0x200 + c / 32) 0
        (leBytes 2 c) (updChan c (fun q => { q with trfail := true, failed := true }) s))))
    ∧ (∀ c pc slot run, slotRun slot = some run → slot < 5000 → chanServes s c = true → boundaryDue s = false →
      (pcAt s c pc).lastSlot ≤ 5000 * s.clock.beat + slot → reservedSlot slot = false →
      ∃ (t : State) (l : List Req), exec (.hbmSlot c pc slot []) s = .next t ∧ l.length ≤ 5
        ∧ (∀ q ∈ l, q ∈ (pcAt s c pc).reqs ∧ q.write = (setDirection s.clock.beat slot run (pcAt s c pc)).write
            ∧ q.at_ + (if q.write then writeMargin q.addr else 0) ≤ 65000 * s.clock.beat + 13 * slot
            ∧ slotServes s c s.clock.beat slot q.addr = true)
        ∧ (pcAt t c pc).reqs = (pcAt s c pc).reqs.filter (fun q => !l.contains q)
        ∧ (pcAt t c pc).lastSlot = 5000 * s.clock.beat + slot + 1 ∧ t.hbm.t1 = s.hbm.t1 ∧ t.hbm.t2 = s.hbm.t2
        ∧ t.clock.acb = max s.clock.acb (13 * slot)
        ∧ (∀ q ∈ l, q.write = false → sectorListed s (q.addr / 64) = false → ∀ r, (s.part q.lot.part).run = some r →
            ∃ u, (t.part q.lot.part).run = some u
              ∧ ⟨q.lot, q.addr, 65000 * s.clock.beat + 13 * slot + readLatency q.rank q.addr, readT1s s q.addr 64, false⟩ ∈ u.arrived)))

/-- HOST.COPY and the completions of host drovers. R37, R293, R358, R378. -/
def Obligations.HostTransfers : Prop :=
  ∀ (s : State),
    (∀ p ctx c dir sync va hostAddr bytes, Posts p rowHostCopy 4 s → checkCtx p ctx s = .ok c → 64 ≤ bytes → bytes ≤ 2 ^ 30 →
      bytes % 64 = 0 → dir ≤ 1 → (sync < 4096 ∨ sync = 0xFFFF) → va % 64 = 0 → hostAddr % 64 = 0 → rangeCheck s ctx va bytes = none →
      ∃ t x, exec (.hostCopy p ctx dir sync va hostAddr bytes) s = .next t
        ∧ Accepted p none ctx c.part (.hostCopy s.host.nextCopy) s t ∧ x ∈ t.host.copies ∧ x.id = s.host.nextCopy ∧ x.ctx = ctx
        ∧ x.part = c.part ∧ x.dir = dir ∧ x.sync = sync ∧ x.va = va ∧ x.hostAddr = hostAddr ∧ x.bytes = bytes ∧ x.done = 0
        ∧ x.since = s.clock.beat + 1 ∧ x.holds = rangeBales s ctx va bytes)
    ∧ (∀ id x d, findCopy s id = some x → x.dir = 0 → ctxCancelled s x.ctx = false → d.length = 64 →
      copyServed s x 1 false = true →
      ∃ t, exec (.hostDroverCompletion id [d] false) s = .next t
        ∧ (∀ pa j, toT1 s x.ctx (x.va + x.done) = some pa → j < 64 → tget 0 t.hbm.t1 (pa + j) = d.getD j 0)
        ∧ (x.done + 64 < x.bytes → findCopy t id = some { x with done := x.done + 64 })
        ∧ (x.done + 64 = x.bytes → findCopy t id = none ∧ (∀ g, findProg s (fun y => y.job == copyJob x) = some g → Ended g stOk t)
            ∧ (x.sync < 4096 → syncValue t x.part x.sync = min (2 ^ 64 - 1) (syncValue s x.part x.sync + 1))))
    ∧ (∀ id x d, findCopy s id = some x → x.dir = 1 → x.dump = none → ctxCancelled s x.ctx = false → copyServed s x 1 false = true →
      vaPoisoned s x.ctx (x.va + x.done) = false →
      ∃ t, exec (.hostDroverCompletion id [d] false) s = .next t ∧ t.hbm.t1 = s.hbm.t1
        ∧ .hostWrite (x.hostAddr + x.done) (readVa s x.ctx (x.va + x.done) 64) false ∈ t.out
        ∧ (x.done + 64 < x.bytes → findCopy t id = some { x with done := x.done + 64 })
        ∧ (x.done + 64 = x.bytes → findCopy t id = none ∧ ∀ g, findProg s (fun y => y.job == copyJob x) = some g → Ended g stOk t))
    ∧ (∀ id x d, findCopy s id = some x → x.dir = 1 → x.dump = none → ctxCancelled s x.ctx = false → copyServed s x 1 false = true →
      vaPoisoned s x.ctx (x.va + x.done) = true →
      ∃ t, exec (.hostDroverCompletion id [d] false) s = .next t ∧ findCopy t id = none
        ∧ .hostWrite (x.hostAddr + x.done) (readVa s x.ctx (x.va + x.done) 64) true ∈ t.out
        ∧ ∀ g, findProg s (fun y => y.job == copyJob x) = some g → Ended g stBadState t)
    ∧ (∀ id x, findCopy s id = some x → ctxCancelled s x.ctx = false → copyServed s x 0 true = true →
      ∀ c, c = .hostDroverCompletion id [] true ∨ c = .hostCompletionTimeout id ∧ x.dir = 0 →
      ∃ t, exec c s = .next t ∧ findCopy t id = none ∧ t.hbm.t1 = s.hbm.t1
        ∧ ∀ g, findProg s (fun y => y.job == copyJob x) = some g → Ended g stLowerTierFail t)

/-- Reads and writes of the HDM window, snoops, and HOST.HDM. R356, R360, R379. -/
def Obligations.HdmWindow : Prop :=
  ∀ (s : State),
    (∀ off caches, hdmWindow s = true → hdmBacked s off = true →
      ∃ t, exec (.hdmRead off caches) s = .next t
        ∧ .hdmData off (readT1s s (hdmAddr off) 64) (sectorPoisoned s (hdmAddr off / 64)) ∈ t.out
        ∧ (caches = true → hdmAddr off / 64 ∈ t.host.snoop) ∧ (caches = false → t.host = s.host)
        ∧ t.hbm.t1 = s.hbm.t1 ∧ t.hbm.t2 = s.hbm.t2 ∧ t.place = s.place ∧ t.pens = s.pens ∧ t.parts = s.parts)
    ∧ (∀ off caches, hdmWindow s = true → hdmBacked s off = false →
      exec (.hdmRead off caches) s = .next (emit (.hdmData off (zeros 64) true) (countUnbacked s)))
    ∧ (∀ off d, hdmWindow s = true → hdmBacked s off = true →
      exec (.hdmWrite off d) s = .next (writeT1 (hdmAddr off) d s))
    ∧ (∀ off d, hdmWindow s = true → hdmBacked s off = false → exec (.hdmWrite off d) s = .next (countUnbacked s))
    ∧ (∀ off caches d, hdmWindow s = false → exec (.hdmRead off caches) s = .next s ∧ exec (.hdmWrite off d) s = .next s)
    ∧ (∀ line, exec (.hostSnoop line) s = .next { s with out := .snoopMiss line :: s.out })
    ∧ (∀ p parts gone, Posts p rowHostHdm 1 s → s.host.linkMode = 0 → parts < 2 ^ s.mode → gone = s.host.hdmParts &&& (15 ^^^ parts) →
      ((∀ l, l ∈ s.host.snoop ∨ l ∈ s.host.backInv → bit gone (partOfPa s (64 * l)) = false) →
        ∃ t, exec (.hostHdm p parts) s = .next t ∧ Completed p stOk [] s t ∧ t.host.hdmParts = parts ∧ t.host.snoop = s.host.snoop)
      ∧ ((∃ l ∈ s.host.snoop, bit gone (partOfPa s (64 * l)) = true) →
        ∃ t, exec (.hostHdm p parts) s = .next t ∧ Accepted p none 0 0 (.hdm gone parts) s t
          ∧ t.host.hdmParts = s.host.hdmParts &&& parts
          ∧ ∀ l ∈ s.host.snoop, if bit gone (partOfPa s (64 * l)) then l ∉ t.host.snoop ∧ l ∈ t.host.backInv else l ∈ t.host.snoop))
    ∧ (∀ line, (∀ g ∈ s.host.progs, ∀ a b, g.job ≠ .hdm a b) →
      exec (.backInvalidateResponse line) s = .next (updHost (fun h => { h with backInv := h.backInv.filter (· != line) }) s))
    ∧ (∀ line g gone parts, g ∈ s.host.progs → g.job = .hdm gone parts → (∀ x ∈ s.host.progs, ∀ a b, x.job = .hdm a b → x = g) →
      (∀ l ∈ s.host.backInv, bit gone (partOfPa s (64 * l)) = true → l = line) →
      ∃ t, exec (.backInvalidateResponse line) s = .next t ∧ Ended g stOk t ∧ t.host.hdmParts = parts ∧ line ∉ t.host.backInv)

/-- The host link trains, falls and is reset, and DOE requests are answered. R355, R357 to R359, R361, R473; replies are log 12. -/
def Obligations.LinkEvents : Prop :=
  ∀ (s : State),
    (∀ mode width, mayTrain s = true → mode < 6 → 4 ≤ width →
      exec (.linkTrained mode width) s = .next (sendPending (updHost (fun h => { h with up := true, linkMode := mode, width := width }) s)))
    ∧ (∀ mode width, mayTrain s = true → mode < 6 → width < 4 →
      exec (.linkTrained mode width) s =
        .next (updHost (fun h => { h with up := false, detect := true, detectAt := s.clock.elapsed }) s))
    ∧ (s.host.detect = true → s.host.perst = false → s.host.detectAt + 20000 ≤ s.clock.elapsed →
      exec .linkDetectRetry s = .next (updHost (fun h => { h with detect := false }) s))
    ∧ (s.host.up = true →
      ∃ t, exec .linkDown s = .next t ∧ t.host.up = false ∧ t.host.ideKeys = false ∧ t.host.copies = [] ∧ t.hbm.t1 = s.hbm.t1
        ∧ (∀ k, (t.part k).run = (s.part k).run ∧ (t.part k).st = (s.part k).st)
        ∧ ((s.host.copies.map (·.id)).Nodup → ∀ c g, c ∈ s.host.copies → ctxCancelled s c.ctx = false → Sole g s →
            findProg s (fun x => x.job == copyJob c) = some g → Ended g stLowerTierFail t))
    ∧ (∀ f, ∃ t, exec (.functionLevelReset f) s = .next t ∧ t.func f = Func.reset ∧ ∀ g ∈ t.host.progs, g.post.func ≠ f)
    ∧ (∃ t, exec .hotReset s = .next t ∧ t.host.up = false ∧ t.host.ideKeys = false ∧ ∀ f, f < 5 → (t.func f).opened = false)
    ∧ (∃ t, exec .perstAssert s = .next t ∧ t.host.perst = true ∧ t.host.up = false ∧ ∀ f, f < 5 → (t.func f).opened = false)
    ∧ exec .perstDeassert s = .next (updHost (fun h => { h with perst := false }) s)
    ∧ (∀ kind body, s.host.up = true → kind ≠ .other → (kind = .ideKm → s.sec.spdmDoe = 0) →
      exec (.doeRequest kind body) s =
        .next (emit (.doe kind (Config.protocolReply (doeCode kind) (leBytes 1 (hdmPartsShown s) ++ body))) s))
    ∧ (∀ body, s.host.up = true → 0 < s.sec.spdmDoe → s.sec.entropyOk = true →
      exec (.doeRequest .ideKm body) s = .next (emit (.doe .ideKm (Config.protocolReply (doeCode .ideKm)
        (leBytes 1 (hdmPartsShown s) ++ body))) (updHost (fun h => { h with ideKeys := true }) s)))
    ∧ (∀ kind body, s.host.up = false → exec (.doeRequest kind body) s = .next s)

/-- FABRIC.CONFIG, FABRIC.ROUTE, FABRIC.QUERY and FABRIC.COPY. R332, R350 to R353; FABRIC.COPY details are log 34. -/
def Obligations.FabricCommands : Prop :=
  ∀ (p : Post) (s : State),
    (∀ c : FabricParams, Posts p rowFabricConfig 8 s → c.shiftMargin ≤ 15 →
      c.moduleId = s.fabric.moduleId ∨ noRuns s = true → changedGates s c.modes = [] →
      loweredBudgets s (floorOf c.modes) = (List.range 4).map (fun k => (s.part k).budget) →
      budgetsBreak s (loweredBudgets s (floorOf c.modes)) = false →
      (∀ m ∈ c.modes, (modeOf m).isSome = true) → (∀ g < 16, between 2 4 (c.modes.getD g 0) = true → g = 7 ∨ g = 15) →
      exec (.fabricConfig p c) s = .next (finish p stOk [] (updFabric (fun f => { f with
        moduleId := c.moduleId, shiftMargin := c.shiftMargin, ipv6 := c.ipv6, ipv6b := c.ipv6b, ipv4 := c.ipv4, ipv4b := c.ipv4b })
        (taken p s))))
    ∧ (∀ first entries, Posts p rowFabricRoute (1 + 4 * entries.length) s → 1 ≤ entries.length → entries.length ≤ 125 →
      first + entries.length ≤ 256 → runsOf (s.part (postTarget p)) = [] →
      (∀ r ∈ entries, routeFits s (postTarget p)
        (entries.zipIdx.foldl (fun t e => tput (first + e.2) ⟨true, false, e.1⟩ t) (s.part (postTarget p)).routes) r = true) →
      ∃ t, exec (.fabricRoute p first entries.length entries) s = .next t ∧ Completed p stOk [] s t
        ∧ (∀ k, k ≠ postTarget p → t.part k = s.part k)
        ∧ (∀ i r, entries[i]? = some r →
            tget RouteSlot.reset (t.part (postTarget p)).routes (first + i) = ⟨true, false, r⟩)
        ∧ (∀ j, j < first ∨ first + entries.length ≤ j →
            tget RouteSlot.reset (t.part (postTarget p)).routes j = tget RouteSlot.reset (s.part (postTarget p)).routes j))
    ∧ (Posts p rowFabricQuery 0 s →
      exec (.fabricQuery p) s = .next (finish p stOk (leBytes 2 s.fabric.moduleId ++ zeros 6
        ++ (List.range 16).flatMap (fun g => leBytes 8 (gateStatusWord s g))
        ++ (List.range 16).flatMap (fun g => leBytes 8 (gateLinkWord s g)) ++ leBytes 4 (tlyStatusWord s)) (taken p s)))
    ∧ (∀ ctx x route r tag va bytes, Posts p rowFabricCopy 3 s → checkCtx p ctx s = .ok x → routeAt s x.part route = some r →
      1 ≤ bytes → bytes ≤ 2 ^ 30 → rangeCheck s ctx va bytes = none → gateUp s r.rxGate = true →
      ∃ t, exec (.fabricCopy p ctx route 1 tag va bytes) s = .next t ∧ Accepted p none ctx x.part (.fabricCopy s.fabric.nextCopy) s t
        ∧ t.fabric = { s.fabric with nextCopy := s.fabric.nextCopy + 1
                                     copies := s.fabric.copies ++ [⟨s.fabric.nextCopy, ctx, x.part, route, 1, tag, va, bytes,
                                       s.clock.beat + 1, 0⟩] })
    ∧ (∀ ctx x route r tag va bytes, Posts p rowFabricCopy 3 s → checkCtx p ctx s = .ok x → routeAt s x.part route = some r →
      1 ≤ bytes → bytes ≤ 2 ^ 30 → rangeCheck s ctx va bytes = none → gateUp s (firstGate r) = true →
      ∃ t, exec (.fabricCopy p ctx route 0 tag va bytes) s = .next t ∧ Accepted p none ctx x.part (.fabricCopy s.fabric.nextCopy) s t
        ∧ t.fabric.nextCopy = s.fabric.nextCopy + 1
        ∧ (t.gate (firstGate r)).seq = ((s.gate (firstGate r)).seq + 1) % 65536
        ∧ (t.gate (firstGate r)).waiting.length = (s.gate (firstGate r)).waiting.length + ceilDiv bytes 2000)

/-- Cells leave and arrive, attempts of a send leave, and a copy times out. R329, R333, R335 to R339, R350. -/
def Obligations.CellEvents : Prop :=
  (∀ (s : State) (g : Nat),
    (∀ c, firstCell (s.gate g).waiting = some c → gateUp s g = true → acCome (leaveAc (s.gate g) c) s = true →
      ∃ t, exec (.cellLeave g) s = .next t
        ∧ .cell g (withHcrc { c.h with contended := c.h.contended || decide (c.dueLeave < leaveAc (s.gate g) c) }) c.payload c.crc ∈ t.out
        ∧ (t.gate g).waiting = (s.gate g).waiting.erase c ∧ (t.gate g).laneFree = leaveAc (s.gate g) c + cellAc (s.gate g)
        ∧ (t.gate g).contend = (if c.dueLeave < leaveAc (s.gate g) c then min ((s.gate g).contend + 1) 255 else (s.gate g).contend)
        ∧ (∀ j, j ≠ g → t.gate j = s.gate j) ∧ t.hbm = s.hbm ∧ t.pens = s.pens
        ∧ (c.copy = 0 → t.fabric.copies = s.fabric.copies)
        ∧ (∀ x j, c.copy ≠ 0 → s.fabric.copies = [x] → x.id = c.copy → findProg s (fun y => y.job == .fabricCopy x.id) = some j →
            t.fabric.copies = [] ∧ Ended j stOk t))
    ∧ (∀ h payload crc, gateUp s g = true → hcrcGood h = true → h.type = 1 →
      (h.dest = s.fabric.moduleId → (s.gate g).recvs.find? (recvTakes h) = none → s.fabric.copies.find? (copyTakes s g h) = none →
        ∃ t, exec (.cellArrive g h payload crc) s = .next t ∧ (t.gate g).orphan = min ((s.gate g).orphan + 1) 65535
          ∧ (t.gate g).recvs = (s.gate g).recvs ∧ (∀ j, j ≠ g → t.gate j = s.gate j) ∧ t.hbm = s.hbm ∧ t.pens = s.pens ∧ t.out = s.out)
      ∧ (h.dest ≠ s.fabric.moduleId → h.hop < h.hops → gateUp s (hopGate (planeOf g) h.path (h.hop + 1)) = true →
        ∃ t d, exec (.cellArrive g h payload crc) s = .next t
          ∧ (t.gate (hopGate (planeOf g) h.path (h.hop + 1))).waiting = (s.gate (hopGate (planeOf g) h.path (h.hop + 1))).waiting ++ [d]
          ∧ d.h = { h with hop := h.hop + 1 } ∧ d.payload = payload ∧ d.crc = crc ∧ d.relayed = true ∧ d.inputGate = g
          ∧ d.dueLeave = absAc s + sendAc (s.gate (hopGate (planeOf g) h.path (h.hop + 1)))
          ∧ (∀ j, (t.gate j).recvs = (s.gate j).recvs) ∧ t.hbm = s.hbm ∧ t.pens = s.pens ∧ t.out = s.out)
      ∧ (h.dest ≠ s.fabric.moduleId → h.hops ≤ h.hop ∨ gateUp s (hopGate (planeOf g) h.path (h.hop + 1)) = false →
        ∃ t, exec (.cellArrive g h payload crc) s = .next t ∧ t.fabric = s.fabric ∧ t.hbm = s.hbm ∧ t.pens = s.pens ∧ t.out = s.out)
      ∧ (∀ x, h.dest = s.fabric.moduleId → (s.gate g).recvs.find? (recvTakes h) = some x → (∀ a, x.attempt = some a → a < h.attempt) →
        (1 < h.ncell → h.cell = 0 → ∃ t y, exec (.cellArrive g h payload crc) s = .next t ∧ y ∈ (t.gate g).recvs
          ∧ y.instr = x.instr ∧ y.part = x.part ∧ y.attempt = some h.attempt ∧ y.accepted = none
          ∧ (∀ k, tget [] y.cells k = if k = 0 then payload else []) ∧ t.out = s.out ∧ t.hbm = s.hbm)
        ∧ (h.ncell = 1 → crc < 2 ^ 64 → crc64 (payload.take x.bytes) = crc →
          ∃ t y, exec (.cellArrive g h payload crc) s = .next t ∧ y ∈ (t.gate g).recvs ∧ y.instr = x.instr ∧ y.part = x.part
            ∧ y.accepted = some (payload.take x.bytes) ∧ t.out = s.out ∧ t.hbm = s.hbm
            ∧ ∀ r, routeAt s x.part x.route = some r →
                (t.gate (firstGate r)).acks = (s.gate (firstGate r)).acks ++ [⟨h.src, r.hops - 1, 0, r.path, h.gate, h.seq⟩])
        ∧ (h.ncell = 1 → crc < 2 ^ 64 → crc64 (payload.take x.bytes) < 2 ^ 64 → crc64 (payload.take x.bytes) ≠ crc →
          ∃ t y, exec (.cellArrive g h payload crc) s = .next t ∧ y ∈ (t.gate g).recvs ∧ y.instr = x.instr ∧ y.part = x.part
            ∧ y.attempt = none ∧ y.accepted = none ∧ y.cells = [] ∧ (t.gate g).crcerr = min ((s.gate g).crcerr + 1) 65535
            ∧ (∀ j, (t.gate j).acks = (s.gate j).acks) ∧ t.out = s.out ∧ t.hbm = s.hbm)))
    ∧ (∀ h payload crc, hcrcGood h = false →
      ∃ t, exec (.cellArrive g h payload crc) s = .next t ∧ t.fabric = s.fabric ∧ t.hbm = s.hbm ∧ t.pens = s.pens ∧ t.out = s.out)
    ∧ (∀ k i a h r, heldSend s k i = some (g, h, r) → h.issued = true → h.nextAttempt = a → acCome (h.issue + a * r.retryGap) s = true →
      ∃ t, exec (.sendAttempt k i a) s = .next t ∧ t.hbm = s.hbm ∧ t.pens = s.pens ∧ t.out = s.out
        ∧ (a < h.retries → { h with nextAttempt := a + 1 } ∈ (t.gate g).sends) ∧ (h.retries ≤ a → h ∉ (t.gate g).sends)
        ∧ (attemptRoute s h r (h.issue + a * r.retryGap) = none → ∀ j, (t.gate j).waiting = (s.gate j).waiting)
        ∧ (gateUp s (firstGate r) = true → ∃ l : List WaitCell,
            (t.gate (firstGate r)).waiting = (s.gate (firstGate r)).waiting ++ l ∧ l.length = ceilDiv h.bytes 2000
            ∧ ∀ n < l.length, ∃ c, l[n]? = some c ∧ c.h.cell = n ∧ c.h.ncell = l.length ∧ c.h.attempt = a ∧ c.h.seq = h.seq
                ∧ c.h.tag = h.tag ∧ c.h.due = h.due % 2 ^ 40 ∧ c.h.dest = r.peer ∧ c.h.path = r.path
                ∧ c.payload = padTo 2000 ((bytesAt h.data 0 h.bytes).drop (2000 * n))
                ∧ c.dueLeave = h.issue + a * r.retryGap + cellAc (s.gate (firstGate r)) * n + sendAc (s.gate (firstGate r)))))
  ∧ (∀ (s : State) (c : FabricCopy), s.fabric.copies = [c] → c.dir = 1 → c.since + 40000 ≤ s.clock.beat →
    ∃ t, exec (.fabricCopyTimeout c.id) s = .next t ∧ t.fabric = { s.fabric with copies := [] }
      ∧ ∀ g, findProg s (fun x => x.job == .fabricCopy c.id) = some g → Ended g stLowerTierFail t)

/-- Idle words are sent and received, and gates fall and train. R330, R331, R338, R341, R343, R344. -/
def Obligations.GateEvents : Prop :=
  (∀ (s : State) (g : Nat),
    (gateUp s g = true → acCome (650 * nextFrame s g) s = true →
      ∃ t w, exec (.idleWordSend g) s = .next t ∧ t.out = .idleWord g w :: s.out ∧ w = idleWordOf s g (nextFrame s g)
        ∧ wcrcGood w = true ∧ w.tally = 500 * nextFrame s g ∧ w.module = s.fabric.moduleId ∧ w.gate = g
        ∧ w.tstate = tallyCode s.tally.st ∧ w.quiesced = decide ((s.part (partOfGate s g)).st = .quiesced)
        ∧ w.acks = (s.gate g).acks.take 12
        ∧ t.gate g = { s.gate g with qtx := w.quiesced, acks := (s.gate g).acks.drop 12, lastIdle := nextFrame s g + 1 }
        ∧ (∀ j, j ≠ g → t.gate j = s.gate j) ∧ t.parts = s.parts ∧ t.hbm = s.hbm ∧ t.tally = s.tally)
    ∧ (∀ w ns, gateUp s g = true → wcrcGood w = true →
      ∃ t, exec (.idleWordReceive g w ns) s = .next t ∧ (t.gate g).qrx = w.quiesced
        ∧ tget none t.tally.heard g = some ⟨w.gmId, w.gmPrio, w.steps, s.clock.elapsed⟩ ∧ t.hbm.t1 = s.hbm.t1
        ∧ (∀ a ∈ w.acks, a.dest = s.fabric.moduleId → ∀ h,
            (s.gate a.sgate).sends.filter (fun x => x.issued && x.seq == a.seq) = [h] → h ∉ (t.gate a.sgate).sends)
        ∧ (∀ r, fabricRunOf s g = some r → r.ending = none → (s.part (partOfGate s g)).st = .running → w.quiesced = true →
            w.fabricRun = true → w.bs = r.startBeat → r.shift < w.shift →
            (t.part (partOfGate s g)).st = .quiesced ∧ (t.part (partOfGate s g)).announced = w.shift
              ∧ (t.part (partOfGate s g)).cause = slipFabricLate))
    ∧ (∀ w ns, gateUp s g = false ∨ wcrcGood w = false →
      ∃ t, exec (.idleWordReceive g w ns) s = .next t ∧ t.fabric = s.fabric ∧ t.tally = s.tally ∧ t.hbm = s.hbm ∧ t.out = s.out))
  ∧ (∀ (s : State) (g : Nat),
    ((s.gate g).st = 2 → gateEthernet s g = false →
      ∃ t, exec (.gateDown g) s = .next t ∧ (t.gate g).st = 3 ∧ (t.gate g).waiting = [] ∧ (t.gate g).qrx = false
        ∧ (t.gate g).since = s.clock.elapsed ∧ (t.gate g).failedTrain = false ∧ (t.gate g).begun = false
        ∧ (∀ j, j ≠ g → t.gate j = s.gate j) ∧ t.place = s.place ∧ t.pens = s.pens
        ∧ ∀ c j, s.fabric.copies = [c] → copyGate s c = g → findProg s (fun x => x.job == .fabricCopy c.id) = some j →
            t.fabric.copies = [] ∧ Ended j stLowerTierFail t)
    ∧ (s.clock.acb = 0 → (s.gate g).st = 3 → (s.gate g).since < s.clock.elapsed →
      (s.gate g).failedTrain = false ∨ s.clock.beat % 20000 = 0 →
      exec (.gateTrainStart g) s = .next (updGate g (fun v => { v with st := 1, begun := true, since := s.clock.elapsed }) s))
    ∧ (s.clock.acb = 0 → s.power.stage = .gates → (s.gate g).st = 1 → (s.gate g).begun = false →
      exec (.gateTrainStart g) s = .next (updGate g (fun v => { v with st := 1, begun := true, since := s.clock.elapsed }) s))
    ∧ (∀ peer peerGate delay, (s.gate g).st = 1 → (s.gate g).begun = true → s.clock.elapsed ≤ (s.gate g).since + 2000 →
      ((s.gate g).trained = false →
        exec (.gateTrained g peer peerGate (ceilDiv (13 * delay) 1000) delay) s = .next (updGate g (fun v => { v with
          st := 2, peer := peer, peerGate := peerGate, h := ceilDiv (13 * delay) 1000, delay := delay, stale := false
          since := s.clock.elapsed, failedTrain := false, trained := true }) s))
      ∧ ((s.gate g).trained = true → ∃ t, exec (.gateTrained g peer peerGate (ceilDiv (13 * delay) 1000) delay) s = .next t
          ∧ (t.gate g).st = 2 ∧ (t.gate g).h = ceilDiv (13 * delay) 1000 ∧ (t.gate g).peer = peer
          ∧ (t.gate g).stale = decide ((s.gate g).h ≠ ceilDiv (13 * delay) 1000) ∧ (∀ j, j ≠ g → t.gate j = s.gate j)
          ∧ ((s.gate g).h = ceilDiv (13 * delay) 1000 → t.parts = s.parts)
          ∧ ((s.gate g).h ≠ ceilDiv (13 * delay) 1000 → ∀ k < s.mode, ∀ i r, routeAt s k i = some r → firstGate r = g →
              (tget RouteSlot.reset (t.part k).routes i).stale = true)))
    ∧ ((s.gate g).st = 1 → (s.gate g).begun = true → (s.gate g).since + 2000 ≤ s.clock.elapsed →
      ∃ t, exec (.gateTrainTimeout g) s = .next t ∧ (t.gate g).st = 3 ∧ (t.gate g).failedTrain = true ∧ (t.gate g).begun = false
        ∧ (∀ j, j ≠ g → t.gate j = s.gate j) ∧ t.parts = s.parts ∧ t.place = s.place ∧ t.hbm = s.hbm))

/-- Ethernet gates: ARP, inbound requests, congestion, and pauses. R42, R348, R349; the rate's unit is log 52. -/
def Obligations.StorageEthernet : Prop :=
  ∀ (s : State) (g : Nat), ethernetUp s g = true →
    (∀ a, a ∈ gateAddrs s g → exec (.arpNdRequest g a) s = .next { s with out := .arp g a :: s.out })
    ∧ (∀ a, a ∉ gateAddrs s g → exec (.arpNdRequest g a) s = .next s)
    ∧ (∀ qpn, exec (.roceInboundRequest g qpn) s = .next { s with out := .remoteAccessError g qpn :: s.out })
    ∧ (∃ t, exec (.cnpReceive g) s = .next t ∧ (t.gate g).rate = (s.gate g).rate / 2 ∧ (t.gate g).cnpAt = s.clock.elapsed
        ∧ (∀ j, j ≠ g → t.gate j = s.gate j) ∧ t.place = s.place ∧ t.out = s.out)
    ∧ ((s.gate g).rate < 2 ^ 32 → (s.gate g).cnpAt + 20 ≤ s.clock.elapsed →
      ∃ t, exec (.ecnRateRestore g) s = .next t ∧ (t.gate g).rate = min (2 ^ 32) ((s.gate g).rate + 2 ^ 28)
        ∧ (t.gate g).cnpAt = s.clock.elapsed ∧ (∀ j, j ≠ g → t.gate j = s.gate j) ∧ t.place = s.place ∧ t.out = s.out)
    ∧ (∀ n, ∃ t, exec (.pfcPauseFrame g n true) s = .next t ∧ n ∈ (t.gate g).paused ∧ ∀ m, m ≠ n → (m ∈ (t.gate g).paused ↔ m ∈ (s.gate g).paused))
    ∧ (∀ n, ∃ t, exec (.pfcPauseFrame g n false) s = .next t ∧ ∀ m, m ∈ (t.gate g).paused ↔ m ∈ (s.gate g).paused ∧ m ≠ n)

/-- RUN.SUBMIT accepts a RUN whose every check passes, and refuses a start beat out of range. R57, R377, R391, R392, R393; the
record of ACCEPTED is all zeros but RUN_ID (log 44). -/
def Obligations.RunSubmission : Prop :=
  ∀ (p : Post) (ctx va at_ : Nat) (batch : List BatchEntry) (c : Ctx) (s u : State), u = taken p s →
    Posts p rowRunSubmit (4 + batch.length) s → checkCtx p ctx s = .ok c → ctxCode s c = 1 →
    (s.part (postTarget p)).st ≠ .quiesced →
    ((s.part (postTarget p)).run = none ∨ (s.part (postTarget p)).waiting = none) →
    (at_ < s.clock.beat + 2 ∨ s.clock.beat + 1200000 < at_ →
      ∃ t, exec (.runSubmit p ctx va at_ batch) s = .next t ∧ Completed p stBadArg (rejectRecord 0 0 0) s t
        ∧ (∀ k, (t.part k).run = (s.part k).run ∧ (t.part k).waiting = (s.part k).waiting) ∧ t.hbm = s.hbm ∧ t.place = s.place)
    ∧ (∀ prog r holds reads writes keep v, s.clock.beat + 2 ≤ at_ → at_ ≤ s.clock.beat + 1200000 →
      listFull s (postTarget p) = false → loadProgram u (postTarget p) c.handle (s.func p.func).abi va = .ok prog →
      r = newRun u p c.handle at_ (s.func p.func).abi prog batch →
      staticChecks u (postTarget p) r.ctx r.batch r.prog = none →
      scheduleChecks u (postTarget p) (withPages u (postTarget p) r) = none → stateChecks u (postTarget p) r.prog = none →
      (prog.version = 1 ∨ maxEnergy r ≤ 50 * (s.part (postTarget p)).budget) →
      holds = workingSet u r.ctx va r.prog → (∀ b ∈ holds, baleLoading u b = false ∧ baleReady u b = true) →
      descFail r.prog (fun d => failIf (d.layout != 4 && !rangeValid u r.ctx d.base (descSpan d)) stBadArg) = none →
      writes = writeCodes u (postTarget p) r.ctx r.batch r.prog → reads = readCodes u (postTarget p) r.ctx r.batch r.prog →
      keep = (writes ++ reads).filterMap (codeFrame u (postTarget p)) →
      (∀ e ∈ reads, e ∉ writes → (codeMap u (postTarget p) e).isSome = true ∧ codeDropped u (postTarget p) e = false) →
      pagesNeeded u (postTarget p) writes ≤ freePages u (postTarget p) + (eligiblePages u (postTarget p) keep).length →
      v = pagesAtAcceptance u (postTarget p) r → copiesLate u v (postTarget p) (firstBeat r) = false →
      entriesShort u (postTarget p) holds.length (((writes ++ reads).filterMap (codeFrame v (postTarget p))).dedup.length) = 0 →
      ∃ t z, exec (.runSubmit p ctx va at_ batch) s = .next t
        ∧ Accepted p none c.handle (postTarget p) (.run (postTarget p) s.nextRun) s t
        ∧ (t.mbx p.func p.mbx).rlen = 11 ∧ bytesAt (t.mbx p.func p.mbx).data 0 88 = acceptRecord s.nextRun
        ∧ z.id = s.nextRun ∧ z.ctx = c.handle ∧ z.startBeat = at_ ∧ z.shift = 0 ∧ z.prog = prog ∧ z.batch = batch
        ∧ z.acceptedAt = s.clock.beat + 1 ∧ z.holds = holds ∧ z.doneInstr = 0 ∧ z.doneRound = 0 ∧ z.flight = [] ∧ z.begun = false
        ∧ z.trouble = Trouble.reset ∧ z.xlat = loadPages v (postTarget p) r
        ∧ ((s.part (postTarget p)).run = none → (t.part (postTarget p)).run = some z ∧ (t.part (postTarget p)).st = .accepted)
        ∧ (∀ y, (s.part (postTarget p)).run = some y → (t.part (postTarget p)).run = some y ∧ (t.part (postTarget p)).waiting = some z)
        ∧ t.nextRun = (if s.nextRun = 0xFFFF_FFFE then 1 else s.nextRun + 1) ∧ t.pens = s.pens
        ∧ ∀ k, k ≠ postTarget p → (t.part k).run = (s.part k).run ∧ (t.part k).waiting = (s.part k).waiting)

/-- RUN.SUBMIT of a program for another pen count, or of a fabric program while tally is not LOCKED, completes with BAD_STATE. R30,
R53. -/
def Obligations.SubmissionStateChecks : Prop :=
  ∀ (p : Post) (ctx va beat : Nat) (batch : List BatchEntry) (c : Ctx) (prog : Program) (r : Run) (s u : State), u = taken p s →
    Posts p rowRunSubmit (4 + batch.length) s → checkCtx p ctx s = .ok c → ctxCode s c = 1 →
    (s.part (postTarget p)).st ≠ .quiesced → ((s.part (postTarget p)).run = none ∨ (s.part (postTarget p)).waiting = none) →
    s.clock.beat + 2 ≤ beat → beat ≤ s.clock.beat + 1200000 → listFull s (postTarget p) = false →
    loadProgram u (postTarget p) c.handle (s.func p.func).abi va = .ok prog →
    r = newRun u p c.handle beat (s.func p.func).abi prog batch →
    staticChecks u (postTarget p) r.ctx r.batch r.prog = none →
    scheduleChecks u (postTarget p) (withPages u (postTarget p) r) = none →
    (prog.penCount ≠ penCount s (postTarget p) ∨ (prog.fabric = true ∧ s.tally.st ≠ .locked)) →
    ∃ t, exec (.runSubmit p ctx va beat batch) s = .next t ∧ Completed p stBadState (rejectRecord 0 0 0) s t
      ∧ (∀ k, (t.part k).run = (s.part k).run ∧ (t.part k).waiting = (s.part k).waiting) ∧ t.hbm = s.hbm ∧ t.place = s.place

/-- Tile words decode, drovers start, lots are placed or read out, and a lot is late. R31 to R36, R129 to R132, R280; a store's
deadline is free (log 22). -/
def Obligations.TileDecoding : Prop :=
  (∀ (s : State) (k : Nat) (r : Run) (w : TileWord), decodeReady s k = some (r, w) →
    (decodeFault (s.part k) r r.decoded w = none →
      ∃ t, exec (.tileDecode k) s = .next t ∧ (t.part k).run = some { r with decoded := r.decoded + 1, held := heldAfter r.held r.prog w }
        ∧ (∀ i, i ≠ k → t.part i = s.part i) ∧ t.hbm = s.hbm ∧ t.pens = s.pens ∧ t.host = s.host ∧ t.ctxs = s.ctxs)
    ∧ (∀ code lp, decodeFault (s.part k) r r.decoded w = some (code, lp) →
      ∃ t, exec (.tileDecode k) s = .next t ∧ (t.part k).run = some { r with decodeStop := some r.decoded } ∧ (t.part k).dfCode = code
        ∧ (t.part k).dfLpen = lp ∧ (t.part k).dfInstr = r.decoded
        ∧ (∀ i, i ≠ k → t.part i = s.part i) ∧ t.hbm = s.hbm ∧ t.pens = s.pens ∧ t.host = s.host ∧ t.ctxs = s.ctxs))
  ∧ (∀ (s : State) (k j d : Nat) (r : Run) (w : TileWord),
    (droverReady s k j d = some (r, w) →
      ∃ t q, exec (.droverStart k j d) s = .next t ∧ (t.part k).run = some q ∧ (j, d) ∈ q.opened
        ∧ (∀ x ∈ lotsToStart s k j d r w, x.lot ∈ q.posted
            ∧ (x.direct = false → planSectors r.prog w x = [] → x.lot ∈ q.placed)
            ∧ (∀ v ∈ planSectors r.prog w x, ∀ pa, runT1 s r (64 * v) = some pa →
                ∃ y ∈ (pcAt t (channelOf s pa).1 (localPc (channelOf s pa).2)).reqs, y.addr = pa ∧ y.write = false ∧ y.lot = x.lot
                  ∧ y.rank = droverRank d ∧ y.tag = readTag (nominalDue r w x) (droverRank d) pa))
        ∧ q.doneInstr = r.doneInstr ∧ q.flight = r.flight ∧ (∀ i, i ≠ k → t.part i = s.part i)
        ∧ t.hbm.t1 = s.hbm.t1 ∧ t.hbm.t2 = s.hbm.t2 ∧ t.pens = s.pens ∧ t.host = s.host ∧ t.ctxs = s.ctxs)
    ∧ (∀ lot x, lot.role ≠ .store → lotReady s lot = some (r, w, x) →
      (badSector r lot = none → lotFits (countLot x.drover lot.instr (placeLot s r w x)) r w x = true →
        ∃ t q, exec (.lotComplete lot false) s = .next t ∧ (t.part lot.part).run = some q ∧ lot ∈ q.placed
          ∧ (∀ a ∈ q.arrived, a.lot ≠ lot) ∧ (lot.role = .activation → placesWindow w = false →
              (t.pen (physPen s lot.part lot.lpen)).spad = spadPut (absAc s) (lotData s r w x) (s.pen (physPen s lot.part lot.lpen)).spad)
          ∧ t.hbm = s.hbm ∧ t.host = s.host ∧ t.ctxs = s.ctxs ∧ t.place = s.place)
      ∧ (badSector r lot = none → lotFits (countLot x.drover lot.instr (placeLot s r w x)) r w x = false →
        ∃ t q, exec (.lotComplete lot false) s = .next t ∧ (t.part lot.part).st = .quiesced ∧ (t.part lot.part).run = some q
          ∧ q.ending = some ⟨stBadArg, 0, 3, stepRefNum ⟨lot.instr, lot.round, lot.lpen⟩⟩)
      ∧ (∀ pa, badSector r lot = some pa →
        ∃ t q, exec (.lotComplete lot false) s = .next t ∧ (t.drover x.drover).poison = true ∧ (t.part lot.part).st = .quiesced
          ∧ (t.part lot.part).run = some q ∧ q.ending = some ⟨stBadState, 0, 4, pa⟩))
    ∧ (∀ lot, lot.role = .store → storeReady s lot = some (r, w) →
      ∃ t q, exec (.lotComplete lot false) s = .next t ∧ (t.part lot.part).run = some q ∧ lot ∉ q.toStore
        ∧ q.flight = r.flight ∧ q.doneInstr = r.doneInstr ∧ t.hbm.t2 = s.hbm.t2
        ∧ (toPens w = false → t.pens = s.pens
            ∧ t.hbm.t1 = (forAll (byteRuns (storeData s r w lot)) (fun e u => writeRun r e.1 e.2 u) s).hbm.t1)
        ∧ (toPens w = true → t.hbm = s.hbm)))

/-- A slip quiesces and retries; the third ends the RUN with SLIP; an anchored word that would be late slips. R34, R70 to R74; which
lots mark a pen is log 58. -/
def Obligations.LateLots : Prop :=
  (∀ (s : State) (lot : LotRef) (n d : Nat), lotOverdue s lot = some (n, d) → acCome n s = true →
    ∃ t, exec (.lotLate lot) s = .next t ∧ (t.drover d).late = true ∧ Slipped lot.part slipLotLate s t
      ∧ (d < 128 → (t.pen (d % 64)).late = true) ∧ (128 ≤ d → ∀ p, (t.pen p).late = (s.pen p).late)
      ∧ t.hbm.t1 = s.hbm.t1 ∧ t.hbm.t2 = s.hbm.t2 ∧ t.place = s.place)
  ∧ (∀ (s : State) (k n : Nat) (e : Ecc) (parity : Bool),
    ∀ c ∈ [(Instr.mm k e, opMm), (.cv k e, opCv), (.cvDw k e, opDw), (.attn k e, opAt), (.rw k, opRw), (.mvLoad k, opLoad),
           (.mvStore k, opStore), (.mvWeight k, opWeight), (.mvSend k, opSend), (.mvRecv k, opRecv), (.syFold k, opFold),
           (.sySignal k, opSignal), (.syWait k, opWait), (.syWgrant k parity, opGrant), (.tl k, opTl)],
      anchorSlip s k c.2 = some n →
      ∃ t, exec c.1 s = .next t ∧ Slipped k slipAnchorLate s t ∧ t.hbm.t1 = s.hbm.t1 ∧ t.hbm.t2 = s.hbm.t2 ∧ t.place = s.place)

/-- MM, CV, CV.DW, AT and RW issue. R61, R68, R124 to R126, R128. -/
def Obligations.RoundIssue : Prop :=
  ∀ (s : State) (k : Nat) (r : Run) (w : TileWord) (e : Ecc),
    (slotsFree s k r r.nextInstr w r.nextRound = true →
      (issueReady s k opMm = some (r, w) → ∃ t, exec (.mm k e) s = .next t ∧ Issued k r w s t)
      ∧ (issueReady s k opCv = some (r, w) → ∃ t, exec (.cv k e) s = .next t ∧ Issued k r w s t)
      ∧ (issueReady s k opDw = some (r, w) → ∃ t, exec (.cvDw k e) s = .next t ∧ Issued k r w s t)
      ∧ (issueReady s k opAt = some (r, w) → ∃ t, exec (.attn k e) s = .next t ∧ Issued k r w s t))
    ∧ (issueReady s k opRw = some (r, w) → r.nextRound = 0 → ∃ t, exec (.rw k) s = .next t ∧ Issued k r w s t)

/-- MV, SY and TL words take effect and commit. R71, R127, R128, R133, R137, R138, R140, R142, R252, R336, R339. -/
def Obligations.PlainWords : Prop :=
  ∀ (s : State) (k : Nat) (r : Run) (w : TileWord),
    (AtOnce k r w s →
      (issueReady s k opLoad = some (r, w) →
        ∃ t, exec (.mvLoad k) s = .next t ∧ Committed k r w s t
          ∧ t.pens = (copyWord k r r.nextInstr w (commitAc r w) s).pens)
      ∧ (issueReady s k opStore = some (r, w) →
        ∃ t q, exec (.mvStore k) s = .next t ∧ Committed k r w s t ∧ (t.part k).run = some q
          ∧ t.pens = (copyWord k r r.nextInstr w (commitAc r w) s).pens
          ∧ ∀ e ∈ mvBlocks r.prog w, ∀ i < (regionOf r.prog r.nextInstr w .store 0 e.2).lots,
              (⟨k, r.nextInstr, e.2, .store, e.1, i⟩ : LotRef) ∈ q.toStore)
      ∧ (issueReady s k opWeight = some (r, w) →
        ∃ t, exec (.mvWeight k) s = .next t ∧ Committed k r w s t
          ∧ (tget MangerSlot.reset (t.part k).manger (weightOrdinal r.prog r.nextInstr % 3)).valid = true
          ∧ (tget MangerSlot.reset (t.part k).manger (weightOrdinal r.prog r.nextInstr % 3)).instr = r.nextInstr
          ∧ (tget MangerSlot.reset (t.part k).manger (weightOrdinal r.prog r.nextInstr % 3)).desc = w.da ∧ t.pens = s.pens)
      ∧ (issueReady s k opSend = some (r, w) →
        ∃ t, exec (.mvSend k) s = .next t ∧ Committed k r w s t
          ∧ (t.gate (transferGate s k w)).seq = ((s.gate (transferGate s k w)).seq + 1) % 65536
          ∧ (∀ h ∈ (t.gate (transferGate s k w)).sends, h.part = k → h.instr = r.nextInstr →
              h.issued = true ∧ h.seq = (s.gate (transferGate s k w)).seq)
          ∧ (t.gate (transferGate s k w)).sends.length = (s.gate (transferGate s k w)).sends.length ∧ t.pens = s.pens)
      ∧ (∀ h d v, issueReady s k opRecv = some (r, w) →
        (s.gate (transferGate s k w)).recvs.find? (fun h => h.part == k && h.instr == r.nextInstr) = some h →
        h.accepted = some d → recvResult (mvMode w) h d = some v →
        ∃ t q, exec (.mvRecv k) s = .next t ∧ Committed k r w s t ∧ (t.part k).run = some q
          ∧ (t.gate (transferGate s k w)).recvs.find? (fun h => h.part == k && h.instr == r.nextInstr) = some { h with accepted := some v }
          ∧ ∀ i < ceilDiv v.length 65536, (⟨k, r.nextInstr, 0, .store, 0, i⟩ : LotRef) ∈ q.toStore)
      ∧ (issueReady s k opFold = some (r, w) →
        ∃ t q, exec (.syFold k) s = .next t ∧ Committed k r w s t ∧ (t.part k).run = some q ∧ q.foldAt = commitAc r w ∧ t.pens = s.pens)
      ∧ (issueReady s k opTl = some (r, w) → ∃ t, exec (.tl k) s = .next t ∧ Committed k r w s t ∧ t.pens = s.pens)
      ∧ (issueReady s k opSignal = some (r, w) →
        ∃ t, exec (.sySignal k) s = .next t ∧ Committed k r w s t ∧ t.pens = s.pens
          ∧ syncValue t k (w.sel % 4096) = min (2 ^ 64 - 1) (syncValue s k (w.sel % 4096) + w.value)
          ∧ ∀ c, c ≠ w.sel % 4096 → syncValue t k c = syncValue s k c)
      ∧ (issueReady s k opWait = some (r, w) → w.value ≤ syncValue s k (w.sel % 4096) →
        ∃ t, exec (.syWait k) s = .next t ∧ Committed k r w s t ∧ t.pens = s.pens)
      ∧ (∀ l, issueReady s k opGrant = some (r, w) → l = (tget WorkCounter.reset (s.part k).wcnt w.sub).list →
        (listFault r.prog w l = none →
          ∃ t, exec (.syWgrant k false) s = .next t ∧ Committed k r w s t
            ∧ (tget WorkCounter.reset (t.part k).wcnt w.sub).next = l.headD 0
            ∧ (tget WorkCounter.reset (t.part k).wcnt w.sub).limit = l.headD 0
            ∧ ∀ i b, ((l.drop 1).take (l.headD 0))[i]? = some b →
                ⟨b, i + 1, w.sub⟩ ∈ (t.pen (physPen s k (b % max 1 r.prog.penCount))).grants)
        ∧ (∀ e, listFault r.prog w l = some e →
          ∃ t q, exec (.syWgrant k false) s = .next t ∧ (t.part k).st = .quiesced ∧ (t.part k).run = some q
            ∧ q.ending = some ⟨e.1, 0, 3, stepRefNum ⟨r.nextInstr, 0, 0⟩⟩
            ∧ (tget WorkCounter.reset (t.part k).wcnt w.sub).next = e.2)))
    ∧ (issueReady s k opRecv = some (r, w) → accepted s k r.nextInstr w = false →
      ∃ t, exec (.mvRecv k) s = .next t ∧ Slipped k slipFabricLate s t ∧ t.hbm.t1 = s.hbm.t1)
    ∧ (issueReady s k opWait = some (r, w) → syncValue s k (w.sel % 4096) < w.value →
      ∃ t, exec (.syWait k) s = .next t ∧ Slipped k slipLotLate s t ∧ t.hbm.t1 = s.hbm.t1)
    ∧ (issueReady s k opGrant = some (r, w) →
      (commitAc r w - nominalAc r w.issue ≤ r.prog.slackAc →
        ∃ t q, exec (.syWgrant k true) s = .next t ∧ (tget WorkCounter.reset (t.part k).wcnt w.sub).perr = true
          ∧ (tget WorkCounter.reset (t.part k).wcnt w.sub).next = 0 ∧ (t.part k).lag = commitAc r w - nominalAc r w.issue
          ∧ (t.part k).run = some q ∧ q.nextInstr = r.nextInstr ∧ commitAc r w ≤ q.portFree ∧ t.pens = s.pens)
      ∧ (r.prog.slackAc < commitAc r w - nominalAc r w.issue →
        ∃ t, exec (.syWgrant k true) s = .next t ∧ Slipped k slipLagLimit s t
          ∧ (tget WorkCounter.reset (t.part k).wcnt w.sub).perr = true))
    ∧ (commitsAtOnce k r w (commitAc r w) (launch k r.nextInstr w (firstAttempt s k r w) 0 false (atIssue k r w s)) = false →
      ∀ c ∈ [(Instr.mvLoad k, opLoad), (.mvStore k, opStore), (.mvWeight k, opWeight), (.mvSend k, opSend), (.mvRecv k, opRecv),
             (.syFold k, opFold), (.sySignal k, opSignal), (.syWait k, opWait), (.syWgrant k false, opGrant), (.tl k, opTl)],
        issueReady s k c.2 = some (r, w) → (c.2 = opRecv → accepted s k r.nextInstr w = true) →
        (c.2 = opWait → w.value ≤ syncValue s k (w.sel % 4096)) →
        ∃ t q x, exec c.1 s = .next t ∧ (t.part k).run = some q ∧ q.flight = r.flight ++ [x] ∧ x.instr = r.nextInstr
          ∧ x.issue = nextIssue r ∧ x.verdict = nextIssue r + verdictAc r.prog r.nextInstr w w.assay r.nextRound ∧ q.doneInstr = r.doneInstr ∧ t.pens = s.pens ∧ t.hbm = s.hbm)

/-- What a commit changes. R74, R103, R215. -/
def Obligations.WordCommits : Prop :=
  ∀ (s : State) (k j n a : Nat) (w : TileWord) (r : Run), (s.part k).run = some r → (∀ x ∈ s.recov.steps, x.search = false) →
    (∀ b ∈ r.batch, b.leave = false) →
    ∃ q, ((commitStep k j n w a s).part k).run = some q ∧ (q.doneInstr, q.doneRound) = stepAfter r j n w ∧ q.lastCommit = a
      ∧ ((commitStep k j n w a s).part k).slips = 0 ∧ ((commitStep k j n w a s).part k).st = (s.part k).st
      ∧ q.trouble = r.trouble ∧ q.nextInstr = r.nextInstr ∧ q.toStore = r.toStore
      ∧ (∀ i, i ≠ k → (commitStep k j n w a s).part i = s.part i)
      ∧ (commitStep k j n w a s).hbm = s.hbm ∧ (commitStep k j n w a s).host = s.host ∧ (commitStep k j n w a s).ctxs = s.ctxs
      ∧ (((s.part k).changes = [] → ((commitStep k j n w a s).part k).epoch = (s.part k).epoch)
        ∧ ((s.part k).changes ≠ [] → ((commitStep k j n w a s).part k).epoch = ((s.part k).epoch + 1) % 2 ^ 32))

/-- Verdicts and replays. R26, R103 to R108, R110, R111. -/
def Obligations.Verdicts : Prop :=
  (∀ (s : State) (k a : Nat) (r : Run) (x : StepRec) (w : TileWord) (l : List (Nat × Nat × PenResult)) (kinds lp : Nat),
    verdictReady s k = some (r, x, w) → a = max x.verdict r.lastCommit → (∀ e ∈ lotDues s k r, e.1 ≠ a) →
    (∀ e, lateAnchor r = some e → e.2 ≠ a) → (∀ y ∈ s.recov.steps, y.search = false) →
    (x.engineFault = true → reissueSlip r x w a = none →
      ∃ t q y, exec (.stepVerdict k) s = .next t ∧ (t.part k).run = some q ∧ (t.part k).st = .running ∧ q.flight = []
        ∧ q.replay = some y ∧ y.instr = x.instr ∧ y.round = x.round ∧ y.attempt = x.attempt ∧ y.assay = x.assay ∧ y.issue = a
        ∧ q.doneInstr = r.doneInstr ∧ q.trouble = r.trouble ∧ t.hbm.t1 = s.hbm.t1)
    ∧ (x.engineFault = true → ∀ c, reissueSlip r x w a = some c →
      ∃ t, exec (.stepVerdict k) s = .next t ∧ Slipped k c s t ∧ t.hbm.t1 = s.hbm.t1)
    ∧ (x.engineFault = false → isSlotted w = true → l = stepResults s k r x w → kinds = l.foldl (fun a e => a ||| e.2.2.kinds) 0 →
      lp = ((l.find? fun e => e.2.2.kinds != 0).map (·.1)).getD 0 →
      (kinds = 0 ∨ (kinds &&& kindNonFinite = 0 ∧ w.policy = 2) →
        ∃ t q, exec (.stepVerdict k) s = .next t ∧ (t.part k).run = some q ∧ (t.part k).st = .running ∧ (t.part k).slips = 0
          ∧ (q.doneInstr, q.doneRound) = stepAfter r x.instr x.round w ∧ q.lastCommit = a ∧ t.hbm.t1 = s.hbm.t1
          ∧ q.trouble.replays = r.trouble.replays ∧ q.trouble.kindsSeen = r.trouble.kindsSeen ||| kinds
          ∧ q.trouble.fallbacks = r.trouble.fallbacks + (if x.attempt = 3 then 1 else 0)
          ∧ (x.attempt = 3 → q.trouble.lastFallback = some ⟨x.instr, x.round, lp⟩)
          ∧ q.trouble.committed = r.trouble.committed + (if x.attempt ≠ 3 ∧ kinds ≠ 0 then 1 else 0)
          ∧ (r.prog.penCount = (enabledPens s k).length → ∀ e ∈ l, ∀ i v, outSlot x (s.pen (physPen s k e.1)) = some (i, v) →
              (tget Slot.reset (t.pen (physPen s k e.1)).slots i).entries = e.2.2.entries))
      ∧ (kinds ≠ 0 → kinds &&& kindNonFinite = 0 → w.policy ≠ 2 → reissueSlip r x w (a + 512) = none →
        ∃ t q y, exec (.stepVerdict k) s = .next t ∧ (t.part k).run = some q ∧ (t.part k).st = .running ∧ q.flight = []
          ∧ q.replay = some y ∧ y.instr = x.instr ∧ y.round = x.round ∧ y.issue = a + 512 ∧ q.doneInstr = r.doneInstr
          ∧ q.trouble.kindsSeen = r.trouble.kindsSeen ||| kinds
          ∧ (w.policy = 0 ∧ x.attempt < 2 → y.attempt = x.attempt + 1 ∧ y.assay = false
              ∧ q.trouble.replays = min (r.trouble.replays + 1) (2 ^ 32 - 1))
          ∧ (¬(w.policy = 0 ∧ x.attempt < 2) → y.attempt = 3 ∧ y.assay = true ∧ q.trouble.replays = r.trouble.replays)
          ∧ (t.part k).lag = a + 512 - nominalAc r (w.issue + roundOffset r.prog x.instr w x.round) ∧ t.hbm.t1 = s.hbm.t1)
      ∧ (kinds ≠ 0 → kinds &&& kindNonFinite = 0 → w.policy ≠ 2 → ∀ c, reissueSlip r x w (a + 512) = some c →
        ∃ t, exec (.stepVerdict k) s = .next t ∧ Slipped k c s t ∧ t.hbm.t1 = s.hbm.t1)
      ∧ (∀ e, l.find? (fun e => e.2.2.kinds &&& kindNonFinite != 0) = some e → kinds &&& kindNonFinite ≠ 0 →
        ∃ t q, exec (.stepVerdict k) s = .next t ∧ (t.part k).st = .quiesced ∧ (t.part k).run = some q ∧ q.flight = []
          ∧ q.ending = some ⟨stNonFinite, 0, 3, stepRefNum ⟨x.instr, x.round, e.1⟩⟩ ∧ q.trouble.nfRow = e.2.2.nfRow
          ∧ q.trouble.nfCol = e.2.2.nfCol ∧ q.trouble.nfStep = some ⟨x.instr, x.round, e.1⟩ ∧ t.hbm.t1 = s.hbm.t1)))
  ∧ (∀ (s : State) (k : Nat) (r : Run) (y : Replay) (w : TileWord) (e : Ecc), replayReady s k = some (r, y, w) →
    ∃ t q x, exec (.troubleReplay k e) s = .next t ∧ (t.part k).run = some q ∧ q.replay = none ∧ q.flight = r.flight ++ [x]
      ∧ x.instr = y.instr ∧ x.round = y.round ∧ x.attempt = y.attempt ∧ x.assay = y.assay ∧ x.issue = y.issue
      ∧ x.verdict = y.issue + verdictAc r.prog y.instr w y.assay y.round ∧ x.runlen = y.runlen ∧ x.epoch = y.epoch
      ∧ x.engineFault = eccFault w e ∧ (∀ i, i ≠ k → t.part i = s.part i) ∧ t.hbm = s.hbm ∧ t.host = s.host ∧ t.place = s.place)

/-- A drain frees its slot and stages its rows. R16, R17, R22, R62. -/
def Obligations.Drains : Prop :=
  ∀ (s : State) (k lp i : Nat) (r : Run) (w : TileWord) (q : Slot), drainReady s k lp = some (r, w, i, q) →
    (∃ t, exec (.drain k lp false) s = .next t ∧ tget Slot.reset (t.pen (physPen s k lp)).slots i = Slot.reset
      ∧ (∀ j, j ≠ i → tget Slot.reset (t.pen (physPen s k lp)).slots j = tget Slot.reset (s.pen (physPen s k lp)).slots j)
      ∧ (∀ p, p ≠ physPen s k lp → t.pen p = s.pen p) ∧ (t.pen (physPen s k lp)).rowu.drain = true
      ∧ (t.pen (physPen s k lp)).drainEnd = drainOver (s.pen (physPen s k lp)) q
      ∧ drainOver (s.pen (physPen s k lp)) q + 12 ≤ (t.pen (physPen s k lp)).wroteAt
      ∧ (t.pen (physPen s k lp)).spad = (s.pen (physPen s k lp)).spad ∧ t.hbm = s.hbm ∧ t.place = s.place ∧ t.host = s.host)
    ∧ ((s.part k).st = .running → r.ending = none →
      ∃ t, exec (.drain k lp true) s = .next t ∧ (t.pen (physPen s k lp)).haz = true ∧ Slipped k slipHazard s t
        ∧ tget Slot.reset (t.pen (physPen s k lp)).slots i = Slot.reset ∧ t.hbm.t1 = s.hbm.t1 ∧ t.place = s.place)

/-- The end of a RUN, and RUN.QUERY. R111, R132, R377, R390, R394. -/
def Obligations.RunEnds : Prop :=
  (∀ (s : State) (k : Nat) (r : Run), (s.part k).run = some r →
    (∀ g st, r.ending = none → r.decodeStop = none → r.prog.nWords ≤ r.doneInstr → r.flight = [] → storesDone r = true →
      (s.part k).st = .running → st = (if 0 < r.trouble.fallbacks then stTroubleFallback else stOk) →
      findProg s (fun x => x.job == .run k r.id) = some g →
      ∃ t, exec (.runComplete k) s = .next t ∧ Ended g st t
        ∧ bytesAt (t.mbx g.post.func g.post.mbx).data 0 88 = runRecord r.id 0 0 0 r.shift 0 (now s) r.trouble
        ∧ ((s.part k).waiting = none → (t.part k).run = none ∧ (t.part k).st = .idle)
        ∧ (∀ y, (s.part k).waiting = some y → (t.part k).run = some y ∧ (t.part k).waiting = none ∧ (t.part k).st = .accepted)
        ∧ (∀ p ∈ pensOf s k, (t.pen p).slots = [] ∧ (t.pen p).active = false) ∧ t.hbm.t1 = s.hbm.t1 ∧ t.hbm.t2 = s.hbm.t2)
    ∧ (∀ g e, r.ending = some e → (s.part k).quiescedAt < s.clock.beat → s.clock.acb = 0 →
      r.decodeStop = none ∨ e.status ≠ stBadArg ∨ e.code = 0 → findProg s (fun x => x.job == .run k r.id) = some g →
      ∃ t, exec (.runComplete k) s = .next t ∧ Ended g e.status t
        ∧ bytesAt (t.mbx g.post.func g.post.mbx).data 0 88 = runRecord r.id e.code e.whr e.index r.shift 0 (now s) r.trouble
        ∧ ((s.part k).waiting = none → (t.part k).run = none ∧ (t.part k).st = .idle)
        ∧ (∀ y, (s.part k).waiting = some y → (t.part k).run = some y ∧ (t.part k).waiting = none ∧ (t.part k).st = .accepted)
        ∧ (∀ p ∈ pensOf s k, (t.pen p).slots = [] ∧ (t.pen p).active = false) ∧ t.hbm.t1 = s.hbm.t1 ∧ t.hbm.t2 = s.hbm.t2)
    ∧ (∀ e j c, r.ending = some e → (s.part k).quiescedAt < s.clock.beat → s.clock.acb = 0 → r.decodeStop = some j →
      e.status = stBadArg → e.code ≠ 0 → ctxOf s r.ctx = some c →
      ∃ t d, exec (.runComplete k) s = .next t ∧ ctxOf t r.ctx = some d ∧ d.cancelled = true))
  ∧ (∀ (p : Post) (s : State) (k : Nat), Posts p rowRunQuery 1 s → k = postTarget p →
    (∀ r i st, (s.part k).run = some r → i = 0 ∨ i = r.id →
      ((s.part k).st = .accepted ∧ st = 2 ∨ (s.part k).st = .running ∧ st = 3 ∨ (s.part k).st = .quiesced ∧ st = 4) →
      ∃ t, exec (.runQuery p i) s = .next t
        ∧ Completed p stOk (leBytes 4 r.id ++ leBytes 1 st ++ zeros 3 ++ leBytes 4 r.ctx ++ zeros 4 ++ leBytes 8 r.startBeat
            ++ leBytes 8 (if st = 2 then 0 else tlyPartWord s k) ++ troubleBytes r.trouble) s t
        ∧ t.parts = s.parts ∧ t.pens = s.pens ∧ t.hbm = s.hbm)
    ∧ (∀ r, (s.part k).waiting = some r → r.id ≠ 0 → (∀ y, (s.part k).run = some y → y.id ≠ r.id) →
      ∃ t, exec (.runQuery p r.id) s = .next t
        ∧ Completed p stOk (leBytes 4 r.id ++ leBytes 1 1 ++ zeros 3 ++ leBytes 4 r.ctx ++ zeros 4 ++ leBytes 8 r.startBeat
            ++ leBytes 8 0 ++ troubleBytes r.trouble) s t
        ∧ t.parts = s.parts ∧ t.pens = s.pens ∧ t.hbm = s.hbm)
    ∧ ((s.part k).run = none →
      ∃ t, exec (.runQuery p 0) s = .next t ∧ Completed p stOk (zeros 32 ++ troubleBytes Trouble.reset) s t ∧ t.parts = s.parts)
    ∧ (∀ i, i ≠ 0 → (∀ y, (s.part k).run = some y → y.id ≠ i) → (∀ y, (s.part k).waiting = some y → y.id ≠ i) →
      ∃ t, exec (.runQuery p i) s = .next t ∧ Completed p stBadArg [] s t ∧ t.parts = s.parts))

/-- The states of the tally unit and what follows the loss of lock. R49 to R52; that the source is given up on unlock is log 33. -/
def Obligations.TallyStates : Prop :=
  (∀ (s : State) (z : Int),
    (s.tally.st = .acquiring → -200 ≤ z → z ≤ 200 →
      ∃ t, exec (.tallyLocked 0 z) s = .next t ∧ t.tally = { s.tally with st := .locked, hold := 0, phase := z, slew := z }
        ∧ t.clock = s.clock ∧ t.parts = s.parts ∧ t.hbm = s.hbm ∧ t.place = s.place ∧ t.ctxs = s.ctxs ∧ t.pens = s.pens)
    ∧ (∀ ns, s.tally.st = .acquiring → -200 ≤ z → z ≤ 200 → noRuns s = true →
      ∃ t, exec (.tallyLocked ns z) s = .next t ∧ t.tally.st = .locked ∧ t.clock.beat = (if ns = 0 then s.clock.beat else (tlyTime s + ns) / 50000)
        ∧ t.parts = s.parts ∧ t.hbm = s.hbm ∧ t.ctxs = s.ctxs ∧ t.pens = s.pens)
    ∧ (s.tally.st = .locked → z < -200 ∨ 200 < z →
      ∃ t, exec (.tallyUnlock z) s = .next t
        ∧ t.tally = { s.tally with st := .unlocked, selected := false, lostPending := true, phase := z, slew := z }
        ∧ t.clock = s.clock ∧ t.parts = s.parts ∧ t.hbm = s.hbm ∧ t.place = s.place ∧ t.ctxs = s.ctxs ∧ t.pens = s.pens)
    ∧ (s.tally.st = .locked → s.tally.source ≠ 3 →
      ∃ t, exec .tallySourceLost s = .next t ∧ t.tally = { s.tally with st := .holdover, hold := 0 }
        ∧ t.clock = s.clock ∧ t.parts = s.parts ∧ t.hbm = s.hbm ∧ t.place = s.place ∧ t.ctxs = s.ctxs ∧ t.pens = s.pens)
    ∧ (s.tally.st = .holdover → s.tally.selected = true → s.tally.hold < 200 → -200 ≤ z → z ≤ 200 →
      ∃ t, exec (.tallySourceReturn z) s = .next t ∧ t.tally = { s.tally with st := .locked, hold := 0, phase := z, slew := z }
        ∧ t.clock = s.clock ∧ t.parts = s.parts ∧ t.hbm = s.hbm ∧ t.place = s.place ∧ t.ctxs = s.ctxs ∧ t.pens = s.pens)
    ∧ (s.tally.st = .holdover → s.tally.hold = 200 → s.clock.acb = 0 →
      ∃ t, exec .holdoverExpired s = .next t ∧ t.tally = { s.tally with st := .unlocked, selected := false, lostPending := true }
        ∧ t.clock = s.clock ∧ t.parts = s.parts ∧ t.hbm = s.hbm ∧ t.place = s.place ∧ t.ctxs = s.ctxs ∧ t.pens = s.pens))
  ∧ (∀ (s : State), s.tally.lostPending = true → s.clock.acb = 0 →
    ∃ t, exec .tallyLostRunEnd s = .next t ∧ t.tally = { s.tally with lostPending := false } ∧ t.clock = s.clock
      ∧ t.hbm.t1 = s.hbm.t1 ∧ t.hbm.t2 = s.hbm.t2
      ∧ ∀ k < s.mode,
        (∀ y, (s.part k).waiting = some y → y.prog.fabric = true → (t.part k).waiting = none)
        ∧ ∀ r, (s.part k).run = some r →
          (r.prog.fabric = false → (t.part k).run = some r ∧ (t.part k).st = (s.part k).st)
          ∧ (r.prog.fabric = true → (s.part k).waiting = none → (t.part k).run = none ∧ (t.part k).st = .idle
            ∧ ((s.part k).st = .running ∨ (s.part k).st = .quiesced → (t.part k).cause = 6)
            ∧ ∀ g, Sole g s → findProg s (fun x => x.job == .run k r.id) = some g → Ended g stSlip t))

/-- TALLY_IN codes and PTP messages. R50, R51, R345, R346; that the code's grandmaster fields take no part in the election is log
33. -/
def Obligations.TallyInputs : Prop :=
  ∀ (s : State),
    (∀ (code : Nat) (phase z : Int), s.tally.input = 1 → code / 2 ^ 112 = crc16 (leBytes 14 (code % 2 ^ 112)) →
      z = phase - (divEven s.tally.inDelay 10 : Nat) →
      (s.tally.selected = false ∨ s.tally.source ≠ 1 →
        ∃ t, exec (.tallyCode code phase) s = .next t ∧ t = updTally (fun t => { t with codeMiss := 0 }) s)
      ∧ (s.tally.selected = true → s.tally.source = 1 → s.tally.st ≠ .locked ∨ (-200 ≤ z ∧ z ≤ 200) →
        ∃ t, exec (.tallyCode code phase) s = .next t ∧ t = updTally (fun t => { t with codeMiss := 0, phase := z, slew := z }) s)
      ∧ (s.tally.selected = true → s.tally.source = 1 → s.tally.st = .locked → z < -200 ∨ 200 < z →
        ∃ t, exec (.tallyCode code phase) s = .next t
          ∧ t.tally = { s.tally with codeMiss := 0, phase := z, slew := z, st := .unlocked, selected := false, lostPending := true }
          ∧ t.parts = s.parts ∧ t.hbm = s.hbm))
    ∧ (∀ code phase, s.tally.input ≠ 1 ∨ code / 2 ^ 112 ≠ crc16 (leBytes 14 (code % 2 ^ 112)) →
      exec (.tallyCode code phase) s = .next s)
    ∧ (s.tally.codeMiss = 4 → s.tally.selected = true → s.tally.source = 1 → s.tally.st = .locked →
      ∃ t, exec .tallyInLoss s = .next t ∧ t.tally = { s.tally with st := .holdover, hold := 0 } ∧ t.parts = s.parts ∧ t.hbm = s.hbm)
    ∧ (∀ (g m l : Nat) (z : Int), s.tally.selected = true → s.tally.source = 2 → s.tally.gate = g → gateEthernet s g = true → (s.gate g).st = 2 →
      z = ((l : Int) - (m : Int) + (s.tally.ptpOffset : Int) - (s.tally.pathDelayNs : Int)) * 100 →
      (∃ t, exec (.ptpMessage g (.sync m l)) s = .next t ∧ .delayRequest g ∈ t.out ∧ t.tally.phase = z ∧ t.tally.slew = z
        ∧ (s.tally.st = .locked ∧ (z < -200 ∨ 200 < z) → t.tally.st = .unlocked ∧ t.tally.lostPending = true)
        ∧ (¬(s.tally.st = .locked ∧ (z < -200 ∨ 200 < z)) → t.tally.st = s.tally.st ∧ t.tally.lostPending = s.tally.lostPending)
        ∧ t.parts = s.parts ∧ t.hbm = s.hbm)
      ∧ (∃ t, exec (.ptpMessage g (.followUp m l)) s = .next t ∧ t.tally.phase = z ∧ t.tally.slew = z
        ∧ (s.tally.st = .locked ∧ (z < -200 ∨ 200 < z) → t.tally.st = .unlocked ∧ t.tally.lostPending = true)
        ∧ (¬(s.tally.st = .locked ∧ (z < -200 ∨ 200 < z)) → t.tally.st = s.tally.st ∧ t.tally.lostPending = s.tally.lostPending)
        ∧ t.parts = s.parts ∧ t.hbm = s.hbm)
      ∧ exec (.ptpMessage g (.delayResponse m)) s = .next (updTally (fun u => { u with pathDelayNs := m }) s)
      ∧ exec (.ptpMessage g .other) s = .next s)
    ∧ (∀ g m, s.tally.selected = false ∨ s.tally.source ≠ 2 ∨ s.tally.gate ≠ g → exec (.ptpMessage g m) s = .next s)

/-- TALLY.CONFIG and SET_TIME. R50, R344, R347; that a SET_TIME whose conditions no longer hold is dropped is log 33. -/
def Obligations.TallyConfiguration : Prop :=
  (∀ (p : Post) (prio input delay offset set : Nat) (s u : State),
    u = updTally (fun t => { t with gmPrio := prio, input := input, inDelay := delay, ptpOffset := offset, setTime := set,
                                    setAt := s.clock.beat, codeMiss := 0 }) (taken p s) →
    Posts p rowTallyConfig 3 s →
    (3 < input ∨ input = 2 ∧ gateEthernet s 7 = false ∨ input = 3 ∧ gateEthernet s 15 = false →
      exec (.tallyConfig p prio input delay offset set) s = .next (finish p stBadArg [] (taken p s)))
    ∧ (input ≤ 3 → (input = 2 → gateEthernet s 7 = true) → (input = 3 → gateEthernet s 15 = true) →
      (set = 0 → ∃ t, exec (.tallyConfig p prio input delay offset set) s = .next t ∧ Completed p stOk [] s t
        ∧ t.tally.gmPrio = prio ∧ t.tally.input = input ∧ t.tally.inDelay = delay ∧ t.tally.ptpOffset = offset ∧ t.tally.setTime = 0
        ∧ (∀ c, bestCandidate u prio = some c → t.tally.selected = true ∧ t.tally.following = ⟨c.id, c.prio, c.steps, 0⟩
            ∧ (∀ g, c.gate = some g → t.tally.source = 0 ∧ t.tally.gate = g)
            ∧ (c.gate = none → (t.tally.source, t.tally.gate) = inputSource input))
        ∧ (bestCandidate u prio = none → t.tally.selected = false) ∧ t.parts = s.parts ∧ t.hbm = s.hbm ∧ t.pens = s.pens)
      ∧ (set ≠ 0 → set % 50000 ≠ 0 ∨ set ≤ 50000 * (s.clock.beat + 1) →
        exec (.tallyConfig p prio input delay offset set) s = .next (finish p stBadArg [] (taken p s)))
      ∧ (set % 50000 = 0 → 50000 * (s.clock.beat + 1) < set →
        noRuns s = false ∨ s.tally.st ≠ .unlocked ∨ isGrandmaster s prio = false →
        exec (.tallyConfig p prio input delay offset set) s = .next (finish p stBadState [] (taken p s)))
      ∧ (set % 50000 = 0 → 50000 * (s.clock.beat + 1) < set → noRuns s = true → s.tally.st = .unlocked →
        isGrandmaster s prio = true → exec (.tallyConfig p prio input delay offset set) s = .next (finish p stOk [] u))))
  ∧ (∀ (s : State), s.tally.setTime ≠ 0 → s.clock.acb = 0 → s.clock.beat = s.tally.setAt + 1 → s.tally.setTime % 50000 = 0 →
    50000 * s.clock.beat < s.tally.setTime →
    (maySetTime s = false → ∃ t, exec .setTimeApply s = .next t ∧ t.clock = s.clock ∧ t.tally.setTime = 0 ∧ t.parts = s.parts
      ∧ t.host.copies = s.host.copies ∧ t.pens = s.pens ∧ t.hbm = s.hbm ∧ t.ctxs = s.ctxs)
    ∧ (noRuns s = true → s.tally.st = .unlocked → isGrandmaster s s.tally.gmPrio = true →
    ∃ t, exec .setTimeApply s = .next t ∧ t.clock.beat = s.tally.setTime / 50000 ∧ t.clock.acb = 0 ∧ t.tally.setTime = 0
      ∧ t.clock.elapsed = s.clock.elapsed ∧ t.parts = s.parts ∧ t.pens = s.pens ∧ t.hbm = s.hbm ∧ t.ctxs = s.ctxs
      ∧ (∀ x ∈ s.host.copies, ∃ y ∈ t.host.copies, y.id = x.id ∧ y.since = x.since + (t.clock.beat - s.clock.beat))))

/-- PARTITION.CONFIG and PARTITION.QUERY. R381, R382, R438. -/
def Obligations.PartitionCommands : Prop :=
  ∀ (p : Post) (s : State),
    (∀ mode, Posts p rowPartitionConfig 1 s → mode ≠ 1 → mode ≠ 2 → mode ≠ 4 →
      exec (.partitionConfig p mode) s = .next (finish p stBadArg [] (taken p s)))
    ∧ (∀ mode, Posts p rowPartitionConfig 1 s → mode = 1 ∨ mode = 2 ∨ mode = 4 →
      (∃ c ∈ s.ctxs, c.cancelled = false) ∨ (∃ k, k < s.mode ∧ (s.part k).st ≠ .idle) →
      exec (.partitionConfig p mode) s = .next (finish p stBadState [] (taken p s)))
    ∧ (∀ mode, Posts p rowPartitionConfig 1 s → mode = 1 ∨ mode = 2 ∨ mode = 4 → (∀ c ∈ s.ctxs, c.cancelled = true) →
      (∀ k, k < s.mode → (s.part k).st = .idle) →
      ∃ t, exec (.partitionConfig p mode) s = .next t ∧ Accepted p (some (s.clock.beat + 401)) 0 0 (.partConfig mode) s t
        ∧ t.mode = mode ∧ (∀ k, k < mode → t.part k = Part.reset .resetting ((s.power.limit - floorWatts s) / mode))
        ∧ t.place.tensors = [] ∧ t.place.seqs = [] ∧ t.hbm = s.hbm ∧ t.pens = s.pens ∧ t.ctxs = s.ctxs)
    ∧ (Posts p rowPartitionQuery 1 s →
      exec (.partitionQuery p 0 0) s = .next (finish p stOk (partitionSummary s (postTarget p)) (taken p s)))
    ∧ (∀ first l, Posts p rowPartitionQuery 1 s → l = ((partCtxs s (postTarget p)).drop first).take 250 →
      exec (.partitionQuery p 1 first) s =
        .next (finish p stOk (leBytes 4 l.length ++ zeros 4 ++ l.flatMap (contextEntry s)) (taken p s)))

/-- RECOVER.DUMP, RECOVER.RESET, RECOVER.QUERY and DAYBOOK.READ. R416, R420, R424, R426 to R428; that TAKE is collected at the next
beat is log 52. -/
def Obligations.RecoveryCommands : Prop :=
  (∀ (p : Post) (s : State), Posts p rowRecoverDump 4 s →
    (∀ set, set = 0 ∨ set = 1 ∨ set = 2 → (set = 1 → (s.part p.part).st = .idle) →
      (set = 2 → lifeCode s ≠ 2 ∧ ∀ k, k < s.mode → (s.part k).st = .idle) →
      exec (.recoverDumpTake p 0 set) s = .next (start p none [] 0 p.part (.dumpTake p.part set)
        (updRecov (fun v => { v with takes := v.takes ++ [(p.part, set, s.clock.beat + 1)] }) (taken p s))))
    ∧ (lifeCode s = 2 → exec (.recoverDumpTake p 0 2) s = .next (finish p stDenied [] (taken p s)))
    ∧ (∀ slot addr off bytes, slot ≤ 3 → addr % 64 = 0 → off % 64 = 0 → 64 ≤ bytes → bytes % 64 = 0 → off + bytes ≤ slotBytes →
      (dumpAt s slot).valid = true →
      ∃ t, exec (.recoverDumpRead p slot 0 addr off bytes) s = .next t
        ∧ Accepted p none 0 0 (.dumpRead s.host.nextCopy slot) s t ∧ (dumpAt t slot).reading = true
        ∧ ∃ x ∈ t.host.copies, x.id = s.host.nextCopy ∧ x.dump = some slot ∧ x.hostAddr = addr ∧ x.va = off ∧ x.bytes = bytes ∧ x.done = 0)
    ∧ (∀ slot addr off bytes, slot ≤ 3 → (dumpAt s slot).valid = true →
      exec (.recoverDumpKeep p slot 0) s = .next (finish p stOk [] (updDump slot (fun d => { d with keep := true }) (taken p s)))
      ∧ exec (.recoverDumpRelease p slot 0) s = .next (finish p stOk [] (updDump slot (fun _ => Dump.reset) (taken p s)))
      ∧ (bytes < 64 ∨ slotBytes < bytes → addr % 64 = 0 → off % 64 = 0 →
        exec (.recoverDumpRead p slot 0 addr off bytes) s = .next (finish p stBadLength [] (taken p s))))
    ∧ (∀ slot, slot ≤ 3 → (dumpAt s slot).valid = false →
      exec (.recoverDumpKeep p slot 0) s = .next (finish p stBadState [] (taken p s))
      ∧ exec (.recoverDumpRelease p slot 0) s = .next (finish p stOk [] (taken p s))))
  ∧ (∀ (p : Post) (s : State),
    (∀ level part engine scope, Posts p rowRecoverReset 1 s →
      (level = 2 ∧ engineBit engine = some scope ∨ level = 3 ∧ part < s.mode ∧ scope = part ∨ (level = 4 ∨ level = 5) ∧ scope = part) →
      (scopeBusy s level part ((engineBit engine).getD 120) = false →
        exec (.recoverReset p level part engine) s = .next (start p none [] 0 0 (.resetStep level scope)
          (updRecov (fun v => { v with resetQueued := v.resetQueued ++ [(s.clock.beat + 2, level, scope, engine)] }) (taken p s))))
      ∧ (scopeBusy s level part ((engineBit engine).getD 120) = true →
        exec (.recoverReset p level part engine) s = .next (finish p stBadState [] (taken p s))))
    ∧ (∀ level part engine, Posts p rowRecoverReset 1 s → level < 2 ∨ 5 < level →
      exec (.recoverReset p level part engine) s = .next (finish p stBadArg [] (taken p s)))
    ∧ (∀ h, Posts p rowRecoverQuery 1 s → h = recoverHead s (postTarget p) →
      exec (.recoverQuery p) s = .next (finish p stOk (leBytes 1 h.1 ++ zeros 1 ++ leBytes 2 h.2.1 ++ leBytes 4 h.2.2.2.length
        ++ leBytes 8 h.2.2.1 ++ leBytes 16 (maskOf s.recov.fenced)
        ++ (if p.func = 0 then (List.range 4).flatMap fun i => slotSummary (dumpAt s i) else zeros 128)
        ++ padTo 512 ((h.2.2.2.take 64).flatMap fun x => leBytes 4 x.ctx ++ leBytes 1 x.state ++ zeros 3)
        ++ leBytes 8 ((tget none s.recov.lastHang (postTarget p)).getD (2 ^ 64 - 1)) ++ zeros 8) (taken p s)))
    ∧ (∀ fromSeq count a b, Posts p rowDaybookRead 2 s → 1 ≤ count → count ≤ 62 → s.recov.daybook.ring.head? = some a →
      s.recov.daybook.ring.getLast? = some b →
      ∃ l, exec (.daybookRead p fromSeq count) s = .next (finish p stOk (leBytes 8 a.seq ++ leBytes 8 b.seq ++ leBytes 4 l.length
          ++ zeros 4 ++ l.flatMap recordBytes) (taken p s))
        ∧ l.length ≤ count ∧ (∀ r ∈ l, r ∈ s.recov.daybook.ring)
        ∧ (∀ q, readFrom fromSeq a.seq b.seq = some q → l = readRecords s.recov.daybook.ring q count)
        ∧ (readFrom fromSeq a.seq b.seq = none → l = []))
    ∧ (∀ fromSeq count, Posts p rowDaybookRead 2 s → count = 0 ∨ 62 < count →
      exec (.daybookRead p fromSeq count) s = .next (finish p stBadLength [] (taken p s))))

/-- Steps of the ladder, their budgets, the bell monitor, dumps, and a period of corrected errors. R285, R400, R401, R405 to R407,
R410 to R413, R417, R420. -/
def Obligations.LadderEvents : Prop :=
  (∀ (s : State),
    (∀ e x, engineStep s e = some x → x.search = false → x.slot = none → x.redo = false →
      ∃ t, exec (.engineReady e) s = .next t
        ∧ ((∀ y ∈ x.suspects, y.state ≠ 0 ∧ y.state ≠ 1) → engineStep t e = none)
        ∧ ((∃ y ∈ x.suspects, y.state = 0) →
            engineStep t e = some { x with search := true, redo := false, turnAt := s.clock.elapsed + 1 })
        ∧ (engineClass e = 2 → (t.stack (e - 64)).st = if stackDisabled s (e - 64) then 3 else 2)
        ∧ (∀ k, (t.part k).run = (s.part k).run) ∧ t.hbm.t1 = s.hbm.t1
        ∧ ∀ g, Sole g s → g.job = .resetStep 2 e → Ended g stOk t)
    ∧ (∀ e h, nextSuspect s e = some h →
      ∃ t x, exec (.guiltyReplay e) s = .next t ∧ engineStep t e = some x ∧ (∀ y ∈ x.suspects, y.ctx = h → y.state = 1)
        ∧ ∀ k ∈ engineParts s e, ∀ r, (s.part k).run = some r → runWaits s k h = true → r.prog.fabric = false →
            (t.part k).st = .running ∧ (t.part k).retries = (s.part k).retries
              ∧ (t.part k).run = some { r with shift := max r.shift (shiftFor r (s.clock.beat + 1)) })
    ∧ (∀ k failed x, s.recov.steps.find? (fun x => x.level == 3 && x.part == k) = some x → x.slot = none → linesOpen s (2 ^ k) = false →
      ∃ t, exec (.partitionReady k failed) s = .next t
        ∧ (t.part k).st = (if s.power.thermalOn then .quiesced else .idle) ∧ (t.part k).run = none ∧ (t.part k).waiting = none
        ∧ (t.part k).budget = (s.part k).budget ∧ (t.part k).routes = (s.part k).routes
        ∧ (∀ y ∈ t.place.tensors, y.part ≠ k) ∧ (∀ y ∈ t.place.seqs, y.part ≠ k) ∧ (∀ y ∈ t.recov.steps, ¬(y.level = 3 ∧ y.part = k))
        ∧ (∀ p ∈ pensOf s k, (t.pen p).slots = [] ∧ (t.pen p).active = false)
        ∧ (∀ c ∈ t.ctxs, c.part = k → c.waits = 0) ∧ t.hbm.t1 = s.hbm.t1
        ∧ ∀ g, Sole g s → g.job = .resetStep 3 k → Ended g stOk t)
    ∧ (∀ h l, overdue s (.cancel h) = true → ((List.range 114).filter fun e => workOn s e h && (engineStep s e).isNone) = l →
      (∀ e ∈ l, recentLevel2 s e < 2) →
      ∃ t, exec (.ladderBudgetExpired (.cancel h)) s = .next t
        ∧ ∀ e ∈ l, ∃ x, engineStep t e = some x ∧ x.from_ = s.clock.elapsed ∧ x.search = false ∧ x.byCommand = false
          ∧ (l = [e] → x.suspects = suspectsOf s e))
    ∧ (∀ e x, engineStep s e = some x → x.search = false → x.from_ + 40 ≤ s.clock.elapsed →
      (engineClass e < 5 → stopping s = false → ∃ t, exec (.ladderBudgetExpired (.engine e)) s = .next t ∧ e ∈ t.recov.fenced
        ∧ (engineParts s e = [] → ∀ g, Sole g s → g.job = .resetStep 2 e → Ended g stOk t)
        ∧ (∀ k ∈ engineParts s e, (t.part k).st = .resetting))
      ∧ (5 ≤ engineClass e → (∀ y ∈ s.recov.steps, y.level ≠ 4) → (recentResets s).length < 2 → ∀ i, dumpSlot s = some i →
        ∃ t y, exec (.ladderBudgetExpired (.engine e)) s = .next t ∧ t.recov.steps = [y] ∧ y.level = 4 ∧ y.slot = some i
          ∧ (dumpAt t i).writing = true ∧ (∀ k < s.mode, (t.part k).st ≠ .running) ∧ t.hbm.t1 = s.hbm.t1))
    ∧ (∀ k x, s.recov.steps.find? (fun x => x.level == 3 && x.part == k) = some x → x.from_ + 400 ≤ s.clock.elapsed →
      (∀ y ∈ s.recov.steps, y.level ≠ 4) → (recentResets s).length < 2 → ∀ i, dumpSlot s = some i →
      ∃ t y, exec (.ladderBudgetExpired (.partition k)) s = .next t ∧ t.recov.steps = [y] ∧ y.level = 4 ∧ y.slot = some i
        ∧ (dumpAt t i).writing = true ∧ (∀ j < s.mode, (t.part j).st ≠ .running) ∧ t.hbm.t1 = s.hbm.t1)
    ∧ (64 ≤ s.recov.missed → s.recov.tripped = false →
      ∃ t, exec .bellTrip s = .next t ∧ t.recov.tripped = true ∧ t.recov.trips = min 255 (s.recov.trips + 1)
        ∧ ((∀ y ∈ s.recov.steps, y.level ≠ 4) → (recentResets s).length < 2 → ∀ i, dumpSlot s = some i →
            (dumpAt t i).writing = true ∧ (dumpAt t i).cause = 0x0100 ∧ ∀ k < s.mode, (t.part k).st ≠ .running))
    ∧ (∀ slot, (dumpAt s slot).writing = true →
      ∃ t, exec (.dumpWritten slot) s = .next t ∧ (dumpAt t slot).valid = true ∧ (dumpAt t slot).writing = false
        ∧ (s.recov.tripped = false → (dumpAt t slot).id = s.recov.daybook.next)
        ∧ ((∀ y ∈ s.recov.steps, y.level ≠ 4) → (dumpAt s slot).level ≠ 4 →
            (∀ y ∈ t.recov.steps, y.slot ≠ some slot) ∧ (∀ k, (t.part k).run = (s.part k).run) ∧ t.pens = s.pens)
        ∧ ((∃ y ∈ s.recov.steps, y.level = 4 ∧ y.slot = some slot) → t.power.stage ≠ .ready))
    ∧ (∀ k set b rest, s.recov.takes = (k, set, b) :: rest → b ≤ s.clock.beat →
      (∀ i, dumpSlot s = some i → ∃ t, exec .dumpTakeCollect s = .next t ∧ t.recov.takes = rest ∧ (dumpAt t i).writing = true
        ∧ (dumpAt t i).level = 0 ∧ (dumpAt t i).set = set ∧ t.parts = s.parts ∧ t.hbm = s.hbm)
      ∧ (dumpSlot s = none → ∃ t, exec .dumpTakeCollect s = .next t ∧ t.recov.takes = rest ∧ t.parts = s.parts ∧ t.hbm = s.hbm
        ∧ ∀ g, findProg s (fun y => y.job == .dumpTake k set) = some g → Ended g stBadState t)))
  ∧ (∀ (s : State), s.clock.acb = 0 → s.clock.beat % 20000 = 0 → s.recov.periodFrom ≠ s.clock.beat →
    ∃ t, exec .correctedPeriodEnd s = .next t ∧ t.recov.periodFrom = s.clock.beat ∧ t.recov.corrected = []
      ∧ (∀ c, (t.chan c).ce = 0 ∧ (t.chan c).pins = [] ∧ (t.chan c).dead0 = (s.chan c).dead0 ∧ (t.chan c).dead1 = (s.chan c).dead1
          ∧ (t.chan c).ue = (s.chan c).ue ∧ (t.chan c).trfail = (s.chan c).trfail)
      ∧ t.parts = s.parts ∧ t.place = s.place ∧ t.hbm.t1 = s.hbm.t1 ∧ t.hbm.t2 = s.hbm.t2 ∧ t.pens = s.pens)

/-- Beat boundaries and the start of a RUN. R47, R51, R56, R73, R392, R393, R400; what a boundary does in which order is log 46. -/
def Obligations.Boundaries : Prop :=
  ∀ (s : State) (alive : Bool) (hangs : List Hang), beating s = true → setTimeDue s = false → boundaryDue s = false →
    (∀ k < s.mode, beatDone s k = true) → beatOpen s = false →
    (∃ t, exec (.beatBoundary alive hangs) s = .next t ∧ t = beatBoundary alive hangs s)
    ∧ (hangs = [] → s.host.sampled = [] → s.recov.resetQueued = [] → (∀ i < 6, (s.pipe i).raised = false) →
      (∀ g < 16, gateUp s g = true → 100 * s.clock.beat < (s.gate g).lastIdle) →
      ∃ t, exec (.beatBoundary alive hangs) s = .next t ∧ t.clock = ⟨s.clock.beat + 1, 0, s.clock.elapsed + 1, 0⟩
        ∧ (alive = true → t.recov.missed = 0 ∧ t.recov.last = s.clock.beat % 2 ^ 48)
        ∧ (alive = false → t.recov.missed = min 64 (s.recov.missed + 1) ∧ t.recov.last = s.recov.last)
        ∧ (s.tally.st = .holdover → t.tally.hold = min 200 (s.tally.hold + 1) ∨ t.tally.st ≠ .holdover)
        ∧ (∀ k < s.mode, ∀ r, (s.part k).run = some r → r.decodeStop = none → r.ending = none →
          ((s.part k).st = .accepted → r.begun = true → r.startBeat ≤ s.clock.beat + 1 → (t.part k).st = .running)
          ∧ ((s.part k).st = .quiesced → (s.part k).retry = true → (s.part k).quiescedAt ≤ s.clock.beat → r.prog.fabric = false →
            stopping s = false → (t.part k).st = .running ∧ (t.part k).lag = 0 ∧ (t.part k).retries = min 255 ((s.part k).retries + 1)
              ∧ ∃ q, (t.part k).run = some q ∧ q.shift = max r.shift (shiftFor r (s.clock.beat + 1)))))

/-- Host writes to registers. R7, R39, R40, R299, R363, R366, R367, R448, R449; writes before readiness are log 40 and VMIN is log
52. -/
def Obligations.RegisterWrites : Prop :=
  ∀ (s : State) (v : Nat),
    (∀ f, s.power.stage = .ready → exec (.registerWrite (.events f) v) s =
      .next (updFunc f (fun u => { u with events := u.events &&& ~~~(BitVec.ofNat 32 v) }) s))
    ∧ (∀ t, s.power.stage ≠ .ready → inBar t = true → exec (.registerWrite t v) s = .next s)
    ∧ (∀ f m, s.power.stage = .ready →
      exec (.registerWrite (.mailboxPost f m) v) s = .next (updMbx f m (fun x => { x with post := v % 2 ^ 32 }) s)
      ∧ exec (.registerWrite (.mailboxCtrl f m) v) s = .next (updMbx f m (fun x => { x with ctrl := v % 2 ^ 32 }) s))
    ∧ (∀ f m o, s.power.stage = .ready → o + 8 ≤ 4032 → ∃ t, exec (.registerWrite (.mailboxData f m o) v) s = .next t
        ∧ bytesAt (t.mbx f m).data o 8 = leBytes 8 v ∧ (∀ i, i < o ∨ o + 8 ≤ i → tget 0 (t.mbx f m).data i = tget 0 (s.mbx f m).data i)
        ∧ (t.mbx f m).post = (s.mbx f m).post ∧ t.hbm = s.hbm ∧ t.parts = s.parts)
    ∧ (∀ f n w, s.power.stage = .ready → ∃ t, exec (.registerWrite (.msixMessage f n w) v) s = .next t
        ∧ tget 0 (t.func f).messages (4 * n + w) = v % 2 ^ 32 ∧ (t.func f).masked = (s.func f).masked ∧ t.out = s.out)
    ∧ (∃ t, exec (.registerWrite .pwrInput v) s = .next t
        ∧ (v.testBit 47 = true → t.power = { s.power with dip := false, vmin := 0 }) ∧ (v.testBit 47 = false → t.power = s.power))
    ∧ (∀ f n, s.power.stage = .ready → s.host.up = true → v % 2 = 0 → ∃ t, exec (.registerWrite (.msixMask f n) v) s = .next t
        ∧ n ∉ (t.func f).masked ∧ n ∉ (t.func f).pba ∧ (n ∈ (s.func f).pba → t.out = .msix f n :: s.out))
    ∧ (∀ f n, s.power.stage = .ready → v % 2 = 1 → ∃ t, exec (.registerWrite (.msixMask f n) v) s = .next t
        ∧ n ∈ (t.func f).masked ∧ t.out = s.out)
    ∧ (∀ p, ∃ t, exec (.registerWrite (.penState p) v) s = .next t
        ∧ (t.pen p).haz = ((s.pen p).haz && !v.testBit 24) ∧ (t.pen p).bcerr = ((s.pen p).bcerr && !v.testBit 25)
        ∧ (t.pen p).late = ((s.pen p).late && !v.testBit 26) ∧ (t.pen p).power = (s.pen p).power ∧ (t.pen p).slots = (s.pen p).slots
        ∧ (∀ j, j ≠ p → t.pen j = s.pen j) ∧ t.parts = s.parts ∧ t.hbm = s.hbm ∧ t.host = s.host)
    ∧ (∀ d, ∃ t, exec (.registerWrite (.drvStatus d) v) s = .next t
        ∧ (t.drover d).late = ((s.drover d).late && !v.testBit 9) ∧ (t.drover d).poison = ((s.drover d).poison && !v.testBit 10)
        ∧ (t.drover d).work = (s.drover d).work ∧ (t.drover d).lots = (s.drover d).lots ∧ (t.drover d).instr = (s.drover d).instr)
    ∧ (∀ c, ∃ t, exec (.registerWrite (.hbmChan c) v) s = .next t
        ∧ (t.chan c).trfail = ((s.chan c).trfail && !v.testBit 14) ∧ (t.chan c).ue = (s.chan c).ue ∧ (t.chan c).ce = (s.chan c).ce)

/-- POWER.BUDGET and POWER.QUERY. R437, R439, R440. -/
def Obligations.PowerCommands : Prop :=
  ∀ (p : Post) (limit : Nat) (budgets : List Nat) (s : State),
    (Posts p rowPowerBudget 2 s →
      (limit < floorWatts s + 100 ∨ 2400 < limit ∨ limit < floorWatts s + budgets.sum ∨ (∃ b ∈ budgets.drop s.mode, b ≠ 0) →
        exec (.powerBudget p limit budgets) s = .next (finish p stBadArg [] (taken p s)))
      ∧ (floorWatts s + 100 ≤ limit → limit ≤ 2400 → floorWatts s + budgets.sum ≤ limit → (∀ b ∈ budgets.drop s.mode, b = 0) →
        (budgetsBreak s budgets = true → exec (.powerBudget p limit budgets) s = .next (finish p stBadState [] (taken p s)))
        ∧ (budgetsBreak s budgets = false →
          ∃ t, exec (.powerBudget p limit budgets) s = .next t ∧ Completed p stOk [] s t ∧ t.power = { s.power with limit := limit }
            ∧ (∀ k, k < s.mode → t.part k = { s.part k with budget := budgets.getD k 0 })
            ∧ t.pens = s.pens ∧ t.place = s.place ∧ t.hbm = s.hbm ∧ t.ctxs = s.ctxs)))
    ∧ (Posts p rowPowerQuery 1 s →
      exec (.powerQuery p) s = .next (finish p stOk (leBytes 2 s.power.limit ++ leBytes 2 (floorWatts s) ++ leBytes 4 20000
        ++ (List.range 4).flatMap (fun k => leBytes 2 (if p.func = 0 ∨ p.func = k + 1 then (s.part k).budget else 0))
        ++ leBytes 8 (pwrInputWord s) ++ (List.range 10).flatMap (fun i => leBytes 4 (pwrTempWord s i))
        ++ leBytes 4 s.power.eLast ++ zeros 12) (taken p s)))

/-- Samples of the input supply, hold-up, power-on and PWR_EN. R429, R430, R432, R445, R449, R477. -/
def Obligations.SupplyEvents : Prop :=
  (∀ (v i : Nat) (s : State),
    ∃ t, exec (.supplySample v i) s = .next t
      ∧ (s.power.converters = false → t.power = { s.power with
          input := v, vin := v, iin := i, vmin := lowest s.power.vmin v, sampleSum := s.power.sampleSum + v * i, samples := s.power.samples + 1 }
          ∧ t.parts = s.parts ∧ t.host = s.host)
      ∧ (s.power.converters = true → s.power.supply ≠ 2 → v ≤ 62000 →
          t.power.vin = v ∧ t.power.iin = i ∧ t.power.samples = s.power.samples + 1
          ∧ t.power.sampleSum = s.power.sampleSum + v * i ∧ t.power.vmin = lowest s.power.vmin v ∧ t.parts = s.parts ∧ t.hbm = s.hbm
          ∧ t.power.supply = if v < 36000 then 2 else if v < 40000 then (if 100 ≤ s.power.dipSamples then 2 else 1)
              else if 60000 < v then 3 else 0)
      ∧ (s.power.converters = true → 62000 < v → t.power.needEnCycle = decide (s.power.supply = 2)
          ∧ t.power.stage = .off ∧ t.power.converters = false ∧ t.power.pwrgd = false ∧ t.hbm.t1 = []))
  ∧ (∀ (s : State),
    (s.power.converters = true → s.power.supply = 2 → levelFourDump s = false →
      (∀ i, dumpSlot s = some i → ∃ t, exec .holdUp s = .next t ∧ (dumpAt t i).writing = true ∧ (dumpAt t i).level = 4
        ∧ (∀ k < s.mode, (t.part k).st ≠ .running ∧ (t.part k).retry = false) ∧ t.hbm.t1 = s.hbm.t1 ∧ t.power = s.power)
      ∧ (dumpSlot s = none → ∃ t, exec .holdUp s = .next t ∧ t.power.stage = .off ∧ t.power.converters = false
        ∧ t.power.pwrgd = false ∧ t.power.needEnCycle = true ∧ t.hbm.t1 = []))
    ∧ (20 ≤ s.power.overBeats → s.power.overRecorded = false →
      ∃ t, exec .powerOver s = .next t ∧ t.power = { s.power with overRecorded := true } ∧ t.parts = s.parts ∧ t.pens = s.pens
        ∧ t.place = s.place ∧ t.hbm = s.hbm)
    ∧ (s.power.stage = .off → 40000 ≤ s.power.input → s.power.input ≤ 62000 → (s.power.needEnCycle = false ∨ s.power.pwrEn = false) →
      exec .powerOn s = .next (updPower (fun p => { p with
        stage := firstStage s.sec, stageAt := s.clock.elapsed, bootTimer := true, pwrEn := true, pwrgd := true
        converters := true, needEnCycle := false }) s))
    ∧ (s.power.converters = false → exec .pwrEnLow s = .next (updPower (fun p => { p with pwrEn := false, needEnCycle := false }) s))
    ∧ (s.power.converters = true →
      ∃ t, exec .pwrEnLow s = .next t ∧ t.power.stage = .off ∧ t.power.converters = false ∧ t.power.pwrEn = false
        ∧ t.power.needEnCycle = false ∧ t.hbm.t1 = []))

/-- Temperatures: warning, quiesce, trip and the end of a thermal quiesce. R441, R442, R450. -/
def Obligations.ThermalEvents : Prop :=
  ∀ (s : State),
    (∀ i temp, i < 30 →
      ∃ t, exec (.thermalSample i temp) s = .next t ∧ sensorTemp t i = temp ∧ (∀ j, j < 30 → j ≠ i → sensorTemp t j = sensorTemp s j)
        ∧ (i ∈ t.power.warned ↔ (if i < 10 then 100 else 90) ≤ temp)
        ∧ (i ∈ t.power.quiescePending ↔ (if i < 10 then 105 else 95) ≤ temp ∨ i ∈ s.power.quiescePending)
        ∧ (t.power.thermtrip = true ↔ (if i < 10 then 115 else 105) ≤ temp ∨ s.power.thermtrip = true)
        ∧ t.parts = s.parts ∧ t.pens = s.pens ∧ t.place = s.place ∧ t.host = s.host)
    ∧ (s.power.warnPending ≠ [] →
      ∃ t, exec .thermalWarning s = .next t ∧ t.power.warnPending = [] ∧ t.parts = s.parts ∧ t.pens = s.pens ∧ t.place = s.place
        ∧ t.hbm = s.hbm ∧ (∀ f, f < 5 → (t.func f).events.getLsbD evThermal = true)
        ∧ ∀ i, i < 10 → i ∈ s.power.warnPending → (dieTemp t i).warn = true)
    ∧ (s.power.quiescePending ≠ [] → s.power.thermalOn = false →
      ∃ t, exec .thermalQuiesce s = .next t ∧ t.power.thermalOn = true ∧ t.power.quiescePending = []
        ∧ t.power.thermalBy = s.power.quiescePending ∧ t.hbm.t1 = s.hbm.t1
        ∧ ∀ k < s.mode, (s.part k).st ≠ .resetting → (t.part k).st = .quiesced ∧ (t.part k).thermal = true
          ∧ (t.part k).run = none ∧ (t.part k).waiting = none
          ∧ ∀ r g, (s.part k).run = some r → findProg s (fun x => x.job == .run k r.id) = some g → Sole g s → Ended g stQuiesced t)
    ∧ (s.power.thermalOn = true → 200 ≤ s.power.coolBeats →
      ∃ t, exec .thermalClear s = .next t ∧ t.power.thermalOn = false ∧ t.power.thermalBy = [] ∧ t.hbm.t1 = s.hbm.t1
        ∧ (∀ i ∈ s.power.thermalBy, i < 10 → (dieTemp t i).hot = false)
        ∧ ∀ k < s.mode, (t.part k).thermal = false
          ∧ ((s.part k).thermal = true → (s.part k).st = .quiesced → (t.part k).st = .idle)
          ∧ ((s.part k).thermal = false → (t.part k).st = (s.part k).st))

/-- The steps of start-up. R286 to R288, R295, R438, R446, R448, R453, R454; the bound of start-up is log 52. -/
def Obligations.StartUp : Prop :=
  ∀ (s : State),
    (∀ slot i, s.power.stage = .verify → bootSlot s.sec = some (slot, i) →
      ∃ t, exec .firmwareVerify s = .next t ∧ t.power = { s.power with stage := .training } ∧ t.sec.running = some i ∧ t.sec.slot = slot
        ∧ t.sec.fallback = (slot != s.sec.prefer) ∧ t.parts = s.parts ∧ t.hbm = s.hbm ∧ t.host = s.host)
    ∧ (s.power.stage = .verify → bootSlot s.sec = none →
      exec .firmwareVerify s = .next (updPower (fun p => { p with stage := .recoveryWait, bootTimer := false }) s))
    ∧ (∀ failed errors, s.power.stage = .training →
      ∃ t, exec (.hbmTrainingDone failed errors) s = .next t ∧ t.power = { s.power with stage := .wipe } ∧ t.hbm.trial = []
        ∧ (∀ c, c ∈ t.hbm.mapped ↔ (c ∈ s.hbm.mapped ∧ ¬(c ∈ s.hbm.trial ∧ ∀ e ∈ errors, e.1 = c → e.2.2.2 = 0)) ∨ c ∈ failed)
        ∧ t.hbm.t1 = s.hbm.t1 ∧ t.hbm.t2 = s.hbm.t2 ∧ t.parts = s.parts)
    ∧ (s.power.stage = .wipe →
      ∃ t, exec .hbmWipeDone s = .next t ∧ t.power = { s.power with stage := .gates } ∧ (∀ a, tget 0 t.hbm.t1 a = 0)
        ∧ (∀ i, i < 20 → (t.stack i).st = if stackDisabled s i then 3 else 2) ∧ t.hbm.t2 = s.hbm.t2 ∧ t.parts = s.parts)
    ∧ (∀ failed, s.power.stage = .gates →
      ∃ t, exec (.startupReady failed) s = .next t ∧ t.power.stage = .ready ∧ t.power.bootTimer = false
        ∧ (∀ i, i < 64 → (t.pen i).power = if (s.pen i).power = 2 ∨ i ∈ failed then 2 else 1)
        ∧ (0 < s.mode → (t.part 0).budget = s.power.limit - floorWatts s) ∧ t.hbm.t1 = s.hbm.t1
        ∧ (failed = [] → t.place = s.place ∧ t.ctxs = s.ctxs ∧ t.recov.fenced = s.recov.fenced))
    ∧ (s.power.bootTimer = true → s.power.cycleReq = false → s.power.stage = .verify ∨ (s.power.stage = .training ∨ s.power.stage = .wipe ∨ s.power.stage = .gates) ∧
        s.power.stageAt + 48600 ≤ s.clock.elapsed →
      ∃ t, exec .bootTimerExpired s = .next t ∧ t.power = { s.power with cycleReq := true } ∧ t.parts = s.parts ∧ t.hbm = s.hbm)
    ∧ (s.power.cycleReq = false → s.power.stage ≠ .ready → s.power.stage ≠ .off → s.power.stage ≠ .recoveryWait → s.power.stage ≠ .erase →
      s.power.stageAt + 48600 ≤ s.clock.elapsed →
      ∃ t, exec (.ladderBudgetExpired .chip) s = .next t ∧ t.power = { s.power with cycleReq := true } ∧ t.hbm = s.hbm)

/-- SEC.KEY and SEC.QUERY. R460 to R462, R468; cryptography is opaque (log 11). -/
def Obligations.KeyCommands : Prop :=
  ∀ (p : Post) (slot id : Nat) (pub : List Byte) (s : State),
    (Posts p rowSecKey 19 s →
      (lifeCode s = 0 → exec (.secKeyInstall p slot id pub) s = .next (finish p stDenied [] (taken p s))
        ∧ exec (.secKeyRevoke p slot id pub) s = .next (finish p stDenied [] (taken p s)))
      ∧ (lifeCode s ≠ 0 → lifeCode s ≠ 4 → slot ≤ 15 → 1 ≤ id → id < 2 ^ 63 → (∀ i, i < 16 → i ≠ slot → (manifestKey s i).keyId ≠ id) →
        (Config.isPoint pub = true → (manifestKey s slot).keyId = 0 →
          exec (.secKeyInstall p slot id pub) s = .next (finish p stOk [] (updSec (fun x => { x with
            keys := tset ManifestKey.reset x.keys slot ⟨id, false, pub⟩
            measured := x.measured + 1 }) (taken p s))))
        ∧ (Config.isPoint pub = true → (manifestKey s slot).keyId ≠ 0 →
          exec (.secKeyInstall p slot id pub) s = .next (finish p stBadState [] (taken p s)))
        ∧ (Config.isPoint pub = false → exec (.secKeyInstall p slot id pub) s = .next (finish p stBadArg [] (taken p s)))
        ∧ ((∀ b ∈ pub, b = 0) → (manifestKey s slot).keyId = id →
          exec (.secKeyRevoke p slot id pub) s = .next (finish p stOk [] (updSec (fun x => { x with
            keys := tset ManifestKey.reset x.keys slot { manifestKey s slot with revoked := true }
            measured := x.measured + 1 }) (taken p s))))))
    ∧ (Posts p rowSecQuery 1 s → ∀ i, s.sec.running = some i →
      exec (.secQuery p) s = .next (finish p stOk (leBytes 4 (secStatusWord s) ++ leBytes 1 (slotSvn s.sec 0) ++ leBytes 1 (slotSvn s.sec 1)
        ++ zeros 2 ++ leBytes 8 (slotBuild s.sec.slotA) ++ leBytes 8 (slotBuild s.sec.slotB)
        ++ (List.range 16).flatMap (fun i => leBytes 8 ((manifestKey s i).keyId + 2 ^ 63 * boolNat (manifestKey s i).revoked))
        ++ imageDigest i) (taken p s)))

/-- LIFECYCLE.QUERY, LIFECYCLE.ADVANCE and the transition. R464, R465; the NONCE is a free value (log 8). -/
def Obligations.LifeCycle : Prop :=
  ∀ (p : Post) (s : State),
    (Posts p rowLifecycleQuery 1 s →
      ∃ t n, exec (.lifecycleQuery p) s = .next t ∧ n < 2 ^ 256 ∧ t.sec.nonce = some n ∧ t.sec.nonceIssued = true ∧ t.sec.entries = s.sec.entries
        ∧ Completed p stOk (leBytes 1 (lifeCode s) ++ leBytes 1 s.sec.entries.length ++ zeros 6 ++ leBytes 32 n ++ deviceDigest s) s t)
    ∧ (∀ target auth, Posts p rowLifecycleAdvance 18 s → mayAdvance s target = true →
      (needsAuth s target = false → ∀ b ∈ auth, b = 0) →
      (advanceDenied s target auth = true →
        exec (.lifecycleAdvance p target auth) s = .next (finish p stDenied [] (updSec (fun x => { x with nonce := none }) (taken p s))))
      ∧ (advanceDenied s target auth = false → anyBusy s = true →
        exec (.lifecycleAdvance p target auth) s = .next (finish p stBadState [] (updSec (fun x => { x with nonce := none }) (taken p s))))
      ∧ (advanceDenied s target auth = false → anyBusy s = false →
        exec (.lifecycleAdvance p target auth) s = .next (start p none [] 0 0 .lifecycle (updSec (fun x => { x with
          nonce := none
          accepted := some (target, s.clock.beat + 2) }) (taken p s)))))
    ∧ (∀ target auth, Posts p rowLifecycleAdvance 18 s → mayAdvance s target = false →
      exec (.lifecycleAdvance p target auth) s = .next (finish p stBadArg [] (updSec (fun x => { x with nonce := none }) (taken p s))))
    ∧ (∀ target b, s.sec.accepted = some (target, b) → b ≤ s.clock.beat → target ≠ 1 ∨ s.sec.entropyOk = true →
      ∃ t, exec .lifecycleCommit s = .next t ∧ t.sec.entries = s.sec.entries ++ [⟨target, false⟩] ∧ t.power.stage ≠ .ready)
    ∧ (s.power.stage = .erase →
      ∃ t, exec .lifecycleEraseDone s = .next t ∧ t.power = { s.power with stage := .verify } ∧ t.sec = { s.sec with keys := [] }
        ∧ t.recov.daybook = Daybook.reset ∧ t.recov.dumps = [] ∧ t.hbm.mapped = [] ∧ t.hbm.trial = [] ∧ t.parts = s.parts)

/-- Random numbers, SPDM, debug, and the management controller. R454, R458, R463, R467, R480 to R482; reply contents are opaque (log
12). -/
def Obligations.SecurityEvents : Prop :=
  (∀ (s : State),
    (2 ^ 20 ≤ s.sec.drbgRequests → exec .drbgReseed s = .next (updSec (fun x => { x with drbgRequests := 0 }) s))
    ∧ (s.power.stage ≠ .off → 116 ∉ s.recov.fenced → stopping s = false → (recentResets s).length < 2 → ∀ i, dumpSlot s = some i →
      ∃ t x, exec .entropyFail s = .next t ∧ t.sec.entropyOk = false ∧ t.recov.steps = [x] ∧ x.level = 4 ∧ x.engine = 116
        ∧ x.slot = some i ∧ (dumpAt t i).writing = true ∧ ∀ k < s.mode, (t.part k).st ≠ .running)
    ∧ (s.power.stage ≠ .off → stopping s = true →
      ∃ t, exec .entropyFail s = .next t ∧ t.sec = { s.sec with entropyOk := false } ∧ t.recov = s.recov ∧ t.hbm = s.hbm)
    ∧ (s.power.stage = .off → ∃ t, exec .entropyFail s = .next t ∧ t.sec = s.sec ∧ t.recov = s.recov)
    ∧ (∀ mctp code body, s.power.stage ≠ .off → s.power.stage ≠ .recoveryWait → (mctp = false → s.host.up = true) → spdmError s mctp code = false →
      ∃ t, exec (.spdmRequest mctp code body) s = .next t
        ∧ t.out = .spdm mctp false (Config.protocolReply (spdmNumber code) (spdmInput s code body)) :: s.out
        ∧ spdmSessions t mctp = (match code with
            | .keyExchange => spdmSessions s mctp + 1
            | .endSession => spdmSessions s mctp - 1
            | _ => spdmSessions s mctp)
        ∧ spdmSessions t (!mctp) = spdmSessions s (!mctp) ∧ t.parts = s.parts ∧ t.hbm = s.hbm ∧ t.host = s.host)
    ∧ (∀ mctp code body, s.power.stage ≠ .off → s.power.stage ≠ .recoveryWait → (mctp = false → s.host.up = true) → spdmError s mctp code = true →
      exec (.spdmRequest mctp code body) s = .next { s with out := .spdm mctp true [] :: s.out })
    ∧ (∀ n, s.power.stage ≠ .off → (lifeCode s = 2 ∨ lifeCode s = 4) →
      exec (.jtagInstruction (.debug n)) s = .next { updMgmt (fun m => { m with ir := .bypass }) s with out := .jtag .bypass :: s.out })
    ∧ (∀ n, s.power.stage ≠ .off → lifeCode s ≠ 2 → lifeCode s ≠ 4 →
      exec (.jtagInstruction (.debug n)) s = .next { updSec (fun x => { x with debugUsed := true })
        (updMgmt (fun m => { m with ir := .debug n }) s) with out := .jtag (.debug n) :: s.out }))
  ∧ (∀ (s : State), s.power.pwrgd = true →
    (s.mgmt.update = .none →
      exec .pldmRequestUpdate s = .next { updMgmt (fun m => { m with update := .requested }) s with out := .pldm true 1 :: s.out }
      ∧ (∀ i, exec (.pldmUpdateComponent i) s = .next { s with out := .pldm false 2 :: s.out }))
    ∧ (s.mgmt.update ≠ .none → exec .pldmRequestUpdate s = .next { s with out := .pldm false 1 :: s.out })
    ∧ (∀ i, s.mgmt.update ≠ .none → s.power.stage = .ready → s.sec.slot = 0 →
      ∃ t, exec (.pldmUpdateComponent i) s = .next t ∧ t.sec = { s.sec with slotB := some i }
        ∧ t.mgmt.update = (if imageAccepted s.sec i then .verified 1 else .requested)
        ∧ t.out = .pldm (imageAccepted s.sec i) 2 :: s.out ∧ t.power = s.power)
    ∧ (∀ i, s.mgmt.update ≠ .none → s.power.stage = .recoveryWait →
      ∃ t, exec (.pldmUpdateComponent i) s = .next t ∧ t.sec = { s.sec with slotA := some i } ∧ t.power = { s.power with stage := .verify }
        ∧ t.mgmt.update = (if imageAccepted s.sec i then .verified 0 else .requested))
    ∧ ((∀ slot, s.mgmt.update ≠ .verified slot) → exec .pldmActivateFirmware s = .next { s with out := .pldm false 3 :: s.out })
    ∧ (∀ slot, s.mgmt.update = .verified slot →
      exec .pldmActivateFirmware s = .next { updMgmt (fun m => { m with update := .none }) (updSec (fun x => { x with prefer := slot }) s) with
        out := .pldm true 3 :: s.out })
    ∧ (∀ on, s.power.stage ≠ .recoveryWait → exec (.pldmEventEnable on) s = .next (updMgmt (fun m => { m with eventsOn := on }) s))
    ∧ (∀ eid, exec (.mctpEndpointIdAssign eid) s = .next (updMgmt (fun m => { m with eid := eid }) s))
    ∧ (s.power.stage = .ready → s.clock.beat % 20000 = 0 → s.mgmt.refreshed ≠ s.clock.beat →
      ∃ t, exec .pldmSensorRefresh s = .next t ∧ (∀ id ∈ sensorIds, tget 0 t.mgmt.sensors id = sensorValue s id
          ∧ tget 0 t.mgmt.levels id = sensorLevel s id) ∧ t.mgmt.refreshed = s.clock.beat ∧ t.power = s.power ∧ t.parts = s.parts ∧ t.sec = s.sec))
end

