-- ==== Sys2Proof/Laws/Tables.lean ====
section
/-! SUPPORT. The laws of sparse tables and of byte memories: a read after a write, and the canonical form that every memory operation
keeps. -/

namespace Sys2Proof.Machine

/-! ## Reading -/

@[simp] theorem tget_nil {α : Type} (d : α) (k : Nat) : tget d ([] : Table α) k = d := rfl

theorem tget_cons {α : Type} (d : α) (e : Nat × α) (t : Table α) (k : Nat) :
    tget d (e :: t) k = if e.1 = k then e.2 else tget d t k := rfl

/-- A key below every listed key holds the default. -/
theorem tget_below {α : Type} (d : α) : ∀ (t : Table α) (b k : Nat), keysRise b t = true → k < b → tget d t k = d
  | [], _, _, _, _ => rfl
  | e :: t, b, k, h, hk => by
    simp only [keysRise, Bool.and_eq_true, decide_eq_true_eq] at h
    rw [tget_cons, if_neg (by omega)]
    exact tget_below d t (e.1 + 1) k h.2 (by omega)

theorem keysRise_mono {α : Type} : ∀ (t : Table α) (a b : Nat), a ≤ b → keysRise b t = true → keysRise a t = true
  | [], _, _, _, _ => rfl
  | e :: t, a, b, hab, h => by
    simp only [keysRise, Bool.and_eq_true, decide_eq_true_eq] at h ⊢
    exact ⟨by omega, h.2⟩

/-! ## Writing one key -/

@[simp] theorem tget_tput_same {α : Type} (d v : α) (k : Nat) : ∀ t : Table α, tget d (tput k v t) k = v
  | [] => by simp [tput, tget]
  | e :: t => by
    simp only [tput]
    split
    · simp [tget]
    · split
      · simp [tget]
      · rw [tget_cons, if_neg (by omega)]; exact tget_tput_same d v k t

theorem tget_tput_other {α : Type} (d v : α) {k j : Nat} (h : j ≠ k) : ∀ t : Table α, tget d (tput k v t) j = tget d t j
  | [] => by simp [tput, tget]; omega
  | e :: t => by
    simp only [tput]
    split
    · rw [tget_cons, if_neg (by simpa using h.symm)]
    · split
      · rename_i h1; rw [tget_cons, tget_cons, if_neg (by simpa using h.symm), if_neg (by rw [← h1]; exact h.symm)]
      · rw [tget_cons, tget_cons, tget_tput_other d v h t]

theorem tget_terase_other {α : Type} (d : α) {k j : Nat} (h : j ≠ k) : ∀ t : Table α, tget d (terase k t) j = tget d t j
  | [] => rfl
  | e :: t => by
    simp only [terase]
    split
    · rename_i h1; rw [tget_cons, if_neg (by omega), tget_terase_other d h t]
    · rw [tget_cons, tget_cons, tget_terase_other d h t]

@[simp] theorem tget_terase_same {α : Type} (d : α) (k : Nat) : ∀ t : Table α, tget d (terase k t) k = d
  | [] => rfl
  | e :: t => by
    simp only [terase]
    split
    · exact tget_terase_same d k t
    · rename_i h1; rw [tget_cons, if_neg h1, tget_terase_same d k t]

theorem tget_tset_other {α : Type} [DecidableEq α] (d v : α) (t : Table α) {k j : Nat} (h : j ≠ k) :
    tget d (tset d t k v) j = tget d t j := by
  unfold tset; split
  · exact tget_terase_other d h t
  · exact tget_tput_other d v h t

@[simp] theorem tget_tset_same {α : Type} [DecidableEq α] (d v : α) (t : Table α) (k : Nat) : tget d (tset d t k v) k = v := by
  unfold tset; split
  · rename_i hv; rw [hv]; exact tget_terase_same d k t
  · exact tget_tput_same d v k t

/-- A read after a write. -/
theorem tget_tset {α : Type} [DecidableEq α] (d v : α) (t : Table α) (k j : Nat) :
    tget d (tset d t k v) j = if j = k then v else tget d t j := by
  split
  · rename_i h; rw [h, tget_tset_same]
  · rename_i h; exact tget_tset_other d v t h

theorem tget_tupd {α : Type} [DecidableEq α] (d : α) (t : Table α) (k : Nat) (f : α → α) (j : Nat) :
    tget d (tupd d t k f) j = if j = k then f (tget d t k) else tget d t j := tget_tset d _ t k j

/-! ## The canonical form -/

theorem keysRise_tput {α : Type} (v : α) (k : Nat) : ∀ (t : Table α) (b : Nat), b ≤ k → keysRise b t = true →
    keysRise b (tput k v t) = true
  | [], b, hb, _ => by simp [tput, keysRise, hb]
  | e :: t, b, hb, h => by
    simp only [keysRise, Bool.and_eq_true, decide_eq_true_eq] at h
    simp only [tput]
    split
    · simp only [keysRise, Bool.and_eq_true, decide_eq_true_eq]; exact ⟨hb, by omega, h.2⟩
    · split
      · rename_i h1; simp only [keysRise, Bool.and_eq_true, decide_eq_true_eq]; exact ⟨hb, by rw [h1]; exact h.2⟩
      · simp only [keysRise, Bool.and_eq_true, decide_eq_true_eq]
        exact ⟨h.1, keysRise_tput v k t (e.1 + 1) (by omega) h.2⟩

theorem keysRise_terase {α : Type} (k : Nat) : ∀ (t : Table α) (b : Nat), keysRise b t = true → keysRise b (terase k t) = true
  | [], _, _ => rfl
  | e :: t, b, h => by
    simp only [keysRise, Bool.and_eq_true, decide_eq_true_eq] at h
    simp only [terase]
    split
    · exact keysRise_mono _ b (e.1 + 1) (by omega) (keysRise_terase k t _ h.2)
    · simp only [keysRise, Bool.and_eq_true, decide_eq_true_eq]; exact ⟨h.1, keysRise_terase k t _ h.2⟩

theorem all_tput {α : Type} (p : Nat × α → Bool) (v : α) (k : Nat) (hv : p (k, v) = true) : ∀ t : Table α, t.all p = true →
    (tput k v t).all p = true
  | [], _ => by simp [tput, hv]
  | e :: t, h => by
    simp only [List.all_cons, Bool.and_eq_true] at h
    simp only [tput]
    split
    · simp [hv, h.1, h.2]
    · split
      · simp [hv, h.2]
      · simp only [List.all_cons, Bool.and_eq_true]; exact ⟨h.1, all_tput p v k hv t h.2⟩

theorem all_terase {α : Type} (p : Nat × α → Bool) (k : Nat) : ∀ t : Table α, t.all p = true → (terase k t).all p = true
  | [], _ => rfl
  | e :: t, h => by
    simp only [List.all_cons, Bool.and_eq_true] at h
    simp only [terase]
    split
    · exact all_terase p k t h.2
    · simp only [List.all_cons, Bool.and_eq_true]; exact ⟨h.1, all_terase p k t h.2⟩

/-- A write keeps the canonical form. -/
theorem canon_tset {α : Type} [DecidableEq α] (d v : α) (t : Table α) (k : Nat) (h : Table.canon d t = true) :
    Table.canon d (tset d t k v) = true := by
  simp only [Table.canon, Bool.and_eq_true] at h ⊢
  unfold tset; split
  · exact ⟨keysRise_terase k t 0 h.1, all_terase _ k t h.2⟩
  · rename_i hv; exact ⟨keysRise_tput v k t 0 (Nat.zero_le _) h.1, all_tput _ v k (by simp [hv]) t h.2⟩

theorem keysRise_filter {α : Type} (p : Nat × α → Bool) : ∀ (t : Table α) (b : Nat), keysRise b t = true →
    keysRise b (t.filter p) = true
  | [], _, _ => rfl
  | e :: t, b, h => by
    simp only [keysRise, Bool.and_eq_true, decide_eq_true_eq] at h
    rw [List.filter_cons]
    split
    · simp only [keysRise, Bool.and_eq_true, decide_eq_true_eq]; exact ⟨h.1, keysRise_filter p t _ h.2⟩
    · exact keysRise_mono _ b (e.1 + 1) (by omega) (keysRise_filter p t _ h.2)

theorem all_filter_of_all {α : Type} (p q : α → Bool) (l : List α) (h : l.all q = true) : (l.filter p).all q = true := by
  simp only [List.all_eq_true, List.mem_filter] at h ⊢
  exact fun x hx => h x hx.1

/-- Dropping entries keeps the canonical form. -/
theorem canon_filter {α : Type} [DecidableEq α] (d : α) (p : Nat × α → Bool) (t : Table α) (h : Table.canon d t = true) :
    Table.canon d (t.filter p) = true := by
  simp only [Table.canon, Bool.and_eq_true] at h ⊢
  exact ⟨keysRise_filter p t 0 h.1, all_filter_of_all p _ t h.2⟩

/-! ## Concatenation -/

/-- Tables whose keys lie apart make a table. -/
theorem keysRise_append {α : Type} : ∀ (t u : Table α) (b m : Nat), keysRise b t = true → keysRise m u = true → b ≤ m →
    (∀ e ∈ t, e.1 < m) → keysRise b (t ++ u) = true
  | [], u, b, m, _, hu, hm, _ => keysRise_mono u b m hm hu
  | e :: t, u, b, m, ht, hu, _, hl => by
    simp only [keysRise, Bool.and_eq_true, decide_eq_true_eq] at ht
    simp only [List.cons_append, keysRise, Bool.and_eq_true, decide_eq_true_eq]
    exact ⟨ht.1, keysRise_append t u (e.1 + 1) m ht.2 hu (hl e (by simp)) fun x hx => hl x (by simp [hx])⟩

theorem tget_append {α : Type} (d : α) (k : Nat) : ∀ (t u : Table α), (∀ e ∈ t, e.1 ≠ k) → tget d (t ++ u) k = tget d u k
  | [], _, _ => rfl
  | e :: t, u, h => by
    rw [List.cons_append, tget_cons, if_neg (h e (by simp))]
    exact tget_append d k t u fun x hx => h x (by simp [hx])

theorem tget_append_left {α : Type} (d : α) (k : Nat) : ∀ (t u : Table α), (∀ e ∈ u, e.1 ≠ k) → tget d (t ++ u) k = tget d t k
  | [], u, h => by
    have := tget_append d k u [] h
    simpa using this
  | e :: t, u, h => by
    rw [List.cons_append, tget_cons, tget_cons, tget_append_left d k t u h]

theorem tget_filter {α : Type} (d : α) (p : Nat → Bool) (k : Nat) (hp : p k = true) : ∀ t : Table α,
    tget d (t.filter fun e => p e.1) k = tget d t k
  | [] => rfl
  | e :: t => by
    rw [List.filter_cons]
    split
    · rw [tget_cons, tget_cons, tget_filter d p k hp t]
    · rename_i h1
      rw [tget_cons, if_neg (by intro h2; rw [h2] at h1; exact h1 hp), tget_filter d p k hp t]

theorem tget_filter_out {α : Type} (d : α) (p : Nat → Bool) (k : Nat) (hp : p k = false) : ∀ t : Table α,
    tget d (t.filter fun e => p e.1) k = d
  | [] => rfl
  | e :: t => by
    rw [List.filter_cons]
    split
    · rename_i h1
      rw [tget_cons, if_neg (by intro h2; rw [h2, hp] at h1; exact absurd h1 (by simp)), tget_filter_out d p k hp t]
    · exact tget_filter_out d p k hp t

/-! ## Byte memories -/

theorem spell_rise : ∀ (d : List Byte) (a : Nat), keysRise a (spell a d) = true
  | [], _ => rfl
  | b :: d, a => by
    simp only [spell]
    split
    · exact keysRise_mono _ a (a + 1) (by omega) (spell_rise d (a + 1))
    · simp [keysRise, spell_rise d (a + 1)]

theorem spell_nonzero : ∀ (d : List Byte) (a : Nat), ((spell a d).all fun e => !decide (e.2 = 0)) = true
  | [], _ => rfl
  | b :: d, a => by
    simp only [spell]
    split
    · exact spell_nonzero d (a + 1)
    · rename_i h
      rw [List.all_cons, spell_nonzero d (a + 1), Bool.and_true]
      simpa using h

theorem spell_bound : ∀ (d : List Byte) (a : Nat), ∀ e ∈ spell a d, a ≤ e.1 ∧ e.1 < a + d.length
  | [], _, _, h => by simp [spell] at h
  | b :: d, a, e, h => by
    simp only [spell] at h
    split at h
    · have := spell_bound d (a + 1) e h; simp; omega
    · simp only [List.mem_cons] at h
      rcases h with h | h
      · subst h; simp
      · have := spell_bound d (a + 1) e h; simp; omega

theorem tget_spell : ∀ (d : List Byte) (a i : Nat), tget 0 (spell a d) (a + i) = d.getD i 0
  | [], _, _ => by simp [spell]
  | b :: d, a, 0 => by
    simp only [spell]
    split
    · rename_i h
      rw [tget_below 0 (spell (a + 1) d) (a + 1) (a + 0) (spell_rise d (a + 1)) (by omega)]; simp [h]
    · simp [tget]
  | b :: d, a, i + 1 => by
    have ih := tget_spell d (a + 1) i
    have e : a + (i + 1) = a + 1 + i := by omega
    simp only [spell]
    split
    · rw [e, ih]; simp
    · rw [tget_cons, if_neg (by simp), e, ih]; simp

/-- Writing bytes keeps the canonical form. -/
theorem putBytes_wf (t : Table Byte) (a : Nat) (d : List Byte) (h : Memory.wf t = true) : Memory.wf (putBytes t a d) = true := by
  simp only [Memory.wf, Table.canon, Bool.and_eq_true] at h ⊢
  have h1 := keysRise_filter (fun e : Nat × Byte => decide (e.1 < a)) t 0 h.1
  have h2 : keysRise (a + d.length) (t.filter fun e => decide (a + d.length ≤ e.1)) = true := by
    clear h1
    have key : ∀ (t : Table Byte) (b : Nat), keysRise b t = true →
        keysRise (a + d.length) (t.filter fun e => decide (a + d.length ≤ e.1)) = true := by
      intro t
      induction t with
      | nil => intro b _; rfl
      | cons e t ih =>
        intro b hb
        simp only [keysRise, Bool.and_eq_true, decide_eq_true_eq] at hb
        rw [List.filter_cons]
        split
        · rename_i hc
          simp only [decide_eq_true_eq] at hc
          simp only [keysRise, Bool.and_eq_true, decide_eq_true_eq]
          exact ⟨hc, keysRise_filter _ t _ hb.2⟩
        · exact ih _ hb.2
    exact key t 0 h.1
  refine ⟨?_, ?_⟩
  · unfold putBytes
    refine keysRise_append _ _ 0 (a + d.length) ?_ h2 (Nat.zero_le _) ?_
    · refine keysRise_append _ _ 0 a h1 (spell_rise d a) (Nat.zero_le _) ?_
      intro e he; simpa using (List.mem_filter.1 he).2
    · intro e he
      rcases List.mem_append.1 he with he | he
      · have := (List.mem_filter.1 he).2; simp at this; omega
      · exact (spell_bound d a e he).2
  · unfold putBytes
    rw [List.all_append, List.all_append, Bool.and_eq_true, Bool.and_eq_true]
    exact ⟨⟨all_filter_of_all _ _ t h.2, spell_nonzero d a⟩, all_filter_of_all _ _ t h.2⟩

/-- A byte read after a write: the byte written within the bytes written, and as before outside them. -/
theorem tget_putBytes (t : Table Byte) (a : Nat) (d : List Byte) (k : Nat) :
    tget 0 (putBytes t a d) k = if a ≤ k ∧ k < a + d.length then d.getD (k - a) 0 else tget 0 t k := by
  unfold putBytes
  by_cases h1 : k < a
  · rw [if_neg (by omega), List.append_assoc, tget_append_left]
    · exact tget_filter 0 (fun j => decide (j < a)) k (by simpa using h1) t
    · intro e he
      rcases List.mem_append.1 he with he | he
      · have := (spell_bound d a e he).1; omega
      · have := (List.mem_filter.1 he).2; simp at this; omega
  · rw [List.append_assoc, tget_append]
    · by_cases h2 : k < a + d.length
      · rw [if_pos ⟨by omega, h2⟩, tget_append_left]
        · have e : k = a + (k - a) := by omega
          rw [e, tget_spell]; congr 1; omega
        · intro e he; have := (List.mem_filter.1 he).2; simp at this; omega
      · rw [if_neg (by omega), tget_append]
        · exact tget_filter 0 (fun j => decide (a + d.length ≤ j)) k (by simp; omega) t
        · intro e he; have := (spell_bound d a e he).2; omega
    · intro e he; have := (List.mem_filter.1 he).2; simp at this; omega

end Sys2Proof.Machine
end

