-- ==== Sys2Proof/Laws/Kept.lean ====
section
/-! SUPPORT. What every operation of the machine keeps: the queue, a legal partition mode, the canonical form of the memories, and
the clock at rest. The files KeptN.lean hold one lemma per operation. -/

namespace Sys2Proof.Machine

/-- t keeps what the soundness of a state asks for, if s has it. -/
structure Keeps (s t : State) : Prop where
  pending : t.pending = s.pending
  mode : s.modeLegal = true → t.modeLegal = true
  t1 : Memory.wf s.hbm.t1 = true → Memory.wf s.hbm.t2 = true → Memory.wf t.hbm.t1 = true
  t2 : Memory.wf s.hbm.t1 = true → Memory.wf s.hbm.t2 = true → Memory.wf t.hbm.t2 = true
  lead : s.clock.lead = 0 → t.clock.lead = 0

theorem Keeps.refl (s : State) : Keeps s s := ⟨rfl, id, fun h _ => h, fun _ h => h, id⟩

theorem Keeps.trans {s t u : State} (h : Keeps s t) (k : Keeps t u) : Keeps s u :=
  ⟨k.pending.trans h.pending, fun m => k.mode (h.mode m), fun a b => k.t1 (h.t1 a b) (h.t2 a b),
    fun a b => k.t2 (h.t1 a b) (h.t2 a b), fun l => k.lead (h.lead l)⟩

/-- A change that leaves the queue, the mode, the memories and the lead alone. -/
theorem Keeps.upd {s t u : State} (h : Keeps s t) (hp : u.pending = t.pending) (hm : u.mode = t.mode)
    (h1 : u.hbm.t1 = t.hbm.t1) (h2 : u.hbm.t2 = t.hbm.t2) (hl : u.clock.lead = t.clock.lead) : Keeps s u := by
  refine ⟨hp.trans h.pending, ?_, ?_, ?_, ?_⟩
  · simp only [State.modeLegal, hm]; exact h.mode
  · rw [h1]; exact h.t1
  · rw [h2]; exact h.t2
  · rw [hl]; exact h.lead

/-- A change of the memories that keeps their form. -/
theorem Keeps.mem {s t u : State} (h : Keeps s t) (hp : u.pending = t.pending) (hm : u.mode = t.mode)
    (h1 : Memory.wf t.hbm.t1 = true → Memory.wf t.hbm.t2 = true → Memory.wf u.hbm.t1 = true)
    (h2 : Memory.wf t.hbm.t1 = true → Memory.wf t.hbm.t2 = true → Memory.wf u.hbm.t2 = true)
    (hl : u.clock.lead = t.clock.lead) : Keeps s u := by
  refine h.trans ⟨hp, ?_, h1, h2, ?_⟩
  · simp only [State.modeLegal, hm]; exact id
  · rw [hl]; exact id

theorem Keeps.of_snd {α : Type} {s u : State} {a : α} {p : α × State} (e : p = (a, u)) (h : Keeps s p.2) : Keeps s u := by
  rw [e] at h; exact h

theorem Keeps.of_fst {α : Type} {s u : State} {a : α} {p : State × α} (e : p = (u, a)) (h : Keeps s p.1) : Keeps s u := by
  rw [e] at h; exact h

theorem Keeps.ite {s t u : State} {c : Prop} [Decidable c] (a : Keeps s t) (b : Keeps s u) :
    Keeps s (if c then t else u) := by
  split
  · exact a
  · exact b

/-- The state that an answer carries. -/
def Reply.state : Reply → State
  | .done _ _ t => t
  | .accept _ _ _ _ _ t => t

/-- An answer whose state keeps what s has. -/
def Reply.Keeps (s : State) (r : Reply) : Prop := Machine.Keeps s r.state

theorem Reply.done_keeps {s t : State} (h : Machine.Keeps s t) (a : Nat) (b : List Byte) : Reply.Keeps s (.done a b t) := h

theorem Reply.accept_keeps {s t : State} (h : Machine.Keeps s t) (a : Option Nat) (b : List Byte) (c d : Nat) (j : Job) :
    Reply.Keeps s (.accept a b c d j t) := h

theorem Reply.ite {s : State} {t u : Reply} {c : Prop} [Decidable c] (a : Reply.Keeps s t) (b : Reply.Keeps s u) :
    Reply.Keeps s (if c then t else u) := by
  split
  · exact a
  · exact b

/-- A result whose next state, if there is one, keeps what s has. -/
def ResultKeeps (s : State) (r : Result State) : Prop := ∀ t, r = .next t → Keeps s t

theorem ResultKeeps.next {s t : State} (h : Keeps s t) : ResultKeeps s (.next t) := fun _ e => by cases e; exact h

theorem ResultKeeps.fault {s : State} (f : Fault) : ResultKeeps s (.fault f) := fun _ e => by cases e

theorem ResultKeeps.ite {s : State} {t u : Result State} {c : Prop} [Decidable c] (a : ResultKeeps s t)
    (b : ResultKeeps s u) : ResultKeeps s (if c then t else u) := by
  split
  · exact a
  · exact b

theorem event_keeps {s t : State} (n : String) (b : Bool) (h : Keeps s t) : ResultKeeps s (event n b t) := by
  unfold event
  split
  · exact ResultKeeps.next h
  · exact ResultKeeps.fault _

theorem forAll_keeps {α : Type} {s t : State} {f : α → State → State} (l : List α) (h : Keeps s t)
    (hf : ∀ a u, Keeps s u → Keeps s (f a u)) : Keeps s (forAll l f t) := by
  unfold forAll
  induction l generalizing t with
  | nil => exact h
  | cons a l ih => exact ih (hf a t h)

theorem foldl_keeps {α : Type} {s t : State} {f : State → α → State} (l : List α) (h : Keeps s t)
    (hf : ∀ u a, Keeps s u → Keeps s (f u a)) : Keeps s (l.foldl f t) := by
  induction l generalizing t with
  | nil => exact h
  | cons a l ih => exact ih (hf t a h)

/-! ## The memories -/

theorem clearRange_wf (pa n : Nat) (t : Table Byte) (h : Memory.wf t = true) : Memory.wf (clearRange pa n t) = true :=
  canon_filter 0 _ t h

theorem keysRise_tput_all (l : List (Nat × Byte)) (f : Nat × Byte → Nat) : ∀ t : Table Byte, Memory.wf t = true →
    (∀ e ∈ l, e.2 ≠ 0) → Memory.wf (l.foldl (fun t e => tput (f e) e.2 t) t) = true := by
  induction l with
  | nil => intro t h _; exact h
  | cons e l ih =>
    intro t h hl
    refine ih _ ?_ fun x hx => hl x (List.mem_cons_of_mem _ hx)
    have := canon_tset (0 : Byte) e.2 t (f e) h
    rwa [tset, if_neg (hl e List.mem_cons_self)] at this

theorem copyRange_wf (src : Table Byte) (a : Nat) (dst : Table Byte) (b n : Nat) (hs : Memory.wf src = true)
    (hd : Memory.wf dst = true) : Memory.wf (copyRange src a dst b n) = true := by
  unfold copyRange
  refine keysRise_tput_all _ (fun e => e.1 - a + b) _ (clearRange_wf _ _ _ hd) ?_
  intro e he
  have hm := List.mem_of_mem_filter he
  simp only [Memory.wf, Table.canon, Bool.and_eq_true, List.all_eq_true] at hs
  have := hs.2 e hm
  simpa using this

theorem nil_wf : Memory.wf [] = true := rfl

end Sys2Proof.Machine
end

