-- ==== Sys2Proof/Laws/KeptMemory.lean ====
section
/-! SUPPORT. What the operations keep (see Kept.lean): the common operations, memory, tiers, key-value sequences, tensors and the codec. -/

namespace Sys2Proof.Machine

/-! ## The operations of Ops.lean -/

theorem updPen_keeps {s t : State} (h : Keeps s t) : ∀ a0 a1, Keeps s (updPen a0 a1 t) := by
  intro a0 a1; unfold updPen
  repeat'
    first
    | exact h.upd rfl rfl rfl rfl rfl

theorem updPart_keeps {s t : State} (h : Keeps s t) : ∀ a0 a1, Keeps s (updPart a0 a1 t) := by
  intro a0 a1; unfold updPart
  repeat'
    first
    | exact h.upd rfl rfl rfl rfl rfl

theorem updDrover_keeps {s t : State} (h : Keeps s t) : ∀ a0 a1, Keeps s (updDrover a0 a1 t) := by
  intro a0 a1; unfold updDrover
  repeat'
    first
    | exact h.upd rfl rfl rfl rfl rfl

theorem updPlace_keeps {s t : State} (h : Keeps s t) : ∀ a0, Keeps s (updPlace a0 t) := by
  intro a0; unfold updPlace
  repeat'
    first
    | exact h.upd rfl rfl rfl rfl rfl

theorem updHbm_keeps {s t : State} (h : Keeps s t) (f : Hbm → Hbm) (h1 : (f t.hbm).t1 = t.hbm.t1)
    (h2 : (f t.hbm).t2 = t.hbm.t2) : Keeps s (updHbm f t) :=
  h.upd rfl rfl h1 h2 rfl

/-- A change of the stacked memory that keeps the memories' form. -/
theorem updHbm_mem {s t : State} (h : Keeps s t) (f : Hbm → Hbm)
    (h1 : Memory.wf t.hbm.t1 = true → Memory.wf t.hbm.t2 = true → Memory.wf (f t.hbm).t1 = true)
    (h2 : Memory.wf t.hbm.t1 = true → Memory.wf t.hbm.t2 = true → Memory.wf (f t.hbm).t2 = true) : Keeps s (updHbm f t) :=
  h.mem rfl rfl h1 h2 rfl

theorem updCodec_keeps {s t : State} (h : Keeps s t) : ∀ a0, Keeps s (updCodec a0 t) := by
  intro a0; unfold updCodec
  repeat'
    first
    | exact h.upd rfl rfl rfl rfl rfl

theorem updFabric_keeps {s t : State} (h : Keeps s t) : ∀ a0, Keeps s (updFabric a0 t) := by
  intro a0; unfold updFabric
  repeat'
    first
    | exact h.upd rfl rfl rfl rfl rfl

theorem updHost_keeps {s t : State} (h : Keeps s t) : ∀ a0, Keeps s (updHost a0 t) := by
  intro a0; unfold updHost
  repeat'
    first
    | exact h.upd rfl rfl rfl rfl rfl

theorem updRecov_keeps {s t : State} (h : Keeps s t) : ∀ a0, Keeps s (updRecov a0 t) := by
  intro a0; unfold updRecov
  repeat'
    first
    | exact h.upd rfl rfl rfl rfl rfl

theorem updPower_keeps {s t : State} (h : Keeps s t) : ∀ a0, Keeps s (updPower a0 t) := by
  intro a0; unfold updPower
  repeat'
    first
    | exact h.upd rfl rfl rfl rfl rfl

theorem updSec_keeps {s t : State} (h : Keeps s t) : ∀ a0, Keeps s (updSec a0 t) := by
  intro a0; unfold updSec
  repeat'
    first
    | exact h.upd rfl rfl rfl rfl rfl

theorem updMgmt_keeps {s t : State} (h : Keeps s t) : ∀ a0, Keeps s (updMgmt a0 t) := by
  intro a0; unfold updMgmt
  repeat'
    first
    | exact h.upd rfl rfl rfl rfl rfl

theorem updTally_keeps {s t : State} (h : Keeps s t) : ∀ a0, Keeps s (updTally a0 t) := by
  intro a0; unfold updTally
  repeat'
    first
    | exact h.upd rfl rfl rfl rfl rfl

theorem updCtxs_keeps {s t : State} (h : Keeps s t) : ∀ a0, Keeps s (updCtxs a0 t) := by
  intro a0; unfold updCtxs
  repeat'
    first
    | exact h.upd rfl rfl rfl rfl rfl

theorem updFunc_keeps {s t : State} (h : Keeps s t) : ∀ a0 a1, Keeps s (updFunc a0 a1 t) := by
  intro a0 a1; unfold updFunc
  repeat'
    first
    | with_reducible assumption | with_reducible apply updHost_keeps

theorem updMbx_keeps {s t : State} (h : Keeps s t) : ∀ a0 a1 a2, Keeps s (updMbx a0 a1 a2 t) := by
  intro a0 a1 a2; unfold updMbx
  repeat'
    first
    | with_reducible assumption | with_reducible apply updFunc_keeps

theorem updGate_keeps {s t : State} (h : Keeps s t) : ∀ a0 a1, Keeps s (updGate a0 a1 t) := by
  intro a0 a1; unfold updGate
  repeat'
    first
    | with_reducible assumption | with_reducible apply updFabric_keeps

theorem updChan_keeps {s t : State} (h : Keeps s t) : ∀ a0 a1, Keeps s (updChan a0 a1 t) := by
  intro a0 a1; unfold updChan
  repeat'
    first
    | with_reducible assumption | with_reducible refine updHbm_keeps ?_ _ rfl rfl

theorem updStack_keeps {s t : State} (h : Keeps s t) : ∀ a0 a1, Keeps s (updStack a0 a1 t) := by
  intro a0 a1; unfold updStack
  repeat'
    first
    | with_reducible assumption | with_reducible refine updHbm_keeps ?_ _ rfl rfl

theorem updPipe_keeps {s t : State} (h : Keeps s t) : ∀ a0 a1, Keeps s (updPipe a0 a1 t) := by
  intro a0 a1; unfold updPipe
  repeat'
    first
    | with_reducible assumption | with_reducible apply updCodec_keeps

theorem updCtx_keeps {s t : State} (h : Keeps s t) : ∀ a0 a1, Keeps s (updCtx a0 a1 t) := by
  intro a0 a1; unfold updCtx
  repeat'
    first
    | with_reducible assumption | with_reducible apply updCtxs_keeps

theorem updRun_keeps {s t : State} (h : Keeps s t) : ∀ a0 a1, Keeps s (updRun a0 a1 t) := by
  intro a0 a1; unfold updRun
  repeat'
    first
    | with_reducible assumption | with_reducible apply updPart_keeps

theorem emit_keeps {s t : State} (h : Keeps s t) : ∀ a0, Keeps s (emit a0 t) := by
  intro a0; unfold emit
  repeat'
    first
    | exact h.upd rfl rfl rfl rfl rfl

theorem fresh_keeps {s t : State} (h : Keeps s t) : Keeps s (fresh t).2 := by
  unfold fresh
  repeat'
    first
    | exact h.upd rfl rfl rfl rfl rfl

-- hand setLead

theorem noteChange_keeps {s t : State} (h : Keeps s t) : ∀ a0 a1, Keeps s (noteChange a0 a1 t) := by
  intro a0 a1; unfold noteChange
  repeat'
    first
    | with_reducible assumption | (intro _) | with_reducible apply Keeps.ite | with_reducible apply updPart_keeps

theorem sendVector_keeps {s t : State} (h : Keeps s t) : ∀ a0 a1, Keeps s (sendVector a0 a1 t) := by
  intro a0 a1; unfold sendVector
  repeat'
    first
    | with_reducible assumption | with_reducible apply Keeps.ite | with_reducible apply emit_keeps
    | with_reducible apply updFunc_keeps

theorem setEvent_keeps {s t : State} (h : Keeps s t) : ∀ a0 a1, Keeps s (setEvent a0 a1 t) := by
  intro a0 a1; unfold setEvent
  repeat'
    first
    | with_reducible assumption | with_reducible apply Keeps.ite | with_reducible apply sendVector_keeps
    | with_reducible apply updFunc_keeps

theorem partEvent_keeps {s t : State} (h : Keeps s t) : ∀ a0 a1, Keeps s (partEvent a0 a1 t) := by
  intro a0 a1; unfold partEvent
  repeat'
    first
    | with_reducible assumption | with_reducible apply setEvent_keeps

theorem allEvent_keeps {s t : State} (h : Keeps s t) : ∀ a0, Keeps s (allEvent a0 t) := by
  intro a0; unfold allEvent
  repeat'
    first
    | with_reducible assumption | (intro _) | with_reducible apply forAll_keeps | with_reducible apply setEvent_keeps

theorem appendRecord_keeps {s t : State} (h : Keeps s t) : ∀ a0, Keeps s (appendRecord a0 t) := by
  intro a0; unfold appendRecord
  repeat'
    first
    | with_reducible assumption | with_reducible apply setEvent_keeps | with_reducible apply updRecov_keeps

theorem deferRecord_keeps {s t : State} (h : Keeps s t) : ∀ a0, Keeps s (deferRecord a0 t) := by
  intro a0; unfold deferRecord
  repeat'
    first
    | with_reducible assumption | (intro _) | with_reducible apply updRecov_keeps

theorem daybook_keeps {s t : State} (h : Keeps s t) : ∀ a0 a1 a2 a3 a4, Keeps s (daybook a0 a1 a2 a3 a4 t) := by
  intro a0 a1 a2 a3 a4; unfold daybook
  repeat'
    first
    | with_reducible assumption | (intro _) | with_reducible apply Keeps.ite | with_reducible apply deferRecord_keeps
    | with_reducible apply appendRecord_keeps | with_reducible apply updRecov_keeps

theorem writeCompletion_keeps {s t : State} (h : Keeps s t) : ∀ a0 a1 a2 a3 a4 a5 a6, Keeps s (writeCompletion a0 a1 a2 a3 a4 a5 a6 t) := by
  intro a0 a1 a2 a3 a4 a5 a6; unfold writeCompletion
  repeat'
    first
    | with_reducible assumption | with_reducible apply Keeps.ite | with_reducible apply updMbx_keeps
    | with_reducible apply sendVector_keeps

theorem samplePost_keeps {s t : State} (h : Keeps s t) : ∀ a0 a1, Keeps s (samplePost a0 a1 t) := by
  intro a0 a1; unfold samplePost
  repeat'
    first
    | with_reducible assumption | with_reducible apply updMbx_keeps

theorem completeNow_keeps {s t : State} (h : Keeps s t) : ∀ a0 a1 a2, Keeps s (completeNow a0 a1 a2 t) := by
  intro a0 a1 a2; unfold completeNow
  repeat'
    first
    | with_reducible assumption | with_reducible apply writeCompletion_keeps

theorem answer_keeps {s : State} {r : Reply} (h : Reply.Keeps s r) (p : Post) : Keeps s (answer p r) := by
  cases r with
  | done st res t => exact completeNow_keeps h p st res
  | accept due res c k j t =>
    simp only [answer]
    exact updHost_keeps (writeCompletion_keeps h _ _ _ _ _ _ _) _

theorem mailbox_keeps {s t : State} (h : Keeps s t) (p : Post) (r : CmdRow) (units : Nat) (body : State → Reply)
    (hb : ∀ a u, Keeps a u → Reply.Keeps a (body u)) : Keeps s (mailbox p r units body t) := by
  unfold mailbox
  apply Keeps.ite h
  split
  · exact completeNow_keeps (samplePost_keeps h _ _) _ _ _
  · have k := answer_keeps (hb _ _ (Keeps.refl (setLead 1 (samplePost p false t)))) p
    have g := samplePost_keeps h p false
    exact ⟨k.pending.trans g.pending, fun m => k.mode (g.mode m), fun a b => k.t1 (g.t1 a b) (g.t2 a b),
      fun a b => k.t2 (g.t1 a b) (g.t2 a b), fun _ => rfl⟩

theorem completeProg_keeps {s t : State} (h : Keeps s t) : ∀ a0 a1 a2, Keeps s (completeProg a0 a1 a2 t) := by
  intro a0 a1 a2; unfold completeProg
  repeat'
    first
    | with_reducible assumption | with_reducible apply writeCompletion_keeps | with_reducible apply updHost_keeps

theorem completeAll_keeps {s t : State} (h : Keeps s t) : ∀ a0 a1, Keeps s (completeAll a0 a1 t) := by
  intro a0 a1; unfold completeAll
  repeat'
    first
    | with_reducible assumption | (intro _) | with_reducible apply forAll_keeps | with_reducible apply completeProg_keeps

theorem withCtx_keeps {s t : State} (h : Keeps s t) (p : Post) (c : Nat) (k : Ctx → State → Reply)
    (hk : ∀ c u, Keeps s u → Reply.Keeps s (k c u)) : Reply.Keeps s (withCtx p c k t) := by
  unfold withCtx
  split
  · exact h
  · exact hk _ _ h

/-! ## The operations of Memory.lean -/

theorem endRead_keeps {s t : State} (h : Keeps s t) : ∀ a0, Keeps s (endRead a0 t) := by
  intro a0; unfold endRead
  repeat'
    first
    | with_reducible assumption | (intro _) | with_reducible refine updHbm_keeps ?_ _ rfl rfl

theorem poisonSector_keeps {s t : State} (h : Keeps s t) : ∀ a0, Keeps s (poisonSector a0 t) := by
  intro a0; unfold poisonSector
  repeat'
    first
    | with_reducible assumption | (intro _) | with_reducible apply Keeps.ite | with_reducible apply forAll_keeps
    | with_reducible refine updHbm_keeps ?_ _ rfl rfl | with_reducible apply updStack_keeps

theorem updTensor_keeps {s t : State} (h : Keeps s t) : ∀ a0 a1, Keeps s (updTensor a0 a1 t) := by
  intro a0 a1; unfold updTensor
  repeat'
    first
    | with_reducible assumption | with_reducible apply updPlace_keeps

theorem updBale_keeps {s t : State} (h : Keeps s t) : ∀ a0 a1 a2, Keeps s (updBale a0 a1 a2 t) := by
  intro a0 a1 a2; unfold updBale
  repeat'
    first
    | with_reducible assumption | with_reducible apply updTensor_keeps

theorem pokeT1_keeps {s t : State} (h : Keeps s t) (pa : Nat) (d : List Byte) : Keeps s (pokeT1 pa d t) :=
  updHbm_mem h _ (fun a _ => putBytes_wf _ _ _ a) (fun _ b => b)

theorem writeT1_keeps {s t : State} (h : Keeps s t) : ∀ a0 a1, Keeps s (writeT1 a0 a1 t) := by
  intro a0 a1; unfold writeT1
  repeat'
    first
    | with_reducible assumption | with_reducible apply pokeT1_keeps | with_reducible apply updBale_keeps | dsimp only | split

theorem zeroFrame_keeps {s t : State} (h : Keeps s t) (f : Nat) : Keeps s (zeroFrame f t) :=
  updHbm_mem h _ (fun a _ => clearRange_wf _ _ _ a) (fun _ b => b)

theorem zeroPage_keeps {s t : State} (h : Keeps s t) (pa : Nat) : Keeps s (zeroPage pa t) :=
  updHbm_mem h _ (fun a _ => clearRange_wf _ _ _ a) (fun _ b => b)

theorem copyT1_keeps {s t : State} (h : Keeps s t) : ∀ a0 a1 a2, Keeps s (copyT1 a0 a1 a2 t) := by
  intro a0 a1 a2; unfold copyT1
  repeat'
    first
    | with_reducible assumption | (intro _) | with_reducible apply forAll_keeps | with_reducible apply endRead_keeps
    | with_reducible apply poisonSector_keeps | with_reducible apply pokeT1_keeps

theorem unmarkFrame_keeps {s t : State} (h : Keeps s t) : ∀ a0, Keeps s (unmarkFrame a0 t) := by
  intro a0; unfold unmarkFrame
  repeat'
    first
    | with_reducible assumption | with_reducible refine updHbm_keeps ?_ _ rfl rfl

theorem writeVa_keeps {s t : State} (h : Keeps s t) : ∀ a0 a1 a2, Keeps s (writeVa a0 a1 a2 t) := by
  intro a0 a1 a2; unfold writeVa
  repeat'
    first
    | with_reducible assumption | (intro _) | with_reducible apply forAll_keeps | with_reducible apply writeT1_keeps | split

/-! ## The operations of Tiers.lean -/

theorem finishTier_keeps {s t : State} (h : Keeps s t) : Keeps s (finishTier t) := by
  unfold finishTier
  repeat'
    first
    | with_reducible assumption | (intro _) | with_reducible apply forAll_keeps | with_reducible apply completeProg_keeps
    | dsimp only | split

theorem settle_keeps {s t : State} (h : Keeps s t) : ∀ a0 a1 a2 a3, Keeps s (settle a0 a1 a2 a3 t) := by
  intro a0 a1 a2 a3; unfold settle
  repeat'
    first
    | with_reducible assumption | with_reducible apply finishTier_keeps | with_reducible apply updHost_keeps

theorem lowerTierRecord_keeps {s t : State} (h : Keeps s t) : ∀ a0 a1 a2 a3 a4, Keeps s (lowerTierRecord a0 a1 a2 a3 a4 t) := by
  intro a0 a1 a2 a3 a4; unfold lowerTierRecord
  repeat'
    first
    | with_reducible assumption | with_reducible apply daybook_keeps

theorem finishAllocs_keeps {s t : State} (h : Keeps s t) : Keeps s (finishAllocs t) := by
  unfold finishAllocs
  repeat'
    first
    | with_reducible assumption | (intro _) | with_reducible apply Keeps.ite | with_reducible apply forAll_keeps
    | with_reducible apply completeProg_keeps | with_reducible apply updTensor_keeps | split

theorem entryChange_keeps {s t : State} (h : Keeps s t) : ∀ a0, Keeps s (entryChange a0 t) := by
  intro a0; unfold entryChange
  repeat'
    first
    | with_reducible assumption | (intro _) | with_reducible apply noteChange_keeps | dsimp only | split

theorem toT2_keeps {s t : State} (h : Keeps s t) : ∀ a0 a1, Keeps s (toT2 a0 a1 t) := by
  intro a0 a1; unfold toT2
  repeat'
    first
    | with_reducible assumption | (intro _) | with_reducible apply updBale_keeps | with_reducible apply entryChange_keeps
    | with_reducible apply unmarkFrame_keeps | dsimp only | split

theorem evictBale_keeps {s t : State} (h : Keeps s t) : ∀ a0 a1, Keeps s (evictBale a0 a1 t) := by
  intro a0 a1; unfold evictBale
  repeat'
    first
    | with_reducible assumption | (intro _) | with_reducible apply Keeps.ite | with_reducible apply updBale_keeps
    | with_reducible apply toT2_keeps | dsimp only | split

theorem giveFrame_keeps {s t : State} (h : Keeps s t) : ∀ a0 a1, Keeps s (giveFrame a0 a1 t) := by
  intro a0 a1; unfold giveFrame
  repeat'
    first
    | with_reducible assumption | (intro _) | with_reducible apply Keeps.ite | with_reducible apply updBale_keeps
    | with_reducible apply updPlace_keeps | dsimp only | split

theorem makeRoomFor_keeps {s t : State} (h : Keeps s t) : ∀ a0, Keeps s (makeRoomFor a0 t) := by
  intro a0; unfold makeRoomFor
  repeat'
    first
    | with_reducible assumption | with_reducible apply Keeps.ite | with_reducible apply evictBale_keeps | split

theorem clearFailed_keeps {s t : State} (h : Keeps s t) : ∀ a0, Keeps s (clearFailed a0 t) := by
  intro a0; unfold clearFailed
  repeat'
    first
    | with_reducible assumption | (intro _) | with_reducible apply Keeps.ite | with_reducible apply updPlace_keeps

theorem serveFrames_keeps {s t : State} (h : Keeps s t) : ∀ a0, Keeps s (serveFrames a0 t) := by
  intro a0; unfold serveFrames
  repeat'
    first
    | with_reducible assumption | (intro _) | with_reducible apply forAll_keeps | with_reducible apply clearFailed_keeps
    | with_reducible apply giveFrame_keeps | with_reducible apply makeRoomFor_keeps

theorem failWaiting_keeps {s t : State} (h : Keeps s t) : ∀ a0 a1, Keeps s (failWaiting a0 a1 t) := by
  intro a0 a1; unfold failWaiting
  repeat'
    first
    | with_reducible assumption | (intro _) | with_reducible apply forAll_keeps | with_reducible apply settle_keeps
    | with_reducible apply updBale_keeps

theorem startPromotion_keeps {s t : State} (h : Keeps s t) : ∀ a0 a1, Keeps s (startPromotion a0 a1 t) := by
  intro a0 a1; unfold startPromotion
  repeat'
    first
    | with_reducible assumption | with_reducible apply serveFrames_keeps | with_reducible apply updBale_keeps | split

theorem actPromote_keeps {s t : State} (h : Keeps s t) : ∀ a0 a1, Keeps s (actPromote a0 a1 t).1 := by
  intro a0 a1; unfold actPromote
  repeat'
    first
    | with_reducible assumption | with_reducible apply startPromotion_keeps | with_reducible apply updBale_keeps | split

theorem actEvict_keeps {s t : State} (h : Keeps s t) : ∀ a0 a1, Keeps s (actEvict a0 a1 t).1 := by
  intro a0 a1; unfold actEvict
  repeat'
    first
    | with_reducible assumption | with_reducible apply updBale_keeps | with_reducible apply evictBale_keeps | split

theorem actPin_keeps {s t : State} (h : Keeps s t) : ∀ a0 a1 a2, Keeps s (actPin a0 a1 a2 t).1 := by
  intro a0 a1 a2; unfold actPin
  repeat'
    first
    | with_reducible assumption | with_reducible apply startPromotion_keeps | with_reducible apply updBale_keeps | split

theorem actUnpin_keeps {s t : State} (h : Keeps s t) : ∀ a0 a1, Keeps s (actUnpin a0 a1 t).1 := by
  intro a0 a1; unfold actUnpin
  repeat'
    first
    | with_reducible assumption | with_reducible apply updBale_keeps | split

theorem actRange_keeps {s t : State} (h : Keeps s t) (act : Nat → State → BaleAct) (l : List Nat)
    (ha : ∀ i u, Keeps s u → Keeps s (act i u).1) : Keeps s (actRange act l t).1 := by
  have k : ∀ (l : List Nat) (a : State × List Nat × Nat), Keeps s a.1 → Keeps s (l.foldl (fun a i =>
      let r := act i a.1
      (r.1, if r.2.1 then a.2.1 ++ [i] else a.2.1, if r.2.2 then a.2.2 + 1 else a.2.2)) a).1 := by
    intro l
    induction l with
    | nil => exact fun a ha => ha
    | cons i l ih => exact fun a b => ih _ (ha i a.1 b)
  exact k l (t, [], 0) h

theorem touchBales_keeps {s t : State} (h : Keeps s t) : ∀ a0 a1, Keeps s (touchBales a0 a1 t) := by
  intro a0 a1; unfold touchBales
  repeat'
    first
    | with_reducible assumption | (intro _) | with_reducible apply forAll_keeps | with_reducible apply updBale_keeps

theorem tierCommand_keeps {s t : State} (h : Keeps s t) (p : Post) (a b c d : Nat) (e : Bool)
    (refuse : State → Tensor → Nat → Bale → Option Nat) (act : Nat → State → BaleAct)
    (ha : ∀ i u, Keeps s u → Keeps s (act i u).1) : Reply.Keeps s (tierCommand p a b c d e refuse act t) := by
  unfold tierCommand
  repeat'
    first
    | with_reducible assumption | with_reducible apply Reply.ite | with_reducible apply Reply.done_keeps
    | with_reducible apply Reply.accept_keeps | with_reducible apply withCtx_keeps | with_reducible apply actRange_keeps
    | with_reducible apply forAll_keeps | with_reducible apply updBale_keeps | with_reducible apply touchBales_keeps
    | (intro _) | dsimp only | split

theorem tierPromoteBody_keeps {s t : State} (h : Keeps s t) : ∀ a0 a1 a2 a3 a4, Reply.Keeps s (tierPromoteBody a0 a1 a2 a3 a4 t) := by
  intro a0 a1 a2 a3 a4; unfold tierPromoteBody
  repeat'
    first
    | with_reducible assumption | (intro _) | with_reducible apply tierCommand_keeps | with_reducible apply actPromote_keeps

theorem tierEvictBody_keeps {s t : State} (h : Keeps s t) : ∀ a0 a1 a2 a3 a4, Reply.Keeps s (tierEvictBody a0 a1 a2 a3 a4 t) := by
  intro a0 a1 a2 a3 a4; unfold tierEvictBody
  repeat'
    first
    | with_reducible assumption | (intro _) | with_reducible apply tierCommand_keeps | with_reducible apply actEvict_keeps

theorem tierPinBody_keeps {s t : State} (h : Keeps s t) : ∀ a0 a1 a2 a3 a4, Reply.Keeps s (tierPinBody a0 a1 a2 a3 a4 t) := by
  intro a0 a1 a2 a3 a4; unfold tierPinBody
  repeat'
    first
    | with_reducible assumption | (intro _) | with_reducible apply tierCommand_keeps | with_reducible apply actPin_keeps

theorem tierUnpinBody_keeps {s t : State} (h : Keeps s t) : ∀ a0 a1 a2 a3 a4, Reply.Keeps s (tierUnpinBody a0 a1 a2 a3 a4 t) := by
  intro a0 a1 a2 a3 a4; unfold tierUnpinBody
  repeat'
    first
    | with_reducible assumption | (intro _) | with_reducible apply tierCommand_keeps | with_reducible apply actUnpin_keeps

theorem tierQueryBody_keeps {s t : State} (h : Keeps s t) : ∀ a0 a1 a2 a3 a4, Reply.Keeps s (tierQueryBody a0 a1 a2 a3 a4 t) := by
  intro a0 a1 a2 a3 a4; unfold tierQueryBody
  repeat'
    first
    | with_reducible assumption | (intro _) | with_reducible apply Reply.done_keeps | with_reducible apply withCtx_keeps
    | with_reducible apply touchBales_keeps | split

theorem execTierPromote_keeps {s t : State} (h : Keeps s t) : ∀ a0 a1 a2 a3 a4, ResultKeeps s (execTierPromote a0 a1 a2 a3 a4 t) := by
  intro a0 a1 a2 a3 a4; unfold execTierPromote
  repeat'
    first
    | with_reducible assumption | with_reducible apply ResultKeeps.next | with_reducible apply mailbox_keeps
    | with_reducible apply tierPromoteBody_keeps | (intro _)

theorem execTierEvict_keeps {s t : State} (h : Keeps s t) : ∀ a0 a1 a2 a3 a4, ResultKeeps s (execTierEvict a0 a1 a2 a3 a4 t) := by
  intro a0 a1 a2 a3 a4; unfold execTierEvict
  repeat'
    first
    | with_reducible assumption | with_reducible apply ResultKeeps.next | with_reducible apply mailbox_keeps
    | with_reducible apply tierEvictBody_keeps | (intro _)

theorem execTierPin_keeps {s t : State} (h : Keeps s t) : ∀ a0 a1 a2 a3 a4, ResultKeeps s (execTierPin a0 a1 a2 a3 a4 t) := by
  intro a0 a1 a2 a3 a4; unfold execTierPin
  repeat'
    first
    | with_reducible assumption | with_reducible apply ResultKeeps.next | with_reducible apply mailbox_keeps
    | with_reducible apply tierPinBody_keeps | (intro _)

theorem execTierUnpin_keeps {s t : State} (h : Keeps s t) : ∀ a0 a1 a2 a3 a4, ResultKeeps s (execTierUnpin a0 a1 a2 a3 a4 t) := by
  intro a0 a1 a2 a3 a4; unfold execTierUnpin
  repeat'
    first
    | with_reducible assumption | with_reducible apply ResultKeeps.next | with_reducible apply mailbox_keeps
    | with_reducible apply tierUnpinBody_keeps | (intro _)

theorem execTierQuery_keeps {s t : State} (h : Keeps s t) : ∀ a0 a1 a2 a3 a4, ResultKeeps s (execTierQuery a0 a1 a2 a3 a4 t) := by
  intro a0 a1 a2 a3 a4; unfold execTierQuery
  repeat'
    first
    | with_reducible assumption | with_reducible apply ResultKeeps.next | with_reducible apply mailbox_keeps
    | with_reducible apply tierQueryBody_keeps | (intro _)

theorem reserveHomes_keeps {s t : State} (h : Keeps s t) : ∀ a0 a1 a2, Keeps s (reserveHomes a0 a1 a2 t) := by
  intro a0 a1 a2; unfold reserveHomes
  repeat'
    first
    | with_reducible assumption | (intro _) | with_reducible apply forAll_keeps | with_reducible apply updBale_keeps | split

theorem placeBales_keeps {s t : State} (h : Keeps s t) : ∀ a0 a1 a2 a3, Keeps s (placeBales a0 a1 a2 a3 t) := by
  intro a0 a1 a2 a3; unfold placeBales
  repeat'
    first
    | with_reducible assumption | (intro _) | with_reducible apply Keeps.ite | with_reducible apply forAll_keeps
    | with_reducible apply updBale_keeps | with_reducible apply updPlace_keeps | dsimp only | split

theorem placeTensor_keeps {s t : State} (h : Keeps s t) : ∀ a0 a1 a2 a3 a4 a5, Keeps s (placeTensor a0 a1 a2 a3 a4 a5 t) := by
  intro a0 a1 a2 a3 a4 a5; unfold placeTensor
  repeat'
    first
    | with_reducible assumption | with_reducible apply placeBales_keeps | with_reducible apply serveFrames_keeps
    | with_reducible apply updTensor_keeps | split

theorem settleNew_keeps {s t : State} (h : Keeps s t) : ∀ a0, Keeps s (settleNew a0 t) := by
  intro a0; unfold settleNew
  repeat'
    first
    | with_reducible assumption | with_reducible apply updTensor_keeps

theorem allocNew_keeps {s t : State} (h : Keeps s t) : ∀ a0 a1 a2 a3 a4 a5 a6, Reply.Keeps s (allocNew a0 a1 a2 a3 a4 a5 a6 t) := by
  intro a0 a1 a2 a3 a4 a5 a6; unfold allocNew
  repeat'
    first
    | with_reducible assumption | (intro _) | with_reducible apply Keeps.ite | with_reducible apply Reply.ite
    | with_reducible apply Reply.done_keeps | with_reducible apply Reply.accept_keeps | with_reducible apply updPlace_keeps
    | with_reducible apply updPart_keeps | with_reducible apply reserveHomes_keeps | with_reducible apply settleNew_keeps
    | with_reducible apply placeTensor_keeps | with_reducible apply updTensor_keeps | dsimp only | split

theorem allocTensorBody_keeps {s t : State} (h : Keeps s t) : ∀ a0 a1 a2 a3 a4 a5 a6 a7, Reply.Keeps s (allocTensorBody a0 a1 a2 a3 a4 a5 a6 a7 t) := by
  intro a0 a1 a2 a3 a4 a5 a6 a7; unfold allocTensorBody
  repeat'
    first
    | with_reducible assumption | (intro _) | with_reducible apply Keeps.ite | with_reducible apply Reply.ite
    | with_reducible apply Reply.done_keeps | with_reducible apply withCtx_keeps | with_reducible apply updTensor_keeps
    | with_reducible apply allocNew_keeps | dsimp only | split

theorem dropTensor_keeps {s t : State} (h : Keeps s t) : ∀ a0, Keeps s (dropTensor a0 t) := by
  intro a0; unfold dropTensor
  repeat'
    first
    | with_reducible assumption | (intro _) | with_reducible apply forAll_keeps | with_reducible apply updPlace_keeps
    | with_reducible apply unmarkFrame_keeps | with_reducible apply settle_keeps | dsimp only | split

theorem unmapTensor_keeps {s t : State} (h : Keeps s t) : ∀ a0 a1, Keeps s (unmapTensor a0 a1 t) := by
  intro a0 a1; unfold unmapTensor
  repeat'
    first
    | with_reducible assumption | (intro _) | with_reducible apply Keeps.ite | with_reducible apply updTensor_keeps
    | with_reducible apply serveFrames_keeps | with_reducible apply dropTensor_keeps | dsimp only | split

theorem allocFreeBody_keeps {s t : State} (h : Keeps s t) : ∀ a0 a1 a2, Reply.Keeps s (allocFreeBody a0 a1 a2 t) := by
  intro a0 a1 a2; unfold allocFreeBody
  repeat'
    first
    | with_reducible assumption | (intro _) | with_reducible apply Reply.ite | with_reducible apply Reply.done_keeps
    | with_reducible apply withCtx_keeps | with_reducible apply unmapTensor_keeps | split

theorem execAllocTensor_keeps {s t : State} (h : Keeps s t) : ∀ a0 a1 a2 a3 a4 a5 a6 a7, ResultKeeps s (execAllocTensor a0 a1 a2 a3 a4 a5 a6 a7 t) := by
  intro a0 a1 a2 a3 a4 a5 a6 a7; unfold execAllocTensor
  repeat'
    first
    | with_reducible assumption | with_reducible apply ResultKeeps.next | with_reducible apply mailbox_keeps
    | with_reducible apply allocTensorBody_keeps | (intro _)

theorem execAllocFree_keeps {s t : State} (h : Keeps s t) : ∀ a0 a1 a2, ResultKeeps s (execAllocFree a0 a1 a2 t) := by
  intro a0 a1 a2; unfold execAllocFree
  repeat'
    first
    | with_reducible assumption | with_reducible apply ResultKeeps.next | with_reducible apply mailbox_keeps
    | with_reducible apply allocFreeBody_keeps | (intro _)

theorem clearCommons_keeps {s t : State} (h : Keeps s t) (k : Nat) : Keeps s (clearCommons k t) :=
  updHbm_mem h _ (fun a _ => clearRange_wf _ _ _ a) (fun _ b => b)

theorem tierConfigBody_keeps {s t : State} (h : Keeps s t) : ∀ a0 a1 a2, Reply.Keeps s (tierConfigBody a0 a1 a2 t) := by
  intro a0 a1 a2; unfold tierConfigBody
  repeat'
    first
    | with_reducible assumption | (intro _) | with_reducible apply Reply.ite | with_reducible apply Reply.done_keeps
    | with_reducible apply Reply.accept_keeps | with_reducible apply Keeps.ite | with_reducible apply forAll_keeps
    | with_reducible refine updHbm_keeps ?_ _ rfl rfl | with_reducible apply updPart_keeps
    | with_reducible apply updPlace_keeps | with_reducible apply clearCommons_keeps

theorem execTierConfig_keeps {s t : State} (h : Keeps s t) : ∀ a0 a1 a2, ResultKeeps s (execTierConfig a0 a1 a2 t) := by
  intro a0 a1 a2; unfold execTierConfig
  repeat'
    first
    | with_reducible assumption | with_reducible apply ResultKeeps.next | with_reducible apply mailbox_keeps
    | with_reducible apply tierConfigBody_keeps | (intro _)

/-! ## The operations of Kv.lean -/

theorem updSeq_keeps {s t : State} (h : Keeps s t) : ∀ a0 a1, Keeps s (updSeq a0 a1 t) := by
  intro a0 a1; unfold updSeq
  repeat'
    first
    | with_reducible assumption | with_reducible apply updPlace_keeps

theorem updPage_keeps {s t : State} (h : Keeps s t) : ∀ a0 a1, Keeps s (updPage a0 a1 t) := by
  intro a0 a1; unfold updPage
  repeat'
    first
    | with_reducible assumption | with_reducible apply updPlace_keeps

theorem setSeqMap_keeps {s t : State} (h : Keeps s t) : ∀ a0 a1 a2, Keeps s (setSeqMap a0 a1 a2 t) := by
  intro a0 a1 a2; unfold setSeqMap
  repeat'
    first
    | with_reducible assumption | with_reducible apply updSeq_keeps

theorem endOld_keeps {s t : State} (h : Keeps s t) : ∀ a0 a1 a2, Keeps s (endOld a0 a1 a2 t) := by
  intro a0 a1 a2; unfold endOld
  repeat'
    first
    | with_reducible assumption | (intro _) | with_reducible apply updPart_keeps

theorem returnPage_keeps {s t : State} (h : Keeps s t) : ∀ a0, Keeps s (returnPage a0 t) := by
  intro a0; unfold returnPage
  repeat'
    first
    | with_reducible assumption | with_reducible apply updPlace_keeps

theorem unrefPage_keeps {s t : State} (h : Keeps s t) : ∀ a0 a1 a2, Keeps s (unrefPage a0 a1 a2 t) := by
  intro a0 a1 a2; unfold unrefPage
  repeat'
    first
    | with_reducible assumption | (intro _) | with_reducible apply Keeps.ite | with_reducible apply noteChange_keeps
    | with_reducible apply updPage_keeps | with_reducible apply returnPage_keeps | dsimp only | split

theorem refPage_keeps {s t : State} (h : Keeps s t) : ∀ a0, Keeps s (refPage a0 t) := by
  intro a0; unfold refPage
  repeat'
    first
    | with_reducible assumption | with_reducible apply updPage_keeps

theorem settlePages_keeps {s t : State} (h : Keeps s t) : ∀ a0, Keeps s (settlePages a0 t) := by
  intro a0; unfold settlePages
  repeat'
    first
    | with_reducible assumption | (intro _) | with_reducible apply Keeps.ite | with_reducible apply forAll_keeps
    | with_reducible apply updPage_keeps

theorem advanceEpoch_keeps {s t : State} (h : Keeps s t) : ∀ a0, Keeps s (advanceEpoch a0 t) := by
  intro a0; unfold advanceEpoch
  repeat'
    first
    | with_reducible assumption | (intro _) | with_reducible apply Keeps.ite | with_reducible apply settlePages_keeps
    | with_reducible apply updPart_keeps

theorem takePage_keeps {s t : State} (h : Keeps s t) (k r : Nat) {f : Nat} {u : State} (e : takePage k r t = some (f, u)) :
    Keeps s u := by
  unfold takePage at e
  dsimp only at e
  split at e
  · cases e; exact updPlace_keeps (zeroPage_keeps h _) _
  · split at e
    · cases e; exact updPlace_keeps (zeroPage_keeps (zeroFrame_keeps (updPlace_keeps h _) _) _) _
    · cases e

theorem notePool_keeps {s t : State} (h : Keeps s t) : Keeps s (notePool t) := by
  unfold notePool
  repeat'
    first
    | with_reducible assumption | (intro _) | with_reducible apply updPlace_keeps

theorem dropPage_keeps {s t : State} (h : Keeps s t) : ∀ a0 a1, Keeps s (dropPage a0 a1 t) := by
  intro a0 a1; unfold dropPage
  repeat'
    first
    | with_reducible assumption | (intro _) | with_reducible apply Keeps.ite | with_reducible apply noteChange_keeps
    | with_reducible apply returnPage_keeps | with_reducible apply updPlace_keeps

theorem dropPages_keeps {s t : State} (h : Keeps s t) (k : Nat) (l : List Nat) (n : Nat) : Keeps s (dropPages k l n t) := by
  induction n generalizing t with
  | zero => exact h
  | succ n ih =>
    unfold dropPages
    split
    · exact ih (dropPage_keeps h _ _)
    · exact h

theorem kvCreateBody_keeps {s t : State} (h : Keeps s t) : ∀ a0 a1 a2 a3 a4 a5, Reply.Keeps s (kvCreateBody a0 a1 a2 a3 a4 a5 t) := by
  intro a0 a1 a2 a3 a4 a5; unfold kvCreateBody
  repeat'
    first
    | with_reducible assumption | (intro _) | with_reducible apply Reply.ite | with_reducible apply Reply.done_keeps
    | with_reducible apply withCtx_keeps | with_reducible apply updPlace_keeps

theorem sharePage_keeps {s t : State} (h : Keeps s t) : ∀ a0 a1 a2 a3, Keeps s (sharePage a0 a1 a2 a3 t) := by
  intro a0 a1 a2 a3; unfold sharePage
  repeat'
    first
    | with_reducible assumption | (intro _) | with_reducible apply endOld_keeps | with_reducible apply refPage_keeps
    | with_reducible apply setSeqMap_keeps

theorem kvShareBody_keeps {s t : State} (h : Keeps s t) : ∀ a0 a1 a2 a3 a4 a5, Reply.Keeps s (kvShareBody a0 a1 a2 a3 a4 a5 t) := by
  intro a0 a1 a2 a3 a4 a5; unfold kvShareBody
  repeat'
    first
    | with_reducible assumption | (intro _) | with_reducible apply Keeps.ite | with_reducible apply Reply.ite
    | with_reducible apply forAll_keeps | with_reducible apply Reply.done_keeps | with_reducible apply sharePage_keeps
    | dsimp only | split

theorem releasePage_keeps {s t : State} (h : Keeps s t) : ∀ a0 a1 a2, Keeps s (releasePage a0 a1 a2 t) := by
  intro a0 a1 a2; unfold releasePage
  repeat'
    first
    | with_reducible assumption | (intro _) | with_reducible apply Keeps.ite | with_reducible apply setSeqMap_keeps
    | with_reducible apply unrefPage_keeps | dsimp only | split

theorem deleteSeq_keeps {s t : State} (h : Keeps s t) : ∀ a0, Keeps s (deleteSeq a0 t) := by
  intro a0; unfold deleteSeq
  repeat'
    first
    | with_reducible assumption | with_reducible apply updPlace_keeps

theorem destroySeq_keeps {s t : State} (h : Keeps s t) : ∀ a0 a1, Keeps s (destroySeq a0 a1 t) := by
  intro a0 a1; unfold destroySeq
  repeat'
    first
    | with_reducible assumption | (intro _) | with_reducible apply forAll_keeps | with_reducible apply deleteSeq_keeps
    | with_reducible apply releasePage_keeps | split

theorem kvReleaseBody_keeps {s t : State} (h : Keeps s t) : ∀ a0 a1 a2 a3 a4 a5, Reply.Keeps s (kvReleaseBody a0 a1 a2 a3 a4 a5 t) := by
  intro a0 a1 a2 a3 a4 a5; unfold kvReleaseBody
  repeat'
    first
    | with_reducible assumption | (intro _) | with_reducible apply Keeps.ite | with_reducible apply Reply.ite
    | with_reducible apply forAll_keeps | with_reducible apply Reply.done_keeps | with_reducible apply releasePage_keeps
    | with_reducible apply deleteSeq_keeps | dsimp only | split

theorem kvMarkBody_keeps {s t : State} (h : Keeps s t) : ∀ a0 a1 a2 a3 a4 a5, Reply.Keeps s (kvMarkBody a0 a1 a2 a3 a4 a5 t) := by
  intro a0 a1 a2 a3 a4 a5; unfold kvMarkBody
  repeat'
    first
    | with_reducible assumption | (intro _) | with_reducible apply Keeps.ite | with_reducible apply Reply.ite
    | with_reducible apply forAll_keeps | with_reducible apply Reply.done_keeps | with_reducible apply updSeq_keeps
    | dsimp only | split

theorem kvQueryBody_keeps {s t : State} (h : Keeps s t) : ∀ a0 a1 a2, Reply.Keeps s (kvQueryBody a0 a1 a2 t) := by
  intro a0 a1 a2; unfold kvQueryBody
  repeat'
    first
    | with_reducible assumption | with_reducible apply Reply.ite | with_reducible apply Reply.done_keeps | dsimp only | split

theorem execKvCreate_keeps {s t : State} (h : Keeps s t) : ∀ a0 a1 a2 a3 a4 a5, ResultKeeps s (execKvCreate a0 a1 a2 a3 a4 a5 t) := by
  intro a0 a1 a2 a3 a4 a5; unfold execKvCreate
  repeat'
    first
    | with_reducible assumption | with_reducible apply ResultKeeps.next | with_reducible apply mailbox_keeps
    | with_reducible apply kvCreateBody_keeps | (intro _)

theorem execKvShare_keeps {s t : State} (h : Keeps s t) : ∀ a0 a1 a2 a3 a4 a5, ResultKeeps s (execKvShare a0 a1 a2 a3 a4 a5 t) := by
  intro a0 a1 a2 a3 a4 a5; unfold execKvShare
  repeat'
    first
    | with_reducible assumption | with_reducible apply ResultKeeps.next | with_reducible apply mailbox_keeps
    | with_reducible apply kvShareBody_keeps | (intro _)

theorem execKvRelease_keeps {s t : State} (h : Keeps s t) : ∀ a0 a1 a2 a3 a4 a5, ResultKeeps s (execKvRelease a0 a1 a2 a3 a4 a5 t) := by
  intro a0 a1 a2 a3 a4 a5; unfold execKvRelease
  repeat'
    first
    | with_reducible assumption | with_reducible apply ResultKeeps.next | with_reducible apply mailbox_keeps
    | with_reducible apply kvReleaseBody_keeps | (intro _)

theorem execKvMark_keeps {s t : State} (h : Keeps s t) : ∀ a0 a1 a2 a3 a4 a5, ResultKeeps s (execKvMark a0 a1 a2 a3 a4 a5 t) := by
  intro a0 a1 a2 a3 a4 a5; unfold execKvMark
  repeat'
    first
    | with_reducible assumption | with_reducible apply ResultKeeps.next | with_reducible apply mailbox_keeps
    | with_reducible apply kvMarkBody_keeps | (intro _)

theorem execKvQuery_keeps {s t : State} (h : Keeps s t) : ∀ a0 a1 a2, ResultKeeps s (execKvQuery a0 a1 a2 t) := by
  intro a0 a1 a2; unfold execKvQuery
  repeat'
    first
    | with_reducible assumption | with_reducible apply ResultKeeps.next | with_reducible apply mailbox_keeps
    | with_reducible apply kvQueryBody_keeps | (intro _)

theorem execKvPageReclaim_keeps {s t : State} (h : Keeps s t) : ∀ a0 a1, ResultKeeps s (execKvPageReclaim a0 a1 t) := by
  intro a0 a1; unfold execKvPageReclaim
  repeat'
    first
    | with_reducible assumption | with_reducible apply event_keeps | with_reducible apply returnPage_keeps

theorem cowTouch_keeps {s t : State} (h : Keeps s t) : ∀ a0, Keeps s (cowTouch a0 t) := by
  intro a0; unfold cowTouch
  repeat'
    first
    | with_reducible assumption | with_reducible apply updPart_keeps | with_reducible apply copyT1_keeps | split

theorem execCowCopyDone_keeps {s t : State} (h : Keeps s t) : ∀ a0, ResultKeeps s (execCowCopyDone a0 t) := by
  intro a0; unfold execCowCopyDone
  repeat'
    first
    | with_reducible assumption | with_reducible apply event_keeps | with_reducible apply cowTouch_keeps

theorem poolReturn_keeps {s t : State} (h : Keeps s t) : ∀ a0 a1, Keeps s (poolReturn a0 a1 t) := by
  intro a0 a1; unfold poolReturn
  repeat'
    first
    | with_reducible assumption | (intro _) | with_reducible apply serveFrames_keeps | with_reducible apply unmarkFrame_keeps
    | with_reducible apply updPlace_keeps

theorem execKvPoolBaleReturn_keeps {s t : State} (h : Keeps s t) : ∀ a0 a1, ResultKeeps s (execKvPoolBaleReturn a0 a1 t) := by
  intro a0 a1; unfold execKvPoolBaleReturn
  repeat'
    first
    | with_reducible assumption | with_reducible apply event_keeps | with_reducible apply poolReturn_keeps

/-! ## The operations of Tensors.lean -/

theorem writeVaPage_keeps {s t : State} (h : Keeps s t) : ∀ a0 a1 a2, Keeps s (writeVaPage a0 a1 a2 t) := by
  intro a0 a1 a2; unfold writeVaPage
  repeat'
    first
    | with_reducible assumption | with_reducible apply writeT1_keeps | split

theorem clearT1_keeps {s t : State} (h : Keeps s t) : ∀ a0 a1, Keeps s (clearT1 a0 a1 t) := by
  intro a0 a1; unfold clearT1
  repeat'
    first
    | with_reducible assumption | with_reducible apply Keeps.ite | with_reducible apply zeroPage_keeps
    | with_reducible apply writeT1_keeps

theorem zeroVa_keeps {s t : State} (h : Keeps s t) : ∀ a0 a1 a2, Keeps s (zeroVa a0 a1 a2 t) := by
  intro a0 a1 a2; unfold zeroVa
  repeat'
    first
    | with_reducible assumption | (intro _) | with_reducible apply forAll_keeps | with_reducible apply clearT1_keeps
    | dsimp only | split

/-! ## The operations of Codec.lean -/

theorem updStep_keeps {s t : State} (h : Keeps s t) : ∀ a0 a1, Keeps s (updStep a0 a1 t) := by
  intro a0 a1; unfold updStep
  repeat'
    first
    | with_reducible assumption | with_reducible apply updRecov_keeps

theorem dropStep_keeps {s t : State} (h : Keeps s t) : ∀ a0, Keeps s (dropStep a0 t) := by
  intro a0; unfold dropStep
  repeat'
    first
    | with_reducible assumption | with_reducible apply updRecov_keeps

theorem endSearch_keeps {s t : State} (h : Keeps s t) : ∀ a0, Keeps s (endSearch a0 t) := by
  intro a0; unfold endSearch
  repeat'
    first
    | with_reducible assumption | with_reducible apply Keeps.ite | with_reducible apply dropStep_keeps
    | with_reducible apply daybook_keeps | dsimp only | split

theorem clearSuspect_keeps {s t : State} (h : Keeps s t) : ∀ a0 a1, Keeps s (clearSuspect a0 a1 t) := by
  intro a0 a1; unfold clearSuspect
  repeat'
    first
    | with_reducible assumption | with_reducible apply endSearch_keeps | with_reducible apply updStep_keeps

theorem setSync_keeps {s t : State} (h : Keeps s t) : ∀ a0 a1 a2, Keeps s (setSync a0 a1 a2 t) := by
  intro a0 a1 a2; unfold setSync
  repeat'
    first
    | with_reducible assumption | with_reducible apply updPart_keeps

theorem addSync_keeps {s t : State} (h : Keeps s t) : ∀ a0 a1 a2, Keeps s (addSync a0 a1 a2 t) := by
  intro a0 a1 a2; unfold addSync
  repeat'
    first
    | with_reducible assumption | with_reducible apply setSync_keeps

theorem updSession_keeps {s t : State} (h : Keeps s t) : ∀ a0 a1, Keeps s (updSession a0 a1 t) := by
  intro a0 a1; unfold updSession
  repeat'
    first
    | with_reducible assumption | with_reducible apply updCodec_keeps

theorem kickPipe_keeps {s t : State} (h : Keeps s t) : ∀ a0, Keeps s (kickPipe a0 t) := by
  intro a0; unfold kickPipe
  repeat'
    first
    | with_reducible assumption | with_reducible apply Keeps.ite | with_reducible apply updPipe_keeps | dsimp only | split

theorem endCodecCmd_keeps {s t : State} (h : Keeps s t) : ∀ a0 a1 a2, Keeps s (endCodecCmd a0 a1 a2 t) := by
  intro a0 a1 a2; unfold endCodecCmd
  repeat'
    first
    | with_reducible assumption | with_reducible apply updPipe_keeps | with_reducible apply updSession_keeps
    | with_reducible apply completeProg_keeps | dsimp only | split

theorem removeSession_keeps {s t : State} (h : Keeps s t) : ∀ a0, Keeps s (removeSession a0 t) := by
  intro a0; unfold removeSession
  repeat'
    first
    | with_reducible assumption | with_reducible apply Keeps.ite | with_reducible apply updCodec_keeps
    | with_reducible apply zeroVa_keeps | with_reducible apply updPipe_keeps | with_reducible apply completeProg_keeps
    | dsimp only | split

theorem abortSession_keeps {s t : State} (h : Keeps s t) : ∀ a0 a1, Keeps s (abortSession a0 a1 t) := by
  intro a0 a1; unfold abortSession
  repeat'
    first
    | with_reducible assumption | with_reducible apply Keeps.ite | with_reducible apply endCodecCmd_keeps
    | with_reducible apply kickPipe_keeps | with_reducible apply removeSession_keeps | dsimp only | split

theorem codecOpenBody_keeps {s t : State} (h : Keeps s t) : ∀ a0 a1, Reply.Keeps s (codecOpenBody a0 a1 t) := by
  intro a0 a1; unfold codecOpenBody
  repeat'
    first
    | with_reducible assumption | (intro _) | with_reducible apply Keeps.ite | with_reducible apply Reply.ite
    | with_reducible apply Reply.done_keeps | with_reducible apply withCtx_keeps | with_reducible apply updPipe_keeps
    | with_reducible apply updCodec_keeps | dsimp only | split

theorem startCodecCmd_keeps {s t : State} (h : Keeps s t) : ∀ a0 a1, Reply.Keeps s (startCodecCmd a0 a1 t) := by
  intro a0 a1; unfold startCodecCmd
  repeat'
    first
    | with_reducible assumption | (intro _) | with_reducible apply Reply.done_keeps | with_reducible apply Reply.accept_keeps
    | with_reducible apply updSession_keeps

theorem codecDecodeBody_keeps {s t : State} (h : Keeps s t) : ∀ a0 a1 a2 a3 a4 a5 a6, Reply.Keeps s (codecDecodeBody a0 a1 a2 a3 a4 a5 a6 t) := by
  intro a0 a1 a2 a3 a4 a5 a6; unfold codecDecodeBody
  repeat'
    first
    | with_reducible assumption | with_reducible apply Reply.ite | with_reducible apply Reply.done_keeps
    | with_reducible apply startCodecCmd_keeps | dsimp only | split

theorem codecEncodeBody_keeps {s t : State} (h : Keeps s t) : ∀ a0 a1 a2 a3 a4 a5 a6 a7, Reply.Keeps s (codecEncodeBody a0 a1 a2 a3 a4 a5 a6 a7 t) := by
  intro a0 a1 a2 a3 a4 a5 a6 a7; unfold codecEncodeBody
  repeat'
    first
    | with_reducible assumption | with_reducible apply Reply.ite | with_reducible apply Reply.done_keeps
    | with_reducible apply startCodecCmd_keeps | dsimp only | split

theorem codecCloseBody_keeps {s t : State} (h : Keeps s t) : ∀ a0 a1, Reply.Keeps s (codecCloseBody a0 a1 t) := by
  intro a0 a1; unfold codecCloseBody
  repeat'
    first
    | with_reducible assumption | with_reducible apply Reply.ite | with_reducible apply Reply.done_keeps
    | with_reducible apply Reply.accept_keeps | with_reducible apply updSession_keeps | with_reducible apply abortSession_keeps
    | split

theorem codecQueryBody_keeps {s t : State} (h : Keeps s t) : ∀ a0 a1, Reply.Keeps s (codecQueryBody a0 a1 t) := by
  intro a0 a1; unfold codecQueryBody
  repeat'
    first
    | with_reducible assumption | with_reducible apply Reply.ite | with_reducible apply Reply.done_keeps | split

theorem execCodecOpen_keeps {s t : State} (h : Keeps s t) : ∀ a0 a1, ResultKeeps s (execCodecOpen a0 a1 t) := by
  intro a0 a1; unfold execCodecOpen
  repeat'
    first
    | with_reducible assumption | with_reducible apply ResultKeeps.next | with_reducible apply mailbox_keeps
    | with_reducible apply codecOpenBody_keeps | (intro _)

theorem execCodecDecode_keeps {s t : State} (h : Keeps s t) : ∀ a0 a1 a2 a3 a4 a5 a6, ResultKeeps s (execCodecDecode a0 a1 a2 a3 a4 a5 a6 t) := by
  intro a0 a1 a2 a3 a4 a5 a6; unfold execCodecDecode
  repeat'
    first
    | with_reducible assumption | with_reducible apply ResultKeeps.next | with_reducible apply mailbox_keeps
    | with_reducible apply codecDecodeBody_keeps | (intro _)

theorem execCodecEncode_keeps {s t : State} (h : Keeps s t) : ∀ a0 a1 a2 a3 a4 a5 a6 a7, ResultKeeps s (execCodecEncode a0 a1 a2 a3 a4 a5 a6 a7 t) := by
  intro a0 a1 a2 a3 a4 a5 a6 a7; unfold execCodecEncode
  repeat'
    first
    | with_reducible assumption | with_reducible apply ResultKeeps.next | with_reducible apply mailbox_keeps
    | with_reducible apply codecEncodeBody_keeps | (intro _)

theorem execCodecClose_keeps {s t : State} (h : Keeps s t) : ∀ a0 a1, ResultKeeps s (execCodecClose a0 a1 t) := by
  intro a0 a1; unfold execCodecClose
  repeat'
    first
    | with_reducible assumption | with_reducible apply ResultKeeps.next | with_reducible apply mailbox_keeps
    | with_reducible apply codecCloseBody_keeps | (intro _)

theorem execCodecQuery_keeps {s t : State} (h : Keeps s t) : ∀ a0 a1, ResultKeeps s (execCodecQuery a0 a1 t) := by
  intro a0 a1; unfold execCodecQuery
  repeat'
    first
    | with_reducible assumption | with_reducible apply ResultKeeps.next | with_reducible apply mailbox_keeps
    | with_reducible apply codecQueryBody_keeps | (intro _)

theorem writeFrame_keeps {s t : State} (h : Keeps s t) : ∀ a0 a1 a2 a3 a4, Keeps s (writeFrame a0 a1 a2 a3 a4 t) := by
  intro a0 a1 a2 a3 a4; unfold writeFrame
  repeat'
    first
    | with_reducible assumption | (intro _) | with_reducible apply forAll_keeps | with_reducible apply writeVaPage_keeps

theorem writeGroup_keeps {s t : State} (h : Keeps s t) : ∀ a0 a1 a2, Keeps s (writeGroup a0 a1 a2 t) := by
  intro a0 a1 a2; unfold writeGroup
  repeat'
    first
    | with_reducible assumption | (intro _) | with_reducible apply forAll_keeps | with_reducible apply writeFrame_keeps

theorem writeGroups_keeps {s t : State} (h : Keeps s t) : ∀ a0 a1, Keeps s (writeGroups a0 a1 t) := by
  intro a0 a1; induction a0 generalizing t a1 with
  | zero => exact h
  | succ m ih =>
    unfold writeGroups
    repeat'
      first
      | with_reducible assumption | with_reducible apply Keeps.ite | with_reducible apply addSync_keeps
      | with_reducible apply updSession_keeps | with_reducible apply writeGroup_keeps | dsimp only | with_reducible apply ih
      | split

theorem flushGroup_keeps {s t : State} (h : Keeps s t) : ∀ a0, Keeps s (flushGroup a0 t) := by
  intro a0; unfold flushGroup
  repeat'
    first
    | with_reducible assumption | with_reducible apply Keeps.ite | with_reducible apply writeGroup_keeps
    | with_reducible apply addSync_keeps | with_reducible apply updSession_keeps | dsimp only | split

theorem finishCodec_keeps {s t : State} (h : Keeps s t) : ∀ a0 a1, Keeps s (finishCodec a0 a1 t) := by
  intro a0 a1; unfold finishCodec
  repeat'
    first
    | with_reducible assumption | with_reducible apply Keeps.ite | with_reducible apply endCodecCmd_keeps
    | with_reducible apply removeSession_keeps | dsimp only | split

theorem endStream_keeps {s t : State} (h : Keeps s t) : ∀ a0, Keeps s (endStream a0 t) := by
  intro a0; unfold endStream
  repeat'
    first
    | with_reducible assumption | (intro _) | with_reducible apply updSession_keeps

theorem decodeFrame_keeps {s t : State} (h : Keeps s t) : ∀ a0 a1, Keeps s (decodeFrame a0 a1 t) := by
  intro a0 a1; unfold decodeFrame
  repeat'
    first
    | with_reducible assumption | (intro _) | with_reducible apply Keeps.ite | with_reducible apply updSession_keeps
    | with_reducible apply updPipe_keeps | with_reducible apply writeGroups_keeps | with_reducible apply finishCodec_keeps
    | with_reducible apply endStream_keeps | with_reducible apply flushGroup_keeps | dsimp only | split

theorem writeCoded_keeps {s t : State} (h : Keeps s t) : ∀ a0 a1 a2, Keeps s (writeCoded a0 a1 a2 t) := by
  intro a0 a1 a2; unfold writeCoded
  repeat'
    first
    | with_reducible assumption | (intro _) | with_reducible apply forAll_keeps | with_reducible apply writeVaPage_keeps

theorem encodeFrame_keeps {s t : State} (h : Keeps s t) : ∀ a0, Keeps s (encodeFrame a0 t) := by
  intro a0; unfold encodeFrame
  have k : Keeps s { t with free := t.free + 1 } := h.upd rfl rfl rfl rfl rfl
  repeat'
    first
    | exact k | (intro _) | with_reducible apply Keeps.ite | with_reducible apply finishCodec_keeps
    | with_reducible apply writeCoded_keeps | with_reducible apply updSession_keeps | with_reducible apply addSync_keeps
    | dsimp only | split

theorem frameDone_keeps {s t : State} (h : Keeps s t) : ∀ a0 a1, Keeps s (frameDone a0 a1 t) := by
  intro a0 a1; unfold frameDone
  repeat'
    first
    | with_reducible assumption | (intro _) | with_reducible apply Keeps.ite | with_reducible apply updPipe_keeps
    | with_reducible apply encodeFrame_keeps | with_reducible apply decodeFrame_keeps | with_reducible apply kickPipe_keeps
    | with_reducible apply clearSuspect_keeps | dsimp only | split

theorem execCodecFrameDone_keeps {s t : State} (h : Keeps s t) : ∀ a0 a1, ResultKeeps s (execCodecFrameDone a0 a1 t) := by
  intro a0 a1; unfold execCodecFrameDone
  repeat'
    first
    | with_reducible assumption | with_reducible apply event_keeps | with_reducible apply frameDone_keeps

theorem execCodecWatchdog_keeps {s t : State} (h : Keeps s t) : ∀ a0, ResultKeeps s (execCodecWatchdog a0 t) := by
  intro a0; unfold execCodecWatchdog
  repeat'
    first
    | with_reducible assumption | with_reducible apply event_keeps | with_reducible apply updPipe_keeps

end Sys2Proof.Machine
end

