-- ==== Sys2Proof/Laws/KeptHost.lean ====
section
/-! SUPPORT. What the operations keep (see Kept.lean): RUN ends, contexts, transfers, loads, the host link, resets, the ladder and power. -/

namespace Sys2Proof.Machine

/-! ## The operations of Runs.lean -/

theorem syncDrovers_keeps {s t : State} (h : Keeps s t) : ∀ a0, Keeps s (syncDrovers a0 t) := by
  intro a0; unfold syncDrovers
  repeat'
    first
    | with_reducible assumption | (intro _) | with_reducible apply forAll_keeps | with_reducible apply updDrover_keeps | split

theorem dropReqs_keeps {s t : State} (h : Keeps s t) : ∀ a0 a1, Keeps s (dropReqs a0 a1 t) := by
  intro a0 a1; unfold dropReqs
  repeat'
    first
    | with_reducible assumption | with_reducible refine updHbm_keeps ?_ _ rfl rfl

theorem quiesce_keeps {s t : State} (h : Keeps s t) : ∀ a0 a1, Keeps s (quiesce a0 a1 t) := by
  intro a0 a1; unfold quiesce
  repeat'
    first
    | with_reducible assumption | (intro _) | with_reducible apply forAll_keeps | with_reducible apply updPart_keeps
    | with_reducible apply updPen_keeps | with_reducible apply updGate_keeps | with_reducible apply partEvent_keeps
    | with_reducible apply dropReqs_keeps | with_reducible apply syncDrovers_keeps | dsimp only | split

theorem endAtBoundary_keeps {s t : State} (h : Keeps s t) : ∀ a0 a1, Keeps s (endAtBoundary a0 a1 t) := by
  intro a0 a1; unfold endAtBoundary
  repeat'
    first
    | with_reducible assumption | with_reducible apply updRun_keeps

theorem haltRun_keeps {s t : State} (h : Keeps s t) : ∀ a0 a1, Keeps s (haltRun a0 a1 t) := by
  intro a0 a1; unfold haltRun
  repeat'
    first
    | with_reducible assumption | with_reducible apply endAtBoundary_keeps | with_reducible apply quiesce_keeps

theorem slip_keeps {s t : State} (h : Keeps s t) : ∀ a0 a1, Keeps s (slip a0 a1 t) := by
  intro a0 a1; unfold slip
  repeat'
    first
    | with_reducible assumption | (intro _) | with_reducible apply Keeps.ite | with_reducible apply daybook_keeps
    | with_reducible apply updPart_keeps | with_reducible apply quiesce_keeps | with_reducible apply haltRun_keeps
    | dsimp only | split

theorem freeSlots_keeps {s t : State} (h : Keeps s t) : ∀ a0, Keeps s (freeSlots a0 t) := by
  intro a0; unfold freeSlots
  repeat'
    first
    | with_reducible assumption | (intro _) | with_reducible apply forAll_keeps | with_reducible apply updPen_keeps

theorem clearDrovers_keeps {s t : State} (h : Keeps s t) : ∀ a0, Keeps s (clearDrovers a0 t) := by
  intro a0; unfold clearDrovers
  repeat'
    first
    | with_reducible assumption | (intro _) | with_reducible apply forAll_keeps | with_reducible apply updDrover_keeps
    | with_reducible apply updGate_keeps

theorem settleChanges_keeps {s t : State} (h : Keeps s t) : ∀ a0, Keeps s (settleChanges a0 t) := by
  intro a0; unfold settleChanges
  repeat'
    first
    | with_reducible assumption | (intro _) | with_reducible apply updPart_keeps | with_reducible apply settlePages_keeps

theorem completeRun_keeps {s t : State} (h : Keeps s t) : ∀ a0 a1 a2 a3 a4 a5, Keeps s (completeRun a0 a1 a2 a3 a4 a5 t) := by
  intro a0 a1 a2 a3 a4 a5; unfold completeRun
  repeat'
    first
    | with_reducible assumption | with_reducible apply completeProg_keeps | split

theorem releaseLeaving_keeps {s t : State} (h : Keeps s t) : ∀ a0 a1, Keeps s (releaseLeaving a0 a1 t) := by
  intro a0 a1; unfold releaseLeaving
  repeat'
    first
    | with_reducible assumption | (intro _) | with_reducible apply forAll_keeps | with_reducible apply destroySeq_keeps

theorem nextRunOf_keeps {s t : State} (h : Keeps s t) : ∀ a0, Keeps s (nextRunOf a0 t) := by
  intro a0; unfold nextRunOf
  repeat'
    first
    | with_reducible assumption | with_reducible apply updPart_keeps

theorem endRun_keeps {s t : State} (h : Keeps s t) : ∀ a0 a1 a2 a3 a4, Keeps s (endRun a0 a1 a2 a3 a4 t) := by
  intro a0 a1 a2 a3 a4; unfold endRun
  repeat'
    first
    | with_reducible assumption | (intro _) | with_reducible apply dropReqs_keeps | with_reducible apply clearDrovers_keeps
    | with_reducible apply freeSlots_keeps | with_reducible apply completeRun_keeps
    | with_reducible apply settleChanges_keeps | with_reducible apply nextRunOf_keeps | dsimp only | split

theorem endWaiting_keeps {s t : State} (h : Keeps s t) : ∀ a0 a1 a2, Keeps s (endWaiting a0 a1 a2 t) := by
  intro a0 a1 a2; unfold endWaiting
  repeat'
    first
    | with_reducible assumption | with_reducible apply updPart_keeps | with_reducible apply completeRun_keeps | split

theorem endRuns_keeps {s t : State} (h : Keeps s t) : ∀ a0 a1, Keeps s (endRuns a0 a1 t) := by
  intro a0 a1; unfold endRuns
  repeat'
    first
    | with_reducible assumption | with_reducible apply endRun_keeps | with_reducible apply endWaiting_keeps

theorem resumeAt_keeps {s t : State} (h : Keeps s t) : ∀ a0 a1 a2, Keeps s (resumeAt a0 a1 a2 t) := by
  intro a0 a1 a2; unfold resumeAt
  repeat'
    first
    | with_reducible assumption | with_reducible apply updPart_keeps | dsimp only | split

theorem stopDecoded_keeps {s t : State} (h : Keeps s t) : ∀ a0, Keeps s (stopDecoded a0 t) := by
  intro a0; unfold stopDecoded
  repeat'
    first
    | with_reducible assumption | (intro _) | with_reducible apply Keeps.ite | with_reducible apply endAtBoundary_keeps
    | dsimp only | split

theorem beginAccepted_keeps {s t : State} (h : Keeps s t) : ∀ a0, Keeps s (beginAccepted a0 t) := by
  intro a0; unfold beginAccepted
  repeat'
    first
    | with_reducible assumption | (intro _) | with_reducible apply Keeps.ite | with_reducible apply endRun_keeps
    | with_reducible apply updRun_keeps

theorem beginRun_keeps {s t : State} (h : Keeps s t) : ∀ a0, Keeps s (beginRun a0 t) := by
  intro a0; unfold beginRun
  repeat'
    first
    | with_reducible assumption | with_reducible apply Keeps.ite | with_reducible apply beginAccepted_keeps
    | with_reducible apply endWaiting_keeps

theorem runQueryBody_keeps {s t : State} (h : Keeps s t) : ∀ a0 a1, Reply.Keeps s (runQueryBody a0 a1 t) := by
  intro a0 a1; unfold runQueryBody
  repeat'
    first
    | with_reducible assumption | with_reducible apply Reply.ite | with_reducible apply Reply.done_keeps | dsimp only | split

theorem execRunQuery_keeps {s t : State} (h : Keeps s t) : ∀ a0 a1, ResultKeeps s (execRunQuery a0 a1 t) := by
  intro a0 a1; unfold execRunQuery
  repeat'
    first
    | with_reducible assumption | with_reducible apply ResultKeeps.next | with_reducible apply mailbox_keeps
    | with_reducible apply runQueryBody_keeps | (intro _)

/-! ## The operations of Contexts.lean -/

theorem funcOpenBody_keeps {s t : State} (h : Keeps s t) : ∀ a0 a1, Reply.Keeps s (funcOpenBody a0 a1 t) := by
  intro a0 a1; unfold funcOpenBody
  repeat'
    first
    | with_reducible assumption | with_reducible apply Reply.ite | with_reducible apply Reply.done_keeps
    | with_reducible apply updFunc_keeps

theorem funcInfoBody_keeps {s t : State} (h : Keeps s t) : Reply.Keeps s (funcInfoBody t) := by
  unfold funcInfoBody
  repeat'
    first
    | with_reducible assumption | with_reducible apply Reply.done_keeps

theorem execFuncOpen_keeps {s t : State} (h : Keeps s t) : ∀ a0 a1, ResultKeeps s (execFuncOpen a0 a1 t) := by
  intro a0 a1; unfold execFuncOpen
  repeat'
    first
    | with_reducible assumption | with_reducible apply ResultKeeps.next | with_reducible apply mailbox_keeps
    | with_reducible apply funcOpenBody_keeps | (intro _)

theorem execFuncInfo_keeps {s t : State} (h : Keeps s t) : ∀ a0, ResultKeeps s (execFuncInfo a0 t) := by
  intro a0; unfold execFuncInfo
  repeat'
    first
    | with_reducible assumption | with_reducible apply ResultKeeps.next | with_reducible apply mailbox_keeps
    | with_reducible apply funcInfoBody_keeps

theorem enterReside_keeps {s t : State} (h : Keeps s t) : ∀ a0 a1 a2 a3, Keeps s (enterReside a0 a1 a2 a3 t) := by
  intro a0 a1 a2 a3; unfold enterReside
  repeat'
    first
    | with_reducible assumption | with_reducible apply updPart_keeps | with_reducible apply updCtx_keeps

theorem settleContexts_keeps {s t : State} (h : Keeps s t) (s0 : State) : Keeps s (settleContexts s0 t) := by
  unfold settleContexts
  repeat'
    first
    | with_reducible assumption | with_reducible apply Keeps.ite | with_reducible apply forAll_keeps
    | with_reducible apply updCtx_keeps | with_reducible apply enterReside_keeps | (intro _) | dsimp only | split

theorem settled_keeps {s t : State} (h : Keeps s t) (f : State → State) (hf : ∀ u, Keeps s u → Keeps s (f u)) :
    Keeps s (settled f t) :=
  settleContexts_keeps (hf t h) t

theorem settledCmd_keeps {s t : State} (h : Keeps s t) (f : State → State) (hf : ∀ u, Keeps s u → Keeps s (f u)) :
    Keeps s (settledCmd f t) := by
  have g := hf t h
  have k := settleContexts_keeps (Keeps.refl (setLead 1 (f t))) t
  exact ⟨k.pending.trans g.pending, fun m => k.mode (g.mode m), fun a b => k.t1 (g.t1 a b) (g.t2 a b),
    fun a b => k.t2 (g.t1 a b) (g.t2 a b), fun _ => rfl⟩

theorem execWaitingRunStart_keeps {s t : State} (h : Keeps s t) : ∀ a0, ResultKeeps s (execWaitingRunStart a0 t) := by
  intro a0; unfold execWaitingRunStart
  repeat'
    first
    | with_reducible assumption | with_reducible apply event_keeps | with_reducible apply settled_keeps
    | with_reducible apply beginRun_keeps | (intro _)

theorem makeResident_keeps {s t : State} (h : Keeps s t) : ∀ a0 a1, Keeps s (makeResident a0 a1 t) := by
  intro a0 a1; unfold makeResident
  repeat'
    first
    | with_reducible assumption | with_reducible apply updPart_keeps | with_reducible apply updCtx_keeps
    | with_reducible apply completeAll_keeps

theorem finishSwaps_keeps {s t : State} (h : Keeps s t) : ∀ a0, Keeps s (finishSwaps a0 t) := by
  intro a0; unfold finishSwaps
  repeat'
    first
    | with_reducible assumption | (intro _) | with_reducible apply Keeps.ite | with_reducible apply forAll_keeps
    | with_reducible apply updPart_keeps | with_reducible apply updCtx_keeps | with_reducible apply makeResident_keeps
    | dsimp only | split

theorem swapOut_keeps {s t : State} (h : Keeps s t) : ∀ a0 a1 a2, Keeps s (swapOut a0 a1 a2 t) := by
  intro a0 a1 a2; unfold swapOut
  repeat'
    first
    | with_reducible assumption | (intro _) | with_reducible apply forAll_keeps | with_reducible apply evictBale_keeps
    | with_reducible apply serveFrames_keeps | with_reducible apply finishSwaps_keeps | with_reducible apply updPart_keeps

theorem resideTurns_keeps {s t : State} (h : Keeps s t) : ∀ a0 a1, Keeps s (resideTurns a0 a1 t) := by
  intro a0 a1; induction a0 generalizing t a1 with
  | zero => exact h
  | succ m ih =>
    unfold resideTurns
    repeat'
      first
      | with_reducible assumption | with_reducible apply Keeps.ite | with_reducible apply makeResident_keeps
      | with_reducible apply swapOut_keeps | with_reducible apply ih | split

theorem resideDecisions_keeps {s t : State} (h : Keeps s t) : Keeps s (resideDecisions t) := by
  unfold resideDecisions
  repeat'
    first
    | with_reducible assumption | (intro _) | with_reducible apply forAll_keeps | with_reducible apply settled_keeps
    | with_reducible apply resideTurns_keeps

theorem contextRegisterBody_keeps {s t : State} (h : Keeps s t) : ∀ a0 a1, Reply.Keeps s (contextRegisterBody a0 a1 t) := by
  intro a0 a1; unfold contextRegisterBody
  repeat'
    first
    | with_reducible assumption | with_reducible apply Reply.ite | with_reducible apply Reply.done_keeps
    | exact h.upd rfl rfl rfl rfl rfl

theorem releaseResources_keeps {s t : State} (h : Keeps s t) : ∀ a0 a1, Keeps s (releaseResources a0 a1 t) := by
  intro a0 a1; unfold releaseResources
  repeat'
    first
    | with_reducible assumption | (intro _) | with_reducible apply forAll_keeps | with_reducible apply abortSession_keeps
    | with_reducible apply unmapTensor_keeps | with_reducible apply destroySeq_keeps | with_reducible apply updPart_keeps

theorem contextReleaseBody_keeps {s t : State} (h : Keeps s t) : ∀ a0 a1, Reply.Keeps s (contextReleaseBody a0 a1 t) := by
  intro a0 a1; unfold contextReleaseBody
  repeat'
    first
    | with_reducible assumption | (intro _) | with_reducible apply Reply.ite | with_reducible apply Reply.done_keeps
    | with_reducible apply withCtx_keeps | with_reducible apply updCtxs_keeps | with_reducible apply releaseResources_keeps

theorem contextResideBody_keeps {s t : State} (h : Keeps s t) : ∀ a0 a1 a2, Reply.Keeps s (contextResideBody a0 a1 a2 t) := by
  intro a0 a1 a2; unfold contextResideBody
  repeat'
    first
    | with_reducible assumption | (intro _) | with_reducible apply Reply.ite | with_reducible apply Reply.done_keeps
    | with_reducible apply Reply.accept_keeps | with_reducible apply Keeps.ite | with_reducible apply withCtx_keeps
    | with_reducible apply swapOut_keeps | with_reducible apply makeResident_keeps | with_reducible apply enterReside_keeps

theorem dropLoads_keeps {s t : State} (h : Keeps s t) : ∀ a0, Keeps s (dropLoads a0 t) := by
  intro a0; unfold dropLoads
  repeat'
    first
    | with_reducible assumption | (intro _) | with_reducible apply forAll_keeps | with_reducible apply updPlace_keeps
    | with_reducible apply updTensor_keeps

theorem endCtxRuns_keeps {s t : State} (h : Keeps s t) : ∀ a0 a1 a2, Keeps s (endCtxRuns a0 a1 a2 t) := by
  intro a0 a1 a2; unfold endCtxRuns
  repeat'
    first
    | with_reducible assumption | with_reducible apply Keeps.ite | with_reducible apply endWaiting_keeps
    | with_reducible apply endRun_keeps | with_reducible apply quiesce_keeps | dsimp only | split

theorem cancelContext_keeps {s t : State} (h : Keeps s t) : ∀ a0, Keeps s (cancelContext a0 t) := by
  intro a0; unfold cancelContext
  repeat'
    first
    | with_reducible assumption | (intro _) | with_reducible apply Keeps.ite | with_reducible apply forAll_keeps
    | with_reducible apply endCtxRuns_keeps | with_reducible apply abortSession_keeps | with_reducible apply dropLoads_keeps
    | with_reducible apply completeAll_keeps | with_reducible apply updFabric_keeps | with_reducible apply updCtx_keeps
    | with_reducible apply updRecov_keeps | with_reducible apply releaseResources_keeps | dsimp only | split

theorem finishCancels_keeps {s t : State} (h : Keeps s t) : Keeps s (finishCancels t) := by
  unfold finishCancels
  repeat'
    first
    | with_reducible assumption | (intro _) | with_reducible apply Keeps.ite | with_reducible apply forAll_keeps
    | with_reducible apply updRecov_keeps | with_reducible apply updCtx_keeps | with_reducible apply releaseResources_keeps
    | with_reducible apply completeAll_keeps

theorem contextCancelBody_keeps {s t : State} (h : Keeps s t) : ∀ a0 a1, Reply.Keeps s (contextCancelBody a0 a1 t) := by
  intro a0 a1; unfold contextCancelBody
  repeat'
    first
    | with_reducible assumption | (intro _) | with_reducible apply Reply.accept_keeps | with_reducible apply withCtx_keeps
    | with_reducible apply cancelContext_keeps

theorem execContextRegister_keeps {s t : State} (h : Keeps s t) : ∀ a0 a1, ResultKeeps s (execContextRegister a0 a1 t) := by
  intro a0 a1; unfold execContextRegister
  repeat'
    first
    | with_reducible assumption | with_reducible apply ResultKeeps.next | with_reducible apply settledCmd_keeps
    | with_reducible apply mailbox_keeps | with_reducible apply contextRegisterBody_keeps | (intro _)

theorem execContextRelease_keeps {s t : State} (h : Keeps s t) : ∀ a0 a1, ResultKeeps s (execContextRelease a0 a1 t) := by
  intro a0 a1; unfold execContextRelease
  repeat'
    first
    | with_reducible assumption | with_reducible apply ResultKeeps.next | with_reducible apply settledCmd_keeps
    | with_reducible apply mailbox_keeps | with_reducible apply contextReleaseBody_keeps | (intro _)

theorem execContextReside_keeps {s t : State} (h : Keeps s t) : ∀ a0 a1 a2, ResultKeeps s (execContextReside a0 a1 a2 t) := by
  intro a0 a1 a2; unfold execContextReside
  repeat'
    first
    | with_reducible assumption | with_reducible apply ResultKeeps.next | with_reducible apply settledCmd_keeps
    | with_reducible apply mailbox_keeps | with_reducible apply contextResideBody_keeps | (intro _)

theorem execContextCancel_keeps {s t : State} (h : Keeps s t) : ∀ a0 a1, ResultKeeps s (execContextCancel a0 a1 t) := by
  intro a0 a1; unfold execContextCancel
  repeat'
    first
    | with_reducible assumption | with_reducible apply ResultKeeps.next | with_reducible apply settledCmd_keeps
    | with_reducible apply mailbox_keeps | with_reducible apply contextCancelBody_keeps | (intro _)

theorem execHandleExpiry_keeps {s t : State} (h : Keeps s t) : ∀ a0, ResultKeeps s (execHandleExpiry a0 t) := by
  intro a0; unfold execHandleExpiry
  repeat'
    first
    | with_reducible assumption | with_reducible apply event_keeps | with_reducible apply updCtxs_keeps

theorem syncAddBody_keeps {s t : State} (h : Keeps s t) : ∀ a0 a1 a2 a3, Reply.Keeps s (syncAddBody a0 a1 a2 a3 t) := by
  intro a0 a1 a2 a3; unfold syncAddBody
  repeat'
    first
    | with_reducible assumption | with_reducible apply Reply.ite | with_reducible apply Reply.done_keeps
    | with_reducible apply setSync_keeps

theorem syncReadBody_keeps {s t : State} (h : Keeps s t) : ∀ a0 a1 a2, Reply.Keeps s (syncReadBody a0 a1 a2 t) := by
  intro a0 a1 a2; unfold syncReadBody
  repeat'
    first
    | with_reducible assumption | with_reducible apply Reply.ite | with_reducible apply Reply.done_keeps

theorem syncWaitBody_keeps {s t : State} (h : Keeps s t) : ∀ a0 a1 a2 a3 a4, Reply.Keeps s (syncWaitBody a0 a1 a2 a3 a4 t) := by
  intro a0 a1 a2 a3 a4; unfold syncWaitBody
  repeat'
    first
    | with_reducible assumption | (intro _) | with_reducible apply Reply.ite | with_reducible apply Reply.done_keeps
    | with_reducible apply Reply.accept_keeps | with_reducible apply withCtx_keeps | with_reducible apply updCtx_keeps

theorem execSyncAdd_keeps {s t : State} (h : Keeps s t) : ∀ a0 a1 a2 a3, ResultKeeps s (execSyncAdd a0 a1 a2 a3 t) := by
  intro a0 a1 a2 a3; unfold execSyncAdd
  repeat'
    first
    | with_reducible assumption | with_reducible apply ResultKeeps.next | with_reducible apply mailbox_keeps
    | with_reducible apply syncAddBody_keeps | (intro _)

theorem execSyncRead_keeps {s t : State} (h : Keeps s t) : ∀ a0 a1 a2, ResultKeeps s (execSyncRead a0 a1 a2 t) := by
  intro a0 a1 a2; unfold execSyncRead
  repeat'
    first
    | with_reducible assumption | with_reducible apply ResultKeeps.next | with_reducible apply mailbox_keeps
    | with_reducible apply syncReadBody_keeps | (intro _)

theorem execSyncWait_keeps {s t : State} (h : Keeps s t) : ∀ a0 a1 a2 a3 a4, ResultKeeps s (execSyncWait a0 a1 a2 a3 a4 t) := by
  intro a0 a1 a2 a3 a4; unfold execSyncWait
  repeat'
    first
    | with_reducible assumption | with_reducible apply ResultKeeps.next | with_reducible apply settledCmd_keeps
    | with_reducible apply mailbox_keeps | with_reducible apply syncWaitBody_keeps | (intro _)

theorem endWait_keeps {s t : State} (h : Keeps s t) : ∀ a0 a1 a2 a3, Keeps s (endWait a0 a1 a2 a3 t) := by
  intro a0 a1 a2 a3; unfold endWait
  repeat'
    first
    | with_reducible assumption | with_reducible apply completeProg_keeps | with_reducible apply updCtx_keeps

theorem evaluateWaits_keeps {s t : State} (h : Keeps s t) : Keeps s (evaluateWaits t) := by
  unfold evaluateWaits
  repeat'
    first
    | with_reducible assumption | (intro _) | with_reducible apply Keeps.ite | with_reducible apply forAll_keeps
    | with_reducible apply endWait_keeps | split

theorem timeoutWait_keeps {s t : State} (h : Keeps s t) : ∀ a0 a1, Keeps s (timeoutWait a0 a1 t) := by
  intro a0 a1; unfold timeoutWait
  repeat'
    first
    | with_reducible assumption | with_reducible apply endWait_keeps | split

theorem execSyncWaitTimeout_keeps {s t : State} (h : Keeps s t) : ∀ a0 a1, ResultKeeps s (execSyncWaitTimeout a0 a1 t) := by
  intro a0 a1; unfold execSyncWaitTimeout
  repeat'
    first
    | with_reducible assumption | with_reducible apply event_keeps | with_reducible apply settled_keeps
    | with_reducible apply timeoutWait_keeps | (intro _)

/-! ## The operations of Transfers.lean -/

theorem fillFrame_keeps {s t : State} (h : Keeps s t) (x : Tensor) (b : Bale) : Keeps s (fillFrame x b t) := by
  unfold fillFrame
  split
  · exact h
  · dsimp only
    split
    · exact updHbm_mem (zeroFrame_keeps h _) _ (fun a c => copyRange_wf _ _ _ _ _ c a) (fun _ c => c)
    · exact zeroFrame_keeps h _

theorem settleIntent_keeps {s t : State} (h : Keeps s t) : ∀ a0 a1 a2, Keeps s (settleIntent a0 a1 a2 t) := by
  intro a0 a1 a2; unfold settleIntent
  repeat'
    first
    | with_reducible assumption | with_reducible apply Keeps.ite | with_reducible apply daybook_keeps
    | with_reducible apply updBale_keeps | with_reducible apply serveFrames_keeps | with_reducible apply evictBale_keeps
    | dsimp only | split

theorem promotionDone_keeps {s t : State} (h : Keeps s t) : ∀ a0 a1, Keeps s (promotionDone a0 a1 t) := by
  intro a0 a1; unfold promotionDone
  repeat'
    first
    | with_reducible assumption | (intro _) | with_reducible apply Keeps.ite | with_reducible apply updBale_keeps
    | with_reducible apply entryChange_keeps | with_reducible apply fillFrame_keeps | with_reducible apply settleIntent_keeps
    | with_reducible apply finishAllocs_keeps | with_reducible apply settle_keeps | dsimp only | split

theorem promotionFail_keeps {s t : State} (h : Keeps s t) : ∀ a0 a1, Keeps s (promotionFail a0 a1 t) := by
  intro a0 a1; unfold promotionFail
  repeat'
    first
    | with_reducible assumption | with_reducible apply updBale_keeps | with_reducible apply unmarkFrame_keeps
    | with_reducible apply serveFrames_keeps | with_reducible apply lowerTierRecord_keeps | with_reducible apply settle_keeps
    | dsimp only | split

theorem carryPoison_keeps {s t : State} (h : Keeps s t) : ∀ a0 a1, Keeps s (carryPoison a0 a1 t) := by
  intro a0 a1; unfold carryPoison
  repeat'
    first
    | with_reducible assumption | with_reducible refine updHbm_keeps ?_ _ rfl rfl

theorem writeHome_keeps {s t : State} (h : Keeps s t) (x : Tensor) (b : Bale) : Keeps s (writeHome x b t) := by
  unfold writeHome
  split
  · exact endRead_keeps (carryPoison_keeps (updHbm_mem h _ (fun a _ => a) (fun a c => copyRange_wf _ _ _ _ _ a c)) _ _) _
  · exact h

theorem writeBackDone_keeps {s t : State} (h : Keeps s t) : ∀ a0 a1, Keeps s (writeBackDone a0 a1 t) := by
  intro a0 a1; unfold writeBackDone
  repeat'
    first
    | with_reducible assumption | with_reducible apply Keeps.ite | with_reducible apply settle_keeps
    | with_reducible apply toT2_keeps | with_reducible apply writeHome_keeps | with_reducible apply startPromotion_keeps
    | with_reducible apply finishSwaps_keeps | with_reducible apply serveFrames_keeps | dsimp only | split

theorem failAllocs_keeps {s t : State} (h : Keeps s t) : ∀ a0, Keeps s (failAllocs a0 t) := by
  intro a0; unfold failAllocs
  repeat'
    first
    | with_reducible assumption | (intro _) | with_reducible apply Keeps.ite | with_reducible apply forAll_keeps
    | with_reducible apply dropTensor_keeps | with_reducible apply completeProg_keeps | split

theorem writeBackFail_keeps {s t : State} (h : Keeps s t) : ∀ a0 a1, Keeps s (writeBackFail a0 a1 t) := by
  intro a0 a1; unfold writeBackFail
  repeat'
    first
    | with_reducible assumption | (intro _) | with_reducible apply Keeps.ite | with_reducible apply updBale_keeps
    | with_reducible apply lowerTierRecord_keeps | with_reducible apply settle_keeps | with_reducible apply finishSwaps_keeps
    | with_reducible apply failWaiting_keeps | with_reducible apply failAllocs_keeps | with_reducible apply serveFrames_keeps
    | dsimp only | split

theorem execPromotionDone_keeps {s t : State} (h : Keeps s t) : ∀ a0 a1, ResultKeeps s (execPromotionDone a0 a1 t) := by
  intro a0 a1; unfold execPromotionDone
  repeat'
    first
    | with_reducible assumption | with_reducible apply event_keeps | with_reducible apply settled_keeps
    | with_reducible apply promotionDone_keeps | (intro _)

theorem execPromotionFail_keeps {s t : State} (h : Keeps s t) : ∀ a0 a1, ResultKeeps s (execPromotionFail a0 a1 t) := by
  intro a0 a1; unfold execPromotionFail
  repeat'
    first
    | with_reducible assumption | with_reducible apply event_keeps | with_reducible apply settled_keeps
    | with_reducible apply promotionFail_keeps | (intro _)

theorem execWriteBackDone_keeps {s t : State} (h : Keeps s t) : ∀ a0 a1, ResultKeeps s (execWriteBackDone a0 a1 t) := by
  intro a0 a1; unfold execWriteBackDone
  repeat'
    first
    | with_reducible assumption | with_reducible apply event_keeps | with_reducible apply settled_keeps
    | with_reducible apply writeBackDone_keeps | (intro _)

theorem execWriteBackFail_keeps {s t : State} (h : Keeps s t) : ∀ a0 a1, ResultKeeps s (execWriteBackFail a0 a1 t) := by
  intro a0 a1; unfold execWriteBackFail
  repeat'
    first
    | with_reducible assumption | with_reducible apply event_keeps | with_reducible apply settled_keeps
    | with_reducible apply writeBackFail_keeps | (intro _)

theorem transferFail_keeps {s t : State} (h : Keeps s t) : ∀ a0 a1, Keeps s (transferFail a0 a1 t) := by
  intro a0 a1; unfold transferFail
  repeat'
    first
    | with_reducible assumption | with_reducible apply Keeps.ite | with_reducible apply writeBackFail_keeps
    | with_reducible apply promotionFail_keeps

theorem t2Response_keeps {s t : State} (h : Keeps s t) : ∀ a0 a1 a2, Keeps s (t2Response a0 a1 a2 t) := by
  intro a0 a1 a2; unfold t2Response
  repeat'
    first
    | with_reducible assumption | (intro _) | with_reducible apply Keeps.ite | with_reducible apply promotionFail_keeps
    | with_reducible apply updBale_keeps

theorem execT2Response_keeps {s t : State} (h : Keeps s t) : ∀ a0 a1 a2, ResultKeeps s (execT2Response a0 a1 a2 t) := by
  intro a0 a1 a2; unfold execT2Response
  repeat'
    first
    | with_reducible assumption | with_reducible apply event_keeps | with_reducible apply settled_keeps
    | with_reducible apply t2Response_keeps | (intro _)

theorem execT2Timeout_keeps {s t : State} (h : Keeps s t) : ∀ a0 a1, ResultKeeps s (execT2Timeout a0 a1 t) := by
  intro a0 a1; unfold execT2Timeout
  repeat'
    first
    | with_reducible assumption | with_reducible apply event_keeps | with_reducible apply settled_keeps
    | with_reducible apply transferFail_keeps | (intro _)

theorem endZeroing_keeps {s t : State} (h : Keeps s t) : ∀ a0, Keeps s (endZeroing a0 t) := by
  intro a0; unfold endZeroing
  repeat'
    first
    | with_reducible assumption | (intro _) | with_reducible apply Keeps.ite | with_reducible apply updPlace_keeps
    | with_reducible apply completeProg_keeps | with_reducible apply clearCommons_keeps
    | with_reducible apply finishAllocs_keeps | with_reducible apply zeroFrame_keeps | dsimp only | split

theorem execFrameZeroDone_keeps {s t : State} (h : Keeps s t) : ∀ a0, ResultKeeps s (execFrameZeroDone a0 t) := by
  intro a0; unfold execFrameZeroDone
  repeat'
    first
    | with_reducible assumption | with_reducible apply event_keeps | with_reducible apply endZeroing_keeps

/-! ## The operations of Loads.lean -/

theorem askShard_keeps {s t : State} (h : Keeps s t) : ∀ a0 a1 a2, Keeps s (askShard a0 a1 a2 t) := by
  intro a0 a1 a2; unfold askShard
  repeat'
    first
    | with_reducible assumption | (intro _) | with_reducible apply emit_keeps | dsimp only | split

theorem fillFlight_keeps {s t : State} (h : Keeps s t) (n : Nat) (l : Load) : Keeps s (fillFlight n l t).2 := by
  induction n generalizing l t with
  | zero => exact h
  | succ n ih =>
    unfold fillFlight
    split
    · exact ih (askShard_keeps h _ _ _) _
    · exact h

theorem setLoad_keeps {s t : State} (h : Keeps s t) : ∀ a0, Keeps s (setLoad a0 t) := by
  intro a0; unfold setLoad
  repeat'
    first
    | with_reducible assumption | with_reducible apply updPlace_keeps

theorem weightLoadBody_keeps {s t : State} (h : Keeps s t) : ∀ a0 a1 a2 a3 a4, Reply.Keeps s (weightLoadBody a0 a1 a2 a3 a4 t) := by
  intro a0 a1 a2 a3 a4; unfold weightLoadBody
  repeat'
    first
    | with_reducible assumption | (intro _) | with_reducible apply Reply.ite | with_reducible apply Reply.done_keeps
    | with_reducible apply Reply.accept_keeps | with_reducible apply withCtx_keeps | with_reducible apply fillFlight_keeps
    | with_reducible apply updPlace_keeps | with_reducible apply updTensor_keeps | extract_lets | split

theorem execWeightLoad_keeps {s t : State} (h : Keeps s t) : ∀ a0 a1 a2 a3 a4, ResultKeeps s (execWeightLoad a0 a1 a2 a3 a4 t) := by
  intro a0 a1 a2 a3 a4; unfold execWeightLoad
  repeat'
    first
    | with_reducible assumption | with_reducible apply ResultKeeps.next | with_reducible apply mailbox_keeps
    | with_reducible apply weightLoadBody_keeps | (intro _)

theorem endLoad_keeps {s t : State} (h : Keeps s t) : ∀ a0 a1 a2, Keeps s (endLoad a0 a1 a2 t) := by
  intro a0 a1 a2; unfold endLoad
  repeat'
    first
    | with_reducible assumption | with_reducible apply Keeps.ite | with_reducible apply updPlace_keeps
    | with_reducible apply updTensor_keeps | with_reducible apply daybook_keeps | with_reducible apply lowerTierRecord_keeps
    | with_reducible apply completeProg_keeps | dsimp only | split

theorem shardDone_keeps {s t : State} (h : Keeps s t) : ∀ a0 a1, Keeps s (shardDone a0 a1 t) := by
  intro a0 a1; unfold shardDone
  repeat'
    first
    | with_reducible assumption | with_reducible apply Keeps.ite | with_reducible apply fillFlight_keeps
    | with_reducible apply endLoad_keeps | with_reducible apply setLoad_keeps

theorem refetch_keeps {s t : State} (h : Keeps s t) : ∀ a0 a1 a2, Keeps s (refetch a0 a1 a2 t) := by
  intro a0 a1 a2; unfold refetch
  repeat'
    first
    | with_reducible assumption | (intro _) | with_reducible apply setLoad_keeps | with_reducible apply askShard_keeps

theorem shardCorrupt_keeps {s t : State} (h : Keeps s t) : ∀ a0 a1 a2, Keeps s (shardCorrupt a0 a1 a2 t) := by
  intro a0 a1 a2; unfold shardCorrupt
  repeat'
    first
    | with_reducible assumption | with_reducible apply Keeps.ite | with_reducible apply endLoad_keeps
    | with_reducible apply refetch_keeps | dsimp only | split

theorem skipReplica_keeps {s t : State} (h : Keeps s t) : ∀ a0 a1 a2, Keeps s (skipReplica a0 a1 a2 t) := by
  intro a0 a1 a2; unfold skipReplica
  repeat'
    first
    | with_reducible assumption | with_reducible apply refetch_keeps | with_reducible apply endLoad_keeps | split

theorem writeKept_keeps {s t : State} (h : Keeps s t) (x : Tensor) (o : Nat) (d : List Byte) : Keeps s (writeKept x o d t) := by
  unfold writeKept
  split
  · exact writeT1_keeps h _ _
  · refine updBale_keeps (updHbm_mem h _ (fun a _ => a) fun _ b => putBytes_wf _ _ _ ?_) _ _ _
    split
    · exact clearRange_wf _ _ _ b
    · exact b
  · exact h

theorem takeChunk_keeps {s t : State} (h : Keeps s t) : ∀ a0 a1 a2 a3 a4 a5, Keeps s (takeChunk a0 a1 a2 a3 a4 a5 t) := by
  intro a0 a1 a2 a3 a4 a5; unfold takeChunk
  repeat'
    first
    | with_reducible assumption | (intro _) | with_reducible apply Keeps.ite | with_reducible apply shardCorrupt_keeps
    | with_reducible apply writeKept_keeps | with_reducible apply setLoad_keeps | with_reducible apply shardDone_keeps

theorem chunkArrive_keeps {s t : State} (h : Keeps s t) : ∀ a0 a1 a2 a3, Keeps s (chunkArrive a0 a1 a2 a3 t) := by
  intro a0 a1 a2 a3; unfold chunkArrive
  repeat'
    first
    | with_reducible assumption | with_reducible apply takeChunk_keeps | split

theorem execChunkArrive_keeps {s t : State} (h : Keeps s t) : ∀ a0 a1 a2 a3, ResultKeeps s (execChunkArrive a0 a1 a2 a3 t) := by
  intro a0 a1 a2 a3; unfold execChunkArrive
  repeat'
    first
    | with_reducible assumption | with_reducible apply event_keeps | with_reducible apply chunkArrive_keeps

theorem remoteAccessError_keeps {s t : State} (h : Keeps s t) : ∀ a0 a1, Keeps s (remoteAccessError a0 a1 t) := by
  intro a0 a1; unfold remoteAccessError
  repeat'
    first
    | with_reducible assumption | with_reducible apply skipReplica_keeps | dsimp only | split

theorem replicaFail_keeps {s t : State} (h : Keeps s t) : ∀ a0 a1, Keeps s (replicaFail a0 a1 t) := by
  intro a0 a1; unfold replicaFail
  repeat'
    first
    | with_reducible assumption | with_reducible apply skipReplica_keeps | dsimp only | split

theorem execRdmaRemoteAccessError_keeps {s t : State} (h : Keeps s t) : ∀ a0 a1, ResultKeeps s (execRdmaRemoteAccessError a0 a1 t) := by
  intro a0 a1; unfold execRdmaRemoteAccessError
  repeat'
    first
    | with_reducible assumption | with_reducible apply event_keeps | with_reducible apply remoteAccessError_keeps

theorem execReplicaTimeout_keeps {s t : State} (h : Keeps s t) : ∀ a0 a1, ResultKeeps s (execReplicaTimeout a0 a1 t) := by
  intro a0 a1; unfold execReplicaTimeout
  repeat'
    first
    | with_reducible assumption | with_reducible apply event_keeps | with_reducible apply replicaFail_keeps

theorem failFetches_keeps {s t : State} (h : Keeps s t) : ∀ a0, Keeps s (failFetches a0 t) := by
  intro a0; unfold failFetches
  repeat'
    first
    | with_reducible assumption | (intro _) | with_reducible apply Keeps.ite | with_reducible apply forAll_keeps
    | with_reducible apply replicaFail_keeps

/-! ## The operations of Link.lean -/

theorem hostCopyBody_keeps {s t : State} (h : Keeps s t) : ∀ a0 a1 a2 a3 a4 a5 a6, Reply.Keeps s (hostCopyBody a0 a1 a2 a3 a4 a5 a6 t) := by
  intro a0 a1 a2 a3 a4 a5 a6; unfold hostCopyBody
  repeat'
    first
    | with_reducible assumption | (intro _) | with_reducible apply Reply.ite | with_reducible apply Reply.done_keeps
    | with_reducible apply Reply.accept_keeps | with_reducible apply withCtx_keeps | with_reducible apply updHost_keeps
    | dsimp only | split

theorem execHostCopy_keeps {s t : State} (h : Keeps s t) : ∀ a0 a1 a2 a3 a4 a5 a6, ResultKeeps s (execHostCopy a0 a1 a2 a3 a4 a5 a6 t) := by
  intro a0 a1 a2 a3 a4 a5 a6; unfold execHostCopy
  repeat'
    first
    | with_reducible assumption | with_reducible apply ResultKeeps.next | with_reducible apply mailbox_keeps
    | with_reducible apply hostCopyBody_keeps | (intro _)

theorem endCopy_keeps {s t : State} (h : Keeps s t) : ∀ a0 a1 a2, Keeps s (endCopy a0 a1 a2 t) := by
  intro a0 a1 a2; unfold endCopy
  repeat'
    first
    | with_reducible assumption | with_reducible apply Keeps.ite | with_reducible apply updHost_keeps
    | with_reducible apply updRecov_keeps | with_reducible apply addSync_keeps | with_reducible apply daybook_keeps
    | with_reducible apply completeProg_keeps | with_reducible apply clearSuspect_keeps | split

theorem setDone_keeps {s t : State} (h : Keeps s t) : ∀ a0 a1, Keeps s (setDone a0 a1 t) := by
  intro a0 a1; unfold setDone
  repeat'
    first
    | with_reducible assumption | with_reducible apply updHost_keeps

theorem sectorsIn_keeps {s t : State} (h : Keeps s t) : ∀ a0 a1, Keeps s (sectorsIn a0 a1 t) := by
  intro a0 a1; unfold sectorsIn
  repeat'
    first
    | with_reducible assumption | (intro _) | with_reducible apply forAll_keeps | with_reducible apply writeVaPage_keeps

theorem endVa_keeps {s t : State} (h : Keeps s t) : ∀ a0 a1 a2, Keeps s (endVa a0 a1 a2 t) := by
  intro a0 a1 a2; unfold endVa
  repeat'
    first
    | with_reducible assumption | (intro _) | with_reducible apply endRead_keeps | dsimp only | split

theorem sectorsOut_keeps {s t : State} (h : Keeps s t) (c : HostCopy) (n d : Nat) : Keeps s (sectorsOut c n d t).1 := by
  induction n generalizing d t with
  | zero => exact h
  | succ n ih =>
    unfold sectorsOut
    dsimp only
    split
    · exact endVa_keeps (emit_keeps h _) _ _ _
    · exact ih (endVa_keeps (emit_keeps h _) _ _ _) _

theorem copySectors_keeps {s t : State} (h : Keeps s t) : ∀ a0 a1 a2, Keeps s (copySectors a0 a1 a2 t) := by
  intro a0 a1 a2; unfold copySectors
  repeat'
    first
    | with_reducible assumption | with_reducible apply Keeps.ite | with_reducible apply endCopy_keeps
    | with_reducible apply sectorsIn_keeps | with_reducible apply sectorsOut_keeps | with_reducible apply setDone_keeps | split

theorem onCopy_keeps {s t : State} (h : Keeps s t) (i : Nat) (f : HostCopy → State → State)
    (hf : ∀ c u, Keeps s u → Keeps s (f c u)) : Keeps s (onCopy i f t) := by
  unfold onCopy
  split
  · exact hf _ _ h
  · exact h

theorem execHostDroverCompletion_keeps {s t : State} (h : Keeps s t) : ∀ a0 a1 a2, ResultKeeps s (execHostDroverCompletion a0 a1 a2 t) := by
  intro a0 a1 a2; unfold execHostDroverCompletion
  repeat'
    first
    | with_reducible assumption | with_reducible apply event_keeps | with_reducible apply settled_keeps
    | with_reducible apply onCopy_keeps | with_reducible apply copySectors_keeps | (intro _)

theorem execHostCompletionTimeout_keeps {s t : State} (h : Keeps s t) : ∀ a0, ResultKeeps s (execHostCompletionTimeout a0 t) := by
  intro a0; unfold execHostCompletionTimeout
  repeat'
    first
    | with_reducible assumption | with_reducible apply event_keeps | with_reducible apply settled_keeps
    | with_reducible apply onCopy_keeps | with_reducible apply copySectors_keeps | (intro _)

theorem execHostSnoop_keeps {s t : State} (h : Keeps s t) : ∀ a0, ResultKeeps s (execHostSnoop a0 t) := by
  intro a0; unfold execHostSnoop
  repeat'
    first
    | with_reducible assumption | with_reducible apply ResultKeeps.next | with_reducible apply emit_keeps

theorem backInvalidate_keeps {s t : State} (h : Keeps s t) : ∀ a0, Keeps s (backInvalidate a0 t) := by
  intro a0; unfold backInvalidate
  repeat'
    first
    | with_reducible assumption | with_reducible apply Keeps.ite | with_reducible apply emit_keeps
    | with_reducible apply updHost_keeps

theorem filterLine_keeps {s t : State} (h : Keeps s t) : ∀ a0, Keeps s (filterLine a0 t) := by
  intro a0; unfold filterLine
  repeat'
    first
    | with_reducible assumption | with_reducible apply Keeps.ite | with_reducible apply backInvalidate_keeps
    | with_reducible apply updHost_keeps | split

theorem countUnbacked_keeps {s t : State} (h : Keeps s t) : Keeps s (countUnbacked t) := by
  unfold countUnbacked
  repeat'
    first
    | with_reducible assumption | with_reducible apply updHost_keeps

theorem hdmRead_keeps {s t : State} (h : Keeps s t) : ∀ a0 a1, Keeps s (hdmRead a0 a1 t) := by
  intro a0 a1; unfold hdmRead
  repeat'
    first
    | with_reducible assumption | (intro _) | with_reducible apply Keeps.ite | with_reducible apply emit_keeps
    | with_reducible apply countUnbacked_keeps | with_reducible apply endRead_keeps | with_reducible apply filterLine_keeps

theorem hdmWrite_keeps {s t : State} (h : Keeps s t) : ∀ a0 a1, Keeps s (hdmWrite a0 a1 t) := by
  intro a0 a1; unfold hdmWrite
  repeat'
    first
    | with_reducible assumption | with_reducible apply Keeps.ite | with_reducible apply countUnbacked_keeps
    | with_reducible apply writeT1_keeps

theorem execHdmRead_keeps {s t : State} (h : Keeps s t) : ∀ a0 a1, ResultKeeps s (execHdmRead a0 a1 t) := by
  intro a0 a1; unfold execHdmRead
  repeat'
    first
    | with_reducible assumption | with_reducible apply ResultKeeps.next | with_reducible apply hdmRead_keeps

theorem execHdmWrite_keeps {s t : State} (h : Keeps s t) : ∀ a0 a1, ResultKeeps s (execHdmWrite a0 a1 t) := by
  intro a0 a1; unfold execHdmWrite
  repeat'
    first
    | with_reducible assumption | with_reducible apply ResultKeeps.next | with_reducible apply hdmWrite_keeps

theorem backInvalidateIf_keeps {s t : State} (h : Keeps s t) : ∀ a0, Keeps s (backInvalidateIf a0 t) := by
  intro a0; unfold backInvalidateIf
  repeat'
    first
    | with_reducible assumption | (intro _) | with_reducible apply forAll_keeps | with_reducible apply backInvalidate_keeps
    | with_reducible apply updHost_keeps

theorem expose_keeps {s t : State} (h : Keeps s t) : ∀ a0, Keeps s (expose a0 t) := by
  intro a0; unfold expose
  repeat'
    first
    | with_reducible assumption | (intro _) | with_reducible apply updHost_keeps

theorem hostHdmBody_keeps {s t : State} (h : Keeps s t) : ∀ a0, Reply.Keeps s (hostHdmBody a0 t) := by
  intro a0; unfold hostHdmBody
  repeat'
    first
    | with_reducible assumption | (intro _) | with_reducible apply Keeps.ite | with_reducible apply Reply.ite
    | with_reducible apply Reply.done_keeps | with_reducible apply Reply.accept_keeps
    | with_reducible apply backInvalidateIf_keeps | with_reducible apply expose_keeps

theorem execHostHdm_keeps {s t : State} (h : Keeps s t) : ∀ a0 a1, ResultKeeps s (execHostHdm a0 a1 t) := by
  intro a0 a1; unfold execHostHdm
  repeat'
    first
    | with_reducible assumption | with_reducible apply ResultKeeps.next | with_reducible apply mailbox_keeps
    | with_reducible apply hostHdmBody_keeps | (intro _)

theorem backInvalidated_keeps {s t : State} (h : Keeps s t) : ∀ a0, Keeps s (backInvalidated a0 t) := by
  intro a0; unfold backInvalidated
  repeat'
    first
    | with_reducible assumption | (intro _) | with_reducible apply Keeps.ite | with_reducible apply forAll_keeps
    | with_reducible apply updHost_keeps | with_reducible apply completeProg_keeps | with_reducible apply expose_keeps
    | dsimp only | split

theorem execBackInvalidateResponse_keeps {s t : State} (h : Keeps s t) : ∀ a0, ResultKeeps s (execBackInvalidateResponse a0 t) := by
  intro a0; unfold execBackInvalidateResponse
  repeat'
    first
    | with_reducible assumption | with_reducible apply ResultKeeps.next | with_reducible apply backInvalidated_keeps

theorem sendPending_keeps {s t : State} (h : Keeps s t) : Keeps s (sendPending t) := by
  unfold sendPending
  repeat'
    first
    | with_reducible assumption | (intro _) | with_reducible apply forAll_keeps | with_reducible apply emit_keeps
    | with_reducible apply updFunc_keeps

theorem linkTrained_keeps {s t : State} (h : Keeps s t) : ∀ a0 a1, Keeps s (linkTrained a0 a1 t) := by
  intro a0 a1; unfold linkTrained
  repeat'
    first
    | with_reducible assumption | with_reducible apply Keeps.ite | with_reducible apply updHost_keeps
    | with_reducible apply sendPending_keeps

theorem execLinkTrained_keeps {s t : State} (h : Keeps s t) : ∀ a0 a1, ResultKeeps s (execLinkTrained a0 a1 t) := by
  intro a0 a1; unfold execLinkTrained
  repeat'
    first
    | with_reducible assumption | with_reducible apply event_keeps | with_reducible apply linkTrained_keeps

theorem execLinkDetectRetry_keeps {s t : State} (h : Keeps s t) : ResultKeeps s (execLinkDetectRetry t) := by
  unfold execLinkDetectRetry
  repeat'
    first
    | with_reducible assumption | with_reducible apply event_keeps | with_reducible apply updHost_keeps

theorem linkDown_keeps {s t : State} (h : Keeps s t) : Keeps s (linkDown t) := by
  unfold linkDown
  repeat'
    first
    | with_reducible assumption | (intro _) | with_reducible apply forAll_keeps | with_reducible apply updHost_keeps
    | with_reducible apply transferFail_keeps | with_reducible apply copySectors_keeps

theorem execLinkDown_keeps {s t : State} (h : Keeps s t) : ResultKeeps s (execLinkDown t) := by
  unfold execLinkDown
  repeat'
    first
    | with_reducible assumption | with_reducible apply event_keeps | with_reducible apply settled_keeps
    | with_reducible apply linkDown_keeps

theorem abandonProgs_keeps {s t : State} (h : Keeps s t) : ∀ a0, Keeps s (abandonProgs a0 t) := by
  intro a0; unfold abandonProgs
  repeat'
    first
    | with_reducible assumption | (intro _) | with_reducible apply forAll_keeps | with_reducible apply updHost_keeps
    | with_reducible apply updRecov_keeps | with_reducible apply updCtx_keeps | split

theorem functionReset_keeps {s t : State} (h : Keeps s t) : ∀ a0, Keeps s (functionReset a0 t) := by
  intro a0; unfold functionReset
  repeat'
    first
    | with_reducible assumption | (intro _) | with_reducible apply forAll_keeps | with_reducible apply abandonProgs_keeps
    | with_reducible apply cancelContext_keeps | with_reducible apply updFunc_keeps

theorem hotReset_keeps {s t : State} (h : Keeps s t) : Keeps s (hotReset t) := by
  unfold hotReset
  repeat'
    first
    | with_reducible assumption | (intro _) | with_reducible apply forAll_keeps | with_reducible apply linkDown_keeps
    | with_reducible apply functionReset_keeps

theorem execFunctionLevelReset_keeps {s t : State} (h : Keeps s t) : ∀ a0, ResultKeeps s (execFunctionLevelReset a0 t) := by
  intro a0; unfold execFunctionLevelReset
  repeat'
    first
    | with_reducible assumption | with_reducible apply ResultKeeps.next | with_reducible apply settled_keeps
    | with_reducible apply functionReset_keeps | (intro _)

theorem execHotReset_keeps {s t : State} (h : Keeps s t) : ResultKeeps s (execHotReset t) := by
  unfold execHotReset
  repeat'
    first
    | with_reducible assumption | with_reducible apply ResultKeeps.next | with_reducible apply settled_keeps
    | with_reducible apply hotReset_keeps

theorem execPerstAssert_keeps {s t : State} (h : Keeps s t) : ResultKeeps s (execPerstAssert t) := by
  unfold execPerstAssert
  repeat'
    first
    | with_reducible assumption | with_reducible apply ResultKeeps.next | with_reducible apply updHost_keeps
    | with_reducible apply settled_keeps | with_reducible apply hotReset_keeps

theorem execPerstDeassert_keeps {s t : State} (h : Keeps s t) : ResultKeeps s (execPerstDeassert t) := by
  unfold execPerstDeassert
  repeat'
    first
    | with_reducible assumption | with_reducible apply ResultKeeps.next | with_reducible apply updHost_keeps

theorem doeRequest_keeps {s t : State} (h : Keeps s t) : ∀ a0 a1, Keeps s (doeRequest a0 a1 t) := by
  intro a0 a1; unfold doeRequest
  repeat'
    first
    | with_reducible assumption | (intro _) | with_reducible apply Keeps.ite | with_reducible apply updHost_keeps
    | with_reducible apply emit_keeps

theorem execDoeRequest_keeps {s t : State} (h : Keeps s t) : ∀ a0 a1, ResultKeeps s (execDoeRequest a0 a1 t) := by
  intro a0 a1; unfold execDoeRequest
  repeat'
    first
    | with_reducible assumption | with_reducible apply ResultKeeps.next | with_reducible apply doeRequest_keeps

/-! ## The operations of Reset.lean -/

theorem updDump_keeps {s t : State} (h : Keeps s t) : ∀ a0 a1, Keeps s (updDump a0 a1 t) := by
  intro a0 a1; unfold updDump
  repeat'
    first
    | with_reducible assumption | with_reducible apply updRecov_keeps

theorem dumpRecord_keeps {s t : State} (h : Keeps s t) : ∀ a0 a1 a2, Keeps s (dumpRecord a0 a1 a2 t) := by
  intro a0 a1 a2; unfold dumpRecord
  repeat'
    first
    | with_reducible assumption | with_reducible apply daybook_keeps

theorem collect_keeps {s t : State} (h : Keeps s t) : ∀ a0 a1 a2 a3 a4, Keeps s (collect a0 a1 a2 a3 a4 t).2 := by
  intro a0 a1 a2 a3 a4; unfold collect
  repeat'
    first
    | with_reducible assumption | with_reducible apply updDump_keeps | with_reducible apply dumpRecord_keeps | dsimp only
    | split

theorem stopAll_keeps {s t : State} (h : Keeps s t) : Keeps s (stopAll t) := by
  unfold stopAll
  repeat'
    first
    | with_reducible assumption | (intro _) | with_reducible apply Keeps.ite | with_reducible apply forAll_keeps
    | with_reducible apply quiesce_keeps | with_reducible apply updPart_keeps

theorem mapOut_keeps {s t : State} (h : Keeps s t) : ∀ a0 a1, Keeps s (mapOut a0 a1 t) := by
  intro a0 a1; unfold mapOut
  repeat'
    first
    | with_reducible assumption | with_reducible apply Keeps.ite | with_reducible apply daybook_keeps
    | with_reducible refine updHbm_keeps ?_ _ rfl rfl

theorem fitCommons_keeps {s t : State} (h : Keeps s t) : ∀ a0, Keeps s (fitCommons a0 t) := by
  intro a0; unfold fitCommons
  repeat'
    first
    | with_reducible assumption | with_reducible apply Keeps.ite | with_reducible apply daybook_keeps
    | with_reducible apply updPart_keeps

theorem chipCleared_keeps {s t : State} (h : Keeps s t) : Keeps s (chipCleared t) :=
  ⟨h.pending, fun _ => rfl, h.t1, h.t2, fun _ => rfl⟩

theorem mapOutPart_keeps {s t : State} (h : Keeps s t) : ∀ a0, Keeps s (mapOutPart a0 t) := by
  intro a0; unfold mapOutPart
  repeat'
    first
    | with_reducible assumption | (intro _) | with_reducible apply Keeps.ite | with_reducible apply forAll_keeps
    | with_reducible apply mapOut_keeps

theorem chipReset_keeps {s t : State} (h : Keeps s t) : Keeps s (chipReset t) := by
  unfold chipReset
  repeat'
    first
    | with_reducible assumption | (intro _) | with_reducible apply forAll_keeps | with_reducible apply chipCleared_keeps
    | with_reducible apply mapOutPart_keeps

theorem powerOff_keeps {s t : State} (h : Keeps s t) (b : Bool) : Keeps s (powerOff b t) :=
  ⟨h.pending, fun _ => rfl, fun _ _ => rfl, h.t2, fun _ => rfl⟩

theorem keyChange_keeps {s t : State} (h : Keeps s t) : ∀ a0, Keeps s (keyChange a0 t) := by
  intro a0; unfold keyChange
  repeat'
    first
    | with_reducible assumption | (intro _) | with_reducible apply forAll_keeps
    | with_reducible refine updHbm_keeps ?_ _ rfl rfl | with_reducible apply updSec_keeps
    | with_reducible apply updStack_keeps

theorem clearPlacement_keeps {s t : State} (h : Keeps s t) : ∀ a0, Keeps s (clearPlacement a0 t) := by
  intro a0; unfold clearPlacement
  repeat'
    first
    | with_reducible assumption | (intro _) | with_reducible apply updPlace_keeps

theorem clearT0_keeps {s t : State} (h : Keeps s t) : ∀ a0, Keeps s (clearT0 a0 t) := by
  intro a0; unfold clearT0
  repeat'
    first
    | with_reducible assumption | (intro _) | with_reducible apply forAll_keeps | with_reducible apply updPen_keeps
    | with_reducible apply updDrover_keeps | with_reducible apply updGate_keeps

theorem clearPart_keeps {s t : State} (h : Keeps s t) : ∀ a0, Keeps s (clearPart a0 t) := by
  intro a0; unfold clearPart
  repeat'
    first
    | with_reducible assumption | with_reducible apply updPart_keeps

theorem resetPart_keeps {s t : State} (h : Keeps s t) : ∀ a0, Keeps s (resetPart a0 t) := by
  intro a0; unfold resetPart
  repeat'
    first
    | with_reducible assumption | (intro _) | with_reducible apply mapOutPart_keeps | with_reducible apply clearPart_keeps
    | with_reducible apply clearT0_keeps | with_reducible apply clearPlacement_keeps | with_reducible apply keyChange_keeps
    | with_reducible apply updCtxs_keeps

/-! ## The operations of Ladder.lean -/

theorem stepRecord_keeps {s t : State} (h : Keeps s t) : ∀ a0 a1, Keeps s (stepRecord a0 a1 t) := by
  intro a0 a1; unfold stepRecord
  repeat'
    first
    | with_reducible assumption | with_reducible apply daybook_keeps

theorem completeResets_keeps {s t : State} (h : Keeps s t) : ∀ a0 a1 a2, Keeps s (completeResets a0 a1 a2 t) := by
  intro a0 a1 a2; unfold completeResets
  repeat'
    first
    | with_reducible assumption | with_reducible apply completeAll_keeps

theorem powerCycle_keeps {s t : State} (h : Keeps s t) : Keeps s (powerCycle t) := by
  unfold powerCycle
  repeat'
    first
    | with_reducible assumption | with_reducible apply Keeps.ite | with_reducible apply updPower_keeps
    | with_reducible apply stepRecord_keeps

theorem startChip_keeps {s t : State} (h : Keeps s t) : ∀ a0 a1 a2, Keeps s (startChip a0 a1 a2 t) := by
  intro a0 a1 a2; unfold startChip
  repeat'
    first
    | with_reducible assumption | (intro _) | with_reducible apply Keeps.ite | with_reducible apply forAll_keeps
    | with_reducible apply powerCycle_keeps | with_reducible apply stepRecord_keeps | with_reducible apply stopAll_keeps
    | with_reducible apply updRecov_keeps | with_reducible apply collect_keeps | with_reducible apply chipReset_keeps
    | dsimp only | split

theorem absorbSteps_keeps {s t : State} (h : Keeps s t) : ∀ a0, Keeps s (absorbSteps a0 t) := by
  intro a0; unfold absorbSteps
  repeat'
    first
    | with_reducible assumption | (intro _) | with_reducible apply forAll_keeps | with_reducible apply completeResets_keeps
    | with_reducible apply stepRecord_keeps | with_reducible apply dropStep_keeps

theorem emptyPart_keeps {s t : State} (h : Keeps s t) : ∀ a0, Keeps s (emptyPart a0 t) := by
  intro a0; unfold emptyPart
  repeat'
    first
    | with_reducible assumption | (intro _) | with_reducible apply Keeps.ite | with_reducible apply forAll_keeps
    | with_reducible apply quiesce_keeps | with_reducible apply endRuns_keeps | with_reducible apply absorbSteps_keeps
    | with_reducible apply abortSession_keeps | with_reducible apply completeAll_keeps | with_reducible apply updHost_keeps
    | with_reducible apply updFabric_keeps | with_reducible apply backInvalidateIf_keeps | with_reducible apply partEvent_keeps
    | with_reducible apply updPart_keeps

theorem startLevel3_keeps {s t : State} (h : Keeps s t) : ∀ a0 a1 a2 a3, Keeps s (startLevel3 a0 a1 a2 a3 t) := by
  intro a0 a1 a2 a3; unfold startLevel3
  repeat'
    first
    | with_reducible assumption | with_reducible apply Keeps.ite | with_reducible apply emptyPart_keeps
    | with_reducible apply collect_keeps | with_reducible apply updRecov_keeps

theorem level3On_keeps {s t : State} (h : Keeps s t) : ∀ a0 a1, Keeps s (level3On a0 a1 t) := by
  intro a0 a1; unfold level3On
  repeat'
    first
    | with_reducible assumption | (intro _) | with_reducible apply forAll_keeps | with_reducible apply startLevel3_keeps

theorem resetEngine_keeps {s t : State} (h : Keeps s t) : ∀ a0, Keeps s (resetEngine a0 t) := by
  intro a0; unfold resetEngine
  repeat'
    first
    | with_reducible assumption | (intro _) | with_reducible apply Keeps.ite | with_reducible apply forAll_keeps
    | with_reducible apply updDrover_keeps | with_reducible apply updPen_keeps | with_reducible apply updStack_keeps
    | with_reducible refine updHbm_keeps ?_ _ rfl rfl | with_reducible apply updGate_keeps
    | with_reducible apply updPipe_keeps | with_reducible apply updPart_keeps | dsimp only | split

theorem haltParts_keeps {s t : State} (h : Keeps s t) : ∀ a0, Keeps s (haltParts a0 t) := by
  intro a0; unfold haltParts
  repeat'
    first
    | with_reducible assumption | (intro _) | with_reducible apply forAll_keeps | with_reducible apply quiesce_keeps
    | with_reducible apply partEvent_keeps | with_reducible apply updPart_keeps | split

theorem startLevel2_keeps {s t : State} (h : Keeps s t) : ∀ a0 a1 a2, Keeps s (startLevel2 a0 a1 a2 t) := by
  intro a0 a1 a2; unfold startLevel2
  repeat'
    first
    | with_reducible assumption | with_reducible apply haltParts_keeps | with_reducible apply collect_keeps
    | with_reducible apply resetEngine_keeps | with_reducible apply updRecov_keeps

theorem escalateJob_keeps {s t : State} (h : Keeps s t) : ∀ a0, Keeps s (escalateJob a0 t) := by
  intro a0; unfold escalateJob
  repeat'
    first
    | with_reducible assumption | with_reducible apply updHost_keeps | split

theorem level2Or3_keeps {s t : State} (h : Keeps s t) : ∀ a0 a1 a2, Keeps s (level2Or3 a0 a1 a2 t) := by
  intro a0 a1 a2; unfold level2Or3
  repeat'
    first
    | with_reducible assumption | with_reducible apply Keeps.ite | with_reducible apply level3On_keeps
    | with_reducible apply escalateJob_keeps | with_reducible apply startLevel2_keeps

theorem endWorkOn_keeps {s t : State} (h : Keeps s t) : ∀ a0 a1 a2, Keeps s (endWorkOn a0 a1 a2 t) := by
  intro a0 a1 a2; unfold endWorkOn
  repeat'
    first
    | with_reducible assumption | (intro _) | with_reducible apply Keeps.ite | with_reducible apply forAll_keeps
    | with_reducible apply endCtxRuns_keeps | with_reducible apply endCopy_keeps | with_reducible apply endCodecCmd_keeps
    | with_reducible apply completeAll_keeps

theorem guilty_keeps {s t : State} (h : Keeps s t) : ∀ a0 a1, Keeps s (guilty a0 a1 t) := by
  intro a0 a1; unfold guilty
  repeat'
    first
    | with_reducible assumption | with_reducible apply endWorkOn_keeps | with_reducible apply haltParts_keeps
    | with_reducible apply cancelContext_keeps | with_reducible apply resetEngine_keeps | with_reducible apply daybook_keeps
    | with_reducible apply updStep_keeps

theorem hangRecord_keeps {s t : State} (h : Keeps s t) : ∀ a0, Keeps s (hangRecord a0 t) := by
  intro a0; unfold hangRecord
  repeat'
    first
    | with_reducible assumption | (intro _) | with_reducible apply Keeps.ite | with_reducible apply foldl_keeps
    | with_reducible apply daybook_keeps | with_reducible apply updRecov_keeps

theorem answerHang_keeps {s t : State} (h : Keeps s t) : ∀ a0, Keeps s (answerHang a0 t) := by
  intro a0; unfold answerHang
  repeat'
    first
    | with_reducible assumption | (intro _) | with_reducible apply Keeps.ite | with_reducible apply forAll_keeps
    | with_reducible apply startChip_keeps | with_reducible apply level3On_keeps | with_reducible apply guilty_keeps
    | with_reducible apply startLevel3_keeps | with_reducible apply level2Or3_keeps | with_reducible apply dropStep_keeps
    | split

theorem takeHang_keeps {s t : State} (h : Keeps s t) : ∀ a0, Keeps s (takeHang a0 t) := by
  intro a0; unfold takeHang
  repeat'
    first
    | with_reducible assumption | with_reducible apply Keeps.ite | with_reducible apply answerHang_keeps
    | with_reducible apply hangRecord_keeps

theorem engineReady_keeps {s t : State} (h : Keeps s t) : ∀ a0, Keeps s (engineReady a0 t) := by
  intro a0; unfold engineReady
  repeat'
    first
    | with_reducible assumption | (intro _) | with_reducible apply Keeps.ite | with_reducible apply updStack_keeps
    | with_reducible apply completeResets_keeps | with_reducible apply stepRecord_keeps | with_reducible apply updStep_keeps
    | with_reducible apply endSearch_keeps | with_reducible apply kickPipe_keeps | dsimp only | split

theorem execEngineReady_keeps {s t : State} (h : Keeps s t) : ∀ a0, ResultKeeps s (execEngineReady a0 t) := by
  intro a0; unfold execEngineReady
  repeat'
    first
    | with_reducible assumption | with_reducible apply event_keeps | with_reducible apply settled_keeps
    | with_reducible apply engineReady_keeps | (intro _)

theorem guiltyReplay_keeps {s t : State} (h : Keeps s t) : ∀ a0 a1, Keeps s (guiltyReplay a0 a1 t) := by
  intro a0 a1; unfold guiltyReplay
  repeat'
    first
    | with_reducible assumption | (intro _) | with_reducible apply Keeps.ite | with_reducible apply forAll_keeps
    | with_reducible apply updStep_keeps | with_reducible apply resumeAt_keeps | with_reducible apply kickPipe_keeps

theorem execGuiltyReplay_keeps {s t : State} (h : Keeps s t) : ∀ a0, ResultKeeps s (execGuiltyReplay a0 t) := by
  intro a0; unfold execGuiltyReplay
  repeat'
    first
    | with_reducible assumption | with_reducible apply event_keeps | with_reducible apply settled_keeps
    | with_reducible apply guiltyReplay_keeps | split | (intro _)

theorem passIdleSuspects_keeps {s t : State} (h : Keeps s t) : Keeps s (passIdleSuspects t) := by
  unfold passIdleSuspects
  repeat'
    first
    | with_reducible assumption | (intro _) | with_reducible apply Keeps.ite | with_reducible apply forAll_keeps
    | with_reducible apply clearSuspect_keeps | split

theorem resumeHeld_keeps {s t : State} (h : Keeps s t) : Keeps s (resumeHeld t) := by
  unfold resumeHeld
  repeat'
    first
    | with_reducible assumption | (intro _) | with_reducible apply Keeps.ite | with_reducible apply forAll_keeps
    | with_reducible apply resumeAt_keeps | split

theorem markStale_keeps {s t : State} (h : Keeps s t) : ∀ a0, Keeps s (markStale a0 t) := by
  intro a0; unfold markStale
  repeat'
    first
    | with_reducible assumption | (intro _) | with_reducible apply forAll_keeps | with_reducible apply updPart_keeps

theorem failPipe_keeps {s t : State} (h : Keeps s t) : ∀ a0, Keeps s (failPipe a0 t) := by
  intro a0; unfold failPipe
  repeat'
    first
    | with_reducible assumption | (intro _) | with_reducible apply Keeps.ite | with_reducible apply forAll_keeps
    | with_reducible apply updSession_keeps | with_reducible apply endCodecCmd_keeps

theorem switchOff_keeps {s t : State} (h : Keeps s t) : ∀ a0, Keeps s (switchOff a0 t) := by
  intro a0; unfold switchOff
  repeat'
    first
    | with_reducible assumption | (intro _) | with_reducible apply forAll_keeps | with_reducible apply updRecov_keeps
    | with_reducible apply updPen_keeps | with_reducible apply daybook_keeps | with_reducible apply updStack_keeps
    | with_reducible apply markStale_keeps | with_reducible apply updGate_keeps | with_reducible apply failPipe_keeps
    | with_reducible apply updPipe_keeps | dsimp only | split

theorem fenceEngine_keeps {s t : State} (h : Keeps s t) : ∀ a0, Keeps s (fenceEngine a0 t) := by
  intro a0; unfold fenceEngine
  repeat'
    first
    | with_reducible assumption | (intro _) | with_reducible apply switchOff_keeps | with_reducible apply daybook_keeps

theorem restoreEngine_keeps {s t : State} (h : Keeps s t) : ∀ a0, Keeps s (restoreEngine a0 t) := by
  intro a0; unfold restoreEngine
  repeat'
    first
    | with_reducible assumption | (intro _) | with_reducible apply Keeps.ite | with_reducible apply daybook_keeps
    | with_reducible apply updRecov_keeps | with_reducible apply updPen_keeps | with_reducible apply updStack_keeps
    | with_reducible apply updGate_keeps | dsimp only | split

theorem keepFenced_keeps {s t : State} (h : Keeps s t) : ∀ a0, Keeps s (keepFenced a0 t) := by
  intro a0; unfold keepFenced
  repeat'
    first
    | with_reducible assumption | with_reducible apply daybook_keeps | with_reducible apply updRecov_keeps

theorem retest_keeps {s t : State} (h : Keeps s t) : ∀ a0 a1, Keeps s (retest a0 a1 t) := by
  intro a0 a1; unfold retest
  repeat'
    first
    | with_reducible assumption | (intro _) | with_reducible apply forAll_keeps | with_reducible apply keepFenced_keeps
    | with_reducible apply restoreEngine_keeps | split

theorem staggerRecord_keeps {s t : State} (h : Keeps s t) : ∀ a0 a1, Keeps s (staggerRecord a0 a1 t) := by
  intro a0 a1; unfold staggerRecord
  repeat'
    first
    | with_reducible assumption | with_reducible apply daybook_keeps

theorem finishConfig_keeps {s t : State} (h : Keeps s t) : Keeps s (finishConfig t) := by
  unfold finishConfig
  repeat'
    first
    | with_reducible assumption | with_reducible apply Keeps.ite | with_reducible apply completeAll_keeps

theorem partitionReady_keeps {s t : State} (h : Keeps s t) : ∀ a0 a1, Keeps s (partitionReady a0 a1 t) := by
  intro a0 a1; unfold partitionReady
  repeat'
    first
    | with_reducible assumption | (intro _) | with_reducible apply Keeps.ite | with_reducible apply fitCommons_keeps
    | with_reducible apply retest_keeps | with_reducible apply resetPart_keeps | with_reducible apply updRecov_keeps
    | with_reducible apply updPart_keeps | with_reducible apply partEvent_keeps | with_reducible apply staggerRecord_keeps
    | with_reducible apply stepRecord_keeps | with_reducible apply finishConfig_keeps
    | with_reducible apply completeResets_keeps | dsimp only | split

theorem execPartitionReady_keeps {s t : State} (h : Keeps s t) : ∀ a0 a1, ResultKeeps s (execPartitionReady a0 a1 t) := by
  intro a0 a1; unfold execPartitionReady
  repeat'
    first
    | with_reducible assumption | with_reducible apply event_keeps | with_reducible apply settled_keeps
    | with_reducible apply partitionReady_keeps | (intro _)

theorem cancelOverdue_keeps {s t : State} (h : Keeps s t) : ∀ a0, Keeps s (cancelOverdue a0 t) := by
  intro a0; unfold cancelOverdue
  repeat'
    first
    | with_reducible assumption | (intro _) | with_reducible apply forAll_keeps | with_reducible apply level2Or3_keeps

theorem engineOverdue_keeps {s t : State} (h : Keeps s t) : ∀ a0, Keeps s (engineOverdue a0 t) := by
  intro a0; unfold engineOverdue
  repeat'
    first
    | with_reducible assumption | with_reducible apply Keeps.ite | with_reducible apply stepRecord_keeps
    | with_reducible apply dropStep_keeps | with_reducible apply startChip_keeps | with_reducible apply fenceEngine_keeps
    | with_reducible apply completeResets_keeps | with_reducible apply level3On_keeps | with_reducible apply escalateJob_keeps
    | dsimp only | split

theorem partOverdue_keeps {s t : State} (h : Keeps s t) : ∀ a0, Keeps s (partOverdue a0 t) := by
  intro a0; unfold partOverdue
  repeat'
    first
    | with_reducible assumption | with_reducible apply startChip_keeps | with_reducible apply stepRecord_keeps
    | with_reducible apply updRecov_keeps | split

theorem escalate_keeps {s t : State} (h : Keeps s t) : ∀ a0, Keeps s (escalate a0 t) := by
  intro a0; unfold escalate
  repeat'
    first
    | with_reducible assumption | with_reducible apply cancelOverdue_keeps | with_reducible apply engineOverdue_keeps
    | with_reducible apply partOverdue_keeps | with_reducible apply powerCycle_keeps | split

theorem execLadderBudgetExpired_keeps {s t : State} (h : Keeps s t) : ∀ a0, ResultKeeps s (execLadderBudgetExpired a0 t) := by
  intro a0; unfold execLadderBudgetExpired
  repeat'
    first
    | with_reducible assumption | with_reducible apply event_keeps | with_reducible apply settled_keeps
    | with_reducible apply escalate_keeps | (intro _)

theorem bellTrip_keeps {s t : State} (h : Keeps s t) : Keeps s (bellTrip t) := by
  unfold bellTrip
  repeat'
    first
    | with_reducible assumption | with_reducible apply updRecov_keeps | with_reducible apply startChip_keeps

theorem execBellTrip_keeps {s t : State} (h : Keeps s t) : ResultKeeps s (execBellTrip t) := by
  unfold execBellTrip
  repeat'
    first
    | with_reducible assumption | with_reducible apply event_keeps | with_reducible apply settled_keeps
    | with_reducible apply bellTrip_keeps

theorem dipRecord_keeps {s t : State} (h : Keeps s t) : ∀ a0, Keeps s (dipRecord a0 t) := by
  intro a0; unfold dipRecord
  repeat'
    first
    | with_reducible assumption | with_reducible apply daybook_keeps

theorem nameDump_keeps {s t : State} (h : Keeps s t) : ∀ a0, Keeps s (nameDump a0 t) := by
  intro a0; unfold nameDump
  repeat'
    first
    | with_reducible assumption | with_reducible apply Keeps.ite | with_reducible apply updDump_keeps
    | with_reducible apply dumpRecord_keeps

theorem finishTake_keeps {s t : State} (h : Keeps s t) : ∀ a0, Keeps s (finishTake a0 t) := by
  intro a0; unfold finishTake
  repeat'
    first
    | with_reducible assumption | (intro _) | with_reducible apply Keeps.ite | with_reducible apply completeProg_keeps
    | dsimp only | split

theorem dumpWritten_keeps {s t : State} (h : Keeps s t) : ∀ a0, Keeps s (dumpWritten a0 t) := by
  intro a0; unfold dumpWritten
  repeat'
    first
    | with_reducible assumption | with_reducible apply Keeps.ite | with_reducible apply finishTake_keeps
    | with_reducible apply nameDump_keeps | with_reducible apply updRecov_keeps | with_reducible apply powerOff_keeps
    | with_reducible apply dipRecord_keeps | with_reducible apply chipReset_keeps

theorem execDumpWritten_keeps {s t : State} (h : Keeps s t) : ∀ a0, ResultKeeps s (execDumpWritten a0 t) := by
  intro a0; unfold execDumpWritten
  repeat'
    first
    | with_reducible assumption | with_reducible apply event_keeps | with_reducible apply settled_keeps
    | with_reducible apply dumpWritten_keeps | (intro _)

theorem takeCollect_keeps {s t : State} (h : Keeps s t) : Keeps s (takeCollect t) := by
  unfold takeCollect
  repeat'
    first
    | with_reducible assumption | (intro _) | with_reducible apply Keeps.ite | with_reducible apply updRecov_keeps
    | with_reducible apply collect_keeps | with_reducible apply completeProg_keeps | dsimp only | split

theorem execDumpTakeCollect_keeps {s t : State} (h : Keeps s t) : ResultKeeps s (execDumpTakeCollect t) := by
  unfold execDumpTakeCollect
  repeat'
    first
    | with_reducible assumption | with_reducible apply event_keeps | with_reducible apply takeCollect_keeps

theorem dumpTakeBody_keeps {s t : State} (h : Keeps s t) : ∀ a0 a1 a2, Reply.Keeps s (dumpTakeBody a0 a1 a2 t) := by
  intro a0 a1 a2; unfold dumpTakeBody
  repeat'
    first
    | with_reducible assumption | (intro _) | with_reducible apply Keeps.ite | with_reducible apply Reply.ite
    | with_reducible apply Reply.done_keeps | with_reducible apply Reply.accept_keeps | with_reducible apply updRecov_keeps

theorem dumpReadBody_keeps {s t : State} (h : Keeps s t) : ∀ a0 a1 a2 a3 a4, Reply.Keeps s (dumpReadBody a0 a1 a2 a3 a4 t) := by
  intro a0 a1 a2 a3 a4; unfold dumpReadBody
  repeat'
    first
    | with_reducible assumption | with_reducible apply Reply.ite | with_reducible apply Reply.done_keeps
    | with_reducible apply Reply.accept_keeps | with_reducible apply updDump_keeps | with_reducible apply updHost_keeps

theorem dumpKeepBody_keeps {s t : State} (h : Keeps s t) : ∀ a0 a1, Reply.Keeps s (dumpKeepBody a0 a1 t) := by
  intro a0 a1; unfold dumpKeepBody
  repeat'
    first
    | with_reducible assumption | with_reducible apply Reply.ite | with_reducible apply Reply.done_keeps
    | with_reducible apply updDump_keeps

theorem dumpReleaseBody_keeps {s t : State} (h : Keeps s t) : ∀ a0 a1, Reply.Keeps s (dumpReleaseBody a0 a1 t) := by
  intro a0 a1; unfold dumpReleaseBody
  repeat'
    first
    | with_reducible assumption | with_reducible apply Reply.ite | with_reducible apply Reply.done_keeps
    | with_reducible apply Keeps.ite | with_reducible apply updDump_keeps

theorem execRecoverDumpTake_keeps {s t : State} (h : Keeps s t) : ∀ a0 a1 a2, ResultKeeps s (execRecoverDumpTake a0 a1 a2 t) := by
  intro a0 a1 a2; unfold execRecoverDumpTake
  repeat'
    first
    | with_reducible assumption | with_reducible apply ResultKeeps.next | with_reducible apply mailbox_keeps
    | with_reducible apply dumpTakeBody_keeps | (intro _)

theorem execRecoverDumpRead_keeps {s t : State} (h : Keeps s t) : ∀ a0 a1 a2 a3 a4 a5, ResultKeeps s (execRecoverDumpRead a0 a1 a2 a3 a4 a5 t) := by
  intro a0 a1 a2 a3 a4 a5; unfold execRecoverDumpRead
  repeat'
    first
    | with_reducible assumption | with_reducible apply ResultKeeps.next | with_reducible apply mailbox_keeps
    | with_reducible apply dumpReadBody_keeps | (intro _)

theorem execRecoverDumpKeep_keeps {s t : State} (h : Keeps s t) : ∀ a0 a1 a2, ResultKeeps s (execRecoverDumpKeep a0 a1 a2 t) := by
  intro a0 a1 a2; unfold execRecoverDumpKeep
  repeat'
    first
    | with_reducible assumption | with_reducible apply ResultKeeps.next | with_reducible apply mailbox_keeps
    | with_reducible apply dumpKeepBody_keeps | (intro _)

theorem execRecoverDumpRelease_keeps {s t : State} (h : Keeps s t) : ∀ a0 a1 a2, ResultKeeps s (execRecoverDumpRelease a0 a1 a2 t) := by
  intro a0 a1 a2; unfold execRecoverDumpRelease
  repeat'
    first
    | with_reducible assumption | with_reducible apply ResultKeeps.next | with_reducible apply mailbox_keeps
    | with_reducible apply dumpReleaseBody_keeps | (intro _)

theorem recoverResetBody_keeps {s t : State} (h : Keeps s t) : ∀ a0 a1 a2, Reply.Keeps s (recoverResetBody a0 a1 a2 t) := by
  intro a0 a1 a2; unfold recoverResetBody
  repeat'
    first
    | with_reducible assumption | with_reducible apply Reply.ite | with_reducible apply Reply.done_keeps
    | with_reducible apply Reply.accept_keeps | with_reducible apply updRecov_keeps

theorem execRecoverReset_keeps {s t : State} (h : Keeps s t) : ∀ a0 a1 a2 a3, ResultKeeps s (execRecoverReset a0 a1 a2 a3 t) := by
  intro a0 a1 a2 a3; unfold execRecoverReset
  repeat'
    first
    | with_reducible assumption | with_reducible apply ResultKeeps.next | with_reducible apply mailbox_keeps
    | with_reducible apply recoverResetBody_keeps | (intro _)

theorem startQueued_keeps {s t : State} (h : Keeps s t) : ∀ a0 a1, Keeps s (startQueued a0 a1 t) := by
  intro a0 a1; unfold startQueued
  repeat'
    first
    | with_reducible assumption | with_reducible apply Keeps.ite | with_reducible apply completeResets_keeps
    | with_reducible apply level2Or3_keeps | with_reducible apply startLevel3_keeps | with_reducible apply startChip_keeps
    | with_reducible apply powerCycle_keeps | split

theorem startQueuedSteps_keeps {s t : State} (h : Keeps s t) : Keeps s (startQueuedSteps t) := by
  unfold startQueuedSteps
  repeat'
    first
    | with_reducible assumption | (intro _) | with_reducible apply forAll_keeps | with_reducible apply startQueued_keeps
    | with_reducible apply updRecov_keeps

theorem recoverQueryBody_keeps {s t : State} (h : Keeps s t) : ∀ a0, Reply.Keeps s (recoverQueryBody a0 t) := by
  intro a0; unfold recoverQueryBody
  repeat'
    first
    | with_reducible assumption | with_reducible apply Reply.done_keeps

theorem execRecoverQuery_keeps {s t : State} (h : Keeps s t) : ∀ a0, ResultKeeps s (execRecoverQuery a0 t) := by
  intro a0; unfold execRecoverQuery
  repeat'
    first
    | with_reducible assumption | with_reducible apply ResultKeeps.next | with_reducible apply mailbox_keeps
    | with_reducible apply recoverQueryBody_keeps | (intro _)

theorem daybookReadBody_keeps {s t : State} (h : Keeps s t) : ∀ a0 a1, Reply.Keeps s (daybookReadBody a0 a1 t) := by
  intro a0 a1; unfold daybookReadBody
  repeat'
    first
    | with_reducible assumption | with_reducible apply Reply.ite | with_reducible apply Reply.done_keeps | dsimp only | split

theorem execDaybookRead_keeps {s t : State} (h : Keeps s t) : ∀ a0 a1 a2, ResultKeeps s (execDaybookRead a0 a1 a2 t) := by
  intro a0 a1 a2; unfold execDaybookRead
  repeat'
    first
    | with_reducible assumption | with_reducible apply ResultKeeps.next | with_reducible apply mailbox_keeps
    | with_reducible apply daybookReadBody_keeps | (intro _)

theorem openDaybook_keeps {s t : State} (h : Keeps s t) : Keeps s (openDaybook t) := by
  unfold openDaybook
  repeat'
    first
    | with_reducible assumption | (intro _) | with_reducible apply Keeps.ite | with_reducible apply forAll_keeps
    | with_reducible apply updRecov_keeps | with_reducible apply daybook_keeps | with_reducible apply appendRecord_keeps

theorem correctedRecord_keeps {s t : State} (h : Keeps s t) : ∀ a0, Keeps s (correctedRecord a0 t) := by
  intro a0; unfold correctedRecord
  repeat'
    first
    | with_reducible assumption | (intro _) | with_reducible apply Keeps.ite | with_reducible apply appendRecord_keeps
    | with_reducible apply deferRecord_keeps

theorem correctedPeriodEnd_keeps {s t : State} (h : Keeps s t) : Keeps s (correctedPeriodEnd t) := by
  unfold correctedPeriodEnd
  repeat'
    first
    | with_reducible assumption | (intro _) | with_reducible apply forAll_keeps | with_reducible apply correctedRecord_keeps
    | with_reducible refine updHbm_keeps ?_ _ rfl rfl | with_reducible apply updRecov_keeps

theorem execCorrectedPeriodEnd_keeps {s t : State} (h : Keeps s t) : ResultKeeps s (execCorrectedPeriodEnd t) := by
  unfold execCorrectedPeriodEnd
  repeat'
    first
    | with_reducible assumption | with_reducible apply event_keeps | with_reducible apply correctedPeriodEnd_keeps

theorem newParts_keeps {s t : State} (h : Keeps s t) (m : Nat) (hm : m = 1 ∨ m = 2 ∨ m = 4) : Keeps s (newParts t m) := by
  refine ⟨h.pending, fun _ => ?_, h.t1, h.t2, h.lead⟩
  rcases hm with rfl | rfl | rfl <;> rfl

theorem configStep_keeps {s t : State} (h : Keeps s t) : ∀ a0, Keeps s (configStep a0 t) := by
  intro a0; unfold configStep
  repeat'
    first
    | with_reducible assumption | with_reducible apply partEvent_keeps | with_reducible apply updRecov_keeps

theorem changeMode_keeps {s t : State} (h : Keeps s t) (m : Nat) (hm : m = 1 ∨ m = 2 ∨ m = 4) : Keeps s (changeMode m t) := by
  unfold changeMode
  refine forAll_keeps _ (newParts_keeps (updPlace_keeps (backInvalidateIf_keeps (updHost_keeps (forAll_keeps _ h
    fun a u hu => completeAll_keeps (absorbSteps_keeps hu _) _ _) _) _) _) m hm) fun a u hu => configStep_keeps hu a

theorem partitionConfigBody_keeps {s t : State} (h : Keeps s t) (m : Nat) : Reply.Keeps s (partitionConfigBody m t) := by
  unfold partitionConfigBody
  split
  · exact h
  · split
    · exact h
    · refine changeMode_keeps h m ?_
      rename_i hm _
      simp only [Bool.and_eq_true, bne_iff_ne] at hm
      omega

theorem execPartitionConfig_keeps {s t : State} (h : Keeps s t) : ∀ a0 a1, ResultKeeps s (execPartitionConfig a0 a1 t) := by
  intro a0 a1; unfold execPartitionConfig
  repeat'
    first
    | with_reducible assumption | with_reducible apply ResultKeeps.next | with_reducible apply mailbox_keeps
    | with_reducible apply partitionConfigBody_keeps | (intro _)

theorem partitionQueryBody_keeps {s t : State} (h : Keeps s t) : ∀ a0 a1 a2, Reply.Keeps s (partitionQueryBody a0 a1 a2 t) := by
  intro a0 a1 a2; unfold partitionQueryBody
  repeat'
    first
    | with_reducible assumption | with_reducible apply Reply.ite | with_reducible apply Reply.done_keeps | dsimp only | split

theorem execPartitionQuery_keeps {s t : State} (h : Keeps s t) : ∀ a0 a1 a2, ResultKeeps s (execPartitionQuery a0 a1 a2 t) := by
  intro a0 a1 a2; unfold execPartitionQuery
  repeat'
    first
    | with_reducible assumption | with_reducible apply ResultKeeps.next | with_reducible apply mailbox_keeps
    | with_reducible apply partitionQueryBody_keeps | (intro _)

/-! ## The operations of Power.lean -/

theorem budgetRecord_keeps {s t : State} (h : Keeps s t) : Keeps s (budgetRecord t) := by
  unfold budgetRecord
  repeat'
    first
    | with_reducible assumption | with_reducible apply daybook_keeps

theorem setBudgets_keeps {s t : State} (h : Keeps s t) : ∀ a0, Keeps s (setBudgets a0 t) := by
  intro a0; unfold setBudgets
  repeat'
    first
    | with_reducible assumption | (intro _) | with_reducible apply forAll_keeps | with_reducible apply updPart_keeps

theorem powerBudgetBody_keeps {s t : State} (h : Keeps s t) : ∀ a0 a1, Reply.Keeps s (powerBudgetBody a0 a1 t) := by
  intro a0 a1; unfold powerBudgetBody
  repeat'
    first
    | with_reducible assumption | with_reducible apply Reply.ite | with_reducible apply Reply.done_keeps
    | with_reducible apply budgetRecord_keeps | with_reducible apply setBudgets_keeps | with_reducible apply updPower_keeps

theorem execPowerBudget_keeps {s t : State} (h : Keeps s t) : ∀ a0 a1 a2, ResultKeeps s (execPowerBudget a0 a1 a2 t) := by
  intro a0 a1 a2; unfold execPowerBudget
  repeat'
    first
    | with_reducible assumption | with_reducible apply ResultKeeps.next | with_reducible apply mailbox_keeps
    | with_reducible apply powerBudgetBody_keeps | (intro _)

theorem powerQueryBody_keeps {s t : State} (h : Keeps s t) : ∀ a0, Reply.Keeps s (powerQueryBody a0 t) := by
  intro a0; unfold powerQueryBody
  repeat'
    first
    | with_reducible assumption | with_reducible apply Reply.done_keeps

theorem execPowerQuery_keeps {s t : State} (h : Keeps s t) : ∀ a0, ResultKeeps s (execPowerQuery a0 t) := by
  intro a0; unfold execPowerQuery
  repeat'
    first
    | with_reducible assumption | with_reducible apply ResultKeeps.next | with_reducible apply mailbox_keeps
    | with_reducible apply powerQueryBody_keeps | (intro _)

theorem endDip_keeps {s t : State} (h : Keeps s t) : Keeps s (endDip t) := by
  unfold endDip
  repeat'
    first
    | with_reducible assumption | with_reducible apply Keeps.ite | with_reducible apply updPower_keeps
    | with_reducible apply dipRecord_keeps

theorem endHigh_keeps {s t : State} (h : Keeps s t) : Keeps s (endHigh t) := by
  unfold endHigh
  repeat'
    first
    | with_reducible assumption | with_reducible apply Keeps.ite | with_reducible apply updPower_keeps
    | with_reducible apply daybook_keeps

theorem dipSample_keeps {s t : State} (h : Keeps s t) : ∀ a0, Keeps s (dipSample a0 t) := by
  intro a0; unfold dipSample
  repeat'
    first
    | with_reducible assumption | with_reducible apply updPower_keeps | with_reducible apply endHigh_keeps

theorem classifySupply_keeps {s t : State} (h : Keeps s t) : ∀ a0, Keeps s (classifySupply a0 t) := by
  intro a0; unfold classifySupply
  repeat'
    first
    | with_reducible assumption | (intro _) | with_reducible apply Keeps.ite | with_reducible apply powerOff_keeps
    | with_reducible apply dipSample_keeps | with_reducible apply updPower_keeps | with_reducible apply endDip_keeps
    | with_reducible apply endHigh_keeps

theorem supplySample_keeps {s t : State} (h : Keeps s t) : ∀ a0 a1, Keeps s (supplySample a0 a1 t) := by
  intro a0 a1; unfold supplySample
  repeat'
    first
    | with_reducible assumption | (intro _) | with_reducible apply Keeps.ite | with_reducible apply updPower_keeps
    | with_reducible apply classifySupply_keeps

theorem execSupplySample_keeps {s t : State} (h : Keeps s t) : ∀ a0 a1, ResultKeeps s (execSupplySample a0 a1 t) := by
  intro a0 a1; unfold execSupplySample
  repeat'
    first
    | with_reducible assumption | with_reducible apply ResultKeeps.next | with_reducible apply supplySample_keeps

theorem holdUp_keeps {s t : State} (h : Keeps s t) : Keeps s (holdUp t) := by
  unfold holdUp
  repeat'
    first
    | with_reducible assumption | with_reducible apply stopAll_keeps | with_reducible apply collect_keeps
    | with_reducible apply powerOff_keeps | with_reducible apply dipRecord_keeps | dsimp only | split

theorem execHoldUp_keeps {s t : State} (h : Keeps s t) : ResultKeeps s (execHoldUp t) := by
  unfold execHoldUp
  repeat'
    first
    | with_reducible assumption | with_reducible apply event_keeps | with_reducible apply settled_keeps
    | with_reducible apply holdUp_keeps

theorem closePowerBeat_keeps {s t : State} (h : Keeps s t) : Keeps s (closePowerBeat t) := by
  unfold closePowerBeat
  repeat'
    first
    | with_reducible assumption | (intro _) | with_reducible apply Keeps.ite | with_reducible apply updPower_keeps

theorem powerOver_keeps {s t : State} (h : Keeps s t) : Keeps s (powerOver t) := by
  unfold powerOver
  repeat'
    first
    | with_reducible assumption | with_reducible apply updPower_keeps | with_reducible apply daybook_keeps

theorem execPowerOver_keeps {s t : State} (h : Keeps s t) : ResultKeeps s (execPowerOver t) := by
  unfold execPowerOver
  repeat'
    first
    | with_reducible assumption | with_reducible apply event_keeps | with_reducible apply powerOver_keeps

theorem powerOn_keeps {s t : State} (h : Keeps s t) : Keeps s (powerOn t) := by
  unfold powerOn
  repeat'
    first
    | with_reducible assumption | with_reducible apply updPower_keeps

theorem execPowerOn_keeps {s t : State} (h : Keeps s t) : ResultKeeps s (execPowerOn t) := by
  unfold execPowerOn
  repeat'
    first
    | with_reducible assumption | with_reducible apply event_keeps | with_reducible apply powerOn_keeps

theorem pwrEnLow_keeps {s t : State} (h : Keeps s t) : Keeps s (pwrEnLow t) := by
  unfold pwrEnLow
  repeat'
    first
    | with_reducible assumption | with_reducible apply Keeps.ite | with_reducible apply updPower_keeps
    | with_reducible apply powerOff_keeps

theorem execPwrEnLow_keeps {s t : State} (h : Keeps s t) : ResultKeeps s (execPwrEnLow t) := by
  unfold execPwrEnLow
  repeat'
    first
    | with_reducible assumption | with_reducible apply ResultKeeps.next | with_reducible apply pwrEnLow_keeps

theorem updDie_keeps {s t : State} (h : Keeps s t) : ∀ a0 a1, Keeps s (updDie a0 a1 t) := by
  intro a0 a1; unfold updDie
  repeat'
    first
    | with_reducible assumption | with_reducible apply updPower_keeps

theorem storeTemp_keeps {s t : State} (h : Keeps s t) : ∀ a0 a1, Keeps s (storeTemp a0 a1 t) := by
  intro a0 a1; unfold storeTemp
  repeat'
    first
    | with_reducible assumption | with_reducible apply Keeps.ite | with_reducible apply updDie_keeps
    | with_reducible apply updStack_keeps

theorem thermalSample_keeps {s t : State} (h : Keeps s t) : ∀ a0 a1, Keeps s (thermalSample a0 a1 t) := by
  intro a0 a1; unfold thermalSample
  repeat'
    first
    | with_reducible assumption | with_reducible apply updPower_keeps | with_reducible apply storeTemp_keeps

theorem execThermalSample_keeps {s t : State} (h : Keeps s t) : ∀ a0 a1, ResultKeeps s (execThermalSample a0 a1 t) := by
  intro a0 a1; unfold execThermalSample
  repeat'
    first
    | with_reducible assumption | with_reducible apply ResultKeeps.next | with_reducible apply thermalSample_keeps

theorem thermalRecord_keeps {s t : State} (h : Keeps s t) : ∀ a0 a1, Keeps s (thermalRecord a0 a1 t) := by
  intro a0 a1; unfold thermalRecord
  repeat'
    first
    | with_reducible assumption | with_reducible apply daybook_keeps

theorem thermalWarning_keeps {s t : State} (h : Keeps s t) : Keeps s (thermalWarning t) := by
  unfold thermalWarning
  repeat'
    first
    | with_reducible assumption | (intro _) | with_reducible apply Keeps.ite | with_reducible apply forAll_keeps
    | with_reducible apply thermalRecord_keeps | with_reducible apply updDie_keeps | with_reducible apply allEvent_keeps
    | with_reducible apply updPower_keeps

theorem execThermalWarning_keeps {s t : State} (h : Keeps s t) : ResultKeeps s (execThermalWarning t) := by
  unfold execThermalWarning
  repeat'
    first
    | with_reducible assumption | with_reducible apply event_keeps | with_reducible apply thermalWarning_keeps

theorem thermalStop_keeps {s t : State} (h : Keeps s t) : ∀ a0, Keeps s (thermalStop a0 t) := by
  intro a0; unfold thermalStop
  repeat'
    first
    | with_reducible assumption | with_reducible apply Keeps.ite | with_reducible apply endRuns_keeps
    | with_reducible apply quiesce_keeps | with_reducible apply partEvent_keeps | with_reducible apply updPart_keeps

theorem thermalQuiesce_keeps {s t : State} (h : Keeps s t) : Keeps s (thermalQuiesce t) := by
  unfold thermalQuiesce
  repeat'
    first
    | with_reducible assumption | (intro _) | with_reducible apply Keeps.ite | with_reducible apply forAll_keeps
    | with_reducible apply thermalRecord_keeps | with_reducible apply updDie_keeps | with_reducible apply thermalStop_keeps
    | with_reducible apply updPower_keeps

theorem execThermalQuiesce_keeps {s t : State} (h : Keeps s t) : ResultKeeps s (execThermalQuiesce t) := by
  unfold execThermalQuiesce
  repeat'
    first
    | with_reducible assumption | with_reducible apply event_keeps | with_reducible apply settled_keeps
    | with_reducible apply thermalQuiesce_keeps

theorem countCool_keeps {s t : State} (h : Keeps s t) : Keeps s (countCool t) := by
  unfold countCool
  repeat'
    first
    | with_reducible assumption | with_reducible apply updPower_keeps

theorem thermalClear_keeps {s t : State} (h : Keeps s t) : Keeps s (thermalClear t) := by
  unfold thermalClear
  repeat'
    first
    | with_reducible assumption | (intro _) | with_reducible apply Keeps.ite | with_reducible apply forAll_keeps
    | with_reducible apply thermalRecord_keeps | with_reducible apply updDie_keeps | with_reducible apply updPart_keeps
    | with_reducible apply updPower_keeps

theorem execThermalClear_keeps {s t : State} (h : Keeps s t) : ResultKeeps s (execThermalClear t) := by
  unfold execThermalClear
  repeat'
    first
    | with_reducible assumption | with_reducible apply event_keeps | with_reducible apply settled_keeps
    | with_reducible apply thermalClear_keeps

theorem toStage_keeps {s t : State} (h : Keeps s t) : ∀ a0, Keeps s (toStage a0 t) := by
  intro a0; unfold toStage
  repeat'
    first
    | with_reducible assumption | with_reducible apply updPower_keeps

theorem firmwareVerify_keeps {s t : State} (h : Keeps s t) : Keeps s (firmwareVerify t) := by
  unfold firmwareVerify
  repeat'
    first
    | with_reducible assumption | with_reducible apply toStage_keeps | with_reducible apply updPower_keeps
    | exact h.upd rfl rfl rfl rfl rfl | split

theorem execFirmwareVerify_keeps {s t : State} (h : Keeps s t) : ResultKeeps s (execFirmwareVerify t) := by
  unfold execFirmwareVerify
  repeat'
    first
    | with_reducible assumption | with_reducible apply event_keeps | with_reducible apply firmwareVerify_keeps

theorem trainingDone_keeps {s t : State} (h : Keeps s t) : ∀ a0 a1, Keeps s (trainingDone a0 a1 t) := by
  intro a0 a1; unfold trainingDone
  repeat'
    first
    | with_reducible assumption | (intro _) | with_reducible apply forAll_keeps
    | with_reducible refine updHbm_keeps ?_ _ rfl rfl | with_reducible apply toStage_keeps
    | with_reducible apply updSec_keeps | with_reducible apply mapOut_keeps

theorem execHbmTrainingDone_keeps {s t : State} (h : Keeps s t) : ∀ a0 a1, ResultKeeps s (execHbmTrainingDone a0 a1 t) := by
  intro a0 a1; unfold execHbmTrainingDone
  repeat'
    first
    | with_reducible assumption | with_reducible apply event_keeps | with_reducible apply trainingDone_keeps

theorem wipeDone_keeps {s t : State} (h : Keeps s t) : Keeps s (wipeDone t) := by
  unfold wipeDone
  refine toStage_keeps (forAll_keeps _ (updHbm_mem h _ (fun _ _ => rfl) (fun _ b => b)) ?_) _
  intro a u hu
  exact updStack_keeps hu _ _

theorem execHbmWipeDone_keeps {s t : State} (h : Keeps s t) : ResultKeeps s (execHbmWipeDone t) := by
  unfold execHbmWipeDone
  repeat'
    first
    | with_reducible assumption | with_reducible apply event_keeps | with_reducible apply wipeDone_keeps

theorem bellRecords_keeps {s t : State} (h : Keeps s t) : Keeps s (bellRecords t) := by
  unfold bellRecords
  repeat'
    first
    | with_reducible assumption | (intro _) | with_reducible apply Keeps.ite | with_reducible apply forAll_keeps
    | with_reducible apply updRecov_keeps | with_reducible apply daybook_keeps | with_reducible apply nameDump_keeps

theorem endTransition_keeps {s t : State} (h : Keeps s t) : Keeps s (endTransition t) := by
  unfold endTransition
  repeat'
    first
    | with_reducible assumption | (intro _) | with_reducible apply Keeps.ite | with_reducible apply updSec_keeps
    | with_reducible apply wipeDone_keeps | with_reducible apply allEvent_keeps | with_reducible apply daybook_keeps

theorem raiseSvn_keeps {s t : State} (h : Keeps s t) : Keeps s (raiseSvn t) := by
  unfold raiseSvn
  repeat'
    first
    | with_reducible assumption | with_reducible apply updSec_keeps

theorem selfTest_keeps {s t : State} (h : Keeps s t) : ∀ a0, Keeps s (selfTest a0 t) := by
  intro a0; unfold selfTest
  repeat'
    first
    | with_reducible assumption | (intro _) | with_reducible apply forAll_keeps | with_reducible apply keepFenced_keeps
    | with_reducible apply switchOff_keeps | with_reducible apply fitCommons_keeps | with_reducible apply updPart_keeps

theorem startupReady_keeps {s t : State} (h : Keeps s t) : ∀ a0, Keeps s (startupReady a0 t) := by
  intro a0; unfold startupReady
  repeat'
    first
    | with_reducible assumption | (intro _) | with_reducible apply Keeps.ite | with_reducible apply forAll_keeps
    | with_reducible apply updPen_keeps | with_reducible apply selfTest_keeps | with_reducible apply toStage_keeps
    | with_reducible apply setBudgets_keeps | with_reducible apply raiseSvn_keeps | with_reducible apply endTransition_keeps
    | with_reducible apply staggerRecord_keeps | with_reducible apply bellRecords_keeps | with_reducible apply daybook_keeps
    | with_reducible apply updPower_keeps

theorem execStartupReady_keeps {s t : State} (h : Keeps s t) : ∀ a0, ResultKeeps s (execStartupReady a0 t) := by
  intro a0; unfold execStartupReady
  repeat'
    first
    | with_reducible assumption | with_reducible apply event_keeps | with_reducible apply startupReady_keeps

theorem execBootTimerExpired_keeps {s t : State} (h : Keeps s t) : ResultKeeps s (execBootTimerExpired t) := by
  unfold execBootTimerExpired
  repeat'
    first
    | with_reducible assumption | with_reducible apply event_keeps | with_reducible apply powerCycle_keeps

end Sys2Proof.Machine
end

