-- ==== Sys2Proof/Laws/KeptModule.lean ====
section
/-! SUPPORT. What the operations keep (see Kept.lean): security, management, HBM, the tally unit and the fabric. -/

namespace Sys2Proof.Machine

/-! ## The operations of Secure.lean -/

theorem setKey_keeps {s t : State} (h : Keeps s t) : ∀ a0 a1, Keeps s (setKey a0 a1 t) := by
  intro a0 a1; unfold setKey
  repeat'
    first
    | with_reducible assumption | with_reducible apply updSec_keeps

theorem keyInstallBody_keeps {s t : State} (h : Keeps s t) : ∀ a0 a1 a2, Reply.Keeps s (keyInstallBody a0 a1 a2 t) := by
  intro a0 a1 a2; unfold keyInstallBody
  repeat'
    first
    | with_reducible assumption | with_reducible apply Reply.ite | with_reducible apply Reply.done_keeps
    | with_reducible apply setKey_keeps

theorem keyRevokeBody_keeps {s t : State} (h : Keeps s t) : ∀ a0 a1 a2, Reply.Keeps s (keyRevokeBody a0 a1 a2 t) := by
  intro a0 a1 a2; unfold keyRevokeBody
  repeat'
    first
    | with_reducible assumption | with_reducible apply Reply.ite | with_reducible apply Reply.done_keeps
    | with_reducible apply setKey_keeps

theorem execSecKeyInstall_keeps {s t : State} (h : Keeps s t) : ∀ a0 a1 a2 a3, ResultKeeps s (execSecKeyInstall a0 a1 a2 a3 t) := by
  intro a0 a1 a2 a3; unfold execSecKeyInstall
  repeat'
    first
    | with_reducible assumption | with_reducible apply ResultKeeps.next | with_reducible apply mailbox_keeps
    | with_reducible apply keyInstallBody_keeps | (intro _)

theorem execSecKeyRevoke_keeps {s t : State} (h : Keeps s t) : ∀ a0 a1 a2 a3, ResultKeeps s (execSecKeyRevoke a0 a1 a2 a3 t) := by
  intro a0 a1 a2 a3; unfold execSecKeyRevoke
  repeat'
    first
    | with_reducible assumption | with_reducible apply ResultKeeps.next | with_reducible apply mailbox_keeps
    | with_reducible apply keyRevokeBody_keeps | (intro _)

theorem secQueryBody_keeps {s t : State} (h : Keeps s t) : Reply.Keeps s (secQueryBody t) := by
  unfold secQueryBody
  repeat'
    first
    | with_reducible assumption | with_reducible apply Reply.done_keeps

theorem execSecQuery_keeps {s t : State} (h : Keeps s t) : ∀ a0, ResultKeeps s (execSecQuery a0 t) := by
  intro a0; unfold execSecQuery
  repeat'
    first
    | with_reducible assumption | with_reducible apply ResultKeeps.next | with_reducible apply mailbox_keeps
    | with_reducible apply secQueryBody_keeps

theorem random_keeps {s t : State} (h : Keeps s t) : ∀ a0, Keeps s (random a0 t).2 := by
  intro a0; unfold random
  repeat'
    first
    | with_reducible assumption | with_reducible apply fresh_keeps | with_reducible apply updSec_keeps

theorem execDrbgReseed_keeps {s t : State} (h : Keeps s t) : ResultKeeps s (execDrbgReseed t) := by
  unfold execDrbgReseed
  repeat'
    first
    | with_reducible assumption | with_reducible apply event_keeps | with_reducible apply updSec_keeps

theorem entropyFail_keeps {s t : State} (h : Keeps s t) : Keeps s (entropyFail t) := by
  unfold entropyFail
  repeat'
    first
    | with_reducible assumption | with_reducible apply Keeps.ite | with_reducible apply takeHang_keeps
    | with_reducible apply updSec_keeps

theorem execEntropyFail_keeps {s t : State} (h : Keeps s t) : ResultKeeps s (execEntropyFail t) := by
  unfold execEntropyFail
  repeat'
    first
    | with_reducible assumption | with_reducible apply ResultKeeps.next | with_reducible apply settled_keeps
    | with_reducible apply entropyFail_keeps

theorem lifecycleQueryBody_keeps {s t : State} (h : Keeps s t) : Reply.Keeps s (lifecycleQueryBody t) := by
  unfold lifecycleQueryBody
  repeat'
    first
    | with_reducible assumption | (intro _) | with_reducible apply Reply.done_keeps | with_reducible apply random_keeps
    | with_reducible apply updSec_keeps

theorem execLifecycleQuery_keeps {s t : State} (h : Keeps s t) : ∀ a0, ResultKeeps s (execLifecycleQuery a0 t) := by
  intro a0; unfold execLifecycleQuery
  repeat'
    first
    | with_reducible assumption | with_reducible apply ResultKeeps.next | with_reducible apply mailbox_keeps
    | with_reducible apply lifecycleQueryBody_keeps

theorem lifecycleAdvanceBody_keeps {s t : State} (h : Keeps s t) : ∀ a0 a1, Reply.Keeps s (lifecycleAdvanceBody a0 a1 t) := by
  intro a0 a1; unfold lifecycleAdvanceBody
  repeat'
    first
    | with_reducible assumption | with_reducible apply Reply.ite | with_reducible apply Reply.done_keeps
    | with_reducible apply Reply.accept_keeps | with_reducible apply updSec_keeps

theorem execLifecycleAdvance_keeps {s t : State} (h : Keeps s t) : ∀ a0 a1 a2, ResultKeeps s (execLifecycleAdvance a0 a1 a2 t) := by
  intro a0 a1 a2; unfold execLifecycleAdvance
  repeat'
    first
    | with_reducible assumption | with_reducible apply ResultKeeps.next | with_reducible apply mailbox_keeps
    | with_reducible apply lifecycleAdvanceBody_keeps | (intro _)

theorem provision_keeps {s t : State} (h : Keeps s t) : ∀ a0, Keeps s (provision a0 t) := by
  intro a0; unfold provision
  repeat'
    first
    | with_reducible assumption | with_reducible apply Keeps.ite | with_reducible apply random_keeps
    | with_reducible apply updSec_keeps

theorem lifecycleCommit_keeps {s t : State} (h : Keeps s t) : Keeps s (lifecycleCommit t) := by
  unfold lifecycleCommit
  repeat'
    first
    | with_reducible assumption | with_reducible apply completeAll_keeps | with_reducible apply stopAll_keeps
    | with_reducible apply provision_keeps | with_reducible apply chipReset_keeps | with_reducible apply updSec_keeps
    | dsimp only | split

theorem execLifecycleCommit_keeps {s t : State} (h : Keeps s t) : ResultKeeps s (execLifecycleCommit t) := by
  unfold execLifecycleCommit
  repeat'
    first
    | with_reducible assumption | with_reducible apply event_keeps | with_reducible apply lifecycleCommit_keeps

theorem flashErased_keeps {s t : State} (h : Keeps s t) : Keeps s (flashErased t) := by
  unfold flashErased
  repeat'
    first
    | with_reducible assumption | with_reducible apply updRecov_keeps | with_reducible refine updHbm_keeps ?_ _ rfl rfl
    | with_reducible apply toStage_keeps | with_reducible apply updSec_keeps

theorem execLifecycleEraseDone_keeps {s t : State} (h : Keeps s t) : ResultKeeps s (execLifecycleEraseDone t) := by
  unfold execLifecycleEraseDone
  repeat'
    first
    | with_reducible assumption | with_reducible apply event_keeps | with_reducible apply flashErased_keeps

theorem setSpdmSessions_keeps {s t : State} (h : Keeps s t) : ∀ a0 a1, Keeps s (setSpdmSessions a0 a1 t) := by
  intro a0 a1; unfold setSpdmSessions
  repeat'
    first
    | with_reducible assumption | with_reducible apply updSec_keeps

theorem spdmRequest_keeps {s t : State} (h : Keeps s t) : ∀ a0 a1 a2, Keeps s (spdmRequest a0 a1 a2 t) := by
  intro a0 a1 a2; unfold spdmRequest
  repeat'
    first
    | with_reducible assumption | (intro _) | with_reducible apply Keeps.ite | with_reducible apply emit_keeps
    | with_reducible apply setSpdmSessions_keeps | with_reducible apply random_keeps | dsimp only | split

theorem execSpdmRequest_keeps {s t : State} (h : Keeps s t) : ∀ a0 a1 a2, ResultKeeps s (execSpdmRequest a0 a1 a2 t) := by
  intro a0 a1 a2; unfold execSpdmRequest
  repeat'
    first
    | with_reducible assumption | with_reducible apply ResultKeeps.next | with_reducible apply spdmRequest_keeps

theorem jtagInstruction_keeps {s t : State} (h : Keeps s t) : ∀ a0, Keeps s (jtagInstruction a0 t) := by
  intro a0; unfold jtagInstruction
  repeat'
    first
    | with_reducible assumption | with_reducible apply Keeps.ite | with_reducible apply updMgmt_keeps
    | with_reducible apply updSec_keeps | with_reducible apply emit_keeps | split

theorem execJtagInstruction_keeps {s t : State} (h : Keeps s t) : ∀ a0, ResultKeeps s (execJtagInstruction a0 t) := by
  intro a0; unfold execJtagInstruction
  repeat'
    first
    | with_reducible assumption | with_reducible apply ResultKeeps.next | with_reducible apply jtagInstruction_keeps

theorem whilePowered_keeps {s t : State} (h : Keeps s t) (f : State → State) (hf : ∀ u, Keeps s u → Keeps s (f u)) :
    Keeps s (whilePowered f t) :=
  Keeps.ite (hf t h) h

theorem setUpdate_keeps {s t : State} (h : Keeps s t) : ∀ a0, Keeps s (setUpdate a0 t) := by
  intro a0; unfold setUpdate
  repeat'
    first
    | with_reducible assumption | with_reducible apply updMgmt_keeps

theorem requestUpdate_keeps {s t : State} (h : Keeps s t) : Keeps s (requestUpdate t) := by
  unfold requestUpdate
  repeat'
    first
    | with_reducible assumption | with_reducible apply Keeps.ite | with_reducible apply emit_keeps
    | with_reducible apply setUpdate_keeps

theorem updateComponent_keeps {s t : State} (h : Keeps s t) : ∀ a0, Keeps s (updateComponent a0 t) := by
  intro a0; unfold updateComponent
  repeat'
    first
    | with_reducible assumption | with_reducible apply Keeps.ite | with_reducible apply emit_keeps
    | with_reducible apply updSec_keeps | with_reducible apply setUpdate_keeps | with_reducible apply toStage_keeps

theorem activateFirmware_keeps {s t : State} (h : Keeps s t) : Keeps s (activateFirmware t) := by
  unfold activateFirmware
  repeat'
    first
    | with_reducible assumption | with_reducible apply emit_keeps | with_reducible apply setUpdate_keeps
    | with_reducible apply updSec_keeps | split

theorem execPldmRequestUpdate_keeps {s t : State} (h : Keeps s t) : ResultKeeps s (execPldmRequestUpdate t) := by
  unfold execPldmRequestUpdate
  repeat'
    first
    | with_reducible assumption | with_reducible apply ResultKeeps.next | with_reducible apply whilePowered_keeps
    | with_reducible apply requestUpdate_keeps

theorem execPldmUpdateComponent_keeps {s t : State} (h : Keeps s t) : ∀ a0, ResultKeeps s (execPldmUpdateComponent a0 t) := by
  intro a0; unfold execPldmUpdateComponent
  repeat'
    first
    | with_reducible assumption | with_reducible apply ResultKeeps.next | with_reducible apply whilePowered_keeps
    | with_reducible apply updateComponent_keeps | (intro _)

theorem execPldmActivateFirmware_keeps {s t : State} (h : Keeps s t) : ResultKeeps s (execPldmActivateFirmware t) := by
  unfold execPldmActivateFirmware
  repeat'
    first
    | with_reducible assumption | with_reducible apply ResultKeeps.next | with_reducible apply whilePowered_keeps
    | with_reducible apply activateFirmware_keeps

theorem refreshSensor_keeps {s t : State} (h : Keeps s t) : ∀ a0, Keeps s (refreshSensor a0 t) := by
  intro a0; unfold refreshSensor
  repeat'
    first
    | with_reducible assumption | with_reducible apply Keeps.ite | with_reducible apply updMgmt_keeps
    | with_reducible apply emit_keeps

theorem execPldmSensorRefresh_keeps {s t : State} (h : Keeps s t) : ResultKeeps s (execPldmSensorRefresh t) := by
  unfold execPldmSensorRefresh
  repeat'
    first
    | with_reducible assumption | with_reducible apply forAll_keeps | with_reducible apply event_keeps
    | with_reducible apply updMgmt_keeps | with_reducible apply refreshSensor_keeps | (intro _)

theorem enableEvents_keeps {s t : State} (h : Keeps s t) : ∀ a0, Keeps s (enableEvents a0 t) := by
  intro a0; unfold enableEvents
  repeat'
    first
    | with_reducible assumption | (intro _) | with_reducible apply Keeps.ite | with_reducible apply updMgmt_keeps

theorem execPldmEventEnable_keeps {s t : State} (h : Keeps s t) : ∀ a0, ResultKeeps s (execPldmEventEnable a0 t) := by
  intro a0; unfold execPldmEventEnable
  repeat'
    first
    | with_reducible assumption | with_reducible apply ResultKeeps.next | with_reducible apply whilePowered_keeps
    | with_reducible apply enableEvents_keeps | (intro _)

theorem execMctpEndpointIdAssign_keeps {s t : State} (h : Keeps s t) : ∀ a0, ResultKeeps s (execMctpEndpointIdAssign a0 t) := by
  intro a0; unfold execMctpEndpointIdAssign
  repeat'
    first
    | with_reducible assumption | with_reducible apply ResultKeeps.next | with_reducible apply whilePowered_keeps
    | with_reducible apply updMgmt_keeps | (intro _)

/-! ## The operations of Hbm.lean -/

theorem declareDead_keeps {s t : State} (h : Keeps s t) : ∀ a0 a1 a2, Keeps s (declareDead a0 a1 a2 t) := by
  intro a0 a1 a2; unfold declareDead
  repeat'
    first
    | with_reducible assumption | with_reducible apply Keeps.ite | with_reducible apply daybook_keeps
    | with_reducible apply updChan_keeps

theorem countPin_keeps {s t : State} (h : Keeps s t) : ∀ a0 a1 a2, Keeps s (countPin a0 a1 a2 t) := by
  intro a0 a1 a2; unfold countPin
  repeat'
    first
    | with_reducible assumption | with_reducible apply Keeps.ite | with_reducible apply updChan_keeps
    | with_reducible apply declareDead_keeps

theorem countCorrected_keeps {s t : State} (h : Keeps s t) : ∀ a0 a1 a2, Keeps s (countCorrected a0 a1 a2 t) := by
  intro a0 a1 a2; unfold countCorrected
  repeat'
    first
    | with_reducible assumption | (intro _) | with_reducible apply Keeps.ite | with_reducible apply forAll_keeps
    | with_reducible apply updChan_keeps | with_reducible apply updStack_keeps | with_reducible apply updRecov_keeps
    | with_reducible apply countPin_keeps

theorem poisonRead_keeps {s t : State} (h : Keeps s t) : ∀ a0 a1 a2 a3, Keeps s (poisonRead a0 a1 a2 a3 t) := by
  intro a0 a1 a2 a3; unfold poisonRead
  repeat'
    first
    | with_reducible assumption | with_reducible apply daybook_keeps | with_reducible apply poisonSector_keeps
    | with_reducible apply updChan_keeps

theorem readSector_keeps {s t : State} (h : Keeps s t) : ∀ a0 a1 a2 a3, Keeps s (readSector a0 a1 a2 a3 t).2 := by
  intro a0 a1 a2 a3; unfold readSector
  repeat'
    first
    | with_reducible assumption | (intro _) | with_reducible apply Keeps.ite | with_reducible apply countCorrected_keeps
    | with_reducible apply poisonRead_keeps | with_reducible apply fresh_keeps | dsimp only | split

theorem updPc_keeps {s t : State} (h : Keeps s t) : ∀ a0 a1 a2, Keeps s (updPc a0 a1 a2 t) := by
  intro a0 a1 a2; unfold updPc
  repeat'
    first
    | with_reducible assumption | with_reducible refine updHbm_keeps ?_ _ rfl rfl

theorem arrive_keeps {s t : State} (h : Keeps s t) : ∀ a0 a1 a2 a3, Keeps s (arrive a0 a1 a2 a3 t) := by
  intro a0 a1 a2 a3; unfold arrive
  repeat'
    first
    | with_reducible assumption | (intro _) | with_reducible apply updRun_keeps

theorem freshBytes_keeps {s t : State} (h : Keeps s t) : ∀ a0, Keeps s (freshBytes a0 t).2 := by
  intro a0; unfold freshBytes
  repeat'
    first
    | exact h.upd rfl rfl rfl rfl rfl

theorem serveReq_keeps {s t : State} (h : Keeps s t) : ∀ a0 a1 a2 a3 a4, Keeps s (serveReq a0 a1 a2 a3 a4 t) := by
  intro a0 a1 a2 a3 a4; unfold serveReq
  repeat'
    first
    | with_reducible assumption | (intro _) | with_reducible apply Keeps.ite | with_reducible apply readSector_keeps
    | with_reducible apply freshBytes_keeps | with_reducible apply arrive_keeps

theorem strayError_keeps {s t : State} (h : Keeps s t) : ∀ a0 a1 a2, Keeps s (strayError a0 a1 a2 t) := by
  intro a0 a1 a2; unfold strayError
  repeat'
    first
    | with_reducible assumption | (intro _) | with_reducible apply Keeps.ite | with_reducible apply readSector_keeps
    | with_reducible refine updHbm_keeps ?_ _ rfl rfl

theorem hbmSlot_keeps {s t : State} (h : Keeps s t) : ∀ a0 a1 a2 a3 a4, Keeps s (hbmSlot a0 a1 a2 a3 a4 t) := by
  intro a0 a1 a2 a3 a4; unfold hbmSlot
  repeat'
    first
    | with_reducible assumption | (intro _) | with_reducible apply Keeps.ite | with_reducible apply forAll_keeps
    | with_reducible apply strayError_keeps | with_reducible apply updPc_keeps | with_reducible apply serveReq_keeps

theorem advanceAc_keeps {s t : State} (h : Keeps s t) : ∀ a0, Keeps s (advanceAc a0 t) := by
  intro a0; unfold advanceAc
  repeat'
    first
    | exact h.upd rfl rfl rfl rfl rfl

theorem execHbmSlot_keeps {s t : State} (h : Keeps s t) : ∀ a0 a1 a2 a3, ResultKeeps s (execHbmSlot a0 a1 a2 a3 t) := by
  intro a0 a1 a2 a3; unfold execHbmSlot
  repeat'
    first
    | with_reducible assumption | with_reducible apply event_keeps | with_reducible apply ResultKeeps.fault
    | with_reducible apply advanceAc_keeps | with_reducible apply hbmSlot_keeps | dsimp only | split

theorem execRefreshSlot_keeps {s t : State} (h : Keeps s t) : ∀ a0 a1, ResultKeeps s (execRefreshSlot a0 a1 t) := by
  intro a0 a1; unfold execRefreshSlot
  repeat'
    first
    | with_reducible assumption | with_reducible apply event_keeps | with_reducible apply updStack_keeps

theorem retrain_keeps {s t : State} (h : Keeps s t) : ∀ a0 a1 a2, Keeps s (retrain a0 a1 a2 t) := by
  intro a0 a1 a2; unfold retrain
  repeat'
    first
    | with_reducible assumption | (intro _) | with_reducible apply Keeps.ite | with_reducible apply forAll_keeps
    | with_reducible apply daybook_keeps | with_reducible apply updChan_keeps | with_reducible apply advanceAc_keeps
    | with_reducible apply declareDead_keeps

theorem execRetrainWindow_keeps {s t : State} (h : Keeps s t) : ∀ a0 a1 a2, ResultKeeps s (execRetrainWindow a0 a1 a2 t) := by
  intro a0 a1 a2; unfold execRetrainWindow
  repeat'
    first
    | with_reducible assumption | with_reducible apply event_keeps | with_reducible apply retrain_keeps

theorem memQueryBody_keeps {s t : State} (h : Keeps s t) : ∀ a0 a1 a2, Reply.Keeps s (memQueryBody a0 a1 a2 t) := by
  intro a0 a1 a2; unfold memQueryBody
  repeat'
    first
    | with_reducible assumption | with_reducible apply Reply.ite | with_reducible apply Reply.done_keeps

theorem memRestoreBody_keeps {s t : State} (h : Keeps s t) : Reply.Keeps s (memRestoreBody t) := by
  unfold memRestoreBody
  repeat'
    first
    | with_reducible assumption | with_reducible apply Reply.done_keeps | with_reducible refine updHbm_keeps ?_ _ rfl rfl

theorem execMemQuery_keeps {s t : State} (h : Keeps s t) : ∀ a0 a1 a2, ResultKeeps s (execMemQuery a0 a1 a2 t) := by
  intro a0 a1 a2; unfold execMemQuery
  repeat'
    first
    | with_reducible assumption | with_reducible apply ResultKeeps.next | with_reducible apply mailbox_keeps
    | with_reducible apply memQueryBody_keeps | (intro _)

theorem execMemRestore_keeps {s t : State} (h : Keeps s t) : ∀ a0, ResultKeeps s (execMemRestore a0 t) := by
  intro a0; unfold execMemRestore
  repeat'
    first
    | with_reducible assumption | with_reducible apply ResultKeeps.next | with_reducible apply mailbox_keeps
    | with_reducible apply memRestoreBody_keeps

/-! ## The operations of Tally.lean -/

theorem tallyTo_keeps {s t : State} (h : Keeps s t) : ∀ a0, Keeps s (tallyTo a0 t) := by
  intro a0; unfold tallyTo
  repeat'
    first
    | with_reducible assumption | with_reducible apply Keeps.ite | with_reducible apply setEvent_keeps
    | with_reducible apply daybook_keeps | with_reducible apply updTally_keeps

theorem enterLocked_keeps {s t : State} (h : Keeps s t) : Keeps s (enterLocked t) := by
  unfold enterLocked
  repeat'
    first
    | with_reducible assumption | with_reducible apply tallyTo_keeps | with_reducible apply updTally_keeps

theorem enterHoldover_keeps {s t : State} (h : Keeps s t) : Keeps s (enterHoldover t) := by
  unfold enterHoldover
  repeat'
    first
    | with_reducible assumption | with_reducible apply tallyTo_keeps | with_reducible apply updTally_keeps

theorem enterUnlocked_keeps {s t : State} (h : Keeps s t) : Keeps s (enterUnlocked t) := by
  unfold enterUnlocked
  repeat'
    first
    | with_reducible assumption | with_reducible apply tallyTo_keeps | with_reducible apply updTally_keeps

theorem measured_keeps {s t : State} (h : Keeps s t) : ∀ a0, Keeps s (measured a0 t) := by
  intro a0; unfold measured
  repeat'
    first
    | with_reducible assumption | (intro _) | with_reducible apply Keeps.ite | with_reducible apply updTally_keeps
    | with_reducible apply enterUnlocked_keeps

theorem clearSource_keeps {s t : State} (h : Keeps s t) : Keeps s (clearSource t) := by
  unfold clearSource
  repeat'
    first
    | with_reducible assumption | with_reducible apply updTally_keeps

theorem afterSelect_keeps {s t : State} (h : Keeps s t) : Keeps s (afterSelect t) := by
  unfold afterSelect
  repeat'
    first
    | with_reducible assumption | with_reducible apply Keeps.ite | with_reducible apply enterLocked_keeps
    | with_reducible apply tallyTo_keeps

theorem loseSource_keeps {s t : State} (h : Keeps s t) : Keeps s (loseSource t) := by
  unfold loseSource
  repeat'
    first
    | with_reducible assumption | with_reducible apply enterHoldover_keeps | with_reducible apply clearSource_keeps
    | with_reducible apply tallyTo_keeps | split

theorem elect_keeps {s t : State} (h : Keeps s t) : Keeps s (elect t) := by
  unfold elect
  repeat'
    first
    | with_reducible assumption | (intro _) | with_reducible apply Keeps.ite | with_reducible apply loseSource_keeps
    | with_reducible apply afterSelect_keeps | with_reducible apply updTally_keeps | dsimp only | split

theorem raiseDue_keeps {s t : State} (h : Keeps s t) : ∀ a0, Keeps s (raiseDue a0 t) := by
  intro a0; unfold raiseDue
  repeat'
    first
    | with_reducible assumption | (intro _) | with_reducible apply forAll_keeps | with_reducible apply updMbx_keeps

theorem shiftBounds_keeps {s t : State} (h : Keeps s t) : ∀ a0, Keeps s (shiftBounds a0 t) := by
  intro a0; unfold shiftBounds
  repeat'
    first
    | with_reducible assumption | with_reducible apply updHost_keeps | with_reducible apply updPlace_keeps
    | with_reducible apply updFabric_keeps | with_reducible apply updCodec_keeps | with_reducible apply updRecov_keeps
    | with_reducible apply updSec_keeps

theorem stepTally_keeps {s t : State} (h : Keeps s t) (ns : Nat) : Keeps s (stepTally ns t) := by
  have k : Keeps s (if ns / 50000 - t.clock.beat = 0 then t
      else shiftBounds (ns / 50000 - t.clock.beat) (raiseDue (ns / 50000 - t.clock.beat) t)) :=
    Keeps.ite h (shiftBounds_keeps (raiseDue_keeps h _) _)
  exact k.upd rfl rfl rfl rfl rfl

theorem execTallyLocked_keeps {s t : State} (h : Keeps s t) : ∀ a0 a1, ResultKeeps s (execTallyLocked a0 a1 t) := by
  intro a0 a1; unfold execTallyLocked
  repeat'
    first
    | with_reducible assumption | with_reducible apply Keeps.ite | with_reducible apply ResultKeeps.ite
    | with_reducible apply event_keeps | with_reducible apply enterLocked_keeps | with_reducible apply measured_keeps
    | with_reducible apply stepTally_keeps

theorem execTallyUnlock_keeps {s t : State} (h : Keeps s t) : ∀ a0, ResultKeeps s (execTallyUnlock a0 t) := by
  intro a0; unfold execTallyUnlock
  repeat'
    first
    | with_reducible assumption | with_reducible apply event_keeps | with_reducible apply measured_keeps

theorem execTallySourceLost_keeps {s t : State} (h : Keeps s t) : ResultKeeps s (execTallySourceLost t) := by
  unfold execTallySourceLost
  repeat'
    first
    | with_reducible assumption | with_reducible apply event_keeps | with_reducible apply enterHoldover_keeps

theorem execTallySourceReturn_keeps {s t : State} (h : Keeps s t) : ∀ a0, ResultKeeps s (execTallySourceReturn a0 t) := by
  intro a0; unfold execTallySourceReturn
  repeat'
    first
    | with_reducible assumption | with_reducible apply event_keeps | with_reducible apply enterLocked_keeps
    | with_reducible apply measured_keeps

theorem execHoldoverExpired_keeps {s t : State} (h : Keeps s t) : ResultKeeps s (execHoldoverExpired t) := by
  unfold execHoldoverExpired
  repeat'
    first
    | with_reducible assumption | with_reducible apply event_keeps | with_reducible apply enterUnlocked_keeps

theorem tallyBeat_keeps {s t : State} (h : Keeps s t) : Keeps s (tallyBeat t) := by
  unfold tallyBeat
  repeat'
    first
    | with_reducible assumption | (intro _) | with_reducible apply Keeps.ite | with_reducible apply updTally_keeps

theorem endFabricRuns_keeps {s t : State} (h : Keeps s t) : ∀ a0, Keeps s (endFabricRuns a0 t) := by
  intro a0; unfold endFabricRuns
  repeat'
    first
    | with_reducible assumption | with_reducible apply Keeps.ite | with_reducible apply endWaiting_keeps
    | with_reducible apply updPart_keeps | with_reducible apply quiesce_keeps | with_reducible apply daybook_keeps
    | with_reducible apply endRun_keeps | dsimp only | split

theorem execTallyLostRunEnd_keeps {s t : State} (h : Keeps s t) : ResultKeeps s (execTallyLostRunEnd t) := by
  unfold execTallyLostRunEnd
  repeat'
    first
    | with_reducible assumption | with_reducible apply event_keeps | with_reducible apply forAll_keeps
    | with_reducible apply settled_keeps | with_reducible apply endFabricRuns_keeps | with_reducible apply updTally_keeps
    | (intro _)

theorem tallyCodeIn_keeps {s t : State} (h : Keeps s t) : ∀ a0 a1, Keeps s (tallyCodeIn a0 a1 t) := by
  intro a0 a1; unfold tallyCodeIn
  repeat'
    first
    | with_reducible assumption | (intro _) | with_reducible apply Keeps.ite | with_reducible apply updTally_keeps
    | with_reducible apply measured_keeps

theorem execTallyCode_keeps {s t : State} (h : Keeps s t) : ∀ a0 a1, ResultKeeps s (execTallyCode a0 a1 t) := by
  intro a0 a1; unfold execTallyCode
  repeat'
    first
    | with_reducible assumption | with_reducible apply ResultKeeps.next | with_reducible apply tallyCodeIn_keeps

theorem execTallyInLoss_keeps {s t : State} (h : Keeps s t) : ResultKeeps s (execTallyInLoss t) := by
  unfold execTallyInLoss
  repeat'
    first
    | with_reducible assumption | with_reducible apply event_keeps | with_reducible apply enterHoldover_keeps

theorem ptpMessage_keeps {s t : State} (h : Keeps s t) : ∀ a0 a1, Keeps s (ptpMessage a0 a1 t) := by
  intro a0 a1; unfold ptpMessage
  repeat'
    first
    | with_reducible assumption | (intro _) | with_reducible apply Keeps.ite | with_reducible apply emit_keeps
    | with_reducible apply measured_keeps | with_reducible apply updTally_keeps | dsimp only | split

theorem execPtpMessage_keeps {s t : State} (h : Keeps s t) : ∀ a0 a1, ResultKeeps s (execPtpMessage a0 a1 t) := by
  intro a0 a1; unfold execPtpMessage
  repeat'
    first
    | with_reducible assumption | with_reducible apply ResultKeeps.next | with_reducible apply ptpMessage_keeps

theorem tallyConfigBody_keeps {s t : State} (h : Keeps s t) : ∀ a0 a1 a2 a3 a4, Reply.Keeps s (tallyConfigBody a0 a1 a2 a3 a4 t) := by
  intro a0 a1 a2 a3 a4; unfold tallyConfigBody
  repeat'
    first
    | with_reducible assumption | with_reducible apply Reply.ite | with_reducible apply Reply.done_keeps
    | with_reducible apply updTally_keeps | with_reducible apply elect_keeps

theorem execTallyConfig_keeps {s t : State} (h : Keeps s t) : ∀ a0 a1 a2 a3 a4 a5, ResultKeeps s (execTallyConfig a0 a1 a2 a3 a4 a5 t) := by
  intro a0 a1 a2 a3 a4 a5; unfold execTallyConfig
  repeat'
    first
    | with_reducible assumption | with_reducible apply ResultKeeps.next | with_reducible apply mailbox_keeps
    | with_reducible apply tallyConfigBody_keeps | (intro _)

theorem execSetTimeApply_keeps {s t : State} (h : Keeps s t) : ResultKeeps s (execSetTimeApply t) := by
  unfold execSetTimeApply
  repeat'
    first
    | with_reducible assumption | with_reducible apply Keeps.ite | with_reducible apply ResultKeeps.ite
    | with_reducible apply event_keeps | with_reducible apply elect_keeps | with_reducible apply updTally_keeps
    | with_reducible apply stepTally_keeps

/-! ## The operations of Fabric.lean -/

theorem moveTo_keeps {s t : State} (h : Keeps s t) : ∀ a0, Keeps s (moveTo a0 t) := by
  intro a0; unfold moveTo
  repeat'
    first
    | with_reducible assumption | with_reducible apply Keeps.ite | with_reducible apply advanceAc_keeps

theorem closeWork_keeps {s t : State} (h : Keeps s t) : ∀ a0 a1 a2, Keeps s (closeWork a0 a1 a2 t) := by
  intro a0 a1 a2; unfold closeWork
  repeat'
    first
    | with_reducible assumption | (intro _) | with_reducible apply updDrover_keeps | with_reducible apply updRun_keeps

theorem releaseSend_keeps {s t : State} (h : Keeps s t) : ∀ a0 a1, Keeps s (releaseSend a0 a1 t) := by
  intro a0 a1; unfold releaseSend
  repeat'
    first
    | with_reducible assumption | with_reducible apply closeWork_keeps | with_reducible apply updGate_keeps

theorem endFabricCopy_keeps {s t : State} (h : Keeps s t) : ∀ a0 a1, Keeps s (endFabricCopy a0 a1 t) := by
  intro a0 a1; unfold endFabricCopy
  repeat'
    first
    | with_reducible assumption | with_reducible apply updFabric_keeps | with_reducible apply completeProg_keeps | dsimp only
    | split

theorem failCopies_keeps {s t : State} (h : Keeps s t) : ∀ a0, Keeps s (failCopies a0 t) := by
  intro a0; unfold failCopies
  repeat'
    first
    | with_reducible assumption | (intro _) | with_reducible apply forAll_keeps | with_reducible apply endFabricCopy_keeps

theorem execFabricCopyTimeout_keeps {s t : State} (h : Keeps s t) : ∀ a0, ResultKeeps s (execFabricCopyTimeout a0 t) := by
  intro a0; unfold execFabricCopyTimeout
  repeat'
    first
    | with_reducible assumption | with_reducible apply event_keeps | with_reducible apply forAll_keeps
    | with_reducible apply settled_keeps | with_reducible apply endFabricCopy_keeps | (intro _)

theorem queueCells_keeps {s t : State} (h : Keeps s t) : ∀ a0 a1, Keeps s (queueCells a0 a1 t) := by
  intro a0 a1; unfold queueCells
  repeat'
    first
    | with_reducible assumption | with_reducible apply updGate_keeps

theorem cellLeave_keeps {s t : State} (h : Keeps s t) : ∀ a0 a1, Keeps s (cellLeave a0 a1 t) := by
  intro a0 a1; unfold cellLeave
  repeat'
    first
    | with_reducible assumption | (intro _) | with_reducible apply Keeps.ite | with_reducible apply forAll_keeps
    | with_reducible apply updGate_keeps | with_reducible apply emit_keeps | with_reducible apply moveTo_keeps
    | with_reducible apply endFabricCopy_keeps

theorem execCellLeave_keeps {s t : State} (h : Keeps s t) : ∀ a0, ResultKeeps s (execCellLeave a0 t) := by
  intro a0; unfold execCellLeave
  repeat'
    first
    | with_reducible assumption | with_reducible apply event_keeps | with_reducible apply ResultKeeps.fault
    | with_reducible apply settled_keeps | with_reducible apply cellLeave_keeps | split | (intro _)

theorem relayCell_keeps {s t : State} (h : Keeps s t) : ∀ a0 a1 a2 a3, Keeps s (relayCell a0 a1 a2 a3 t) := by
  intro a0 a1 a2 a3; unfold relayCell
  repeat'
    first
    | with_reducible assumption | with_reducible apply Keeps.ite | with_reducible apply queueCells_keeps

theorem countOrphan_keeps {s t : State} (h : Keeps s t) : ∀ a0, Keeps s (countOrphan a0 t) := by
  intro a0; unfold countOrphan
  repeat'
    first
    | with_reducible assumption | with_reducible apply updGate_keeps

theorem takeCell_keeps {s t : State} (h : Keeps s t) : ∀ a0 a1 a2 a3 a4, Keeps s (takeCell a0 a1 a2 a3 a4 t) := by
  intro a0 a1 a2 a3 a4; unfold takeCell
  repeat'
    first
    | with_reducible assumption | with_reducible apply Keeps.ite | with_reducible apply updGate_keeps | dsimp only | split

theorem takeCopyCell_keeps {s t : State} (h : Keeps s t) : ∀ a0 a1 a2 a3, Keeps s (takeCopyCell a0 a1 a2 a3 t) := by
  intro a0 a1 a2 a3; unfold takeCopyCell
  repeat'
    first
    | with_reducible assumption | with_reducible apply Keeps.ite | with_reducible apply updFabric_keeps
    | with_reducible apply writeVa_keeps | with_reducible apply endFabricCopy_keeps | with_reducible apply updGate_keeps

theorem cellArrive_keeps {s t : State} (h : Keeps s t) : ∀ a0 a1 a2 a3, Keeps s (cellArrive a0 a1 a2 a3 t) := by
  intro a0 a1 a2 a3; unfold cellArrive
  repeat'
    first
    | with_reducible assumption | (intro _) | with_reducible apply Keeps.ite | with_reducible apply relayCell_keeps
    | with_reducible apply takeCell_keeps | with_reducible apply takeCopyCell_keeps | with_reducible apply countOrphan_keeps
    | dsimp only | split

theorem execCellArrive_keeps {s t : State} (h : Keeps s t) : ∀ a0 a1 a2 a3, ResultKeeps s (execCellArrive a0 a1 a2 a3 t) := by
  intro a0 a1 a2 a3; unfold execCellArrive
  repeat'
    first
    | with_reducible assumption | with_reducible apply ResultKeeps.next | with_reducible apply settled_keeps
    | with_reducible apply cellArrive_keeps | (intro _)

theorem sendAttempt_keeps {s t : State} (h : Keeps s t) : ∀ a0 a1 a2 a3, Keeps s (sendAttempt a0 a1 a2 a3 t) := by
  intro a0 a1 a2 a3; unfold sendAttempt
  repeat'
    first
    | with_reducible assumption | with_reducible apply Keeps.ite | with_reducible apply queueCells_keeps
    | with_reducible apply moveTo_keeps | with_reducible apply releaseSend_keeps | with_reducible apply updGate_keeps | split

theorem execSendAttempt_keeps {s t : State} (h : Keeps s t) : ∀ a0 a1 a2, ResultKeeps s (execSendAttempt a0 a1 a2 t) := by
  intro a0 a1 a2; unfold execSendAttempt
  repeat'
    first
    | with_reducible assumption | with_reducible apply event_keeps | with_reducible apply ResultKeeps.fault
    | with_reducible apply sendAttempt_keeps | split

theorem idleWordSend_keeps {s t : State} (h : Keeps s t) : ∀ a0, Keeps s (idleWordSend a0 t) := by
  intro a0; unfold idleWordSend
  repeat'
    first
    | with_reducible assumption | with_reducible apply emit_keeps | with_reducible apply moveTo_keeps
    | with_reducible apply updGate_keeps

theorem execIdleWordSend_keeps {s t : State} (h : Keeps s t) : ∀ a0, ResultKeeps s (execIdleWordSend a0 t) := by
  intro a0; unfold execIdleWordSend
  repeat'
    first
    | with_reducible assumption | with_reducible apply event_keeps | with_reducible apply idleWordSend_keeps

theorem takeAck_keeps {s t : State} (h : Keeps s t) : ∀ a0 a1, Keeps s (takeAck a0 a1 t) := by
  intro a0 a1; unfold takeAck
  repeat'
    first
    | with_reducible assumption | with_reducible apply Keeps.ite | with_reducible apply releaseSend_keeps
    | with_reducible apply updGate_keeps | split

theorem takeQuiesce_keeps {s t : State} (h : Keeps s t) : ∀ a0 a1, Keeps s (takeQuiesce a0 a1 t) := by
  intro a0 a1; unfold takeQuiesce
  repeat'
    first
    | with_reducible assumption | with_reducible apply Keeps.ite | with_reducible apply updPart_keeps
    | with_reducible apply slip_keeps | dsimp only | split

theorem takeMark_keeps {s t : State} (h : Keeps s t) : ∀ a0 a1 a2, Keeps s (takeMark a0 a1 a2 t) := by
  intro a0 a1 a2; unfold takeMark
  repeat'
    first
    | with_reducible assumption | (intro _) | with_reducible apply Keeps.ite | with_reducible apply measured_keeps

theorem hear_keeps {s t : State} (h : Keeps s t) : ∀ a0 a1, Keeps s (hear a0 a1 t) := by
  intro a0 a1; unfold hear
  repeat'
    first
    | with_reducible assumption | with_reducible apply updTally_keeps

theorem idleWordReceive_keeps {s t : State} (h : Keeps s t) : ∀ a0 a1 a2, Keeps s (idleWordReceive a0 a1 a2 t) := by
  intro a0 a1 a2; unfold idleWordReceive
  repeat'
    first
    | with_reducible assumption | (intro _) | with_reducible apply Keeps.ite | with_reducible apply forAll_keeps
    | with_reducible apply elect_keeps | with_reducible apply hear_keeps | with_reducible apply takeMark_keeps
    | with_reducible apply updGate_keeps | with_reducible apply takeQuiesce_keeps | with_reducible apply takeAck_keeps

theorem execIdleWordReceive_keeps {s t : State} (h : Keeps s t) : ∀ a0 a1 a2, ResultKeeps s (execIdleWordReceive a0 a1 a2 t) := by
  intro a0 a1 a2; unfold execIdleWordReceive
  repeat'
    first
    | with_reducible assumption | with_reducible apply ResultKeeps.next | with_reducible apply settled_keeps
    | with_reducible apply idleWordReceive_keeps | (intro _)

theorem loseGate_keeps {s t : State} (h : Keeps s t) : ∀ a0, Keeps s (loseGate a0 t) := by
  intro a0; unfold loseGate
  repeat'
    first
    | with_reducible assumption | with_reducible apply Keeps.ite | with_reducible apply failCopies_keeps
    | with_reducible apply updGate_keeps | with_reducible apply elect_keeps | with_reducible apply failFetches_keeps

theorem gateDown_keeps {s t : State} (h : Keeps s t) : ∀ a0, Keeps s (gateDown a0 t) := by
  intro a0; unfold gateDown
  repeat'
    first
    | with_reducible assumption | (intro _) | with_reducible apply loseGate_keeps | with_reducible apply updGate_keeps

theorem execGateDown_keeps {s t : State} (h : Keeps s t) : ∀ a0, ResultKeeps s (execGateDown a0 t) := by
  intro a0; unfold execGateDown
  repeat'
    first
    | with_reducible assumption | with_reducible apply event_keeps | with_reducible apply settled_keeps
    | with_reducible apply gateDown_keeps | (intro _)

theorem execGateTrainStart_keeps {s t : State} (h : Keeps s t) : ∀ a0, ResultKeeps s (execGateTrainStart a0 t) := by
  intro a0; unfold execGateTrainStart
  repeat'
    first
    | with_reducible assumption | with_reducible apply event_keeps | with_reducible apply updGate_keeps

theorem trainRecord_keeps {s t : State} (h : Keeps s t) : ∀ a0 a1 a2 a3, Keeps s (trainRecord a0 a1 a2 a3 t) := by
  intro a0 a1 a2 a3; unfold trainRecord
  repeat'
    first
    | with_reducible assumption | (intro _) | with_reducible apply daybook_keeps

theorem gateTrained_keeps {s t : State} (h : Keeps s t) : ∀ a0 a1 a2 a3, Keeps s (gateTrained a0 a1 a2 a3 t) := by
  intro a0 a1 a2 a3; unfold gateTrained
  repeat'
    first
    | with_reducible assumption | with_reducible apply Keeps.ite | with_reducible apply updGate_keeps
    | with_reducible apply trainRecord_keeps | with_reducible apply markStale_keeps

theorem execGateTrained_keeps {s t : State} (h : Keeps s t) : ∀ a0 a1 a2 a3 a4, ResultKeeps s (execGateTrained a0 a1 a2 a3 a4 t) := by
  intro a0 a1 a2 a3 a4; unfold execGateTrained
  repeat'
    first
    | with_reducible assumption | with_reducible apply event_keeps | with_reducible apply gateTrained_keeps

theorem gateTrainTimeout_keeps {s t : State} (h : Keeps s t) : ∀ a0, Keeps s (gateTrainTimeout a0 t) := by
  intro a0; unfold gateTrainTimeout
  repeat'
    first
    | with_reducible assumption | (intro _) | with_reducible apply trainRecord_keeps | with_reducible apply updGate_keeps

theorem execGateTrainTimeout_keeps {s t : State} (h : Keeps s t) : ∀ a0, ResultKeeps s (execGateTrainTimeout a0 t) := by
  intro a0; unfold execGateTrainTimeout
  repeat'
    first
    | with_reducible assumption | with_reducible apply event_keeps | with_reducible apply gateTrainTimeout_keeps

theorem execArpNdRequest_keeps {s t : State} (h : Keeps s t) : ∀ a0 a1, ResultKeeps s (execArpNdRequest a0 a1 t) := by
  intro a0 a1; unfold execArpNdRequest
  repeat'
    first
    | with_reducible assumption | with_reducible apply ResultKeeps.next | with_reducible apply emit_keeps | split

theorem execRoceInboundRequest_keeps {s t : State} (h : Keeps s t) : ∀ a0 a1, ResultKeeps s (execRoceInboundRequest a0 a1 t) := by
  intro a0 a1; unfold execRoceInboundRequest
  repeat'
    first
    | with_reducible assumption | with_reducible apply ResultKeeps.next | with_reducible apply emit_keeps | split

theorem execCnpReceive_keeps {s t : State} (h : Keeps s t) : ∀ a0, ResultKeeps s (execCnpReceive a0 t) := by
  intro a0; unfold execCnpReceive
  repeat'
    first
    | with_reducible assumption | with_reducible apply ResultKeeps.next | with_reducible apply updGate_keeps | split

theorem execEcnRateRestore_keeps {s t : State} (h : Keeps s t) : ∀ a0, ResultKeeps s (execEcnRateRestore a0 t) := by
  intro a0; unfold execEcnRateRestore
  repeat'
    first
    | with_reducible assumption | with_reducible apply event_keeps | with_reducible apply updGate_keeps

theorem execPfcPauseFrame_keeps {s t : State} (h : Keeps s t) : ∀ a0 a1 a2, ResultKeeps s (execPfcPauseFrame a0 a1 a2 t) := by
  intro a0 a1 a2; unfold execPfcPauseFrame
  repeat'
    first
    | with_reducible assumption | with_reducible apply ResultKeeps.next | with_reducible apply updGate_keeps | split

theorem fabricConfigBody_keeps {s t : State} (h : Keeps s t) : ∀ a0, Reply.Keeps s (fabricConfigBody a0 t) := by
  intro a0; unfold fabricConfigBody
  repeat'
    first
    | with_reducible assumption | (intro _) | with_reducible apply Reply.ite | with_reducible apply Reply.done_keeps
    | with_reducible apply Keeps.ite | with_reducible apply forAll_keeps | with_reducible apply updFabric_keeps
    | with_reducible apply loseGate_keeps | with_reducible apply updGate_keeps | with_reducible apply budgetRecord_keeps
    | with_reducible apply setBudgets_keeps

theorem execFabricConfig_keeps {s t : State} (h : Keeps s t) : ∀ a0 a1, ResultKeeps s (execFabricConfig a0 a1 t) := by
  intro a0 a1; unfold execFabricConfig
  repeat'
    first
    | with_reducible assumption | with_reducible apply ResultKeeps.next | with_reducible apply mailbox_keeps
    | with_reducible apply fabricConfigBody_keeps | (intro _)

theorem fabricRouteBody_keeps {s t : State} (h : Keeps s t) : ∀ a0 a1 a2 a3, Reply.Keeps s (fabricRouteBody a0 a1 a2 a3 t) := by
  intro a0 a1 a2 a3; unfold fabricRouteBody
  repeat'
    first
    | with_reducible assumption | with_reducible apply Reply.ite | with_reducible apply Reply.done_keeps
    | with_reducible apply updPart_keeps

theorem execFabricRoute_keeps {s t : State} (h : Keeps s t) : ∀ a0 a1 a2 a3, ResultKeeps s (execFabricRoute a0 a1 a2 a3 t) := by
  intro a0 a1 a2 a3; unfold execFabricRoute
  repeat'
    first
    | with_reducible assumption | with_reducible apply ResultKeeps.next | with_reducible apply mailbox_keeps
    | with_reducible apply fabricRouteBody_keeps | (intro _)

theorem fabricQueryBody_keeps {s t : State} (h : Keeps s t) : Reply.Keeps s (fabricQueryBody t) := by
  unfold fabricQueryBody
  repeat'
    first
    | with_reducible assumption | with_reducible apply Reply.done_keeps

theorem execFabricQuery_keeps {s t : State} (h : Keeps s t) : ∀ a0, ResultKeeps s (execFabricQuery a0 t) := by
  intro a0; unfold execFabricQuery
  repeat'
    first
    | with_reducible assumption | with_reducible apply ResultKeeps.next | with_reducible apply mailbox_keeps
    | with_reducible apply fabricQueryBody_keeps

theorem startCopySend_keeps {s t : State} (h : Keeps s t) : ∀ a0 a1, Keeps s (startCopySend a0 a1 t) := by
  intro a0 a1; unfold startCopySend
  repeat'
    first
    | with_reducible assumption | (intro _) | with_reducible apply queueCells_keeps | with_reducible apply updGate_keeps

theorem fabricCopyBody_keeps {s t : State} (h : Keeps s t) : ∀ a0 a1 a2 a3 a4 a5 a6, Reply.Keeps s (fabricCopyBody a0 a1 a2 a3 a4 a5 a6 t) := by
  intro a0 a1 a2 a3 a4 a5 a6; unfold fabricCopyBody
  repeat'
    first
    | with_reducible assumption | (intro _) | with_reducible apply Reply.ite | with_reducible apply Reply.done_keeps
    | with_reducible apply Reply.accept_keeps | with_reducible apply Keeps.ite | with_reducible apply withCtx_keeps
    | with_reducible apply updFabric_keeps | with_reducible apply startCopySend_keeps | dsimp only | split

theorem execFabricCopy_keeps {s t : State} (h : Keeps s t) : ∀ a0 a1 a2 a3 a4 a5 a6, ResultKeeps s (execFabricCopy a0 a1 a2 a3 a4 a5 a6 t) := by
  intro a0 a1 a2 a3 a4 a5 a6; unfold execFabricCopy
  repeat'
    first
    | with_reducible assumption | with_reducible apply ResultKeeps.next | with_reducible apply settledCmd_keeps
    | with_reducible apply mailbox_keeps | with_reducible apply fabricCopyBody_keeps | (intro _)

end Sys2Proof.Machine
end

