-- ==== Sys2Proof/Laws/KeptRuns.lean ====
section
/-! SUPPORT. What the operations keep (see Kept.lean): fold programs, drovers, cells, steps, checks, submission and the beat boundary. -/

namespace Sys2Proof.Machine

/-! ## The operations of Drovers.lean -/

theorem updCounter_keeps {s t : State} (h : Keeps s t) : ∀ a0 a1 a2, Keeps s (updCounter a0 a1 a2 t) := by
  intro a0 a1 a2; unfold updCounter
  repeat'
    first
    | with_reducible assumption | with_reducible apply updPart_keeps

theorem tileDecode_keeps {s t : State} (h : Keeps s t) : ∀ a0 a1 a2, Keeps s (tileDecode a0 a1 a2 t) := by
  intro a0 a1 a2; unfold tileDecode
  repeat'
    first
    | with_reducible assumption | with_reducible apply Keeps.ite | with_reducible apply updRun_keeps
    | with_reducible apply updPart_keeps | with_reducible apply updCounter_keeps | dsimp only | split

theorem execTileDecode_keeps {s t : State} (h : Keeps s t) : ∀ a0, ResultKeeps s (execTileDecode a0 t) := by
  intro a0; unfold execTileDecode
  repeat'
    first
    | with_reducible assumption | with_reducible apply ResultKeeps.next | with_reducible apply ResultKeeps.fault
    | with_reducible apply tileDecode_keeps | split

theorem postReq_keeps {s t : State} (h : Keeps s t) : ∀ a0, Keeps s (postReq a0 t) := by
  intro a0; unfold postReq
  repeat'
    first
    | with_reducible assumption | with_reducible apply updPc_keeps

theorem openTransfer_keeps {s t : State} (h : Keeps s t) : ∀ a0 a1 a2 a3, Keeps s (openTransfer a0 a1 a2 a3 t) := by
  intro a0 a1 a2 a3; unfold openTransfer
  repeat'
    first
    | with_reducible assumption | (intro _) | with_reducible apply Keeps.ite | with_reducible apply updGate_keeps
    | dsimp only | split

theorem droverStart_keeps {s t : State} (h : Keeps s t) : ∀ a0 a1 a2 a3 a4, Keeps s (droverStart a0 a1 a2 a3 a4 t) := by
  intro a0 a1 a2 a3 a4; unfold droverStart
  repeat'
    first
    | with_reducible assumption | (intro _) | with_reducible apply Keeps.ite | with_reducible apply forAll_keeps
    | with_reducible apply foldl_keeps | with_reducible apply moveTo_keeps | with_reducible apply openTransfer_keeps
    | with_reducible apply postReq_keeps | with_reducible apply updRun_keeps | with_reducible apply syncDrovers_keeps
    | with_reducible apply updDrover_keeps

theorem execDroverStart_keeps {s t : State} (h : Keeps s t) : ∀ a0 a1 a2, ResultKeeps s (execDroverStart a0 a1 a2 t) := by
  intro a0 a1 a2; unfold execDroverStart
  repeat'
    first
    | with_reducible assumption | with_reducible apply ResultKeeps.next | with_reducible apply ResultKeeps.fault
    | with_reducible apply droverStart_keeps | split

theorem updManger_keeps {s t : State} (h : Keeps s t) : ∀ a0 a1 a2, Keeps s (updManger a0 a1 a2 t) := by
  intro a0 a1 a2; unfold updManger
  repeat'
    first
    | with_reducible assumption | with_reducible apply updPart_keeps

theorem updSend_keeps {s t : State} (h : Keeps s t) : ∀ a0 a1 a2 a3, Keeps s (updSend a0 a1 a2 a3 t) := by
  intro a0 a1 a2 a3; unfold updSend
  repeat'
    first
    | with_reducible assumption | with_reducible apply updGate_keeps

theorem updRecv_keeps {s t : State} (h : Keeps s t) : ∀ a0 a1 a2 a3, Keeps s (updRecv a0 a1 a2 a3 t) := by
  intro a0 a1 a2 a3; unfold updRecv
  repeat'
    first
    | with_reducible assumption | with_reducible apply updGate_keeps

theorem placeLot_keeps {s t : State} (h : Keeps s t) : ∀ a0 a1 a2, Keeps s (placeLot t a0 a1 a2) := by
  intro a0 a1 a2; unfold placeLot
  repeat'
    first
    | with_reducible assumption | (intro _) | with_reducible apply Keeps.ite | with_reducible apply foldl_keeps
    | with_reducible apply updPen_keeps | with_reducible apply updCounter_keeps | with_reducible apply updManger_keeps
    | with_reducible apply updRun_keeps | with_reducible apply updPart_keeps | with_reducible apply updSend_keeps
    | with_reducible apply updRecv_keeps | dsimp only | split

theorem poisonLot_keeps {s t : State} (h : Keeps s t) : ∀ a0 a1 a2 a3, Keeps s (poisonLot a0 a1 a2 a3 t) := by
  intro a0 a1 a2 a3; unfold poisonLot
  repeat'
    first
    | with_reducible assumption | (intro _) | with_reducible apply Keeps.ite | with_reducible apply foldl_keeps
    | with_reducible apply updDrover_keeps | with_reducible apply updPen_keeps | with_reducible apply updManger_keeps
    | with_reducible apply updRecv_keeps | with_reducible apply updSend_keeps | with_reducible apply haltRun_keeps

theorem hazard_keeps {s t : State} (h : Keeps s t) : ∀ a0 a1, Keeps s (hazard a0 a1 t) := by
  intro a0 a1; unfold hazard
  repeat'
    first
    | with_reducible assumption | with_reducible apply slip_keeps | with_reducible apply updPen_keeps

theorem countLot_keeps {s t : State} (h : Keeps s t) : ∀ a0 a1, Keeps s (countLot a0 a1 t) := by
  intro a0 a1; unfold countLot
  repeat'
    first
    | with_reducible assumption | (intro _) | with_reducible apply updDrover_keeps

theorem loadLot_keeps {s t : State} (h : Keeps s t) : ∀ a0 a1 a2 a3, Keeps s (loadLot a0 a1 a2 a3 t) := by
  intro a0 a1 a2 a3; unfold loadLot
  repeat'
    first
    | with_reducible assumption | (intro _) | with_reducible apply Keeps.ite | with_reducible apply countLot_keeps
    | with_reducible apply placeLot_keeps | with_reducible apply updRun_keeps | with_reducible apply poisonLot_keeps
    | with_reducible apply haltRun_keeps | with_reducible apply hazard_keeps | dsimp only | split

theorem fillPens_keeps {s t : State} (h : Keeps s t) : ∀ a0 a1 a2 a3 a4, Keeps s (fillPens a0 a1 a2 a3 a4 t) := by
  intro a0 a1 a2 a3 a4; unfold fillPens
  repeat'
    first
    | with_reducible assumption | (intro _) | with_reducible apply forAll_keeps | with_reducible apply updPen_keeps

theorem writeRun_keeps {s t : State} (h : Keeps s t) : ∀ a0 a1 a2, Keeps s (writeRun a0 a1 a2 t) := by
  intro a0 a1 a2; unfold writeRun
  repeat'
    first
    | with_reducible assumption | (intro _) | with_reducible apply Keeps.ite | with_reducible apply writeT1_keeps
    | dsimp only | split

theorem closeStores_keeps {s t : State} (h : Keeps s t) : ∀ a0 a1 a2 a3, Keeps s (closeStores a0 a1 a2 a3 t) := by
  intro a0 a1 a2 a3; unfold closeStores
  repeat'
    first
    | with_reducible assumption | with_reducible apply Keeps.ite | with_reducible apply syncDrovers_keeps
    | with_reducible apply updRun_keeps | with_reducible apply updGate_keeps | dsimp only | split

theorem storeLot_keeps {s t : State} (h : Keeps s t) : ∀ a0 a1 a2 a3, Keeps s (storeLot a0 a1 a2 a3 t) := by
  intro a0 a1 a2 a3; unfold storeLot
  repeat'
    first
    | with_reducible assumption | (intro _) | with_reducible apply Keeps.ite | with_reducible apply forAll_keeps
    | with_reducible apply fillPens_keeps | with_reducible apply postReq_keeps | with_reducible apply writeRun_keeps
    | with_reducible apply closeStores_keeps | with_reducible apply updRun_keeps | with_reducible apply countLot_keeps
    | with_reducible apply hazard_keeps

theorem execLotComplete_keeps {s t : State} (h : Keeps s t) : ∀ a0 a1, ResultKeeps s (execLotComplete a0 a1 t) := by
  intro a0 a1; unfold execLotComplete
  repeat'
    first
    | with_reducible assumption | with_reducible apply Keeps.ite | with_reducible apply ResultKeeps.ite
    | with_reducible apply ResultKeeps.next | with_reducible apply ResultKeeps.fault | with_reducible apply storeLot_keeps
    | with_reducible apply loadLot_keeps | dsimp only | split

theorem lotLate_keeps {s t : State} (h : Keeps s t) : ∀ a0 a1 a2, Keeps s (lotLate a0 a1 a2 t) := by
  intro a0 a1 a2; unfold lotLate
  repeat'
    first
    | with_reducible assumption | with_reducible apply Keeps.ite | with_reducible apply updDrover_keeps
    | with_reducible apply moveTo_keeps | with_reducible apply slip_keeps | with_reducible apply updPen_keeps

theorem execLotLate_keeps {s t : State} (h : Keeps s t) : ∀ a0, ResultKeeps s (execLotLate a0 t) := by
  intro a0; unfold execLotLate
  repeat'
    first
    | with_reducible assumption | with_reducible apply event_keeps | with_reducible apply ResultKeeps.fault
    | with_reducible apply lotLate_keeps | split

/-! ## The operations of Fold.lean -/

theorem slipAnchor_keeps {s t : State} (h : Keeps s t) : ∀ a0 a1, Keeps s (slipAnchor a0 a1 t) := by
  intro a0 a1; unfold slipAnchor
  repeat'
    first
    | with_reducible assumption | (intro _) | with_reducible apply slip_keeps | with_reducible apply moveTo_keeps

theorem setLag_keeps {s t : State} (h : Keeps s t) : ∀ a0 a1, Keeps s (setLag a0 a1 t) := by
  intro a0 a1; unfold setLag
  repeat'
    first
    | with_reducible assumption | with_reducible apply updPart_keeps

theorem useBanks_keeps {s t : State} (h : Keeps s t) : ∀ a0 a1 a2 a3, Keeps s (useBanks a0 a1 a2 a3 t).2 := by
  intro a0 a1 a2 a3; unfold useBanks
  repeat'
    first
    | with_reducible assumption | (intro _) | with_reducible apply forAll_keeps | with_reducible apply updRun_keeps
    | with_reducible apply updPen_keeps | dsimp only | split

theorem countEngine_keeps {s t : State} (h : Keeps s t) : ∀ a0, Keeps s (countEngine a0 t) := by
  intro a0; unfold countEngine
  repeat'
    first
    | with_reducible assumption | (intro _) | with_reducible apply updRecov_keeps

theorem takeEcc_keeps {s t : State} (h : Keeps s t) : ∀ a0 a1 a2, Keeps s (takeEcc a0 a1 a2 t) := by
  intro a0 a1 a2; unfold takeEcc
  repeat'
    first
    | with_reducible assumption | (intro _) | with_reducible apply Keeps.ite | with_reducible apply forAll_keeps
    | with_reducible apply countEngine_keeps | with_reducible apply updPen_keeps | dsimp only | split

theorem launch_keeps {s t : State} (h : Keeps s t) : ∀ a0 a1 a2 a3 a4 a5, Keeps s (launch a0 a1 a2 a3 a4 a5 t) := by
  intro a0 a1 a2 a3 a4 a5; unfold launch
  repeat'
    first
    | with_reducible assumption | (intro _) | with_reducible apply Keeps.ite | with_reducible apply updRun_keeps

theorem issueRound_keeps {s t : State} (h : Keeps s t) : ∀ a0 a1 a2 a3 a4 a5, Keeps s (issueRound a0 a1 a2 a3 a4 a5 t) := by
  intro a0 a1 a2 a3 a4 a5; unfold issueRound
  repeat'
    first
    | with_reducible assumption | (intro _) | with_reducible apply forAll_keeps | with_reducible apply updPen_keeps
    | with_reducible apply moveTo_keeps | with_reducible apply useBanks_keeps | with_reducible apply takeEcc_keeps
    | with_reducible apply launch_keeps | with_reducible apply setLag_keeps

theorem issueSlotted_keeps {s t : State} (h : Keeps s t) : ∀ a0 a1 a2 a3, ResultKeeps s (issueSlotted a0 a1 a2 a3 t) := by
  intro a0 a1 a2 a3; unfold issueSlotted
  repeat'
    first
    | with_reducible assumption | with_reducible apply event_keeps | with_reducible apply ResultKeeps.next
    | with_reducible apply ResultKeeps.fault | with_reducible apply settled_keeps | with_reducible apply slipAnchor_keeps
    | with_reducible apply issueRound_keeps | dsimp only | split | (intro _)

theorem execMm_keeps {s t : State} (h : Keeps s t) : ∀ a0 a1, ResultKeeps s (execMm a0 a1 t) := by
  intro a0 a1; unfold execMm
  repeat'
    first
    | with_reducible assumption | with_reducible apply issueSlotted_keeps

theorem execCv_keeps {s t : State} (h : Keeps s t) : ∀ a0 a1, ResultKeeps s (execCv a0 a1 t) := by
  intro a0 a1; unfold execCv
  repeat'
    first
    | with_reducible assumption | with_reducible apply issueSlotted_keeps

theorem execCvDw_keeps {s t : State} (h : Keeps s t) : ∀ a0 a1, ResultKeeps s (execCvDw a0 a1 t) := by
  intro a0 a1; unfold execCvDw
  repeat'
    first
    | with_reducible assumption | with_reducible apply issueSlotted_keeps

theorem execAttn_keeps {s t : State} (h : Keeps s t) : ∀ a0 a1, ResultKeeps s (execAttn a0 a1 t) := by
  intro a0 a1; unfold execAttn
  repeat'
    first
    | with_reducible assumption | with_reducible apply issueSlotted_keeps

theorem issueRw_keeps {s t : State} (h : Keeps s t) : ∀ a0 a1 a2, Keeps s (issueRw a0 a1 a2 t) := by
  intro a0 a1 a2; unfold issueRw
  repeat'
    first
    | with_reducible assumption | (intro _) | with_reducible apply forAll_keeps | with_reducible apply updPen_keeps
    | with_reducible apply moveTo_keeps | with_reducible apply useBanks_keeps | with_reducible apply setLag_keeps
    | with_reducible apply launch_keeps

theorem execRw_keeps {s t : State} (h : Keeps s t) : ∀ a0, ResultKeeps s (execRw a0 t) := by
  intro a0; unfold execRw
  repeat'
    first
    | with_reducible assumption | with_reducible apply ResultKeeps.next | with_reducible apply ResultKeeps.fault
    | with_reducible apply settled_keeps | with_reducible apply slipAnchor_keeps | with_reducible apply issueRw_keeps
    | dsimp only | split | (intro _)

theorem dirtyPage_keeps {s t : State} (h : Keeps s t) : ∀ a0 a1, Keeps s (dirtyPage a0 a1 t) := by
  intro a0 a1; unfold dirtyPage
  repeat'
    first
    | with_reducible assumption | (intro _) | with_reducible apply Keeps.ite | with_reducible apply updPlace_keeps

theorem agePages_keeps {s t : State} (h : Keeps s t) : ∀ a0 a1 a2, Keeps s (agePages a0 a1 a2 t) := by
  intro a0 a1 a2; unfold agePages
  repeat'
    first
    | with_reducible assumption | (intro _) | with_reducible apply Keeps.ite | with_reducible apply forAll_keeps
    | with_reducible apply dirtyPage_keeps | with_reducible apply updPage_keeps | dsimp only | split

theorem queueStores_keeps {s t : State} (h : Keeps s t) : ∀ a0 a1 a2 a3 a4 a5, Keeps s (queueStores a0 a1 a2 a3 a4 a5 t) := by
  intro a0 a1 a2 a3 a4 a5; unfold queueStores
  repeat'
    first
    | with_reducible assumption | with_reducible apply updRun_keeps

theorem releaseGrants_keeps {s t : State} (h : Keeps s t) : ∀ a0 a1 a2 a3 a4, Keeps s (releaseGrants a0 a1 a2 a3 a4 t) := by
  intro a0 a1 a2 a3 a4; unfold releaseGrants
  repeat'
    first
    | with_reducible assumption | (intro _) | with_reducible apply Keeps.ite | with_reducible apply forAll_keeps
    | with_reducible apply updPen_keeps | with_reducible apply updCounter_keeps | dsimp only | split

theorem passSuspects_keeps {s t : State} (h : Keeps s t) : ∀ a0 a1, Keeps s (passSuspects a0 a1 t) := by
  intro a0 a1; unfold passSuspects
  repeat'
    first
    | with_reducible assumption | (intro _) | with_reducible apply Keeps.ite | with_reducible apply forAll_keeps
    | with_reducible apply clearSuspect_keeps | with_reducible apply quiesce_keeps

theorem leaveAtEnd_keeps {s t : State} (h : Keeps s t) : ∀ a0, Keeps s (leaveAtEnd a0 t) := by
  intro a0; unfold leaveAtEnd
  repeat'
    first
    | with_reducible assumption | (intro _) | with_reducible apply Keeps.ite | with_reducible apply releaseLeaving_keeps
    | dsimp only | split

theorem commitStep_keeps {s t : State} (h : Keeps s t) : ∀ a0 a1 a2 a3 a4, Keeps s (commitStep a0 a1 a2 a3 a4 t) := by
  intro a0 a1 a2 a3 a4; unfold commitStep
  repeat'
    first
    | with_reducible assumption | (intro _) | with_reducible apply Keeps.ite | with_reducible apply releaseGrants_keeps
    | with_reducible apply updRun_keeps | with_reducible apply updPart_keeps | with_reducible apply passSuspects_keeps
    | with_reducible apply syncDrovers_keeps | with_reducible apply advanceEpoch_keeps
    | with_reducible apply leaveAtEnd_keeps | dsimp only | split

theorem copyWord_keeps {s t : State} (h : Keeps s t) : ∀ a0 a1 a2 a3 a4, Keeps s (copyWord a0 a1 a2 a3 a4 t) := by
  intro a0 a1 a2 a3 a4; unfold copyWord
  repeat'
    first
    | with_reducible assumption | (intro _) | with_reducible apply Keeps.ite | with_reducible apply forAll_keeps
    | with_reducible apply updPen_keeps

theorem loadWord_keeps {s t : State} (h : Keeps s t) : ∀ a0 a1 a2 a3 a4, Keeps s (loadWord a0 a1 a2 a3 a4 t) := by
  intro a0 a1 a2 a3 a4; unfold loadWord
  repeat'
    first
    | with_reducible assumption | (intro _) | with_reducible apply copyWord_keeps

theorem storeWord_keeps {s t : State} (h : Keeps s t) : ∀ a0 a1 a2 a3 a4, Keeps s (storeWord a0 a1 a2 a3 a4 t) := by
  intro a0 a1 a2 a3 a4; unfold storeWord
  repeat'
    first
    | with_reducible assumption | (intro _) | with_reducible apply forAll_keeps | with_reducible apply queueStores_keeps
    | with_reducible apply copyWord_keeps | with_reducible apply agePages_keeps

theorem weightWord_keeps {s t : State} (h : Keeps s t) : ∀ a0 a1 a2 a3, Keeps s (weightWord a0 a1 a2 a3 t) := by
  intro a0 a1 a2 a3; unfold weightWord
  repeat'
    first
    | with_reducible assumption | with_reducible apply updManger_keeps

theorem sendWord_keeps {s t : State} (h : Keeps s t) : ∀ a0 a1 a2, Keeps s (sendWord a0 a1 a2 t) := by
  intro a0 a1 a2; unfold sendWord
  repeat'
    first
    | with_reducible assumption | with_reducible apply updGate_keeps | with_reducible apply updSend_keeps

theorem endNonFinite_keeps {s t : State} (h : Keeps s t) : ∀ a0 a1 a2 a3, Keeps s (endNonFinite a0 a1 a2 a3 t) := by
  intro a0 a1 a2 a3; unfold endNonFinite
  repeat'
    first
    | with_reducible assumption | with_reducible apply haltRun_keeps | with_reducible apply updRun_keeps

theorem recvWord_keeps {s t : State} (h : Keeps s t) : ∀ a0 a1 a2 a3 a4, Keeps s (recvWord a0 a1 a2 a3 a4 t) := by
  intro a0 a1 a2 a3 a4; unfold recvWord
  repeat'
    first
    | with_reducible assumption | with_reducible apply slip_keeps | with_reducible apply endNonFinite_keeps
    | with_reducible apply updRecv_keeps | with_reducible apply updRun_keeps | with_reducible apply commitStep_keeps
    | with_reducible apply agePages_keeps | dsimp only | split

theorem grantWord_keeps {s t : State} (h : Keeps s t) : ∀ a0 a1 a2, Keeps s (grantWord a0 a1 a2 t) := by
  intro a0 a1 a2; unfold grantWord
  repeat'
    first
    | with_reducible assumption | (intro _) | with_reducible apply forAll_keeps | with_reducible apply updCounter_keeps
    | with_reducible apply updPen_keeps

theorem commitWord_keeps {s t : State} (h : Keeps s t) : ∀ a0 a1 a2 a3 a4, Keeps s (commitWord a0 a1 a2 a3 a4 t) := by
  intro a0 a1 a2 a3 a4; unfold commitWord
  repeat'
    first
    | with_reducible assumption | (intro _) | with_reducible apply Keeps.ite | with_reducible apply commitStep_keeps
    | with_reducible apply loadWord_keeps | with_reducible apply storeWord_keeps | with_reducible apply weightWord_keeps
    | with_reducible apply sendWord_keeps | with_reducible apply recvWord_keeps | with_reducible apply haltRun_keeps
    | with_reducible apply updCounter_keeps | with_reducible apply grantWord_keeps | with_reducible apply settled_keeps
    | with_reducible apply addSync_keeps | dsimp only | split

theorem issuePlain_keeps {s t : State} (h : Keeps s t) : ∀ a0 a1 a2, Keeps s (issuePlain a0 a1 a2 t) := by
  intro a0 a1 a2; unfold issuePlain
  repeat'
    first
    | with_reducible assumption | (intro _) | with_reducible apply Keeps.ite | with_reducible apply setLag_keeps
    | with_reducible apply moveTo_keeps | with_reducible apply launch_keeps | with_reducible apply slip_keeps
    | with_reducible apply commitWord_keeps | with_reducible apply updRun_keeps

theorem issueOther_keeps {s t : State} (h : Keeps s t) : ∀ a0 a1 a2, ResultKeeps s (issueOther a0 a1 a2 t) := by
  intro a0 a1 a2; unfold issueOther
  repeat'
    first
    | with_reducible assumption | with_reducible apply ResultKeeps.next | with_reducible apply ResultKeeps.fault
    | with_reducible apply settled_keeps | with_reducible apply slipAnchor_keeps | with_reducible apply issuePlain_keeps
    | dsimp only | split | (intro _)

theorem execMvLoad_keeps {s t : State} (h : Keeps s t) : ∀ a0, ResultKeeps s (execMvLoad a0 t) := by
  intro a0; unfold execMvLoad
  repeat'
    first
    | with_reducible assumption | with_reducible apply issueOther_keeps

theorem execMvStore_keeps {s t : State} (h : Keeps s t) : ∀ a0, ResultKeeps s (execMvStore a0 t) := by
  intro a0; unfold execMvStore
  repeat'
    first
    | with_reducible assumption | with_reducible apply issueOther_keeps

theorem execMvWeight_keeps {s t : State} (h : Keeps s t) : ∀ a0, ResultKeeps s (execMvWeight a0 t) := by
  intro a0; unfold execMvWeight
  repeat'
    first
    | with_reducible assumption | with_reducible apply issueOther_keeps

theorem execMvSend_keeps {s t : State} (h : Keeps s t) : ∀ a0, ResultKeeps s (execMvSend a0 t) := by
  intro a0; unfold execMvSend
  repeat'
    first
    | with_reducible assumption | with_reducible apply issueOther_keeps

theorem execMvRecv_keeps {s t : State} (h : Keeps s t) : ∀ a0, ResultKeeps s (execMvRecv a0 t) := by
  intro a0; unfold execMvRecv
  repeat'
    first
    | with_reducible assumption | with_reducible apply issueOther_keeps

theorem execSyFold_keeps {s t : State} (h : Keeps s t) : ∀ a0, ResultKeeps s (execSyFold a0 t) := by
  intro a0; unfold execSyFold
  repeat'
    first
    | with_reducible assumption | with_reducible apply issueOther_keeps

theorem execSySignal_keeps {s t : State} (h : Keeps s t) : ∀ a0, ResultKeeps s (execSySignal a0 t) := by
  intro a0; unfold execSySignal
  repeat'
    first
    | with_reducible assumption | with_reducible apply issueOther_keeps

theorem execTl_keeps {s t : State} (h : Keeps s t) : ∀ a0, ResultKeeps s (execTl a0 t) := by
  intro a0; unfold execTl
  repeat'
    first
    | with_reducible assumption | with_reducible apply issueOther_keeps

theorem grantParity_keeps {s t : State} (h : Keeps s t) : ∀ a0 a1 a2, Keeps s (grantParity a0 a1 a2 t) := by
  intro a0 a1 a2; unfold grantParity
  repeat'
    first
    | with_reducible assumption | with_reducible apply Keeps.ite | with_reducible apply updCounter_keeps
    | with_reducible apply moveTo_keeps | with_reducible apply slip_keeps | with_reducible apply setLag_keeps
    | with_reducible apply updRun_keeps

theorem execSyWgrant_keeps {s t : State} (h : Keeps s t) : ∀ a0 a1, ResultKeeps s (execSyWgrant a0 a1 t) := by
  intro a0 a1; unfold execSyWgrant
  repeat'
    first
    | with_reducible assumption | with_reducible apply Keeps.ite | with_reducible apply ResultKeeps.ite
    | with_reducible apply ResultKeeps.next | with_reducible apply ResultKeeps.fault | with_reducible apply settled_keeps
    | with_reducible apply slipAnchor_keeps | with_reducible apply grantParity_keeps | with_reducible apply issuePlain_keeps
    | dsimp only | split | (intro _)

theorem execSyWait_keeps {s t : State} (h : Keeps s t) : ∀ a0, ResultKeeps s (execSyWait a0 t) := by
  intro a0; unfold execSyWait
  repeat'
    first
    | with_reducible assumption | with_reducible apply Keeps.ite | with_reducible apply ResultKeeps.ite
    | with_reducible apply ResultKeeps.next | with_reducible apply ResultKeeps.fault | with_reducible apply settled_keeps
    | with_reducible apply slipAnchor_keeps | with_reducible apply issuePlain_keeps | with_reducible apply slip_keeps
    | with_reducible apply moveTo_keeps | dsimp only | split | (intro _)

theorem reportTrouble_keeps {s t : State} (h : Keeps s t) : ∀ a0 a1 a2, Keeps s (reportTrouble a0 a1 a2 t) := by
  intro a0 a1 a2; unfold reportTrouble
  repeat'
    first
    | with_reducible assumption | (intro _) | with_reducible apply forAll_keeps | with_reducible apply updPen_keeps

theorem commitRound_keeps {s t : State} (h : Keeps s t) : ∀ a0 a1 a2 a3 a4 a5, Keeps s (commitRound a0 a1 a2 a3 a4 a5 t) := by
  intro a0 a1 a2 a3 a4 a5; unfold commitRound
  repeat'
    first
    | with_reducible assumption | (intro _) | with_reducible apply Keeps.ite | with_reducible apply forAll_keeps
    | with_reducible apply updPen_keeps | with_reducible apply queueStores_keeps | with_reducible apply commitStep_keeps
    | with_reducible apply agePages_keeps

theorem reissue_keeps {s t : State} (h : Keeps s t) : ∀ a0 a1 a2 a3 a4, Keeps s (reissue a0 a1 a2 a3 a4 t) := by
  intro a0 a1 a2 a3 a4; unfold reissue
  repeat'
    first
    | with_reducible assumption | (intro _) | with_reducible apply Keeps.ite | with_reducible apply forAll_keeps
    | with_reducible apply updPen_keeps | with_reducible apply syncDrovers_keeps | with_reducible apply updRun_keeps

theorem tryReissue_keeps {s t : State} (h : Keeps s t) : ∀ a0 a1 a2 a3 a4, Keeps s (tryReissue a0 a1 a2 a3 a4 t) := by
  intro a0 a1 a2 a3 a4; unfold tryReissue
  repeat'
    first
    | with_reducible assumption | (intro _) | with_reducible apply slip_keeps | with_reducible apply setLag_keeps
    | with_reducible apply reissue_keeps | dsimp only | split

theorem faultReissue_keeps {s t : State} (h : Keeps s t) : ∀ a0 a1 a2 a3 a4, Keeps s (faultReissue a0 a1 a2 a3 a4 t) := by
  intro a0 a1 a2 a3 a4; unfold faultReissue
  repeat'
    first
    | with_reducible assumption | with_reducible apply tryReissue_keeps

theorem seeTrouble_keeps {s t : State} (h : Keeps s t) : ∀ a0 a1 a2, Keeps s (seeTrouble a0 a1 a2 t) := by
  intro a0 a1 a2; unfold seeTrouble
  repeat'
    first
    | with_reducible assumption | with_reducible apply updRun_keeps

theorem troubleReissue_keeps {s t : State} (h : Keeps s t) : ∀ a0 a1 a2 a3 a4 a5 a6 a7, Keeps s (troubleReissue a0 a1 a2 a3 a4 a5 a6 a7 t) := by
  intro a0 a1 a2 a3 a4 a5 a6 a7; unfold troubleReissue
  repeat'
    first
    | with_reducible assumption | (intro _) | with_reducible apply Keeps.ite | with_reducible apply slip_keeps
    | with_reducible apply updRun_keeps | with_reducible apply tryReissue_keeps | with_reducible apply daybook_keeps
    | dsimp only | split

theorem countCommit_keeps {s t : State} (h : Keeps s t) : ∀ a0 a1 a2 a3 a4, Keeps s (countCommit a0 a1 a2 a3 a4 t) := by
  intro a0 a1 a2 a3 a4; unfold countCommit
  repeat'
    first
    | with_reducible assumption | with_reducible apply Keeps.ite | with_reducible apply daybook_keeps
    | with_reducible apply updRun_keeps

theorem slottedVerdict_keeps {s t : State} (h : Keeps s t) : ∀ a0 a1 a2 a3 a4, Keeps s (slottedVerdict a0 a1 a2 a3 a4 t) := by
  intro a0 a1 a2 a3 a4; unfold slottedVerdict
  repeat'
    first
    | with_reducible assumption | with_reducible apply Keeps.ite | with_reducible apply seeTrouble_keeps
    | with_reducible apply reportTrouble_keeps | with_reducible apply endNonFinite_keeps
    | with_reducible apply troubleReissue_keeps | with_reducible apply commitRound_keeps
    | with_reducible apply countCommit_keeps | split

theorem rwVerdict_keeps {s t : State} (h : Keeps s t) : ∀ a0 a1 a2 a3 a4, Keeps s (rwVerdict a0 a1 a2 a3 a4 t) := by
  intro a0 a1 a2 a3 a4; unfold rwVerdict
  repeat'
    first
    | with_reducible assumption | (intro _) | with_reducible apply Keeps.ite | with_reducible apply forAll_keeps
    | with_reducible apply foldl_keeps | with_reducible apply updPen_keeps | with_reducible apply endNonFinite_keeps
    | with_reducible apply commitStep_keeps | with_reducible apply agePages_keeps | with_reducible apply queueStores_keeps
    | dsimp only | split

theorem verdictWork_keeps {s t : State} (h : Keeps s t) : ∀ a0 a1 a2 a3 a4, Keeps s (verdictWork a0 a1 a2 a3 a4 t) := by
  intro a0 a1 a2 a3 a4; unfold verdictWork
  repeat'
    first
    | with_reducible assumption | (intro _) | with_reducible apply Keeps.ite | with_reducible apply faultReissue_keeps
    | with_reducible apply slottedVerdict_keeps | with_reducible apply rwVerdict_keeps
    | with_reducible apply commitWord_keeps

theorem stepVerdict_keeps {s t : State} (h : Keeps s t) : ∀ a0 a1 a2 a3, Keeps s (stepVerdict a0 a1 a2 a3 t) := by
  intro a0 a1 a2 a3; unfold stepVerdict
  repeat'
    first
    | with_reducible assumption | (intro _) | with_reducible apply Keeps.ite | with_reducible apply moveTo_keeps
    | with_reducible apply verdictWork_keeps | with_reducible apply updPart_keeps | with_reducible apply slipAnchor_keeps
    | with_reducible apply lotLate_keeps

theorem execStepVerdict_keeps {s t : State} (h : Keeps s t) : ∀ a0, ResultKeeps s (execStepVerdict a0 t) := by
  intro a0; unfold execStepVerdict
  repeat'
    first
    | with_reducible assumption | with_reducible apply ResultKeeps.next | with_reducible apply ResultKeeps.fault
    | with_reducible apply settled_keeps | with_reducible apply stepVerdict_keeps | split | (intro _)

theorem execTroubleReplay_keeps {s t : State} (h : Keeps s t) : ∀ a0 a1, ResultKeeps s (execTroubleReplay a0 a1 t) := by
  intro a0 a1; unfold execTroubleReplay
  repeat'
    first
    | with_reducible assumption | with_reducible apply ResultKeeps.next | with_reducible apply ResultKeeps.fault
    | with_reducible apply issueRound_keeps | dsimp only | split

theorem drainSlot_keeps {s t : State} (h : Keeps s t) : ∀ a0 a1 a2 a3 a4 a5 a6, Keeps s (drainSlot a0 a1 a2 a3 a4 a5 a6 t) := by
  intro a0 a1 a2 a3 a4 a5 a6; unfold drainSlot
  repeat'
    first
    | with_reducible assumption | (intro _) | with_reducible apply Keeps.ite | with_reducible apply updPen_keeps
    | with_reducible apply moveTo_keeps | with_reducible apply hazard_keeps

theorem execDrain_keeps {s t : State} (h : Keeps s t) : ∀ a0 a1 a2, ResultKeeps s (execDrain a0 a1 a2 t) := by
  intro a0 a1 a2; unfold execDrain
  repeat'
    first
    | with_reducible assumption | with_reducible apply ResultKeeps.next | with_reducible apply ResultKeeps.fault
    | with_reducible apply settled_keeps | with_reducible apply drainSlot_keeps | split | (intro _)

theorem runComplete_keeps {s t : State} (h : Keeps s t) : ∀ a0 a1, Keeps s (runComplete a0 a1 t) := by
  intro a0 a1; unfold runComplete
  repeat'
    first
    | with_reducible assumption | (intro _) | with_reducible apply Keeps.ite | with_reducible apply endRun_keeps
    | with_reducible apply cancelContext_keeps | dsimp only | split

theorem execRunComplete_keeps {s t : State} (h : Keeps s t) : ∀ a0, ResultKeeps s (execRunComplete a0 t) := by
  intro a0; unfold execRunComplete
  repeat'
    first
    | with_reducible assumption | with_reducible apply ResultKeeps.next | with_reducible apply ResultKeeps.fault
    | with_reducible apply settled_keeps | with_reducible apply runComplete_keeps | split | (intro _)

/-! ## The operations of Submit.lean -/

theorem mapPage_keeps {s t : State} (h : Keeps s t) : ∀ a0 a1 a2 a3, Keeps s (mapPage a0 a1 a2 a3 t) := by
  intro a0 a1 a2 a3; unfold mapPage
  repeat'
    first
    | with_reducible assumption | (intro _) | with_reducible apply setSeqMap_keeps | with_reducible apply endOld_keeps
    | dsimp only | split

theorem admitPage_keeps {s t : State} (h : Keeps s t) : ∀ a0 a1, Keeps s (admitPage a0 a1 t) := by
  intro a0 a1; unfold admitPage
  repeat'
    first
    | with_reducible assumption | (intro _) | with_reducible apply Keeps.ite | exact takePage_keeps h _ _ (by assumption)
    | with_reducible apply mapPage_keeps | with_reducible apply unrefPage_keeps | with_reducible apply updPart_keeps
    | dsimp only | split

theorem admitPages_keeps {s t : State} (h : Keeps s t) : ∀ a0 a1, Keeps s (admitPages a0 a1 t) := by
  intro a0 a1; unfold admitPages
  repeat'
    first
    | with_reducible assumption | (intro _) | with_reducible apply forAll_keeps | with_reducible apply admitPage_keeps

theorem markPages_keeps {s t : State} (h : Keeps s t) : ∀ a0 a1, Keeps s (markPages a0 a1 t) := by
  intro a0 a1; unfold markPages
  repeat'
    first
    | with_reducible assumption | (intro _) | with_reducible apply Keeps.ite | with_reducible apply forAll_keeps
    | with_reducible apply updSeq_keeps

theorem acceptRun_keeps {s t : State} (h : Keeps s t) (k : Nat) (r : Run) (x y : List Nat) (l : List (Nat × Nat)) :
    Keeps s (acceptRun k r x y l t) := by
  unfold acceptRun
  extract_lets r1 r' u v
  exact (updPart_keeps (t := v) (backInvalidateIf_keeps (forAll_keeps _ (markPages_keeps h _ _) fun _ _ hu => updBale_keeps hu _ _ _) _) k
    (placeRun r')).upd rfl rfl rfl rfl rfl

theorem reject_keeps {s t : State} (h : Keeps s t) : ∀ a0 a1 a2 a3, Reply.Keeps s (reject a0 a1 a2 a3 t) := by
  intro a0 a1 a2 a3; unfold reject
  repeat'
    first
    | with_reducible assumption | with_reducible apply Reply.done_keeps

theorem admitRun_keeps {s t : State} (h : Keeps s t) : ∀ a0 a1 a2, Reply.Keeps s (admitRun a0 a1 a2 t) := by
  intro a0 a1 a2; unfold admitRun
  repeat'
    first
    | with_reducible assumption | with_reducible apply Reply.ite | with_reducible apply Reply.done_keeps
    | with_reducible apply Reply.accept_keeps | with_reducible apply dropPages_keeps | with_reducible apply admitPages_keeps
    | with_reducible apply reject_keeps | with_reducible apply acceptRun_keeps

theorem checkSets_keeps {s t : State} (h : Keeps s t) : ∀ a0 a1 a2, Reply.Keeps s (checkSets a0 a1 a2 t) := by
  intro a0 a1 a2; unfold checkSets
  repeat'
    first
    | with_reducible assumption | (intro _) | with_reducible apply Reply.ite | with_reducible apply forAll_keeps
    | with_reducible apply reject_keeps | with_reducible apply actPromote_keeps | with_reducible apply admitRun_keeps | split

theorem pagesAtAcceptance_keeps {s t : State} (h : Keeps s t) : ∀ a0 a1, Keeps s (pagesAtAcceptance t a0 a1) := by
  intro a0 a1; unfold pagesAtAcceptance
  repeat'
    first
    | with_reducible assumption | (intro _) | with_reducible apply Keeps.ite | with_reducible apply admitPages_keeps
    | with_reducible apply dropPages_keeps

theorem checkProgram_keeps {s t : State} (h : Keeps s t) : ∀ a0 a1 a2, Reply.Keeps s (checkProgram a0 a1 a2 t) := by
  intro a0 a1 a2; unfold checkProgram
  repeat'
    first
    | with_reducible assumption | (intro _) | with_reducible apply Reply.done_keeps | with_reducible apply reject_keeps
    | with_reducible apply checkSets_keeps | dsimp only | split

theorem submitCtx_keeps {s t : State} (h : Keeps s t) : ∀ a0 a1 a2 a3 a4, Reply.Keeps s (submitCtx a0 a1 a2 a3 a4 t) := by
  intro a0 a1 a2 a3 a4; unfold submitCtx
  repeat'
    first
    | with_reducible assumption | with_reducible apply Reply.ite | with_reducible apply reject_keeps
    | with_reducible apply checkProgram_keeps | split

theorem runSubmitBody_keeps {s t : State} (h : Keeps s t) : ∀ a0 a1 a2 a3 a4, Reply.Keeps s (runSubmitBody a0 a1 a2 a3 a4 t) := by
  intro a0 a1 a2 a3 a4; unfold runSubmitBody
  repeat'
    first
    | with_reducible assumption | with_reducible apply reject_keeps | with_reducible apply submitCtx_keeps | split

theorem execRunSubmit_keeps {s t : State} (h : Keeps s t) : ∀ a0 a1 a2 a3 a4, ResultKeeps s (execRunSubmit a0 a1 a2 a3 a4 t) := by
  intro a0 a1 a2 a3 a4; unfold execRunSubmit
  repeat'
    first
    | with_reducible assumption | with_reducible apply ResultKeeps.next | with_reducible apply settledCmd_keeps
    | with_reducible apply mailbox_keeps | with_reducible apply runSubmitBody_keeps | (intro _)

/-! ## The operations of Pulse.lean -/

theorem answered_keeps {s t : State} (h : Keeps s t) {r : Result State} (hr : ResultKeeps s r) : Keeps s (answered t r) := by
  cases r with
  | next u => exact hr u rfl
  | _ => exact h

theorem runLow_keeps {s t : State} (h : Keeps s t) : ∀ a0, ResultKeeps s (runLow a0 t) := by
  intro a0; unfold runLow
  repeat'
    first
    | with_reducible assumption | with_reducible apply ResultKeeps.next | with_reducible apply execFuncOpen_keeps
    | with_reducible apply execFuncInfo_keeps | with_reducible apply execContextRegister_keeps
    | with_reducible apply execContextRelease_keeps | with_reducible apply execContextReside_keeps
    | with_reducible apply execContextCancel_keeps | with_reducible apply execRunSubmit_keeps
    | with_reducible apply execRunQuery_keeps | with_reducible apply execSyncAdd_keeps
    | with_reducible apply execSyncRead_keeps | with_reducible apply execSyncWait_keeps
    | with_reducible apply execAllocTensor_keeps | with_reducible apply execAllocFree_keeps
    | with_reducible apply execTierConfig_keeps | with_reducible apply execTierPromote_keeps
    | with_reducible apply execTierEvict_keeps | with_reducible apply execTierPin_keeps
    | with_reducible apply execTierUnpin_keeps | with_reducible apply execTierQuery_keeps
    | with_reducible apply execWeightLoad_keeps | with_reducible apply execKvCreate_keeps
    | with_reducible apply execKvShare_keeps | with_reducible apply execKvRelease_keeps | with_reducible apply execKvMark_keeps
    | with_reducible apply execKvQuery_keeps | split

theorem runHigh_keeps {s t : State} (h : Keeps s t) : ∀ a0, ResultKeeps s (runHigh a0 t) := by
  intro a0; unfold runHigh
  repeat'
    first
    | with_reducible assumption | with_reducible apply ResultKeeps.next | with_reducible apply execMemQuery_keeps
    | with_reducible apply execMemRestore_keeps | with_reducible apply execCodecOpen_keeps
    | with_reducible apply execCodecDecode_keeps | with_reducible apply execCodecEncode_keeps
    | with_reducible apply execCodecClose_keeps | with_reducible apply execCodecQuery_keeps
    | with_reducible apply execFabricConfig_keeps | with_reducible apply execFabricRoute_keeps
    | with_reducible apply execFabricQuery_keeps | with_reducible apply execFabricCopy_keeps
    | with_reducible apply execTallyConfig_keeps | with_reducible apply execPartitionConfig_keeps
    | with_reducible apply execPartitionQuery_keeps | with_reducible apply execHostCopy_keeps
    | with_reducible apply execHostHdm_keeps | with_reducible apply execPowerBudget_keeps
    | with_reducible apply execPowerQuery_keeps | with_reducible apply execRecoverDumpTake_keeps
    | with_reducible apply execRecoverDumpRead_keeps | with_reducible apply execRecoverDumpKeep_keeps
    | with_reducible apply execRecoverDumpRelease_keeps | with_reducible apply execRecoverReset_keeps
    | with_reducible apply execRecoverQuery_keeps | with_reducible apply execDaybookRead_keeps
    | with_reducible apply execSecKeyInstall_keeps | with_reducible apply execSecKeyRevoke_keeps
    | with_reducible apply execSecQuery_keeps | with_reducible apply execLifecycleAdvance_keeps
    | with_reducible apply execLifecycleQuery_keeps | split

theorem unknownOpcode_keeps {s t : State} (h : Keeps s t) : ∀ a0, Keeps s (unknownOpcode a0 t) := by
  intro a0; unfold unknownOpcode
  repeat'
    first
    | with_reducible assumption | with_reducible apply Keeps.ite | with_reducible apply completeNow_keeps
    | with_reducible apply samplePost_keeps

theorem unknownOp_keeps {s t : State} (h : Keeps s t) : ∀ a0 a1, Keeps s (unknownOp a0 a1 t) := by
  intro a0 a1; unfold unknownOp
  repeat'
    first
    | with_reducible assumption | (intro _) | with_reducible apply Reply.done_keeps | with_reducible apply mailbox_keeps
    | with_reducible apply unknownOpcode_keeps | split

theorem postedEffect_keeps {s t : State} (h : Keeps s t) (c : Posted) : Keeps s (postedEffect c t) := by
  unfold postedEffect
  split
  · exact answered_keeps h (ResultKeeps.ite (runLow_keeps h _) (runHigh_keeps h _))
  · exact unknownOp_keeps h _ _

theorem runPosted_keeps {s t : State} (h : Keeps s t) : ∀ a0, Keeps s (runPosted a0 t) := by
  intro a0; unfold runPosted
  repeat'
    first
    | with_reducible assumption | with_reducible apply postedEffect_keeps | with_reducible apply updMbx_keeps

theorem runSampled_keeps {s t : State} (h : Keeps s t) : Keeps s (runSampled t) := by
  unfold runSampled
  repeat'
    first
    | with_reducible assumption | (intro _) | with_reducible apply forAll_keeps | with_reducible apply runPosted_keeps
    | with_reducible apply updHost_keeps

theorem serveCodecs_keeps {s t : State} (h : Keeps s t) : Keeps s (serveCodecs t) := by
  unfold serveCodecs
  repeat'
    first
    | with_reducible assumption | (intro _) | with_reducible apply forAll_keeps | with_reducible apply kickPipe_keeps

theorem sampleMailbox_keeps {s t : State} (h : Keeps s t) : ∀ a0 a1, Keeps s (sampleMailbox a0 a1 t) := by
  intro a0 a1; unfold sampleMailbox
  repeat'
    first
    | with_reducible assumption | with_reducible apply Keeps.ite | with_reducible apply updHost_keeps
    | with_reducible apply updMbx_keeps

theorem snapshot_keeps {s t : State} (h : Keeps s t) : Keeps s (snapshot t) := by
  unfold snapshot
  repeat'
    first
    | with_reducible assumption | (intro _) | with_reducible apply Keeps.ite | with_reducible apply forAll_keeps
    | with_reducible apply sampleMailbox_keeps

theorem ringBell_keeps {s t : State} (h : Keeps s t) : ∀ a0, Keeps s (ringBell a0 t) := by
  intro a0; unfold ringBell
  repeat'
    first
    | with_reducible assumption | with_reducible apply Keeps.ite | with_reducible apply updHost_keeps
    | with_reducible apply updRecov_keeps

theorem takeHangs_keeps {s t : State} (h : Keeps s t) : ∀ a0, Keeps s (takeHangs a0 t) := by
  intro a0; unfold takeHangs
  repeat'
    first
    | with_reducible assumption | (intro _) | with_reducible apply forAll_keeps | with_reducible apply updPipe_keeps
    | with_reducible apply updRecov_keeps | with_reducible apply takeHang_keeps

theorem startRun_keeps {s t : State} (h : Keeps s t) : ∀ a0, Keeps s (startRun a0 t) := by
  intro a0; unfold startRun
  repeat'
    first
    | with_reducible assumption | with_reducible apply Keeps.ite | with_reducible apply updPart_keeps | split

theorem retryPart_keeps {s t : State} (h : Keeps s t) : ∀ a0, Keeps s (retryPart a0 t) := by
  intro a0; unfold retryPart
  repeat'
    first
    | with_reducible assumption | (intro _) | with_reducible apply Keeps.ite | with_reducible apply resumeAt_keeps

theorem pulsePart_keeps {s t : State} (h : Keeps s t) : ∀ a0, Keeps s (pulsePart a0 t) := by
  intro a0; unfold pulsePart
  repeat'
    first
    | with_reducible assumption | (intro _) | with_reducible apply Keeps.ite | with_reducible apply settled_keeps
    | with_reducible apply beginRun_keeps | with_reducible apply startRun_keeps | with_reducible apply retryPart_keeps
    | with_reducible apply stopDecoded_keeps

theorem tick_keeps {s t : State} (h : Keeps s t) : Keeps s (tick t) := ⟨h.pending, h.mode, h.t1, h.t2, fun _ => rfl⟩

theorem beatOut_keeps {s t : State} (h : Keeps s t) : Keeps s (beatOut t) := by
  unfold beatOut
  repeat'
    first
    | with_reducible assumption | (intro _) | with_reducible apply Keeps.ite | with_reducible apply emit_keeps

theorem pulseTally_keeps {s t : State} (h : Keeps s t) : Keeps s (pulseTally t) := by
  unfold pulseTally
  repeat'
    first
    | with_reducible assumption | (intro _) | with_reducible apply tallyBeat_keeps | with_reducible apply beatOut_keeps
    | with_reducible apply elect_keeps

theorem pulseShepherd_keeps {s t : State} (h : Keeps s t) : ∀ a0 a1, Keeps s (pulseShepherd a0 a1 t) := by
  intro a0 a1; unfold pulseShepherd
  repeat'
    first
    | with_reducible assumption | (intro _) | with_reducible apply settled_keeps | with_reducible apply evaluateWaits_keeps
    | with_reducible apply finishCancels_keeps | with_reducible apply resideDecisions_keeps
    | with_reducible apply takeHangs_keeps | with_reducible apply startQueuedSteps_keeps
    | with_reducible apply passIdleSuspects_keeps | with_reducible apply ringBell_keeps

theorem beatBoundary_keeps {s t : State} (h : Keeps s t) : ∀ a0 a1, Keeps s (beatBoundary a0 a1 t) := by
  intro a0 a1; unfold beatBoundary
  repeat'
    first
    | with_reducible assumption | (intro _) | with_reducible apply forAll_keeps | with_reducible apply tick_keeps
    | with_reducible apply notePool_keeps | with_reducible apply serveCodecs_keeps | with_reducible apply runSampled_keeps
    | with_reducible apply countCool_keeps | with_reducible apply closePowerBeat_keeps
    | with_reducible apply openDaybook_keeps | with_reducible apply pulseShepherd_keeps
    | with_reducible apply pulseTally_keeps | with_reducible apply pulsePart_keeps | with_reducible apply resumeHeld_keeps
    | with_reducible apply snapshot_keeps

theorem execBeatBoundary_keeps {s t : State} (h : Keeps s t) : ∀ a0 a1, ResultKeeps s (execBeatBoundary a0 a1 t) := by
  intro a0 a1; unfold execBeatBoundary
  repeat'
    first
    | with_reducible assumption | with_reducible apply event_keeps | with_reducible apply beatBoundary_keeps

theorem writeMask_keeps {s t : State} (h : Keeps s t) : ∀ a0 a1 a2, Keeps s (writeMask a0 a1 a2 t) := by
  intro a0 a1 a2; unfold writeMask
  repeat'
    first
    | with_reducible assumption | with_reducible apply Keeps.ite | with_reducible apply updFunc_keeps
    | with_reducible apply sendVector_keeps

theorem writeBar_keeps {s t : State} (h : Keeps s t) : ∀ a0 a1, Keeps s (writeBar a0 a1 t) := by
  intro a0 a1; unfold writeBar
  repeat'
    first
    | with_reducible assumption | (intro _) | with_reducible apply Keeps.ite | with_reducible apply updFunc_keeps
    | with_reducible apply updMbx_keeps | with_reducible apply writeMask_keeps | dsimp only | split

theorem writeW1c_keeps {s t : State} (h : Keeps s t) : ∀ a0 a1, Keeps s (writeW1c a0 a1 t) := by
  intro a0 a1; unfold writeW1c
  repeat'
    first
    | with_reducible assumption | with_reducible apply updPen_keeps | with_reducible apply updDrover_keeps
    | with_reducible apply updPart_keeps | with_reducible apply updChan_keeps | with_reducible apply updPipe_keeps
    | with_reducible apply updPower_keeps | with_reducible apply updDie_keeps | dsimp only | split

theorem execRegisterWrite_keeps {s t : State} (h : Keeps s t) : ∀ a0 a1, ResultKeeps s (execRegisterWrite a0 a1 t) := by
  intro a0 a1; unfold execRegisterWrite
  repeat'
    first
    | with_reducible assumption | with_reducible apply ResultKeeps.next | with_reducible apply writeBar_keeps
    | with_reducible apply writeW1c_keeps | split

end Sys2Proof.Machine
end

