-- ==== Sys2Proof/Laws/State.lean ====
section
/-! SUPPORT. What each update of the state leaves in each field, and what the accessors read after an update. -/

namespace Sys2Proof.Machine

/-! ## updPen -/

@[simp] theorem updPen_clock (i : Nat) (f : Pen → Pen) (s : State) : (updPen i f s).clock = s.clock := rfl
@[simp] theorem updPen_tally (i : Nat) (f : Pen → Pen) (s : State) : (updPen i f s).tally = s.tally := rfl
@[simp] theorem updPen_mode (i : Nat) (f : Pen → Pen) (s : State) : (updPen i f s).mode = s.mode := rfl
@[simp] theorem updPen_pens (i : Nat) (f : Pen → Pen) (s : State) : (updPen i f s).pens = tupd Pen.reset s.pens i f := rfl
@[simp] theorem updPen_drovers (i : Nat) (f : Pen → Pen) (s : State) : (updPen i f s).drovers = s.drovers := rfl
@[simp] theorem updPen_parts (i : Nat) (f : Pen → Pen) (s : State) : (updPen i f s).parts = s.parts := rfl
@[simp] theorem updPen_ctxs (i : Nat) (f : Pen → Pen) (s : State) : (updPen i f s).ctxs = s.ctxs := rfl
@[simp] theorem updPen_nextCtx (i : Nat) (f : Pen → Pen) (s : State) : (updPen i f s).nextCtx = s.nextCtx := rfl
@[simp] theorem updPen_nextRun (i : Nat) (f : Pen → Pen) (s : State) : (updPen i f s).nextRun = s.nextRun := rfl
@[simp] theorem updPen_place (i : Nat) (f : Pen → Pen) (s : State) : (updPen i f s).place = s.place := rfl
@[simp] theorem updPen_hbm (i : Nat) (f : Pen → Pen) (s : State) : (updPen i f s).hbm = s.hbm := rfl
@[simp] theorem updPen_codec (i : Nat) (f : Pen → Pen) (s : State) : (updPen i f s).codec = s.codec := rfl
@[simp] theorem updPen_fabric (i : Nat) (f : Pen → Pen) (s : State) : (updPen i f s).fabric = s.fabric := rfl
@[simp] theorem updPen_host (i : Nat) (f : Pen → Pen) (s : State) : (updPen i f s).host = s.host := rfl
@[simp] theorem updPen_recov (i : Nat) (f : Pen → Pen) (s : State) : (updPen i f s).recov = s.recov := rfl
@[simp] theorem updPen_power (i : Nat) (f : Pen → Pen) (s : State) : (updPen i f s).power = s.power := rfl
@[simp] theorem updPen_sec (i : Nat) (f : Pen → Pen) (s : State) : (updPen i f s).sec = s.sec := rfl
@[simp] theorem updPen_mgmt (i : Nat) (f : Pen → Pen) (s : State) : (updPen i f s).mgmt = s.mgmt := rfl
@[simp] theorem updPen_free (i : Nat) (f : Pen → Pen) (s : State) : (updPen i f s).free = s.free := rfl
@[simp] theorem updPen_out (i : Nat) (f : Pen → Pen) (s : State) : (updPen i f s).out = s.out := rfl
@[simp] theorem updPen_pending (i : Nat) (f : Pen → Pen) (s : State) : (updPen i f s).pending = s.pending := rfl

/-! ## updPart -/

@[simp] theorem updPart_clock (k : Nat) (f : Part → Part) (s : State) : (updPart k f s).clock = s.clock := rfl
@[simp] theorem updPart_tally (k : Nat) (f : Part → Part) (s : State) : (updPart k f s).tally = s.tally := rfl
@[simp] theorem updPart_mode (k : Nat) (f : Part → Part) (s : State) : (updPart k f s).mode = s.mode := rfl
@[simp] theorem updPart_pens (k : Nat) (f : Part → Part) (s : State) : (updPart k f s).pens = s.pens := rfl
@[simp] theorem updPart_drovers (k : Nat) (f : Part → Part) (s : State) : (updPart k f s).drovers = s.drovers := rfl
@[simp] theorem updPart_parts (k : Nat) (f : Part → Part) (s : State) : (updPart k f s).parts = tupd Part.absent s.parts k f := rfl
@[simp] theorem updPart_ctxs (k : Nat) (f : Part → Part) (s : State) : (updPart k f s).ctxs = s.ctxs := rfl
@[simp] theorem updPart_nextCtx (k : Nat) (f : Part → Part) (s : State) : (updPart k f s).nextCtx = s.nextCtx := rfl
@[simp] theorem updPart_nextRun (k : Nat) (f : Part → Part) (s : State) : (updPart k f s).nextRun = s.nextRun := rfl
@[simp] theorem updPart_place (k : Nat) (f : Part → Part) (s : State) : (updPart k f s).place = s.place := rfl
@[simp] theorem updPart_hbm (k : Nat) (f : Part → Part) (s : State) : (updPart k f s).hbm = s.hbm := rfl
@[simp] theorem updPart_codec (k : Nat) (f : Part → Part) (s : State) : (updPart k f s).codec = s.codec := rfl
@[simp] theorem updPart_fabric (k : Nat) (f : Part → Part) (s : State) : (updPart k f s).fabric = s.fabric := rfl
@[simp] theorem updPart_host (k : Nat) (f : Part → Part) (s : State) : (updPart k f s).host = s.host := rfl
@[simp] theorem updPart_recov (k : Nat) (f : Part → Part) (s : State) : (updPart k f s).recov = s.recov := rfl
@[simp] theorem updPart_power (k : Nat) (f : Part → Part) (s : State) : (updPart k f s).power = s.power := rfl
@[simp] theorem updPart_sec (k : Nat) (f : Part → Part) (s : State) : (updPart k f s).sec = s.sec := rfl
@[simp] theorem updPart_mgmt (k : Nat) (f : Part → Part) (s : State) : (updPart k f s).mgmt = s.mgmt := rfl
@[simp] theorem updPart_free (k : Nat) (f : Part → Part) (s : State) : (updPart k f s).free = s.free := rfl
@[simp] theorem updPart_out (k : Nat) (f : Part → Part) (s : State) : (updPart k f s).out = s.out := rfl
@[simp] theorem updPart_pending (k : Nat) (f : Part → Part) (s : State) : (updPart k f s).pending = s.pending := rfl

/-! ## updDrover -/

@[simp] theorem updDrover_clock (i : Nat) (f : Drover → Drover) (s : State) : (updDrover i f s).clock = s.clock := rfl
@[simp] theorem updDrover_tally (i : Nat) (f : Drover → Drover) (s : State) : (updDrover i f s).tally = s.tally := rfl
@[simp] theorem updDrover_mode (i : Nat) (f : Drover → Drover) (s : State) : (updDrover i f s).mode = s.mode := rfl
@[simp] theorem updDrover_pens (i : Nat) (f : Drover → Drover) (s : State) : (updDrover i f s).pens = s.pens := rfl
@[simp] theorem updDrover_drovers (i : Nat) (f : Drover → Drover) (s : State) : (updDrover i f s).drovers = tupd Drover.reset s.drovers i f := rfl
@[simp] theorem updDrover_parts (i : Nat) (f : Drover → Drover) (s : State) : (updDrover i f s).parts = s.parts := rfl
@[simp] theorem updDrover_ctxs (i : Nat) (f : Drover → Drover) (s : State) : (updDrover i f s).ctxs = s.ctxs := rfl
@[simp] theorem updDrover_nextCtx (i : Nat) (f : Drover → Drover) (s : State) : (updDrover i f s).nextCtx = s.nextCtx := rfl
@[simp] theorem updDrover_nextRun (i : Nat) (f : Drover → Drover) (s : State) : (updDrover i f s).nextRun = s.nextRun := rfl
@[simp] theorem updDrover_place (i : Nat) (f : Drover → Drover) (s : State) : (updDrover i f s).place = s.place := rfl
@[simp] theorem updDrover_hbm (i : Nat) (f : Drover → Drover) (s : State) : (updDrover i f s).hbm = s.hbm := rfl
@[simp] theorem updDrover_codec (i : Nat) (f : Drover → Drover) (s : State) : (updDrover i f s).codec = s.codec := rfl
@[simp] theorem updDrover_fabric (i : Nat) (f : Drover → Drover) (s : State) : (updDrover i f s).fabric = s.fabric := rfl
@[simp] theorem updDrover_host (i : Nat) (f : Drover → Drover) (s : State) : (updDrover i f s).host = s.host := rfl
@[simp] theorem updDrover_recov (i : Nat) (f : Drover → Drover) (s : State) : (updDrover i f s).recov = s.recov := rfl
@[simp] theorem updDrover_power (i : Nat) (f : Drover → Drover) (s : State) : (updDrover i f s).power = s.power := rfl
@[simp] theorem updDrover_sec (i : Nat) (f : Drover → Drover) (s : State) : (updDrover i f s).sec = s.sec := rfl
@[simp] theorem updDrover_mgmt (i : Nat) (f : Drover → Drover) (s : State) : (updDrover i f s).mgmt = s.mgmt := rfl
@[simp] theorem updDrover_free (i : Nat) (f : Drover → Drover) (s : State) : (updDrover i f s).free = s.free := rfl
@[simp] theorem updDrover_out (i : Nat) (f : Drover → Drover) (s : State) : (updDrover i f s).out = s.out := rfl
@[simp] theorem updDrover_pending (i : Nat) (f : Drover → Drover) (s : State) : (updDrover i f s).pending = s.pending := rfl

/-! ## updPlace -/

@[simp] theorem updPlace_clock (f : Placement → Placement) (s : State) : (updPlace f s).clock = s.clock := rfl
@[simp] theorem updPlace_tally (f : Placement → Placement) (s : State) : (updPlace f s).tally = s.tally := rfl
@[simp] theorem updPlace_mode (f : Placement → Placement) (s : State) : (updPlace f s).mode = s.mode := rfl
@[simp] theorem updPlace_pens (f : Placement → Placement) (s : State) : (updPlace f s).pens = s.pens := rfl
@[simp] theorem updPlace_drovers (f : Placement → Placement) (s : State) : (updPlace f s).drovers = s.drovers := rfl
@[simp] theorem updPlace_parts (f : Placement → Placement) (s : State) : (updPlace f s).parts = s.parts := rfl
@[simp] theorem updPlace_ctxs (f : Placement → Placement) (s : State) : (updPlace f s).ctxs = s.ctxs := rfl
@[simp] theorem updPlace_nextCtx (f : Placement → Placement) (s : State) : (updPlace f s).nextCtx = s.nextCtx := rfl
@[simp] theorem updPlace_nextRun (f : Placement → Placement) (s : State) : (updPlace f s).nextRun = s.nextRun := rfl
@[simp] theorem updPlace_place (f : Placement → Placement) (s : State) : (updPlace f s).place = f s.place := rfl
@[simp] theorem updPlace_hbm (f : Placement → Placement) (s : State) : (updPlace f s).hbm = s.hbm := rfl
@[simp] theorem updPlace_codec (f : Placement → Placement) (s : State) : (updPlace f s).codec = s.codec := rfl
@[simp] theorem updPlace_fabric (f : Placement → Placement) (s : State) : (updPlace f s).fabric = s.fabric := rfl
@[simp] theorem updPlace_host (f : Placement → Placement) (s : State) : (updPlace f s).host = s.host := rfl
@[simp] theorem updPlace_recov (f : Placement → Placement) (s : State) : (updPlace f s).recov = s.recov := rfl
@[simp] theorem updPlace_power (f : Placement → Placement) (s : State) : (updPlace f s).power = s.power := rfl
@[simp] theorem updPlace_sec (f : Placement → Placement) (s : State) : (updPlace f s).sec = s.sec := rfl
@[simp] theorem updPlace_mgmt (f : Placement → Placement) (s : State) : (updPlace f s).mgmt = s.mgmt := rfl
@[simp] theorem updPlace_free (f : Placement → Placement) (s : State) : (updPlace f s).free = s.free := rfl
@[simp] theorem updPlace_out (f : Placement → Placement) (s : State) : (updPlace f s).out = s.out := rfl
@[simp] theorem updPlace_pending (f : Placement → Placement) (s : State) : (updPlace f s).pending = s.pending := rfl

/-! ## updHbm -/

@[simp] theorem updHbm_clock (f : Hbm → Hbm) (s : State) : (updHbm f s).clock = s.clock := rfl
@[simp] theorem updHbm_tally (f : Hbm → Hbm) (s : State) : (updHbm f s).tally = s.tally := rfl
@[simp] theorem updHbm_mode (f : Hbm → Hbm) (s : State) : (updHbm f s).mode = s.mode := rfl
@[simp] theorem updHbm_pens (f : Hbm → Hbm) (s : State) : (updHbm f s).pens = s.pens := rfl
@[simp] theorem updHbm_drovers (f : Hbm → Hbm) (s : State) : (updHbm f s).drovers = s.drovers := rfl
@[simp] theorem updHbm_parts (f : Hbm → Hbm) (s : State) : (updHbm f s).parts = s.parts := rfl
@[simp] theorem updHbm_ctxs (f : Hbm → Hbm) (s : State) : (updHbm f s).ctxs = s.ctxs := rfl
@[simp] theorem updHbm_nextCtx (f : Hbm → Hbm) (s : State) : (updHbm f s).nextCtx = s.nextCtx := rfl
@[simp] theorem updHbm_nextRun (f : Hbm → Hbm) (s : State) : (updHbm f s).nextRun = s.nextRun := rfl
@[simp] theorem updHbm_place (f : Hbm → Hbm) (s : State) : (updHbm f s).place = s.place := rfl
@[simp] theorem updHbm_hbm (f : Hbm → Hbm) (s : State) : (updHbm f s).hbm = f s.hbm := rfl
@[simp] theorem updHbm_codec (f : Hbm → Hbm) (s : State) : (updHbm f s).codec = s.codec := rfl
@[simp] theorem updHbm_fabric (f : Hbm → Hbm) (s : State) : (updHbm f s).fabric = s.fabric := rfl
@[simp] theorem updHbm_host (f : Hbm → Hbm) (s : State) : (updHbm f s).host = s.host := rfl
@[simp] theorem updHbm_recov (f : Hbm → Hbm) (s : State) : (updHbm f s).recov = s.recov := rfl
@[simp] theorem updHbm_power (f : Hbm → Hbm) (s : State) : (updHbm f s).power = s.power := rfl
@[simp] theorem updHbm_sec (f : Hbm → Hbm) (s : State) : (updHbm f s).sec = s.sec := rfl
@[simp] theorem updHbm_mgmt (f : Hbm → Hbm) (s : State) : (updHbm f s).mgmt = s.mgmt := rfl
@[simp] theorem updHbm_free (f : Hbm → Hbm) (s : State) : (updHbm f s).free = s.free := rfl
@[simp] theorem updHbm_out (f : Hbm → Hbm) (s : State) : (updHbm f s).out = s.out := rfl
@[simp] theorem updHbm_pending (f : Hbm → Hbm) (s : State) : (updHbm f s).pending = s.pending := rfl

/-! ## updCodec -/

@[simp] theorem updCodec_clock (f : Codec → Codec) (s : State) : (updCodec f s).clock = s.clock := rfl
@[simp] theorem updCodec_tally (f : Codec → Codec) (s : State) : (updCodec f s).tally = s.tally := rfl
@[simp] theorem updCodec_mode (f : Codec → Codec) (s : State) : (updCodec f s).mode = s.mode := rfl
@[simp] theorem updCodec_pens (f : Codec → Codec) (s : State) : (updCodec f s).pens = s.pens := rfl
@[simp] theorem updCodec_drovers (f : Codec → Codec) (s : State) : (updCodec f s).drovers = s.drovers := rfl
@[simp] theorem updCodec_parts (f : Codec → Codec) (s : State) : (updCodec f s).parts = s.parts := rfl
@[simp] theorem updCodec_ctxs (f : Codec → Codec) (s : State) : (updCodec f s).ctxs = s.ctxs := rfl
@[simp] theorem updCodec_nextCtx (f : Codec → Codec) (s : State) : (updCodec f s).nextCtx = s.nextCtx := rfl
@[simp] theorem updCodec_nextRun (f : Codec → Codec) (s : State) : (updCodec f s).nextRun = s.nextRun := rfl
@[simp] theorem updCodec_place (f : Codec → Codec) (s : State) : (updCodec f s).place = s.place := rfl
@[simp] theorem updCodec_hbm (f : Codec → Codec) (s : State) : (updCodec f s).hbm = s.hbm := rfl
@[simp] theorem updCodec_codec (f : Codec → Codec) (s : State) : (updCodec f s).codec = f s.codec := rfl
@[simp] theorem updCodec_fabric (f : Codec → Codec) (s : State) : (updCodec f s).fabric = s.fabric := rfl
@[simp] theorem updCodec_host (f : Codec → Codec) (s : State) : (updCodec f s).host = s.host := rfl
@[simp] theorem updCodec_recov (f : Codec → Codec) (s : State) : (updCodec f s).recov = s.recov := rfl
@[simp] theorem updCodec_power (f : Codec → Codec) (s : State) : (updCodec f s).power = s.power := rfl
@[simp] theorem updCodec_sec (f : Codec → Codec) (s : State) : (updCodec f s).sec = s.sec := rfl
@[simp] theorem updCodec_mgmt (f : Codec → Codec) (s : State) : (updCodec f s).mgmt = s.mgmt := rfl
@[simp] theorem updCodec_free (f : Codec → Codec) (s : State) : (updCodec f s).free = s.free := rfl
@[simp] theorem updCodec_out (f : Codec → Codec) (s : State) : (updCodec f s).out = s.out := rfl
@[simp] theorem updCodec_pending (f : Codec → Codec) (s : State) : (updCodec f s).pending = s.pending := rfl

/-! ## updFabric -/

@[simp] theorem updFabric_clock (f : Fabric → Fabric) (s : State) : (updFabric f s).clock = s.clock := rfl
@[simp] theorem updFabric_tally (f : Fabric → Fabric) (s : State) : (updFabric f s).tally = s.tally := rfl
@[simp] theorem updFabric_mode (f : Fabric → Fabric) (s : State) : (updFabric f s).mode = s.mode := rfl
@[simp] theorem updFabric_pens (f : Fabric → Fabric) (s : State) : (updFabric f s).pens = s.pens := rfl
@[simp] theorem updFabric_drovers (f : Fabric → Fabric) (s : State) : (updFabric f s).drovers = s.drovers := rfl
@[simp] theorem updFabric_parts (f : Fabric → Fabric) (s : State) : (updFabric f s).parts = s.parts := rfl
@[simp] theorem updFabric_ctxs (f : Fabric → Fabric) (s : State) : (updFabric f s).ctxs = s.ctxs := rfl
@[simp] theorem updFabric_nextCtx (f : Fabric → Fabric) (s : State) : (updFabric f s).nextCtx = s.nextCtx := rfl
@[simp] theorem updFabric_nextRun (f : Fabric → Fabric) (s : State) : (updFabric f s).nextRun = s.nextRun := rfl
@[simp] theorem updFabric_place (f : Fabric → Fabric) (s : State) : (updFabric f s).place = s.place := rfl
@[simp] theorem updFabric_hbm (f : Fabric → Fabric) (s : State) : (updFabric f s).hbm = s.hbm := rfl
@[simp] theorem updFabric_codec (f : Fabric → Fabric) (s : State) : (updFabric f s).codec = s.codec := rfl
@[simp] theorem updFabric_fabric (f : Fabric → Fabric) (s : State) : (updFabric f s).fabric = f s.fabric := rfl
@[simp] theorem updFabric_host (f : Fabric → Fabric) (s : State) : (updFabric f s).host = s.host := rfl
@[simp] theorem updFabric_recov (f : Fabric → Fabric) (s : State) : (updFabric f s).recov = s.recov := rfl
@[simp] theorem updFabric_power (f : Fabric → Fabric) (s : State) : (updFabric f s).power = s.power := rfl
@[simp] theorem updFabric_sec (f : Fabric → Fabric) (s : State) : (updFabric f s).sec = s.sec := rfl
@[simp] theorem updFabric_mgmt (f : Fabric → Fabric) (s : State) : (updFabric f s).mgmt = s.mgmt := rfl
@[simp] theorem updFabric_free (f : Fabric → Fabric) (s : State) : (updFabric f s).free = s.free := rfl
@[simp] theorem updFabric_out (f : Fabric → Fabric) (s : State) : (updFabric f s).out = s.out := rfl
@[simp] theorem updFabric_pending (f : Fabric → Fabric) (s : State) : (updFabric f s).pending = s.pending := rfl

/-! ## updHost -/

@[simp] theorem updHost_clock (f : HostPort → HostPort) (s : State) : (updHost f s).clock = s.clock := rfl
@[simp] theorem updHost_tally (f : HostPort → HostPort) (s : State) : (updHost f s).tally = s.tally := rfl
@[simp] theorem updHost_mode (f : HostPort → HostPort) (s : State) : (updHost f s).mode = s.mode := rfl
@[simp] theorem updHost_pens (f : HostPort → HostPort) (s : State) : (updHost f s).pens = s.pens := rfl
@[simp] theorem updHost_drovers (f : HostPort → HostPort) (s : State) : (updHost f s).drovers = s.drovers := rfl
@[simp] theorem updHost_parts (f : HostPort → HostPort) (s : State) : (updHost f s).parts = s.parts := rfl
@[simp] theorem updHost_ctxs (f : HostPort → HostPort) (s : State) : (updHost f s).ctxs = s.ctxs := rfl
@[simp] theorem updHost_nextCtx (f : HostPort → HostPort) (s : State) : (updHost f s).nextCtx = s.nextCtx := rfl
@[simp] theorem updHost_nextRun (f : HostPort → HostPort) (s : State) : (updHost f s).nextRun = s.nextRun := rfl
@[simp] theorem updHost_place (f : HostPort → HostPort) (s : State) : (updHost f s).place = s.place := rfl
@[simp] theorem updHost_hbm (f : HostPort → HostPort) (s : State) : (updHost f s).hbm = s.hbm := rfl
@[simp] theorem updHost_codec (f : HostPort → HostPort) (s : State) : (updHost f s).codec = s.codec := rfl
@[simp] theorem updHost_fabric (f : HostPort → HostPort) (s : State) : (updHost f s).fabric = s.fabric := rfl
@[simp] theorem updHost_host (f : HostPort → HostPort) (s : State) : (updHost f s).host = f s.host := rfl
@[simp] theorem updHost_recov (f : HostPort → HostPort) (s : State) : (updHost f s).recov = s.recov := rfl
@[simp] theorem updHost_power (f : HostPort → HostPort) (s : State) : (updHost f s).power = s.power := rfl
@[simp] theorem updHost_sec (f : HostPort → HostPort) (s : State) : (updHost f s).sec = s.sec := rfl
@[simp] theorem updHost_mgmt (f : HostPort → HostPort) (s : State) : (updHost f s).mgmt = s.mgmt := rfl
@[simp] theorem updHost_free (f : HostPort → HostPort) (s : State) : (updHost f s).free = s.free := rfl
@[simp] theorem updHost_out (f : HostPort → HostPort) (s : State) : (updHost f s).out = s.out := rfl
@[simp] theorem updHost_pending (f : HostPort → HostPort) (s : State) : (updHost f s).pending = s.pending := rfl

/-! ## updRecov -/

@[simp] theorem updRecov_clock (f : Recovery → Recovery) (s : State) : (updRecov f s).clock = s.clock := rfl
@[simp] theorem updRecov_tally (f : Recovery → Recovery) (s : State) : (updRecov f s).tally = s.tally := rfl
@[simp] theorem updRecov_mode (f : Recovery → Recovery) (s : State) : (updRecov f s).mode = s.mode := rfl
@[simp] theorem updRecov_pens (f : Recovery → Recovery) (s : State) : (updRecov f s).pens = s.pens := rfl
@[simp] theorem updRecov_drovers (f : Recovery → Recovery) (s : State) : (updRecov f s).drovers = s.drovers := rfl
@[simp] theorem updRecov_parts (f : Recovery → Recovery) (s : State) : (updRecov f s).parts = s.parts := rfl
@[simp] theorem updRecov_ctxs (f : Recovery → Recovery) (s : State) : (updRecov f s).ctxs = s.ctxs := rfl
@[simp] theorem updRecov_nextCtx (f : Recovery → Recovery) (s : State) : (updRecov f s).nextCtx = s.nextCtx := rfl
@[simp] theorem updRecov_nextRun (f : Recovery → Recovery) (s : State) : (updRecov f s).nextRun = s.nextRun := rfl
@[simp] theorem updRecov_place (f : Recovery → Recovery) (s : State) : (updRecov f s).place = s.place := rfl
@[simp] theorem updRecov_hbm (f : Recovery → Recovery) (s : State) : (updRecov f s).hbm = s.hbm := rfl
@[simp] theorem updRecov_codec (f : Recovery → Recovery) (s : State) : (updRecov f s).codec = s.codec := rfl
@[simp] theorem updRecov_fabric (f : Recovery → Recovery) (s : State) : (updRecov f s).fabric = s.fabric := rfl
@[simp] theorem updRecov_host (f : Recovery → Recovery) (s : State) : (updRecov f s).host = s.host := rfl
@[simp] theorem updRecov_recov (f : Recovery → Recovery) (s : State) : (updRecov f s).recov = f s.recov := rfl
@[simp] theorem updRecov_power (f : Recovery → Recovery) (s : State) : (updRecov f s).power = s.power := rfl
@[simp] theorem updRecov_sec (f : Recovery → Recovery) (s : State) : (updRecov f s).sec = s.sec := rfl
@[simp] theorem updRecov_mgmt (f : Recovery → Recovery) (s : State) : (updRecov f s).mgmt = s.mgmt := rfl
@[simp] theorem updRecov_free (f : Recovery → Recovery) (s : State) : (updRecov f s).free = s.free := rfl
@[simp] theorem updRecov_out (f : Recovery → Recovery) (s : State) : (updRecov f s).out = s.out := rfl
@[simp] theorem updRecov_pending (f : Recovery → Recovery) (s : State) : (updRecov f s).pending = s.pending := rfl

/-! ## updPower -/

@[simp] theorem updPower_clock (f : Power → Power) (s : State) : (updPower f s).clock = s.clock := rfl
@[simp] theorem updPower_tally (f : Power → Power) (s : State) : (updPower f s).tally = s.tally := rfl
@[simp] theorem updPower_mode (f : Power → Power) (s : State) : (updPower f s).mode = s.mode := rfl
@[simp] theorem updPower_pens (f : Power → Power) (s : State) : (updPower f s).pens = s.pens := rfl
@[simp] theorem updPower_drovers (f : Power → Power) (s : State) : (updPower f s).drovers = s.drovers := rfl
@[simp] theorem updPower_parts (f : Power → Power) (s : State) : (updPower f s).parts = s.parts := rfl
@[simp] theorem updPower_ctxs (f : Power → Power) (s : State) : (updPower f s).ctxs = s.ctxs := rfl
@[simp] theorem updPower_nextCtx (f : Power → Power) (s : State) : (updPower f s).nextCtx = s.nextCtx := rfl
@[simp] theorem updPower_nextRun (f : Power → Power) (s : State) : (updPower f s).nextRun = s.nextRun := rfl
@[simp] theorem updPower_place (f : Power → Power) (s : State) : (updPower f s).place = s.place := rfl
@[simp] theorem updPower_hbm (f : Power → Power) (s : State) : (updPower f s).hbm = s.hbm := rfl
@[simp] theorem updPower_codec (f : Power → Power) (s : State) : (updPower f s).codec = s.codec := rfl
@[simp] theorem updPower_fabric (f : Power → Power) (s : State) : (updPower f s).fabric = s.fabric := rfl
@[simp] theorem updPower_host (f : Power → Power) (s : State) : (updPower f s).host = s.host := rfl
@[simp] theorem updPower_recov (f : Power → Power) (s : State) : (updPower f s).recov = s.recov := rfl
@[simp] theorem updPower_power (f : Power → Power) (s : State) : (updPower f s).power = f s.power := rfl
@[simp] theorem updPower_sec (f : Power → Power) (s : State) : (updPower f s).sec = s.sec := rfl
@[simp] theorem updPower_mgmt (f : Power → Power) (s : State) : (updPower f s).mgmt = s.mgmt := rfl
@[simp] theorem updPower_free (f : Power → Power) (s : State) : (updPower f s).free = s.free := rfl
@[simp] theorem updPower_out (f : Power → Power) (s : State) : (updPower f s).out = s.out := rfl
@[simp] theorem updPower_pending (f : Power → Power) (s : State) : (updPower f s).pending = s.pending := rfl

/-! ## updSec -/

@[simp] theorem updSec_clock (f : Security → Security) (s : State) : (updSec f s).clock = s.clock := rfl
@[simp] theorem updSec_tally (f : Security → Security) (s : State) : (updSec f s).tally = s.tally := rfl
@[simp] theorem updSec_mode (f : Security → Security) (s : State) : (updSec f s).mode = s.mode := rfl
@[simp] theorem updSec_pens (f : Security → Security) (s : State) : (updSec f s).pens = s.pens := rfl
@[simp] theorem updSec_drovers (f : Security → Security) (s : State) : (updSec f s).drovers = s.drovers := rfl
@[simp] theorem updSec_parts (f : Security → Security) (s : State) : (updSec f s).parts = s.parts := rfl
@[simp] theorem updSec_ctxs (f : Security → Security) (s : State) : (updSec f s).ctxs = s.ctxs := rfl
@[simp] theorem updSec_nextCtx (f : Security → Security) (s : State) : (updSec f s).nextCtx = s.nextCtx := rfl
@[simp] theorem updSec_nextRun (f : Security → Security) (s : State) : (updSec f s).nextRun = s.nextRun := rfl
@[simp] theorem updSec_place (f : Security → Security) (s : State) : (updSec f s).place = s.place := rfl
@[simp] theorem updSec_hbm (f : Security → Security) (s : State) : (updSec f s).hbm = s.hbm := rfl
@[simp] theorem updSec_codec (f : Security → Security) (s : State) : (updSec f s).codec = s.codec := rfl
@[simp] theorem updSec_fabric (f : Security → Security) (s : State) : (updSec f s).fabric = s.fabric := rfl
@[simp] theorem updSec_host (f : Security → Security) (s : State) : (updSec f s).host = s.host := rfl
@[simp] theorem updSec_recov (f : Security → Security) (s : State) : (updSec f s).recov = s.recov := rfl
@[simp] theorem updSec_power (f : Security → Security) (s : State) : (updSec f s).power = s.power := rfl
@[simp] theorem updSec_sec (f : Security → Security) (s : State) : (updSec f s).sec = f s.sec := rfl
@[simp] theorem updSec_mgmt (f : Security → Security) (s : State) : (updSec f s).mgmt = s.mgmt := rfl
@[simp] theorem updSec_free (f : Security → Security) (s : State) : (updSec f s).free = s.free := rfl
@[simp] theorem updSec_out (f : Security → Security) (s : State) : (updSec f s).out = s.out := rfl
@[simp] theorem updSec_pending (f : Security → Security) (s : State) : (updSec f s).pending = s.pending := rfl

/-! ## updMgmt -/

@[simp] theorem updMgmt_clock (f : Mgmt → Mgmt) (s : State) : (updMgmt f s).clock = s.clock := rfl
@[simp] theorem updMgmt_tally (f : Mgmt → Mgmt) (s : State) : (updMgmt f s).tally = s.tally := rfl
@[simp] theorem updMgmt_mode (f : Mgmt → Mgmt) (s : State) : (updMgmt f s).mode = s.mode := rfl
@[simp] theorem updMgmt_pens (f : Mgmt → Mgmt) (s : State) : (updMgmt f s).pens = s.pens := rfl
@[simp] theorem updMgmt_drovers (f : Mgmt → Mgmt) (s : State) : (updMgmt f s).drovers = s.drovers := rfl
@[simp] theorem updMgmt_parts (f : Mgmt → Mgmt) (s : State) : (updMgmt f s).parts = s.parts := rfl
@[simp] theorem updMgmt_ctxs (f : Mgmt → Mgmt) (s : State) : (updMgmt f s).ctxs = s.ctxs := rfl
@[simp] theorem updMgmt_nextCtx (f : Mgmt → Mgmt) (s : State) : (updMgmt f s).nextCtx = s.nextCtx := rfl
@[simp] theorem updMgmt_nextRun (f : Mgmt → Mgmt) (s : State) : (updMgmt f s).nextRun = s.nextRun := rfl
@[simp] theorem updMgmt_place (f : Mgmt → Mgmt) (s : State) : (updMgmt f s).place = s.place := rfl
@[simp] theorem updMgmt_hbm (f : Mgmt → Mgmt) (s : State) : (updMgmt f s).hbm = s.hbm := rfl
@[simp] theorem updMgmt_codec (f : Mgmt → Mgmt) (s : State) : (updMgmt f s).codec = s.codec := rfl
@[simp] theorem updMgmt_fabric (f : Mgmt → Mgmt) (s : State) : (updMgmt f s).fabric = s.fabric := rfl
@[simp] theorem updMgmt_host (f : Mgmt → Mgmt) (s : State) : (updMgmt f s).host = s.host := rfl
@[simp] theorem updMgmt_recov (f : Mgmt → Mgmt) (s : State) : (updMgmt f s).recov = s.recov := rfl
@[simp] theorem updMgmt_power (f : Mgmt → Mgmt) (s : State) : (updMgmt f s).power = s.power := rfl
@[simp] theorem updMgmt_sec (f : Mgmt → Mgmt) (s : State) : (updMgmt f s).sec = s.sec := rfl
@[simp] theorem updMgmt_mgmt (f : Mgmt → Mgmt) (s : State) : (updMgmt f s).mgmt = f s.mgmt := rfl
@[simp] theorem updMgmt_free (f : Mgmt → Mgmt) (s : State) : (updMgmt f s).free = s.free := rfl
@[simp] theorem updMgmt_out (f : Mgmt → Mgmt) (s : State) : (updMgmt f s).out = s.out := rfl
@[simp] theorem updMgmt_pending (f : Mgmt → Mgmt) (s : State) : (updMgmt f s).pending = s.pending := rfl

/-! ## updTally -/

@[simp] theorem updTally_clock (f : Tally → Tally) (s : State) : (updTally f s).clock = s.clock := rfl
@[simp] theorem updTally_tally (f : Tally → Tally) (s : State) : (updTally f s).tally = f s.tally := rfl
@[simp] theorem updTally_mode (f : Tally → Tally) (s : State) : (updTally f s).mode = s.mode := rfl
@[simp] theorem updTally_pens (f : Tally → Tally) (s : State) : (updTally f s).pens = s.pens := rfl
@[simp] theorem updTally_drovers (f : Tally → Tally) (s : State) : (updTally f s).drovers = s.drovers := rfl
@[simp] theorem updTally_parts (f : Tally → Tally) (s : State) : (updTally f s).parts = s.parts := rfl
@[simp] theorem updTally_ctxs (f : Tally → Tally) (s : State) : (updTally f s).ctxs = s.ctxs := rfl
@[simp] theorem updTally_nextCtx (f : Tally → Tally) (s : State) : (updTally f s).nextCtx = s.nextCtx := rfl
@[simp] theorem updTally_nextRun (f : Tally → Tally) (s : State) : (updTally f s).nextRun = s.nextRun := rfl
@[simp] theorem updTally_place (f : Tally → Tally) (s : State) : (updTally f s).place = s.place := rfl
@[simp] theorem updTally_hbm (f : Tally → Tally) (s : State) : (updTally f s).hbm = s.hbm := rfl
@[simp] theorem updTally_codec (f : Tally → Tally) (s : State) : (updTally f s).codec = s.codec := rfl
@[simp] theorem updTally_fabric (f : Tally → Tally) (s : State) : (updTally f s).fabric = s.fabric := rfl
@[simp] theorem updTally_host (f : Tally → Tally) (s : State) : (updTally f s).host = s.host := rfl
@[simp] theorem updTally_recov (f : Tally → Tally) (s : State) : (updTally f s).recov = s.recov := rfl
@[simp] theorem updTally_power (f : Tally → Tally) (s : State) : (updTally f s).power = s.power := rfl
@[simp] theorem updTally_sec (f : Tally → Tally) (s : State) : (updTally f s).sec = s.sec := rfl
@[simp] theorem updTally_mgmt (f : Tally → Tally) (s : State) : (updTally f s).mgmt = s.mgmt := rfl
@[simp] theorem updTally_free (f : Tally → Tally) (s : State) : (updTally f s).free = s.free := rfl
@[simp] theorem updTally_out (f : Tally → Tally) (s : State) : (updTally f s).out = s.out := rfl
@[simp] theorem updTally_pending (f : Tally → Tally) (s : State) : (updTally f s).pending = s.pending := rfl

/-! ## updCtxs -/

@[simp] theorem updCtxs_clock (f : List Ctx → List Ctx) (s : State) : (updCtxs f s).clock = s.clock := rfl
@[simp] theorem updCtxs_tally (f : List Ctx → List Ctx) (s : State) : (updCtxs f s).tally = s.tally := rfl
@[simp] theorem updCtxs_mode (f : List Ctx → List Ctx) (s : State) : (updCtxs f s).mode = s.mode := rfl
@[simp] theorem updCtxs_pens (f : List Ctx → List Ctx) (s : State) : (updCtxs f s).pens = s.pens := rfl
@[simp] theorem updCtxs_drovers (f : List Ctx → List Ctx) (s : State) : (updCtxs f s).drovers = s.drovers := rfl
@[simp] theorem updCtxs_parts (f : List Ctx → List Ctx) (s : State) : (updCtxs f s).parts = s.parts := rfl
@[simp] theorem updCtxs_ctxs (f : List Ctx → List Ctx) (s : State) : (updCtxs f s).ctxs = f s.ctxs := rfl
@[simp] theorem updCtxs_nextCtx (f : List Ctx → List Ctx) (s : State) : (updCtxs f s).nextCtx = s.nextCtx := rfl
@[simp] theorem updCtxs_nextRun (f : List Ctx → List Ctx) (s : State) : (updCtxs f s).nextRun = s.nextRun := rfl
@[simp] theorem updCtxs_place (f : List Ctx → List Ctx) (s : State) : (updCtxs f s).place = s.place := rfl
@[simp] theorem updCtxs_hbm (f : List Ctx → List Ctx) (s : State) : (updCtxs f s).hbm = s.hbm := rfl
@[simp] theorem updCtxs_codec (f : List Ctx → List Ctx) (s : State) : (updCtxs f s).codec = s.codec := rfl
@[simp] theorem updCtxs_fabric (f : List Ctx → List Ctx) (s : State) : (updCtxs f s).fabric = s.fabric := rfl
@[simp] theorem updCtxs_host (f : List Ctx → List Ctx) (s : State) : (updCtxs f s).host = s.host := rfl
@[simp] theorem updCtxs_recov (f : List Ctx → List Ctx) (s : State) : (updCtxs f s).recov = s.recov := rfl
@[simp] theorem updCtxs_power (f : List Ctx → List Ctx) (s : State) : (updCtxs f s).power = s.power := rfl
@[simp] theorem updCtxs_sec (f : List Ctx → List Ctx) (s : State) : (updCtxs f s).sec = s.sec := rfl
@[simp] theorem updCtxs_mgmt (f : List Ctx → List Ctx) (s : State) : (updCtxs f s).mgmt = s.mgmt := rfl
@[simp] theorem updCtxs_free (f : List Ctx → List Ctx) (s : State) : (updCtxs f s).free = s.free := rfl
@[simp] theorem updCtxs_out (f : List Ctx → List Ctx) (s : State) : (updCtxs f s).out = s.out := rfl
@[simp] theorem updCtxs_pending (f : List Ctx → List Ctx) (s : State) : (updCtxs f s).pending = s.pending := rfl

/-! ## updFunc -/

@[simp] theorem updFunc_clock (i : Nat) (f : Func → Func) (s : State) : (updFunc i f s).clock = s.clock := rfl
@[simp] theorem updFunc_tally (i : Nat) (f : Func → Func) (s : State) : (updFunc i f s).tally = s.tally := rfl
@[simp] theorem updFunc_mode (i : Nat) (f : Func → Func) (s : State) : (updFunc i f s).mode = s.mode := rfl
@[simp] theorem updFunc_pens (i : Nat) (f : Func → Func) (s : State) : (updFunc i f s).pens = s.pens := rfl
@[simp] theorem updFunc_drovers (i : Nat) (f : Func → Func) (s : State) : (updFunc i f s).drovers = s.drovers := rfl
@[simp] theorem updFunc_parts (i : Nat) (f : Func → Func) (s : State) : (updFunc i f s).parts = s.parts := rfl
@[simp] theorem updFunc_ctxs (i : Nat) (f : Func → Func) (s : State) : (updFunc i f s).ctxs = s.ctxs := rfl
@[simp] theorem updFunc_nextCtx (i : Nat) (f : Func → Func) (s : State) : (updFunc i f s).nextCtx = s.nextCtx := rfl
@[simp] theorem updFunc_nextRun (i : Nat) (f : Func → Func) (s : State) : (updFunc i f s).nextRun = s.nextRun := rfl
@[simp] theorem updFunc_place (i : Nat) (f : Func → Func) (s : State) : (updFunc i f s).place = s.place := rfl
@[simp] theorem updFunc_hbm (i : Nat) (f : Func → Func) (s : State) : (updFunc i f s).hbm = s.hbm := rfl
@[simp] theorem updFunc_codec (i : Nat) (f : Func → Func) (s : State) : (updFunc i f s).codec = s.codec := rfl
@[simp] theorem updFunc_fabric (i : Nat) (f : Func → Func) (s : State) : (updFunc i f s).fabric = s.fabric := rfl
@[simp] theorem updFunc_host (i : Nat) (f : Func → Func) (s : State) : (updFunc i f s).host = { s.host with funcs := tupd Func.reset s.host.funcs i f } := rfl
@[simp] theorem updFunc_recov (i : Nat) (f : Func → Func) (s : State) : (updFunc i f s).recov = s.recov := rfl
@[simp] theorem updFunc_power (i : Nat) (f : Func → Func) (s : State) : (updFunc i f s).power = s.power := rfl
@[simp] theorem updFunc_sec (i : Nat) (f : Func → Func) (s : State) : (updFunc i f s).sec = s.sec := rfl
@[simp] theorem updFunc_mgmt (i : Nat) (f : Func → Func) (s : State) : (updFunc i f s).mgmt = s.mgmt := rfl
@[simp] theorem updFunc_free (i : Nat) (f : Func → Func) (s : State) : (updFunc i f s).free = s.free := rfl
@[simp] theorem updFunc_out (i : Nat) (f : Func → Func) (s : State) : (updFunc i f s).out = s.out := rfl
@[simp] theorem updFunc_pending (i : Nat) (f : Func → Func) (s : State) : (updFunc i f s).pending = s.pending := rfl

/-! ## updMbx -/

@[simp] theorem updMbx_clock (i m : Nat) (f : Mailbox → Mailbox) (s : State) : (updMbx i m f s).clock = s.clock := rfl
@[simp] theorem updMbx_tally (i m : Nat) (f : Mailbox → Mailbox) (s : State) : (updMbx i m f s).tally = s.tally := rfl
@[simp] theorem updMbx_mode (i m : Nat) (f : Mailbox → Mailbox) (s : State) : (updMbx i m f s).mode = s.mode := rfl
@[simp] theorem updMbx_pens (i m : Nat) (f : Mailbox → Mailbox) (s : State) : (updMbx i m f s).pens = s.pens := rfl
@[simp] theorem updMbx_drovers (i m : Nat) (f : Mailbox → Mailbox) (s : State) : (updMbx i m f s).drovers = s.drovers := rfl
@[simp] theorem updMbx_parts (i m : Nat) (f : Mailbox → Mailbox) (s : State) : (updMbx i m f s).parts = s.parts := rfl
@[simp] theorem updMbx_ctxs (i m : Nat) (f : Mailbox → Mailbox) (s : State) : (updMbx i m f s).ctxs = s.ctxs := rfl
@[simp] theorem updMbx_nextCtx (i m : Nat) (f : Mailbox → Mailbox) (s : State) : (updMbx i m f s).nextCtx = s.nextCtx := rfl
@[simp] theorem updMbx_nextRun (i m : Nat) (f : Mailbox → Mailbox) (s : State) : (updMbx i m f s).nextRun = s.nextRun := rfl
@[simp] theorem updMbx_place (i m : Nat) (f : Mailbox → Mailbox) (s : State) : (updMbx i m f s).place = s.place := rfl
@[simp] theorem updMbx_hbm (i m : Nat) (f : Mailbox → Mailbox) (s : State) : (updMbx i m f s).hbm = s.hbm := rfl
@[simp] theorem updMbx_codec (i m : Nat) (f : Mailbox → Mailbox) (s : State) : (updMbx i m f s).codec = s.codec := rfl
@[simp] theorem updMbx_fabric (i m : Nat) (f : Mailbox → Mailbox) (s : State) : (updMbx i m f s).fabric = s.fabric := rfl
@[simp] theorem updMbx_recov (i m : Nat) (f : Mailbox → Mailbox) (s : State) : (updMbx i m f s).recov = s.recov := rfl
@[simp] theorem updMbx_power (i m : Nat) (f : Mailbox → Mailbox) (s : State) : (updMbx i m f s).power = s.power := rfl
@[simp] theorem updMbx_sec (i m : Nat) (f : Mailbox → Mailbox) (s : State) : (updMbx i m f s).sec = s.sec := rfl
@[simp] theorem updMbx_mgmt (i m : Nat) (f : Mailbox → Mailbox) (s : State) : (updMbx i m f s).mgmt = s.mgmt := rfl
@[simp] theorem updMbx_free (i m : Nat) (f : Mailbox → Mailbox) (s : State) : (updMbx i m f s).free = s.free := rfl
@[simp] theorem updMbx_out (i m : Nat) (f : Mailbox → Mailbox) (s : State) : (updMbx i m f s).out = s.out := rfl
@[simp] theorem updMbx_pending (i m : Nat) (f : Mailbox → Mailbox) (s : State) : (updMbx i m f s).pending = s.pending := rfl

/-! ## updGate -/

@[simp] theorem updGate_clock (g : Nat) (f : Gate → Gate) (s : State) : (updGate g f s).clock = s.clock := rfl
@[simp] theorem updGate_tally (g : Nat) (f : Gate → Gate) (s : State) : (updGate g f s).tally = s.tally := rfl
@[simp] theorem updGate_mode (g : Nat) (f : Gate → Gate) (s : State) : (updGate g f s).mode = s.mode := rfl
@[simp] theorem updGate_pens (g : Nat) (f : Gate → Gate) (s : State) : (updGate g f s).pens = s.pens := rfl
@[simp] theorem updGate_drovers (g : Nat) (f : Gate → Gate) (s : State) : (updGate g f s).drovers = s.drovers := rfl
@[simp] theorem updGate_parts (g : Nat) (f : Gate → Gate) (s : State) : (updGate g f s).parts = s.parts := rfl
@[simp] theorem updGate_ctxs (g : Nat) (f : Gate → Gate) (s : State) : (updGate g f s).ctxs = s.ctxs := rfl
@[simp] theorem updGate_nextCtx (g : Nat) (f : Gate → Gate) (s : State) : (updGate g f s).nextCtx = s.nextCtx := rfl
@[simp] theorem updGate_nextRun (g : Nat) (f : Gate → Gate) (s : State) : (updGate g f s).nextRun = s.nextRun := rfl
@[simp] theorem updGate_place (g : Nat) (f : Gate → Gate) (s : State) : (updGate g f s).place = s.place := rfl
@[simp] theorem updGate_hbm (g : Nat) (f : Gate → Gate) (s : State) : (updGate g f s).hbm = s.hbm := rfl
@[simp] theorem updGate_codec (g : Nat) (f : Gate → Gate) (s : State) : (updGate g f s).codec = s.codec := rfl
@[simp] theorem updGate_fabric (g : Nat) (f : Gate → Gate) (s : State) : (updGate g f s).fabric = { s.fabric with gates := tupd Gate.reset s.fabric.gates g f } := rfl
@[simp] theorem updGate_host (g : Nat) (f : Gate → Gate) (s : State) : (updGate g f s).host = s.host := rfl
@[simp] theorem updGate_recov (g : Nat) (f : Gate → Gate) (s : State) : (updGate g f s).recov = s.recov := rfl
@[simp] theorem updGate_power (g : Nat) (f : Gate → Gate) (s : State) : (updGate g f s).power = s.power := rfl
@[simp] theorem updGate_sec (g : Nat) (f : Gate → Gate) (s : State) : (updGate g f s).sec = s.sec := rfl
@[simp] theorem updGate_mgmt (g : Nat) (f : Gate → Gate) (s : State) : (updGate g f s).mgmt = s.mgmt := rfl
@[simp] theorem updGate_free (g : Nat) (f : Gate → Gate) (s : State) : (updGate g f s).free = s.free := rfl
@[simp] theorem updGate_out (g : Nat) (f : Gate → Gate) (s : State) : (updGate g f s).out = s.out := rfl
@[simp] theorem updGate_pending (g : Nat) (f : Gate → Gate) (s : State) : (updGate g f s).pending = s.pending := rfl

/-! ## updChan -/

@[simp] theorem updChan_clock (c : Nat) (f : Chan → Chan) (s : State) : (updChan c f s).clock = s.clock := rfl
@[simp] theorem updChan_tally (c : Nat) (f : Chan → Chan) (s : State) : (updChan c f s).tally = s.tally := rfl
@[simp] theorem updChan_mode (c : Nat) (f : Chan → Chan) (s : State) : (updChan c f s).mode = s.mode := rfl
@[simp] theorem updChan_pens (c : Nat) (f : Chan → Chan) (s : State) : (updChan c f s).pens = s.pens := rfl
@[simp] theorem updChan_drovers (c : Nat) (f : Chan → Chan) (s : State) : (updChan c f s).drovers = s.drovers := rfl
@[simp] theorem updChan_parts (c : Nat) (f : Chan → Chan) (s : State) : (updChan c f s).parts = s.parts := rfl
@[simp] theorem updChan_ctxs (c : Nat) (f : Chan → Chan) (s : State) : (updChan c f s).ctxs = s.ctxs := rfl
@[simp] theorem updChan_nextCtx (c : Nat) (f : Chan → Chan) (s : State) : (updChan c f s).nextCtx = s.nextCtx := rfl
@[simp] theorem updChan_nextRun (c : Nat) (f : Chan → Chan) (s : State) : (updChan c f s).nextRun = s.nextRun := rfl
@[simp] theorem updChan_place (c : Nat) (f : Chan → Chan) (s : State) : (updChan c f s).place = s.place := rfl
@[simp] theorem updChan_hbm (c : Nat) (f : Chan → Chan) (s : State) : (updChan c f s).hbm = { s.hbm with chans := tupd Chan.reset s.hbm.chans c f } := rfl
@[simp] theorem updChan_codec (c : Nat) (f : Chan → Chan) (s : State) : (updChan c f s).codec = s.codec := rfl
@[simp] theorem updChan_fabric (c : Nat) (f : Chan → Chan) (s : State) : (updChan c f s).fabric = s.fabric := rfl
@[simp] theorem updChan_host (c : Nat) (f : Chan → Chan) (s : State) : (updChan c f s).host = s.host := rfl
@[simp] theorem updChan_recov (c : Nat) (f : Chan → Chan) (s : State) : (updChan c f s).recov = s.recov := rfl
@[simp] theorem updChan_power (c : Nat) (f : Chan → Chan) (s : State) : (updChan c f s).power = s.power := rfl
@[simp] theorem updChan_sec (c : Nat) (f : Chan → Chan) (s : State) : (updChan c f s).sec = s.sec := rfl
@[simp] theorem updChan_mgmt (c : Nat) (f : Chan → Chan) (s : State) : (updChan c f s).mgmt = s.mgmt := rfl
@[simp] theorem updChan_free (c : Nat) (f : Chan → Chan) (s : State) : (updChan c f s).free = s.free := rfl
@[simp] theorem updChan_out (c : Nat) (f : Chan → Chan) (s : State) : (updChan c f s).out = s.out := rfl
@[simp] theorem updChan_pending (c : Nat) (f : Chan → Chan) (s : State) : (updChan c f s).pending = s.pending := rfl

/-! ## updStack -/

@[simp] theorem updStack_clock (i : Nat) (f : Stack → Stack) (s : State) : (updStack i f s).clock = s.clock := rfl
@[simp] theorem updStack_tally (i : Nat) (f : Stack → Stack) (s : State) : (updStack i f s).tally = s.tally := rfl
@[simp] theorem updStack_mode (i : Nat) (f : Stack → Stack) (s : State) : (updStack i f s).mode = s.mode := rfl
@[simp] theorem updStack_pens (i : Nat) (f : Stack → Stack) (s : State) : (updStack i f s).pens = s.pens := rfl
@[simp] theorem updStack_drovers (i : Nat) (f : Stack → Stack) (s : State) : (updStack i f s).drovers = s.drovers := rfl
@[simp] theorem updStack_parts (i : Nat) (f : Stack → Stack) (s : State) : (updStack i f s).parts = s.parts := rfl
@[simp] theorem updStack_ctxs (i : Nat) (f : Stack → Stack) (s : State) : (updStack i f s).ctxs = s.ctxs := rfl
@[simp] theorem updStack_nextCtx (i : Nat) (f : Stack → Stack) (s : State) : (updStack i f s).nextCtx = s.nextCtx := rfl
@[simp] theorem updStack_nextRun (i : Nat) (f : Stack → Stack) (s : State) : (updStack i f s).nextRun = s.nextRun := rfl
@[simp] theorem updStack_place (i : Nat) (f : Stack → Stack) (s : State) : (updStack i f s).place = s.place := rfl
@[simp] theorem updStack_hbm (i : Nat) (f : Stack → Stack) (s : State) : (updStack i f s).hbm = { s.hbm with stk := tupd Stack.reset s.hbm.stk i f } := rfl
@[simp] theorem updStack_codec (i : Nat) (f : Stack → Stack) (s : State) : (updStack i f s).codec = s.codec := rfl
@[simp] theorem updStack_fabric (i : Nat) (f : Stack → Stack) (s : State) : (updStack i f s).fabric = s.fabric := rfl
@[simp] theorem updStack_host (i : Nat) (f : Stack → Stack) (s : State) : (updStack i f s).host = s.host := rfl
@[simp] theorem updStack_recov (i : Nat) (f : Stack → Stack) (s : State) : (updStack i f s).recov = s.recov := rfl
@[simp] theorem updStack_power (i : Nat) (f : Stack → Stack) (s : State) : (updStack i f s).power = s.power := rfl
@[simp] theorem updStack_sec (i : Nat) (f : Stack → Stack) (s : State) : (updStack i f s).sec = s.sec := rfl
@[simp] theorem updStack_mgmt (i : Nat) (f : Stack → Stack) (s : State) : (updStack i f s).mgmt = s.mgmt := rfl
@[simp] theorem updStack_free (i : Nat) (f : Stack → Stack) (s : State) : (updStack i f s).free = s.free := rfl
@[simp] theorem updStack_out (i : Nat) (f : Stack → Stack) (s : State) : (updStack i f s).out = s.out := rfl
@[simp] theorem updStack_pending (i : Nat) (f : Stack → Stack) (s : State) : (updStack i f s).pending = s.pending := rfl

/-! ## updPipe -/

@[simp] theorem updPipe_clock (i : Nat) (f : Pipe → Pipe) (s : State) : (updPipe i f s).clock = s.clock := rfl
@[simp] theorem updPipe_tally (i : Nat) (f : Pipe → Pipe) (s : State) : (updPipe i f s).tally = s.tally := rfl
@[simp] theorem updPipe_mode (i : Nat) (f : Pipe → Pipe) (s : State) : (updPipe i f s).mode = s.mode := rfl
@[simp] theorem updPipe_pens (i : Nat) (f : Pipe → Pipe) (s : State) : (updPipe i f s).pens = s.pens := rfl
@[simp] theorem updPipe_drovers (i : Nat) (f : Pipe → Pipe) (s : State) : (updPipe i f s).drovers = s.drovers := rfl
@[simp] theorem updPipe_parts (i : Nat) (f : Pipe → Pipe) (s : State) : (updPipe i f s).parts = s.parts := rfl
@[simp] theorem updPipe_ctxs (i : Nat) (f : Pipe → Pipe) (s : State) : (updPipe i f s).ctxs = s.ctxs := rfl
@[simp] theorem updPipe_nextCtx (i : Nat) (f : Pipe → Pipe) (s : State) : (updPipe i f s).nextCtx = s.nextCtx := rfl
@[simp] theorem updPipe_nextRun (i : Nat) (f : Pipe → Pipe) (s : State) : (updPipe i f s).nextRun = s.nextRun := rfl
@[simp] theorem updPipe_place (i : Nat) (f : Pipe → Pipe) (s : State) : (updPipe i f s).place = s.place := rfl
@[simp] theorem updPipe_hbm (i : Nat) (f : Pipe → Pipe) (s : State) : (updPipe i f s).hbm = s.hbm := rfl
@[simp] theorem updPipe_codec (i : Nat) (f : Pipe → Pipe) (s : State) : (updPipe i f s).codec = { s.codec with pipes := tupd Pipe.reset s.codec.pipes i f } := rfl
@[simp] theorem updPipe_fabric (i : Nat) (f : Pipe → Pipe) (s : State) : (updPipe i f s).fabric = s.fabric := rfl
@[simp] theorem updPipe_host (i : Nat) (f : Pipe → Pipe) (s : State) : (updPipe i f s).host = s.host := rfl
@[simp] theorem updPipe_recov (i : Nat) (f : Pipe → Pipe) (s : State) : (updPipe i f s).recov = s.recov := rfl
@[simp] theorem updPipe_power (i : Nat) (f : Pipe → Pipe) (s : State) : (updPipe i f s).power = s.power := rfl
@[simp] theorem updPipe_sec (i : Nat) (f : Pipe → Pipe) (s : State) : (updPipe i f s).sec = s.sec := rfl
@[simp] theorem updPipe_mgmt (i : Nat) (f : Pipe → Pipe) (s : State) : (updPipe i f s).mgmt = s.mgmt := rfl
@[simp] theorem updPipe_free (i : Nat) (f : Pipe → Pipe) (s : State) : (updPipe i f s).free = s.free := rfl
@[simp] theorem updPipe_out (i : Nat) (f : Pipe → Pipe) (s : State) : (updPipe i f s).out = s.out := rfl
@[simp] theorem updPipe_pending (i : Nat) (f : Pipe → Pipe) (s : State) : (updPipe i f s).pending = s.pending := rfl

/-! ## updCtx -/

@[simp] theorem updCtx_clock (h : Nat) (f : Ctx → Ctx) (s : State) : (updCtx h f s).clock = s.clock := rfl
@[simp] theorem updCtx_tally (h : Nat) (f : Ctx → Ctx) (s : State) : (updCtx h f s).tally = s.tally := rfl
@[simp] theorem updCtx_mode (h : Nat) (f : Ctx → Ctx) (s : State) : (updCtx h f s).mode = s.mode := rfl
@[simp] theorem updCtx_pens (h : Nat) (f : Ctx → Ctx) (s : State) : (updCtx h f s).pens = s.pens := rfl
@[simp] theorem updCtx_drovers (h : Nat) (f : Ctx → Ctx) (s : State) : (updCtx h f s).drovers = s.drovers := rfl
@[simp] theorem updCtx_parts (h : Nat) (f : Ctx → Ctx) (s : State) : (updCtx h f s).parts = s.parts := rfl
@[simp] theorem updCtx_ctxs (h : Nat) (f : Ctx → Ctx) (s : State) : (updCtx h f s).ctxs = mapIf (fun c => c.handle == h) f s.ctxs := rfl
@[simp] theorem updCtx_nextCtx (h : Nat) (f : Ctx → Ctx) (s : State) : (updCtx h f s).nextCtx = s.nextCtx := rfl
@[simp] theorem updCtx_nextRun (h : Nat) (f : Ctx → Ctx) (s : State) : (updCtx h f s).nextRun = s.nextRun := rfl
@[simp] theorem updCtx_place (h : Nat) (f : Ctx → Ctx) (s : State) : (updCtx h f s).place = s.place := rfl
@[simp] theorem updCtx_hbm (h : Nat) (f : Ctx → Ctx) (s : State) : (updCtx h f s).hbm = s.hbm := rfl
@[simp] theorem updCtx_codec (h : Nat) (f : Ctx → Ctx) (s : State) : (updCtx h f s).codec = s.codec := rfl
@[simp] theorem updCtx_fabric (h : Nat) (f : Ctx → Ctx) (s : State) : (updCtx h f s).fabric = s.fabric := rfl
@[simp] theorem updCtx_host (h : Nat) (f : Ctx → Ctx) (s : State) : (updCtx h f s).host = s.host := rfl
@[simp] theorem updCtx_recov (h : Nat) (f : Ctx → Ctx) (s : State) : (updCtx h f s).recov = s.recov := rfl
@[simp] theorem updCtx_power (h : Nat) (f : Ctx → Ctx) (s : State) : (updCtx h f s).power = s.power := rfl
@[simp] theorem updCtx_sec (h : Nat) (f : Ctx → Ctx) (s : State) : (updCtx h f s).sec = s.sec := rfl
@[simp] theorem updCtx_mgmt (h : Nat) (f : Ctx → Ctx) (s : State) : (updCtx h f s).mgmt = s.mgmt := rfl
@[simp] theorem updCtx_free (h : Nat) (f : Ctx → Ctx) (s : State) : (updCtx h f s).free = s.free := rfl
@[simp] theorem updCtx_out (h : Nat) (f : Ctx → Ctx) (s : State) : (updCtx h f s).out = s.out := rfl
@[simp] theorem updCtx_pending (h : Nat) (f : Ctx → Ctx) (s : State) : (updCtx h f s).pending = s.pending := rfl

/-! ## updRun -/

@[simp] theorem updRun_clock (k : Nat) (f : Run → Run) (s : State) : (updRun k f s).clock = s.clock := rfl
@[simp] theorem updRun_tally (k : Nat) (f : Run → Run) (s : State) : (updRun k f s).tally = s.tally := rfl
@[simp] theorem updRun_mode (k : Nat) (f : Run → Run) (s : State) : (updRun k f s).mode = s.mode := rfl
@[simp] theorem updRun_pens (k : Nat) (f : Run → Run) (s : State) : (updRun k f s).pens = s.pens := rfl
@[simp] theorem updRun_drovers (k : Nat) (f : Run → Run) (s : State) : (updRun k f s).drovers = s.drovers := rfl
@[simp] theorem updRun_parts (k : Nat) (f : Run → Run) (s : State) : (updRun k f s).parts = tupd Part.absent s.parts k fun p => { p with run := p.run.map f } := rfl
@[simp] theorem updRun_ctxs (k : Nat) (f : Run → Run) (s : State) : (updRun k f s).ctxs = s.ctxs := rfl
@[simp] theorem updRun_nextCtx (k : Nat) (f : Run → Run) (s : State) : (updRun k f s).nextCtx = s.nextCtx := rfl
@[simp] theorem updRun_nextRun (k : Nat) (f : Run → Run) (s : State) : (updRun k f s).nextRun = s.nextRun := rfl
@[simp] theorem updRun_place (k : Nat) (f : Run → Run) (s : State) : (updRun k f s).place = s.place := rfl
@[simp] theorem updRun_hbm (k : Nat) (f : Run → Run) (s : State) : (updRun k f s).hbm = s.hbm := rfl
@[simp] theorem updRun_codec (k : Nat) (f : Run → Run) (s : State) : (updRun k f s).codec = s.codec := rfl
@[simp] theorem updRun_fabric (k : Nat) (f : Run → Run) (s : State) : (updRun k f s).fabric = s.fabric := rfl
@[simp] theorem updRun_host (k : Nat) (f : Run → Run) (s : State) : (updRun k f s).host = s.host := rfl
@[simp] theorem updRun_recov (k : Nat) (f : Run → Run) (s : State) : (updRun k f s).recov = s.recov := rfl
@[simp] theorem updRun_power (k : Nat) (f : Run → Run) (s : State) : (updRun k f s).power = s.power := rfl
@[simp] theorem updRun_sec (k : Nat) (f : Run → Run) (s : State) : (updRun k f s).sec = s.sec := rfl
@[simp] theorem updRun_mgmt (k : Nat) (f : Run → Run) (s : State) : (updRun k f s).mgmt = s.mgmt := rfl
@[simp] theorem updRun_free (k : Nat) (f : Run → Run) (s : State) : (updRun k f s).free = s.free := rfl
@[simp] theorem updRun_out (k : Nat) (f : Run → Run) (s : State) : (updRun k f s).out = s.out := rfl
@[simp] theorem updRun_pending (k : Nat) (f : Run → Run) (s : State) : (updRun k f s).pending = s.pending := rfl

/-! ## emit -/

@[simp] theorem emit_clock (o : Output) (s : State) : (emit o s).clock = s.clock := rfl
@[simp] theorem emit_tally (o : Output) (s : State) : (emit o s).tally = s.tally := rfl
@[simp] theorem emit_mode (o : Output) (s : State) : (emit o s).mode = s.mode := rfl
@[simp] theorem emit_pens (o : Output) (s : State) : (emit o s).pens = s.pens := rfl
@[simp] theorem emit_drovers (o : Output) (s : State) : (emit o s).drovers = s.drovers := rfl
@[simp] theorem emit_parts (o : Output) (s : State) : (emit o s).parts = s.parts := rfl
@[simp] theorem emit_ctxs (o : Output) (s : State) : (emit o s).ctxs = s.ctxs := rfl
@[simp] theorem emit_nextCtx (o : Output) (s : State) : (emit o s).nextCtx = s.nextCtx := rfl
@[simp] theorem emit_nextRun (o : Output) (s : State) : (emit o s).nextRun = s.nextRun := rfl
@[simp] theorem emit_place (o : Output) (s : State) : (emit o s).place = s.place := rfl
@[simp] theorem emit_hbm (o : Output) (s : State) : (emit o s).hbm = s.hbm := rfl
@[simp] theorem emit_codec (o : Output) (s : State) : (emit o s).codec = s.codec := rfl
@[simp] theorem emit_fabric (o : Output) (s : State) : (emit o s).fabric = s.fabric := rfl
@[simp] theorem emit_host (o : Output) (s : State) : (emit o s).host = s.host := rfl
@[simp] theorem emit_recov (o : Output) (s : State) : (emit o s).recov = s.recov := rfl
@[simp] theorem emit_power (o : Output) (s : State) : (emit o s).power = s.power := rfl
@[simp] theorem emit_sec (o : Output) (s : State) : (emit o s).sec = s.sec := rfl
@[simp] theorem emit_mgmt (o : Output) (s : State) : (emit o s).mgmt = s.mgmt := rfl
@[simp] theorem emit_free (o : Output) (s : State) : (emit o s).free = s.free := rfl
@[simp] theorem emit_out (o : Output) (s : State) : (emit o s).out = o :: s.out := rfl
@[simp] theorem emit_pending (o : Output) (s : State) : (emit o s).pending = s.pending := rfl

/-! ## setLead -/

@[simp] theorem setLead_clock (n : Nat) (s : State) : (setLead n s).clock = { s.clock with lead := n } := rfl
@[simp] theorem setLead_tally (n : Nat) (s : State) : (setLead n s).tally = s.tally := rfl
@[simp] theorem setLead_mode (n : Nat) (s : State) : (setLead n s).mode = s.mode := rfl
@[simp] theorem setLead_pens (n : Nat) (s : State) : (setLead n s).pens = s.pens := rfl
@[simp] theorem setLead_drovers (n : Nat) (s : State) : (setLead n s).drovers = s.drovers := rfl
@[simp] theorem setLead_parts (n : Nat) (s : State) : (setLead n s).parts = s.parts := rfl
@[simp] theorem setLead_ctxs (n : Nat) (s : State) : (setLead n s).ctxs = s.ctxs := rfl
@[simp] theorem setLead_nextCtx (n : Nat) (s : State) : (setLead n s).nextCtx = s.nextCtx := rfl
@[simp] theorem setLead_nextRun (n : Nat) (s : State) : (setLead n s).nextRun = s.nextRun := rfl
@[simp] theorem setLead_place (n : Nat) (s : State) : (setLead n s).place = s.place := rfl
@[simp] theorem setLead_hbm (n : Nat) (s : State) : (setLead n s).hbm = s.hbm := rfl
@[simp] theorem setLead_codec (n : Nat) (s : State) : (setLead n s).codec = s.codec := rfl
@[simp] theorem setLead_fabric (n : Nat) (s : State) : (setLead n s).fabric = s.fabric := rfl
@[simp] theorem setLead_host (n : Nat) (s : State) : (setLead n s).host = s.host := rfl
@[simp] theorem setLead_recov (n : Nat) (s : State) : (setLead n s).recov = s.recov := rfl
@[simp] theorem setLead_power (n : Nat) (s : State) : (setLead n s).power = s.power := rfl
@[simp] theorem setLead_sec (n : Nat) (s : State) : (setLead n s).sec = s.sec := rfl
@[simp] theorem setLead_mgmt (n : Nat) (s : State) : (setLead n s).mgmt = s.mgmt := rfl
@[simp] theorem setLead_free (n : Nat) (s : State) : (setLead n s).free = s.free := rfl
@[simp] theorem setLead_out (n : Nat) (s : State) : (setLead n s).out = s.out := rfl
@[simp] theorem setLead_pending (n : Nat) (s : State) : (setLead n s).pending = s.pending := rfl

/-! ## fresh -/

@[simp] theorem fresh_clock (s : State) : (fresh s).2.clock = s.clock := rfl
@[simp] theorem fresh_tally (s : State) : (fresh s).2.tally = s.tally := rfl
@[simp] theorem fresh_mode (s : State) : (fresh s).2.mode = s.mode := rfl
@[simp] theorem fresh_pens (s : State) : (fresh s).2.pens = s.pens := rfl
@[simp] theorem fresh_drovers (s : State) : (fresh s).2.drovers = s.drovers := rfl
@[simp] theorem fresh_parts (s : State) : (fresh s).2.parts = s.parts := rfl
@[simp] theorem fresh_ctxs (s : State) : (fresh s).2.ctxs = s.ctxs := rfl
@[simp] theorem fresh_nextCtx (s : State) : (fresh s).2.nextCtx = s.nextCtx := rfl
@[simp] theorem fresh_nextRun (s : State) : (fresh s).2.nextRun = s.nextRun := rfl
@[simp] theorem fresh_place (s : State) : (fresh s).2.place = s.place := rfl
@[simp] theorem fresh_hbm (s : State) : (fresh s).2.hbm = s.hbm := rfl
@[simp] theorem fresh_codec (s : State) : (fresh s).2.codec = s.codec := rfl
@[simp] theorem fresh_fabric (s : State) : (fresh s).2.fabric = s.fabric := rfl
@[simp] theorem fresh_host (s : State) : (fresh s).2.host = s.host := rfl
@[simp] theorem fresh_recov (s : State) : (fresh s).2.recov = s.recov := rfl
@[simp] theorem fresh_power (s : State) : (fresh s).2.power = s.power := rfl
@[simp] theorem fresh_sec (s : State) : (fresh s).2.sec = s.sec := rfl
@[simp] theorem fresh_mgmt (s : State) : (fresh s).2.mgmt = s.mgmt := rfl
@[simp] theorem fresh_out (s : State) : (fresh s).2.out = s.out := rfl
@[simp] theorem fresh_pending (s : State) : (fresh s).2.pending = s.pending := rfl
@[simp] theorem fresh_free (s : State) : (fresh s).2.free = s.free + 1 := rfl

/-! ## The accessors after an update of their own table -/

theorem pen_updPen (i : Nat) (f : Pen → Pen) (s : State) (j : Nat) : (updPen i f s).pen j = if j = i then f (s.pen i) else s.pen j := tget_tupd _ _ _ _ _
@[simp] theorem pen_updPen_same (i : Nat) (f : Pen → Pen) (s : State) : (updPen i f s).pen i = f (s.pen i) := by
  rw [pen_updPen, if_pos rfl]

theorem part_updPart (i : Nat) (f : Part → Part) (s : State) (j : Nat) : (updPart i f s).part j = if j = i then f (s.part i) else s.part j := tget_tupd _ _ _ _ _
@[simp] theorem part_updPart_same (i : Nat) (f : Part → Part) (s : State) : (updPart i f s).part i = f (s.part i) := by
  rw [part_updPart, if_pos rfl]

theorem drover_updDrover (i : Nat) (f : Drover → Drover) (s : State) (j : Nat) : (updDrover i f s).drover j = if j = i then f (s.drover i) else s.drover j := tget_tupd _ _ _ _ _
@[simp] theorem drover_updDrover_same (i : Nat) (f : Drover → Drover) (s : State) : (updDrover i f s).drover i = f (s.drover i) := by
  rw [drover_updDrover, if_pos rfl]

theorem func_updFunc (i : Nat) (f : Func → Func) (s : State) (j : Nat) : (updFunc i f s).func j = if j = i then f (s.func i) else s.func j := tget_tupd _ _ _ _ _
@[simp] theorem func_updFunc_same (i : Nat) (f : Func → Func) (s : State) : (updFunc i f s).func i = f (s.func i) := by
  rw [func_updFunc, if_pos rfl]

theorem gate_updGate (i : Nat) (f : Gate → Gate) (s : State) (j : Nat) : (updGate i f s).gate j = if j = i then f (s.gate i) else s.gate j := tget_tupd _ _ _ _ _
@[simp] theorem gate_updGate_same (i : Nat) (f : Gate → Gate) (s : State) : (updGate i f s).gate i = f (s.gate i) := by
  rw [gate_updGate, if_pos rfl]

theorem stack_updStack (i : Nat) (f : Stack → Stack) (s : State) (j : Nat) : (updStack i f s).stack j = if j = i then f (s.stack i) else s.stack j := tget_tupd _ _ _ _ _
@[simp] theorem stack_updStack_same (i : Nat) (f : Stack → Stack) (s : State) : (updStack i f s).stack i = f (s.stack i) := by
  rw [stack_updStack, if_pos rfl]

theorem chan_updChan (i : Nat) (f : Chan → Chan) (s : State) (j : Nat) : (updChan i f s).chan j = if j = i then f (s.chan i) else s.chan j := tget_tupd _ _ _ _ _
@[simp] theorem chan_updChan_same (i : Nat) (f : Chan → Chan) (s : State) : (updChan i f s).chan i = f (s.chan i) := by
  rw [chan_updChan, if_pos rfl]

theorem pipe_updPipe (i : Nat) (f : Pipe → Pipe) (s : State) (j : Nat) : (updPipe i f s).pipe j = if j = i then f (s.pipe i) else s.pipe j := tget_tupd _ _ _ _ _
@[simp] theorem pipe_updPipe_same (i : Nat) (f : Pipe → Pipe) (s : State) : (updPipe i f s).pipe i = f (s.pipe i) := by
  rw [pipe_updPipe, if_pos rfl]

/-! ## The accessors after other updates -/

@[simp] theorem pen_updPart (k : Nat) (f : Part → Part) (s : State) (j : Nat) : (updPart k f s).pen j = s.pen j := rfl
@[simp] theorem pen_updDrover (i : Nat) (f : Drover → Drover) (s : State) (j : Nat) : (updDrover i f s).pen j = s.pen j := rfl
@[simp] theorem pen_updPlace (f : Placement → Placement) (s : State) (j : Nat) : (updPlace f s).pen j = s.pen j := rfl
@[simp] theorem pen_updHbm (f : Hbm → Hbm) (s : State) (j : Nat) : (updHbm f s).pen j = s.pen j := rfl
@[simp] theorem pen_updCodec (f : Codec → Codec) (s : State) (j : Nat) : (updCodec f s).pen j = s.pen j := rfl
@[simp] theorem pen_updFabric (f : Fabric → Fabric) (s : State) (j : Nat) : (updFabric f s).pen j = s.pen j := rfl
@[simp] theorem pen_updHost (f : HostPort → HostPort) (s : State) (j : Nat) : (updHost f s).pen j = s.pen j := rfl
@[simp] theorem pen_updRecov (f : Recovery → Recovery) (s : State) (j : Nat) : (updRecov f s).pen j = s.pen j := rfl
@[simp] theorem pen_updPower (f : Power → Power) (s : State) (j : Nat) : (updPower f s).pen j = s.pen j := rfl
@[simp] theorem pen_updSec (f : Security → Security) (s : State) (j : Nat) : (updSec f s).pen j = s.pen j := rfl
@[simp] theorem pen_updMgmt (f : Mgmt → Mgmt) (s : State) (j : Nat) : (updMgmt f s).pen j = s.pen j := rfl
@[simp] theorem pen_updTally (f : Tally → Tally) (s : State) (j : Nat) : (updTally f s).pen j = s.pen j := rfl
@[simp] theorem pen_updCtxs (f : List Ctx → List Ctx) (s : State) (j : Nat) : (updCtxs f s).pen j = s.pen j := rfl
@[simp] theorem pen_updFunc (i : Nat) (f : Func → Func) (s : State) (j : Nat) : (updFunc i f s).pen j = s.pen j := rfl
@[simp] theorem pen_updMbx (i m : Nat) (f : Mailbox → Mailbox) (s : State) (j : Nat) : (updMbx i m f s).pen j = s.pen j := rfl
@[simp] theorem pen_updGate (g : Nat) (f : Gate → Gate) (s : State) (j : Nat) : (updGate g f s).pen j = s.pen j := rfl
@[simp] theorem pen_updChan (c : Nat) (f : Chan → Chan) (s : State) (j : Nat) : (updChan c f s).pen j = s.pen j := rfl
@[simp] theorem pen_updStack (i : Nat) (f : Stack → Stack) (s : State) (j : Nat) : (updStack i f s).pen j = s.pen j := rfl
@[simp] theorem pen_updPipe (i : Nat) (f : Pipe → Pipe) (s : State) (j : Nat) : (updPipe i f s).pen j = s.pen j := rfl
@[simp] theorem pen_updCtx (h : Nat) (f : Ctx → Ctx) (s : State) (j : Nat) : (updCtx h f s).pen j = s.pen j := rfl
@[simp] theorem pen_updRun (k : Nat) (f : Run → Run) (s : State) (j : Nat) : (updRun k f s).pen j = s.pen j := rfl
@[simp] theorem pen_emit (o : Output) (s : State) (j : Nat) : (emit o s).pen j = s.pen j := rfl
@[simp] theorem pen_setLead (n : Nat) (s : State) (j : Nat) : (setLead n s).pen j = s.pen j := rfl
@[simp] theorem part_updPen (i : Nat) (f : Pen → Pen) (s : State) (j : Nat) : (updPen i f s).part j = s.part j := rfl
@[simp] theorem part_updDrover (i : Nat) (f : Drover → Drover) (s : State) (j : Nat) : (updDrover i f s).part j = s.part j := rfl
@[simp] theorem part_updPlace (f : Placement → Placement) (s : State) (j : Nat) : (updPlace f s).part j = s.part j := rfl
@[simp] theorem part_updHbm (f : Hbm → Hbm) (s : State) (j : Nat) : (updHbm f s).part j = s.part j := rfl
@[simp] theorem part_updCodec (f : Codec → Codec) (s : State) (j : Nat) : (updCodec f s).part j = s.part j := rfl
@[simp] theorem part_updFabric (f : Fabric → Fabric) (s : State) (j : Nat) : (updFabric f s).part j = s.part j := rfl
@[simp] theorem part_updHost (f : HostPort → HostPort) (s : State) (j : Nat) : (updHost f s).part j = s.part j := rfl
@[simp] theorem part_updRecov (f : Recovery → Recovery) (s : State) (j : Nat) : (updRecov f s).part j = s.part j := rfl
@[simp] theorem part_updPower (f : Power → Power) (s : State) (j : Nat) : (updPower f s).part j = s.part j := rfl
@[simp] theorem part_updSec (f : Security → Security) (s : State) (j : Nat) : (updSec f s).part j = s.part j := rfl
@[simp] theorem part_updMgmt (f : Mgmt → Mgmt) (s : State) (j : Nat) : (updMgmt f s).part j = s.part j := rfl
@[simp] theorem part_updTally (f : Tally → Tally) (s : State) (j : Nat) : (updTally f s).part j = s.part j := rfl
@[simp] theorem part_updCtxs (f : List Ctx → List Ctx) (s : State) (j : Nat) : (updCtxs f s).part j = s.part j := rfl
@[simp] theorem part_updFunc (i : Nat) (f : Func → Func) (s : State) (j : Nat) : (updFunc i f s).part j = s.part j := rfl
@[simp] theorem part_updMbx (i m : Nat) (f : Mailbox → Mailbox) (s : State) (j : Nat) : (updMbx i m f s).part j = s.part j := rfl
@[simp] theorem part_updGate (g : Nat) (f : Gate → Gate) (s : State) (j : Nat) : (updGate g f s).part j = s.part j := rfl
@[simp] theorem part_updChan (c : Nat) (f : Chan → Chan) (s : State) (j : Nat) : (updChan c f s).part j = s.part j := rfl
@[simp] theorem part_updStack (i : Nat) (f : Stack → Stack) (s : State) (j : Nat) : (updStack i f s).part j = s.part j := rfl
@[simp] theorem part_updPipe (i : Nat) (f : Pipe → Pipe) (s : State) (j : Nat) : (updPipe i f s).part j = s.part j := rfl
@[simp] theorem part_updCtx (h : Nat) (f : Ctx → Ctx) (s : State) (j : Nat) : (updCtx h f s).part j = s.part j := rfl
@[simp] theorem part_emit (o : Output) (s : State) (j : Nat) : (emit o s).part j = s.part j := rfl
@[simp] theorem part_setLead (n : Nat) (s : State) (j : Nat) : (setLead n s).part j = s.part j := rfl
@[simp] theorem drover_updPen (i : Nat) (f : Pen → Pen) (s : State) (j : Nat) : (updPen i f s).drover j = s.drover j := rfl
@[simp] theorem drover_updPart (k : Nat) (f : Part → Part) (s : State) (j : Nat) : (updPart k f s).drover j = s.drover j := rfl
@[simp] theorem drover_updPlace (f : Placement → Placement) (s : State) (j : Nat) : (updPlace f s).drover j = s.drover j := rfl
@[simp] theorem drover_updHbm (f : Hbm → Hbm) (s : State) (j : Nat) : (updHbm f s).drover j = s.drover j := rfl
@[simp] theorem drover_updCodec (f : Codec → Codec) (s : State) (j : Nat) : (updCodec f s).drover j = s.drover j := rfl
@[simp] theorem drover_updFabric (f : Fabric → Fabric) (s : State) (j : Nat) : (updFabric f s).drover j = s.drover j := rfl
@[simp] theorem drover_updHost (f : HostPort → HostPort) (s : State) (j : Nat) : (updHost f s).drover j = s.drover j := rfl
@[simp] theorem drover_updRecov (f : Recovery → Recovery) (s : State) (j : Nat) : (updRecov f s).drover j = s.drover j := rfl
@[simp] theorem drover_updPower (f : Power → Power) (s : State) (j : Nat) : (updPower f s).drover j = s.drover j := rfl
@[simp] theorem drover_updSec (f : Security → Security) (s : State) (j : Nat) : (updSec f s).drover j = s.drover j := rfl
@[simp] theorem drover_updMgmt (f : Mgmt → Mgmt) (s : State) (j : Nat) : (updMgmt f s).drover j = s.drover j := rfl
@[simp] theorem drover_updTally (f : Tally → Tally) (s : State) (j : Nat) : (updTally f s).drover j = s.drover j := rfl
@[simp] theorem drover_updCtxs (f : List Ctx → List Ctx) (s : State) (j : Nat) : (updCtxs f s).drover j = s.drover j := rfl
@[simp] theorem drover_updFunc (i : Nat) (f : Func → Func) (s : State) (j : Nat) : (updFunc i f s).drover j = s.drover j := rfl
@[simp] theorem drover_updMbx (i m : Nat) (f : Mailbox → Mailbox) (s : State) (j : Nat) : (updMbx i m f s).drover j = s.drover j := rfl
@[simp] theorem drover_updGate (g : Nat) (f : Gate → Gate) (s : State) (j : Nat) : (updGate g f s).drover j = s.drover j := rfl
@[simp] theorem drover_updChan (c : Nat) (f : Chan → Chan) (s : State) (j : Nat) : (updChan c f s).drover j = s.drover j := rfl
@[simp] theorem drover_updStack (i : Nat) (f : Stack → Stack) (s : State) (j : Nat) : (updStack i f s).drover j = s.drover j := rfl
@[simp] theorem drover_updPipe (i : Nat) (f : Pipe → Pipe) (s : State) (j : Nat) : (updPipe i f s).drover j = s.drover j := rfl
@[simp] theorem drover_updCtx (h : Nat) (f : Ctx → Ctx) (s : State) (j : Nat) : (updCtx h f s).drover j = s.drover j := rfl
@[simp] theorem drover_updRun (k : Nat) (f : Run → Run) (s : State) (j : Nat) : (updRun k f s).drover j = s.drover j := rfl
@[simp] theorem drover_emit (o : Output) (s : State) (j : Nat) : (emit o s).drover j = s.drover j := rfl
@[simp] theorem drover_setLead (n : Nat) (s : State) (j : Nat) : (setLead n s).drover j = s.drover j := rfl
@[simp] theorem func_updPen (i : Nat) (f : Pen → Pen) (s : State) (j : Nat) : (updPen i f s).func j = s.func j := rfl
@[simp] theorem func_updPart (k : Nat) (f : Part → Part) (s : State) (j : Nat) : (updPart k f s).func j = s.func j := rfl
@[simp] theorem func_updDrover (i : Nat) (f : Drover → Drover) (s : State) (j : Nat) : (updDrover i f s).func j = s.func j := rfl
@[simp] theorem func_updPlace (f : Placement → Placement) (s : State) (j : Nat) : (updPlace f s).func j = s.func j := rfl
@[simp] theorem func_updHbm (f : Hbm → Hbm) (s : State) (j : Nat) : (updHbm f s).func j = s.func j := rfl
@[simp] theorem func_updCodec (f : Codec → Codec) (s : State) (j : Nat) : (updCodec f s).func j = s.func j := rfl
@[simp] theorem func_updFabric (f : Fabric → Fabric) (s : State) (j : Nat) : (updFabric f s).func j = s.func j := rfl
@[simp] theorem func_updRecov (f : Recovery → Recovery) (s : State) (j : Nat) : (updRecov f s).func j = s.func j := rfl
@[simp] theorem func_updPower (f : Power → Power) (s : State) (j : Nat) : (updPower f s).func j = s.func j := rfl
@[simp] theorem func_updSec (f : Security → Security) (s : State) (j : Nat) : (updSec f s).func j = s.func j := rfl
@[simp] theorem func_updMgmt (f : Mgmt → Mgmt) (s : State) (j : Nat) : (updMgmt f s).func j = s.func j := rfl
@[simp] theorem func_updTally (f : Tally → Tally) (s : State) (j : Nat) : (updTally f s).func j = s.func j := rfl
@[simp] theorem func_updCtxs (f : List Ctx → List Ctx) (s : State) (j : Nat) : (updCtxs f s).func j = s.func j := rfl
@[simp] theorem func_updGate (g : Nat) (f : Gate → Gate) (s : State) (j : Nat) : (updGate g f s).func j = s.func j := rfl
@[simp] theorem func_updChan (c : Nat) (f : Chan → Chan) (s : State) (j : Nat) : (updChan c f s).func j = s.func j := rfl
@[simp] theorem func_updStack (i : Nat) (f : Stack → Stack) (s : State) (j : Nat) : (updStack i f s).func j = s.func j := rfl
@[simp] theorem func_updPipe (i : Nat) (f : Pipe → Pipe) (s : State) (j : Nat) : (updPipe i f s).func j = s.func j := rfl
@[simp] theorem func_updCtx (h : Nat) (f : Ctx → Ctx) (s : State) (j : Nat) : (updCtx h f s).func j = s.func j := rfl
@[simp] theorem func_updRun (k : Nat) (f : Run → Run) (s : State) (j : Nat) : (updRun k f s).func j = s.func j := rfl
@[simp] theorem func_emit (o : Output) (s : State) (j : Nat) : (emit o s).func j = s.func j := rfl
@[simp] theorem func_setLead (n : Nat) (s : State) (j : Nat) : (setLead n s).func j = s.func j := rfl
@[simp] theorem gate_updPen (i : Nat) (f : Pen → Pen) (s : State) (j : Nat) : (updPen i f s).gate j = s.gate j := rfl
@[simp] theorem gate_updPart (k : Nat) (f : Part → Part) (s : State) (j : Nat) : (updPart k f s).gate j = s.gate j := rfl
@[simp] theorem gate_updDrover (i : Nat) (f : Drover → Drover) (s : State) (j : Nat) : (updDrover i f s).gate j = s.gate j := rfl
@[simp] theorem gate_updPlace (f : Placement → Placement) (s : State) (j : Nat) : (updPlace f s).gate j = s.gate j := rfl
@[simp] theorem gate_updHbm (f : Hbm → Hbm) (s : State) (j : Nat) : (updHbm f s).gate j = s.gate j := rfl
@[simp] theorem gate_updCodec (f : Codec → Codec) (s : State) (j : Nat) : (updCodec f s).gate j = s.gate j := rfl
@[simp] theorem gate_updHost (f : HostPort → HostPort) (s : State) (j : Nat) : (updHost f s).gate j = s.gate j := rfl
@[simp] theorem gate_updRecov (f : Recovery → Recovery) (s : State) (j : Nat) : (updRecov f s).gate j = s.gate j := rfl
@[simp] theorem gate_updPower (f : Power → Power) (s : State) (j : Nat) : (updPower f s).gate j = s.gate j := rfl
@[simp] theorem gate_updSec (f : Security → Security) (s : State) (j : Nat) : (updSec f s).gate j = s.gate j := rfl
@[simp] theorem gate_updMgmt (f : Mgmt → Mgmt) (s : State) (j : Nat) : (updMgmt f s).gate j = s.gate j := rfl
@[simp] theorem gate_updTally (f : Tally → Tally) (s : State) (j : Nat) : (updTally f s).gate j = s.gate j := rfl
@[simp] theorem gate_updCtxs (f : List Ctx → List Ctx) (s : State) (j : Nat) : (updCtxs f s).gate j = s.gate j := rfl
@[simp] theorem gate_updFunc (i : Nat) (f : Func → Func) (s : State) (j : Nat) : (updFunc i f s).gate j = s.gate j := rfl
@[simp] theorem gate_updMbx (i m : Nat) (f : Mailbox → Mailbox) (s : State) (j : Nat) : (updMbx i m f s).gate j = s.gate j := rfl
@[simp] theorem gate_updChan (c : Nat) (f : Chan → Chan) (s : State) (j : Nat) : (updChan c f s).gate j = s.gate j := rfl
@[simp] theorem gate_updStack (i : Nat) (f : Stack → Stack) (s : State) (j : Nat) : (updStack i f s).gate j = s.gate j := rfl
@[simp] theorem gate_updPipe (i : Nat) (f : Pipe → Pipe) (s : State) (j : Nat) : (updPipe i f s).gate j = s.gate j := rfl
@[simp] theorem gate_updCtx (h : Nat) (f : Ctx → Ctx) (s : State) (j : Nat) : (updCtx h f s).gate j = s.gate j := rfl
@[simp] theorem gate_updRun (k : Nat) (f : Run → Run) (s : State) (j : Nat) : (updRun k f s).gate j = s.gate j := rfl
@[simp] theorem gate_emit (o : Output) (s : State) (j : Nat) : (emit o s).gate j = s.gate j := rfl
@[simp] theorem gate_setLead (n : Nat) (s : State) (j : Nat) : (setLead n s).gate j = s.gate j := rfl
@[simp] theorem stack_updPen (i : Nat) (f : Pen → Pen) (s : State) (j : Nat) : (updPen i f s).stack j = s.stack j := rfl
@[simp] theorem stack_updPart (k : Nat) (f : Part → Part) (s : State) (j : Nat) : (updPart k f s).stack j = s.stack j := rfl
@[simp] theorem stack_updDrover (i : Nat) (f : Drover → Drover) (s : State) (j : Nat) : (updDrover i f s).stack j = s.stack j := rfl
@[simp] theorem stack_updPlace (f : Placement → Placement) (s : State) (j : Nat) : (updPlace f s).stack j = s.stack j := rfl
@[simp] theorem stack_updCodec (f : Codec → Codec) (s : State) (j : Nat) : (updCodec f s).stack j = s.stack j := rfl
@[simp] theorem stack_updFabric (f : Fabric → Fabric) (s : State) (j : Nat) : (updFabric f s).stack j = s.stack j := rfl
@[simp] theorem stack_updHost (f : HostPort → HostPort) (s : State) (j : Nat) : (updHost f s).stack j = s.stack j := rfl
@[simp] theorem stack_updRecov (f : Recovery → Recovery) (s : State) (j : Nat) : (updRecov f s).stack j = s.stack j := rfl
@[simp] theorem stack_updPower (f : Power → Power) (s : State) (j : Nat) : (updPower f s).stack j = s.stack j := rfl
@[simp] theorem stack_updSec (f : Security → Security) (s : State) (j : Nat) : (updSec f s).stack j = s.stack j := rfl
@[simp] theorem stack_updMgmt (f : Mgmt → Mgmt) (s : State) (j : Nat) : (updMgmt f s).stack j = s.stack j := rfl
@[simp] theorem stack_updTally (f : Tally → Tally) (s : State) (j : Nat) : (updTally f s).stack j = s.stack j := rfl
@[simp] theorem stack_updCtxs (f : List Ctx → List Ctx) (s : State) (j : Nat) : (updCtxs f s).stack j = s.stack j := rfl
@[simp] theorem stack_updFunc (i : Nat) (f : Func → Func) (s : State) (j : Nat) : (updFunc i f s).stack j = s.stack j := rfl
@[simp] theorem stack_updMbx (i m : Nat) (f : Mailbox → Mailbox) (s : State) (j : Nat) : (updMbx i m f s).stack j = s.stack j := rfl
@[simp] theorem stack_updGate (g : Nat) (f : Gate → Gate) (s : State) (j : Nat) : (updGate g f s).stack j = s.stack j := rfl
@[simp] theorem stack_updPipe (i : Nat) (f : Pipe → Pipe) (s : State) (j : Nat) : (updPipe i f s).stack j = s.stack j := rfl
@[simp] theorem stack_updCtx (h : Nat) (f : Ctx → Ctx) (s : State) (j : Nat) : (updCtx h f s).stack j = s.stack j := rfl
@[simp] theorem stack_updRun (k : Nat) (f : Run → Run) (s : State) (j : Nat) : (updRun k f s).stack j = s.stack j := rfl
@[simp] theorem stack_emit (o : Output) (s : State) (j : Nat) : (emit o s).stack j = s.stack j := rfl
@[simp] theorem stack_setLead (n : Nat) (s : State) (j : Nat) : (setLead n s).stack j = s.stack j := rfl
@[simp] theorem chan_updPen (i : Nat) (f : Pen → Pen) (s : State) (j : Nat) : (updPen i f s).chan j = s.chan j := rfl
@[simp] theorem chan_updPart (k : Nat) (f : Part → Part) (s : State) (j : Nat) : (updPart k f s).chan j = s.chan j := rfl
@[simp] theorem chan_updDrover (i : Nat) (f : Drover → Drover) (s : State) (j : Nat) : (updDrover i f s).chan j = s.chan j := rfl
@[simp] theorem chan_updPlace (f : Placement → Placement) (s : State) (j : Nat) : (updPlace f s).chan j = s.chan j := rfl
@[simp] theorem chan_updCodec (f : Codec → Codec) (s : State) (j : Nat) : (updCodec f s).chan j = s.chan j := rfl
@[simp] theorem chan_updFabric (f : Fabric → Fabric) (s : State) (j : Nat) : (updFabric f s).chan j = s.chan j := rfl
@[simp] theorem chan_updHost (f : HostPort → HostPort) (s : State) (j : Nat) : (updHost f s).chan j = s.chan j := rfl
@[simp] theorem chan_updRecov (f : Recovery → Recovery) (s : State) (j : Nat) : (updRecov f s).chan j = s.chan j := rfl
@[simp] theorem chan_updPower (f : Power → Power) (s : State) (j : Nat) : (updPower f s).chan j = s.chan j := rfl
@[simp] theorem chan_updSec (f : Security → Security) (s : State) (j : Nat) : (updSec f s).chan j = s.chan j := rfl
@[simp] theorem chan_updMgmt (f : Mgmt → Mgmt) (s : State) (j : Nat) : (updMgmt f s).chan j = s.chan j := rfl
@[simp] theorem chan_updTally (f : Tally → Tally) (s : State) (j : Nat) : (updTally f s).chan j = s.chan j := rfl
@[simp] theorem chan_updCtxs (f : List Ctx → List Ctx) (s : State) (j : Nat) : (updCtxs f s).chan j = s.chan j := rfl
@[simp] theorem chan_updFunc (i : Nat) (f : Func → Func) (s : State) (j : Nat) : (updFunc i f s).chan j = s.chan j := rfl
@[simp] theorem chan_updMbx (i m : Nat) (f : Mailbox → Mailbox) (s : State) (j : Nat) : (updMbx i m f s).chan j = s.chan j := rfl
@[simp] theorem chan_updGate (g : Nat) (f : Gate → Gate) (s : State) (j : Nat) : (updGate g f s).chan j = s.chan j := rfl
@[simp] theorem chan_updPipe (i : Nat) (f : Pipe → Pipe) (s : State) (j : Nat) : (updPipe i f s).chan j = s.chan j := rfl
@[simp] theorem chan_updCtx (h : Nat) (f : Ctx → Ctx) (s : State) (j : Nat) : (updCtx h f s).chan j = s.chan j := rfl
@[simp] theorem chan_updRun (k : Nat) (f : Run → Run) (s : State) (j : Nat) : (updRun k f s).chan j = s.chan j := rfl
@[simp] theorem chan_emit (o : Output) (s : State) (j : Nat) : (emit o s).chan j = s.chan j := rfl
@[simp] theorem chan_setLead (n : Nat) (s : State) (j : Nat) : (setLead n s).chan j = s.chan j := rfl
@[simp] theorem pipe_updPen (i : Nat) (f : Pen → Pen) (s : State) (j : Nat) : (updPen i f s).pipe j = s.pipe j := rfl
@[simp] theorem pipe_updPart (k : Nat) (f : Part → Part) (s : State) (j : Nat) : (updPart k f s).pipe j = s.pipe j := rfl
@[simp] theorem pipe_updDrover (i : Nat) (f : Drover → Drover) (s : State) (j : Nat) : (updDrover i f s).pipe j = s.pipe j := rfl
@[simp] theorem pipe_updPlace (f : Placement → Placement) (s : State) (j : Nat) : (updPlace f s).pipe j = s.pipe j := rfl
@[simp] theorem pipe_updHbm (f : Hbm → Hbm) (s : State) (j : Nat) : (updHbm f s).pipe j = s.pipe j := rfl
@[simp] theorem pipe_updFabric (f : Fabric → Fabric) (s : State) (j : Nat) : (updFabric f s).pipe j = s.pipe j := rfl
@[simp] theorem pipe_updHost (f : HostPort → HostPort) (s : State) (j : Nat) : (updHost f s).pipe j = s.pipe j := rfl
@[simp] theorem pipe_updRecov (f : Recovery → Recovery) (s : State) (j : Nat) : (updRecov f s).pipe j = s.pipe j := rfl
@[simp] theorem pipe_updPower (f : Power → Power) (s : State) (j : Nat) : (updPower f s).pipe j = s.pipe j := rfl
@[simp] theorem pipe_updSec (f : Security → Security) (s : State) (j : Nat) : (updSec f s).pipe j = s.pipe j := rfl
@[simp] theorem pipe_updMgmt (f : Mgmt → Mgmt) (s : State) (j : Nat) : (updMgmt f s).pipe j = s.pipe j := rfl
@[simp] theorem pipe_updTally (f : Tally → Tally) (s : State) (j : Nat) : (updTally f s).pipe j = s.pipe j := rfl
@[simp] theorem pipe_updCtxs (f : List Ctx → List Ctx) (s : State) (j : Nat) : (updCtxs f s).pipe j = s.pipe j := rfl
@[simp] theorem pipe_updFunc (i : Nat) (f : Func → Func) (s : State) (j : Nat) : (updFunc i f s).pipe j = s.pipe j := rfl
@[simp] theorem pipe_updMbx (i m : Nat) (f : Mailbox → Mailbox) (s : State) (j : Nat) : (updMbx i m f s).pipe j = s.pipe j := rfl
@[simp] theorem pipe_updGate (g : Nat) (f : Gate → Gate) (s : State) (j : Nat) : (updGate g f s).pipe j = s.pipe j := rfl
@[simp] theorem pipe_updChan (c : Nat) (f : Chan → Chan) (s : State) (j : Nat) : (updChan c f s).pipe j = s.pipe j := rfl
@[simp] theorem pipe_updStack (i : Nat) (f : Stack → Stack) (s : State) (j : Nat) : (updStack i f s).pipe j = s.pipe j := rfl
@[simp] theorem pipe_updCtx (h : Nat) (f : Ctx → Ctx) (s : State) (j : Nat) : (updCtx h f s).pipe j = s.pipe j := rfl
@[simp] theorem pipe_updRun (k : Nat) (f : Run → Run) (s : State) (j : Nat) : (updRun k f s).pipe j = s.pipe j := rfl
@[simp] theorem pipe_emit (o : Output) (s : State) (j : Nat) : (emit o s).pipe j = s.pipe j := rfl
@[simp] theorem pipe_setLead (n : Nat) (s : State) (j : Nat) : (setLead n s).pipe j = s.pipe j := rfl
@[simp] theorem mbx_updPen (i : Nat) (f : Pen → Pen) (s : State) (j l : Nat) : (updPen i f s).mbx j l = s.mbx j l := rfl
@[simp] theorem mbx_updPart (k : Nat) (f : Part → Part) (s : State) (j l : Nat) : (updPart k f s).mbx j l = s.mbx j l := rfl
@[simp] theorem mbx_updDrover (i : Nat) (f : Drover → Drover) (s : State) (j l : Nat) : (updDrover i f s).mbx j l = s.mbx j l := rfl
@[simp] theorem mbx_updPlace (f : Placement → Placement) (s : State) (j l : Nat) : (updPlace f s).mbx j l = s.mbx j l := rfl
@[simp] theorem mbx_updHbm (f : Hbm → Hbm) (s : State) (j l : Nat) : (updHbm f s).mbx j l = s.mbx j l := rfl
@[simp] theorem mbx_updCodec (f : Codec → Codec) (s : State) (j l : Nat) : (updCodec f s).mbx j l = s.mbx j l := rfl
@[simp] theorem mbx_updFabric (f : Fabric → Fabric) (s : State) (j l : Nat) : (updFabric f s).mbx j l = s.mbx j l := rfl
@[simp] theorem mbx_updRecov (f : Recovery → Recovery) (s : State) (j l : Nat) : (updRecov f s).mbx j l = s.mbx j l := rfl
@[simp] theorem mbx_updPower (f : Power → Power) (s : State) (j l : Nat) : (updPower f s).mbx j l = s.mbx j l := rfl
@[simp] theorem mbx_updSec (f : Security → Security) (s : State) (j l : Nat) : (updSec f s).mbx j l = s.mbx j l := rfl
@[simp] theorem mbx_updMgmt (f : Mgmt → Mgmt) (s : State) (j l : Nat) : (updMgmt f s).mbx j l = s.mbx j l := rfl
@[simp] theorem mbx_updTally (f : Tally → Tally) (s : State) (j l : Nat) : (updTally f s).mbx j l = s.mbx j l := rfl
@[simp] theorem mbx_updCtxs (f : List Ctx → List Ctx) (s : State) (j l : Nat) : (updCtxs f s).mbx j l = s.mbx j l := rfl
@[simp] theorem mbx_updGate (g : Nat) (f : Gate → Gate) (s : State) (j l : Nat) : (updGate g f s).mbx j l = s.mbx j l := rfl
@[simp] theorem mbx_updChan (c : Nat) (f : Chan → Chan) (s : State) (j l : Nat) : (updChan c f s).mbx j l = s.mbx j l := rfl
@[simp] theorem mbx_updStack (i : Nat) (f : Stack → Stack) (s : State) (j l : Nat) : (updStack i f s).mbx j l = s.mbx j l := rfl
@[simp] theorem mbx_updPipe (i : Nat) (f : Pipe → Pipe) (s : State) (j l : Nat) : (updPipe i f s).mbx j l = s.mbx j l := rfl
@[simp] theorem mbx_updCtx (h : Nat) (f : Ctx → Ctx) (s : State) (j l : Nat) : (updCtx h f s).mbx j l = s.mbx j l := rfl
@[simp] theorem mbx_updRun (k : Nat) (f : Run → Run) (s : State) (j l : Nat) : (updRun k f s).mbx j l = s.mbx j l := rfl
@[simp] theorem mbx_emit (o : Output) (s : State) (j l : Nat) : (emit o s).mbx j l = s.mbx j l := rfl
@[simp] theorem mbx_setLead (n : Nat) (s : State) (j l : Nat) : (setLead n s).mbx j l = s.mbx j l := rfl

@[simp] theorem chan_updStack (i : Nat) (f : Stack → Stack) (s : State) (j : Nat) : (updStack i f s).chan j = s.chan j := rfl
@[simp] theorem stack_updChan (i : Nat) (f : Chan → Chan) (s : State) (j : Nat) : (updChan i f s).stack j = s.stack j := rfl

/-- A mailbox after a change of one. -/
theorem mbx_updMbx (i m : Nat) (f : Mailbox → Mailbox) (s : State) (j l : Nat) :
    (updMbx i m f s).mbx j l = if j = i ∧ l = m then f (s.mbx i m) else s.mbx j l := by
  unfold State.mbx updMbx
  rw [func_updFunc]
  by_cases hj : j = i
  · subst hj
    by_cases hl : l = m
    · subst hl; simp [tget_tupd]
    · simp [tget_tupd, hl]
  · simp [hj]

@[simp] theorem mbx_updMbx_same (i m : Nat) (f : Mailbox → Mailbox) (s : State) : (updMbx i m f s).mbx i m = f (s.mbx i m) := by
  rw [mbx_updMbx, if_pos ⟨rfl, rfl⟩]

/-- A change of a mailbox leaves what belongs to its function alone. -/
theorem func_updMbx (i m : Nat) (f : Mailbox → Mailbox) (s : State) (j : Nat) :
    ((updMbx i m f s).func j).opened = (s.func j).opened ∧ ((updMbx i m f s).func j).abi = (s.func j).abi
      ∧ ((updMbx i m f s).func j).events = (s.func j).events ∧ ((updMbx i m f s).func j).masked = (s.func j).masked
      ∧ ((updMbx i m f s).func j).pba = (s.func j).pba := by
  unfold updMbx
  rw [func_updFunc]
  split
  · rename_i h; subst h; exact ⟨rfl, rfl, rfl, rfl, rfl⟩
  · exact ⟨rfl, rfl, rfl, rfl, rfl⟩

end Sys2Proof.Machine
end

