-- ==== Sys2Proof/Laws/Mailbox.lean ====
section
/-! SUPPORT. The life of a mailbox command (R368 to R373): when it is executed, what its completion leaves in its mailbox, and what
taking the post and answering it leave alone. -/

namespace Sys2Proof.Machine

/-! ## Vectors, posts and completions leave the rest alone -/

theorem sendVector_host (f v : Nat) (s : State) : (sendVector f v s).host = s.host ∨
    (sendVector f v s).host = { s.host with funcs := tupd Func.reset s.host.funcs f fun u => { u with pba := insertSorted v u.pba } } := by
  unfold sendVector
  split
  · exact .inl rfl
  · exact .inr rfl

@[simp] theorem mbx_sendVector (f v : Nat) (s : State) (j l : Nat) : (sendVector f v s).mbx j l = s.mbx j l := by
  unfold sendVector
  split
  · rfl
  · unfold State.mbx
    rw [func_updFunc]
    split
    · rename_i h; subst h; rfl
    · rfl

@[simp] theorem sendVector_clock (f v : Nat) (s : State) : (sendVector f v s).clock = s.clock := by
  unfold sendVector; split <;> rfl

@[simp] theorem sendVector_tally (f v : Nat) (s : State) : (sendVector f v s).tally = s.tally := by
  unfold sendVector; split <;> rfl

@[simp] theorem sendVector_mode (f v : Nat) (s : State) : (sendVector f v s).mode = s.mode := by
  unfold sendVector; split <;> rfl

@[simp] theorem sendVector_pens (f v : Nat) (s : State) : (sendVector f v s).pens = s.pens := by
  unfold sendVector; split <;> rfl

@[simp] theorem sendVector_drovers (f v : Nat) (s : State) : (sendVector f v s).drovers = s.drovers := by
  unfold sendVector; split <;> rfl

@[simp] theorem sendVector_parts (f v : Nat) (s : State) : (sendVector f v s).parts = s.parts := by
  unfold sendVector; split <;> rfl

@[simp] theorem sendVector_ctxs (f v : Nat) (s : State) : (sendVector f v s).ctxs = s.ctxs := by
  unfold sendVector; split <;> rfl

@[simp] theorem sendVector_nextCtx (f v : Nat) (s : State) : (sendVector f v s).nextCtx = s.nextCtx := by
  unfold sendVector; split <;> rfl

@[simp] theorem sendVector_nextRun (f v : Nat) (s : State) : (sendVector f v s).nextRun = s.nextRun := by
  unfold sendVector; split <;> rfl

@[simp] theorem sendVector_place (f v : Nat) (s : State) : (sendVector f v s).place = s.place := by
  unfold sendVector; split <;> rfl

@[simp] theorem sendVector_hbm (f v : Nat) (s : State) : (sendVector f v s).hbm = s.hbm := by
  unfold sendVector; split <;> rfl

@[simp] theorem sendVector_codec (f v : Nat) (s : State) : (sendVector f v s).codec = s.codec := by
  unfold sendVector; split <;> rfl

@[simp] theorem sendVector_fabric (f v : Nat) (s : State) : (sendVector f v s).fabric = s.fabric := by
  unfold sendVector; split <;> rfl

@[simp] theorem sendVector_recov (f v : Nat) (s : State) : (sendVector f v s).recov = s.recov := by
  unfold sendVector; split <;> rfl

@[simp] theorem sendVector_power (f v : Nat) (s : State) : (sendVector f v s).power = s.power := by
  unfold sendVector; split <;> rfl

@[simp] theorem sendVector_sec (f v : Nat) (s : State) : (sendVector f v s).sec = s.sec := by
  unfold sendVector; split <;> rfl

@[simp] theorem sendVector_mgmt (f v : Nat) (s : State) : (sendVector f v s).mgmt = s.mgmt := by
  unfold sendVector; split <;> rfl

@[simp] theorem sendVector_free (f v : Nat) (s : State) : (sendVector f v s).free = s.free := by
  unfold sendVector; split <;> rfl

@[simp] theorem sendVector_pending (f v : Nat) (s : State) : (sendVector f v s).pending = s.pending := by
  unfold sendVector; split <;> rfl

@[simp] theorem sendVector_progs (f v : Nat) (s : State) : (sendVector f v s).host.progs = s.host.progs := by
  unfold sendVector; split <;> rfl

@[simp] theorem writeCompletion_clock (p : Post) (st : Nat) (r : List Byte) (a b c : Nat) (d : Bool) (s : State) :
    (writeCompletion p st r a b c d s).clock = s.clock := by
  unfold writeCompletion; dsimp only; split <;> simp

@[simp] theorem writeCompletion_tally (p : Post) (st : Nat) (r : List Byte) (a b c : Nat) (d : Bool) (s : State) :
    (writeCompletion p st r a b c d s).tally = s.tally := by
  unfold writeCompletion; dsimp only; split <;> simp

@[simp] theorem writeCompletion_mode (p : Post) (st : Nat) (r : List Byte) (a b c : Nat) (d : Bool) (s : State) :
    (writeCompletion p st r a b c d s).mode = s.mode := by
  unfold writeCompletion; dsimp only; split <;> simp

@[simp] theorem writeCompletion_pens (p : Post) (st : Nat) (r : List Byte) (a b c : Nat) (d : Bool) (s : State) :
    (writeCompletion p st r a b c d s).pens = s.pens := by
  unfold writeCompletion; dsimp only; split <;> simp

@[simp] theorem writeCompletion_drovers (p : Post) (st : Nat) (r : List Byte) (a b c : Nat) (d : Bool) (s : State) :
    (writeCompletion p st r a b c d s).drovers = s.drovers := by
  unfold writeCompletion; dsimp only; split <;> simp

@[simp] theorem writeCompletion_parts (p : Post) (st : Nat) (r : List Byte) (a b c : Nat) (d : Bool) (s : State) :
    (writeCompletion p st r a b c d s).parts = s.parts := by
  unfold writeCompletion; dsimp only; split <;> simp

@[simp] theorem writeCompletion_ctxs (p : Post) (st : Nat) (r : List Byte) (a b c : Nat) (d : Bool) (s : State) :
    (writeCompletion p st r a b c d s).ctxs = s.ctxs := by
  unfold writeCompletion; dsimp only; split <;> simp

@[simp] theorem writeCompletion_nextCtx (p : Post) (st : Nat) (r : List Byte) (a b c : Nat) (d : Bool) (s : State) :
    (writeCompletion p st r a b c d s).nextCtx = s.nextCtx := by
  unfold writeCompletion; dsimp only; split <;> simp

@[simp] theorem writeCompletion_nextRun (p : Post) (st : Nat) (r : List Byte) (a b c : Nat) (d : Bool) (s : State) :
    (writeCompletion p st r a b c d s).nextRun = s.nextRun := by
  unfold writeCompletion; dsimp only; split <;> simp

@[simp] theorem writeCompletion_place (p : Post) (st : Nat) (r : List Byte) (a b c : Nat) (d : Bool) (s : State) :
    (writeCompletion p st r a b c d s).place = s.place := by
  unfold writeCompletion; dsimp only; split <;> simp

@[simp] theorem writeCompletion_hbm (p : Post) (st : Nat) (r : List Byte) (a b c : Nat) (d : Bool) (s : State) :
    (writeCompletion p st r a b c d s).hbm = s.hbm := by
  unfold writeCompletion; dsimp only; split <;> simp

@[simp] theorem writeCompletion_codec (p : Post) (st : Nat) (r : List Byte) (a b c : Nat) (d : Bool) (s : State) :
    (writeCompletion p st r a b c d s).codec = s.codec := by
  unfold writeCompletion; dsimp only; split <;> simp

@[simp] theorem writeCompletion_fabric (p : Post) (st : Nat) (r : List Byte) (a b c : Nat) (d : Bool) (s : State) :
    (writeCompletion p st r a b c d s).fabric = s.fabric := by
  unfold writeCompletion; dsimp only; split <;> simp

@[simp] theorem writeCompletion_recov (p : Post) (st : Nat) (r : List Byte) (a b c : Nat) (d : Bool) (s : State) :
    (writeCompletion p st r a b c d s).recov = s.recov := by
  unfold writeCompletion; dsimp only; split <;> simp

@[simp] theorem writeCompletion_power (p : Post) (st : Nat) (r : List Byte) (a b c : Nat) (d : Bool) (s : State) :
    (writeCompletion p st r a b c d s).power = s.power := by
  unfold writeCompletion; dsimp only; split <;> simp

@[simp] theorem writeCompletion_sec (p : Post) (st : Nat) (r : List Byte) (a b c : Nat) (d : Bool) (s : State) :
    (writeCompletion p st r a b c d s).sec = s.sec := by
  unfold writeCompletion; dsimp only; split <;> simp

@[simp] theorem writeCompletion_mgmt (p : Post) (st : Nat) (r : List Byte) (a b c : Nat) (d : Bool) (s : State) :
    (writeCompletion p st r a b c d s).mgmt = s.mgmt := by
  unfold writeCompletion; dsimp only; split <;> simp

@[simp] theorem writeCompletion_free (p : Post) (st : Nat) (r : List Byte) (a b c : Nat) (d : Bool) (s : State) :
    (writeCompletion p st r a b c d s).free = s.free := by
  unfold writeCompletion; dsimp only; split <;> simp

@[simp] theorem writeCompletion_pending (p : Post) (st : Nat) (r : List Byte) (a b c : Nat) (d : Bool) (s : State) :
    (writeCompletion p st r a b c d s).pending = s.pending := by
  unfold writeCompletion; dsimp only; split <;> simp

@[simp] theorem writeCompletion_progs (p : Post) (st : Nat) (r : List Byte) (a b c : Nat) (d : Bool) (s : State) :
    (writeCompletion p st r a b c d s).host.progs = s.host.progs := by
  unfold writeCompletion; dsimp only; split <;> simp [updMbx, updFunc]

/-- The mailbox that a completion is written into (R367). -/
theorem mbx_writeCompletion (p : Post) (st : Nat) (r : List Byte) (a b c : Nat) (d : Bool) (s : State) :
    (writeCompletion p st r a b c d s).mbx p.func p.mbx =
      { s.mbx p.func p.mbx with
        data := putBytes (s.mbx p.func p.mbx).data 0 (padTo (8 * ceilDiv r.length 8) r)
        rlen := ceilDiv r.length 8
        sampled := a
        done := b
        due := c
        complete := p.seq + 65536 * st
        busy := !d } := by
  unfold writeCompletion; dsimp only; split <;> simp

/-- Every other mailbox is left alone. -/
theorem mbx_writeCompletion_other (p : Post) (st : Nat) (r : List Byte) (a b c : Nat) (d : Bool) (s : State) (f m : Nat)
    (h : ¬(f = p.func ∧ m = p.mbx)) : (writeCompletion p st r a b c d s).mbx f m = s.mbx f m := by
  unfold writeCompletion; dsimp only; split <;> simp [mbx_updMbx, h]

/-! ## Taking a post -/

@[simp] theorem taken_tally (p : Post) (s : State) : (taken p s).tally = s.tally := rfl
@[simp] theorem taken_mode (p : Post) (s : State) : (taken p s).mode = s.mode := rfl
@[simp] theorem taken_pens (p : Post) (s : State) : (taken p s).pens = s.pens := rfl
@[simp] theorem taken_drovers (p : Post) (s : State) : (taken p s).drovers = s.drovers := rfl
@[simp] theorem taken_parts (p : Post) (s : State) : (taken p s).parts = s.parts := rfl
@[simp] theorem taken_ctxs (p : Post) (s : State) : (taken p s).ctxs = s.ctxs := rfl
@[simp] theorem taken_nextCtx (p : Post) (s : State) : (taken p s).nextCtx = s.nextCtx := rfl
@[simp] theorem taken_nextRun (p : Post) (s : State) : (taken p s).nextRun = s.nextRun := rfl
@[simp] theorem taken_place (p : Post) (s : State) : (taken p s).place = s.place := rfl
@[simp] theorem taken_hbm (p : Post) (s : State) : (taken p s).hbm = s.hbm := rfl
@[simp] theorem taken_codec (p : Post) (s : State) : (taken p s).codec = s.codec := rfl
@[simp] theorem taken_fabric (p : Post) (s : State) : (taken p s).fabric = s.fabric := rfl
@[simp] theorem taken_recov (p : Post) (s : State) : (taken p s).recov = s.recov := rfl
@[simp] theorem taken_power (p : Post) (s : State) : (taken p s).power = s.power := rfl
@[simp] theorem taken_sec (p : Post) (s : State) : (taken p s).sec = s.sec := rfl
@[simp] theorem taken_mgmt (p : Post) (s : State) : (taken p s).mgmt = s.mgmt := rfl
@[simp] theorem taken_free (p : Post) (s : State) : (taken p s).free = s.free := rfl
@[simp] theorem taken_pending (p : Post) (s : State) : (taken p s).pending = s.pending := rfl
@[simp] theorem taken_beat (p : Post) (s : State) : (taken p s).clock.beat = s.clock.beat := rfl
@[simp] theorem taken_out (p : Post) (s : State) : (taken p s).out = s.out := rfl
@[simp] theorem taken_progs (p : Post) (s : State) : (taken p s).host.progs = s.host.progs := rfl
@[simp] theorem now_taken (p : Post) (s : State) : now (taken p s) = s.clock.beat + 1 := rfl
@[simp] theorem taken_pen (p : Post) (s : State) (i : Nat) : (taken p s).pen i = s.pen i := rfl
@[simp] theorem taken_part (p : Post) (s : State) (k : Nat) : (taken p s).part k = s.part k := rfl
@[simp] theorem taken_drover (p : Post) (s : State) (i : Nat) : (taken p s).drover i = s.drover i := rfl
@[simp] theorem taken_gate (p : Post) (s : State) (g : Nat) : (taken p s).gate g = s.gate g := rfl
@[simp] theorem taken_stack (p : Post) (s : State) (i : Nat) : (taken p s).stack i = s.stack i := rfl
@[simp] theorem taken_chan (p : Post) (s : State) (i : Nat) : (taken p s).chan i = s.chan i := rfl
@[simp] theorem taken_pipe (p : Post) (s : State) (i : Nat) : (taken p s).pipe i = s.pipe i := rfl
@[simp] theorem taken_ctxOf (p : Post) (s : State) (h : Nat) : ctxOf (taken p s) h = ctxOf s h := rfl
@[simp] theorem taken_checkCtx (p q : Post) (s : State) (h : Nat) : checkCtx q h (taken p s) = checkCtx q h s := rfl

theorem Posts.sampling {p : Post} {r : CmdRow} {n : Nat} {s : State} (h : Posts p r n s) : sampling p s = true := by
  have := h.free
  simp only [Machine.sampling, mailboxIdle, h.ready, h.idle]
  rcases this with h1 | h1 <;> simp [h1]

theorem Posts.common {p : Post} {r : CmdRow} {n : Nat} {s : State} (h : Posts p r n s) : commonCheck p r n s = none := by
  have e1 := h.seq
  have e2 := h.len
  have e3 := h.fits
  have hr := h.running
  have hp := h.permitted
  have hv := h.vf
  have ho := h.opened
  have hx := h.partition
  have hi : ((s.sec.entries.getLast?.map (·.target) == some 4) && !scrappedAllows r.opcode) = false := by
    have := h.inUse
    cases hc : scrappedAllows r.opcode <;> simp_all
  have ha : abiAdmits s p r = true := by
    have := h.version
    simp only [abiAdmits]
    cases hv2 : r.v2 <;> cases h2 : (s.func p.func).opened <;> simp_all
  have hpart : openless r = false → p.func ≠ 0 → partExists s (p.func - 1) = true := by
    intro ho hf; simpa [partExists, postTarget, hf] using hx (.inr ho)
  have hpart0 : p.func = 0 → partExists s p.part = true := by
    intro hf; simpa [partExists, postTarget, hf] using hx (.inl hf)
  unfold commonCheck
  rw [hi, ha]
  simp only [e1, e2, h.plain]
  by_cases hf : p.func = 0
  · have := hpart0 hf
    cases hw : r.wide <;> cases hl : openless r <;> simp_all
  · have hr0 : r.pf0 = false := by cases hb : r.pf0 <;> simp_all
    cases hw : r.wide <;> cases hl : openless r <;> simp_all

/-- A post that passes the checks of R369 is executed by its command's own part (R368, R371). -/
theorem mailbox_of_posts {p : Post} {r : CmdRow} {n : Nat} {s : State} (h : Posts p r n s) (body : State → Reply) :
    mailbox p r n body s = setLead 0 (answer p (body (taken p s))) := by
  unfold mailbox taken
  rw [h.sampling, h.common]
  rfl

/-- A post into a mailbox that is not idle, or before readiness, changes nothing (log 40). -/
theorem mailbox_unsampled {p : Post} {r : CmdRow} {n : Nat} {s : State} (h : sampling p s = false) (body : State → Reply) :
    mailbox p r n body s = s := by
  unfold mailbox
  rw [h]
  rfl

/-! ## Answers -/

@[simp] theorem completeNow_clock (p : Post) (st : Nat) (r : List Byte) (s : State) : (completeNow p st r s).clock = s.clock := by
  simp [completeNow]

@[simp] theorem completeNow_tally (p : Post) (st : Nat) (r : List Byte) (s : State) : (completeNow p st r s).tally = s.tally := by
  simp [completeNow]

@[simp] theorem completeNow_mode (p : Post) (st : Nat) (r : List Byte) (s : State) : (completeNow p st r s).mode = s.mode := by
  simp [completeNow]

@[simp] theorem completeNow_pens (p : Post) (st : Nat) (r : List Byte) (s : State) : (completeNow p st r s).pens = s.pens := by
  simp [completeNow]

@[simp] theorem completeNow_drovers (p : Post) (st : Nat) (r : List Byte) (s : State) : (completeNow p st r s).drovers = s.drovers := by
  simp [completeNow]

@[simp] theorem completeNow_parts (p : Post) (st : Nat) (r : List Byte) (s : State) : (completeNow p st r s).parts = s.parts := by
  simp [completeNow]

@[simp] theorem completeNow_ctxs (p : Post) (st : Nat) (r : List Byte) (s : State) : (completeNow p st r s).ctxs = s.ctxs := by
  simp [completeNow]

@[simp] theorem completeNow_nextCtx (p : Post) (st : Nat) (r : List Byte) (s : State) : (completeNow p st r s).nextCtx = s.nextCtx := by
  simp [completeNow]

@[simp] theorem completeNow_nextRun (p : Post) (st : Nat) (r : List Byte) (s : State) : (completeNow p st r s).nextRun = s.nextRun := by
  simp [completeNow]

@[simp] theorem completeNow_place (p : Post) (st : Nat) (r : List Byte) (s : State) : (completeNow p st r s).place = s.place := by
  simp [completeNow]

@[simp] theorem completeNow_hbm (p : Post) (st : Nat) (r : List Byte) (s : State) : (completeNow p st r s).hbm = s.hbm := by
  simp [completeNow]

@[simp] theorem completeNow_codec (p : Post) (st : Nat) (r : List Byte) (s : State) : (completeNow p st r s).codec = s.codec := by
  simp [completeNow]

@[simp] theorem completeNow_fabric (p : Post) (st : Nat) (r : List Byte) (s : State) : (completeNow p st r s).fabric = s.fabric := by
  simp [completeNow]

@[simp] theorem completeNow_recov (p : Post) (st : Nat) (r : List Byte) (s : State) : (completeNow p st r s).recov = s.recov := by
  simp [completeNow]

@[simp] theorem completeNow_power (p : Post) (st : Nat) (r : List Byte) (s : State) : (completeNow p st r s).power = s.power := by
  simp [completeNow]

@[simp] theorem completeNow_sec (p : Post) (st : Nat) (r : List Byte) (s : State) : (completeNow p st r s).sec = s.sec := by
  simp [completeNow]

@[simp] theorem completeNow_mgmt (p : Post) (st : Nat) (r : List Byte) (s : State) : (completeNow p st r s).mgmt = s.mgmt := by
  simp [completeNow]

@[simp] theorem completeNow_free (p : Post) (st : Nat) (r : List Byte) (s : State) : (completeNow p st r s).free = s.free := by
  simp [completeNow]

@[simp] theorem completeNow_pending (p : Post) (st : Nat) (r : List Byte) (s : State) : (completeNow p st r s).pending = s.pending := by
  simp [completeNow]

@[simp] theorem answer_clock (p : Post) (r : Reply) : (answer p r).clock = r.state.clock := by
  cases r <;> simp [answer, Reply.state]

@[simp] theorem answer_tally (p : Post) (r : Reply) : (answer p r).tally = r.state.tally := by
  cases r <;> simp [answer, Reply.state]

@[simp] theorem answer_mode (p : Post) (r : Reply) : (answer p r).mode = r.state.mode := by
  cases r <;> simp [answer, Reply.state]

@[simp] theorem answer_pens (p : Post) (r : Reply) : (answer p r).pens = r.state.pens := by
  cases r <;> simp [answer, Reply.state]

@[simp] theorem answer_drovers (p : Post) (r : Reply) : (answer p r).drovers = r.state.drovers := by
  cases r <;> simp [answer, Reply.state]

@[simp] theorem answer_parts (p : Post) (r : Reply) : (answer p r).parts = r.state.parts := by
  cases r <;> simp [answer, Reply.state]

@[simp] theorem answer_ctxs (p : Post) (r : Reply) : (answer p r).ctxs = r.state.ctxs := by
  cases r <;> simp [answer, Reply.state]

@[simp] theorem answer_nextCtx (p : Post) (r : Reply) : (answer p r).nextCtx = r.state.nextCtx := by
  cases r <;> simp [answer, Reply.state]

@[simp] theorem answer_nextRun (p : Post) (r : Reply) : (answer p r).nextRun = r.state.nextRun := by
  cases r <;> simp [answer, Reply.state]

@[simp] theorem answer_place (p : Post) (r : Reply) : (answer p r).place = r.state.place := by
  cases r <;> simp [answer, Reply.state]

@[simp] theorem answer_hbm (p : Post) (r : Reply) : (answer p r).hbm = r.state.hbm := by
  cases r <;> simp [answer, Reply.state]

@[simp] theorem answer_codec (p : Post) (r : Reply) : (answer p r).codec = r.state.codec := by
  cases r <;> simp [answer, Reply.state]

@[simp] theorem answer_fabric (p : Post) (r : Reply) : (answer p r).fabric = r.state.fabric := by
  cases r <;> simp [answer, Reply.state]

@[simp] theorem answer_recov (p : Post) (r : Reply) : (answer p r).recov = r.state.recov := by
  cases r <;> simp [answer, Reply.state]

@[simp] theorem answer_power (p : Post) (r : Reply) : (answer p r).power = r.state.power := by
  cases r <;> simp [answer, Reply.state]

@[simp] theorem answer_sec (p : Post) (r : Reply) : (answer p r).sec = r.state.sec := by
  cases r <;> simp [answer, Reply.state]

@[simp] theorem answer_mgmt (p : Post) (r : Reply) : (answer p r).mgmt = r.state.mgmt := by
  cases r <;> simp [answer, Reply.state]

@[simp] theorem answer_free (p : Post) (r : Reply) : (answer p r).free = r.state.free := by
  cases r <;> simp [answer, Reply.state]

@[simp] theorem answer_pending (p : Post) (r : Reply) : (answer p r).pending = r.state.pending := by
  cases r <;> simp [answer, Reply.state]

theorem padTo_length (n : Nat) (l : List Byte) : (padTo n l).length = n := by
  simp only [padTo, zeros, List.length_append, List.length_take, List.length_replicate]
  omega

theorem ceilDiv_covers (n : Nat) : n ≤ 8 * ceilDiv n 8 := by
  unfold ceilDiv
  omega

/-- The bytes that a write leaves read back. -/
theorem bytesAt_putBytes (t : Table Byte) (d : List Byte) (n : Nat) (h : n ≤ d.length) : bytesAt (putBytes t 0 d) 0 n = d.take n := by
  unfold bytesAt
  apply List.ext_getElem
  · simp only [List.length_map, List.length_range, List.length_take]; omega
  · intro i h1 h2
    simp only [List.length_map, List.length_range] at h1
    simp only [List.getElem_map, List.getElem_range, List.getElem_take]
    unfold window
    have hin : (decide (0 ≤ 0 + i) && decide (0 + i < 0 + n)) = true := by simp [h1]
    rw [tget_filter 0 (fun k => decide (0 ≤ k) && decide (k < 0 + n)) (0 + i) hin, tget_putBytes, if_pos (by omega)]
    have hd : i < d.length := by omega
    simp [hd]

/-- A final completion (R367, R370, R371). -/
theorem completed_answer {p : Post} {st : Nat} {res : List Byte} {s u : State} (hb : u.clock.beat = s.clock.beat) :
    Completed p st res s (setLead 0 (answer p (.done st res u))) := by
  have hm : (setLead 0 (answer p (.done st res u))).mbx p.func p.mbx = (completeNow p st res u).mbx p.func p.mbx := rfl
  have hl : res.length ≤ (padTo (8 * ceilDiv res.length 8) res).length := by
    rw [padTo_length]; exact ceilDiv_covers _
  refine ⟨?_, ?_, ?_, ?_, ?_, ?_⟩ <;> rw [hm, completeNow, mbx_writeCompletion] <;> simp [hb]
  rw [bytesAt_putBytes _ _ _ hl]
  have hc := ceilDiv_covers res.length
  simp [padTo, List.take_of_length_le hc]

/-- An ACCEPTED completion (R370, R371). -/
theorem accepted_answer {p : Post} {due : Option Nat} {res : List Byte} {c k : Nat} {j : Job} {s u : State}
    (hb : u.clock.beat = s.clock.beat) : Accepted p due c k j s (setLead 0 (answer p (.accept due res c k j u))) := by
  have hm : (setLead 0 (answer p (.accept due res c k j u))).mbx p.func p.mbx =
      (writeCompletion p stAccepted res u.clock.beat (u.clock.beat + 1) (due.getD noDue) false u).mbx p.func p.mbx := rfl
  refine ⟨?_, ?_, ?_, ?_, ?_, ?_⟩
  rotate_right
  · simp [answer, hb]
  all_goals rw [hm, mbx_writeCompletion] <;> simp [hb]

/-- A command that its own part completes at once. -/
theorem mailbox_finish {p : Post} {r : CmdRow} {n : Nat} {s u : State} {body : State → Reply} {st : Nat} {res : List Byte}
    (h : Posts p r n s) (hb : body (taken p s) = .done st res u) : mailbox p r n body s = finish p st res u := by
  rw [mailbox_of_posts h, hb]
  rfl

/-- A command that its own part accepts. -/
theorem mailbox_start {p : Post} {r : CmdRow} {n : Nat} {s u : State} {body : State → Reply} {due : Option Nat} {res : List Byte}
    {c k : Nat} {j : Job} (h : Posts p r n s) (hb : body (taken p s) = .accept due res c k j u) :
    mailbox p r n body s = start p due res c k j u := by
  rw [mailbox_of_posts h, hb]
  rfl

theorem finish_completed {p : Post} {st : Nat} {res : List Byte} {s u : State} (hb : u.clock.beat = s.clock.beat) :
    Completed p st res s (finish p st res u) := completed_answer hb

theorem start_accepted {p : Post} {due : Option Nat} {res : List Byte} {c k : Nat} {j : Job} {s u : State}
    (hb : u.clock.beat = s.clock.beat) : Accepted p due c k j s (start p due res c k j u) := accepted_answer hb

/-- A command of a registered context (R362, R409). -/
theorem withCtx_ok {p : Post} {h : Nat} {c : Ctx} {s : State} (e : checkCtx p h s = .ok c) (k : Ctx → State → Reply) :
    withCtx p h k (taken p s) = k c (taken p s) := by
  unfold withCtx
  rw [taken_checkCtx, e]

@[simp] theorem finish_tally (p : Post) (st : Nat) (r : List Byte) (u : State) : (finish p st r u).tally = u.tally := by
  simp [finish, Reply.state]

@[simp] theorem finish_mode (p : Post) (st : Nat) (r : List Byte) (u : State) : (finish p st r u).mode = u.mode := by
  simp [finish, Reply.state]

@[simp] theorem finish_pens (p : Post) (st : Nat) (r : List Byte) (u : State) : (finish p st r u).pens = u.pens := by
  simp [finish, Reply.state]

@[simp] theorem finish_drovers (p : Post) (st : Nat) (r : List Byte) (u : State) : (finish p st r u).drovers = u.drovers := by
  simp [finish, Reply.state]

@[simp] theorem finish_parts (p : Post) (st : Nat) (r : List Byte) (u : State) : (finish p st r u).parts = u.parts := by
  simp [finish, Reply.state]

@[simp] theorem finish_ctxs (p : Post) (st : Nat) (r : List Byte) (u : State) : (finish p st r u).ctxs = u.ctxs := by
  simp [finish, Reply.state]

@[simp] theorem finish_nextCtx (p : Post) (st : Nat) (r : List Byte) (u : State) : (finish p st r u).nextCtx = u.nextCtx := by
  simp [finish, Reply.state]

@[simp] theorem finish_nextRun (p : Post) (st : Nat) (r : List Byte) (u : State) : (finish p st r u).nextRun = u.nextRun := by
  simp [finish, Reply.state]

@[simp] theorem finish_place (p : Post) (st : Nat) (r : List Byte) (u : State) : (finish p st r u).place = u.place := by
  simp [finish, Reply.state]

@[simp] theorem finish_hbm (p : Post) (st : Nat) (r : List Byte) (u : State) : (finish p st r u).hbm = u.hbm := by
  simp [finish, Reply.state]

@[simp] theorem finish_codec (p : Post) (st : Nat) (r : List Byte) (u : State) : (finish p st r u).codec = u.codec := by
  simp [finish, Reply.state]

@[simp] theorem finish_fabric (p : Post) (st : Nat) (r : List Byte) (u : State) : (finish p st r u).fabric = u.fabric := by
  simp [finish, Reply.state]

@[simp] theorem finish_recov (p : Post) (st : Nat) (r : List Byte) (u : State) : (finish p st r u).recov = u.recov := by
  simp [finish, Reply.state]

@[simp] theorem finish_power (p : Post) (st : Nat) (r : List Byte) (u : State) : (finish p st r u).power = u.power := by
  simp [finish, Reply.state]

@[simp] theorem finish_sec (p : Post) (st : Nat) (r : List Byte) (u : State) : (finish p st r u).sec = u.sec := by
  simp [finish, Reply.state]

@[simp] theorem finish_mgmt (p : Post) (st : Nat) (r : List Byte) (u : State) : (finish p st r u).mgmt = u.mgmt := by
  simp [finish, Reply.state]

@[simp] theorem finish_free (p : Post) (st : Nat) (r : List Byte) (u : State) : (finish p st r u).free = u.free := by
  simp [finish, Reply.state]

@[simp] theorem finish_pending (p : Post) (st : Nat) (r : List Byte) (u : State) : (finish p st r u).pending = u.pending := by
  simp [finish, Reply.state]

@[simp] theorem start_tally (p : Post) (d : Option Nat) (r : List Byte) (c k : Nat) (j : Job) (u : State) :
    (start p d r c k j u).tally = u.tally := by
  simp [start, Reply.state]

@[simp] theorem start_mode (p : Post) (d : Option Nat) (r : List Byte) (c k : Nat) (j : Job) (u : State) :
    (start p d r c k j u).mode = u.mode := by
  simp [start, Reply.state]

@[simp] theorem start_pens (p : Post) (d : Option Nat) (r : List Byte) (c k : Nat) (j : Job) (u : State) :
    (start p d r c k j u).pens = u.pens := by
  simp [start, Reply.state]

@[simp] theorem start_drovers (p : Post) (d : Option Nat) (r : List Byte) (c k : Nat) (j : Job) (u : State) :
    (start p d r c k j u).drovers = u.drovers := by
  simp [start, Reply.state]

@[simp] theorem start_parts (p : Post) (d : Option Nat) (r : List Byte) (c k : Nat) (j : Job) (u : State) :
    (start p d r c k j u).parts = u.parts := by
  simp [start, Reply.state]

@[simp] theorem start_ctxs (p : Post) (d : Option Nat) (r : List Byte) (c k : Nat) (j : Job) (u : State) :
    (start p d r c k j u).ctxs = u.ctxs := by
  simp [start, Reply.state]

@[simp] theorem start_nextCtx (p : Post) (d : Option Nat) (r : List Byte) (c k : Nat) (j : Job) (u : State) :
    (start p d r c k j u).nextCtx = u.nextCtx := by
  simp [start, Reply.state]

@[simp] theorem start_nextRun (p : Post) (d : Option Nat) (r : List Byte) (c k : Nat) (j : Job) (u : State) :
    (start p d r c k j u).nextRun = u.nextRun := by
  simp [start, Reply.state]

@[simp] theorem start_place (p : Post) (d : Option Nat) (r : List Byte) (c k : Nat) (j : Job) (u : State) :
    (start p d r c k j u).place = u.place := by
  simp [start, Reply.state]

@[simp] theorem start_hbm (p : Post) (d : Option Nat) (r : List Byte) (c k : Nat) (j : Job) (u : State) :
    (start p d r c k j u).hbm = u.hbm := by
  simp [start, Reply.state]

@[simp] theorem start_codec (p : Post) (d : Option Nat) (r : List Byte) (c k : Nat) (j : Job) (u : State) :
    (start p d r c k j u).codec = u.codec := by
  simp [start, Reply.state]

@[simp] theorem start_fabric (p : Post) (d : Option Nat) (r : List Byte) (c k : Nat) (j : Job) (u : State) :
    (start p d r c k j u).fabric = u.fabric := by
  simp [start, Reply.state]

@[simp] theorem start_recov (p : Post) (d : Option Nat) (r : List Byte) (c k : Nat) (j : Job) (u : State) :
    (start p d r c k j u).recov = u.recov := by
  simp [start, Reply.state]

@[simp] theorem start_power (p : Post) (d : Option Nat) (r : List Byte) (c k : Nat) (j : Job) (u : State) :
    (start p d r c k j u).power = u.power := by
  simp [start, Reply.state]

@[simp] theorem start_sec (p : Post) (d : Option Nat) (r : List Byte) (c k : Nat) (j : Job) (u : State) :
    (start p d r c k j u).sec = u.sec := by
  simp [start, Reply.state]

@[simp] theorem start_mgmt (p : Post) (d : Option Nat) (r : List Byte) (c k : Nat) (j : Job) (u : State) :
    (start p d r c k j u).mgmt = u.mgmt := by
  simp [start, Reply.state]

@[simp] theorem start_free (p : Post) (d : Option Nat) (r : List Byte) (c k : Nat) (j : Job) (u : State) :
    (start p d r c k j u).free = u.free := by
  simp [start, Reply.state]

@[simp] theorem start_pending (p : Post) (d : Option Nat) (r : List Byte) (c k : Nat) (j : Job) (u : State) :
    (start p d r c k j u).pending = u.pending := by
  simp [start, Reply.state]

end Sys2Proof.Machine
end

