-- ==== Sys2Proof/Laws/Payload.lean ====
section
/-! SUPPORT. Payloads read back as they are written: fields and gaps of a layout, bytes and numbers, and the lists of RUN.SUBMIT,
TIER.CONFIG and FABRIC.ROUTE. -/

namespace Sys2Proof.Machine

/-- Every named field of a layout has a value that fits it, and no value is left over. -/
def fieldsFit : List Piece → List Nat → Bool
  | [], v => v.isEmpty
  | p :: l, v =>
    if p.named then match v with
      | x :: t => decide (x < 2 ^ p.width) && fieldsFit l t
      | [] => false
    else fieldsFit l v

theorem readFields_writeFields : ∀ (l : List Piece) (v : List Nat), fieldsFit l v = true → readFields l (writeFields l v) = v
  | [], v, h => by
    cases v with
    | nil => rfl
    | cons a t => simp [fieldsFit] at h
  | p :: l, v, h => by
    have hw : 0 < 2 ^ p.width := Nat.two_pow_pos _
    by_cases hn : p.named = true
    · cases v with
      | nil => simp [fieldsFit, hn] at h
      | cons x t =>
        simp only [fieldsFit, hn, if_true, Bool.and_eq_true, decide_eq_true_eq] at h
        have e := readFields_writeFields l t h.2
        simp only [readFields, writeFields, hn, if_true, List.headD_cons, List.tail_cons, Nat.mod_eq_of_lt h.1]
        rw [Nat.add_mul_mod_self_left, Nat.mod_eq_of_lt h.1, Nat.add_mul_div_left _ _ hw, Nat.div_eq_of_lt h.1, Nat.zero_add, e]
    · simp only [fieldsFit, hn, if_false, Bool.false_eq_true] at h
      have e := readFields_writeFields l v h
      simp only [readFields, writeFields, hn, if_false, Bool.false_eq_true]
      rw [Nat.mul_div_cancel_left _ hw, e]

theorem gapsSet_writeFields : ∀ (l : List Piece) (v : List Nat), gapsSet l (writeFields l v) = false
  | [], _ => rfl
  | p :: l, v => by
    have hw : 0 < 2 ^ p.width := Nat.two_pow_pos _
    by_cases hn : p.named = true
    · simp only [gapsSet, writeFields, hn, if_true, Bool.not_true, Bool.false_and, Bool.false_or]
      rw [Nat.add_mul_div_left _ _ hw, Nat.div_eq_of_lt (Nat.mod_lt _ hw), Nat.zero_add, gapsSet_writeFields]
    · have hf : p.named = false := by simpa using hn
      simp only [gapsSet, writeFields, hf, Bool.false_eq_true, if_false, Bool.not_false, Bool.true_and, Nat.mul_mod_right,
        Nat.mul_div_cancel_left _ hw, gapsSet_writeFields, Bool.or_false, bne_self_eq_false]

theorem writeFields_lt : ∀ (l : List Piece) (v : List Nat), writeFields l v < 2 ^ layoutBits l
  | [], _ => Nat.one_pos
  | p :: l, v => by
    have hw : 0 < 2 ^ p.width := Nat.two_pow_pos _
    have e : layoutBits (p :: l) = p.width + layoutBits l := by simp [layoutBits]
    rw [e, Nat.pow_add]
    simp only [writeFields]
    split
    · have h1 := Nat.mod_lt (v.headD 0) hw
      have h2 := writeFields_lt l v.tail
      have h3 := Nat.mul_le_mul_left (2 ^ p.width) (Nat.succ_le_of_lt h2)
      rw [Nat.mul_succ] at h3
      omega
    · exact Nat.mul_lt_mul_of_pos_left (writeFields_lt l v) hw

/-- Fields before a split are read from the number's low part. -/
theorem writeFields_append : ∀ (l m : List Piece) (v : List Nat), ∃ n, writeFields (l ++ m) v = writeFields l v + 2 ^ layoutBits l * n
  | [], m, v => ⟨writeFields m v, by simp [writeFields, layoutBits]⟩
  | p :: l, m, v => by
    have e : layoutBits (p :: l) = p.width + layoutBits l := by simp [layoutBits]
    simp only [List.cons_append, writeFields]
    split
    · obtain ⟨n, h⟩ := writeFields_append l m v.tail
      exact ⟨n, by rw [h, e, Nat.pow_add, Nat.mul_add, Nat.mul_assoc, Nat.add_assoc]⟩
    · obtain ⟨n, h⟩ := writeFields_append l m v
      exact ⟨n, by rw [h, e, Nat.pow_add, Nat.mul_add, Nat.mul_assoc]⟩

theorem leBytes_length : ∀ (n w : Nat), (leBytes n w).length = n
  | 0, _ => rfl
  | n + 1, w => by simp [leBytes, leBytes_length n]

theorem ofLe_leBytes : ∀ (n w : Nat), w < 256 ^ n → ofLe (leBytes n w) = w
  | 0, w, h => by simp at h; simp [leBytes, ofLe, h]
  | n + 1, w, h => by
    have e := ofLe_leBytes n (w / 256) (Nat.div_lt_of_lt_mul (by rw [Nat.pow_succ, Nat.mul_comm] at h; exact h))
    simp only [leBytes, ofLe, e, BitVec.toNat_ofNat]
    omega

theorem ofLe_lt : ∀ (l : List Byte), ofLe l < 256 ^ l.length
  | [] => Nat.one_pos
  | b :: t => by
    have h1 := ofLe_lt t
    have h2 := b.isLt
    simp only [ofLe, List.length_cons, Nat.pow_succ]
    omega

theorem leBytes_ofLe : ∀ (l : List Byte), leBytes l.length (ofLe l) = l
  | [] => rfl
  | b :: t => by
    have h := b.isLt
    simp only [List.length_cons, leBytes, ofLe]
    congr 1
    · apply BitVec.eq_of_toNat_eq
      rw [BitVec.toNat_ofNat]
      omega
    · have e : (b.toNat + 256 * ofLe t) / 256 = ofLe t := by omega
      rw [e]
      exact leBytes_ofLe t

theorem flagOf_boolNat (b : Bool) : flagOf (boolNat b) = b := by cases b <;> rfl

theorem batchOf_unbatch : ∀ (l : List BatchEntry), batchOf (unbatch l) = l
  | [] => rfl
  | b :: t => by
    have h := batchOf_unbatch t
    simp only [unbatch] at h
    simp [unbatch, batchOf, flagOf_boolNat, h]

theorem t2RangesOf_unrange : ∀ (l : List T2Range), t2RangesOf (unrange l) = l
  | [] => rfl
  | b :: t => by
    have h := t2RangesOf_unrange t
    simp only [unrange] at h
    simp [unrange, t2RangesOf, h]

theorem routesOf_unroute : ∀ (l : List Route), routesOf (unroute l) = l
  | [] => rfl
  | b :: t => by
    have h := routesOf_unroute t
    simp only [unroute] at h
    simp [unroute, routesOf, h]

end Sys2Proof.Machine
end

