-- ==== Sys2Proof/Tests/Slice0.lean ====
section
/-! SUPPORT. The model's own tests. Named theorems on small states: the smoke test of WellFormed, and for every statement with
hypotheses states and operands that meet them together (test_meets_…), at the boundary values of their ranges. Expected values come
from the rules that the comments name. -/

open Sys2Proof Sys2Proof.Machine

namespace Sys2Proof.Tests

set_option Elab.async false

/-! ## States and operands -/

/-- A post of PF0 at mailbox 0 with the first sequence number after reset (R367: LAST_SEQ is 0xFFFF). -/
def post (len : Nat) : Post := ⟨0, 0, 0, len, 0, false, false, false⟩

/-- The state that a command leaves, if it leaves one. -/
def after (i : Instr) (s : State) : Option State :=
  match exec i s with
  | .next t => some t
  | _ => none

/-- The status in the completion of PF0's mailbox 0. -/
def status (i : Instr) (s : State) : Option Nat := (after i s).map fun t => (t.mbx 0 0).complete / 65536

/-- Context 1 of PF0 on partition 0. -/
def ctx1 : Ctx := ⟨1, 0, 0, 3, false, true, 0, 0, false, 0, false, 0⟩

/-- A bale in T1 at the n-th frame of partition 0, with the n-th home of its window. -/
def bale (st : BaleState) (dirty : Bool) (n : Nat) : Bale :=
  ⟨st, dirty, if st = .pinned then some 1 else none, none, false, false, some (2097152 * n), some (2 ^ 44 + 2097152 * n), 0, false, false, false, 0⟩

/-- A backed tensor of five bales mapped by contexts 1 and 2 at 2^30. -/
def tensor1 : Tensor where
  handle := 1
  part := 0
  size := 5 * 2097152
  tag := 0
  rot := 0
  random := false
  backed := true
  maps := [⟨1, 2 ^ 30, 0⟩, ⟨2, 2 ^ 30, 0⟩]
  bales := [bale .resident false 0, bale .pinned false 1, { bale .inT2 false 2 with frame := none }, bale .evicting true 3,
    bale .resident true 4]
  load := 0
  ready := true

/-- A key-value sequence of two blocks of one head, one page a block. -/
def seq (h : Nat) (maps : Table (Option KvMap)) : KvSeq := ⟨h, 1, 0, 1, 8, 2 ^ 40 * h, 2, maps⟩

/-- A module that is ready, with PF0 open in ABI version 2, contexts 1 and 2, tensor 1 and the key-value sequences 1 and 2. -/
def demo : State :=
  { State.reset with
    ctxs := [ctx1, { ctx1 with handle := 2 }]
    nextCtx := 3
    parts := [(0, { Part.reset .idle 1968 with t2 := [⟨2 ^ 40, 2 ^ 40, 0⟩] })]
    place := { State.reset.place with
      tensors := [tensor1]
      nextTensor := 2
      seqs := [seq 1 [(0, some ⟨2 ^ 36, false, false, false, false⟩)], seq 2 []]
      nextSeq := 3
      pages := [⟨2 ^ 36, 0, 1, 0, 0⟩] }
    host := { State.reset.host with up := true, funcs := [(0, ⟨true, 2, 0, [], [], [], []⟩)] }
    hbm := { State.reset.hbm with stk := (List.range 20).map fun i => (i, ⟨2, 40, false, 0⟩) }
    power := { State.reset.power with stage := .ready } }

/-- The parameters of a decoding session of 64 by 64 samples in patches of 16 by 16 (R306, R309), with the smallest work buffer (R307). -/
def params : CodecParams where
  ctx := 1
  dir := 0
  standard := 1
  profile := 0
  level := 17
  cls := 0
  framing := 1
  bitDepth := 8
  pipe := 255
  width := 64
  height := 64
  pw := 16
  ph := 16
  pt := 1
  colour := 0
  sync := 0
  workVa := 2 ^ 30
  workBytes := 67170304
  mul := [0, 0, 0]
  add := [0, 0, 0]
  desc := ⟨0, 8, 0, 0, 0, 0, 0, 0, 0, [768, 4, 4, 1, 1], [1536, 6144, 24576, 0], [0, 0, 0, 0, 0, 0], 0, 0, 0, 0, 0, 0, 0, 0, false⟩
  qi := 0
  refresh := 0
  window := 0
  frameCap := 0
  windowCap := 0

/-- A frame's report of no coded bytes and no picture. -/
def quietReport : FrameReport := ⟨0, none, none, 0, [], [], [], 0, 0, false, false⟩

/-- FABRIC.CONFIG's settings with every gate a Droveway. -/
def fabricParams : FabricParams := ⟨7, 15, List.replicate 16 0, 0, 0, 0, 0⟩

def route (gate path : Nat) : Route := ⟨1, 1, gate, path, 0, 255, 1000, 1⟩

def header : CellHeader := withHcrc ⟨1, 1, 1, 0, 0, 1, 5, 0, 0, 0, false, 0, 1, 100, 0⟩

def idle : IdleWord := withWcrc ⟨0, 1, 0, 0, 0, 1, 255, 0, false, false, 0, 0, [], 0⟩

/-- A post that Posts admits, by evaluation. -/
theorem meets_posts {p : Post} {r : CmdRow} {units : Nat} {s : State} (ready : s.power.stage = .ready)
    (h : (!(s.mbx p.func p.mbx).busy && ((s.mbx p.func p.mbx).done < s.clock.beat || (s.mbx p.func p.mbx).complete == 0xFFFF_FFFF)
      && p.seq == ((s.mbx p.func p.mbx).lastSeq + 1) % 65536 && p.len == units && decide (units ≤ 504) && !p.rsv
      && (s.func p.func).opened && ((s.func p.func).abi == 2 || !r.v2) && p.func == 0
      && (s.sec.entries.getLast?.map (·.target)) != some 4 && decide (postTarget p < s.mode)
      && (s.part (postTarget p)).st != .resetting) = true) : Posts p r units s := by
  simp only [Bool.and_eq_true, Bool.or_eq_true, Bool.not_eq_true', decide_eq_true_eq, beq_iff_eq, bne_iff_ne, ne_eq] at h
  obtain ⟨⟨⟨⟨⟨⟨⟨⟨⟨⟨⟨h1, h2⟩, h3⟩, h4⟩, h5⟩, h6⟩, h7⟩, h8⟩, h9⟩, h10⟩, h11⟩, h12⟩ := h
  exact ⟨ready, h1, h2, h3, h4, h5, h6, fun _ => h7, fun hv _ => h8.resolve_right (by simp [hv]), fun _ => h9, fun _ => h10, fun x => absurd h9 x, fun _ => h11,
    fun _ => h12⟩

/-! ## Well-formed commands -/

/-- Headers that do not fit: a sixth function, a mailbox 64, a sequence number or length of 17 bits, a partition 4. -/
theorem test_wf_posts : ([{ post 0 with func := 5 }, { post 0 with mbx := 64 }, { post 0 with seq := 65536 }, post 65536,
    { post 0 with part := 4 }].all fun p => !p.wf && [Instr.funcInfo p, .memRestore p, .fabricQuery p, .powerQuery p, .recoverQuery p,
      .secQuery p, .lifecycleQuery p].all (fun i => !i.wf)) = true := by decide +kernel

theorem test_wf_accepts : ([Instr.funcOpen (post 1) 2, .contextRegister (post 1) 255, .syncAdd (post 2) 4095 true (2 ^ 64 - 1),
    .runSubmit (post 4) 1 (2 ^ 48 - 1) (2 ^ 64 - 1) [⟨2 ^ 32 - 1, true⟩], .memQuery (post 1) 255 255, .powerBudget (post 2) 65535 [0, 0, 0, 65535],
    .registerWrite (.mailboxData 4 63 4031) 255, .hbmSlot 639 1 4999 [], .thermalSample 29 255, .supplySample 131071 131071,
    .drain 3 63 true, .gateTrained 15 65535 15 65535 (2 ^ 24 - 1)].all Instr.wf) = true := by decide +kernel

theorem test_wf_contexts : ([Instr.funcOpen (post 1) 256, .contextRegister (post 1) 256, .contextRelease (post 1) (2 ^ 32),
    .contextReside (post 1) (2 ^ 32) false, .contextCancel (post 1) (2 ^ 32), .runSubmit (post 4) (2 ^ 32) 0 0 [],
    .runSubmit (post 4) 1 (2 ^ 48) 0 [], .runSubmit (post 4) 1 0 (2 ^ 64) [], .runSubmit (post 4) 1 0 0 [⟨2 ^ 32, false⟩],
    .runQuery (post 1) (2 ^ 32), .syncAdd (post 2) 4096 false 0, .syncAdd (post 2) 0 false (2 ^ 64), .syncRead (post 1) 65536 1,
    .syncRead (post 1) 0 65536, .syncWait (post 3) (2 ^ 32) 0 0 0, .syncWait (post 3) 1 4096 0 0, .syncWait (post 3) 1 0 (2 ^ 64) 0,
    .syncWait (post 3) 1 0 0 (2 ^ 32)].all fun i => !i.wf) = true := by decide +kernel

theorem test_wf_placement : ([Instr.allocTensor (post 4) (2 ^ 32) false true 0 64 0 0, .allocTensor (post 4) 1 false true (2 ^ 48) 64 0 0,
    .allocTensor (post 4) 1 false true 0 (2 ^ 64) 0 0, .allocTensor (post 4) 1 false true 0 64 4096 0,
    .allocTensor (post 4) 1 false true 0 64 0 (2 ^ 32), .allocFree (post 1) 1 (2 ^ 32), .tierConfig (post 1) 256 [],
    .tierConfig (post 4) 1 [⟨2 ^ 64, 0, 0⟩], .tierConfig (post 4) 1 [⟨0, 2 ^ 64, 0⟩], .tierConfig (post 4) 1 [⟨0, 0, 4⟩],
    .tierPromote (post 2) (2 ^ 32) 1 0 1, .tierEvict (post 2) 1 (2 ^ 32) 0 1, .tierPin (post 2) 1 1 (2 ^ 32) 1,
    .tierUnpin (post 2) 1 1 0 (2 ^ 32), .tierQuery (post 2) 1 1 0 (2 ^ 32), .weightLoad (post 3) 1 1 (2 ^ 48) false,
    .weightLoad (post 3) 1 (2 ^ 32) 0 false, .kvCreate (post 3) 1 65536 1 0 1, .kvCreate (post 3) 1 1 256 0 1,
    .kvCreate (post 3) 1 1 1 (2 ^ 48) 1, .kvCreate (post 3) 1 1 1 0 (2 ^ 32), .kvShare (post 3) (2 ^ 32) 0 1 0 1,
    .kvRelease (post 3) 1 (2 ^ 32) 1 0 0, .kvMark (post 3) 1 0 (2 ^ 32) 0 0, .kvQuery (post 1) 1 (2 ^ 32),
    .memQuery (post 1) 256 1].all fun i => !i.wf) = true := by decide +kernel

theorem test_wf_codec : params.wf = true ∧ ([{ params with ctx := 2 ^ 32 }, { params with cls := 256 }, { params with width := 65536 },
    { params with colour := 256 }, { params with sync := 4096 }, { params with workVa := 2 ^ 48 }, { params with workBytes := 2 ^ 64 },
    { params with mul := [0, 0] }, { params with add := [0, 0, 2 ^ 32] }, { params with qi := 256 }, { params with window := 65536 },
    { params with frameCap := 2 ^ 32 }, { params with windowCap := 2 ^ 64 }, { params with desc := { params.desc with base := 2 ^ 48 } },
    { params with desc := { params.desc with ext := [1] } }, { params with desc := { params.desc with pad := [0, 0, 0, 0, 0, 65536] } },
    { params with desc := { params.desc with ledgerW := 65536 } }].all fun o => !o.wf && !(Instr.codecOpen (post 27) o).wf) = true
    ∧ ([Instr.codecDecode (post 4) (2 ^ 32) false 0 0 1 0, .codecDecode (post 4) 1 false (2 ^ 48) 0 1 0,
    .codecEncode (post 5) 1 false false 0 (2 ^ 32) 0 1, .codecEncode (post 5) 1 false false 0 1 (2 ^ 48) 1, .codecClose (post 1) (2 ^ 32),
    .codecQuery (post 1) (2 ^ 32), .codecFrameDone 6 quietReport, .codecWatchdog 6,
    .syncWaitTimeout 5 0, .syncWaitTimeout 0 64].all fun i => !i.wf) = true := by decide +kernel

theorem test_wf_fabric : ([Instr.fabricConfig (post 8) { fabricParams with moduleId := 65536 },
    .fabricConfig (post 8) { fabricParams with modes := [] }, .fabricConfig (post 8) { fabricParams with modes := List.replicate 16 256 },
    .fabricConfig (post 8) { fabricParams with ipv6 := 2 ^ 128 }, .fabricConfig (post 8) { fabricParams with ipv4b := 2 ^ 32 },
    .fabricRoute (post 5) 0 2 [route 0 0], .fabricRoute (post 5) 256 1 [route 0 0], .fabricRoute (post 5) 0 1 [route 256 0],
    .fabricRoute (post 5) 0 1 [route 0 (2 ^ 48)], .fabricCopy (post 3) 1 256 0 0 0 1, .fabricCopy (post 3) 1 0 0 65536 0 1,
    .fabricCopy (post 3) 1 0 0 0 (2 ^ 48) 1, .fabricCopy (post 3) 1 0 0 0 0 (2 ^ 32), .tallyConfig (post 3) 256 0 0 0 0,
    .tallyConfig (post 3) 0 0 (2 ^ 32) 0 0, .tallyConfig (post 3) 0 0 0 (2 ^ 64) 0, .idleWordSend 16, .idleWordReceive 16 idle 0,
    .idleWordReceive 0 { idle with gmId := 65536 } 0, .idleWordReceive 0 { idle with acks := List.replicate 13 ⟨0, 1, 0, 0, 0, 0⟩ } 0,
    .idleWordReceive 0 idle (2 ^ 64), .cellArrive 0 header [] 0, .cellArrive 0 { header with attempt := 4 } (zeros 2000) 0,
    .cellArrive 0 header (zeros 2000) (2 ^ 64), .cellArrive 16 header (zeros 2000) 0, .cellLeave 16, .sendAttempt 4 0 0,
    .sendAttempt 0 (2 ^ 24) 0, .sendAttempt 0 0 4, .gateDown 16, .gateTrainStart 16, .gateTrained 16 0 0 0 0, .gateTrained 0 65536 0 0 0,
    .gateTrained 0 0 16 0 0, .gateTrained 0 0 0 65536 0, .gateTrained 0 0 0 0 (2 ^ 24), .gateTrainTimeout 16,
    .fabricCopyTimeout (2 ^ 32), .arpNdRequest 16 0, .arpNdRequest 7 (2 ^ 128), .roceInboundRequest 7 (2 ^ 24), .cnpReceive 16,
    .ecnRateRestore 16, .pfcPauseFrame 7 8 true, .ptpMessage 16 .other, .tallyCode (2 ^ 128) 0,
    .tallyLocked (2 ^ 64) 0].all fun i => !i.wf) = true := by decide +kernel

theorem test_wf_host : ([Instr.partitionConfig (post 1) 256, .partitionQuery (post 1) 256 0, .partitionQuery (post 1) 0 (2 ^ 32),
    .hostCopy (post 4) 1 256 0 0 0 64, .hostCopy (post 4) 1 0 65536 0 0 64, .hostCopy (post 4) 1 0 0 (2 ^ 48) 0 64,
    .hostCopy (post 4) 1 0 0 0 (2 ^ 64) 64, .hostCopy (post 4) 1 0 0 0 0 (2 ^ 32), .hostHdm (post 1) 256, .powerBudget (post 2) 65536 [0, 0, 0, 0],
    .powerBudget (post 2) 2400 [0], .powerBudget (post 2) 2400 [0, 0, 0, 65536], .recoverDumpTake (post 4) 256 0,
    .recoverDumpTake (post 4) 0 256, .recoverDumpRead (post 4) 0 0 (2 ^ 64) 0 64, .recoverDumpRead (post 4) 0 0 0 (2 ^ 32) 64,
    .recoverDumpKeep (post 4) 256 0, .recoverDumpRelease (post 4) 256 0, .recoverReset (post 1) 256 0 0, .recoverReset (post 1) 2 0 65536,
    .daybookRead (post 2) (2 ^ 48) 1, .daybookRead (post 2) 0 (2 ^ 32), .secKeyInstall (post 19) 256 1 (zeros 133),
    .secKeyInstall (post 19) 0 (2 ^ 64) (zeros 133), .secKeyInstall (post 19) 0 1 (zeros 132), .secKeyRevoke (post 19) 0 1 (zeros 134),
    .lifecycleAdvance (post 18) 256 (zeros 132), .lifecycleAdvance (post 18) 1 (zeros 131), .hostSnoop (2 ^ 64), .hdmRead 63 false,
    .hdmRead (960 * 2 ^ 30) false, .hdmWrite 0 (zeros 63), .linkTrained 6 16, .linkTrained 0 32, .functionLevelReset 5,
    .hostDroverCompletion 1 [zeros 63] false, .hostDroverCompletion (2 ^ 32) [] false, .hostCompletionTimeout (2 ^ 32),
    .backInvalidateResponse (2 ^ 64)].all fun i => !i.wf) = true := by decide +kernel

theorem test_wf_events : ([Instr.registerWrite (.events 5) 0, .registerWrite (.penState 64) 0, .registerWrite (.penRowu 64) 0,
    .registerWrite (.penAttn 64) 0, .registerWrite (.drvStatus 164) 0, .registerWrite (.penWcnt 4 0) 0, .registerWrite (.penWcnt 0 64) 0,
    .registerWrite (.hbmChan 640) 0, .registerWrite (.cdcPipe 6) 0, .registerWrite (.pwrTemp 10) 0, .registerWrite (.mailboxPost 5 0) 0,
    .registerWrite (.mailboxCtrl 0 64) 0, .registerWrite (.mailboxData 0 0 4032) 0, .registerWrite (.msixMask 0 66) 0,
    .registerWrite .pwrInput (2 ^ 64), .beatBoundary true [⟨120, .noIdle, 0⟩], .engineReady 120, .guiltyReplay 120,
    .ladderBudgetExpired (.cancel (2 ^ 32)), .ladderBudgetExpired (.engine 120), .ladderBudgetExpired (.partition 4), .partitionReady 4 [],
    .partitionReady 0 [120], .dumpWritten 4, .handleExpiry (2 ^ 32), .tileDecode 4, .droverStart 4 0 0, .droverStart 0 (2 ^ 24) 0,
    .droverStart 0 0 164, .lotComplete ⟨4, 0, 0, .activation, 0, 0⟩ false, .lotLate ⟨0, 2 ^ 24, 0, .layer, 0, 0⟩,
    .lotLate ⟨0, 0, 0, .layer, 64, 0⟩, .mm 4 .clean, .cv 4 .clean, .cvDw 4 .clean, .attn 4 .clean, .rw 4, .mvLoad 4, .mvStore 4, .mvWeight 4,
    .mvSend 4, .mvRecv 4, .syFold 4, .syWgrant 4 false, .sySignal 4, .syWait 4, .tl 4, .stepVerdict 4, .troubleReplay 4 .clean, .drain 4 0 false,
    .drain 0 64 false, .runComplete 4, .waitingRunStart 4, .kvPageReclaim 4 0, .kvPageReclaim 0 (2 ^ 52), .cowCopyDone 4,
    .kvPoolBaleReturn 4 0, .kvPoolBaleReturn 0 (2 ^ 52), .hbmSlot 640 0 0 [], .hbmSlot 0 2 0 [], .hbmSlot 0 0 5000 [], .refreshSlot 20 0,
    .refreshSlot 0 256, .retrainWindow 640 true [], .retrainWindow 0 true [(2, 0)], .retrainWindow 0 true [(0, 36)],
    .promotionDone (2 ^ 32) 0, .promotionFail 0 (2 ^ 32), .writeBackDone (2 ^ 32) 0, .writeBackFail 0 (2 ^ 32), .frameZeroDone (2 ^ 52),
    .chunkArrive (2 ^ 32) 0 0 [], .rdmaRemoteAccessError 0 (2 ^ 32), .replicaTimeout (2 ^ 32) 0, .t2Response (2 ^ 32) 0 true,
    .t2Timeout 0 (2 ^ 32), .supplySample 131072 0, .supplySample 0 131072, .thermalSample 30 0, .thermalSample 0 256,
    .hbmTrainingDone [640] [], .hbmTrainingDone [] [(640, 0, 0, 0)], .startupReady [106], .mctpEndpointIdAssign 256].all fun i => !i.wf) = true := by decide +kernel

/-! ## Functions, mailboxes, contexts and sync counters -/

/-- Function 0 closed, and the part SCRAPPED (R464: state 4). -/
def closed : State := { demo with host := { demo.host with funcs := [] } }
def scrapped : State := { demo with sec := { demo.sec with entries := [⟨4, true⟩] } }
def abiOne : State := { demo with host := { demo.host with funcs := [(0, ⟨true, 1, 0, [], [], [], []⟩), (1, ⟨true, 2, 0, [], [], [], []⟩)] } }

/-- A command's fields are those of its row, and its post is sampled. -/
def sampledAs (i : Instr) (p : Post) (op : Nat) (s : State) : Bool :=
  i.wf && (commandFields i).map (fun f => (f.1, f.2.1)) == some (p, op) && (rowOf op).map (·.opcode) == some op && sampling p s

/-- The premises of the clauses of MailboxChecks: a stale number, a length above 504, an ABI 2 command in ABI 1, a PF0 command from a
virtual function, a closed function, and a length that is one too small; and a post to a busy mailbox. -/
theorem test_meets_mailbox_checks :
    (sampledAs (.powerQuery { post 1 with seq := 1 }) { post 1 with seq := 1 } 0x0E02 demo
      && sampledAs (.syncAdd (post 505) 0 false 0) (post 505) 0x0301 demo
      && sampledAs (.codecQuery (post 1) 1) (post 1) 0x0905 abiOne && (rowCodecQuery).v2 && (abiOne.func 0).abi == 1
      && sampledAs (.partitionConfig { post 1 with func := 1 } 1) { post 1 with func := 1 } 0x0C01 abiOne && rowPartitionConfig.pf0
      && sampledAs (.syncAdd (post 2) 0 false 0) (post 2) 0x0301 closed && !openless rowSyncAdd && lifeCode closed != 4
      && sampledAs (.syncAdd (post 1) 0 false 0) (post 1) 0x0301 demo && unitsOf 0x0301 [0, 0, 0] == 2
      && !sampling (post 2) (updMbx 0 0 (fun m => { m with busy := true }) demo)) = true := by decide +kernel

theorem test_mailbox_checks : (status (.powerQuery { post 1 with seq := 1 }) demo == some stStaleSeq
    && status (.syncAdd (post 505) 0 false 0) demo == some stBadLength && status (.codecQuery (post 1) 1) abiOne == some stBadOpcode
    && status (.syncAdd (post 2) 0 false 0) closed == some stBadState && status (.syncAdd (post 1) 0 false 0) demo == some stBadLength)
    = true := by decide +kernel

/-- The premises of FunctionRule and ScrappedDenies. -/
theorem test_meets_functions : Posts (post 1) rowFuncOpen 1 demo ∧ Posts (post 0) rowFuncInfo 0 demo ∧ (demo.func 0).opened = true
    ∧ (∃ c ∈ demo.ctxs, c.func = 0 ∧ c.cancelled = false)
    ∧ (∀ c ∈ abiOne.ctxs, c.func = (1 : Nat) → c.cancelled = true)
    ∧ sampledAs (.powerQuery (post 1)) (post 1) 0x0E02 closed = true ∧ lifeCode scrapped = 4
    ∧ sampledAs (.powerQuery (post 1)) (post 1) 0x0E02 scrapped = true :=
  ⟨meets_posts rfl (by decide +kernel), meets_posts rfl (by decide +kernel), rfl, ⟨ctx1, by decide +kernel, rfl, rfl⟩,
    by decide +kernel, by decide +kernel, rfl, by decide +kernel⟩

/-- R375: FUNC.OPEN of version 3 is BAD_ARG, and FUNC.OPEN of a function with a context is BAD_STATE. R466: DENIED when SCRAPPED. -/
theorem test_functions : (status (.funcOpen (post 1) 3) demo == some stBadArg && status (.funcOpen (post 1) 2) demo == some stBadState
    && status (.funcOpen (post 1) 2) closed == some stOk && status (.funcInfo (post 0)) closed == some stOk
    && status (.powerQuery (post 1)) scrapped == some stDenied) = true := by decide +kernel

/-- Eight resident contexts and one more that is swapped out. -/
def nine : State := { demo with ctxs := { ctx1 with out := true } :: (List.range 8).map fun i => { ctx1 with handle := i + 2 }, nextCtx := 10 }
def swapped : State := { demo with ctxs := [{ ctx1 with out := true }] }

theorem test_meets_contexts : Posts (post 1) rowContextRegister 1 demo ∧ (demo.ctxs.filter fun c => !c.cancelled).length < 256
    ∧ Posts (post 1) rowContextRelease 1 demo ∧ checkCtx (post 1) 1 demo = .ok ctx1 ∧ ctxHasRun demo ctx1 = false ∧ ctxBusy demo 1 = false
    ∧ Posts (post 1) rowContextReside 1 swapped ∧ checkCtx (post 1) 1 swapped = .ok { ctx1 with out := true }
    ∧ (residentCtxs swapped 0).length < 8 ∧ (swapped.part 0).resides = []
    ∧ Posts (post 1) rowContextReside 1 nine ∧ checkCtx (post 1) 1 nine = .ok { ctx1 with out := true } ∧ 8 ≤ (residentCtxs nine 0).length
    ∧ Posts (post 1) rowContextCancel 1 demo :=
  ⟨meets_posts rfl (by decide +kernel), by decide +kernel, meets_posts rfl (by decide +kernel), rfl, by decide +kernel, by decide +kernel,
    meets_posts rfl (by decide +kernel), rfl, by decide +kernel, rfl, meets_posts rfl (by decide +kernel), rfl, by decide +kernel,
    meets_posts rfl (by decide +kernel)⟩

/-- R383: a ninth context of a partition is swapped out. R385: a swapped-out context becomes resident at once while a slot is free. -/
theorem test_contexts : (status (.contextRegister (post 1) 7) demo == some stOk
    && (after (.contextRegister (post 1) 7) nine).map (fun t => t.ctxs.getLast?.map (·.out)) == some (some true)
    && status (.contextRelease (post 1) 1) demo == some stOk && status (.contextReside (post 1) 1 false) swapped == some stOk
    && status (.contextReside (post 1) 1 false) nine == some stAccepted && status (.contextCancel (post 1) 1) demo == some stAccepted)
    = true := by decide +kernel

/-- A handle that a cancel ended 1,200,000 beats ago, and a SYNC.WAIT whose deadline is the beat. -/
def expired : State := { demo with ctxs := [{ ctx1 with cancelled := true }], clock := ⟨1200000, 0, 1200000, 0⟩ }
def waiting : State :=
  { demo with
    clock := ⟨5, 0, 5, 0⟩
    host := { demo.host with progs := [⟨post 3, 0, 1, 0, .syncWait 1 7 9 4⟩] } }

theorem test_meets_expiry : ctxOf expired 1 = some { ctx1 with cancelled := true } ∧ (∀ e ∈ expired.recov.cancels, e.1 ≠ 1)
    ∧ 0 + 1200000 ≤ expired.clock.elapsed ∧ timedWait waiting 0 0 = some ⟨post 3, 0, 1, 0, .syncWait 1 7 9 4⟩ := by decide +kernel

theorem test_expiry : ((after (.handleExpiry 1) expired).map (·.ctxs) == some []
    && status (.syncWaitTimeout 0 0) waiting == some stOk) = true := by decide +kernel

/-- A sync counter at its largest value. -/
def full : State := updPart 0 (fun q => { q with sync := [(4095, 2 ^ 64 - 1)] }) demo

theorem test_meets_sync : Posts (post 2) rowSyncAdd 2 full ∧ syncValue full 0 4094 + (2 ^ 64 - 1) < 2 ^ 64
    ∧ 2 ^ 64 ≤ syncValue full 0 4095 + 1 ∧ Posts (post 1) rowSyncRead 1 full ∧ 3596 + 500 ≤ 4096 ∧ Posts (post 3) rowSyncWait 3 full
    ∧ checkCtx (post 3) 1 full = .ok ctx1 :=
  ⟨meets_posts rfl (by decide +kernel), by decide +kernel, by decide +kernel, meets_posts rfl (by decide +kernel), by decide,
    meets_posts rfl (by decide +kernel), rfl⟩

/-- R396: a sum above 2^64 - 1 is BAD_ARG and changes nothing; R397: 500 counters up to SC4095. -/
theorem test_sync : (status (.syncAdd (post 2) 4095 false 1) full == some stBadArg
    && (after (.syncAdd (post 2) 7 false 5) full).map (fun t => syncValue t 0 7) == some 5
    && (after (.syncAdd (post 2) 4095 true 3) full).map (fun t => syncValue t 0 4095) == some 3
    && (after (.syncRead (post 1) 3596 500) full).map (fun t => (t.mbx 0 0).rlen) == some 500
    && status (.syncWait (post 3) 1 4095 1 1200000) full == some stAccepted) = true := by decide +kernel

/-! ## Placement, key-value sequences, loads -/

theorem test_meets_tiers : checkCtx (post 2) 1 demo = .ok ctx1 ∧ mappedTensor demo 1 1 = some tensor1 ∧ findTensor demo 1 = some tensor1
    ∧ tensor1.bales[0]? = some (bale .resident false 0) ∧ tensor1.bales[4]? = some (bale .resident true 4)
    ∧ held demo (1, 0) = false ∧ held demo (1, 4) = false
    ∧ Posts (post 2) rowTierPin 2 demo ∧ Posts (post 2) rowTierUnpin 2 demo ∧ Posts (post 2) rowTierEvict 2 demo
    ∧ Posts (post 2) rowTierPromote 2 demo ∧ Posts (post 2) rowTierQuery 2 demo
    ∧ checkCtx (post 2) 2 demo = .ok { ctx1 with handle := 2 } ∧ mappedTensor demo 2 1 = some tensor1 ∧ (bale .pinned false 1).pin = some 1
    ∧ (∃ d, getBale (startPromotion 1 2 (touchBales 1 [2] (taken (post 2) demo))) 1 2 = some d ∧ d.st = .promoting ∧ d.frame.isSome = true) :=
  ⟨rfl, by decide +kernel, by decide +kernel, rfl, rfl, by decide +kernel, by decide +kernel, meets_posts rfl (by decide +kernel),
    meets_posts rfl (by decide +kernel), meets_posts rfl (by decide +kernel), meets_posts rfl (by decide +kernel),
    meets_posts rfl (by decide +kernel), rfl, by decide +kernel, rfl,
    ⟨(getBale (startPromotion 1 2 (touchBales 1 [2] (taken (post 2) demo))) 1 2).get (by decide +kernel), by decide +kernel,
      by decide +kernel, by decide +kernel⟩⟩

/-- R246: a pin by another context is PINNED_BY_OTHER, an unpin of a RESIDENT bale is BAD_STATE. R244: a clean bale is dropped at
once, a dirty one is written back. R243: a bale in T2 is promoted. -/
theorem test_tiers : (status (.tierPin (post 2) 1 1 0 1) demo == some stOk && status (.tierPin (post 2) 2 1 1 1) demo == some stPinnedByOther
    && status (.tierUnpin (post 2) 1 1 1 1) demo == some stOk && status (.tierUnpin (post 2) 1 1 0 1) demo == some stBadState
    && status (.tierEvict (post 2) 1 1 0 1) demo == some stOk && status (.tierEvict (post 2) 1 1 4 1) demo == some stAccepted
    && status (.tierPromote (post 2) 1 1 0 1) demo == some stOk && status (.tierPromote (post 2) 1 1 2 1) demo == some stAccepted
    && status (.tierQuery (post 2) 1 1 0 5) demo == some stOk) = true := by decide +kernel

/-- A module without contexts, tensors and sequences. -/
def bare : State := { demo with ctxs := [], place := State.reset.place, parts := State.reset.parts }

theorem test_meets_tier_configuration : Posts (post 1) rowTierConfig 1 bare ∧ placementBusy bare 0 = false ∧ 1 ≤ 48 ∧ commonsFits bare 0 1 = true
    ∧ 1 ≠ (bare.part 0).commonsGib ∧ commonsDirty bare 0 = false :=
  ⟨meets_posts rfl (by decide +kernel), by decide +kernel, by decide, by decide +kernel, by decide +kernel, by decide +kernel⟩

theorem test_tier_configuration : (after (.tierConfig (post 1) 1 []) bare).map (fun t => (t.part 0).commonsGib) = some 1 := by decide +kernel

theorem test_meets_tensors : Posts (post 4) rowAllocTensor 4 demo ∧ rangeMapped demo 1 (2 ^ 45) (2 ^ 44) = false
    ∧ rangeMapped demo 1 0 baleBytes = false ∧ demo.host.linkMode ≤ 2 ∧ 1 ≤ t2Free demo 0 / baleBytes
    ∧ choosePlacing demo 0 1 false true ≠ .none ∧ choosePlacing demo 0 1 false false ≠ .none
    ∧ rangeMapped demo 1 (2 ^ 48 - 5 * baleBytes) (5 * baleBytes) = false ∧ Posts (post 1) rowAllocFree 1 demo
    ∧ mappedTensor demo 1 1 = some tensor1 ∧ freeRefused demo 1 tensor1 = false :=
  ⟨meets_posts rfl (by decide +kernel), by decide +kernel, by decide +kernel, by decide +kernel, by decide +kernel, by decide +kernel,
    by decide +kernel, by decide +kernel, meets_posts rfl (by decide +kernel), by decide +kernel, by decide +kernel⟩

/-- R232: the smallest tensor is one bale; R234: a second mapping ends at 2^48. -/
theorem test_tensors : ((after (.allocTensor (post 4) 1 false true 0 64 7 0) demo).map (fun t => t.place.tensors.map fun x => x.bales.length) == some [5, 1]
    && status (.allocTensor (post 4) 1 false true (2 ^ 48 - 5 * baleBytes) 0 0 1) demo == some stOk
    && status (.allocTensor (post 4) 1 false true (2 ^ 30) 64 0 0) demo == some stBadState
    && (after (.allocFree (post 1) 1 1) demo).map (fun t => t.place.tensors.map (·.maps)) == some [[⟨2, 2 ^ 30, 0⟩]]) = true := by decide +kernel

theorem test_meets_kv : Posts (post 3) rowKvCreate 3 demo ∧ checkCtx (post 3) 1 demo = .ok ctx1 ∧ kvFormat 11 = true
    ∧ 2 ^ 45 + 1 * ceilDiv (2 ^ 32 - 256) 256 * pagesPerBlock 11 * kvPageBytes ≤ 2 ^ 48
    ∧ rangeMapped demo 1 (2 ^ 45) (1 * ceilDiv (2 ^ 32 - 256) 256 * pagesPerBlock 11 * kvPageBytes) = false
    ∧ (demo.place.seqs.filter fun q => q.part == 0).length < 65536
    ∧ Posts (post 3) rowKvShare 3 demo ∧ findSeq demo 0 2 = some (seq 2 []) ∧ findSeq demo 0 1 = some (seq 1 [(0, some ⟨2 ^ 36, false, false, false, false⟩)])
    ∧ (blockPages (seq 2 []) 0 1).all (destFree (seq 2 [])) = true
    ∧ (sharedMaps (seq 1 [(0, some ⟨2 ^ 36, false, false, false, false⟩)]) (blockPages (seq 1 []) 0 1)).length = (blockPages (seq 1 []) 0 1).length
    ∧ inBatch demo 0 2 = false ∧ inWriteSet demo 0 (2 ^ 36) = false ∧ findPage demo (2 ^ 36) = some ⟨2 ^ 36, 0, 1, 0, 0⟩
    ∧ Posts (post 3) rowKvRelease 3 demo ∧ Posts (post 3) rowKvMark 3 demo ∧ Posts (post 1) rowKvQuery 1 demo :=
  ⟨meets_posts rfl (by decide +kernel), rfl, rfl, by decide +kernel, by decide +kernel, by decide +kernel,
    meets_posts rfl (by decide +kernel), by decide +kernel, by decide +kernel, by decide +kernel, by decide +kernel, by decide +kernel,
    by decide +kernel, by decide +kernel, meets_posts rfl (by decide +kernel), meets_posts rfl (by decide +kernel),
    meets_posts rfl (by decide +kernel)⟩

/-- R214: a shared page has two references. -/
theorem test_kv : (status (.kvCreate (post 3) 1 1 11 (2 ^ 45) (2 ^ 32 - 256)) demo == some stOk
    && status (.kvCreate (post 3) 1 257 8 (2 ^ 45) 1) demo == some stBadArg
    && (after (.kvShare (post 3) 2 0 1 0 1) demo).map (fun t => t.place.pages.map (·.refs)) == some [2]
    && status (.kvRelease (post 3) 1 0 2 1 0) demo == some stOk && status (.kvMark (post 3) 1 0 2 1 0) demo == some stOk
    && status (.kvQuery (post 1) 0xFFFF_FFFF 0) demo == some stOk) = true := by decide +kernel

/-- A page without references, a free bale of the pool, and two copy-on-write copies of which the first has been read. -/
def freed : State :=
  updPart 0 (fun q => { q with copies := [⟨2 ^ 36, 2 ^ 37, true, 0⟩, ⟨0, 65536, false, 0⟩] })
    { demo with
      clock := ⟨1, 0, 1, 0⟩
      place := { demo.place with
        pages := [⟨2 ^ 36, 0, 0, 0, 0⟩]
        pool := [(0, 2 ^ 36), (0, 2 ^ 37)]
        poolFree := [2 ^ 37]
        zeroing := [(0, 2 ^ 38)] } }

theorem test_meets_kv_events : findPage freed (2 ^ 36) = some ⟨2 ^ 36, 0, 0, 0, 0⟩ ∧ (∀ c ∈ (freed.part 0).changes, c.page ≠ some (2 ^ 36)) ∧ freed.clock.acb = 0 ∧ stepsRun freed 0 = false
    ∧ (0, 2 ^ 37) ∈ freed.place.pool ∧ 2 ^ 37 ∈ freed.place.poolFree ∧ (∀ g ∈ freed.place.pages, g.frame / baleBytes * baleBytes ≠ 2 ^ 37)
    ∧ Memory.wf freed.hbm.t1 = true ∧ freed.hbm.staleKey = []
    ∧ (freed.part 0).copies = ⟨2 ^ 36, 2 ^ 37, true, 0⟩ :: [⟨0, 65536, false, 0⟩] ∧ 0 < freed.clock.beat
    ∧ freed.place.zeroing.find? (fun z => z.2 == 2 ^ 38) = some (0, 2 ^ 38) ∧ 2 ^ 38 ≠ commonsBase 0 := by decide +kernel

theorem test_kv_events : ((after (.kvPageReclaim 0 (2 ^ 36)) freed).map (fun t => t.place.pages) == some []
    && (after (.kvPoolBaleReturn 0 (2 ^ 37)) freed).map (fun t => t.place.pool) == some [(0, 2 ^ 36)]
    && (after (.cowCopyDone 0) freed).map (fun t => (t.part 0).copies.length) == some 1
    && (after (.frameZeroDone (2 ^ 38)) freed).map (fun t => (t.place.zeroing, t.hbm.zeroed)) == some ([], [2 ^ 38])) = true := by decide +kernel

/-- Tensor 1 with its third bale under promotion to frame 2^37, and a byte of its home in T2. -/
def promo : State :=
  { demo with
    clock := ⟨1000, 0, 1000, 0⟩
    place := { demo.place with
      tensors := [{ tensor1 with bales := tensor1.bales.mapIdx fun i b =>
        if i = 2 then { b with st := .promoting, frame := some (2 ^ 37) } else b }] }
    hbm := { demo.hbm with t1 := [(2097152 * 3, 9), (2 ^ 37 + 2097152, 1)], t2 := [(2 ^ 40 + 2097152 * 2 + 5, 7)] } }

theorem test_meets_bales : (findTensor promo 1).isSome = true ∧ promoting promo 1 2 = true ∧ t2Usable promo = true
    ∧ (∀ x, findTensor promo 1 = some x → ∀ b, getBale promo 1 2 = some b → b.zero = false ∧ homePoisoned promo x b = false
        ∧ baleHome promo x b = some (2 ^ 40 + 2097152 * 2) ∧ b.frame = some (2 ^ 37))
    ∧ getBale promo 1 3 = some (bale .evicting true 3) ∧ Memory.wf promo.hbm.t1 = true ∧ Memory.wf promo.hbm.t2 = true :=
  ⟨by decide +kernel, by decide +kernel, by decide +kernel, by
    intro x hx b hb
    obtain rfl := Option.some.inj ((show findTensor promo 1 = _ from rfl).symm.trans hx)
    obtain rfl := Option.some.inj ((show getBale promo 1 2 = _ from rfl).symm.trans hb)
    decide +kernel, by decide +kernel, by decide +kernel, by decide +kernel⟩

/-- R243: the bytes of the home move to the frame; R244: a write-back moves the frame's bytes to the home. -/
theorem test_bales : ((after (.promotionDone 1 2) promo).map (fun t => tget 0 t.hbm.t1 (2 ^ 37 + 5)) == some 7
    && (after (.promotionFail 1 2) promo).map (fun t => (getBale t 1 2).map (·.st)) == some (some .inT2)
    && (after (.t2Response 1 2 true) promo).map (fun t => (getBale t 1 2).map (·.st)) == some (some .inT2)
    && (after (.writeBackDone 1 3) promo).map (fun t => tget 0 t.hbm.t2 (2 ^ 40 + 2097152 * 3)) == some 9
    && (after (.writeBackFail 1 3) promo).map (fun t => (getBale t 1 3).map (·.st)) == some (some .resident)
    && (after (.t2Timeout 1 3) promo).map (fun t => (getBale t 1 3).map (·.st)) == some (some .resident)) = true := by decide +kernel

/-- A manifest for a tensor of ten chunks in one shard with one replica (R257), signed under key 5. -/
def image : List Byte :=
  leBytes 4 0x4D53564F ++ leBytes 2 1 ++ leBytes 2 1 ++ leBytes 4 1 ++ leBytes 4 10 ++ leBytes 8 (5 * 2097152) ++ leBytes 8 512 ++ leBytes 8 128
    ++ leBytes 8 256 ++ zeros 16 ++ (zeros 32 ++ leBytes 1 7 ++ zeros 31)
    ++ (leBytes 8 0 ++ leBytes 8 (5 * 2097152) ++ leBytes 4 0 ++ leBytes 1 1 ++ zeros 43 ++ zeros 64) ++ leBytes 8 77 ++ zeros 88
    ++ leBytes 8 5 ++ zeros 152

def theManifest : Manifest := ⟨1, 1, 10, 5 * 2097152, 512, 128, 256⟩

/-- The manifest at the tensor's start; key 5 is installed. -/
def signed : State :=
  { demo with
    hbm := { demo.hbm with t1 := putBytes [] 0 image }
    sec := { demo.sec with keys := [(0, ⟨5, false, []⟩)] } }

def unsigned : State := { signed with sec := demo.sec }

/-- The premises of WeightLoading. Whether a signature verifies is opaque (log 11), so the last premise is met for either answer. -/
theorem test_meets_weight_loading : Posts (post 3) rowWeightLoad 3 signed ∧ checkCtx (post 3) 1 signed = .ok ctx1
    ∧ mappedTensor signed 1 1 = some tensor1 ∧ rangeCheck signed 1 (2 ^ 30) 64 = none ∧ readManifest (readVa signed 1 (2 ^ 30) 64) = some theManifest
    ∧ rangeCheck signed 1 (2 ^ 30) 512 = none ∧ readVa signed 1 (2 ^ 30) 512 = image
    ∧ tablesFit theManifest tensor1.size image ((List.range 1).map fun i => readShard ((image.drop (128 + 128 * i)).take 128)) = true
    ∧ tablesFit theManifest tensor1.size image [] = false ∧ manifestSigned unsigned theManifest image = false
    ∧ (Config.ecdsaVerify [] ((image.drop 360).take 132) (Config.sha512 (image.take 352)) = true → manifestSigned signed theManifest image = true) :=
  ⟨meets_posts rfl (by decide +kernel), rfl, by decide +kernel, by decide +kernel, by decide +kernel, by decide +kernel, by decide +kernel,
    by decide +kernel, by decide +kernel, by decide +kernel, fun h => by
      have e : fieldAt image (512 - 160) 8 = 5 := by decide +kernel
      unfold manifestSigned theManifest
      simp only [e]
      simpa [signed] using h⟩

theorem test_weight_loading : status (.weightLoad (post 3) 1 1 (2 ^ 30) false) unsigned = some stDenied := by decide +kernel

/-- A load of tensor 1 in one shard of a chunk and 64 bytes, fetched from replica 0 of two since beat 0. -/
def theFetch : ShardFetch := ⟨0, 0, 0, 0, 0, [], [], []⟩
def replicas : List Replica := [⟨zeros 16, 0, 0, 0, 7⟩, ⟨zeros 16, 1, 0, 0, 7⟩]
def theShard : Shard := ⟨0, 1048576 + 64, 0, 3, []⟩
def theLoad (crc : Nat) : Load := ⟨1, 1, true, [theShard], [crc, 0], replicas, [theFetch], 1, 0, 0⟩
def loading (crc : Nat) : State := { demo with place := { demo.place with loads := [theLoad crc] }, clock := ⟨40000, 0, 40000, 0⟩ }

/-- A shard with one replica. -/
def single : State :=
  { demo with place := { demo.place with loads := [⟨1, 1, true, [⟨0, 8, 0, 1, []⟩], [0], replicas.take 1, [theFetch], 1, 0, 0⟩] },
              clock := ⟨40000, 0, 40000, 0⟩ }

theorem test_meets_loads : fetchOf (loading 9) 1 0 = some (theLoad 9, theFetch, theShard, tensor1) ∧ 0 + 1 < shardChunks theShard
    ∧ (∀ d : List Byte, d.length = 1048576 → d.length = chunkLen theShard 0 ∧ crc64 d = (theLoad (crc64 d)).crcs.getD (0 + 0) 0
        ∧ fetchOf (loading (crc64 d)) 1 0 = some (theLoad (crc64 d), theFetch, theShard, tensor1)
        ∧ keepOf (loading (crc64 d)) tensor1 (0 + 0 * mib) ≠ .busy)
    ∧ nextReplica 3 0 (0 :: [] ++ []) = some 1 ∧ 0 + 40000 ≤ (loading 9).clock.beat
    ∧ fetchOf single 1 0 = some (⟨1, 1, true, [⟨0, 8, 0, 1, []⟩], [0], replicas.take 1, [theFetch], 1, 0, 0⟩, theFetch, ⟨0, 8, 0, 1, []⟩, tensor1)
    ∧ nextReplica 1 0 ([] ++ 0 :: []) = none ∧ ¬(∀ q < 8, bit 1 q = true → q ∈ ([] : List Nat)) := by
  refine ⟨by decide +kernel, by decide +kernel, fun d h => ⟨by rw [h]; decide +kernel, rfl, rfl, ?_⟩, by decide +kernel, by decide +kernel,
    by decide +kernel, by decide +kernel, by decide +kernel⟩
  rw [show keepOf (loading (crc64 d)) tensor1 (0 + 0 * mib) = .frame 0 from rfl]
  decide

/-- A shard of one chunk of eight bytes, whose checksum in the manifest is 0. -/
def small : State :=
  { demo with place := { demo.place with loads := [⟨1, 1, true, [⟨0, 8, 0, 3, []⟩], [0], replicas, [theFetch], 1, 0, 0⟩] },
              clock := ⟨40000, 0, 40000, 0⟩ }

/-- R259, R261: after a wrong checksum, and after a fetch that no replica answers in time, another replica is asked. -/
theorem test_loads : (crc64 [1, 2, 3, 4, 5, 6, 7, 8] != 0
    && (after (.chunkArrive 1 0 0 [1, 2, 3, 4, 5, 6, 7, 8]) small).map (fun t => t.place.loads.map fun l => l.flight.map (·.replica)) == some [[1]]
    && (after (.rdmaRemoteAccessError 1 0) small).map (fun t => t.place.loads.map fun l => l.flight.map (·.replica)) == some [[1]]
    && (after (.replicaTimeout 1 0) small).map (fun t => t.place.loads.map fun l => l.flight.map (·.replica)) == some [[1]])
    = true := by decide +kernel

/-- Tensor 1 loaded in one shard of eight bytes from one of two replicas; what its table gives as the checksum, and how often it was
fetched again. -/
def shardOf (crc refetches : Nat) : State :=
  { demo with
    host := { demo.host with progs := [⟨post 3, 0, 1, 0, .load 1⟩] }
    place := { demo.place with loads := [⟨1, 1, false, [⟨0, 8, 0, 3, []⟩], [crc], replicas, [{ theFetch with refetches := refetches }], 1, 0, 0⟩] } }

/-- The premises of the ends of a load: the last chunk of the last shard, a fourth wrong checksum, and no replica left. -/
theorem test_meets_load_ends : (let l : Load := ⟨1, 1, false, [⟨0, 8, 0, 3, []⟩], [crc64 (zeros 8)], replicas, [theFetch], 1, 0, 0⟩
    fetchOf (shardOf (crc64 (zeros 8)) 0) 1 0 = some (l, theFetch, ⟨0, 8, 0, 3, []⟩, tensor1) ∧ 0 + 1 = shardChunks ⟨0, 8, 0, 3, []⟩
      ∧ l.verified = false ∧ l.done + 1 = l.shards.length ∧ (zeros 8).length = chunkLen ⟨0, 8, 0, 3, []⟩ 0
      ∧ keepOf (shardOf 1 3) tensor1 0 ≠ .busy ∧ crc64 (zeros 8) ≠ 1
      ∧ (findProg (shardOf 1 3) fun q => q.job == .load 1) = some ⟨post 3, 0, 1, 0, .load 1⟩
      ∧ (∀ q < 8, bit 1 q = true → q = 0 ∨ q ∈ ([] : List Nat))
      ∧ nextReplica 3 0 ([0] ++ []) = some 1) := by decide +kernel

/-- R258, R261, R262: the load completes; the fourth wrong checksum is SHARD_CORRUPT; no replica has the shard: SHARD_MISSING. -/
theorem test_load_ends : (status (.chunkArrive 1 0 0 (zeros 8)) (shardOf (crc64 (zeros 8)) 0) == some stOk
    && status (.chunkArrive 1 0 0 (zeros 8)) (shardOf 1 3) == some stShardCorrupt
    && status (.rdmaRemoteAccessError 1 0) { shardOf 1 0 with place := { (shardOf 1 0).place with loads :=
        [⟨1, 1, false, [⟨0, 8, 0, 1, []⟩], [1], replicas, [theFetch], 1, 0, 0⟩] } } == some stShardMissing) = true := by decide +kernel

/-- A page that 65,535 mappings share. -/
def crowded : State := { demo with place := { demo.place with pages := [⟨2 ^ 36, 0, 65535, 0, 0⟩] } }

/-- The premises of KV.RELEASE and of SHARE_LIMIT. -/
theorem test_meets_kv_release : Posts (post 3) rowKvShare 3 crowded ∧ Posts (post 3) rowKvRelease 3 demo
    ∧ (let q := seq 1 [(0, some ⟨2 ^ 36, false, false, false, false⟩)]
      findSeq demo 0 1 = some q ∧ (q.maps.map (·.1)).Nodup ∧ inBatch demo 0 1 = false
      ∧ (blockPages q 0 2).filterMap (fun j => (seqMap q j).bind fun k => if k.dropped then none else some k.frame) = [2 ^ 36]
      ∧ (findPage demo (2 ^ 36)).any (fun g => g.refs != 0) = true
      ∧ (sharedMaps q (blockPages q 0 1)).any (fun e => (findPage crowded e.2.frame).any fun g => decide (65535 ≤ g.refs)) = true) :=
  ⟨meets_posts rfl (by decide +kernel), meets_posts rfl (by decide +kernel), by decide +kernel⟩

/-- R212: a page has at most 65,535 references. R214, R223: a release with DESTROY (FLAGS 1) removes the sequence, and its page's last
reference. -/
theorem test_kv_release : (status (.kvShare (post 3) 2 0 1 0 1) crowded == some stShareLimit
    && (after (.kvRelease (post 3) 1 0 0 1 0) demo).map (fun t => (t.place.seqs.map (·.handle), t.place.pages.map (·.refs))) == some ([2], [])
    && (after (.kvMark (post 3) 1 0 2 1 0) demo).map (fun t => t.place.seqs.map fun q => (seqMap q 0).map (·.droppable)) == some [some true, none]
    && (after (.cowCopyDone 0) freed).map (fun t => t.hbm.t1.length) == some 0) = true := by decide +kernel

/-! ## Codec, stacked memory, host link -/

/-- Tensor 1 with forty resident bales, and a decoding session on pipeline 2. -/
def forty : Tensor := { tensor1 with size := 40 * 2097152, bales := (List.range 40).map (bale .resident false) }
def session (st : Nat) : Session := ⟨1, 1, 0, 2, params, st, 0, 0, [], [], none, none, false, [], 0, []⟩
def codecs (l : List Session) : State :=
  { demo with place := { demo.place with tensors := [forty] }, codec := ⟨[], l, l.length + 1⟩ }

/-- The same session as an encoder on pipeline 0. -/
def encoder : CodecParams :=
  { params with dir := 1, level := 14, framing := 0, pipe := 1, colour := 20, mul := [0x3F800000, 0x3F800000, 0x3F800000], refresh := 1, window := 256 }
def encoding : Session := { session 0 with pipe := 0, params := encoder }

theorem test_meets_codec_open : Posts (post 27) rowCodecOpen 27 (codecs []) ∧ checkCtx (post 27) 1 (codecs []) = .ok ctx1
    ∧ (∀ o ∈ [params, encoder], streamFits o = true ∧ pictureFits o = true ∧ rateFits o = true ∧ patchDescFits o = true
      ∧ patchShapeFits o = true ∧ o.workVa + o.workBytes ≤ 2 ^ 48)
    ∧ workNeed params = params.workBytes ∧ rangeCheck (codecs []) 1 params.workVa params.workBytes = none
    ∧ (∃ z ∈ pipeChoices (codecs []) params, ((codecs []).pipe z).power ≠ 2) ∧ choosePipe (codecs []) params = some 2 :=
  ⟨meets_posts rfl (by decide +kernel), rfl, by decide +kernel, by decide +kernel, by decide +kernel, ⟨2, by decide +kernel, by decide +kernel⟩,
    by decide +kernel⟩

/-- A session in the middle of a frame. -/
def amid : State :=
  { codecs [{ session 1 with cmd := some (newCodecCmd demo false false false 0 64 1 0 []) }] with
    clock := ⟨5, 0, 5, 0⟩
    codec := ⟨[(2, { Pipe.reset with busy := true, session := some 1 })], [{ session 1 with cmd := some (newCodecCmd demo false false false 0 64 1 0 []) }], 2⟩ }

theorem test_meets_codec_sessions : Posts (post 1) rowCodecClose 1 (codecs [session 0]) ∧ namedSession (codecs [session 0]) (post 1) 1 = some (session 0)
    ∧ midFrame (codecs [session 0]) (session 0) = false ∧ Posts (post 1) rowCodecClose 1 amid
    ∧ (namedSession amid (post 1) 1).any (fun x => midFrame amid x && !x.closing && x.cmd.isSome && sessionServed amid x) = true
    ∧ (amid.pipe 2).busy = true ∧ ((amid.pipe 2).session.bind (findSession amid)).isSome = true
    ∧ (amid.pipe 2).frameAt + (4 * ceilDiv (64 * 64 * 20000) 1990656000 + 4) ≤ amid.clock.beat + 3
    ∧ Posts (post 1) rowCodecQuery 1 (codecs [session 0]) :=
  ⟨meets_posts rfl (by decide +kernel), by decide +kernel, by decide +kernel, meets_posts rfl (by decide +kernel), by decide +kernel,
    by decide +kernel, by decide +kernel, by decide +kernel, meets_posts rfl (by decide +kernel)⟩

/-- The largest batch of groups at a fixed extent that the buffer holds is not needed: one group, and the last command without bytes. -/
theorem test_meets_codec_work : Posts (post 4) rowCodecDecode 4 (codecs [session 0]) ∧ Posts (post 5) rowCodecEncode 5 (codecs [encoding])
    ∧ namedSession (codecs [encoding]) (post 5) 1 = some encoding
    ∧ codecRanges (codecs [session 0]) 1 [(0, 0), (2 ^ 30 + 36 * 2097152, (1 - 1) * strAt params.desc 3 + groupExtent params.desc)] = none
    ∧ codecRanges (codecs [encoding]) 1 [(2 ^ 30, (2 - 1) * strAt params.desc 3 + groupExtent params.desc), (2 ^ 30 + 36 * 2097152, 1)] = none :=
  ⟨meets_posts rfl (by decide +kernel), meets_posts rfl (by decide +kernel), by decide +kernel, by decide +kernel, by decide +kernel⟩

/-- R305: a session takes the emptiest pipeline of its direction; R307: a smaller work buffer is NO_SPACE. -/
theorem test_codec_open : (status (.codecOpen (post 27) { params with workBytes := 67170303 }) (codecs []) == some stNoSpace
    && choosePipe (codecs [session 0]) params == some 3) = true := by decide +kernel

/-- R325: the watchdog of a frame is marked in its pipeline. -/
theorem test_codec : (status (.codecDecode (post 4) 1 true 0 0 1 (2 ^ 30)) (codecs [session 0]) == some stAccepted
    && status (.codecEncode (post 5) 1 false true (2 ^ 30) 1 (2 ^ 30 + 2097152) 1) (codecs [encoding]) == some stAccepted
    && (after (.codecClose (post 1) 1) (codecs [{ session 0 with params := { params with workBytes := 65536 } }])).map
        (fun t => t.codec.sessions.length) == some 0
    && status (.codecClose (post 1) 1) amid == some stAccepted && status (.codecQuery (post 1) 1) (codecs [session 0]) == some stOk
    && (after (.codecWatchdog 2) { amid with clock := ⟨8, 0, 8, 0⟩ }).map (fun t => ((t.pipe 2).wdog, (t.pipe 2).lastErr)) == some (true, 8))
    = true := by decide +kernel

/-- A frame that failed in its header: it takes its bytes and decodes nothing. -/
def badFrame : FrameReport := { quietReport with bytes := 64, errCode := 3 }

theorem test_frame_done : (after (.codecFrameDone 2 badFrame) amid).map (fun t => (t.pipe 2).frames) = some 1 := by decide +kernel

/-- Channel 0 in its window, and pseudo-channel 0 idle at a slot after 5. -/
theorem test_meets_memory : Posts (post 1) rowMemQuery 1 demo ∧ (∀ i < 15, 5 + i ∈ stacksOf demo 0) ∧ Posts (post 0) rowMemRestore 0 demo
    ∧ (demo.stack 19).st = 2 ∧ windowOf 0 demo.clock.beat = true ∧ chanServes demo 0 = true ∧ demo.clock.acb < 2002
    ∧ slotRun 5 = some 0 ∧ slotRun 4999 = some 4 ∧ slotRun 2474 = some 3 ∧ chanServes demo 639 = true
    ∧ (pcAt demo 0 0).lastSlot ≤ 5000 * demo.clock.beat + 5 ∧ reservedSlot 5 = false ∧ reservedSlot 4999 = false ∧ reservedSlot 2476 = true :=
  ⟨meets_posts rfl (by decide +kernel), by decide +kernel, meets_posts rfl (by decide +kernel), by decide +kernel, by decide +kernel,
    by decide +kernel, by decide +kernel, by decide +kernel, by decide +kernel, by decide +kernel, by decide +kernel, by decide +kernel,
    by decide +kernel, by decide +kernel, by decide +kernel⟩

/-- R284: a channel that fails to train is marked; R289: retraining replaces a dead pin. -/
theorem test_memory : (status (.memQuery (post 1) 5 15) demo == some stOk && status (.memQuery (post 1) 6 15) demo == some stBadArg
    && (after (.memRestore (post 0)) { demo with hbm := { demo.hbm with mapped := [3] } }).map (fun t => t.hbm.trial) == some [3]
    && (after (.refreshSlot 19 85) demo).map (fun t => (t.stack 19).temp) == some 85
    && (after (.retrainWindow 0 false []) demo).map (fun t => (t.chan 0).trfail) == some true
    && (after (.retrainWindow 0 true [(1, 35)]) demo).map (fun t => (t.chan 0).dead1) == some 35
    && (after (.hbmSlot 0 0 5 []) demo).map (fun t => t.clock.acb) == some 65) = true := by decide +kernel

/-- A copy of 128 bytes from the host whose drover serves it, and an exposed partition 0 with a filtered line. -/
def theCopy : HostCopy := ⟨1, 1, 0, 0, 0xFFFF, 2 ^ 30, 0, 128, 0, 0, none, []⟩
def copying : State :=
  { demo with
    host := { demo.host with copies := [theCopy], nextCopy := 2, hdmParts := 1, snoop := [2 ^ 24], progs := [⟨post 4, 0, 1, 0, .hostCopy 1⟩] } }

theorem test_meets_host : Posts (post 4) rowHostCopy 4 demo ∧ checkCtx (post 4) 1 demo = .ok ctx1 ∧ rangeCheck demo 1 (2 ^ 30) 64 = none
    ∧ rangeCheck (codecs []) 1 (2 ^ 30) (40 * 2097152) = none ∧ findCopy copying 1 = some theCopy ∧ copyServed copying theCopy 1 false = true
    ∧ copyServed copying theCopy 0 true = true ∧ hdmWindow copying = true ∧ hdmBacked copying (2 ^ 31) = true
    ∧ hdmBacked copying 0 = false ∧ hdmWindow { copying with host := { copying.host with linkMode := 1 } } = false
    ∧ Posts (post 1) rowHostHdm 1 demo ∧ demo.host.linkMode = 0 ∧ (1 : Nat) < 2 ^ demo.mode
    ∧ (∀ g ∈ copying.host.progs, ∀ gone, ∀ b, g.job ≠ .hdm gone b) :=
  ⟨meets_posts rfl (by decide +kernel), rfl, by decide +kernel, by decide +kernel, by decide +kernel, by decide +kernel, by decide +kernel,
    by decide +kernel, by decide +kernel, by decide +kernel, by decide +kernel, meets_posts rfl (by decide +kernel), rfl, by decide,
    fun g h gone b => by simp [copying] at h; subst h; simp⟩

/-- R378: 64 bytes arrive in T1 at the mapped address, and the command ends with its last sector. -/
theorem test_host : (status (.hostCopy (post 4) 1 0 0xFFFF (2 ^ 30) 64 64) demo == some stAccepted
    && status (.hostCopy (post 4) 1 0 0xFFFF (2 ^ 30 + 32) 64 64) demo == some stBadArg
    && (after (.hostDroverCompletion 1 [leBytes 64 0x1234, zeros 64] false) copying).map (fun t => (tget 0 t.hbm.t1 0, t.host.copies)) == some (0x34, [])
    && status (.hostCompletionTimeout 1) copying == some stLowerTierFail
    && (after (.hdmWrite (2 ^ 31) (leBytes 64 0xAB)) copying).map (fun t => tget 0 t.hbm.t1 (2 ^ 31)) == some 0xAB
    && (after (.hdmRead 0 false) copying).map (fun t => t.host.hdmUnbacked) == some 1
    && (after (.hostSnoop 5) copying).map (·.out) == some [.snoopMiss 5] && status (.hostHdm (post 1) 1) demo == some stOk
    && (after (.backInvalidateResponse (2 ^ 24)) copying).map (fun t => t.host.backInv) == some []) = true := by decide +kernel

/-- The link down in Detect since 20,000 beats, and the link down. -/
def detect : State := { demo with host := { demo.host with up := false, detect := true }, clock := ⟨20000, 0, 20000, 0⟩ }
def down : State := { demo with host := { demo.host with up := false } }

theorem test_meets_link : mayTrain down = true ∧ detect.host.detect = true ∧ detect.host.perst = false ∧ detect.host.detectAt + 20000 ≤ detect.clock.elapsed
    ∧ demo.host.up = true ∧ down.host.up = false ∧ demo.sec.spdmDoe = 0 ∧ 0 < (updSec (fun x => { x with spdmDoe := 1 }) demo).sec.spdmDoe := by
  decide +kernel

/-- R355: the device accepts x4, and holds in Detect below it. R359: hot reset closes the functions. -/
theorem test_link : ((after (.linkTrained 5 4) down).map (fun t => (t.host.up, t.host.linkMode, t.host.width)) == some (true, 5, 4)
    && (after (.linkTrained 0 3) down).map (fun t => (t.host.up, t.host.detect)) == some (false, true)
    && (after .linkDetectRetry detect).map (fun t => t.host.detect) == some false && (after .linkDown demo).map (fun t => t.host.up) == some false
    && (after (.functionLevelReset 0) demo).map (fun t => (t.func 0).opened) == some false
    && (after .hotReset demo).map (fun t => (t.host.up, (t.func 0).opened)) == some (false, false)
    && (after .perstAssert demo).map (fun t => t.host.perst) == some true && (after .perstDeassert demo).map (fun t => t.host.perst) == some false
    && (after (.doeRequest .other []) down).map (fun t => t.out.length) == some 0) = true := by decide +kernel

/-- The copy to the host, with and without poison in its first sector; and a HOST.HDM that waits for one line. -/
def outward (poisoned : Bool) : State :=
  { copying with
    host := { copying.host with copies := [{ theCopy with dir := 1 }] }
    hbm := { copying.hbm with poison := if poisoned then [(0, [0])] else [] } }
def hidden : State :=
  { copying with host := { copying.host with hdmParts := 0, snoop := [], backInv := [2 ^ 24], progs := [⟨post 1, 0, 0, 0, .hdm 1 0⟩] } }

theorem test_meets_outward : (∀ b, findCopy (outward b) 1 = some { theCopy with dir := 1 } ∧ ctxCancelled (outward b) 1 = false
      ∧ copyServed (outward b) { theCopy with dir := 1 } 1 false = true ∧ vaPoisoned (outward b) 1 (2 ^ 30 + 0) = b)
    ∧ Posts (post 1) rowHostHdm 1 copying ∧ (∃ l ∈ copying.host.snoop, bit (1 &&& (15 ^^^ 0)) (partOfPa copying (64 * l)) = true)
    ∧ (∀ l ∈ hidden.host.backInv, bit 1 (partOfPa hidden (64 * l)) = true → l = 2 ^ 24) :=
  ⟨fun b => by cases b <;> decide +kernel, meets_posts rfl (by decide +kernel), ⟨2 ^ 24, by decide +kernel, by decide +kernel⟩, by decide +kernel⟩

/-- R378: a sector goes out as T1 holds it, and poison ends the copy with BAD_STATE (R293). R379: HOST.HDM waits for the line. -/
theorem test_outward : ((after (.hostDroverCompletion 1 [zeros 64] false) (outward false)).map (fun t => (t.out, t.host.copies.map (·.done)))
      == some ([.hostWrite 0 (zeros 64) false], [64])
    && status (.hostDroverCompletion 1 [zeros 64] false) (outward true) == some stBadState
    && status (.hostHdm (post 1) 0) copying == some stAccepted && status (.backInvalidateResponse (2 ^ 24)) hidden == some stOk) = true := by
  decide +kernel

/-- The command in progress of the session, and the link with the copy in progress. -/
def amidCmd : State := { amid with host := { amid.host with progs := [⟨post 4, 0, 1, 0, .codec 1⟩] } }

theorem test_meets_ends : reportFits badFrame = true ∧ reportError params badFrame ≠ 0 ∧ (amid.pipe 2).raised = false
    ∧ (amid.pipe 2).frameAt + (4 * ceilDiv (64 * 64 * 20000) 1990656000 + 4) ≤ ({ amid with clock := ⟨8, 0, 8, 0⟩ } : State).clock.beat
    ∧ findProg amidCmd (fun y => y.job == .codec 1) = some ⟨post 4, 0, 1, 0, .codec 1⟩
    ∧ (copying.host.copies.map (·.id)).Nodup ∧ Sole ⟨post 4, 0, 1, 0, .hostCopy 1⟩ copying
    ∧ findProg copying (fun x => x.job == copyJob theCopy) = some ⟨post 4, 0, 1, 0, .hostCopy 1⟩ ∧ boundaryDue demo = false := by
  refine ⟨by decide +kernel, by decide +kernel, by decide +kernel, by decide +kernel, by decide +kernel, by decide +kernel, ?_, by decide +kernel,
    by decide +kernel⟩
  simp [Sole, copying]

/-- R316: an error in the stream ends the decode with BAD_ARG. R358: a link that goes down ends the copies with LOWER_TIER_FAIL. -/
theorem test_ends : (status (.codecFrameDone 2 badFrame) amidCmd == some stBadArg
    && status .linkDown copying == some stLowerTierFail) = true := by decide +kernel

/-! ## Fold programs -/

/-- A tile word without operands, and a program of words over descriptors on a partition of 64 pens. -/
def word (op : Nat) : TileWord := ⟨op, false, false, false, false, false, 0, 0, 0, 0, 0, 0, 0, 0, 0, 0, 0, 1, 0, 0, false, 0⟩
def program (ws : List TileWord) (ds : List Desc) : Program where
  magic := 0x4650564F
  version := 2
  penCount := 64
  fabric := false
  nDesc := ds.length
  nWords := ws.length
  slackAc := 130000
  leadAc := 0
  descOff := 128
  wordOff := 128 + 128 * ds.length
  energyOff := 0
  energyN := 0
  length := 128 + 128 * ds.length + 64 * ws.length
  headRsv := false
  descs := ds
  words := ws
  energy := []

/-- The program's RUN since beat 10, with every word decoded, as the running RUN of partition 0. -/
def live (ws : List TileWord) (ds : List Desc) : Run :=
  { newRun demo (post 4) 1 10 2 (program ws ds) [] with begun := true, decoded := ws.length }
def runs (r : Run) : State :=
  updPart 0 (fun q => { q with st := .running, run := some r })
    { demo with
      clock := ⟨10, 0, 10, 0⟩
      host := { demo.host with progs := [⟨post 4, 0, 1, 0, .run 0 r.id⟩] } }

/-- The RUN of partition 0 that a command leaves. -/
def runAfter (i : Instr) (s : State) : Option Run := (after i s).bind fun t => (t.part 0).run


/-- The image of a program of one TL word for ABI version 1 and n pens (R115, R120), at the start of tensor 1, and the program. -/
def tlImage (n : Nat) : List Byte :=
  leBytes 4 0x4650564F ++ leBytes 2 1 ++ leBytes 1 n ++ leBytes 1 0 ++ leBytes 4 1 ++ leBytes 4 1 ++ leBytes 4 0 ++ leBytes 4 0
    ++ leBytes 8 128 ++ leBytes 8 256 ++ zeros 8 ++ leBytes 8 0 ++ leBytes 8 288 ++ zeros 64 ++ zeros 128 ++ leBytes 1 0x70 ++ zeros 31
def tlProgram (n : Nat) : Program :=
  { program [{ word opTl with rbCount := 0 }] [Desc.null] with version := 1, penCount := n, slackAc := 0, length := 288 }
def submitting (n : Nat) : State := { abiOne with hbm := { abiOne.hbm with t1 := putBytes [] 0 (tlImage n) } }

theorem is_ok {x : Except Failure Program} {q : Program} (h : (match x with | .ok p => decide (p = q) | .error _ => false) = true) : x = .ok q := by
  split at h
  · simpa using h
  · cases h

/-- The premises of RunSubmission's accepted RUN, at the first beat that R57 allows. -/
theorem test_meets_submission : (let s := submitting 64
    let u := taken (post 4) s
    let r := newRun u (post 4) 1 2 1 (tlProgram 64) []
    let v := pagesAtAcceptance u 0 r
    Posts (post 4) rowRunSubmit 4 s ∧ checkCtx (post 4) 1 s = .ok ctx1 ∧ loadProgram u 0 1 (s.func 0).abi (2 ^ 30) = .ok (tlProgram 64)
    ∧ (ctxCode s ctx1 = 1 ∧ (s.part 0).st ≠ .quiesced ∧ (s.part 0).run = none ∧ s.clock.beat + 2 ≤ 2 ∧ listFull s 0 = false
      ∧ staticChecks u 0 1 [] (tlProgram 64) = none ∧ scheduleChecks u 0 (withPages u 0 r) = none ∧ stateChecks u 0 (tlProgram 64) = none
      ∧ (tlProgram 64).version = 1 ∧ workingSet u 1 (2 ^ 30) (tlProgram 64) = [(1, 0)] ∧ baleLoading u (1, 0) = false ∧ baleReady u (1, 0) = true
      ∧ descFail (tlProgram 64) (fun d => failIf (d.layout != 4 && !rangeValid u 1 d.base (descSpan d)) stBadArg) = none
      ∧ writeCodes u 0 1 [] (tlProgram 64) = [] ∧ readCodes u 0 1 [] (tlProgram 64) = []
      ∧ pagesNeeded u 0 [] ≤ freePages u 0 + (eligiblePages u 0 []).length ∧ copiesLate u v 0 (firstBeat r) = false
      ∧ entriesShort u 0 1 0 = 0)) :=
  ⟨meets_posts rfl (by decide +kernel), rfl, is_ok (by decide +kernel), by decide +kernel⟩

/-- The premises of SubmissionStateChecks: a program for 63 pens. -/
theorem test_meets_state_checks : (let s := submitting 63
    let u := taken (post 4) s
    let r := newRun u (post 4) 1 1200000 1 (tlProgram 63) []
    Posts (post 4) rowRunSubmit 4 s ∧ loadProgram u 0 1 (s.func 0).abi (2 ^ 30) = .ok (tlProgram 63)
    ∧ (1200000 ≤ s.clock.beat + 1200000 ∧ staticChecks u 0 1 [] (tlProgram 63) = none ∧ scheduleChecks u 0 (withPages u 0 r) = none
      ∧ (tlProgram 63).penCount ≠ penCount s 0)) :=
  ⟨meets_posts rfl (by decide +kernel), is_ok (by decide +kernel), by decide +kernel⟩

/-- R57: beats n + 2 to n + 1,200,000 are accepted; R30: a program for another pen count is BAD_STATE. -/
theorem test_submission : (status (.runSubmit (post 4) 1 (2 ^ 30) 2 []) (submitting 64) == some stAccepted
    && status (.runSubmit (post 4) 1 (2 ^ 30) 1200000 []) (submitting 64) == some stAccepted
    && status (.runSubmit (post 4) 1 (2 ^ 30) 1 []) (submitting 64) == some stBadArg
    && status (.runSubmit (post 4) 1 (2 ^ 30) 1200001 []) (submitting 64) == some stBadArg
    && status (.runSubmit (post 4) 1 (2 ^ 30) 2 []) (submitting 63) == some stBadState) = true := by decide +kernel


/-! ## Steps -/

/-- One element of BF16 with INLINE quantisation to INT8 and no clipped element allowed, its weight, and its result (R84, R88, R117). -/
def oneElement (format layout : Nat) : Desc := { Desc.null with format := format, layout := layout, ext := [1, 1, 1, 1, 1], str := [64, 64, 64, 64] }
def mmDescs : List Desc :=
  [Desc.null, { oneElement 0x0A 1 with base := 2 ^ 30, qmode := 1 }, { oneElement 0x07 3 with base := 2 ^ 30 + 65536 },
    { oneElement 0x0C 1 with base := 2 ^ 30 + 131072 }]
def mmWord (policy : Nat) : TileWord := { word opMm with da := 1, db := 2, dc := 3, k := 1, policy := policy }

/-- The RUN of one MM word whose lots are in place, with an element of the given bits at the pen. -/
def mmRun (policy : Nat) : Run :=
  let r := live [mmWord policy] mmDescs
  { r with placed := (lotPlans (runs r) 0 r 0 (mmWord policy)).map (·.lot) }
def mmState (policy bits : Nat) : State :=
  updPen 0 (fun q => { q with spad := [⟨0, [(2 ^ 30, BitVec.ofNat 8 bits), (2 ^ 30 + 1, BitVec.ofNat 8 (bits / 256))]⟩] }) (runs (mmRun policy))

/-- The step in flight at its verdict. -/
def atVerdict (policy bits : Nat) : State := (after (.mm 0 .clean) (mmState policy bits)).getD State.reset


/-- The words that commit as they issue, and those whose steps end in a verdict. -/
def plainOps : List Nat := [opLoad, opStore, opWeight, opSend, opRecv, opFold, opSignal, opWait, opGrant, opTl]
def one (w : TileWord) : State := runs (live [w] [])

/-- The premises of PlainWords and RoundIssue: each word is next and its ac has come; the words without a verdict commit at once. -/
theorem test_meets_words : (∀ o ∈ plainOps, issueReady (one (word o)) 0 o = some (live [word o] [], word o)
      ∧ commitsAtOnce 0 (live [word o] []) (word o) (commitAc (live [word o] []) (word o))
          (launch 0 0 (word o) (firstAttempt (one (word o)) 0 (live [word o] []) (word o)) 0 false
            (atIssue 0 (live [word o] []) (word o) (one (word o)))) = true
      ∧ (one (word o)).recov.steps = [])
    ∧ (∀ o ∈ [opMm, opCv, opDw], issueReady (one (word o)) 0 o = some (live [word o] [], word o)
      ∧ slotsFree (one (word o)) 0 (live [word o] []) 0 (word o) 0 = true)
    ∧ issueReady (one (word opRw)) 0 opRw = some (live [word opRw] [], word opRw) ∧ (live [word opRw] []).nextRound = 0 := by decide +kernel

/-- An AT word whose queries are in place. -/
def atRun : Run := { live [word opAt] [] with placed := [⟨0, 0, 0, .activation, 0, 0⟩] }

/-- A word behind a step in flight that ends later, so that it does not commit as it issues. -/
def behind (o : Nat) : Run :=
  { live [word opTl, word o] [] with nextInstr := 1, flight := [⟨0, 0, 0, false, 649990, 650900, false, 0, 0, 0, []⟩] }

/-- A receive of 64 bytes that has arrived, and a held send of the same instruction. -/
def arrived (o : Nat) : State :=
  updFabric (fun f => { f with gates := [(0, { Gate.reset with
    recvs := [⟨0, 0, 0, 0, 0, 1, 64, 0, none, [], [], some (zeros 64), false⟩]
    sends := [⟨0, 0, 64, [], false, 0, 0, 0, 1, 0, 0, 0, false⟩] })] }) (one (word o))

/-- A word that grants up to eight blocks of a list of four entries. -/
def grantEight : TileWord := { word opGrant with da := 1, dc := 2, rbFirst := 1, rbCount := 8 }
def grantRun : Run :=
  { live [grantEight] [Desc.null, { Desc.null with ext := [4, 1, 1, 1, 1] }, { Desc.null with ext := [1, 512, 1, 1, 1] }] with
    placed := [⟨0, 0, 0, .workList, 0, 0⟩] }

/-- Lists for the work counter: two blocks of the first pens, and more entries than the word allows. -/
def granting (l : List Nat) : State :=
  updPart 0 (fun q => { q with wcnt := [(0, { WorkCounter.reset with list := l })] }) (runs grantRun)

theorem test_meets_word_forms : issueReady (runs atRun) 0 opAt = some (atRun, word opAt) ∧ slotsFree (runs atRun) 0 atRun 0 (word opAt) 0 = true
    ∧ (∀ o ∈ plainOps, issueReady (runs (behind o)) 0 o = some (behind o, word o)
      ∧ commitsAtOnce 0 (behind o) (word o) (commitAc (behind o) (word o))
          (launch 0 1 (word o) (firstAttempt (runs (behind o)) 0 (behind o) (word o)) 0 false (atIssue 0 (behind o) (word o) (runs (behind o)))) = false)
    ∧ accepted (arrived opRecv) 0 0 (word opRecv) = true ∧ accepted (one (word opRecv)) 0 0 (word opRecv) = false
    ∧ recvResult 0 ⟨0, 0, 0, 0, 0, 1, 64, 0, none, [], [], some (zeros 64), false⟩ (zeros 64) = some (zeros 64)
    ∧ syncValue (one { word opWait with value := 3 }) 0 0 < 3
    ∧ listFault grantRun.prog
        grantEight [2, 0, 1] = none
    ∧ listFault grantRun.prog
        grantEight [4, 0, 1] = some (stBadLength, 0)
    ∧ commitAc (live [word opGrant] []) (word opGrant) - 650000 ≤ 130000 := by decide +kernel

/-- R142: SY.SIGNAL adds; SY.WAIT below its value slips as a late lot (R71: cause 3). R339: no message is FABRIC_LATE. R137: a grant
queues the blocks in order, and a list that is too long ends the RUN with BAD_LENGTH (R138). -/
theorem test_words : ((after (.sySignal 0) (one { word opSignal with value := 5, sel := 9 })).map (fun t => syncValue t 0 9) == some 5
    && (after (.syWait 0) (one { word opWait with value := 3 })).map (fun t => ((t.part 0).st, (t.part 0).cause)) == some (.quiesced, slipLotLate)
    && (after (.mvRecv 0) (one (word opRecv))).map (fun t => (t.part 0).cause) == some slipFabricLate
    && (runAfter (.mvRecv 0) (arrived opRecv)).map (·.doneInstr) == some 1
    && (after (.mvSend 0) (arrived opSend)).map (fun t => ((t.gate 0).seq, (t.gate 0).sends.map (·.issued))) == some (1, [true])
    && (after (.syWgrant 0 false) (granting [2, 0, 1])).map (fun t => ((t.pen 0).grants, (t.pen 1).grants)) == some ([⟨0, 1, 0⟩], [⟨1, 2, 0⟩])
    && (runAfter (.syWgrant 0 false) (granting [4, 0, 1])).map (fun r => r.ending.map (·.status)) == some (some stBadLength)
    && (after (.syWgrant 0 true) (granting [2, 0, 1])).map (fun t => (tget WorkCounter.reset (t.part 0).wcnt 0).perr) == some true) = true := by
  decide +kernel

theorem test_rounds : ([Instr.mm 0 .clean, .cv 0 .clean, .cvDw 0 .clean, .attn 0 .clean, .rw 0].zip [opMm, opCv, opDw, opAt, opRw]).all (fun e =>
    (runAfter e.1 (if e.2 = opAt then runs atRun else one (word e.2))).map (fun r => r.flight.map (·.instr)) == some [0]) = true := by
  decide +kernel

/-- An anchored word whose port is free only later than its ac. -/
def late (o slips : Nat) : State :=
  updPart 0 (fun q => { q with slips := slips }) (runs { live [{ word o with anchor := true, issue := 1 }] [] with portFree := 650003 })

theorem test_meets_anchors : (opMm :: opCv :: opDw :: opAt :: opRw :: plainOps).all (fun o => anchorSlip (late o 0) 0 o == some 650001) = true := by
  decide +kernel

/-- R70, R74: the first slip retries; the third ends the RUN with SLIP. -/
theorem test_anchors : ((after (.tl 0) (late opTl 0)).map (fun t => ((t.part 0).cause, (t.part 0).slips, (t.part 0).retry))
      == some (slipAnchorLate, 1, true)
    && (runAfter (.mm 0 .clean) (late opMm 2)).map (fun r => r.ending.map (·.status)) == some (some stSlip)) = true := by decide +kernel


/-- The RUN at its first drover work, before its start beat. -/
def early : Run := let r := live [mmWord 0] mmDescs; { r with startBeat := 12, prog := { r.prog with leadAc := 130000 } }
def started (r : Run) : State := updPart 0 (fun q => { q with st := .accepted, run := some r }) (runs r)
def lot0 : LotRef := ⟨0, 0, 0, .activation, 0, 0⟩
def opened : Run := (runAfter (.droverStart 0 0 0) (started early)).getD early
def here (bad : Bool) : Run := { opened with arrived := [⟨lot0, 0, 650000, zeros 64, bad⟩] }
def busyCounter : State :=
  updPart 0 (fun q => { q with wcnt := [(0, { WorkCounter.reset with busy := true })] }) (started { live [word opGrant] [] with decoded := 0 })

theorem test_meets_decoding : decodeReady (started { early with decoded := 0 }) 0 = some ({ early with decoded := 0 }, mmWord 0)
    ∧ decodeFault ((started early).part 0) { early with decoded := 0 } 0 (mmWord 0) = none
    ∧ decodeReady busyCounter 0 = some ({ live [word opGrant] [] with decoded := 0 }, word opGrant)
    ∧ decodeFault (busyCounter.part 0) { live [word opGrant] [] with decoded := 0 } 0 (word opGrant) = some (5, 0)
    ∧ droverReady (started early) 0 0 0 = some (early, mmWord 0)
    ∧ (∀ b, ((lotReady (started (here b)) lot0).map fun e => (e.1, e.2.1)) = some (here b, mmWord 0))
    ∧ ((lotReady (started (here false)) lot0).all fun e =>
        lotFits (countLot e.2.2.drover 0 (placeLot (started (here false)) e.1 e.2.1 e.2.2)) e.1 e.2.1 e.2.2) = true
    ∧ badSector (here false) lot0 = none ∧ badSector (here true) lot0 = some 0
    ∧ lotOverdue (runs (live [mmWord 0] mmDescs)) lot0 = some (650000, 0) ∧ acCome 650000 (runs (live [mmWord 0] mmDescs)) = true := by
  decide +kernel

/-- R130: a busy counter stops decoding with code 5. R280: the lot's sector is asked for. R36, R293: an uncorrectable sector poisons the
lot and ends the RUN with BAD_STATE. R34: a lot past its deadline is late. -/
theorem test_decoding : ((runAfter (.tileDecode 0) (started { early with decoded := 0 })).map (·.decoded) == some 1
    && (after (.tileDecode 0) busyCounter).map (fun t => (t.part 0).dfCode) == some 5
    && (after (.droverStart 0 0 0) (started early)).map (fun t => t.hbm.pcs.map fun e => e.2.reqs.map fun q => (q.addr, q.rank)) == some [[(0, 1)]]
    && (runAfter (.lotComplete lot0 false) (started (here false))).map (·.placed) == some [lot0]
    && (runAfter (.lotComplete lot0 false) (started (here true))).map (fun r => r.ending.map (·.status)) == some (some stBadState)
    && (after (.lotLate lot0) (runs (live [mmWord 0] mmDescs))).map (fun t => ((t.pen 0).late, (t.drover 0).late, (t.part 0).cause))
        == some (true, true, slipLotLate)) = true := by decide +kernel

/-- A store lot whose rows have drained, before the start beat and so before any deadline. -/
def storeLot0 : LotRef := ⟨0, 0, 0, .store, 0, 0⟩
def storing : Run :=
  { live [{ word opStore with da := 1, dc := 3 }] mmDescs with startBeat := 12, toStore := [storeLot0], opened := [(0, 64)] }

theorem test_meets_store : storeReady (started storing) storeLot0 = some (storing, { word opStore with da := 1, dc := 3 })
    ∧ toPens { word opStore with da := 1, dc := 3 } = false := by
  refine ⟨?_, by decide +kernel⟩
  have h1 : ((started storing).part storeLot0.part).run = some storing := by decide +kernel
  have h2 : wordAt storing storeLot0.instr = some { word opStore with da := 1, dc := 3 } := by decide +kernel
  have h3 : (storing.toStore.contains storeLot0 && (opStore == opRecv || drained (started storing) storeLot0)
      && (toPens { word opStore with da := 1, dc := 3 } || queueRoom (started storing)
        (storeSectors (started storing) storing (storeData (started storing) storing { word opStore with da := 1, dc := 3 } storeLot0)))
      && droverInOrder (started storing) storeLot0.instr
        (storeDrover (started storing) storeLot0.part { word opStore with da := 1, dc := 3 } storeLot0)
      && portPassed (started storing) (storeDrover (started storing) storeLot0.part { word opStore with da := 1, dc := 3 } storeLot0)
        (storeData (started storing) storing { word opStore with da := 1, dc := 3 } storeLot0).length) = true := by decide +kernel
  have h4 : absAc (started storing) < storeDue storing storeLot0 := by
    have h : absAc (started storing) < 65000 * (storing.startBeat + storing.shift) := by decide +kernel
    exact Nat.lt_of_lt_of_le h (Nat.le_add_right _ _)
  unfold storeReady
  rw [h1, Option.bind_some, h2, Option.bind_some]
  have h5 : decide (absAc (started storing) < storeDue storing storeLot0) = true := decide_eq_true h4
  exact if_pos (by rw [h5, Bool.and_true]; exact h3)

/-- The verdict of a step with a result, with a clipped element above the limit of 0, and with an infinity. -/
theorem test_meets_verdicts : (∀ e ∈ [(0x3F80, 0), (0x447A, kindClipExcess), (0x7F80, kindClipExcess + kindNonFinite)],
      let s := atVerdict 0 e.1
      (verdictReady s 0).any (fun v => !v.2.1.engineFault && isSlotted v.2.2
        && (stepResults s 0 v.1 v.2.1 v.2.2).foldl (fun a e => a ||| e.2.2.kinds) 0 == e.2
        && (lotDues s 0 v.1).all (fun x => x.1 != max v.2.1.verdict v.1.lastCommit) && (lateAnchor v.1).isNone
        && (reissueSlip v.1 v.2.1 v.2.2 (max v.2.1.verdict v.1.lastCommit + 512)).isNone
        && v.1.prog.penCount == (enabledPens s 0).length) = true ∧ s.recov.steps = []) := by decide +kernel

/-- R105, R107, R111: a replay is issued 512 ac after the verdict, in assay mode under ASSAY; COMMIT commits; a non-finite value ends the
RUN. -/
theorem test_verdicts : ((runAfter (.stepVerdict 0) (atVerdict 0 0x3F80)).map (·.doneInstr) == some 1
    && (runAfter (.stepVerdict 0) (atVerdict 0 0x447A)).map (fun r => r.replay.map fun y => (y.attempt, y.assay, y.issue)) == some (some (1, false, 650537))
    && (runAfter (.stepVerdict 0) (atVerdict 1 0x447A)).map (fun r => r.replay.map fun y => (y.attempt, y.assay)) == some (some (3, true))
    && (runAfter (.stepVerdict 0) (atVerdict 2 0x447A)).map (fun r => (r.doneInstr, r.trouble.committed)) == some (1, 1)
    && (runAfter (.stepVerdict 0) (atVerdict 0 0x7F80)).map (fun r => r.ending.map (·.status)) == some (some stNonFinite)) = true := by
  decide +kernel

/-- The reissue of that step, a slot that drains, and a step with a broadcast fault. -/
def replaying : State := (after (.stepVerdict 0) (atVerdict 0 0x447A)).getD State.reset
def drainingState : State := (after (.stepVerdict 0) (atVerdict 0 0x3F80)).getD State.reset
def faulty : State := (after (.mm 0 .double) (mmState 0 0x3F80)).getD State.reset

theorem test_meets_replay : (replayReady replaying 0).isSome = true ∧ (drainReady drainingState 0 0).isSome = true
    ∧ (verdictReady faulty 0).any (fun v => v.2.1.engineFault && (reissueSlip v.1 v.2.1 v.2.2 (max v.2.1.verdict v.1.lastCommit)).isNone) = true
    ∧ ((drainingState.part 0).st = .running ∧ ((drainingState.part 0).run).any (fun r => r.ending.isNone) = true) := by decide +kernel

/-- R105: the replay keeps its attempt. R17: a drained slot is FREE. R22: a collision sets HAZ and slips. R26: a fault is reissued at the
same attempt. -/
theorem test_replay : ((runAfter (.troubleReplay 0 .clean) replaying).map (fun r => r.flight.map fun x => (x.attempt, x.issue)) == some [(1, 650537)]
    && (after (.drain 0 0 false) drainingState).map (fun t => (tget Slot.reset (t.pen 0).slots 0).st) == some .free
    && (after (.drain 0 0 true) drainingState).map (fun t => ((t.pen 0).haz, (t.part 0).cause)) == some (true, slipHazard)
    && (runAfter (.stepVerdict 0) faulty).map (fun r => r.replay.map (·.attempt)) == some (some 0)) = true := by decide +kernel

/-- RUNs at their end: done, with a fallback, stopped with a status, and stopped by a decode fault; the quiesce lies a beat back. -/
def done (fallbacks : Nat) : State :=
  let r := live [word opTl] []
  runs { r with nextInstr := 1, doneInstr := 1, trouble := { r.trouble with fallbacks := fallbacks } }
def stopped (e : Ending) (stop : Option Nat) : State :=
  updPart 0 (fun q => { q with st := .quiesced, quiescedAt := 9 }) (runs { live [word opTl] [] with ending := some e, decodeStop := stop })

theorem test_meets_run_ends : ((done 0).part 0).run.any (fun r => r.ending.isNone && r.decodeStop.isNone && decide (r.prog.nWords ≤ r.doneInstr)
      && r.flight.isEmpty && storesDone r && (findProg (done 0) fun x => x.job == .run 0 r.id).isSome) = true
    ∧ ((stopped ⟨stSlip, 3, 3, 0⟩ none).part 0).quiescedAt < (stopped ⟨stSlip, 3, 3, 0⟩ none).clock.beat
    ∧ (stopped ⟨stSlip, 3, 3, 0⟩ none).clock.acb = 0 ∧ ctxOf (stopped ⟨stBadArg, 5, 3, 0⟩ (some 0)) 1 = some ctx1
    ∧ Posts (post 1) rowRunQuery 1 (done 0) ∧ Posts (post 1) rowRunQuery 1 demo ∧ (demo.part 0).run = none :=
  ⟨by decide +kernel, by decide +kernel, by decide +kernel, by decide +kernel, meets_posts rfl (by decide +kernel),
    meets_posts rfl (by decide +kernel), by decide +kernel⟩

/-- R371, R377: OK, TROUBLE_FALLBACK after an assay verdict that a step fell back to, and the status of a RUN that stopped; R132: a decode
fault cancels the context. -/
theorem test_run_ends : (status (.runComplete 0) (done 0) == some stOk && status (.runComplete 0) (done 1) == some stTroubleFallback
    && status (.runComplete 0) (stopped ⟨stSlip, 3, 3, 0⟩ none) == some stSlip
    && (after (.runComplete 0) (stopped ⟨stBadArg, 5, 3, 0⟩ (some 0))).map (fun t => (ctxOf t 1).map (·.cancelled)) == some (some true)
    && status (.runQuery (post 1) 0) (done 0) == some stOk && status (.runQuery (post 1) 7) (done 0) == some stBadArg) = true := by decide +kernel

/-- An accepted RUN at its first beat, and a RUN that waits behind another at its first beat. -/
def accepted0 : State := updPart 0 (fun q => { q with st := .accepted, run := some { live [word opTl] [] with begun := false } }) (runs (live [word opTl] []))
def waiting0 : State :=
  updHost (fun h => { h with progs := h.progs ++ [⟨{ post 4 with mbx := 1 }, 0, 1, 0, .run 0 7⟩] })
    (updPart 0 (fun q => { q with waiting := some { live [word opTl] [] with id := 7 } }) (runs (live [word opTl] [])))

theorem test_meets_waiting : (65000 * 10 - 0) / 65000 ≤ accepted0.clock.beat ∧ partStep accepted0 0 = none ∧ (accepted0.part 0).waiting = none
    ∧ (waiting0.part 0).run.any (fun r => r.ending.isNone && decide (r.doneInstr < r.prog.nWords)) = true
    ∧ (findProg waiting0 fun x => x.job == .run 0 7).isSome = true := by decide +kernel

/-- R393: a RUN begins at its first beat, and one that is still behind another then is refused with BAD_STATE. -/
theorem test_waiting : ((runAfter (.waitingRunStart 0) accepted0).map (·.begun) == some true
    && (after (.waitingRunStart 0) waiting0).map (fun t => ((t.part 0).waiting, (t.mbx 0 1).complete / 65536)) == some (none, stBadState)) = true := by
  decide +kernel

/-! ## Fabric and gates -/

/-- Gate 0 as given, with partition 0's route 0 through it to module 1 (and back over gate 0), and no alternate. -/
def route0 : Route := ⟨1, 1, 0, 0, 0, 255, 1000, 65000⟩
def gated (g : Gate) : State :=
  updPart 0 (fun q => { q with routes := [(0, ⟨true, false, route0⟩)] })
    (updFabric (fun f => { f with gates := [(0, g)], moduleId := 3 }) { demo with clock := ⟨40001, 0, 40001, 0⟩ })
def upGate : Gate := { Gate.reset with st := 2, lastIdle := 4000100 }

theorem test_meets_fabric_commands : (let s := gated upGate
    Posts (post 8) rowFabricConfig 8 s ∧ Posts (post 501) rowFabricRoute (1 + 4 * (List.replicate 125 route0).length) s
    ∧ Posts (post 0) rowFabricQuery 0 s ∧ Posts (post 3) rowFabricCopy 3 s ∧ checkCtx (post 3) 1 s = .ok ctx1
    ∧ (changedGates s fabricParams.modes = [] ∧ noRuns s = true
      ∧ loweredBudgets s (floorOf fabricParams.modes) = (List.range 4).map (fun k => (s.part k).budget)
      ∧ budgetsBreak s (loweredBudgets s (floorOf fabricParams.modes)) = false ∧ (∀ m ∈ fabricParams.modes, (modeOf m).isSome = true)
      ∧ 131 + 125 ≤ 256 ∧ runsOf (s.part 0) = [] ∧ routeFits s 0 [] route0 = true ∧ routeAt s 0 0 = some route0
      ∧ gateUp s route0.rxGate = true ∧ gateUp s (firstGate route0) = true ∧ rangeCheck s 1 (2 ^ 30) (2 * 2097152) = none)) :=
  ⟨meets_posts rfl (by decide +kernel), meets_posts rfl (by decide +kernel), meets_posts rfl (by decide +kernel),
    meets_posts rfl (by decide +kernel), rfl, by decide +kernel⟩

/-- R332: LAT of at least 130 ac a hop and 6; R350: cells of 2,000 bytes; R353. -/
theorem test_fabric_commands : (let s := gated upGate
    status (.fabricConfig (post 8) fabricParams) s == some stOk
    && status (.fabricConfig (post 8) { fabricParams with shiftMargin := 16 }) s == some stBadArg
    && (after (.fabricRoute (post 5) 255 1 [route0]) s).map (fun t => (t.mbx 0 0).complete / 65536) == some stOk
    && status (.fabricRoute (post 5) 0 1 [{ route0 with lat := 135 }]) s == some stBadArg
    && status (.fabricQuery (post 0)) s == some stOk && status (.fabricCopy (post 3) 1 0 1 0 (2 ^ 30) 1) s == some stAccepted
    && (after (.fabricCopy (post 3) 1 0 0 0 (2 ^ 30) 2001) s).map (fun t => (t.gate 0).waiting.length) == some 2) = true := by decide +kernel

/-- A gate with a waiting cell, with a receive of one cell of one byte, and with a held send that has issued. -/
def cell0 : WaitCell := ⟨header, zeros 2000, 0, 10, false, 0, 0⟩
def recv0 (ncell : Nat) : RecvHold := ⟨0, 0, 1, 5, 100, ncell, 1, 0, none, [], [], none, false⟩
def send0 : SendHold := ⟨0, 0, 2001, [], true, 9, 0, 5, 1, 0, 100, 0, false⟩
def head (ncell : Nat) : CellHeader := withHcrc { header with dest := 3, ncell := ncell }
def relayed : CellHeader := withHcrc { header with hops := 2, hop := 0 }
def copies0 : State :=
  updHost (fun h => { h with progs := [⟨post 3, 0, 1, 0, .fabricCopy 4⟩] })
    (updFabric (fun f => { f with copies := [⟨4, 1, 0, 0, 1, 5, 2 ^ 30, 64, 1, 0⟩] }) (gated upGate))

theorem test_meets_cells : firstCell [cell0] = some cell0 ∧ gateUp (gated { upGate with waiting := [cell0] }) 0 = true
    ∧ acCome (leaveAc { upGate with waiting := [cell0] } cell0) (gated { upGate with waiting := [cell0] }) = true
    ∧ (∀ n ∈ [1, 2], hcrcGood (head n) = true ∧ (head n).type = 1 ∧ (head n).dest = (gated upGate).fabric.moduleId
      ∧ ([recv0 n].find? (recvTakes (head n))) = some (recv0 n) ∧ ([] : List RecvHold).find? (recvTakes (head n)) = none)
    ∧ hcrcGood relayed = true ∧ relayed.dest ≠ (gated upGate).fabric.moduleId ∧ relayed.hop < relayed.hops
    ∧ gateUp (gated upGate) (hopGate (planeOf 0) relayed.path 1) = true ∧ hcrcGood { header with hcrc := 1 } = false
    ∧ hcrcGood header = true ∧ header.dest ≠ 3 ∧ header.hops ≤ header.hop
    ∧ crc64 ((zeros 2000).take 1) < 2 ^ 64 ∧ crc64 ((zeros 2000).take 1) ≠ 1
    ∧ heldSend (gated { upGate with sends := [send0] }) 0 0 = some (0, send0, route0)
    ∧ acCome (send0.issue + 0 * route0.retryGap) (gated { upGate with sends := [send0] }) = true
    ∧ copies0.fabric.copies = [⟨4, 1, 0, 0, 1, 5, 2 ^ 30, 64, 1, 0⟩] ∧ 1 + 40000 ≤ copies0.clock.beat
    ∧ findProg copies0 (fun x => x.job == .fabricCopy 4) = some ⟨post 3, 0, 1, 0, .fabricCopy 4⟩ := by decide +kernel

/-- R336: a late cell is CONTENDED; R338: ORPHAN and CRCERR; R337: a send's cells of 2,000 bytes; R350: the timeout of a receive. -/
theorem test_cells : ((after (.cellLeave 0) (gated { upGate with waiting := [cell0], laneFree := 11 })).map (fun t => ((t.gate 0).waiting, (t.gate 0).contend)) == some ([], 1)
    && (after (.cellArrive 0 (head 1) (zeros 2000) 0) (gated upGate)).map (fun t => (t.gate 0).orphan) == some 1
    && (after (.cellArrive 0 (head 1) (zeros 2000) (crc64 (zeros 1))) (gated { upGate with recvs := [recv0 1] })).map
        (fun t => ((t.gate 0).recvs.map (·.accepted), (t.gate 0).acks.length)) == some ([some (zeros 1)], 1)
    && (after (.cellArrive 0 (head 1) (zeros 2000) (crc64 (zeros 1) + 1)) (gated { upGate with recvs := [recv0 1] })).map
        (fun t => ((t.gate 0).recvs.map (·.accepted), (t.gate 0).crcerr)) == some ([none], 1)
    && (after (.cellArrive 0 relayed (zeros 2000) 0) (gated upGate)).map (fun t => (t.gate 0).waiting.map (·.h.hop)) == some [1]
    && (after (.sendAttempt 0 0 0) (gated { upGate with sends := [send0] })).map (fun t => ((t.gate 0).waiting.map (·.h.cell), (t.gate 0).sends.map (·.nextAttempt)))
        == some ([0, 1], [1])
    && status (.fabricCopyTimeout 4) copies0 == some stLowerTierFail) = true := by decide +kernel

/-- Gates between frames, DOWN, at the start of training, and in training. -/
def training (since : Nat) : Gate := { Gate.reset with begun := true, since := since }
def quiesceWord : IdleWord := withWcrc { idle with quiesced := true, fabricRun := true, bs := 10, shift := 2, acks := [⟨3, 0, 0, 0, 0, 9⟩] }
def fabRun : Run :=
  { newRun demo (post 4) 1 10 2 ⟨0, 2, 64, true, 0, 1, 0, 0, 0, 0, 0, 0, 0, false, [], [], []⟩ [] with begun := true }
def fabricRun : State :=
  updPart 0 (fun q => { q with st := .running, run := some fabRun })
    (gated { upGate with sends := [send0] })

theorem test_meets_gates : gateUp (gated { upGate with lastIdle := 0 }) 0 = true
    ∧ acCome (650 * nextFrame (gated { upGate with lastIdle := 0 }) 0) (gated { upGate with lastIdle := 0 }) = true
    ∧ wcrcGood quiesceWord = true ∧ gateUp fabricRun 0 = true ∧ wcrcGood { idle with wcrc := 1 } = false
    ∧ ((fabricRun.gate 0).sends.filter fun x => x.issued && x.seq == 9) = [send0]
    ∧ (fabricRunOf fabricRun 0).any (fun r => r.ending.isNone && r.startBeat == 10 && decide (r.shift < 2)) = true
    ∧ gateEthernet (gated upGate) 0 = false ∧ ((gated { Gate.reset with st := 3 }).gate 0).since < (gated { Gate.reset with st := 3 }).clock.elapsed
    ∧ (gated { Gate.reset with st := 3 }).clock.acb = 0
    ∧ (updPower (fun p => { p with stage := .gates }) (gated Gate.reset)).power.stage = .gates
    ∧ (gated (training 38001)).clock.elapsed ≤ ((gated (training 38001)).gate 0).since + 2000
    ∧ ((gated (training 38001)).gate 0).since + 2000 ≤ (gated (training 38001)).clock.elapsed := by decide +kernel

/-- R330, R331, R338, R341: idle words, acknowledgements, the announced shift, training and its limit; a changed hop marks routes STALE. -/
theorem test_gates : ((after (.idleWordSend 0) (gated { upGate with lastIdle := 0 })).map (fun t => ((t.gate 0).lastIdle, t.out.length)) == some (4000101, 1)
    && (after (.idleWordReceive 0 quiesceWord 0) fabricRun).map (fun t => ((t.part 0).st, (t.part 0).announced, (t.part 0).cause, (t.gate 0).sends))
        == some (.quiesced, 2, slipFabricLate, [])
    && (after (.idleWordReceive 0 { idle with wcrc := 1 } 0) (gated upGate)).map (fun t => t.tally.heard) == some []
    && (after (.gateDown 0) copies0).map (fun t => ((t.gate 0).st, t.fabric.copies)) == some (3, [])
    && (after (.gateTrainStart 0) (gated { Gate.reset with st := 3 })).map (fun t => (t.gate 0).st) == some 1
    && (after (.gateTrained 0 1 0 13 1000) (gated { training 38001 with trained := true, h := 12 })).map
        (fun t => ((t.gate 0).st, (t.gate 0).h, (tget RouteSlot.reset (t.part 0).routes 0).stale)) == some (2, 13, true)
    && (after (.gateTrainTimeout 0) (gated (training 38001))).map (fun t => ((t.gate 0).st, (t.gate 0).failedTrain)) == some (3, true)) = true := by
  decide +kernel

/-- Gate 7 in Ethernet mode with an address, slowed 20 beats ago. -/
def ether : State :=
  updFabric (fun f => { f with gates := [(7, { Gate.reset with st := 2, mode := 2, rate := 2 ^ 31, paused := [3] })], ipv4 := 5 })
    { demo with clock := ⟨20, 0, 20, 0⟩ }

theorem test_meets_ethernet : ethernetUp ether 7 = true ∧ 5 ∈ gateAddrs ether 7 ∧ 6 ∉ gateAddrs ether 7 ∧ (ether.gate 7).rate < 2 ^ 32
    ∧ (ether.gate 7).cnpAt + 20 ≤ ether.clock.elapsed := by decide +kernel

/-- R348, R349: replies for own addresses, refusals of inbound requests, rates and pauses. -/
theorem test_ethernet : ((after (.arpNdRequest 7 5) ether).map (·.out) == some [.arp 7 5]
    && (after (.roceInboundRequest 7 9) ether).map (·.out) == some [.remoteAccessError 7 9]
    && (after (.cnpReceive 7) ether).map (fun t => (t.gate 7).rate) == some (2 ^ 30)
    && (after (.ecnRateRestore 7) ether).map (fun t => (t.gate 7).rate) == some (2 ^ 31 + 2 ^ 28)
    && (after (.pfcPauseFrame 7 4 true) ether).map (fun t => (t.gate 7).paused.contains 4) == some true
    && (after (.pfcPauseFrame 7 3 false) ether).map (fun t => (t.gate 7).paused) == some []) = true := by decide +kernel

/-! ## Tally, partitions, recovery -/

/-- The tally unit in a state, following a source, with a hold count. -/
def tallying (st : TallyState) (source hold : Nat) : State :=
  updTally (fun t => { t with st := st, selected := true, source := source, gate := 7, input := 1, hold := hold }) demo
def lostTally : State :=
  updTally (fun t => { t with lostPending := true }) (updPart 0 (fun q => { q with st := .running, run := some fabRun })
    (updHost (fun h => { h with progs := [⟨post 4, 0, 1, 0, .run 0 demo.nextRun⟩] }) demo))

theorem test_meets_tally : (tallying .acquiring 1 0).tally.st = .acquiring ∧ noRuns (tallying .acquiring 1 0) = true
    ∧ (tallying .holdover 1 199).tally.hold < 200 ∧ (tallying .holdover 1 200).tally.hold = 200 ∧ (tallying .holdover 1 200).clock.acb = 0
    ∧ lostTally.tally.lostPending = true ∧ (lostTally.part 0).run.any (·.prog.fabric) = true ∧ (lostTally.part 0).waiting = none
    ∧ (findProg lostTally fun x => x.job == .run 0 demo.nextRun).isSome = true := by decide +kernel

/-- R49 to R52: 2 ns are 200 units of 10 ps; at 200 beats HOLDOVER ends; a fabric RUN ends with SLIP when the lock is lost. -/
theorem test_tally : ((after (.tallyLocked 0 200) (tallying .acquiring 1 0)).map (·.tally.st) == some .locked
    && (after (.tallyLocked 0 201) (tallying .acquiring 1 0)).isNone
    && (after (.tallyUnlock (-201)) (tallying .locked 1 0)).map (fun t => (t.tally.st, t.tally.lostPending)) == some (.unlocked, true)
    && (after .tallySourceLost (tallying .locked 1 0)).map (·.tally.st) == some .holdover
    && (after (.tallySourceReturn (-200)) (tallying .holdover 1 199)).map (·.tally.st) == some .locked
    && (after .holdoverExpired (tallying .holdover 1 200)).map (·.tally.st) == some .unlocked
    && status .tallyLostRunEnd lostTally == some stSlip) = true := by decide +kernel

/-- A TALLY_IN code with its check, and gate 7 in Ethernet mode. -/
def code0 : Nat := 2 ^ 112 * crc16 (leBytes 14 77) + 77
def ptp (st : TallyState) : State :=
  updFabric (fun f => { f with gates := [(7, { Gate.reset with st := 2, mode := 2 })] }) (tallying st 2 0)

theorem test_meets_tally_inputs : code0 / 2 ^ 112 = crc16 (leBytes 14 (code0 % 2 ^ 112)) ∧ (77 : Nat) / 2 ^ 112 ≠ crc16 (leBytes 14 77)
    ∧ (updTally (fun t => { t with codeMiss := 4 }) (tallying .locked 1 0)).tally.codeMiss = 4
    ∧ gateEthernet (ptp .locked) 7 = true ∧ (((ptp .locked).gate 7).st = 2) := by decide +kernel

/-- R345: TALLY_IN_DELAY in ps is taken off, a phase beyond 2 ns unlocks; R346: a PTP sync gives local less master time. -/
theorem test_tally_inputs : ((after (.tallyCode code0 100) (updTally (fun t => { t with inDelay := 400, codeMiss := 3 }) (tallying .locked 1 0))).map
        (fun t => (t.tally.phase, t.tally.codeMiss, t.tally.st)) == some (60, 0, .locked)
    && (after (.tallyCode code0 201) (tallying .locked 1 0)).map (·.tally.st) == some .unlocked
    && (after .tallyInLoss (updTally (fun t => { t with codeMiss := 4 }) (tallying .locked 1 0))).map (·.tally.st) == some .holdover
    && (after (.ptpMessage 7 (.sync 10 11)) (ptp .locked)).map (fun t => (t.tally.phase, t.out)) == some (100, [.delayRequest 7])
    && (after (.ptpMessage 7 (.delayResponse 9)) (ptp .locked)).map (·.tally.pathDelayNs) == some 9) = true := by decide +kernel

/-- A SET_TIME that is due, for a later whole beat. -/
def setting : State :=
  updTally (fun t => { t with gmPrio := 5, setTime := 50000 * 9, setAt := 0 }) { demo with
    clock := ⟨1, 0, 1, 0⟩
    host := { demo.host with copies := [⟨1, 1, 0, 0, 0xFFFF, 2 ^ 30, 0, 128, 1, 0, none, []⟩] } }

theorem test_meets_tally_configuration : Posts (post 3) rowTallyConfig 3 demo ∧ gateEthernet demo 7 = false ∧ noRuns demo = true
    ∧ demo.tally.st = .unlocked ∧ isGrandmaster demo 5 = true ∧ 50000 * (demo.clock.beat + 1) < 50000 * 2 ∧ 50000 * 2 % 50000 = 0
    ∧ setting.clock.beat = setting.tally.setAt + 1 ∧ 50000 * setting.clock.beat < setting.tally.setTime ∧ setting.clock.acb = 0
    ∧ isGrandmaster setting setting.tally.gmPrio = true ∧ maySetTime (updTally (fun t => { t with st := .locked }) setting) = false :=
  ⟨meets_posts rfl (by decide +kernel), by decide +kernel⟩

/-- R347, R50: INPUT up to 3 and 2 only with gate 7 in Ethernet mode; SET_TIME on a later whole beat; the copy's beat moves with it. -/
theorem test_tally_configuration : (status (.tallyConfig (post 3) 5 4 0 0 0) demo == some stBadArg
    && status (.tallyConfig (post 3) 5 2 0 0 0) demo == some stBadArg && status (.tallyConfig (post 3) 5 1 0 0 0) demo == some stOk
    && status (.tallyConfig (post 3) 5 1 0 0 50000) demo == some stBadArg && status (.tallyConfig (post 3) 5 1 0 0 100000) demo == some stOk
    && status (.tallyConfig (post 3) 5 1 0 0 100000) (tallying .locked 1 0) == some stBadState
    && (after .setTimeApply setting).map (fun t => (t.clock.beat, t.host.copies.map (·.since))) == some (9, [9])) = true := by decide +kernel

theorem test_meets_partitions : Posts (post 1) rowPartitionConfig 1 demo ∧ (∃ c ∈ demo.ctxs, c.cancelled = false)
    ∧ Posts (post 1) rowPartitionConfig 1 bare ∧ (∀ c ∈ bare.ctxs, c.cancelled = true) ∧ (∀ k, k < bare.mode → (bare.part k).st = .idle)
    ∧ Posts (post 1) rowPartitionQuery 1 demo :=
  ⟨meets_posts rfl (by decide +kernel), ⟨ctx1, by decide +kernel, rfl⟩, meets_posts rfl (by decide +kernel), by decide +kernel,
    by decide +kernel, meets_posts rfl (by decide +kernel)⟩

/-- R381: BAD_STATE with a context; DUE n + 401; the budget is shared (R438). -/
theorem test_partitions : (status (.partitionConfig (post 1) 3) bare == some stBadArg && status (.partitionConfig (post 1) 4) demo == some stBadState
    && (after (.partitionConfig (post 1) 4) bare).map (fun t => (t.mode, (t.part 3).st, (t.part 3).budget, (t.mbx 0 0).due)) == some (4, .resetting, 492, 401)
    && status (.partitionQuery (post 1) 0 0) demo == some stOk && status (.partitionQuery (post 1) 1 1) demo == some stOk) = true := by decide +kernel

/-- A dump in slot 0, and a record of the daybook. -/
def dumped : State :=
  updRecov (fun v => { v with
    dumps := [(0, { Dump.reset with valid := true })]
    daybook := { v.daybook with ring := [⟨5, 1, 0, 0, 0, 0, 0, 0, zeros 24⟩], next := 6 } }) demo

theorem test_meets_recovery : Posts (post 4) rowRecoverDump 4 dumped ∧ (dumped.part 0).st = .idle ∧ lifeCode dumped ≠ 2
    ∧ lifeCode { demo with sec := { demo.sec with entries := [⟨2, true⟩] } } = 2 ∧ (dumpAt dumped 0).valid = true ∧ (dumpAt dumped 3).valid = false
    ∧ Posts (post 1) rowRecoverReset 1 dumped ∧ engineBit (engineId 3) = some 3 ∧ scopeBusy dumped 2 0 3 = false ∧ scopeBusy dumped 3 0 120 = false
    ∧ scopeBusy (updPart 0 (fun q => { q with st := .resetting }) dumped) 3 0 120 = true
    ∧ Posts (post 1) rowRecoverQuery 1 dumped ∧ Posts (post 2) rowDaybookRead 2 dumped
    ∧ dumped.recov.daybook.ring.head? = some ⟨5, 1, 0, 0, 0, 0, 0, 0, zeros 24⟩ :=
  ⟨meets_posts rfl (by decide +kernel), by decide +kernel, by decide +kernel, by decide +kernel, by decide +kernel, by decide +kernel,
    meets_posts rfl (by decide +kernel), by decide +kernel, by decide +kernel, by decide +kernel, by decide +kernel,
    meets_posts rfl (by decide +kernel), meets_posts rfl (by decide +kernel), by decide +kernel⟩

theorem test_recovery : (status (.recoverDumpTake (post 4) 0 2) dumped == some stAccepted
    && status (.recoverDumpRead (post 4) 0 0 0 0 64) dumped == some stAccepted && status (.recoverDumpRead (post 4) 0 0 0 0 63) dumped == some stBadLength
    && status (.recoverDumpKeep (post 4) 3 0) dumped == some stBadState && status (.recoverDumpKeep (post 4) 0 0) dumped == some stOk
    && (after (.recoverDumpRelease (post 4) 0 0) dumped).map (fun t => (dumpAt t 0).valid) == some false
    && status (.recoverReset (post 1) 2 0 (engineId 3)) dumped == some stAccepted && status (.recoverReset (post 1) 6 0 0) dumped == some stBadArg
    && (after (.recoverQuery (post 1)) dumped).map (fun t => (t.mbx 0 0).rlen) == some 86
    && (after (.daybookRead (post 2) 0 62) dumped).map (fun t => bytesAt (t.mbx 0 0).data 16 4) == some (leBytes 4 1)
    && status (.daybookRead (post 2) 0 63) dumped == some stBadLength) = true := by decide +kernel

/-! ## Ladder, boundaries, registers -/

/-- A level-2 step on pen 5 with a suspect, a level-3 step on partition 0, and a level-2 step on shared engine 0 (bit 114). -/
def ladder (level engine since : Nat) (suspects : List Suspect) : State :=
  updRecov (fun v => { v with steps := [⟨level, engine, 0, since, since, none, false, false, 0, suspects, true⟩] })
    { demo with
      clock := ⟨400, 0, 400, 0⟩
      host := { demo.host with progs := [⟨post 1, 0, 0, 0, .resetStep level (if level = 2 then engine else 0)⟩] } }
def searching : State :=
  updRecov (fun v => { v with steps := [⟨2, 5, 0, 0, 0, none, true, false, 0, [⟨1, 0⟩, ⟨2, 0⟩], false⟩] })
    (updPart 0 (fun q => { q with st := .quiesced, run := some (live [word opTl] []) }) { demo with clock := ⟨20, 0, 20, 0⟩ })

theorem test_meets_ladder : (engineStep (ladder 2 5 380 []) 5).any (fun x => !x.search && x.slot.isNone && !x.redo && x.suspects.isEmpty) = true
    ∧ (engineStep (ladder 2 5 380 [⟨1, 0⟩]) 5).any (fun x => x.suspects.any fun y => y.state == 0) = true
    ∧ Sole ⟨post 1, 0, 0, 0, .resetStep 2 5⟩ (ladder 2 5 380 [])
    ∧ (nextSuspect searching 5).isSome = true ∧ engineParts searching 5 = [0]
    ∧ (nextSuspect searching 5).any (fun h => runWaits searching 0 h) = true
    ∧ (ladder 3 120 0 []).recov.steps.find? (fun x => x.level == 3 && x.part == 0) = some ⟨3, 120, 0, 0, 0, none, false, false, 0, [], true⟩
    ∧ linesOpen (ladder 3 120 0 []) (2 ^ 0) = false ∧ 0 + 400 ≤ (ladder 3 120 0 []).clock.elapsed
    ∧ (∀ y ∈ (ladder 3 120 0 []).recov.steps, y.level ≠ 4) ∧ (recentResets (ladder 3 120 0 [])).length < 2
    ∧ dumpSlot (ladder 3 120 0 []) = some 0 ∧ engineClass 5 < 5 ∧ 5 ≤ engineClass 114 ∧ stopping (ladder 2 5 360 []) = false
    ∧ 360 + 40 ≤ (ladder 2 5 360 []).clock.elapsed ∧ (engineStep (ladder 2 114 360 []) 114).any (fun x => !x.search) = true := by
  refine ⟨by decide +kernel, by decide +kernel, ?_, by decide +kernel⟩
  simp [Sole, ladder, updRecov]

set_option maxRecDepth 100000 in
/-- R407, R412: the end of a step completes its command; R413: the next suspect runs alone; R411: a step past its budget escalates. -/
theorem test_ladder : (status (.engineReady 5) (ladder 2 5 380 []) == some stOk
    && (after (.engineReady 5) (ladder 2 5 380 [⟨1, 0⟩])).map (fun t => (engineStep t 5).map (·.search)) == some (some true)
    && (after (.guiltyReplay 5) searching).map (fun t => ((engineStep t 5).map (fun x => x.suspects.map (·.state)), (t.part 0).st))
        == some (some [1, 0], .running)
    && (after (.partitionReady 0 []) (ladder 3 120 0 [])).map (fun t => ((t.part 0).st, t.recov.steps.length, (t.mbx 0 0).complete / 65536))
        == some (.idle, 0, stOk)
    && (after (.ladderBudgetExpired (.engine 5)) (ladder 2 5 360 [])).map (fun t => (t.recov.fenced, (t.part 0).st)) == some ([5], .resetting)
    && (after (.ladderBudgetExpired (.engine 114)) (ladder 2 114 360 [])).map (fun t => t.recov.steps.map (·.level)) == some [4]
    && (after (.ladderBudgetExpired (.partition 0)) (ladder 3 120 0 [])).map (fun t => t.recov.steps.map (·.level)) == some [4]) = true := by
  decide +kernel

/-- A cancellation past its bound with work on one engine; a bell that missed 64 words; a dump in writing; and a TAKE that is due. -/
def cancelling : State :=
  updRecov (fun v => { v with cancels := [(1, 0)] })
    { codecs [{ session 1 with cmd := some (newCodecCmd demo false false false 0 64 1 0 []) }] with
      clock := ⟨400, 0, 400, 0⟩
      ctxs := [{ ctx1 with cancelled := true }] }
def missing : State := updRecov (fun v => { v with missed := 64 }) demo
def writing (level : Nat) : State :=
  updRecov (fun v => { v with dumps := [(0, { Dump.reset with writing := true, level := level })],
                              steps := if level = 4 then [⟨4, 120, 0, 0, 0, some 0, false, false, 0, [], false⟩] else [] }) demo
def taking (full : Bool) : State :=
  updRecov (fun v => { v with
    takes := [(0, 1, 0)]
    dumps := if full then (List.range 4).map fun i => (i, { Dump.reset with valid := true, keep := true }) else [] })
    (updHost (fun h => { h with progs := [⟨post 4, 0, 0, 0, .dumpTake 0 1⟩] }) demo)

theorem test_meets_dumps : 64 ≤ missing.recov.missed ∧ missing.recov.tripped = false ∧ dumpSlot missing = some 0
    ∧ (recentResets missing).length < 2 ∧ (dumpAt (writing 0) 0).writing = true ∧ (writing 0).recov.tripped = false
    ∧ (∃ y ∈ (writing 4).recov.steps, y.level = 4 ∧ y.slot = some 0) ∧ dumpSlot (taking false) = some 0 ∧ dumpSlot (taking true) = none
    ∧ demo.clock.beat % 20000 = 0 ∧ overdue cancelling (.cancel 1) = true
    ∧ (List.range 114).filter (fun e => workOn cancelling e 1 && (engineStep cancelling e).isNone) = [102, 112]
    ∧ recentLevel2 cancelling 102 < 2 ∧ recentLevel2 cancelling 112 < 2 := by decide +kernel

set_option maxRecDepth 100000 in
theorem test_dumps : ((after .bellTrip missing).map (fun t => (t.recov.tripped, t.recov.trips, (dumpAt t 0).cause)) == some (true, 1, 0x0100)
    && (after (.dumpWritten 0) (writing 0)).map (fun t => ((dumpAt t 0).valid, (dumpAt t 0).writing)) == some (true, false)
    && (after (.dumpWritten 0) (writing 4)).map (fun t => t.power.stage == .ready) == some false
    && (after .dumpTakeCollect (taking false)).map (fun t => ((dumpAt t 0).writing, (dumpAt t 0).set)) == some (true, 1)
    && (after (.ladderBudgetExpired (.cancel 1)) cancelling).map (fun t => ((engineStep t 102).isSome, (engineStep t 112).isSome)) == some (true, true)
    && status .dumpTakeCollect (taking true) == some stBadState) = true := by decide +kernel

/-! ## Boundaries, registers, power, start-up, security -/

/-- A beating module at the end of a beat, with an accepted RUN that starts at the next, or a quiesced one that is to retry. -/
def boundary (st : PState) : State :=
  let r : Run := { newRun demo (post 4) 1 401 1 (program [{ mmWord 0 with issue := 2000 }] mmDescs) [] with begun := true }
  updPart 0 (fun q => { q with st := st, run := some r, retry := st == .quiesced, quiescedAt := 400 }) { demo with clock := ⟨400, 0, 400, 0⟩ }

theorem test_meets_boundaries : (∀ st ∈ [PState.accepted, .quiesced], let s := boundary st
    beating s = true ∧ setTimeDue s = false ∧ boundaryDue s = false ∧ (∀ k < s.mode, beatDone s k = true) ∧ beatOpen s = false
    ∧ s.host.sampled = [] ∧ s.recov.resetQueued = [] ∧ (∀ i < 6, (s.pipe i).raised = false)
    ∧ (∀ g < 16, gateUp s g = true → 100 * s.clock.beat < (s.gate g).lastIdle) ∧ stopping s = false
    ∧ (s.part 0).run.any (fun r => r.decodeStop.isNone && r.ending.isNone && r.begun && decide (r.startBeat ≤ s.clock.beat + 1)
        && !r.prog.fabric) = true) := by decide +kernel

/-- R47, R56, R73, R400: the beat rises, an accepted RUN starts at its beat and a quiesced one runs again; a missed word counts. -/
theorem test_boundaries : ((after (.beatBoundary true []) (boundary .accepted)).map (fun t => (t.clock, (t.part 0).st, t.recov.missed, t.recov.last))
      == some (⟨401, 0, 401, 0⟩, .running, 0, 400)
    && (after (.beatBoundary false []) (boundary .quiesced)).map (fun t => ((t.part 0).st, (t.part 0).retries, t.recov.missed))
      == some (.running, 1, 1)) = true := by decide +kernel

/-- Registers with their flags set, and a pending vector. -/
def flagged : State :=
  { demo with
    pens := [(63, { Pen.reset with haz := true, bcerr := true, late := true })]
    drovers := [(163, { Drover.reset with late := true, poison := true })]
    hbm := { demo.hbm with chans := [(639, { Chan.reset with trfail := true, ue := 3 })] }
    power := { demo.power with dip := true, vmin := 39000 }
    host := { demo.host with funcs := [(0, ⟨true, 2, 0xFF, [], [65], [65], []⟩)] } }

theorem test_meets_registers : flagged.power.stage = .ready ∧ flagged.host.up = true ∧ 65 ∈ (flagged.func 0).pba ∧ 4024 + 8 ≤ 4032
    ∧ (updPower (fun p => { p with stage := .gates }) flagged).power.stage ≠ .ready ∧ inBar (.events 0) = true
    ∧ (2 ^ 47).testBit 47 = true := by decide +kernel

/-- R7: a 1 clears and a 0 leaves; R363: unmasking a pending vector sends it; R448: BAR0 ignores writes before readiness. -/
theorem test_registers : ((after (.registerWrite (.events 0) 0x0F) flagged).map (fun t => (t.func 0).events) == some 0xF0
    && (after (.registerWrite (.penState 63) (2 ^ 24 + 2 ^ 26)) flagged).map (fun t => ((t.pen 63).haz, (t.pen 63).bcerr, (t.pen 63).late)) == some (false, true, false)
    && (after (.registerWrite (.drvStatus 163) (2 ^ 9)) flagged).map (fun t => ((t.drover 163).late, (t.drover 163).poison)) == some (false, true)
    && (after (.registerWrite (.hbmChan 639) (2 ^ 14)) flagged).map (fun t => ((t.chan 639).trfail, (t.chan 639).ue)) == some (false, 3)
    && (after (.registerWrite .pwrInput (2 ^ 47)) flagged).map (fun t => (t.power.dip, t.power.vmin)) == some (false, 0)
    && (after (.registerWrite (.mailboxData 0 0 4024) (2 ^ 63 + 5)) flagged).map (fun t => bytesAt (t.mbx 0 0).data 4024 8) == some (leBytes 8 (2 ^ 63 + 5))
    && (after (.registerWrite (.msixMask 0 65) 0) flagged).map (fun t => (t.out, (t.func 0).pba)) == some ([.msix 0 65], [])
    && (after (.registerWrite (.events 0) 0x0F) (updPower (fun p => { p with stage := .gates }) flagged)).map (fun t => (t.func 0).events) == some 0xFF)
    = true := by decide +kernel

theorem test_meets_power_commands : Posts (post 2) rowPowerBudget 2 demo ∧ Posts (post 1) rowPowerQuery 1 demo
    ∧ (floorWatts demo + 100 ≤ 532 ∧ floorWatts demo + [100, 0, 0, 0].sum ≤ 532 ∧ 532 < floorWatts demo + [101, 0, 0, 0].sum)
    ∧ budgetsBreak demo [100, 0, 0, 0] = false ∧ (∀ b ∈ [100, 0, 0, 0].drop demo.mode, b = 0) :=
  ⟨meets_posts rfl (by decide +kernel), meets_posts rfl (by decide +kernel), by decide +kernel, by decide +kernel, by decide +kernel⟩

/-- R437: LIMIT from FLOOR + 100 to 2,400, and budgets up to LIMIT - FLOOR (FLOOR is 432 with 16 gates, R436). -/
theorem test_power_commands : (status (.powerBudget (post 2) 532 [100, 0, 0, 0]) demo == some stOk
    && status (.powerBudget (post 2) 532 [101, 0, 0, 0]) demo == some stBadArg && status (.powerBudget (post 2) 531 [0, 0, 0, 0]) demo == some stBadArg
    && status (.powerBudget (post 2) 2401 [0, 0, 0, 0]) demo == some stBadArg && status (.powerBudget (post 2) 2400 [0, 1, 0, 0]) demo == some stBadArg
    && (after (.powerQuery (post 1)) demo).map (fun t => (t.mbx 0 0).rlen) == some 10) = true := by decide +kernel

/-- The converters on, in a supply state, after dip samples. -/
def supplied (supply dips : Nat) : State :=
  updPower (fun p => { p with converters := true, pwrEn := true, pwrgd := true, supply := supply, dipSamples := dips, input := 48000, vin := 48000 }) demo
def unpowered (input : Nat) : State := updPower (fun p => { p with stage := .off, converters := false, input := input }) demo
def loud : State := updPower (fun p => { p with overBeats := 20 }) (supplied 0 0)
def noSlot : State :=
  updRecov (fun v => { v with dumps := (List.range 4).map fun i => (i, { Dump.reset with valid := true, keep := true }) }) (supplied 2 0)

theorem test_meets_supply : (supplied 0 99).power.converters = true ∧ (supplied 0 99).power.supply ≠ 2
    ∧ levelFourDump (supplied 2 0) = false ∧ dumpSlot (supplied 2 0) = some 0 ∧ dumpSlot noSlot = none ∧ levelFourDump noSlot = false
    ∧ 20 ≤ loud.power.overBeats ∧ loud.power.overRecorded = false ∧ (unpowered 40000).power.stage = .off
    ∧ (unpowered 62000).power.needEnCycle = false := by decide +kernel

set_option maxRecDepth 100000 in
/-- R430, R432, R445: 40 V and 60 V are NORMAL, 39.999 V a dip, 35.999 V hold-up; power comes on from 40 V to 62 V. -/
theorem test_supply : (([40000, 60000, 39999, 35999, 60001, 62000].map fun v => (after (.supplySample v 1) (supplied 0 99)).map (·.power.supply))
      == [some 0, some 0, some 1, some 2, some 3, some 3]
    && (after (.supplySample 39999 1) (supplied 1 100)).map (·.power.supply) == some 2
    && (after (.supplySample 62001 1) (supplied 0 0)).map (fun t => (t.power.stage, t.power.converters)) == some (.off, false)
    && (after .holdUp (supplied 2 0)).map (fun t => (dumpAt t 0).writing) == some true
    && (after .holdUp noSlot).map (·.power.stage) == some .off
    && (after .powerOver loud).map (·.power.overRecorded) == some true
    && (after .powerOn (unpowered 40000)).map (·.power.converters) == some true && (after .powerOn (unpowered 39999)).isNone
    && (after .powerOn (unpowered 62000)).map (·.power.converters) == some true && (after .powerOn (unpowered 62001)).isNone
    && (after .pwrEnLow (supplied 0 0)).map (·.power.stage) == some .off) = true := by decide +kernel

/-- Sensors over their thresholds, and a thermal quiesce that has cooled for 200 beats. -/
def warm : State := updPower (fun p => { p with warnPending := [0], quiescePending := [29] }) (done 0)
def cooled : State :=
  updPart 0 (fun q => { q with st := .quiesced, thermal := true })
    (updPower (fun p => { p with thermalOn := true, thermalBy := [0], coolBeats := 200 }) demo)

theorem test_meets_thermal : warm.power.warnPending ≠ [] ∧ warm.power.quiescePending ≠ [] ∧ warm.power.thermalOn = false
    ∧ (warm.part 0).st ≠ .resetting ∧ (findProg warm fun x => x.job == .run 0 demo.nextRun).isSome = true
    ∧ cooled.power.thermalOn = true ∧ 200 ≤ cooled.power.coolBeats ∧ (cooled.part 0).thermal = true := by decide +kernel

/-- R441: a die warns at 100, quiesces at 105 and trips at 115 degrees; a stack at 90, 95 and 105. -/
theorem test_thermal : (([(0, 99), (0, 100), (0, 105), (0, 115), (29, 89), (29, 90), (29, 95), (29, 105)].map fun e =>
      (after (.thermalSample e.1 e.2) demo).map fun t => (t.power.warned, t.power.quiescePending, t.power.thermtrip))
      == [some ([], [], false), some ([0], [], false), some ([0], [0], false), some ([0], [0], true),
          some ([], [], false), some ([29], [], false), some ([29], [29], false), some ([29], [29], true)]
    && (after .thermalWarning warm).map (fun t => (t.func 4).events.getLsbD evThermal) == some true
    && status .thermalQuiesce warm == some stQuiesced
    && (after .thermalClear cooled).map (fun t => ((t.part 0).st, t.power.thermalOn)) == some (.idle, false)) = true := by decide +kernel

/-- The stages of start-up; an image that the boot ROM may accept is opaque (log 11). -/
def stage (st : Stage) : State :=
  updPower (fun p => { p with stage := st, bootTimer := true }) { demo with
    clock := ⟨0, 0, 48600, 0⟩
    hbm := { demo.hbm with mapped := [3], trial := [3], t1 := [(7, 1)] } }

theorem test_meets_start_up : (stage .verify).power.stage = .verify ∧ bootSlot (stage .verify).sec = none
    ∧ (∀ i, acceptedSlot { (stage .verify).sec with prefer := 0 } 0 = some i → bootSlot { (stage .verify).sec with prefer := 0 } = some (0, i))
    ∧ (stage .training).power.cycleReq = false ∧ (stage .training).power.bootTimer = true
    ∧ (stage .training).power.stageAt + 48600 ≤ (stage .training).clock.elapsed ∧ 0 < (stage .gates).mode :=
  ⟨by decide +kernel, by decide +kernel, fun i h => by simp [bootSlot, h], by decide +kernel⟩

set_option maxRecDepth 100000 in
/-- R287: a restored channel without errors leaves the list; R295: the wipe; R446: the pens; R405: the bound. -/
theorem test_start_up : ((after .firmwareVerify (stage .verify)).map (·.power.stage) == some .recoveryWait
    && (after (.hbmTrainingDone [9] []) (stage .training)).map (fun t => t.hbm.mapped) == some [9]
    && (after (.hbmTrainingDone [] [(3, 0, 0, 1)]) (stage .training)).map (fun t => t.hbm.mapped) == some [3]
    && (after .hbmWipeDone (stage .wipe)).map (fun t => (tget 0 t.hbm.t1 7, (t.stack 19).st)) == some (0, 2)
    && (after (.startupReady [5]) (stage .gates)).map (fun t => ((t.pen 4).power, (t.pen 5).power, t.power.stage)) == some (1, 2, .ready)
    && (after .bootTimerExpired (stage .training)).map (·.power.cycleReq) == some true
    && (after (.ladderBudgetExpired .chip) (stage .wipe)).map (·.power.cycleReq) == some true) = true := by decide +kernel

/-- Key slot 0 in use, in life-cycle state 1; and a transition that is due. -/
def keyed : State := { demo with sec := { demo.sec with entries := [⟨1, true⟩], keys := [(0, ⟨9, false, []⟩)] } }
def advancing : State := { demo with sec := { demo.sec with accepted := some (2, 0), entries := [⟨1, true⟩] } }

theorem test_meets_keys : Posts (post 19) rowSecKey 19 keyed ∧ Posts (post 19) rowSecKey 19 demo ∧ lifeCode demo = 0 ∧ lifeCode keyed = 1
    ∧ (∀ i, i < 16 → i ≠ 15 → (manifestKey keyed i).keyId ≠ 2 ^ 63 - 1) ∧ (manifestKey keyed 15).keyId = 0 ∧ (manifestKey keyed 0).keyId = 9
    ∧ Posts (post 1) rowSecQuery 1 keyed ∧ Posts (post 1) rowLifecycleQuery 1 keyed ∧ Posts (post 18) rowLifecycleAdvance 18 keyed
    ∧ mayAdvance keyed 2 = true ∧ mayAdvance keyed 7 = false ∧ anyBusy keyed = false ∧ advanceDenied keyed 2 (zeros 132) = true
    ∧ advancing.sec.accepted = some (2, 0) ∧ (stage .erase).power.stage = .erase :=
  ⟨meets_posts rfl (by decide +kernel), meets_posts rfl (by decide +kernel), by decide +kernel, by decide +kernel, by decide +kernel,
    by decide +kernel, by decide +kernel, meets_posts rfl (by decide +kernel), meets_posts rfl (by decide +kernel),
    meets_posts rfl (by decide +kernel), by decide +kernel, by decide +kernel, by decide +kernel, by decide +kernel, by decide +kernel,
    by decide +kernel⟩

set_option maxRecDepth 100000 in
/-- R460, R464: no key in BLANK; a revoked slot stays; an advance without a NONCE is denied, and one that the table lacks is BAD_ARG. -/
theorem test_keys : (status (.secKeyInstall (post 19) 0 1 (zeros 133)) demo == some stDenied
    && (after (.secKeyRevoke (post 19) 0 9 (zeros 133)) keyed).map (fun t => (manifestKey t 0).revoked) == some true
    && status (.lifecycleAdvance (post 18) 2 (zeros 132)) keyed == some stDenied
    && status (.lifecycleAdvance (post 18) 7 (zeros 132)) keyed == some stBadArg
    && (after (.lifecycleQuery (post 1)) keyed).map (fun t => t.sec.nonceIssued) == some true
    && (after .lifecycleCommit advancing).map (fun t => (t.sec.entries.map (·.target), t.power.stage == .ready)) == some ([1, 2], false)
    && (after .lifecycleEraseDone (stage .erase)).map (fun t => (t.power.stage, t.hbm.mapped)) == some (.verify, [])) = true := by decide +kernel

/-- The generator at its limit, a session, FIELDED, and an update in progress. -/
def requested : State := updMgmt (fun m => { m with update := .requested }) (supplied 0 0)
def image0 : Image := ⟨0, 0, 0, 0, 0, 0, 0, [], 0, [], []⟩

theorem test_meets_security : (2 ^ 20 ≤ (updSec (fun x => { x with drbgRequests := 2 ^ 20 }) demo).sec.drbgRequests)
    ∧ demo.power.stage ≠ .off ∧ 116 ∉ demo.recov.fenced ∧ stopping demo = false ∧ dumpSlot demo = some 0 ∧ stopping (writing 4) = true
    ∧ spdmError demo false .getVersion = false ∧ spdmError demo false .heartbeat = true
    ∧ lifeCode { demo with sec := { demo.sec with entries := [⟨2, true⟩] } } = 2 ∧ requested.power.pwrgd = true
    ∧ requested.mgmt.update ≠ .none ∧ requested.power.stage = .ready ∧ requested.sec.slot = 0
    ∧ (updPower (fun p => { p with stage := .recoveryWait }) requested).power.stage = .recoveryWait
    ∧ (supplied 0 0).clock.beat % 20000 = 0 ∧ (updMgmt (fun m => { m with refreshed := 1 }) (supplied 0 0)).mgmt.refreshed ≠ 0 := by decide +kernel

theorem test_security : ((after .drbgReseed (updSec (fun x => { x with drbgRequests := 2 ^ 20 }) demo)).map (·.sec.drbgRequests) == some 0
    && (after .entropyFail demo).map (fun t => (t.sec.entropyOk, t.recov.steps.map (·.level))) == some (false, [4])
    && (after (.spdmRequest false .heartbeat []) demo).map (·.out) == some [.spdm false true []]
    && (after (.jtagInstruction (.debug 5)) { demo with sec := { demo.sec with entries := [⟨2, true⟩] } }).map (·.out) == some [.jtag .bypass]
    && (after .pldmRequestUpdate (supplied 0 0)).map (·.mgmt.update) == some .requested
    && (after (.pldmUpdateComponent image0) (supplied 0 0)).map (·.out) == some [.pldm false 2]
    && (after (.pldmUpdateComponent image0) requested).map (fun t => t.sec.slotB) == some (some image0)
    && (after .pldmActivateFirmware (updMgmt (fun m => { m with update := .verified 1 }) requested)).map (·.sec.prefer) == some 1
    && (after (.mctpEndpointIdAssign 9) requested).map (·.mgmt.eid) == some 9 && (after (.pldmEventEnable true) requested).map (·.mgmt.eventsOn) == some true
    && (after .pldmSensorRefresh (updMgmt (fun m => { m with refreshed := 1 }) (supplied 0 0))).map (·.mgmt.refreshed) == some 0) = true := by
  decide +kernel

end Sys2Proof.Tests
end

section
/-! PROOFS. Host writes to registers (R7, R363, R366): what one register write leaves in the state. -/

namespace Sys2Proof.Machine

/-! ## Where a register write goes -/

theorem exec_registerWrite (t : RegTarget) (v : Nat) (s : State) : exec (.registerWrite t v) s = execRegisterWrite t v s := rfl

/-- A write to BAR0 after readiness (R448). -/
theorem exec_registerWrite_bar {t : RegTarget} {v : Nat} {s : State} (hb : inBar t = true) (hr : s.power.stage = .ready) :
    exec (.registerWrite t v) s = .next (writeBar t v s) := by
  rw [exec_registerWrite, execRegisterWrite, if_pos hb, if_pos (by simp [hostReaches, hr])]

/-- A write to BAR0 before readiness is ignored (R448, log 40). -/
theorem exec_registerWrite_early {t : RegTarget} {v : Nat} {s : State} (hb : inBar t = true) (hr : s.power.stage ≠ .ready) :
    exec (.registerWrite t v) s = .next s := by
  rw [exec_registerWrite, execRegisterWrite, if_pos hb, if_neg (by simp [hostReaches, hr])]

/-- A write outside BAR0 reaches the W1C fields in every stage (R7). -/
theorem exec_registerWrite_w1c {t : RegTarget} {v : Nat} {s : State} (hb : inBar t = false) :
    exec (.registerWrite t v) s = .next (writeW1c t v s) := by
  rw [exec_registerWrite, execRegisterWrite, if_neg (by simp [hb])]

/-! ## The data window -/

/-- Bytes written at an address read back there. -/
theorem bytesAt_putBytes_at (t : Table Byte) (a : Nat) (d : List Byte) : bytesAt (putBytes t a d) a d.length = d := by
  unfold bytesAt
  refine List.ext_getElem (by simp) fun i _ hi => ?_
  have hin : (decide (a ≤ a + i) && decide (a + i < a + d.length)) = true := by simp [hi]
  simp only [List.getElem_map, List.getElem_range]
  unfold window
  rw [tget_filter 0 (fun k => decide (a ≤ k) && decide (k < a + d.length)) (a + i) hin, tget_putBytes, if_pos (by omega)]
  simp [hi]

/-- A double word that ends within the data window is written whole (R367). -/
theorem writeBar_mailboxData {o : Nat} (ho : o + 8 ≤ 4032) (f m v : Nat) (s : State) : writeBar (.mailboxData f m o) v s =
    updMbx f m (fun x => { x with data := putBytes x.data o (leBytes 8 v) }) s := by
  have hl : (leBytes 8 v).take (4032 - o) = leBytes 8 v := List.take_of_length_le (by rw [leBytes_length]; omega)
  simp only [writeBar, hl]

/-! ## The vector masks -/

/-- Sending a vector that is not masked while the link is up (R363). -/
theorem sendVector_unmasked {f n : Nat} {s : State} (hu : s.host.up = true) (hm : n ∉ (s.func f).masked) :
    sendVector f n s = emit (.msix f n) s := by
  simp [sendVector, hu, hm]

/-- The state in which a vector's mask and pending bits are 0. -/
def unmasked (f n : Nat) (s : State) : State :=
  updFunc f (fun u => { u with masked := u.masked.filter (· != n), pba := u.pba.filter (· != n) }) s

theorem not_mem_masked_unmasked (f n : Nat) (s : State) : n ∉ ((unmasked f n s).func f).masked := by simp [unmasked]

theorem not_mem_pba_unmasked (f n : Nat) (s : State) : n ∉ ((unmasked f n s).func f).pba := by simp [unmasked]

theorem writeBar_msixMask (f n v : Nat) (s : State) : writeBar (.msixMask f n) v s = writeMask f n v s := rfl

/-- Unmasking while the link is up: a pending vector is sent (R363, R366). -/
theorem writeMask_unmask {f n v : Nat} {s : State} (hu : s.host.up = true) (hv : v % 2 = 0) : writeMask f n v s =
    if n ∈ (s.func f).pba then emit (.msix f n) (unmasked f n s) else unmasked f n s := by
  have hb : bit v 0 = false := by simp [bit, hv]
  have hs : sendVector f n (unmasked f n s) = emit (.msix f n) (unmasked f n s) :=
    sendVector_unmasked hu (not_mem_masked_unmasked f n s)
  have h : writeMask f n v s = if (s.func f).pba.contains n then sendVector f n (unmasked f n s) else unmasked f n s := by
    simp only [writeMask, hb, Bool.false_eq_true, if_false]; rfl
  rw [h, hs]
  simp only [List.contains_iff_mem]

theorem writeMask_mask {f n v : Nat} {s : State} (hv : v % 2 = 1) : writeMask f n v s =
    updFunc f (fun u => { u with masked := insertSorted n u.masked }) s := by
  have hb : bit v 0 = true := by simp [bit, hv]
  rw [writeMask, if_pos hb]

theorem mem_insertSorted_self (n : Nat) : ∀ l : List Nat, n ∈ insertSorted n l
  | [] => List.mem_singleton.2 rfl
  | m :: t => by
    unfold insertSorted
    split
    · exact List.mem_cons_self
    · split
      · rename_i h; rw [h]; exact List.mem_cons_self
      · exact List.mem_cons_of_mem _ (mem_insertSorted_self n t)

/-! ## The statement -/

/-- Settles O52, register by register: where the write goes, and what the named update leaves. -/
theorem registerWrites : Obligations.RegisterWrites := by
  unfold Obligations.RegisterWrites
  intro s v
  refine ⟨?events, ?early, ?words, ?data, ?message, ?supply, ?unmask, ?mask, ?pen, ?drover, ?chan⟩
  case events => exact fun f hr => exec_registerWrite_bar rfl hr
  case early => exact fun t hr hb => exec_registerWrite_early hb hr
  case words => exact fun f m hr => ⟨exec_registerWrite_bar rfl hr, exec_registerWrite_bar rfl hr⟩
  case data =>
    intro f m o hr ho
    refine ⟨_, exec_registerWrite_bar rfl hr, ?_⟩
    rw [writeBar_mailboxData ho, mbx_updMbx_same]
    have hb := bytesAt_putBytes_at (s.mbx f m).data o (leBytes 8 v)
    rw [leBytes_length] at hb
    refine ⟨hb, fun i hi => ?_, rfl, rfl, rfl⟩
    rw [tget_putBytes, leBytes_length, if_neg (by omega)]
  case message =>
    intro f n w hr
    exact ⟨_, exec_registerWrite_bar rfl hr, by simp [writeBar]⟩
  case supply =>
    refine ⟨_, exec_registerWrite_w1c rfl, fun h => ?_, fun h => ?_⟩ <;> simp [writeW1c, bit, h]
  case unmask =>
    intro f n hr hu hv
    refine ⟨_, exec_registerWrite_bar rfl hr, ?_⟩
    rw [writeBar_msixMask, writeMask_unmask hu hv]
    split
    · exact ⟨not_mem_masked_unmasked f n s, not_mem_pba_unmasked f n s, fun _ => rfl⟩
    · rename_i hp
      exact ⟨not_mem_masked_unmasked f n s, not_mem_pba_unmasked f n s, fun h => absurd h hp⟩
  case mask =>
    intro f n hr hv
    refine ⟨_, exec_registerWrite_bar rfl hr, ?_⟩
    rw [writeBar_msixMask, writeMask_mask hv, func_updFunc_same]
    exact ⟨mem_insertSorted_self n _, rfl⟩
  case pen =>
    intro p
    refine ⟨_, exec_registerWrite_w1c rfl, ?_⟩
    simp +contextual [writeW1c, w1cBool, bit, pen_updPen]
  case drover =>
    intro d
    exact ⟨_, exec_registerWrite_w1c rfl, by simp [writeW1c, w1cBool, bit]⟩
  case chan =>
    intro c
    exact ⟨_, exec_registerWrite_w1c rfl, by simp [writeW1c, w1cBool, bit]⟩

end Sys2Proof.Machine
end

section
/-! PROOFS. Rounding to a binary format (R9, R81): the rounded significand is a nearest integer, ties to even, and the format holds no
nearer number. -/

namespace Sys2Proof.Machine

/-! ## Nearest integers -/

/-- d is a nearest integer of x, and the even one of two. -/
def NearestEven (x : ℚ) (d : Nat) : Prop := |x - d| ≤ 1 / 2 ∧ (|x - d| = 1 / 2 → d % 2 = 0)

/-- Division with rounding, on the remainder: up beyond one half and from an odd half, else down. -/
theorem divEven_cases (a b : Nat) :
    divEven a b = a / b + 1 ∧ (b < 2 * (a % b) ∨ 2 * (a % b) = b ∧ a / b % 2 = 1)
    ∨ divEven a b = a / b ∧ (2 * (a % b) < b ∨ 2 * (a % b) = b ∧ a / b % 2 = 0) := by
  by_cases h : b < 2 * (a % b) ∨ (2 * (a % b) = b ∧ a / b % 2 = 1)
  · exact .inl ⟨by simp [divEven, h], h⟩
  · exact .inr ⟨by simp [divEven, h], by omega⟩

theorem nearestEven_divEven (a : Nat) {b : Nat} (hb : 0 < b) : NearestEven ((a : ℚ) / b) (divEven a b) := by
  have hq : (0 : ℚ) < b := by exact_mod_cast hb
  have hx : (a : ℚ) / b = (a / b : Nat) + (a % b : Nat) / (b : ℚ) := by
    have h : (a : ℚ) = (b : ℚ) * (a / b : Nat) + (a % b : Nat) := by exact_mod_cast (Nat.div_add_mod a b).symm
    field_simp
    linarith
  have hr : ((a % b : Nat) : ℚ) / b < 1 := (div_lt_one hq).2 (by exact_mod_cast Nat.mod_lt a hb)
  have h0 : (0 : ℚ) ≤ (a % b : Nat) / (b : ℚ) := by positivity
  have hle : 2 * (a % b) ≤ b ↔ ((a % b : Nat) : ℚ) / b ≤ 1 / 2 := by
    rw [div_le_div_iff₀ hq two_pos, one_mul, mul_comm]; exact_mod_cast Iff.rfl
  have hge : b ≤ 2 * (a % b) ↔ (1 : ℚ) / 2 ≤ (a % b : Nat) / b := by
    rw [div_le_div_iff₀ two_pos hq, one_mul, mul_comm]; exact_mod_cast Iff.rfl
  unfold NearestEven
  rw [hx]
  rcases divEven_cases a b with ⟨hd, h⟩ | ⟨hd, h⟩
  · have h1 := hge.1 (by omega)
    rw [hd]
    push_cast
    rw [abs_of_nonpos (by linarith)]
    refine ⟨by linarith, fun he => ?_⟩
    have h2 := hle.2 (by linarith)
    omega
  · have h1 := hle.1 (by omega)
    rw [hd, abs_of_nonneg (by linarith)]
    refine ⟨by linarith, fun he => ?_⟩
    have h2 := hge.2 (by linarith)
    omega

/-- Two different integers lie at least 1 apart. -/
theorem one_le_abs_sub {d k : Nat} (h : d ≠ k) : (1 : ℚ) ≤ |(d : ℚ) - k| := by
  have h1 : (1 : ℤ) ≤ |(d : ℤ) - k| := Int.one_le_abs (sub_ne_zero.2 (by exact_mod_cast h))
  exact_mod_cast h1

theorem NearestEven.half_le {x : ℚ} {d k : Nat} (h : NearestEven x d) (hk : k ≠ d) : 1 / 2 ≤ |x - k| := by
  have h1 := one_le_abs_sub hk.symm
  have h2 := abs_sub_le (d : ℚ) x k
  rw [abs_sub_comm (d : ℚ) x] at h2
  linarith [h.1]

theorem NearestEven.dist_le {x : ℚ} {d : Nat} (h : NearestEven x d) (k : Nat) : |x - d| ≤ |x - k| := by
  by_cases hk : k = d
  · rw [hk]
  · exact h.1.trans (h.half_le hk)

theorem NearestEven.even_of_tie {x : ℚ} {d k : Nat} (h : NearestEven x d) (hk : k ≠ d) (ht : |x - d| = |x - k|) : d % 2 = 0 :=
  h.2 (le_antisymm h.1 (ht ▸ h.half_le hk))

/-- Rounding does not pass an integer. -/
theorem NearestEven.le_of_le {x : ℚ} {d k : Nat} (h : NearestEven x d) (hx : x ≤ k) : d ≤ k := by
  by_contra hk
  have h1 : (k : ℚ) + 1 ≤ d := by exact_mod_cast Nat.lt_of_not_le hk
  have h2 := (abs_le.1 h.1).1
  linarith

/-! ## Powers of two -/

/-- The two shifts that bring a significand to an exponent make one power of two. -/
theorem pow2_div_pow2 (z : Int) : (pow2 z : ℚ) / pow2 (-z) = 2 ^ z := by
  unfold pow2
  push_cast
  rcases le_total 0 z with h | h
  · rw [Int.toNat_of_nonpos (by omega : -z ≤ 0), pow_zero, div_one, ← zpow_natCast, Int.toNat_of_nonneg h]
  · rw [Int.toNat_of_nonpos h, pow_zero, ← zpow_natCast, Int.toNat_of_nonneg (by omega), zpow_neg, one_div, inv_inv]

theorem pow2_pos (z : Int) : 0 < pow2 z := Nat.two_pow_pos _

theorem mul_zpow_eq_pow2 (m : Nat) (z : Int) : (m : ℚ) * 2 ^ z = (m * pow2 z : Nat) / (pow2 (-z) : Nat) := by
  rw [← pow2_div_pow2]
  push_cast
  rw [mul_div_assoc]

/-- The comparison of a rounded value with the largest finite one. -/
theorem exceeds_iff (m : Nat) (q : Int) (n : Nat) (e : Int) : exceeds m q n e = true ↔ (n : ℚ) * 2 ^ e < (m : ℚ) * 2 ^ q := by
  have hq : (0 : ℚ) < 2 ^ q := by positivity
  have hp : (0 : ℚ) < pow2 (q - e) := by exact_mod_cast pow2_pos (q - e)
  have hs : (n : ℚ) * 2 ^ (e - q) * pow2 (q - e) = n * pow2 (e - q) := by
    rw [← pow2_div_pow2, neg_sub]
    field_simp
  have he : (n : ℚ) * 2 ^ e = n * 2 ^ (e - q) * 2 ^ q := by
    rw [mul_assoc, ← zpow_add₀ two_ne_zero, sub_add_cancel]
  rw [he, mul_lt_mul_iff_left₀ hq, ← mul_lt_mul_iff_left₀ hp, hs, exceeds, decide_eq_true_eq]
  exact_mod_cast Iff.rfl

/-- A number with a larger exponent is a multiple of 2^q. -/
theorem mul_zpow_of_le (n : Nat) {q e : Int} (h : q ≤ e) : (n : ℚ) * 2 ^ e = (n * 2 ^ (e - q).toNat : Nat) * 2 ^ q := by
  push_cast
  rw [mul_assoc, ← zpow_natCast, Int.toNat_of_nonneg (by omega), ← zpow_add₀ two_ne_zero, sub_add_cancel]

/-! ## What rounding to p bits leaves -/

/-- The number x rounds to r · 2^q: p bits, the least exponent emin, and an exponent above it only where all p bits are in use (R9). -/
structure Rounded (p : Nat) (emin : Int) (x : ℚ) (r : Nat) (q : Int) : Prop where
  least : emin ≤ q
  nearest : NearestEven (x / 2 ^ q) r
  full : emin < q → (2 ^ (p - 1) : Nat) * 2 ^ q ≤ x
  below : x ≤ (2 ^ p : Nat) * 2 ^ q

theorem rounded_zero (p : Nat) (emin : Int) : Rounded p emin 0 0 emin :=
  ⟨le_rfl, by simp [NearestEven], fun h => absurd h (lt_irrefl _), by positivity⟩

/-- The exponent that rounding takes (R9): the leading bit stands at p - 1, or the exponent is the least one. -/
theorem roundParts_of_ne_zero (p : Nat) (emin : Int) {m : Nat} (hm : m ≠ 0) (e : Int) :
    roundParts p emin m 1 e =
      let q := max emin ((m.log2 : Int) + e - p + 1)
      (divEven (m * pow2 (e - q)) (pow2 (q - e)), q) := by
  have hb : belowPow m 1 e (m.log2 + e) = false := by
    have h1 : (e - (m.log2 + e)).toNat = 0 := by omega
    have h2 : ((m.log2 : Int) + e - e).toNat = m.log2 := by omega
    have h3 := Nat.log2_self_le hm
    simp only [belowPow, pow2, h1, h2, pow_zero, mul_one, one_mul, decide_eq_false_iff_not, not_lt]
    exact h3
  have h1 : Nat.log2 1 = 0 := by decide
  have hl : (m.log2 : Int) - (Nat.log2 1 : Int) + e = m.log2 + e := by rw [h1]; omega
  simp only [roundParts, if_neg hm, hl, hb, Bool.false_eq_true, if_false, one_mul]

theorem rounded_roundParts {p : Nat} (hp : 1 ≤ p) (emin : Int) (m : Nat) (e : Int) :
    Rounded p emin ((m : ℚ) * 2 ^ e) (roundParts p emin m 1 e).1 (roundParts p emin m 1 e).2 := by
  by_cases hm : m = 0
  · subst hm
    simpa [roundParts] using rounded_zero p emin
  · rw [roundParts_of_ne_zero p emin hm e]
    generalize hq : max emin ((m.log2 : Int) + e - p + 1) = q
    have hlo : ((2 ^ m.log2 : Nat) : ℚ) ≤ m := by exact_mod_cast Nat.log2_self_le hm
    have hhi : (m : ℚ) ≤ (2 ^ (m.log2 + 1) : Nat) := by exact_mod_cast (Nat.lt_log2_self (n := m)).le
    have he : (0 : ℚ) < 2 ^ e := by positivity
    refine ⟨by dsimp only; omega, ?_, fun h => ?_, ?_⟩
    · have h := nearestEven_divEven (m * pow2 (e - q)) (pow2_pos (-(e - q)))
      rw [← mul_zpow_eq_pow2, zpow_sub₀ two_ne_zero, ← mul_div_assoc, neg_sub] at h
      exact h
    · dsimp only at h
      calc ((2 ^ (p - 1) : Nat) : ℚ) * 2 ^ q = (2 ^ m.log2 : Nat) * 2 ^ e := by
            push_cast
            rw [← zpow_natCast, ← zpow_natCast, ← zpow_add₀ two_ne_zero, ← zpow_add₀ two_ne_zero]
            congr 1
            omega
        _ ≤ m * 2 ^ e := mul_le_mul_of_nonneg_right hlo he.le
    · calc (m : ℚ) * 2 ^ e ≤ (2 ^ (m.log2 + 1) : Nat) * 2 ^ e := mul_le_mul_of_nonneg_right hhi he.le
        _ ≤ (2 ^ p : Nat) * 2 ^ q := by
            push_cast
            rw [← zpow_natCast, ← zpow_natCast, ← zpow_add₀ two_ne_zero, ← zpow_add₀ two_ne_zero]
            exact zpow_le_zpow_right₀ one_le_two (by push_cast; omega)

section
variable {p : Nat} {emin : Int} {x : ℚ} {r : Nat} {q : Int}

/-- Distances to multiples of 2^q, in units of 2^q. -/
theorem abs_sub_mul_zpow (x : ℚ) (k : Nat) (q : Int) : |x - (k : ℚ) * 2 ^ q| = |x / 2 ^ q - k| * 2 ^ q := by
  have hq : (0 : ℚ) < 2 ^ q := by positivity
  rw [← abs_of_pos hq, ← abs_mul, abs_of_pos hq, sub_mul, div_mul_cancel₀ _ hq.ne']

/-- The significand fits p bits, or is 2^p after a carry. -/
theorem Rounded.sig_le (h : Rounded p emin x r q) : r ≤ 2 ^ p :=
  h.nearest.le_of_le ((div_le_iff₀ (by positivity)).2 h.below)

/-- No multiple of 2^q is nearer. -/
theorem Rounded.dist_le (h : Rounded p emin x r q) (k : Nat) : |x - (r : ℚ) * 2 ^ q| ≤ |x - (k : ℚ) * 2 ^ q| := by
  rw [abs_sub_mul_zpow, abs_sub_mul_zpow]
  exact mul_le_mul_of_nonneg_right (h.nearest.dist_le k) (by positivity)

/-- Of two multiples of 2^q that are as near, the result is the even one. -/
theorem Rounded.even_of_tie (h : Rounded p emin x r q) {k : Nat} (ht : |x - (r : ℚ) * 2 ^ q| = |x - (k : ℚ) * 2 ^ q|)
    (hne : (r : ℚ) * 2 ^ q ≠ (k : ℚ) * 2 ^ q) : r % 2 = 0 := by
  rw [abs_sub_mul_zpow, abs_sub_mul_zpow, mul_left_inj' (by positivity)] at ht
  exact h.nearest.even_of_tie (fun hk => hne (by rw [hk])) ht

/-- The numbers of p bits with a smaller exponent lie below the full ones of an exponent. -/
theorem mul_zpow_lt_full (hp : 1 ≤ p) {n : Nat} {e : Int} (hn : n < 2 ^ p) (hq : e < q) :
    (n : ℚ) * 2 ^ e < (2 ^ (p - 1) : Nat) * 2 ^ q := calc
  (n : ℚ) * 2 ^ e < (2 ^ p : Nat) * 2 ^ e := mul_lt_mul_of_pos_right (by exact_mod_cast hn) (by positivity)
  _ ≤ (2 ^ (p - 1) : Nat) * 2 ^ q := by
    push_cast
    rw [← zpow_natCast, ← zpow_natCast, ← zpow_add₀ two_ne_zero, ← zpow_add₀ two_ne_zero]
    exact zpow_le_zpow_right₀ one_le_two (by omega)

/-- A number of p bits with an exponent below q is farther than the result. -/
theorem Rounded.dist_lt_of_lt (h : Rounded p emin x r q) (hp : 1 ≤ p) {n : Nat} {e : Int} (hn : n < 2 ^ p) (he : emin ≤ e) (hq : e < q) :
    |x - (r : ℚ) * 2 ^ q| < |x - (n : ℚ) * 2 ^ e| := by
  have h1 := h.full (by omega)
  have h2 := mul_zpow_lt_full hp hn hq
  refine (h.dist_le (2 ^ (p - 1))).trans_lt ?_
  rw [abs_of_nonneg (by linarith), abs_of_nonneg (by linarith)]
  linarith

/-- The result is a nearest number of the format, and the even one of two (R9). -/
theorem Rounded.nearest_in_format (h : Rounded p emin x r q) (hp : 1 ≤ p) {n : Nat} {e : Int} (hn : n < 2 ^ p) (he : emin ≤ e) :
    |x - (r : ℚ) * 2 ^ q| ≤ |x - (n : ℚ) * 2 ^ e|
      ∧ (|x - (r : ℚ) * 2 ^ q| = |x - (n : ℚ) * 2 ^ e| → (r : ℚ) * 2 ^ q ≠ (n : ℚ) * 2 ^ e → r % 2 = 0) := by
  rcases lt_or_ge e q with hq | hq
  · have hlt := h.dist_lt_of_lt hp hn he hq
    exact ⟨hlt.le, fun ht _ => absurd ht hlt.ne⟩
  · rw [mul_zpow_of_le n hq]
    exact ⟨h.dist_le _, h.even_of_tie⟩

/-- Rounding does not pass the largest finite value of a format. -/
theorem Rounded.le_of_le (h : Rounded p emin x r q) (hp : 1 ≤ p) {n : Nat} {e : Int} (hn : n < 2 ^ p) (he : emin ≤ e)
    (hx : x ≤ (n : ℚ) * 2 ^ e) : (r : ℚ) * 2 ^ q ≤ (n : ℚ) * 2 ^ e := by
  rcases lt_or_ge e q with hq | hq
  · exact absurd ((h.full (by omega)).trans hx) (not_le.2 (mul_zpow_lt_full hp hn hq))
  · rw [mul_zpow_of_le n hq] at hx ⊢
    have hr := h.nearest.le_of_le ((div_le_iff₀ (by positivity)).2 hx)
    exact mul_le_mul_of_nonneg_right (by exact_mod_cast hr) (by positivity)

end

/-! ## The four formats -/

/-- The largest finite value of a format is one of its numbers, at its full precision. -/
structure FloatFmt.Regular (f : FloatFmt) : Prop where
  bits : 1 ≤ f.p
  sig : f.maxM < 2 ^ f.p
  least : f.emin ≤ f.maxE

theorem regular_of_rounded_format {f : FloatFmt} (h : f = fmtFp16 ∨ f = fmtBf16 ∨ f = fmtE4m3 ∨ f = fmtE5m2) : f.Regular := by
  rcases h with rfl | rfl | rfl | rfl <;> exact ⟨by decide, by decide, by decide⟩

/-- A saturating conversion of a finite number: the rounded value, or the largest finite value where the rounded value exceeds it. -/
theorem roundNum_saturating (f : FloatFmt) (neg : Bool) (m : Nat) (e : Int) :
    roundNum f true (.fin neg m e) =
      let r := roundParts f.p f.emin m 1 e
      if exceeds r.1 r.2 f.maxM f.maxE then .fin neg f.maxM f.maxE else .fin neg r.1 r.2 := rfl

/-- Beyond the largest finite value, that value is nearer than every other number of the format. -/
theorem abs_sub_le_of_saturated {x top y : ℚ} (ht : top ≤ x) (hy : y ≤ top) :
    |x - top| ≤ |x - y| ∧ (|x - top| = |x - y| → top = y) := by
  rw [abs_of_nonneg (by linarith), abs_of_nonneg (by linarith)]
  exact ⟨by linarith, fun h => by linarith⟩

/-- Settles O12: below the largest finite value the rounded number is a nearest one (`Rounded.nearest_in_format`); a rounded number
beyond it comes from a number beyond it (`Rounded.le_of_le`), to which the largest finite value is nearest. -/
theorem roundsToNearest : Obligations.RoundsToNearest := by
  unfold Obligations.RoundsToNearest
  intro f neg m e hf
  obtain ⟨hp, hM, hE⟩ := regular_of_rounded_format hf
  have hr := rounded_roundParts hp f.emin m e
  rw [roundNum_saturating]
  dsimp only
  split
  case isTrue hx =>
    rw [exceeds_iff] at hx
    have htop : (f.maxM : ℚ) * 2 ^ f.maxE ≤ (m : ℚ) * 2 ^ e :=
      le_of_lt (not_le.1 fun hle => absurd (hr.le_of_le hp hM hE hle) (not_le.2 hx))
    refine ⟨_, _, rfl, hM.le, hE, le_rfl, fun n q _ _ hn => ?_⟩
    obtain ⟨hle, htie⟩ := abs_sub_le_of_saturated htop hn
    exact ⟨hle, fun ht hne => absurd (htie ht) hne⟩
  case isFalse hx =>
    rw [exceeds_iff, not_lt] at hx
    exact ⟨_, _, rfl, hr.sig_le, hr.least, hx, fun n q hn hq _ => hr.nearest_in_format hp hn hq⟩

end Sys2Proof.Machine
end

section
/-! PROOFS. Mailbox commands read back as they are written (R5, R6, R367, R368, R380): the header words, the counts that a layout takes
from its own payload, the fields of each command, and the command of each opcode. -/

namespace Sys2Proof.Machine

/-! ## The header words (R367) -/

theorem post_word_fields {seq op : Nat} (hs : seq < 65536) (ho : op < 65536) :
    field (seq + 65536 * op) 0 16 = seq ∧ field (seq + 65536 * op) 16 16 = op := by
  simp only [field]; omega

theorem boolNat_le_one (b : Bool) : boolNat b ≤ 1 := by cases b <;> decide

theorem decide_boolNat (b : Bool) : decide (boolNat b = 1) = b := by cases b <;> rfl

theorem ctrl_word_fields {p : Post} (h : p.wf = true) :
    field (ctrlWord p) 0 16 = p.len ∧ field (ctrlWord p) 18 2 = p.part ∧ field (ctrlWord p) 20 12 = 0
      ∧ bit (ctrlWord p) 16 = p.irqFinal ∧ bit (ctrlWord p) 17 = p.irqAccept := by
  simp only [Post.wf, fits, Bool.and_eq_true, decide_eq_true_eq] at h
  obtain ⟨⟨-, hl⟩, hp⟩ := h
  have hf := boolNat_le_one p.irqFinal
  have ha := boolNat_le_one p.irqAccept
  have e16 : ctrlWord p / 2 ^ 16 % 2 = boolNat p.irqFinal := by simp only [ctrlWord]; omega
  have e17 : ctrlWord p / 2 ^ 17 % 2 = boolNat p.irqAccept := by simp only [ctrlWord]; omega
  refine ⟨?_, ?_, ?_, ?_, ?_⟩
  · simp only [field, ctrlWord]; omega
  · simp only [field, ctrlWord]; omega
  · simp only [field, ctrlWord]; omega
  · rw [bit, Nat.testBit_eq_decide_div_mod_eq, e16, decide_boolNat]
  · rw [bit, Nat.testBit_eq_decide_div_mod_eq, e17, decide_boolNat]

/-! ## Counts inside a payload (R369) -/

/-- A named field of a payload stands at the bit where the layout before it ends. -/
theorem field_writeFields (w : Nat) (m : List Piece) : ∀ (l : List Piece) (v : List Nat),
    field (writeFields (l ++ fld w :: m) v) (layoutBits l) w = fieldNo v (l.countP (·.named)) % 2 ^ w
  | [], v => by
    cases v <;> simp [field, writeFields, layoutBits, fld, fieldNo, Nat.add_mul_mod_self_left]
  | p :: l, v => by
    have hw : 0 < 2 ^ p.width := Nat.two_pow_pos _
    have hb : layoutBits (p :: l) = p.width + layoutBits l := by simp [layoutBits]
    have hstep : ∀ a b : Nat, a < 2 ^ p.width → field (a + 2 ^ p.width * b) (layoutBits (p :: l)) w = field b (layoutBits l) w := by
      intro a b ha
      simp only [field, hb]
      rw [Nat.pow_add, ← Nat.div_div_eq_div_mul, Nat.add_mul_div_left _ _ hw, Nat.div_eq_of_lt ha, Nat.zero_add]
    by_cases hn : p.named = true
    · have hv : fieldNo v.tail (l.countP (·.named)) = fieldNo v ((p :: l).countP (·.named)) := by
        cases v <;> simp [fieldNo, hn]
      simp only [List.cons_append, writeFields, if_pos hn]
      rw [hstep _ _ (Nat.mod_lt _ hw), field_writeFields w m l v.tail, hv]
    · have hc : (p :: l).countP (·.named) = l.countP (·.named) := by simp [hn]
      simp only [List.cons_append, writeFields, if_neg hn]
      have h0 := hstep 0 (writeFields (l ++ fld w :: m) v) hw
      rw [Nat.zero_add] at h0
      rw [h0, field_writeFields w m l v, hc]

/-- A layout depends on its payload only through the count that its opcode has. -/
theorem layoutOf_congr {op n k : Nat} (hb : op = 0x0201 → batchCount n = batchCount k)
    (he : op = 0x0501 ∨ op = 0x0A02 → entryCount n = entryCount k) : layoutOf op n = layoutOf op k := by
  by_cases h1 : op = 0x0201
  · subst h1; simp [layoutOf, layoutLow, hb rfl]
  · by_cases h2 : op = 0x0501
    · subst h2; simp [layoutOf, layoutLow, he (.inl rfl)]
    · by_cases h3 : op = 0x0A02
      · subst h3; simp [layoutOf, layoutHigh, he (.inr rfl)]
      · simp [layoutOf, layoutLow, layoutHigh, h1, h2, h3]

theorem field_shifted (c lo w : Nat) : field (2 ^ lo * c) lo w = c % 2 ^ w := by
  rw [field, Nat.mul_div_cancel_left _ (Nat.two_pow_pos lo)]

theorem batchCount_writeFields (v : List Nat) :
    batchCount (writeFields (layoutOf 0x0201 (countSeed 0x0201 v)) v) = batchCount (countSeed 0x0201 v) := by
  have h : ∀ m, field (writeFields ([fld 32, gap 32, fld 48, gap 16, fld 64] ++ fld 32 :: m) v) 192 32 = fieldNo v 3 % 2 ^ 32 :=
    fun m => field_writeFields 32 m [fld 32, gap 32, fld 48, gap 16, fld 64] v
  have hs : countSeed 0x0201 v = 2 ^ 192 * fieldNo v 3 := rfl
  rw [batchCount, batchCount, hs, field_shifted]
  exact congrArg (fun x => min x 501) (h _)

theorem entryCount_writeFields {op : Nat} (ho : op = 0x0501 ∨ op = 0x0A02) (v : List Nat) :
    entryCount (writeFields (layoutOf op (countSeed op v)) v) = entryCount (countSeed op v) := by
  have h : ∀ m, field (writeFields ([fld 8] ++ fld 8 :: m) v) 8 8 = fieldNo v 1 % 2 ^ 8 := fun m => field_writeFields 8 m [fld 8] v
  have hs : countSeed op v = 2 ^ 8 * fieldNo v 1 := by rcases ho with rfl | rfl <;> rfl
  rw [entryCount, entryCount, hs, field_shifted]
  rcases ho with rfl | rfl <;> exact h _

/-- The layout that a payload gives itself is the one it is written with: its counts read back (R241, R332, R377). -/
theorem layoutOf_writeFields (op : Nat) (v : List Nat) :
    layoutOf op (writeFields (layoutOf op (countSeed op v)) v) = layoutOf op (countSeed op v) := by
  refine layoutOf_congr (fun h => ?_) (fun h => entryCount_writeFields h v)
  subst h
  exact batchCount_writeFields v

/-- A batch that LEN can cover is counted (R377). -/
theorem batchCount_countSeed {v : List Nat} (h : fieldNo v 3 ≤ 500) : batchCount (countSeed 0x0201 v) = fieldNo v 3 := by
  have hs : countSeed 0x0201 v = 2 ^ 192 * fieldNo v 3 := rfl
  rw [batchCount, hs, field_shifted]
  omega

theorem entryCount_countSeed {op : Nat} {v : List Nat} (ho : op = 0x0501 ∨ op = 0x0A02) (h : fits 8 (fieldNo v 1) = true) :
    entryCount (countSeed op v) = fieldNo v 1 := by
  have hs : countSeed op v = 2 ^ 8 * fieldNo v 1 := by rcases ho with rfl | rfl <;> rfl
  rw [entryCount, hs, field_shifted]
  exact Nat.mod_eq_of_lt (of_decide_eq_true h)

/-! ## From a mailbox to its header and fields -/

/-- The command of an opcode's fields. -/
def commandOf (p : Post) (op : Nat) (v : List Nat) : Option Instr := if op < 0x0800 then commandLow p op v else commandHigh p op v

/-- The mailbox in which the host has written a header, an opcode and fields (R367, R368). -/
def mailboxOf (p : Post) (op : Nat) (v : List Nat) : Posted :=
  { func := p.func, mbx := p.mbx, post := p.seq + 65536 * op, ctrl := ctrlWord p,
    payload := leBytes (8 * p.len) (writeFields (layoutOf op (countSeed op v)) v) }

theorem postedForm_of_fields {i : Instr} {p : Post} {op : Nat} {v : List Nat} (h : commandFields i = some (p, op, v)) :
    postedForm i = some (mailboxOf p op v) := by
  rw [postedForm, h]; rfl

/-- A payload that LEN covers is read back as its number (R5, R369). -/
theorem ofLe_payload {p : Post} {op : Nat} {v : List Nat} (h : unitsOf op v ≤ p.len) :
    ofLe (mailboxOf p op v).payload = writeFields (layoutOf op (countSeed op v)) v := by
  refine ofLe_leBytes _ _ ((writeFields_lt _ _).trans_le ?_)
  have hc : layoutBits (layoutOf op (countSeed op v)) ≤ 64 * p.len := by
    unfold unitsOf ceilDiv at h
    omega
  calc 2 ^ layoutBits (layoutOf op (countSeed op v)) ≤ 2 ^ (64 * p.len) := Nat.pow_le_pow_right two_pos hc
    _ = 256 ^ (8 * p.len) := by
      rw [show 256 = 2 ^ 8 from rfl, ← Nat.pow_mul, ← Nat.mul_assoc]

/-- What the shepherd reads from a mailbox as the host wrote it: the header, the opcode and the fields (R367, R368). -/
theorem postedCommand_mailboxOf {p : Post} {op : Nat} {v : List Nat} (hp : p.wf = true) (hr : p.rsv = false) (ho : op < 65536)
    (hl : unitsOf op v ≤ p.len) (hv : fieldsFit (layoutOf op (countSeed op v)) v = true) :
    postedCommand (mailboxOf p op v) = commandOf p op v := by
  have hs : p.seq < 65536 := by
    simp only [Post.wf, fits, Bool.and_eq_true, decide_eq_true_eq] at hp
    obtain ⟨⟨⟨-, hs⟩, -⟩, -⟩ := hp
    exact hs
  obtain ⟨hseq, hop⟩ := post_word_fields hs ho
  obtain ⟨hlen, hpart, hgap, hfin, hacc⟩ := ctrl_word_fields hp
  have hop' : postedOp (mailboxOf p op v) = op := hop
  have hn := ofLe_payload hl
  have hpost : postOf (mailboxOf p op v) = p := by
    simp only [postOf, hop', hn, layoutOf_writeFields, gapsSet_writeFields]
    simp only [mailboxOf, hseq, hlen, hpart, hgap, hfin, hacc, bne_self_eq_false, Bool.or_false]
    rw [← hr]
  simp only [postedCommand, hop', hn, layoutOf_writeFields, hpost, readFields_writeFields _ _ hv, commandOf]

/-! ## Fields that fit their layout -/

@[simp] theorem fieldsFit_nil : fieldsFit [] [] = true := rfl

@[simp] theorem fieldsFit_fld (w : Nat) (l : List Piece) (x : Nat) (v : List Nat) :
    fieldsFit (fld w :: l) (x :: v) = (fits w x && fieldsFit l v) := rfl

@[simp] theorem fieldsFit_gap (w : Nat) (l : List Piece) (v : List Nat) : fieldsFit (gap w :: l) v = fieldsFit l v := rfl

@[simp] theorem allFit_nil (w : Nat) : allFit w [] = true := rfl

@[simp] theorem allFit_cons (w x : Nat) (l : List Nat) : allFit w (x :: l) = (fits w x && allFit w l) := rfl

@[simp] theorem fits_zero (w : Nat) : fits w 0 = true := decide_eq_true (Nat.two_pow_pos w)

@[simp] theorem fits_boolNat (b : Bool) : fits 1 (boolNat b) = true := by cases b <;> rfl

theorem fieldsFit_append : ∀ {l : List Piece} {v : List Nat}, fieldsFit l v = true → ∀ (m : List Piece) (w : List Nat),
    fieldsFit (l ++ m) (v ++ w) = fieldsFit m w
  | [], v, h, m, w => by
    have hv : v = [] := List.isEmpty_iff.1 h
    simp [hv]
  | p :: l, v, h, m, w => by
    by_cases hn : p.named = true
    · cases v with
      | nil => simp [fieldsFit, hn] at h
      | cons x t =>
        simp only [fieldsFit, if_pos hn, Bool.and_eq_true] at h
        simp only [List.cons_append, fieldsFit, if_pos hn, h.1, Bool.true_and, fieldsFit_append h.2 m w]
    · simp only [fieldsFit, if_neg hn] at h
      simp only [List.cons_append, fieldsFit, if_neg hn, fieldsFit_append h m w]

/-- Entries of one layout, one after another. -/
theorem fieldsFit_rep {α : Type} {e : List Piece} {f : α → List Nat} : ∀ {l : List α}, (∀ x ∈ l, fieldsFit e (f x) = true) →
    fieldsFit (rep l.length e) (l.flatMap f) = true
  | [], _ => rfl
  | x :: l, h => by
    rw [List.length_cons, rep, List.flatMap_cons, fieldsFit_append (h x (by simp))]
    exact fieldsFit_rep fun y hy => h y (by simp [hy])

/-- A list of n fields of one width. -/
theorem fieldsFit_rep_fld {w n : Nat} {l : List Nat} (hl : l.length = n) (h : allFit w l = true) : fieldsFit (rep n [fld w]) l = true := by
  have h1 : ∀ x ∈ l, fieldsFit [fld w] [x] = true := fun x hx => by simpa using List.all_eq_true.1 h x hx
  have h2 := fieldsFit_rep h1
  rwa [hl, List.flatMap_singleton'] at h2

theorem fieldsFit_unbatch {l : List BatchEntry} (h : (l.all fun b => fits 32 b.seq) = true) :
    fieldsFit (rep l.length batchLayout) (unbatch l) = true :=
  fieldsFit_rep fun b hb => by simpa [batchLayout] using List.all_eq_true.1 h b hb

theorem fieldsFit_unrange {l : List T2Range} (h : l.all T2Range.wf = true) :
    fieldsFit (rep l.length rangeLayout) (unrange l) = true :=
  fieldsFit_rep fun r hr => by simpa [rangeLayout, T2Range.wf, and_assoc] using List.all_eq_true.1 h r hr

theorem fieldsFit_unroute {l : List Route} (h : l.all Route.wf = true) :
    fieldsFit (rep l.length routeLayout) (unroute l) = true :=
  fieldsFit_rep fun r hr => by simpa [routeLayout, Route.wf, and_assoc] using List.all_eq_true.1 h r hr

/-- A descriptor's fields fit R117's layout. -/
theorem fieldsFit_descFields {d : Desc} (h : d.wf = true) : fieldsFit descLayout (descFields d) = true := by
  simp only [Desc.wf, Bool.and_eq_true, beq_iff_eq, and_assoc] at h
  obtain ⟨h1, h2, h3, h4, h5, h6, h7, h8, h9, hel, he, hsl, hs, hpl, hp, hsc⟩ := h
  have hstr : fieldsFit (rep 4 [fld 48, gap 16]) d.str = true := by
    have h1 := fieldsFit_rep (e := [fld 48, gap 16]) (f := fun x => [x]) (l := d.str)
      fun x hx => by simpa using List.all_eq_true.1 hs x hx
    rwa [hsl, List.flatMap_singleton'] at h1
  have hhead : fieldsFit [fld 48, gap 16, fld 8, fld 8, fld 1, fld 3, fld 2, gap 2, fld 8, fld 32, fld 32, gap 32]
      [d.base, d.format, d.layout, d.qmode, d.ls, d.qfmt, d.padmode, d.padval, d.clipLimit] = true := by simp [*]
  have hscale := fieldsFit_rep_fld (n := 8) rfl hsc
  simp only [descLayout, descFields, List.append_assoc]
  rw [fieldsFit_append hhead, fieldsFit_append (fieldsFit_rep_fld hel he), List.singleton_append, fieldsFit_gap, fieldsFit_append hstr,
    fieldsFit_append (fieldsFit_rep_fld hpl hp), List.singleton_append, fieldsFit_gap]
  have h := fieldsFit_append hscale [gap 128] []
  rwa [List.append_nil] at h

/-- CODEC.OPEN's fields fit R306's layout. -/
theorem fieldsFit_codecFields {o : CodecParams} (h : o.wf = true) : fieldsFit codecLayout (codecFields o) = true := by
  simp only [CodecParams.wf, Bool.and_eq_true, beq_iff_eq, and_assoc] at h
  obtain ⟨h1, h2, h3, h4, h5, h6, h7, hml, hm, hal, ha, hd, h8, h9, h10, h11⟩ := h
  have hma : fieldsFit (rep 6 [fld 32]) (o.mul ++ o.add) = true := by
    refine fieldsFit_rep_fld (by simp [hml, hal]) ?_
    rw [allFit, List.all_append, Bool.and_eq_true]
    exact ⟨hm, ha⟩
  have hsizes : fieldsFit [fld 16, fld 16, fld 8, fld 8, fld 8, fld 8, fld 12, gap 20, fld 48, gap 16, fld 64]
      [o.width, o.height, o.pw, o.ph, o.pt, o.colour, o.sync, o.workVa, o.workBytes] = true := by
    simp only [allFit_cons, allFit_nil, Bool.and_true, Bool.and_eq_true] at h3 h4
    simp [*]
  have htail : fieldsFit [fld 8, gap 8, fld 16, fld 16, gap 16, fld 32, gap 32, fld 64]
      [o.qi, o.refresh, o.window, o.frameCap, o.windowCap] = true := by
    simp only [allFit_cons, allFit_nil, Bool.and_true, Bool.and_eq_true] at h9
    simp [*]
  have hctx : fieldsFit [fld 32] [o.ctx] = true := by simp [h1]
  have hsplit : codecFields o = [o.ctx] ++ ([o.dir, o.standard, o.profile, o.level, o.cls, o.framing, o.bitDepth, o.pipe]
      ++ ([o.width, o.height, o.pw, o.ph, o.pt, o.colour, o.sync, o.workVa, o.workBytes]
      ++ ((o.mul ++ o.add) ++ (descFields o.desc ++ [o.qi, o.refresh, o.window, o.frameCap, o.windowCap])))) := by
    simp [codecFields]
  have hlay : codecLayout = [fld 32] ++ (rep 8 [fld 8]
      ++ ([fld 16, fld 16, fld 8, fld 8, fld 8, fld 8, fld 12, gap 20, fld 48, gap 16, fld 64] ++ (rep 6 [fld 32]
      ++ (descLayout ++ [fld 8, gap 8, fld 16, fld 16, gap 16, fld 32, gap 32, fld 64])))) := by
    simp only [codecLayout, List.append_assoc]
  rw [hsplit, hlay, fieldsFit_append hctx, fieldsFit_append (fieldsFit_rep_fld (n := 8) rfl h2), fieldsFit_append hsizes, fieldsFit_append hma,
    fieldsFit_append (fieldsFit_descFields hd), htail]

/-- FABRIC.CONFIG's fields fit R353's layout. -/
theorem fieldsFit_fabricFields {c : FabricParams} (h : c.wf = true) :
    fieldsFit ([fld 16, fld 8, gap 8] ++ rep 16 [fld 8] ++ [fld 128, fld 128, fld 32, fld 32])
      ([c.moduleId, c.shiftMargin] ++ c.modes ++ [c.ipv6, c.ipv6b, c.ipv4, c.ipv4b]) = true := by
  simp only [FabricParams.wf, Bool.and_eq_true, beq_iff_eq, and_assoc] at h
  obtain ⟨h1, h2, hl, hm, h3, h4, h5, h6⟩ := h
  have hhead : fieldsFit [fld 16, fld 8, gap 8] [c.moduleId, c.shiftMargin] = true := by simp [h1, h2]
  rw [List.append_assoc, List.append_assoc, fieldsFit_append hhead, fieldsFit_append (fieldsFit_rep_fld hl hm)]
  simp [*]

/-- A number of n bytes fits 8 · n bits. -/
theorem fits_ofLe {n : Nat} {b : List Byte} (h : b.length = n) : fits (8 * n) (ofLe b) = true := by
  have h1 := ofLe_lt b
  rw [h, show 256 = 2 ^ 8 from rfl, ← Nat.pow_mul] at h1
  exact decide_eq_true h1

/-! ## Operands from fields -/

theorem descOf_descFields {d : Desc} (t : List Nat) (h : d.wf = true) (hr : d.rsv = false) : descOf (descFields d ++ t) = d := by
  simp only [Desc.wf, Bool.and_eq_true, beq_iff_eq, and_assoc] at h
  obtain ⟨-, -, -, -, -, -, -, -, -, hel, -, hsl, -, hpl, -⟩ := h
  obtain ⟨base, format, layout, qmode, ls, qfmt, padmode, padval, clip, ext, str, pad, _, _, _, _, _, _, _, _, rsv⟩ := d
  obtain rfl : rsv = false := hr
  match ext, str, pad, hel, hsl, hpl with
  | [_, _, _, _, _], [_, _, _, _], [_, _, _, _, _, _], _, _, _ => rfl

theorem descFields_length {d : Desc} (h : d.wf = true) : (descFields d).length = 32 := by
  simp only [Desc.wf, Bool.and_eq_true, beq_iff_eq, and_assoc] at h
  obtain ⟨-, -, -, -, -, -, -, -, -, hel, -, hsl, -, hpl, -⟩ := h
  simp [descFields, hel, hsl, hpl]

theorem codecOf_codecFields {o : CodecParams} (h : o.wf = true) (hr : o.desc.rsv = false) : codecOf (codecFields o) = o := by
  simp only [CodecParams.wf, Bool.and_eq_true, beq_iff_eq, and_assoc] at h
  obtain ⟨-, -, -, -, -, -, -, hml, -, hal, -, hd, -⟩ := h
  have hl := descFields_length hd
  have hdesc := descOf_descFields [o.qi, o.refresh, o.window, o.frameCap, o.windowCap] hd hr
  have hdrop : ∀ t, (o.mul ++ (o.add ++ t)).drop 6 = t := fun t => by
    rw [← List.append_assoc]; exact List.drop_left' (by simp [hml, hal])
  simp [codecOf, codecFields, fieldNo, hml, hal, hl, hdrop, hdesc]

theorem fabricOf_fields {c : FabricParams} (h : c.wf = true) :
    fabricOf ([c.moduleId, c.shiftMargin] ++ c.modes ++ [c.ipv6, c.ipv6b, c.ipv4, c.ipv4b]) = c := by
  simp only [FabricParams.wf, Bool.and_eq_true, beq_iff_eq, and_assoc] at h
  obtain ⟨-, -, hl, -⟩ := h
  simp [fabricOf, fieldNo, hl]

theorem leBytes_ofLe_of_length {n : Nat} {b : List Byte} (h : b.length = n) : leBytes n (ofLe b) = b := h ▸ leBytes_ofLe b

/-! ## Every mailbox command -/

/-- The opcode of a mailbox command fits POST's field, and its header is well formed. -/
theorem header_of_fields {i : Instr} {p : Post} {op : Nat} {v : List Nat} (hw : i.wf = true) (h : commandFields i = some (p, op, v)) :
    p.wf = true ∧ op < 65536 := by
  cases i
  all_goals simp only [commandFields, Option.some.injEq, Prod.mk.injEq, reduceCtorEq] at h
  all_goals obtain ⟨rfl, rfl, -⟩ := h
  all_goals simp only [Instr.wf, Bool.and_eq_true, and_assoc] at hw
  all_goals simp [hw]

/-- RUN.SUBMIT's fields fit their layout (R377). -/
theorem fieldsFit_runSubmit {c g b : Nat} {l : List BatchEntry} (hc : fits 32 c = true) (hg : fits 48 g = true) (hb : fits 64 b = true)
    (hl : (l.all fun x => fits 32 x.seq) = true) (hn : l.length ≤ 500) :
    fieldsFit (layoutOf 0x0201 (countSeed 0x0201 ([c, g, b, l.length] ++ unbatch l))) ([c, g, b, l.length] ++ unbatch l) = true := by
  have hcount := batchCount_countSeed (v := [c, g, b, l.length] ++ unbatch l) hn
  have hlay : layoutOf 0x0201 (countSeed 0x0201 ([c, g, b, l.length] ++ unbatch l)) =
      [fld 32, gap 32, fld 48, gap 16, fld 64, fld 32, gap 32] ++ rep l.length batchLayout := by
    simp only [layoutOf, layoutLow, hcount]
    rfl
  have hlen : fits 32 l.length = true := decide_eq_true (by omega)
  rw [hlay, fieldsFit_append (by simp [hc, hg, hb, hlen]), fieldsFit_unbatch hl]

/-- TIER.CONFIG's fields fit their layout (R241). -/
theorem fieldsFit_tierConfig {c : Nat} {l : List T2Range} (hc : fits 8 c = true) (hn : fits 8 l.length = true)
    (hl : l.all T2Range.wf = true) :
    fieldsFit (layoutOf 0x0501 (countSeed 0x0501 ([c, l.length] ++ unrange l))) ([c, l.length] ++ unrange l) = true := by
  have hcount := entryCount_countSeed (v := [c, l.length] ++ unrange l) (.inl rfl) hn
  have hlay : layoutOf 0x0501 (countSeed 0x0501 ([c, l.length] ++ unrange l)) =
      [fld 8, fld 8, gap 48] ++ rep l.length rangeLayout := by
    simp only [layoutOf, layoutLow, hcount]
    rfl
  rw [hlay, fieldsFit_append (by simp [hc, hn]), fieldsFit_unrange hl]

/-- FABRIC.ROUTE's fields fit their layout (R332). -/
theorem fieldsFit_fabricRoute {f : Nat} {l : List Route} (hf : fits 8 f = true) (hn : fits 8 l.length = true)
    (hl : l.all Route.wf = true) :
    fieldsFit (layoutOf 0x0A02 (countSeed 0x0A02 ([f, l.length] ++ unroute l))) ([f, l.length] ++ unroute l) = true := by
  have hcount := entryCount_countSeed (v := [f, l.length] ++ unroute l) (.inr rfl) hn
  have hlay : layoutOf 0x0A02 (countSeed 0x0A02 ([f, l.length] ++ unroute l)) =
      [fld 8, fld 8, gap 48] ++ rep l.length routeLayout := by
    simp only [layoutOf, layoutHigh, hcount]
    rfl
  rw [hlay, fieldsFit_append (by simp [hf, hn]), fieldsFit_unroute hl]

/-- POWER.BUDGET's fields fit their layout (R439). -/
theorem fieldsFit_powerBudget {l : Nat} {b : List Nat} (h : fits 16 l = true) (hl : b.length = 4) (hb : allFit 16 b = true) :
    fieldsFit [fld 16, gap 48, fld 16, fld 16, fld 16, fld 16] (l :: b) = true := by
  have h4 : fieldsFit [fld 16, fld 16, fld 16, fld 16] b = true := fieldsFit_rep_fld (n := 4) hl hb
  rw [fieldsFit_fld, h, fieldsFit_gap, h4]; rfl

/-- The OP of RECOVER.DUMP and SEC.KEY. -/
theorem fits_of_lt_four {n : Nat} (h : n < 4) : fits 8 n = true := decide_eq_true (by omega)

/-- The fields of a well-formed command fit the layout of its opcode (R380). -/
theorem fieldsFit_commandFields {i : Instr} {p : Post} {op : Nat} {v : List Nat} (hw : i.wf = true)
    (h : commandFields i = some (p, op, v)) (hb : ∀ c a b l, i = .runSubmit p c a b l → l.length ≤ 500) :
    fieldsFit (layoutOf op (countSeed op v)) v = true := by
  cases i
  all_goals simp only [commandFields, Option.some.injEq, Prod.mk.injEq, reduceCtorEq] at h
  all_goals obtain ⟨rfl, rfl, rfl⟩ := h
  all_goals simp only [Instr.wf, allFit_cons, allFit_nil, Bool.and_true, Bool.and_eq_true, and_assoc, beq_iff_eq] at hw
  case runSubmit p c g b l =>
    obtain ⟨-, hc, hg, hs, hl⟩ := hw
    exact fieldsFit_runSubmit hc hg hs hl (hb _ _ _ _ rfl)
  case tierConfig p c l =>
    obtain ⟨-, hc, hn, hl⟩ := hw
    exact fieldsFit_tierConfig hc hn hl
  case fabricRoute p f c l =>
    obtain ⟨-, hf, hn, rfl, hl⟩ := hw
    exact fieldsFit_fabricRoute hf hn hl
  case codecOpen p o => exact fieldsFit_codecFields hw.2
  case fabricConfig p c => exact fieldsFit_fabricFields hw.2
  case powerBudget p l b =>
    obtain ⟨-, h, hl, hb⟩ := hw
    exact fieldsFit_powerBudget h hl hb
  case secKeyInstall p q k b =>
    obtain ⟨-, hq, hk, hl⟩ := hw
    simp [layoutOf, layoutHigh, hq, hk, fits_ofLe hl]
  case secKeyRevoke p q k b =>
    obtain ⟨-, hq, hk, hl⟩ := hw
    simp [layoutOf, layoutHigh, hq, hk, fits_of_lt_four, fits_ofLe hl]
  case lifecycleAdvance p t a =>
    obtain ⟨-, ht, hl⟩ := hw
    simp [layoutOf, layoutHigh, ht, fits_ofLe hl]
  all_goals simp [layoutOf, layoutLow, layoutHigh, handleLayout, byteLayout, batchLayout, tierLayout, kvLayout, fits_of_lt_four, hw]

/-- The fields of a well-formed command spell it (R380). -/
theorem commandOf_commandFields {i : Instr} {p : Post} {op : Nat} {v : List Nat} (hw : i.wf = true)
    (h : commandFields i = some (p, op, v)) (hr : ∀ o, i = .codecOpen p o → o.desc.rsv = false) : commandOf p op v = some i := by
  cases i
  all_goals simp only [commandFields, Option.some.injEq, Prod.mk.injEq, reduceCtorEq] at h
  all_goals obtain ⟨rfl, rfl, rfl⟩ := h
  case codecOpen p o =>
    simp only [Instr.wf, Bool.and_eq_true] at hw
    have ho := codecOf_codecFields hw.2 (hr o rfl)
    simp [commandOf, commandHigh, ho]
  case fabricConfig p c =>
    simp only [Instr.wf, Bool.and_eq_true] at hw
    have hc := fabricOf_fields hw.2
    simp only [commandOf, commandHigh, hc]
    rfl
  case fabricRoute p f c l =>
    simp [commandOf, commandHigh, fieldNo, routesOf_unroute]
  case powerBudget p l b =>
    simp only [Instr.wf, Bool.and_eq_true, beq_iff_eq] at hw
    obtain ⟨⟨-, hl⟩, -⟩ := hw
    simp [commandOf, commandHigh, fieldNo, List.take_of_length_le hl.le]
  case secKeyInstall p q k b =>
    simp only [Instr.wf, Bool.and_eq_true, beq_iff_eq] at hw
    simp [commandOf, commandHigh, keyCommand, fieldNo, leBytes_ofLe_of_length hw.2]
  case secKeyRevoke p q k b =>
    simp only [Instr.wf, Bool.and_eq_true, beq_iff_eq] at hw
    simp [commandOf, commandHigh, keyCommand, fieldNo, leBytes_ofLe_of_length hw.2]
  case lifecycleAdvance p t a =>
    simp only [Instr.wf, Bool.and_eq_true, beq_iff_eq] at hw
    simp [commandOf, commandHigh, fieldNo, leBytes_ofLe_of_length hw.2]
  all_goals simp [commandOf, commandLow, commandHigh, dumpCommand, fieldNo, flagOf_boolNat, batchOf_unbatch, t2RangesOf_unrange]

/-- Settles O5: what the host writes is read back as the header and fields that it wrote, and the fields spell the command. -/
theorem postRoundTrip : Obligations.PostRoundTrip := by
  unfold Obligations.PostRoundTrip
  intro i p op v q hw h hr hd hb hl hq
  obtain ⟨hp, ho⟩ := header_of_fields hw h
  obtain rfl : mailboxOf p op v = q := Option.some.inj ((postedForm_of_fields h).symm.trans hq)
  rw [postedCommand_mailboxOf hp hr ho hl (fieldsFit_commandFields hw h hb), commandOf_commandFields hw h hd]

end Sys2Proof.Machine
end

section
/-! PROOFS. The invariant (R41, log 2): the reset state is sound, and every step keeps a sound state sound. -/

namespace Sys2Proof.Machine

/-! ## Every command keeps what soundness asks for -/

/-- Whatever a command answers keeps what its state has: one law of Laws/Kept*.lean for each command. -/
theorem exec_keeps {s t : State} (h : Keeps s t) (i : Instr) : ResultKeeps s (exec i t) :=
  match i with
  | .funcOpen p abi => execFuncOpen_keeps h p abi
  | .funcInfo p => execFuncInfo_keeps h p
  | .contextRegister p priority => execContextRegister_keeps h p priority
  | .contextRelease p ctx => execContextRelease_keeps h p ctx
  | .contextReside p ctx out => execContextReside_keeps h p ctx out
  | .contextCancel p ctx => execContextCancel_keeps h p ctx
  | .runSubmit p ctx program startBeat batch => execRunSubmit_keeps h p ctx program startBeat batch
  | .runQuery p runId => execRunQuery_keeps h p runId
  | .syncAdd p counter set value => execSyncAdd_keeps h p counter set value
  | .syncRead p first count => execSyncRead_keeps h p first count
  | .syncWait p ctx counter value timeout => execSyncWait_keeps h p ctx counter value timeout
  | .allocTensor p ctx random backed va size tag src => execAllocTensor_keeps h p ctx random backed va size tag src
  | .allocFree p ctx tensor => execAllocFree_keeps h p ctx tensor
  | .tierConfig p commonsGib ranges => execTierConfig_keeps h p commonsGib ranges
  | .tierPromote p ctx tensor first count => execTierPromote_keeps h p ctx tensor first count
  | .tierEvict p ctx tensor first count => execTierEvict_keeps h p ctx tensor first count
  | .tierPin p ctx tensor first count => execTierPin_keeps h p ctx tensor first count
  | .tierUnpin p ctx tensor first count => execTierUnpin_keeps h p ctx tensor first count
  | .tierQuery p ctx tensor first count => execTierQuery_keeps h p ctx tensor first count
  | .weightLoad p ctx tensor manifest verified => execWeightLoad_keeps h p ctx tensor manifest verified
  | .kvCreate p ctx heads format base maxPos => execKvCreate_keeps h p ctx heads format base maxPos
  | .kvShare p seq first count flags src => execKvShare_keeps h p seq first count flags src
  | .kvRelease p seq first count flags src => execKvRelease_keeps h p seq first count flags src
  | .kvMark p seq first count flags src => execKvMark_keeps h p seq first count flags src
  | .kvQuery p seq firstEntry => execKvQuery_keeps h p seq firstEntry
  | .memQuery p first count => execMemQuery_keeps h p first count
  | .memRestore p => execMemRestore_keeps h p
  | .codecOpen p o => execCodecOpen_keeps h p o
  | .codecDecode p session last inVa bytes maxGroups outVa => execCodecDecode_keeps h p session last inVa bytes maxGroups outVa
  | .codecEncode p session last key inVa groups outVa outBytes => execCodecEncode_keeps h p session last key inVa groups outVa outBytes
  | .codecClose p session => execCodecClose_keeps h p session
  | .codecQuery p session => execCodecQuery_keeps h p session
  | .fabricConfig p c => execFabricConfig_keeps h p c
  | .fabricRoute p first count entries => execFabricRoute_keeps h p first count entries
  | .fabricQuery p => execFabricQuery_keeps h p
  | .fabricCopy p ctx route dir tag va bytes => execFabricCopy_keeps h p ctx route dir tag va bytes
  | .tallyConfig p gmPrio input inDelay ptpOffset setTime => execTallyConfig_keeps h p gmPrio input inDelay ptpOffset setTime
  | .partitionConfig p mode => execPartitionConfig_keeps h p mode
  | .partitionQuery p sect first => execPartitionQuery_keeps h p sect first
  | .hostCopy p ctx dir sync va hostAddr bytes => execHostCopy_keeps h p ctx dir sync va hostAddr bytes
  | .hostHdm p parts => execHostHdm_keeps h p parts
  | .powerBudget p limit budgets => execPowerBudget_keeps h p limit budgets
  | .powerQuery p => execPowerQuery_keeps h p
  | .recoverDumpTake p slot set => execRecoverDumpTake_keeps h p slot set
  | .recoverDumpRead p slot set hostAddr offset bytes => execRecoverDumpRead_keeps h p slot set hostAddr offset bytes
  | .recoverDumpKeep p slot set => execRecoverDumpKeep_keeps h p slot set
  | .recoverDumpRelease p slot set => execRecoverDumpRelease_keeps h p slot set
  | .recoverReset p level part engine => execRecoverReset_keeps h p level part engine
  | .recoverQuery p => execRecoverQuery_keeps h p
  | .daybookRead p fromSeq count => execDaybookRead_keeps h p fromSeq count
  | .secKeyInstall p slot keyId pub => execSecKeyInstall_keeps h p slot keyId pub
  | .secKeyRevoke p slot keyId pub => execSecKeyRevoke_keeps h p slot keyId pub
  | .secQuery p => execSecQuery_keeps h p
  | .lifecycleAdvance p target auth => execLifecycleAdvance_keeps h p target auth
  | .lifecycleQuery p => execLifecycleQuery_keeps h p
  | .lifecycleCommit => execLifecycleCommit_keeps h
  | .lifecycleEraseDone => execLifecycleEraseDone_keeps h
  | .registerWrite target value => execRegisterWrite_keeps h target value
  | .beatBoundary alive hangs => execBeatBoundary_keeps h alive hangs
  | .bellTrip => execBellTrip_keeps h
  | .engineReady engine => execEngineReady_keeps h engine
  | .guiltyReplay engine => execGuiltyReplay_keeps h engine
  | .ladderBudgetExpired step => execLadderBudgetExpired_keeps h step
  | .partitionReady part failed => execPartitionReady_keeps h part failed
  | .dumpTakeCollect => execDumpTakeCollect_keeps h
  | .dumpWritten slot => execDumpWritten_keeps h slot
  | .handleExpiry ctx => execHandleExpiry_keeps h ctx
  | .correctedPeriodEnd => execCorrectedPeriodEnd_keeps h
  | .tileDecode part => execTileDecode_keeps h part
  | .droverStart part instr drover => execDroverStart_keeps h part instr drover
  | .lotComplete lot collision => execLotComplete_keeps h lot collision
  | .lotLate lot => execLotLate_keeps h lot
  | .mm part ecc => execMm_keeps h part ecc
  | .cv part ecc => execCv_keeps h part ecc
  | .cvDw part ecc => execCvDw_keeps h part ecc
  | .attn part ecc => execAttn_keeps h part ecc
  | .rw part => execRw_keeps h part
  | .mvLoad part => execMvLoad_keeps h part
  | .mvStore part => execMvStore_keeps h part
  | .mvWeight part => execMvWeight_keeps h part
  | .mvSend part => execMvSend_keeps h part
  | .mvRecv part => execMvRecv_keeps h part
  | .syFold part => execSyFold_keeps h part
  | .syWgrant part parity => execSyWgrant_keeps h part parity
  | .sySignal part => execSySignal_keeps h part
  | .syWait part => execSyWait_keeps h part
  | .tl part => execTl_keeps h part
  | .stepVerdict part => execStepVerdict_keeps h part
  | .troubleReplay part ecc => execTroubleReplay_keeps h part ecc
  | .drain part lpen collision => execDrain_keeps h part lpen collision
  | .runComplete part => execRunComplete_keeps h part
  | .waitingRunStart part => execWaitingRunStart_keeps h part
  | .kvPageReclaim part frame => execKvPageReclaim_keeps h part frame
  | .cowCopyDone part => execCowCopyDone_keeps h part
  | .kvPoolBaleReturn part frame => execKvPoolBaleReturn_keeps h part frame
  | .hbmSlot chan pc slot errors => execHbmSlot_keeps h chan pc slot errors
  | .refreshSlot stack temp => execRefreshSlot_keeps h stack temp
  | .retrainWindow chan ok failedPins => execRetrainWindow_keeps h chan ok failedPins
  | .promotionDone tensor bale => execPromotionDone_keeps h tensor bale
  | .promotionFail tensor bale => execPromotionFail_keeps h tensor bale
  | .writeBackDone tensor bale => execWriteBackDone_keeps h tensor bale
  | .writeBackFail tensor bale => execWriteBackFail_keeps h tensor bale
  | .frameZeroDone frame => execFrameZeroDone_keeps h frame
  | .chunkArrive tensor shard chunk data => execChunkArrive_keeps h tensor shard chunk data
  | .rdmaRemoteAccessError tensor shard => execRdmaRemoteAccessError_keeps h tensor shard
  | .replicaTimeout tensor shard => execReplicaTimeout_keeps h tensor shard
  | .t2Response tensor bale poison => execT2Response_keeps h tensor bale poison
  | .t2Timeout tensor bale => execT2Timeout_keeps h tensor bale
  | .hostDroverCompletion copy sectors failed => execHostDroverCompletion_keeps h copy sectors failed
  | .hostCompletionTimeout copy => execHostCompletionTimeout_keeps h copy
  | .hostSnoop line => execHostSnoop_keeps h line
  | .hdmRead offset caches => execHdmRead_keeps h offset caches
  | .hdmWrite offset data => execHdmWrite_keeps h offset data
  | .linkTrained mode width => execLinkTrained_keeps h mode width
  | .linkDetectRetry => execLinkDetectRetry_keeps h
  | .linkDown => execLinkDown_keeps h
  | .functionLevelReset func => execFunctionLevelReset_keeps h func
  | .hotReset => execHotReset_keeps h
  | .perstAssert => execPerstAssert_keeps h
  | .doeRequest kind body => execDoeRequest_keeps h kind body
  | .codecFrameDone pipe r => execCodecFrameDone_keeps h pipe r
  | .codecWatchdog pipe => execCodecWatchdog_keeps h pipe
  | .syncWaitTimeout func mbx => execSyncWaitTimeout_keeps h func mbx
  | .tallyLocked stepNs phase => execTallyLocked_keeps h stepNs phase
  | .tallyUnlock phase => execTallyUnlock_keeps h phase
  | .tallySourceLost => execTallySourceLost_keeps h
  | .tallySourceReturn phase => execTallySourceReturn_keeps h phase
  | .holdoverExpired => execHoldoverExpired_keeps h
  | .tallyLostRunEnd => execTallyLostRunEnd_keeps h
  | .tallyCode code phase => execTallyCode_keeps h code phase
  | .tallyInLoss => execTallyInLoss_keeps h
  | .ptpMessage gate msg => execPtpMessage_keeps h gate msg
  | .setTimeApply => execSetTimeApply_keeps h
  | .idleWordSend gate => execIdleWordSend_keeps h gate
  | .idleWordReceive gate w arrivalNs => execIdleWordReceive_keeps h gate w arrivalNs
  | .cellArrive gate header payload crc => execCellArrive_keeps h gate header payload crc
  | .cellLeave gate => execCellLeave_keeps h gate
  | .sendAttempt part instr attempt => execSendAttempt_keeps h part instr attempt
  | .gateDown gate => execGateDown_keeps h gate
  | .gateTrainStart gate => execGateTrainStart_keeps h gate
  | .gateTrained gate peer peerGate hop delay => execGateTrained_keeps h gate peer peerGate hop delay
  | .gateTrainTimeout gate => execGateTrainTimeout_keeps h gate
  | .fabricCopyTimeout copy => execFabricCopyTimeout_keeps h copy
  | .arpNdRequest gate addr => execArpNdRequest_keeps h gate addr
  | .roceInboundRequest gate qpn => execRoceInboundRequest_keeps h gate qpn
  | .cnpReceive gate => execCnpReceive_keeps h gate
  | .ecnRateRestore gate => execEcnRateRestore_keeps h gate
  | .powerOn => execPowerOn_keeps h
  | .pwrEnLow => execPwrEnLow_keeps h
  | .supplySample millivolt tenMilliamp => execSupplySample_keeps h millivolt tenMilliamp
  | .holdUp => execHoldUp_keeps h
  | .powerOver => execPowerOver_keeps h
  | .thermalSample sensor temp => execThermalSample_keeps h sensor temp
  | .thermalWarning => execThermalWarning_keeps h
  | .thermalQuiesce => execThermalQuiesce_keeps h
  | .thermalClear => execThermalClear_keeps h
  | .firmwareVerify => execFirmwareVerify_keeps h
  | .hbmTrainingDone failed errors => execHbmTrainingDone_keeps h failed errors
  | .hbmWipeDone => execHbmWipeDone_keeps h
  | .startupReady failed => execStartupReady_keeps h failed
  | .bootTimerExpired => execBootTimerExpired_keeps h
  | .drbgReseed => execDrbgReseed_keeps h
  | .entropyFail => execEntropyFail_keeps h
  | .spdmRequest mctp code body => execSpdmRequest_keeps h mctp code body
  | .pldmRequestUpdate => execPldmRequestUpdate_keeps h
  | .pldmUpdateComponent image => execPldmUpdateComponent_keeps h image
  | .pldmActivateFirmware => execPldmActivateFirmware_keeps h
  | .pldmSensorRefresh => execPldmSensorRefresh_keeps h
  | .jtagInstruction ir => execJtagInstruction_keeps h ir
  | .perstDeassert => execPerstDeassert_keeps h
  | .backInvalidateResponse line => execBackInvalidateResponse_keeps h line
  | .pfcPauseFrame gate priority pause => execPfcPauseFrame_keeps h gate priority pause
  | .mctpEndpointIdAssign eid => execMctpEndpointIdAssign_keeps h eid
  | .pldmEventEnable on => execPldmEventEnable_keeps h on

/-! ## Sound states -/

theorem Keeps.sound {s t : State} (k : Keeps s t) (h : State.Sound s) : State.Sound t where
  mode := k.mode h.mode
  rested := by
    have hl : s.clock.lead = 0 := by simpa [State.rested] using h.rested
    simp [State.rested, k.lead hl]
  t1 := k.t1 h.t1 h.t2
  t2 := k.t2 h.t1 h.t2
  queue := by
    have hq := h.queue
    rwa [State.queueWf, ← k.pending] at hq

/-- Taking the command at the front of the queue leaves a sound state. -/
theorem State.Sound.popped {s : State} {c : Instr} {rest : List Instr} (h : State.Sound s) (hp : s.pending = c :: rest) :
    State.Sound { s with pending := rest } where
  mode := h.mode
  rested := h.rested
  t1 := h.t1
  t2 := h.t2
  queue := by
    have hq := h.queue
    simp only [State.queueWf, hp, List.all_cons, Bool.and_eq_true] at hq
    exact hq.2

theorem step_nil {s : State} (h : s.pending = []) : step s = .next s := by simp [step, h]

theorem step_cons {s : State} {c : Instr} {rest : List Instr} (h : s.pending = c :: rest) :
    step s = exec c { s with pending := rest } := by simp [step, h]

/-- Settles O4: an empty queue changes nothing, and the command at the front keeps what soundness asks for. -/
theorem stepKeepsSound : Obligations.StepKeepsSound := by
  unfold Obligations.StepKeepsSound
  intro s t hs ht
  cases hp : s.pending with
  | nil =>
    rw [step_nil hp] at ht
    cases ht
    exact hs
  | cons c rest =>
    rw [step_cons hp] at ht
    exact (exec_keeps (Keeps.refl _) c t ht).sound (hs.popped hp)

/-! ## The reset state -/

/-- Settles O1: one partition, no command half done, both memories and the queue empty. -/
theorem resetSound : Obligations.ResetSound where
  mode := rfl
  rested := rfl
  t1 := nil_wf
  t2 := nil_wf
  queue := rfl

/-- FLOOR after reset: the card's 400 W and 2 W for each of its 16 gates (R438). -/
theorem floorWatts_reset : floorWatts State.reset = 432 := by decide

/-- Settles O2, register by register; the tables of the reset state list nothing, so every entry reads its reset value. -/
theorem resetValues : Obligations.ResetValues := by
  unfold Obligations.ResetValues
  refine ⟨rfl, rfl, rfl, ?parts, ?pens, fun _ _ => rfl, fun _ _ => ⟨rfl, rfl⟩, fun _ _ _ _ => ⟨rfl, rfl⟩, rfl, rfl, rfl, rfl⟩
  case parts =>
    intro k hk
    obtain rfl : k = 0 := Nat.lt_one_iff.1 hk
    exact ⟨by rw [floorWatts_reset]; rfl, rfl, rfl, rfl, rfl⟩
  case pens => exact fun _ _ => ⟨rfl, rfl, rfl, rfl, rfl⟩

end Sys2Proof.Machine
end

section
/-! PROOFS. What the shared operations of the Fold leave alone: folds over lists, the clock, events and records, the settling of
contexts, the quiescing of a partition and a slip (R71 to R74, R366, R384, R424). -/

namespace Sys2Proof.Machine

/-! ## Folds over lists -/

@[simp] theorem forAll_nil {α σ : Type} (f : α → σ → σ) (s : σ) : forAll [] f s = s := rfl

@[simp] theorem forAll_cons {α σ : Type} (a : α) (l : List α) (f : α → σ → σ) (s : σ) :
    forAll (a :: l) f s = forAll l f (f a s) := rfl

/-- What every change of a fold keeps, the fold keeps. -/
theorem forAll_induct {α σ : Type} {P : σ → Prop} {f : α → σ → σ} (hf : ∀ a u, P u → P (f a u)) (l : List α) {s : σ} (h : P s) :
    P (forAll l f s) := by
  induction l generalizing s with
  | nil => exact h
  | cons a l ih => exact ih (hf a s h)

/-- A value that no change of a fold touches. -/
theorem forAll_fixed {α σ β : Type} (π : σ → β) {f : α → σ → σ} (hf : ∀ a u, π (f a u) = π u) (l : List α) (s : σ) :
    π (forAll l f s) = π s :=
  forAll_induct (P := fun u => π u = π s) (fun a u h => (hf a u).trans h) l rfl

section
variable {α : Type} (g : α → Nat) (f : α → Pen → Pen)

/-- A fold over pens changes no other table. -/
theorem forAll_updPen_same (l : List α) (s : State) : ∃ p, forAll l (fun a => updPen (g a) (f a)) s = { s with pens := p } :=
  forAll_induct (P := fun u => ∃ p, u = { s with pens := p }) (fun _ _ ⟨_, h⟩ => ⟨_, by rw [h]; rfl⟩) l ⟨s.pens, rfl⟩

/-- A pen that a fold does not name. -/
theorem pen_forAll_of_not_mem {l : List α} {i : Nat} (h : i ∉ l.map g) (s : State) :
    (forAll l (fun a => updPen (g a) (f a)) s).pen i = s.pen i := by
  induction l generalizing s with
  | nil => rfl
  | cons a l ih =>
    obtain ⟨ha, hl⟩ : ¬i = g a ∧ i ∉ l.map g := by simpa using h
    rw [forAll_cons, ih hl, pen_updPen, if_neg ha]

/-- A pen that a fold names once. -/
theorem pen_forAll_of_mem {l : List α} (hd : (l.map g).Nodup) {a : α} (h : a ∈ l) (s : State) :
    (forAll l (fun a => updPen (g a) (f a)) s).pen (g a) = f a (s.pen (g a)) := by
  induction l generalizing s with
  | nil => cases h
  | cons b l ih =>
    obtain ⟨hb, hl⟩ := List.nodup_cons.1 hd
    rw [forAll_cons]
    rcases List.mem_cons.1 h with rfl | h
    · rw [pen_forAll_of_not_mem g f hb, pen_updPen_same]
    · rw [ih hl h, pen_updPen, if_neg fun e => hb (by rw [← e]; exact List.mem_map_of_mem h)]

/-- What every change keeps of a pen, a fold keeps of every pen. -/
theorem pen_forAll_fixed {β : Type} (π : Pen → β) (h : ∀ a q, π (f a q) = π q) (l : List α) (s : State) (i : Nat) :
    π ((forAll l (fun a => updPen (g a) (f a)) s).pen i) = π (s.pen i) :=
  forAll_fixed (fun u : State => π (u.pen i)) (fun a u => by
    rw [pen_updPen]
    split
    · rename_i e; rw [h, e]
    · rfl) l s

/-- What every change keeps true of a pen, a fold keeps true of every pen. -/
theorem pen_forAll_induct {P : Pen → Prop} (h : ∀ a q, P q → P (f a q)) (l : List α) {s : State} {i : Nat} (hs : P (s.pen i)) :
    P ((forAll l (fun a => updPen (g a) (f a)) s).pen i) :=
  forAll_induct (P := fun u : State => P (u.pen i)) (fun a u hu => by
    rw [pen_updPen]
    split
    · rename_i e; exact h a _ (e ▸ hu)
    · exact hu) l hs

end

/-! ## The clock -/

/-- Moving to an ac changes the clock alone. -/
theorem moveTo_same (n : Nat) (s : State) : ∃ c, moveTo n s = { s with clock := c } := by
  unfold moveTo
  split
  · exact ⟨_, rfl⟩
  · exact ⟨_, rfl⟩

@[simp] theorem moveTo_pens (n : Nat) (s : State) : (moveTo n s).pens = s.pens := by obtain ⟨c, h⟩ := moveTo_same n s; rw [h]
@[simp] theorem moveTo_hbm (n : Nat) (s : State) : (moveTo n s).hbm = s.hbm := by obtain ⟨c, h⟩ := moveTo_same n s; rw [h]
@[simp] theorem moveTo_place (n : Nat) (s : State) : (moveTo n s).place = s.place := by obtain ⟨c, h⟩ := moveTo_same n s; rw [h]
@[simp] theorem moveTo_host (n : Nat) (s : State) : (moveTo n s).host = s.host := by obtain ⟨c, h⟩ := moveTo_same n s; rw [h]
@[simp] theorem moveTo_ctxs (n : Nat) (s : State) : (moveTo n s).ctxs = s.ctxs := by obtain ⟨c, h⟩ := moveTo_same n s; rw [h]
@[simp] theorem moveTo_recov (n : Nat) (s : State) : (moveTo n s).recov = s.recov := by obtain ⟨c, h⟩ := moveTo_same n s; rw [h]
@[simp] theorem moveTo_mode (n : Nat) (s : State) : (moveTo n s).mode = s.mode := by obtain ⟨c, h⟩ := moveTo_same n s; rw [h]
@[simp] theorem pen_moveTo (n : Nat) (s : State) (i : Nat) : (moveTo n s).pen i = s.pen i := by
  obtain ⟨c, h⟩ := moveTo_same n s; rw [h]; rfl
@[simp] theorem part_moveTo (n : Nat) (s : State) (k : Nat) : (moveTo n s).part k = s.part k := by
  obtain ⟨c, h⟩ := moveTo_same n s; rw [h]; rfl
@[simp] theorem drover_moveTo (n : Nat) (s : State) (d : Nat) : (moveTo n s).drover d = s.drover d := by
  obtain ⟨c, h⟩ := moveTo_same n s; rw [h]; rfl

/-! ## The running RUN of a partition -/

theorem part_updRun (k : Nat) (f : Run → Run) (s : State) (j : Nat) :
    (updRun k f s).part j = if j = k then { s.part k with run := (s.part k).run.map f } else s.part j := part_updPart _ _ _ _

@[simp] theorem part_updRun_same (k : Nat) (f : Run → Run) (s : State) :
    (updRun k f s).part k = { s.part k with run := (s.part k).run.map f } := part_updPart_same _ _ _

theorem part_updRun_some {k : Nat} {s : State} {r : Run} (h : (s.part k).run = some r) (f : Run → Run) :
    (updRun k f s).part k = { s.part k with run := some (f r) } := by rw [part_updRun_same, h, Option.map_some]

/-! ## Events and records -/

/-- t differs from s in what the shepherd tells alone: events with their vectors, daybook records, and what is sent. -/
structure Told (s t : State) : Prop where
  same : t = { s with host := t.host, recov := t.recov, out := t.out }
  host : t.host = { s.host with funcs := t.host.funcs }
  recov : t.recov = { s.recov with daybook := t.recov.daybook }
  mbx : ∀ f m, t.mbx f m = s.mbx f m
  out : ∀ o ∈ s.out, o ∈ t.out

namespace Told

theorem refl (s : State) : Told s s := ⟨rfl, rfl, rfl, fun _ _ => rfl, fun _ h => h⟩

theorem trans {s t u : State} (h : Told s t) (k : Told t u) : Told s u where
  same := by
    have e := k.same
    rwa [h.same] at e
  host := by
    have e := k.host
    rwa [h.host] at e
  recov := by
    have e := k.recov
    rwa [h.recov] at e
  mbx := fun f m => (k.mbx f m).trans (h.mbx f m)
  out := fun o ho => k.out o (h.out o ho)

variable {s t : State} (h : Told s t)
include h

theorem part (k : Nat) : t.part k = s.part k := by rw [h.same]; rfl
theorem pen (i : Nat) : t.pen i = s.pen i := by rw [h.same]; rfl
theorem pens : t.pens = s.pens := by rw [h.same]
theorem drover (d : Nat) : t.drover d = s.drover d := by rw [h.same]; rfl
theorem hbm : t.hbm = s.hbm := by rw [h.same]
theorem place : t.place = s.place := by rw [h.same]
theorem ctxs : t.ctxs = s.ctxs := by rw [h.same]
theorem progs : t.host.progs = s.host.progs := by rw [h.host]
theorem copies : t.host.copies = s.host.copies := by rw [h.host]
theorem steps : t.recov.steps = s.recov.steps := by rw [h.recov]

end Told

/-- A change of a function's record other than its mailboxes. -/
theorem told_updFunc (f : Nat) (g : Func → Func) (hg : ∀ u, (g u).mailboxes = u.mailboxes) (s : State) : Told s (updFunc f g s) where
  same := rfl
  host := rfl
  recov := rfl
  mbx := fun j m => by
    unfold State.mbx
    rw [func_updFunc]
    split
    · rename_i e; rw [hg, e]
    · rfl
  out := fun _ h => h

theorem told_emit (o : Output) (s : State) : Told s (emit o s) :=
  ⟨rfl, rfl, rfl, fun _ _ => rfl, fun _ h => List.mem_cons_of_mem _ h⟩

theorem told_sendVector (f v : Nat) (s : State) : Told s (sendVector f v s) := by
  unfold sendVector
  split
  · exact told_emit _ _
  · exact told_updFunc _ _ (by intro _; rfl) _

theorem told_setEvent (f b : Nat) (s : State) : Told s (setEvent f b s) := by
  unfold setEvent
  split
  · exact Told.refl s
  · exact (told_updFunc f _ (by intro _; rfl) s).trans (told_sendVector _ _ _)

theorem told_partEvent (k b : Nat) (s : State) : Told s (partEvent k b s) :=
  (told_setEvent 0 b s).trans (told_setEvent (k + 1) b _)

/-- A change of the daybook. -/
theorem told_updRecov (g : Recovery → Recovery) (hg : ∀ v, g v = { v with daybook := (g v).daybook }) (s : State) :
    Told s (updRecov g s) := ⟨rfl, rfl, hg _, fun _ _ => rfl, fun _ h => h⟩

theorem told_daybook (a b c d : Nat) (l : List Byte) (s : State) : Told s (daybook a b c d l s) := by
  unfold daybook
  split
  · exact told_updRecov _ (by intro _; rfl) s
  · split
    · exact (told_updRecov _ (by intro _; rfl) s).trans (told_setEvent _ _ _)
    · exact told_updRecov _ (by intro _; rfl) s

/-! ## The settling of contexts (R384, R388) -/

/-- t differs from s in its contexts and in the reside queues of its partitions alone. -/
structure Resettled (s t : State) : Prop where
  same : t = { s with ctxs := t.ctxs, parts := t.parts }
  queues : ∀ k, t.part k = { s.part k with resides := (t.part k).resides }

theorem Resettled.trans {s t u : State} (h : Resettled s t) (k : Resettled t u) : Resettled s u where
  same := by
    have e := k.same
    rwa [h.same] at e
  queues := fun i => by
    have e := k.queues i
    rwa [h.queues i] at e

theorem resettled_updCtx (h : Nat) (f : Ctx → Ctx) (s : State) : Resettled s (updCtx h f s) := ⟨rfl, fun _ => rfl⟩

theorem resettled_enterReside (k h p n : Nat) (s : State) : Resettled s (enterReside k h p n s) where
  same := rfl
  queues := fun i => by
    unfold enterReside
    rw [part_updPart]
    split
    · rename_i e; rw [e]; rfl
    · rfl

theorem resettled_settleContexts (s0 s : State) : Resettled s (settleContexts s0 s) := by
  have hrefl : Resettled s s := ⟨rfl, fun _ => rfl⟩
  refine forAll_induct (P := Resettled s) (fun c t ht => ?_) s.ctxs hrefl
  split
  · exact ht
  · extract_lets was is t1 t2
    have h1 : Resettled s t1 := by
      unfold t1; split
      · exact ht.trans (resettled_updCtx _ _ _)
      · exact ht
    have h2 : Resettled s t2 := by
      unfold t2; split
      · exact (h1.trans (resettled_updCtx _ _ _)).trans (resettled_enterReside _ _ _ _ _)
      · exact h1
    split
    · split
      · exact h2.trans (resettled_updCtx _ _ _)
      · exact h2
    · exact h2

theorem settled_resettled (f : State → State) (s : State) : Resettled (f s) (settled f s) := resettled_settleContexts _ _

section
variable (f : State → State) (s : State)

@[simp] theorem settled_pens : (settled f s).pens = (f s).pens := by rw [(settled_resettled f s).same]
@[simp] theorem settled_hbm : (settled f s).hbm = (f s).hbm := by rw [(settled_resettled f s).same]
@[simp] theorem settled_place : (settled f s).place = (f s).place := by rw [(settled_resettled f s).same]
@[simp] theorem settled_host : (settled f s).host = (f s).host := by rw [(settled_resettled f s).same]
@[simp] theorem settled_out : (settled f s).out = (f s).out := by rw [(settled_resettled f s).same]
@[simp] theorem settled_pen (i : Nat) : (settled f s).pen i = (f s).pen i := by rw [(settled_resettled f s).same]; rfl
@[simp] theorem settled_mbx (i m : Nat) : (settled f s).mbx i m = (f s).mbx i m := by rw [(settled_resettled f s).same]; rfl
@[simp] theorem settled_run (k : Nat) : ((settled f s).part k).run = ((f s).part k).run := by
  rw [(settled_resettled f s).queues]
@[simp] theorem settled_waiting (k : Nat) : ((settled f s).part k).waiting = ((f s).part k).waiting := by
  rw [(settled_resettled f s).queues]
@[simp] theorem settled_st (k : Nat) : ((settled f s).part k).st = ((f s).part k).st := by
  rw [(settled_resettled f s).queues]
@[simp] theorem settled_cause (k : Nat) : ((settled f s).part k).cause = ((f s).part k).cause := by
  rw [(settled_resettled f s).queues]
@[simp] theorem settled_slips (k : Nat) : ((settled f s).part k).slips = ((f s).part k).slips := by
  rw [(settled_resettled f s).queues]
@[simp] theorem settled_retry (k : Nat) : ((settled f s).part k).retry = ((f s).part k).retry := by
  rw [(settled_resettled f s).queues]
@[simp] theorem settled_lag (k : Nat) : ((settled f s).part k).lag = ((f s).part k).lag := by
  rw [(settled_resettled f s).queues]
@[simp] theorem settled_sync (k : Nat) : ((settled f s).part k).sync = ((f s).part k).sync := by
  rw [(settled_resettled f s).queues]

end

/-- A slip stays one when the contexts settle. -/
theorem Slipped.settled {k c : Nat} {f : State → State} {s u : State} (h : Slipped k c u (f s)) : Slipped k c u (settled f s) where
  st := by rw [settled_st]; exact h.st
  why := by rw [settled_cause]; exact h.why
  again := by rw [settled_slips, settled_retry]; exact h.again
  third := by rw [settled_retry, settled_run]; exact h.third
  steps := by rw [settled_run]; exact h.steps

end Sys2Proof.Machine
end

section
/-! PROOFS. How a partition stops: quiescing, a slip and the end of a RUN for good (R71 to R74), with what they leave alone. -/

namespace Sys2Proof.Machine

/-! ## Drovers, gates and requests -/

/-- A fold over drovers changes no other table. -/
theorem forAll_updDrover_same (f : Nat → Drover → Drover) (l : List Nat) (s : State) :
    ∃ d, forAll l (fun d => updDrover d (f d)) s = { s with drovers := d } :=
  forAll_induct (P := fun u => ∃ d, u = { s with drovers := d }) (fun _ _ ⟨_, h⟩ => ⟨_, by rw [h]; rfl⟩) l ⟨s.drovers, rfl⟩

/-- What every change keeps of a drover, a fold keeps of every drover. -/
theorem drover_forAll_fixed {β : Type} (π : Drover → β) {f : Nat → Drover → Drover} (h : ∀ d v, π (f d v) = π v) (l : List Nat)
    (s : State) (i : Nat) : π ((forAll l (fun d => updDrover d (f d)) s).drover i) = π (s.drover i) :=
  forAll_fixed (fun u : State => π (u.drover i)) (fun d u => by
    rw [drover_updDrover]
    split
    · rename_i e; rw [h, e]
    · rfl) l s

/-- A fold over gates changes no other table. -/
theorem forAll_updGate_same {α : Type} (g : α → Nat) (f : α → Gate → Gate) (l : List α) (s : State) :
    ∃ b, forAll l (fun a => updGate (g a) (f a)) s = { s with fabric := b } :=
  forAll_induct (P := fun u => ∃ b, u = { s with fabric := b }) (fun _ _ ⟨_, h⟩ => ⟨_, by rw [h]; rfl⟩) l ⟨s.fabric, rfl⟩

/-- Showing the open work leaves the flags of a drover. -/
theorem showWork_flags (v : Drover) : (showWork v).poison = v.poison ∧ (showWork v).late = v.late := by
  unfold showWork
  split <;> exact ⟨rfl, rfl⟩

theorem setDrover_flags (r : Run) (d : Nat) (v : Drover) : (setDrover r d v).poison = v.poison ∧ (setDrover r d v).late = v.late :=
  showWork_flags _

/-- Bringing the drovers in step with the RUN changes the drovers alone. -/
theorem syncDrovers_same (k : Nat) (s : State) : ∃ d, syncDrovers k s = { s with drovers := d } := by
  unfold syncDrovers
  split
  · exact ⟨s.drovers, rfl⟩
  · exact forAll_updDrover_same _ _ _

theorem drover_syncDrovers (k : Nat) (s : State) (d : Nat) :
    ((syncDrovers k s).drover d).poison = (s.drover d).poison ∧ ((syncDrovers k s).drover d).late = (s.drover d).late := by
  unfold syncDrovers
  split
  · exact ⟨rfl, rfl⟩
  · exact ⟨drover_forAll_fixed (·.poison) (fun _ _ => (setDrover_flags _ _ _).1) _ _ _,
      drover_forAll_fixed (·.late) (fun _ _ => (setDrover_flags _ _ _).2) _ _ _⟩

@[simp] theorem syncDrovers_hbm (k : Nat) (s : State) : (syncDrovers k s).hbm = s.hbm := by
  obtain ⟨d, h⟩ := syncDrovers_same k s; rw [h]
@[simp] theorem syncDrovers_place (k : Nat) (s : State) : (syncDrovers k s).place = s.place := by
  obtain ⟨d, h⟩ := syncDrovers_same k s; rw [h]
@[simp] theorem syncDrovers_host (k : Nat) (s : State) : (syncDrovers k s).host = s.host := by
  obtain ⟨d, h⟩ := syncDrovers_same k s; rw [h]
@[simp] theorem syncDrovers_ctxs (k : Nat) (s : State) : (syncDrovers k s).ctxs = s.ctxs := by
  obtain ⟨d, h⟩ := syncDrovers_same k s; rw [h]
@[simp] theorem syncDrovers_pens (k : Nat) (s : State) : (syncDrovers k s).pens = s.pens := by
  obtain ⟨d, h⟩ := syncDrovers_same k s; rw [h]
@[simp] theorem syncDrovers_recov (k : Nat) (s : State) : (syncDrovers k s).recov = s.recov := by
  obtain ⟨d, h⟩ := syncDrovers_same k s; rw [h]
@[simp] theorem pen_syncDrovers (k : Nat) (s : State) (i : Nat) : (syncDrovers k s).pen i = s.pen i := by
  obtain ⟨d, h⟩ := syncDrovers_same k s; rw [h]; rfl
@[simp] theorem part_syncDrovers (k : Nat) (s : State) (i : Nat) : (syncDrovers k s).part i = s.part i := by
  obtain ⟨d, h⟩ := syncDrovers_same k s; rw [h]; rfl

/-! ## What a stop leaves alone -/

/-- What stops of partition k leave alone: bytes, placement and contexts, the other partitions, the flags of pens and drovers; and no
slot of a pen comes into use. -/
structure Stops (k : Nat) (s t : State) : Prop where
  place : t.place = s.place
  ctxs : t.ctxs = s.ctxs
  t1 : t.hbm.t1 = s.hbm.t1
  t2 : t.hbm.t2 = s.hbm.t2
  others : ∀ i, i ≠ k → t.part i = s.part i
  drover : ∀ d, (t.drover d).poison = (s.drover d).poison ∧ (t.drover d).late = (s.drover d).late
  pen : ∀ i, (t.pen i).late = (s.pen i).late ∧ (t.pen i).haz = (s.pen i).haz
  slot : ∀ i j, (∀ e ∈ (s.pen i).slots, e.1 ≠ j) → ∀ e ∈ (t.pen i).slots, e.1 ≠ j

theorem Stops.trans {k : Nat} {s t u : State} (h : Stops k s t) (g : Stops k t u) : Stops k s u where
  place := g.place.trans h.place
  ctxs := g.ctxs.trans h.ctxs
  t1 := g.t1.trans h.t1
  t2 := g.t2.trans h.t2
  others := fun i hi => (g.others i hi).trans (h.others i hi)
  drover := fun d => ⟨(g.drover d).1.trans (h.drover d).1, (g.drover d).2.trans (h.drover d).2⟩
  pen := fun i => ⟨(g.pen i).1.trans (h.pen i).1, (g.pen i).2.trans (h.pen i).2⟩
  slot := fun i j hj => g.slot i j (h.slot i j hj)

theorem Told.stops {k : Nat} {s t : State} (h : Told s t) : Stops k s t where
  place := h.place
  ctxs := h.ctxs
  t1 := by rw [h.hbm]
  t2 := by rw [h.hbm]
  others := fun i _ => h.part i
  drover := fun d => by simp [h.drover]
  pen := fun i => by simp [h.pen]
  slot := fun i j hj => by rw [h.pen]; exact hj

theorem stops_updPart (k : Nat) (f : Part → Part) (s : State) : Stops k s (updPart k f s) :=
  ⟨rfl, rfl, rfl, rfl, fun i hi => by rw [part_updPart, if_neg hi], fun _ => ⟨rfl, rfl⟩, fun _ => ⟨rfl, rfl⟩, fun _ _ h => h⟩

/-- The slots that a pen keeps when its steps are discarded are among those it had. -/
theorem discardPen_slots (r : Run) (q : Pen) (j : Nat) (h : ∀ e ∈ q.slots, e.1 ≠ j) : ∀ e ∈ (discardPen r q).slots, e.1 ≠ j := by
  intro e he
  obtain ⟨e', h', rfl⟩ := List.mem_map.1 (List.mem_of_mem_filter he)
  exact h e' h'

theorem stops_discard (k : Nat) (r : Run) (l : List Nat) (s : State) :
    Stops k s (forAll l (fun p => updPen p fun q => dropWindows (discardPen r q)) s) := by
  have hl := pen_forAll_fixed (fun p : Nat => p) (fun _ q => dropWindows (discardPen r q)) (·.late) (fun _ _ => rfl) l s
  have hh := pen_forAll_fixed (fun p : Nat => p) (fun _ q => dropWindows (discardPen r q)) (·.haz) (fun _ _ => rfl) l s
  have hs := fun i j => pen_forAll_induct (fun p : Nat => p) (fun _ q => dropWindows (discardPen r q))
    (P := fun q => ∀ e ∈ q.slots, e.1 ≠ j) (fun _ q => discardPen_slots r q j) l (s := s) (i := i)
  obtain ⟨p, hp⟩ := forAll_updPen_same (fun p : Nat => p) (fun _ q => dropWindows (discardPen r q)) l s
  rw [hp] at hl hh hs ⊢
  exact ⟨rfl, rfl, rfl, rfl, fun _ _ => rfl, fun _ => ⟨rfl, rfl⟩, fun i => ⟨hl i, hh i⟩, hs⟩

theorem stops_gates {k : Nat} (f : Gate → Gate) (l : List Nat) (s : State) : Stops k s (forAll l (fun g => updGate g f) s) := by
  obtain ⟨b, hb⟩ := forAll_updGate_same (fun g : Nat => g) (fun _ => f) l s
  rw [hb]
  exact ⟨rfl, rfl, rfl, rfl, fun _ _ => rfl, fun _ => ⟨rfl, rfl⟩, fun _ => ⟨rfl, rfl⟩, fun _ _ h => h⟩

theorem stops_syncDrovers {k : Nat} (i : Nat) (s : State) : Stops k s (syncDrovers i s) :=
  ⟨by simp, by simp, by simp, by simp, fun _ _ => by simp, drover_syncDrovers i s, fun _ => by simp, fun _ _ h => by simpa using h⟩

theorem stops_dropReqs {k : Nat} (i : Nat) (f : LotRef → Bool) (s : State) : Stops k s (dropReqs i f s) :=
  ⟨rfl, rfl, rfl, rfl, fun _ _ => rfl, fun _ => ⟨rfl, rfl⟩, fun _ => ⟨rfl, rfl⟩, fun _ _ h => h⟩

/-! ## Quiescing -/

theorem part_forAll_updPen {α : Type} (g : α → Nat) (f : α → Pen → Pen) (l : List α) (s : State) (k : Nat) :
    (forAll l (fun a => updPen (g a) (f a)) s).part k = s.part k := by
  obtain ⟨p, h⟩ := forAll_updPen_same g f l s; rw [h]; rfl

theorem part_forAll_updGate {α : Type} (g : α → Nat) (f : α → Gate → Gate) (l : List α) (s : State) (k : Nat) :
    (forAll l (fun a => updGate (g a) (f a)) s).part k = s.part k := by
  obtain ⟨b, h⟩ := forAll_updGate_same g f l s; rw [h]; rfl

@[simp] theorem part_dropReqs (i : Nat) (f : LotRef → Bool) (s : State) (k : Nat) : (dropReqs i f s).part k = s.part k := rfl

/-- A partition without its uncommitted steps (R72). -/
def quietPart (retry : Bool) (beat : Nat) (r : Run) (q : Part) : Part :=
  { q with st := .quiesced, retry := retry, quiescedAt := beat, announced := 0, run := some (discardSteps r) }

section
variable {k : Nat} {s : State} {r : Run} (hr : (s.part k).run = some r)
include hr

theorem quiesce_stops (b : Bool) : Stops k s (quiesce k b s) := by
  unfold quiesce
  rw [hr]
  exact (stops_discard k r _ s).trans <| (stops_updPart k _ _).trans <| (stops_gates _ _ _).trans <| (stops_syncDrovers k _).trans <|
    (stops_dropReqs k _ _).trans (told_partEvent _ _ _).stops

theorem part_quiesce (b : Bool) : (quiesce k b s).part k = quietPart b s.clock.beat r (s.part k) := by
  unfold quiesce
  rw [hr]
  dsimp only
  rw [(told_partEvent _ _ _).part, part_dropReqs, part_syncDrovers, part_forAll_updGate, part_updPart_same, part_forAll_updPen]
  rfl

/-- What stopping a RUN for good leaves in its partition (R72, R74). -/
theorem part_haltRun (e : Ending) :
    (haltRun k e s).part k = { quietPart false s.clock.beat r (s.part k) with run := some { discardSteps r with ending := some e } } := by
  rw [haltRun, endAtBoundary, part_updRun_same, part_quiesce hr]
  rfl

theorem haltRun_stops (e : Ending) : Stops k s (haltRun k e s) := (quiesce_stops hr false).trans (stops_updPart k _ _)

end

/-! ## Slips -/

/-- The ending of the third slip of a step (R74). -/
def slipEnding (c : Nat) (r : Run) : Ending := ⟨stSlip, c, 3, stepRefNum (currentStep r)⟩

section
variable {k : Nat} {u : State} {r : Run} (hr : (u.part k).run = some r) (hs : slips (u.part k) r = true)
include hr hs

/-- A slip quiesces the partition after the cause is set: with a retry and a count, or at the third slip for good (R71 to R74). -/
theorem slip_cases (c : Nat) : ∃ v, Stops k u v ∧ v.part k = { u.part k with cause := c } ∧ slip k c u =
    if (u.part k).slips < 2 then quiesce k true (updPart k (fun q => { q with slips := q.slips + 1 }) v)
    else haltRun k (slipEnding c r) v := by
  have told := told_daybook 0x0012 k noEngine r.ctx (leBytes 8 (stepRefNum (currentStep r)) ++ leBytes 1 c ++ leBytes 4 r.shift) u
  refine ⟨_, told.stops.trans (stops_updPart k (fun q => { q with cause := c }) _), by rw [part_updPart_same, told.part], ?_⟩
  unfold slip
  rw [hr]
  dsimp only
  rw [if_neg (by simp [hs])]
  rfl

theorem slip_stops (c : Nat) : Stops k u (slip k c u) := by
  obtain ⟨v, hv, hp, e⟩ := slip_cases hr hs c
  have hrun : (v.part k).run = some r := by rw [hp]; exact hr
  rw [e]
  split
  · exact hv.trans ((stops_updPart k _ _).trans (quiesce_stops (by rw [part_updPart_same]; exact hrun) true))
  · exact hv.trans (haltRun_stops hrun _)

/-- A partition whose RUN may slip slips (R71 to R74). -/
theorem slip_slipped {s : State} (c : Nat) (hn : (s.part k).slips = (u.part k).slips)
    (hc : ∀ q, (s.part k).run = some q → currentStep q = currentStep r) : Slipped k c s (slip k c u) := by
  obtain ⟨v, -, hp, e⟩ := slip_cases hr hs c
  have hrun : (v.part k).run = some r := by rw [hp]; exact hr
  rw [e]
  split
  case isTrue h =>
    have hq := part_quiesce (s := updPart k (fun q => { q with slips := q.slips + 1 }) v) (by rw [part_updPart_same]; exact hrun) true
    refine ⟨by rw [hq]; rfl, by rw [hq, part_updPart_same, hp]; rfl, fun _ => ?_, fun h2 => absurd (hn ▸ h) (by omega), fun q hq' => ?_⟩
    · rw [hq, part_updPart_same, hp, hn]
      exact ⟨rfl, rfl⟩
    · rw [hq] at hq'
      cases hq'
      exact ⟨rfl, rfl, rfl⟩
  case isFalse h =>
    have hq := part_haltRun hrun (slipEnding c r)
    refine ⟨by rw [hq]; rfl, by rw [hq, hp]; rfl, fun h2 => absurd (hn ▸ h2) h, fun _ => ?_, fun q hq' => ?_⟩
    · rw [hq]
      exact ⟨rfl, fun q hq' => ⟨_, rfl, by rw [hc q hq']; rfl⟩⟩
    · rw [hq] at hq'
      cases hq'
      exact ⟨rfl, rfl, rfl⟩

end

end Sys2Proof.Machine
end

section
/-! PROOFS. Late lots and anchored words that would be late (R34, R70, R71). -/

namespace Sys2Proof.Machine

/-! ## Late lots -/

/-- A lot is overdue only of a RUN whose partition may slip. -/
theorem slips_of_lotOverdue {s : State} {lot : LotRef} {e : Nat × Nat} (h : lotOverdue s lot = some e) :
    ∃ r, (s.part lot.part).run = some r ∧ slips (s.part lot.part) r = true := by
  simp only [lotOverdue, Option.bind_eq_some_iff] at h
  obtain ⟨r, hr, w, -, h⟩ := h
  refine ⟨r, hr, ?_⟩
  by_contra hs
  simp [hs] at h

/-- The state in which a late lot slips: LATE of its drover, and of the pen that a load or store drover serves (R34, log 58). -/
def markedLate (n d : Nat) (s : State) : State :=
  let t := updDrover d (fun v => { v with late := true }) (moveTo n s)
  if d < 128 then updPen (d % 64) (fun v => { v with late := true }) t else t

theorem part_markedLate (n d : Nat) (s : State) (k : Nat) : (markedLate n d s).part k = s.part k := by
  unfold markedLate
  dsimp only
  split <;> simp

theorem markedLate_memory (n d : Nat) (s : State) : (markedLate n d s).hbm = s.hbm ∧ (markedLate n d s).place = s.place := by
  unfold markedLate
  dsimp only
  split <;> simp

theorem drover_markedLate (n d : Nat) (s : State) : ((markedLate n d s).drover d).late = true := by
  unfold markedLate
  dsimp only
  split <;> simp

theorem pen_markedLate {n d : Nat} {s : State} (h : d < 128) : ((markedLate n d s).pen (d % 64)).late = true := by
  simp [markedLate, h]

theorem pen_markedLate_other {n d : Nat} {s : State} (h : 128 ≤ d) (p : Nat) : (markedLate n d s).pen p = s.pen p := by
  simp [markedLate, Nat.not_lt.2 h]

theorem exec_lotLate {s : State} {lot : LotRef} {n d : Nat} (h : lotOverdue s lot = some (n, d)) (hn : acCome n s = true) :
    exec (.lotLate lot) s = .next (slip lot.part slipLotLate (markedLate n d s)) := by
  change execLotLate lot s = _
  simp only [execLotLate, h, event, hn]
  rfl

/-! ## Anchored words -/

/-- An anchored word slips only where its partition may. -/
theorem slips_of_anchorSlip {s : State} {k op n : Nat} (h : anchorSlip s k op = some n) :
    ∃ r, (s.part k).run = some r ∧ slips (s.part k) r = true := by
  simp only [anchorSlip, Option.bind_eq_some_iff] at h
  obtain ⟨r, hr, e, -, h⟩ := h
  refine ⟨r, hr, ?_⟩
  by_contra hs
  simp [hs] at h

/-- Every tile command slips at the nominal ac of an anchored word that can no longer issue in it (R70, R71). -/
theorem exec_anchorSlip (s : State) (k n : Nat) (e : Ecc) (parity : Bool) :
    ∀ c ∈ [(Instr.mm k e, opMm), (.cv k e, opCv), (.cvDw k e, opDw), (.attn k e, opAt), (.rw k, opRw), (.mvLoad k, opLoad),
      (.mvStore k, opStore), (.mvWeight k, opWeight), (.mvSend k, opSend), (.mvRecv k, opRecv), (.syFold k, opFold),
      (.sySignal k, opSignal), (.syWait k, opWait), (.syWgrant k parity, opGrant), (.tl k, opTl)],
      anchorSlip s k c.2 = some n → exec c.1 s = .next (settled (slipAnchor k n) s) := by
  have slotted : ∀ name op, anchorSlip s k op = some n → issueSlotted name op k e s = .next (settled (slipAnchor k n) s) := by
    intro name op h; simp only [issueSlotted, h]
  have other : ∀ name op, anchorSlip s k op = some n → issueOther name op k s = .next (settled (slipAnchor k n) s) := by
    intro name op h; simp only [issueOther, h]
  have rw : anchorSlip s k opRw = some n → execRw k s = .next (settled (slipAnchor k n) s) := by
    intro h; simp only [execRw, h]
  have wait : anchorSlip s k opWait = some n → execSyWait k s = .next (settled (slipAnchor k n) s) := by
    intro h; simp only [execSyWait, h]
  have grant : anchorSlip s k opGrant = some n → execSyWgrant k parity s = .next (settled (slipAnchor k n) s) := by
    intro h; simp only [execSyWgrant, h]
  simp only [List.forall_mem_cons, List.not_mem_nil, IsEmpty.forall_iff, implies_true, and_true]
  exact ⟨slotted _ _, slotted _ _, slotted _ _, slotted _ _, rw, other _ _, other _ _, other _ _, other _ _, other _ _, other _ _,
    other _ _, wait, grant, other _ _⟩

/-- Settles O38: the LATE flags are set before the slip and outlive it; an anchored word slips whatever its command. -/
theorem lateLots : Obligations.LateLots := by
  unfold Obligations.LateLots
  refine ⟨?lots, ?anchors⟩
  case lots =>
    intro s lot n d h hn
    obtain ⟨r, hr, hs⟩ := slips_of_lotOverdue h
    have hp := part_markedLate n d s lot.part
    rw [← hp] at hr hs
    have st := slip_stops hr hs slipLotLate
    obtain ⟨hm, hpl⟩ := markedLate_memory n d s
    refine ⟨_, exec_lotLate h hn, ?_, ?_, fun hd => ?_, fun hd p => ?_, ?_, ?_, ?_⟩
    · rw [(st.drover d).2, drover_markedLate]
    · exact slip_slipped hr hs _ (by rw [hp]) (by rw [← hp, hr]; rintro q ⟨⟩; rfl)
    · rw [(st.pen _).1, pen_markedLate hd]
    · rw [(st.pen p).1, pen_markedLate_other hd]
    · rw [st.t1, hm]
    · rw [st.t2, hm]
    · rw [st.place, hpl]
  case anchors =>
    intro s k n e parity c hc h
    obtain ⟨r, hr, hs⟩ := slips_of_anchorSlip h
    rw [← part_moveTo n s k] at hr hs
    have st := slip_stops hr hs slipAnchorLate
    refine ⟨_, exec_anchorSlip s k n e parity c hc h, ?_, ?_, ?_, ?_⟩
    · exact Slipped.settled (f := slipAnchor k n) (slip_slipped hr hs slipAnchorLate (by simp) (by rw [← part_moveTo n s k, hr]; rintro q ⟨⟩; rfl))
    · rw [settled_hbm, slipAnchor, st.t1, moveTo_hbm]
    · rw [settled_hbm, slipAnchor, st.t2, moveTo_hbm]
    · rw [settled_place, slipAnchor, st.place, moveTo_place]

end Sys2Proof.Machine
end

section
/-! PROOFS. Gates in Ethernet mode (R42, R348, R349): ARP and ND, inbound requests, congestion and pauses. -/

namespace Sys2Proof.Machine

/-- Lists in ascending order hold what is inserted beside what they held. -/
theorem mem_insertSorted (n m : Nat) : ∀ l : List Nat, m ∈ insertSorted n l ↔ m = n ∨ m ∈ l
  | [] => by simp [insertSorted]
  | a :: t => by
    unfold insertSorted
    split
    · simp
    · split
      · rename_i h; subst h; simp
      · rw [List.mem_cons, mem_insertSorted n m t, List.mem_cons]
        tauto

section
variable {s : State} {g : Nat} (h : ethernetUp s g = true)
include h

theorem exec_arpNdRequest (a : Nat) :
    exec (.arpNdRequest g a) s = .next (if a ∈ gateAddrs s g then { s with out := .arp g a :: s.out } else s) := by
  change execArpNdRequest g a s = _
  simp only [execArpNdRequest, h, Bool.true_and, List.contains_iff_mem]
  rfl

theorem exec_roceInboundRequest (q : Nat) :
    exec (.roceInboundRequest g q) s = .next { s with out := .remoteAccessError g q :: s.out } := by
  change execRoceInboundRequest g q s = _
  rw [execRoceInboundRequest, if_pos h]
  rfl

theorem exec_cnpReceive :
    exec (.cnpReceive g) s = .next (updGate g (fun v => { v with rate := v.rate / 2, cnpAt := s.clock.elapsed }) s) := by
  change execCnpReceive g s = _
  rw [execCnpReceive, if_pos h]

theorem exec_ecnRateRestore (hr : (s.gate g).rate < 2 ^ 32) (hc : (s.gate g).cnpAt + 20 ≤ s.clock.elapsed) :
    exec (.ecnRateRestore g) s =
      .next (updGate g (fun v => { v with rate := min (2 ^ 32) (v.rate + 2 ^ 28), cnpAt := s.clock.elapsed }) s) := by
  have hd : restoresRate s g = true := by simp only [restoresRate, h, decide_eq_true hr, decide_eq_true hc]; rfl
  change execEcnRateRestore g s = _
  rw [execEcnRateRestore, event, if_pos hd]

theorem exec_pfcPauseFrame (n : Nat) (b : Bool) : exec (.pfcPauseFrame g n b) s = .next (updGate g (fun v =>
    { v with paused := if b then insertSorted n v.paused else v.paused.filter (· != n) }) s) := by
  change execPfcPauseFrame g n b s = _
  rw [execPfcPauseFrame, if_pos h]

end

/-- Settles O34, command by command: each changes what its own gate holds, or what is sent. -/
theorem storageEthernet : Obligations.StorageEthernet := by
  unfold Obligations.StorageEthernet
  intro s g h
  refine ⟨?own, ?foreign, fun q => exec_roceInboundRequest h q, ?cnp, ?restore, ?pause, ?resume⟩
  case own => intro a ha; rw [exec_arpNdRequest h, if_pos ha]
  case foreign => intro a ha; rw [exec_arpNdRequest h, if_neg ha]
  case cnp =>
    exact ⟨_, exec_cnpReceive h, by rw [gate_updGate_same], by rw [gate_updGate_same], fun j hj => by rw [gate_updGate, if_neg hj],
      rfl, rfl⟩
  case restore =>
    intro hr hc
    exact ⟨_, exec_ecnRateRestore h hr hc, by rw [gate_updGate_same], by rw [gate_updGate_same],
      fun j hj => by rw [gate_updGate, if_neg hj], rfl, rfl⟩
  case pause =>
    intro n
    refine ⟨_, exec_pfcPauseFrame h n true, ?_, fun m hm => ?_⟩ <;> rw [gate_updGate_same]
    · exact mem_insertSorted_self n _
    · exact (mem_insertSorted n m _).trans (or_iff_right hm)
  case resume =>
    intro n
    refine ⟨_, exec_pfcPauseFrame h n false, fun m => ?_⟩
    rw [gate_updGate_same]
    simp

end Sys2Proof.Machine
end

section
/-! PROOFS. RUN.SUBMIT of a program for another pen count, or of a fabric program while the tally is not LOCKED (R30, R53, R391). -/

namespace Sys2Proof.Machine

/-! ## Commands whose contexts settle with their completion -/

theorem settledCmd_resettled (f : State → State) (s : State) : Resettled (setLead 1 (f s)) (settleContexts s (setLead 1 (f s))) :=
  resettled_settleContexts _ _

section
variable (f : State → State) (s : State)

@[simp] theorem settledCmd_hbm : (settledCmd f s).hbm = (f s).hbm := by
  rw [settledCmd, setLead_hbm, (settledCmd_resettled f s).same]; rfl
@[simp] theorem settledCmd_place : (settledCmd f s).place = (f s).place := by
  rw [settledCmd, setLead_place, (settledCmd_resettled f s).same]; rfl
@[simp] theorem settledCmd_mbx (i m : Nat) : (settledCmd f s).mbx i m = (f s).mbx i m := by
  rw [settledCmd, mbx_setLead, (settledCmd_resettled f s).same]; rfl
@[simp] theorem settledCmd_runs (k : Nat) :
    ((settledCmd f s).part k).run = ((f s).part k).run ∧ ((settledCmd f s).part k).waiting = ((f s).part k).waiting := by
  rw [settledCmd, part_setLead, (settledCmd_resettled f s).queues]
  exact ⟨rfl, rfl⟩

end

/-- A completion is what its mailbox holds. -/
theorem Completed.of_mbx {p : Post} {st : Nat} {res : List Byte} {s t u : State} (h : Completed p st res s u)
    (e : t.mbx p.func p.mbx = u.mbx p.func p.mbx) : Completed p st res s t :=
  ⟨by rw [e, h.complete], by rw [e, h.rlen], by rw [e, h.data], by rw [e, h.sampled], by rw [e, h.done], by rw [e, h.idle]⟩

/-! ## The checks of RUN.SUBMIT -/

/-- The pen count and the tally unit are the first of the checks on the state (R30, R53). -/
theorem stateChecks_of_mismatch {s : State} {k : Nat} {p : Program}
    (h : p.penCount ≠ penCount s k ∨ (p.fabric = true ∧ s.tally.st ≠ .locked)) : stateChecks s k p = some ⟨stBadState, 0, 0⟩ := by
  have hb : (p.penCount != penCount s k || (p.fabric && s.tally.st != .locked)) = true := by
    rcases h with h | ⟨hf, ht⟩
    · simp [h]
    · simp [hf, ht]
  rw [stateChecks, hb]
  rfl

/-- A program that passes the static and the schedule checks, and fails one on the state, is not accepted (R143). -/
theorem checkProgram_of_state {s : State} {k va : Nat} {r : Run} {e : Failure} (h1 : staticChecks s k r.ctx r.batch r.prog = none)
    (h2 : scheduleChecks s k (withPages s k r) = none) (h3 : stateChecks s k r.prog = some e) :
    checkProgram k va r s = reject e.status e.whr e.index 0 s := by
  simp only [checkProgram, h1, h2, h3]
  rfl

/-- A submission that passes checks 2 to 5 of R391 and whose image loads is checked as a program. -/
theorem submitCtx_program {p : Post} {va beat : Nat} {batch : List BatchEntry} {c : Ctx} {prog : Program} {s : State}
    (hc : ctxCode s c = 1) (hq : (s.part (postTarget p)).st ≠ .quiesced) (hr : (s.part (postTarget p)).st ≠ .resetting)
    (hw : (s.part (postTarget p)).run = none ∨ (s.part (postTarget p)).waiting = none) (hb : s.clock.beat + 2 ≤ beat)
    (hb' : beat ≤ s.clock.beat + 1200000) (hl : listFull s (postTarget p) = false)
    (hp : loadProgram s (postTarget p) c.handle (s.func p.func).abi va = .ok prog) :
    submitCtx p va beat batch c s =
      checkProgram (postTarget p) va (newRun s p c.handle beat (s.func p.func).abi prog batch) s := by
  have hq' : ((s.part (postTarget p)).st == .quiesced || (s.part (postTarget p)).st == .resetting) = false := by simp [hq, hr]
  have hw' : ((s.part (postTarget p)).run.isSome && (s.part (postTarget p)).waiting.isSome) = false := by
    rcases hw with h | h <;> simp [h]
  have hb2 : (decide (beat < s.clock.beat + 2) || decide (s.clock.beat + 1200000 < beat)) = false := by simp; omega
  simp only [submitCtx, hc, hq', hw', hb2, hl, hp, bne_self_eq_false, Bool.false_eq_true, if_false]

/-- Taking a post leaves the function that it came from as it was. -/
theorem taken_abi (p : Post) (s : State) (f : Nat) : ((taken p s).func f).abi = (s.func f).abi := (func_updMbx _ _ _ _ _).2.1

@[simp] theorem taken_ctxCode (p : Post) (s : State) (c : Ctx) : ctxCode (taken p s) c = ctxCode s c := by
  simp [ctxCode, ctxBlocked, ctxHasRun]

@[simp] theorem taken_listFull (p : Post) (s : State) (k : Nat) : listFull (taken p s) k = listFull s k := by
  simp [listFull, stacksOf, partOfStack]

@[simp] theorem taken_penCount (p : Post) (s : State) (k : Nat) : penCount (taken p s) k = penCount s k := by
  simp [penCount, enabledPens, pensOf, partOfPen]

/-- Settles O36: the checks of R391 up to the program pass, and the first check on the state fails. -/
theorem submissionStateChecks : Obligations.SubmissionStateChecks := by
  unfold Obligations.SubmissionStateChecks
  rintro p ctx va beat batch c prog r s _ rfl hp hc hcode hq hw hb hb' hl hprog rfl h1 h2 hbad
  have habi := taken_abi p s p.func
  have hbody : runSubmitBody p ctx va beat batch (taken p s) = .done stBadState (rejectRecord 0 0 0) (taken p s) := by
    rw [← habi] at hprog h1 h2
    rw [runSubmitBody, taken_checkCtx, hc]
    dsimp only
    rw [submitCtx_program (s := taken p s) (by rwa [taken_ctxCode]) hq (hp.running rfl) hw hb hb' (by rwa [taken_listFull]) hprog,
      checkProgram_of_state h1 h2 (stateChecks_of_mismatch (by rwa [taken_penCount]))]
    rfl
  have hm := mailbox_finish hp hbody
  refine ⟨_, rfl, ?_, fun k => ?_, ?_, ?_⟩
  · refine (finish_completed (taken_beat p s)).of_mbx ?_
    rw [settledCmd_mbx, hm]
  · rw [(settledCmd_runs _ s k).1, (settledCmd_runs _ s k).2, hm]
    simp [State.part]
  · rw [settledCmd_hbm, hm, finish_hbm, taken_hbm]
  · rw [settledCmd_place, hm, finish_place, taken_place]

end Sys2Proof.Machine
end

section
/-! PROOFS. The end of a drain (R16, R17, R22, R62): the slot that it frees, what it leaves alone, and a hazard at its end. -/

namespace Sys2Proof.Machine

/-! ## Tables without a key -/

theorem tget_absent {α : Type} (d : α) (k : Nat) : ∀ t : Table α, (∀ e ∈ t, e.1 ≠ k) → tget d t k = d
  | [], _ => rfl
  | e :: t, h => by rw [tget_cons, if_neg (h e List.mem_cons_self), tget_absent d k t fun x hx => h x (List.mem_cons_of_mem _ hx)]

theorem terase_absent {α : Type} (k : Nat) : ∀ t : Table α, ∀ e ∈ terase k t, e.1 ≠ k
  | [], _, h => by cases h
  | x :: t, e, h => by
    unfold terase at h
    split at h
    · exact terase_absent k t e h
    · rename_i hk
      rcases List.mem_cons.1 h with rfl | h
      · exact hk
      · exact terase_absent k t e h

/-! ## The drain -/

theorem run_of_drainReady {s : State} {k lp i : Nat} {r : Run} {w : TileWord} {q : Slot} (h : drainReady s k lp = some (r, w, i, q)) :
    (s.part k).run = some r := by
  simp only [drainReady, Option.bind_eq_some_iff] at h
  obtain ⟨r', hr, e, -, w', -, h⟩ := h
  split at h
  · cases h; exact hr
  · cases h

theorem exec_drain {s : State} {k lp i : Nat} {r : Run} {w : TileWord} {q : Slot} (h : drainReady s k lp = some (r, w, i, q))
    (c : Bool) : exec (.drain k lp c) s = .next (settled (drainSlot k lp r w i q c) s) := by
  change execDrain k lp c s = _
  simp only [execDrain, h]

section
variable (k lp i : Nat) (r : Run) (w : TileWord) (q : Slot) (s : State)

/-- A drain without a collision changes its own pen and the clock. -/
theorem drainSlot_same : ∃ p c, drainSlot k lp r w i q false s = { s with pens := p, clock := c } := by
  obtain ⟨c, h⟩ := moveTo_same (drainOver (s.pen (physPen s k lp)) q) s
  simp only [drainSlot, h]
  exact ⟨_, _, rfl⟩

/-- Its pen after a drain: the slot is erased, its rows are staged, and the times of the drain and of the last write-back are noted. -/
theorem pen_drainSlot :
    let p := s.pen (physPen s k lp)
    let t := (drainSlot k lp r w i q false s).pen (physPen s k lp)
    t.slots = terase i p.slots ∧ t.spad = p.spad ∧ t.rowu.drain = true ∧ t.drainEnd = drainOver p q
      ∧ drainOver p q + 12 ≤ t.wroteAt := by
  simp [drainSlot]

theorem pen_drainSlot_other {j : Nat} (h : j ≠ physPen s k lp) : (drainSlot k lp r w i q false s).pen j = s.pen j := by
  simp [drainSlot, pen_updPen, h]

/-- The scratchpad collision of a drain sets HAZ, and slips the partition (R22, log 70). -/
theorem drainSlot_collision : drainSlot k lp r w i q true s =
    slip k slipHazard (updPen (physPen s k lp) (fun v => { v with haz := true }) (drainSlot k lp r w i q false s)) := rfl

end

/-- Settles O43: a drain changes its pen alone; a hazard slips after the slot is free, and a slip takes no slot into use. -/
theorem drains : Obligations.Drains := by
  unfold Obligations.Drains
  intro s k lp i r w q h
  obtain ⟨p, c, hsame⟩ := drainSlot_same k lp i r w q s
  obtain ⟨hslots, hspad, hdrain, hend, hwrote⟩ := pen_drainSlot k lp i r w q s
  refine ⟨⟨_, exec_drain h false, ?_, fun j hj => ?_, fun j hj => ?_, ?_, ?_, ?_, ?_, ?_, ?_, ?_⟩,
    fun hst hending => ⟨_, exec_drain h true, ?_⟩⟩
  · rw [settled_pen, hslots, tget_terase_same]
  · rw [settled_pen, hslots, tget_terase_other _ hj]
  · rw [settled_pen, pen_drainSlot_other _ _ _ _ _ _ _ hj]
  · rw [settled_pen, hdrain]
  · rw [settled_pen, hend]
  · rw [settled_pen]; exact hwrote
  · rw [settled_pen, hspad]
  · rw [settled_hbm, hsame]
  · rw [settled_place, hsame]
  · rw [settled_host, hsame]
  · have hu : (updPen (physPen s k lp) (fun v => { v with haz := true }) (drainSlot k lp r w i q false s)).part k = s.part k := by
      rw [part_updPen, hsame]; rfl
    have hr := run_of_drainReady h
    have hs : slips (s.part k) r = true := by simp [slips, hst, hending]
    rw [← hu] at hr hs
    have st := slip_stops hr hs slipHazard
    refine ⟨?_, ?_, ?_, ?_, ?_⟩
    · rw [settled_pen, drainSlot_collision, (st.pen _).2, pen_updPen_same]
    · refine Slipped.settled (f := drainSlot k lp r w i q true) ?_
      rw [drainSlot_collision]
      exact slip_slipped hr hs _ (by rw [hu]) (by rw [← hu, hr]; rintro q ⟨⟩; rfl)
    · rw [settled_pen, drainSlot_collision]
      refine tget_absent _ _ _ (st.slot _ i ?_)
      rw [pen_updPen_same]
      intro e he
      exact terase_absent i _ e (hslots ▸ he)
    · rw [settled_hbm, drainSlot_collision, st.t1, updPen_hbm, hsame]
    · rw [settled_place, drainSlot_collision, st.place, updPen_place, hsame]

end Sys2Proof.Machine
end

section
/-! PROOFS. HOST.COPY and its completions (R37, R293, R358, R378): what a sector leaves in T1, at the host and in the copy, and how a copy
ends. -/

namespace Sys2Proof.Machine

/-! ## Completions and suspects -/

/-- A completion is written into its mailbox; the rest is a vector. -/
theorem writeCompletion_told (p : Post) (st : Nat) (r : List Byte) (a b c : Nat) (d : Bool) (s : State) :
    ∃ f, Told (updMbx p.func p.mbx f s) (writeCompletion p st r a b c d s) := by
  unfold writeCompletion
  dsimp only
  split
  · exact ⟨_, told_sendVector _ _ _⟩
  · exact ⟨_, Told.refl _⟩

/-- The end of a search changes the shepherd's records alone (R422). -/
theorem endSearch_told (e : Nat) (s : State) : ∃ v, Told { s with recov := v } (endSearch e s) := by
  unfold endSearch
  split
  · exact ⟨s.recov, Told.refl s⟩
  · split
    · dsimp only
      split
      · exact ⟨_, Told.refl _⟩
      · exact ⟨_, told_daybook _ _ _ _ _ (dropStep e s)⟩
    · exact ⟨s.recov, Told.refl s⟩

/-- Clearing a suspect changes the shepherd's records alone (R421, R422). -/
theorem clearSuspect_told (e ctx : Nat) (s : State) : ∃ v, Told { s with recov := v } (clearSuspect e ctx s) := by
  obtain ⟨v, h⟩ := endSearch_told e (updStep e (fun st =>
    if st.search && st.suspects.any (fun x => x.ctx == ctx && x.state == 1) then
      { st with suspects := mapIf (fun x => x.ctx == ctx && x.state == 1) (fun x => { x with state := 2 }) st.suspects
                turnAt := s.clock.elapsed + 1 }
    else st) s)
  exact ⟨v, h⟩

/-! ## The end of a copy -/

/-- The state in which the command of an ended copy completes: the copy and its reads are gone, its sync counter has risen after OK, and
a failure of the host side is recorded. -/
def withoutCopy (c : HostCopy) (status : Nat) (s : State) : State :=
  let s1 := updHost (fun h => { h with copies := h.copies.filter fun x => x.id != c.id }) s
  let s2 := match c.dump with
    | some slot => updRecov (fun v => { v with dumps := tupd Dump.reset v.dumps slot fun d => { d with reading := false } }) s1
    | none => s1
  let s3 := if status = stOk && c.sync < 4096 then addSync c.part c.sync 1 s2 else s2
  if status = stLowerTierFail then daybook 0x0040 c.part noEngine c.ctx (leBytes 1 2 ++ leBytes 4 0 ++ leBytes 4 0 ++ leBytes 1 3) s3
  else s3

theorem endCopy_eq (c : HostCopy) (done status : Nat) (s : State) : endCopy c done status s =
    clearSuspect (hostDroverBit (hostDroverOf s c.part)) c.ctx
      (match findProg (withoutCopy c status s) (fun g => g.job == copyJob c) with
        | some g => completeProg g status (leBytes 4 done ++ zeros 4) (withoutCopy c status s)
        | none => withoutCopy c status s) := rfl

/-- What an ended copy leaves: it is found no more, its command has its final completion, its counter has risen after OK, and no byte of
T1 has changed. -/
structure CopyEnded (c : HostCopy) (status : Nat) (s t : State) : Prop where
  gone : findCopy t c.id = none
  hbm : t.hbm = s.hbm
  out : ∀ o ∈ s.out, o ∈ t.out
  ended : ∀ g, findProg s (fun y => y.job == copyJob c) = some g → Ended g status t
  sync : status = stOk → c.sync < 4096 → syncValue t c.part c.sync = min (2 ^ 64 - 1) (syncValue s c.part c.sync + 1)

section
variable (c : HostCopy) (status : Nat) (s : State)

/-- What a copy leaves behind before its command completes. -/
theorem withoutCopy_told : ∃ u, Told u (withoutCopy c status s) ∧ u.hbm = s.hbm ∧ u.out = s.out ∧ u.host.progs = s.host.progs
    ∧ u.host.copies = s.host.copies.filter (fun x => x.id != c.id)
    ∧ (status = stOk → c.sync < 4096 → syncValue u c.part c.sync = min (2 ^ 64 - 1) (syncValue s c.part c.sync + 1)) := by
  unfold withoutCopy
  extract_lets s1 s2 s3
  have h2 : s2.hbm = s.hbm ∧ s2.out = s.out ∧ s2.host = s1.host ∧ s2.parts = s.parts := by
    unfold s2
    split <;> exact ⟨rfl, rfl, rfl, rfl⟩
  have h3 : s3.hbm = s2.hbm ∧ s3.out = s2.out ∧ s3.host = s2.host := by
    unfold s3
    split <;> exact ⟨rfl, rfl, rfl⟩
  obtain ⟨hhbm, hout, hhost, hparts⟩ := h2
  obtain ⟨hhbm', hout', hhost'⟩ := h3
  refine ⟨s3, ?_, hhbm'.trans hhbm, hout'.trans hout, ?_, ?_, fun hok hs => ?_⟩
  · split
    · exact told_daybook _ _ _ _ _ _
    · exact Told.refl s3
  · rw [hhost', hhost]; rfl
  · rw [hhost', hhost]; rfl
  · have hv : syncValue s2 c.part c.sync = syncValue s c.part c.sync := by simp only [syncValue, State.part, hparts]
    have hadd : s3 = addSync c.part c.sync 1 s2 := by simp [s3, hok, hs]
    rw [hadd, addSync, setSync, ← hv]
    simp [syncValue, satAdd, min_comm]

theorem completeProg_told (g : InProgress) (res : List Byte) : ∃ f, Told (updMbx g.post.func g.post.mbx f
    (updHost (fun h => { h with progs := h.progs.filter (· != g) }) s)) (completeProg g status res s) := writeCompletion_told _ _ _ _ _ _ _ _

/-- A command in progress has its final completion (R370, R371). -/
theorem completeProg_ended (g : InProgress) (res : List Byte) : Ended g status (completeProg g status res s) where
  complete := by rw [completeProg, mbx_writeCompletion]
  idle := by rw [completeProg, mbx_writeCompletion]; rfl
  gone := by
    rw [completeProg, writeCompletion_progs]
    simp

theorem Told.ended {g : InProgress} {t u : State} (h : Told t u) (e : Ended g status t) : Ended g status u :=
  ⟨by rw [h.mbx]; exact e.complete, by rw [h.mbx]; exact e.idle, by rw [h.progs]; exact e.gone⟩

/-- Clearing the suspect of an ended copy leaves the copy ended. -/
theorem CopyEnded.clearSuspect {t : State} (h : CopyEnded c status s t) (e ctx : Nat) :
    CopyEnded c status s (clearSuspect e ctx t) := by
  obtain ⟨v, hv⟩ := clearSuspect_told e ctx t
  refine ⟨?_, hv.hbm.trans h.hbm, fun o ho => hv.out o (h.out o ho), fun g hg => ?_, fun hok hs => ?_⟩
  · rw [findCopy, hv.copies]; exact h.gone
  · obtain ⟨hc, hi, hg'⟩ := h.ended g hg
    exact hv.ended status ⟨hc, hi, hg'⟩
  · rw [syncValue, hv.part]; exact h.sync hok hs

theorem endCopy_ended (done : Nat) : CopyEnded c status s (endCopy c done status s) := by
  obtain ⟨u, hu, hhbm, hout, hprogs, hcopies, hsync⟩ := withoutCopy_told c status s
  have hfind : findProg (withoutCopy c status s) (fun g => g.job == copyJob c) = findProg s (fun g => g.job == copyJob c) := by
    rw [findProg, hu.progs, hprogs]; rfl
  have hgone : (s.host.copies.filter fun x => x.id != c.id).find? (fun x => x.id == c.id) = none := by simp
  rw [endCopy_eq, hfind]
  refine CopyEnded.clearSuspect c status s ?_ _ _
  cases hg : findProg s (fun g => g.job == copyJob c) with
  | none =>
    refine ⟨?_, hu.hbm.trans hhbm, fun o ho => hu.out o (hout ▸ ho), fun g hg' => ?_, fun hok hs => ?_⟩
    · rw [findCopy, hu.copies, hcopies, hgone]
    · rw [hg] at hg'; cases hg'
    · rw [syncValue, hu.part]; exact hsync hok hs
  | some g =>
    obtain ⟨f, hf⟩ := completeProg_told status (withoutCopy c status s) g (leBytes 4 done ++ zeros 4)
    refine ⟨?_, (hf.hbm.trans hu.hbm).trans hhbm, fun o ho => hf.out o (hu.out o (hout ▸ ho)), fun g' hg' => ?_, fun hok hs => ?_⟩
    · rw [findCopy, hf.copies]
      change (withoutCopy c status s).host.copies.find? _ = none
      rw [hu.copies, hcopies, hgone]
    · rw [hg] at hg'; cases hg'
      exact completeProg_ended _ _ _ _
    · rw [syncValue, hf.part]
      change syncValue (withoutCopy c status s) _ _ = _
      rw [syncValue, hu.part]; exact hsync hok hs

end

/-! ## Sectors -/

/-- A write to T1 puts its bytes there. -/
theorem writeT1_same (pa : Nat) (d : List Byte) (s : State) :
    ∃ h p, writeT1 pa d s = { s with hbm := h, place := p } ∧ h.t1 = putBytes s.hbm.t1 pa d ∧ h.t2 = s.hbm.t2 := by
  unfold writeT1
  dsimp only
  split
  · exact ⟨_, _, rfl, rfl, rfl⟩
  · exact ⟨_, s.place, rfl, rfl, rfl⟩

/-- A sector from the host reaches the T1 address of its virtual address (R378). -/
theorem writeVaPage_same (ctx va : Nat) (d : List Byte) (s : State) : ∃ h p, writeVaPage ctx va d s = { s with hbm := h, place := p }
    ∧ ∀ pa, toT1 s ctx va = some pa → h.t1 = putBytes s.hbm.t1 pa d := by
  unfold writeVaPage
  split
  · rename_i pa hpa
    obtain ⟨h, p, e, ht, -⟩ := writeT1_same pa d s
    exact ⟨h, p, e, fun pa' h' => by rw [hpa] at h'; cases h'; exact ht⟩
  · rename_i hn
    exact ⟨s.hbm, s.place, rfl, fun pa h' => by rw [hn] at h'; cases h'⟩

/-- A sector that a copy to the host sends. -/
def sentSector (c : HostCopy) (done : Nat) (bad : Bool) (s : State) : State :=
  endVa c.ctx (c.va + done) c.dump.isNone (emit (.hostWrite (c.hostAddr + done) (outSector s c done) bad) s)

/-- Sending a sector changes no byte of T1 (R293, R378). -/
theorem sentSector_same (c : HostCopy) (done : Nat) (bad : Bool) (s : State) : ∃ h, sentSector c done bad s =
    { s with hbm := h, out := .hostWrite (c.hostAddr + done) (outSector s c done) bad :: s.out } ∧ h.t1 = s.hbm.t1 := by
  unfold sentSector endVa
  split
  · exact ⟨_, rfl, rfl⟩
  · exact ⟨s.hbm, rfl, rfl⟩

theorem sectorsOut_one (c : HostCopy) (done : Nat) (s : State) : sectorsOut c 1 done s =
    if c.dump.isNone && vaPoisoned s c.ctx (c.va + done) then (sentSector c done true s, done, true)
    else (sentSector c done false s, done + 64, false) := by
  cases hb : c.dump.isNone && vaPoisoned s c.ctx (c.va + done) <;> simp only [sectorsOut, hb] <;> rfl

/-- The copy with its progress. -/
theorem findCopy_setDone {s : State} {x : HostCopy} {id : Nat} (h : findCopy s id = some x) (n : Nat) :
    findCopy (setDone id n s) id = some { x with done := n } := by
  have hid : x.id = id := by simpa using List.find?_some h
  have hsame : ((fun c : HostCopy => c.id == id) ∘ fun c => if c.id == id then { c with done := n } else c) = fun c => c.id == id := by
    funext c
    simp only [Function.comp_apply]
    split <;> rfl
  unfold findCopy at h ⊢
  simp only [setDone, updHost_host, mapIf, List.find?_map, hsame, h, Option.map_some]
  simp [hid]

/-! ## Steps of a copy -/

/-- A copy one sector further: it ends with OK with its last sector. -/
def advance (x : HostCopy) (s : State) : State :=
  let t := setDone x.id (x.done + 64) s
  if x.done + 64 = x.bytes then endCopy x (x.done + 64) stOk t else t

theorem exec_hostDroverCompletion {s : State} {id : Nat} {x : HostCopy} {l : List (List Byte)} {failed : Bool}
    (h : findCopy s id = some x) (hs : copyServed s x l.length failed = true) :
    exec (.hostDroverCompletion id l failed) s = .next (settled (copySectors x l failed) s) := by
  have he : copyEnabled s id (fun c => copyServed s c l.length failed) = true := by simp only [copyEnabled, h, hs]
  change execHostDroverCompletion id l failed s = _
  rw [execHostDroverCompletion, event, if_pos he]
  simp only [settled, onCopy, h]

theorem exec_hostCompletionTimeout {s : State} {id : Nat} {x : HostCopy} (h : findCopy s id = some x) (hd : x.dir = 0)
    (hs : copyServed s x 0 true = true) : exec (.hostCompletionTimeout id) s = .next (settled (copySectors x [] true) s) := by
  have he : copyEnabled s id (fun c => c.dir == 0 && copyServed s c 0 true) = true := by simp [copyEnabled, h, hs, hd]
  change execHostCompletionTimeout id s = _
  rw [execHostCompletionTimeout, event, if_pos he]
  simp only [settled, onCopy, h]

section
variable {x : HostCopy} {s : State} (hc : ctxCancelled s x.ctx = false)
include hc

/-- One sector from the host (R378). -/
theorem copySectors_in (hd : x.dir = 0) (d : List Byte) : copySectors x [d] false s =
    advance x (writeVaPage x.ctx (x.va + x.done) d s) := by
  simp [copySectors, hc, hd, sectorsIn, advance]

/-- One sector to the host, without poison (R378). -/
theorem copySectors_out (hd : x.dir = 1) (hp : (x.dump.isNone && vaPoisoned s x.ctx (x.va + x.done)) = false) (d : List Byte) :
    copySectors x [d] false s = advance x (sentSector x x.done false s) := by
  simp [copySectors, hc, hd, sectorsOut_one, hp, advance]

/-- A poisoned sector to the host ends the copy (R293). -/
theorem copySectors_poisoned (hd : x.dir = 1) (hp : (x.dump.isNone && vaPoisoned s x.ctx (x.va + x.done)) = true) (d : List Byte) :
    copySectors x [d] false s = endCopy x x.done stBadState (setDone x.id x.done (sentSector x x.done true s)) := by
  simp [copySectors, hc, hd, sectorsOut_one, hp]

/-- A failure of the host side ends the copy (R358). -/
theorem copySectors_failed : copySectors x [] true s = endCopy x x.done stLowerTierFail (setDone x.id x.done s) := by
  cases hd : decide (x.dir = 0) <;> simp at hd <;> simp [copySectors, hc, hd, sectorsIn, sectorsOut]

end

/-- The end of a copy after progress that changed neither the host's tables nor the partitions. -/
theorem CopyEnded.of_progress {x : HostCopy} {status n : Nat} {s t v : State} (h : CopyEnded x status (setDone x.id n t) v)
    (hhost : t.host = s.host) (hparts : t.parts = s.parts) : CopyEnded x status { s with hbm := t.hbm, out := t.out } v where
  gone := h.gone
  hbm := h.hbm
  out := h.out
  ended := fun g hg => h.ended g (by rw [findProg, setDone, updHost_host, hhost]; exact hg)
  sync := fun hok hs => by
    have hv := h.sync hok hs
    rwa [syncValue, syncValue, State.part, State.part, setDone, updHost_parts, hparts] at hv

section
variable {x : HostCopy} {id : Nat} {s t : State} (hx : findCopy s id = some x) (hhost : t.host = s.host) (hparts : t.parts = s.parts)
include hx hhost

theorem advance_goes_on (hn : x.done + 64 < x.bytes) : findCopy (advance x t) id = some { x with done := x.done + 64 } := by
  have hid : x.id = id := by simpa using List.find?_some hx
  have ht : findCopy t x.id = some x := by rw [findCopy, hhost, hid]; exact hx
  have e : advance x t = setDone x.id (x.done + 64) t := if_neg (by omega)
  rw [e, ← hid]
  exact findCopy_setDone ht _

include hparts
omit hx

theorem advance_ends (hn : x.done + 64 = x.bytes) : CopyEnded x stOk { s with hbm := t.hbm, out := t.out } (advance x t) := by
  have e : advance x t = endCopy x (x.done + 64) stOk (setDone x.id (x.done + 64) t) := if_pos hn
  rw [e]
  exact (endCopy_ended x stOk _ _).of_progress hhost hparts

end

/-- An ended copy stays ended when the contexts settle. -/
theorem CopyEnded.settled {x : HostCopy} {status id : Nat} {s : State} {f : State → State} {m : Hbm} {o : List Output}
    (h : CopyEnded x status { s with hbm := m, out := o } (f s)) (hx : findCopy s id = some x) :
    findCopy (settled f s) id = none
    ∧ (∀ g, findProg s (fun y => y.job == copyJob x) = some g → Ended g status (Machine.settled f s))
    ∧ (status = stOk → x.sync < 4096 →
        syncValue (Machine.settled f s) x.part x.sync = min (2 ^ 64 - 1) (syncValue s x.part x.sync + 1)) := by
  have hid : x.id = id := by simpa using List.find?_some hx
  refine ⟨?_, fun g hg => ?_, fun hok hs => ?_⟩
  · rw [findCopy, settled_host, ← hid]; exact h.gone
  · obtain ⟨hc, hi, hgone⟩ := h.ended g hg
    exact ⟨by rw [settled_mbx]; exact hc, by rw [settled_mbx]; exact hi, by rw [settled_host]; exact hgone⟩
  · rw [syncValue, settled_sync]; exact h.sync hok hs

/-- Progress of a copy touches no byte of T1 and takes back nothing that was sent. -/
theorem advance_sent (x : HostCopy) (t : State) : (advance x t).hbm = t.hbm ∧ ∀ o ∈ t.out, o ∈ (advance x t).out := by
  unfold advance
  dsimp only
  split
  · have h := endCopy_ended x stOk (setDone x.id (x.done + 64) t) (x.done + 64)
    exact ⟨h.hbm, h.out⟩
  · exact ⟨rfl, fun _ h => h⟩

/-! ## HOST.COPY -/

/-- The copy that HOST.COPY queues (R378). -/
def queuedCopy (c : Ctx) (ctx dir sync va hostAddr bytes : Nat) (s : State) : HostCopy :=
  { id := s.host.nextCopy, ctx := ctx, part := c.part, dir := dir, sync := sync, va := va, hostAddr := hostAddr, bytes := bytes
    since := s.clock.beat + 1, done := 0, dump := none, holds := rangeBales s ctx va bytes }

/-- An aligned, resident range is copied (R378). -/
theorem hostCopyBody_accepts {p : Post} {ctx dir sync va hostAddr bytes : Nat} {c : Ctx} {s : State}
    (hc : checkCtx p ctx s = .ok c) (h64 : 64 ≤ bytes) (hmax : bytes ≤ 2 ^ 30) (hb : bytes % 64 = 0) (hd : dir ≤ 1)
    (hs : sync < 4096 ∨ sync = 0xFFFF) (hv : va % 64 = 0) (hh : hostAddr % 64 = 0) (hr : rangeCheck s ctx va bytes = none) :
    hostCopyBody p ctx dir sync va hostAddr bytes (taken p s) = .accept none [] ctx c.part (.hostCopy s.host.nextCopy)
      (updHost (fun h => { h with nextCopy := s.host.nextCopy + 1
                                  copies := h.copies ++ [queuedCopy c ctx dir sync va hostAddr bytes s] }) (taken p s)) := by
  have hlen : (!between 64 (2 ^ 30) bytes || bytes % 64 != 0) = false := by simp [between, h64, hb]; omega
  have harg : (decide (1 < dir) || !(decide (sync < 4096) || sync == 0xFFFF) || va % 64 != 0 || hostAddr % 64 != 0) = false := by
    simp [hv, hh, hd]; omega
  have hrange : rangeCheck (taken p s) ctx va bytes = none := hr
  unfold hostCopyBody
  rw [withCtx_ok hc]
  simp only [hlen, harg, hrange, Bool.false_eq_true, if_false]
  rfl

/-- Accepting a command leaves the copies that its body queued. -/
theorem start_copies (p : Post) (due : Option Nat) (res : List Byte) (c k : Nat) (j : Job) (u : State) :
    (start p due res c k j u).host.copies = u.host.copies := by
  obtain ⟨f, h⟩ := writeCompletion_told p stAccepted res u.clock.beat (u.clock.beat + 1) (due.getD noDue) false u
  exact h.copies

/-- Settles O28: a sector is written or sent and then counted; the copy ends with its last sector, its first poisoned one, or a failure
of the host side. -/
theorem hostTransfers : Obligations.HostTransfers := by
  unfold Obligations.HostTransfers
  intro s
  refine ⟨?accept, ?inward, ?outward, ?poisoned, ?failed⟩
  case accept =>
    intro p ctx c dir sync va hostAddr bytes hp hc h64 hmax hb hd hs hv hh hr
    have hm : exec (.hostCopy p ctx dir sync va hostAddr bytes) s = _ :=
      congrArg Host.Outcome.next (mailbox_start hp (hostCopyBody_accepts hc h64 hmax hb hd hs hv hh hr))
    refine ⟨_, queuedCopy c ctx dir sync va hostAddr bytes s, hm, start_accepted (taken_beat p s), ?_, rfl, rfl, rfl, rfl, rfl, rfl,
      rfl, rfl, rfl, rfl, rfl⟩
    rw [start_copies]
    exact List.mem_append_right _ List.mem_cons_self
  case inward =>
    intro id x d hx hd hc hl hserved
    obtain ⟨h, p, hw, ht1⟩ := writeVaPage_same x.ctx (x.va + x.done) d s
    have hhost : (writeVaPage x.ctx (x.va + x.done) d s).host = s.host := by rw [hw]
    have hin : copySectors x [d] false s = _ := copySectors_in hc hd d
    refine ⟨_, exec_hostDroverCompletion (l := [d]) hx hserved, fun pa j hpa hj => ?_, fun hn => ?_, fun hn => ?_⟩
    · rw [settled_hbm, hin, (advance_sent _ _).1, hw, ht1 pa hpa, tget_putBytes, if_pos (by omega), Nat.add_sub_cancel_left]
    · rw [findCopy, settled_host, hin]
      exact advance_goes_on hx hhost hn
    · have he := advance_ends (s := s) hhost (by rw [hw]) hn
      rw [← hin] at he
      obtain ⟨hgone, hended, hsync⟩ := he.settled hx
      exact ⟨hgone, hended, hsync rfl⟩
  case outward =>
    intro id x d hx hd hdump hc hserved hpoison
    obtain ⟨h, hw, ht1⟩ := sentSector_same x x.done false s
    have hhost : (sentSector x x.done false s).host = s.host := by rw [hw]
    have hout : copySectors x [d] false s = _ := copySectors_out hc hd (by simp [hpoison]) d
    refine ⟨_, exec_hostDroverCompletion (l := [d]) hx hserved, ?_, ?_, fun hn => ?_, fun hn => ?_⟩
    · rw [settled_hbm, hout, (advance_sent _ _).1, hw, ht1]
    · rw [settled_out, hout]
      refine (advance_sent _ _).2 _ ?_
      rw [hw, outSector, hdump]
      exact List.mem_cons_self
    · rw [findCopy, settled_host, hout]
      exact advance_goes_on hx hhost hn
    · have he := advance_ends (s := s) hhost (by rw [hw]) hn
      rw [← hout] at he
      obtain ⟨hgone, hended, -⟩ := he.settled hx
      exact ⟨hgone, hended⟩
  case poisoned =>
    intro id x d hx hd hdump hc hserved hpoison
    obtain ⟨h, hw, -⟩ := sentSector_same x x.done true s
    have hend := endCopy_ended x stBadState (setDone x.id x.done (sentSector x x.done true s)) x.done
    rw [← copySectors_poisoned hc hd (by simp [hpoison, hdump]) d] at hend
    have he := hend.of_progress (s := s) (by rw [hw]) (by rw [hw])
    obtain ⟨hgone, hended, -⟩ := he.settled hx
    refine ⟨_, exec_hostDroverCompletion (l := [d]) hx hserved, hgone, ?_, hended⟩
    rw [settled_out]
    refine hend.out _ ?_
    change _ ∈ (sentSector x x.done true s).out
    rw [hw, outSector, hdump]
    exact List.mem_cons_self
  case failed =>
    intro id x hx hc hserved e he
    have hstep : exec e s = .next (settled (copySectors x [] true) s) := by
      rcases he with rfl | ⟨rfl, hd⟩
      · exact exec_hostDroverCompletion (l := []) hx hserved
      · exact exec_hostCompletionTimeout hx hd hserved
    have hend := endCopy_ended x stLowerTierFail (setDone x.id x.done s) x.done
    rw [← copySectors_failed hc] at hend
    obtain ⟨hgone, hended, -⟩ := (hend.of_progress (s := s) rfl rfl).settled hx
    exact ⟨_, hstep, hgone, by rw [settled_hbm, hend.hbm]; rfl, hended⟩

end Sys2Proof.Machine
end

section
/-! PROOFS. Verdicts and replays (R26, R103 to R111): what a commit, a reissue and a replay leave, with the frees of leaving sequences that
a commit brings (R215). -/

namespace Sys2Proof.Machine

/-! ## Leaving sequences -/

/-- t differs from s in its placement, and in partition k in the changes that wait for a commit and in the epoch (R215). -/
structure Repaged (k : Nat) (s t : State) : Prop where
  same : t = { s with place := t.place, parts := t.parts }
  part : t.part k = { s.part k with changes := (t.part k).changes, epoch := (t.part k).epoch }

theorem Repaged.refl (k : Nat) (s : State) : Repaged k s s := ⟨rfl, rfl⟩

theorem Repaged.trans {k : Nat} {s t u : State} (h : Repaged k s t) (g : Repaged k t u) : Repaged k s u where
  same := by
    have e := g.same
    rwa [h.same] at e
  part := by
    have e := g.part
    rwa [h.part] at e

theorem repaged_updPlace (k : Nat) (f : Placement → Placement) (s : State) : Repaged k s (updPlace f s) := ⟨rfl, rfl⟩

theorem repaged_setSeqMap (k h j : Nat) (m : Option KvMap) (s : State) : Repaged k s (setSeqMap h j m s) := ⟨rfl, rfl⟩

theorem repaged_noteChange (k : Nat) (c : MapChange) (s : State) : Repaged k s (noteChange k c s) := by
  unfold noteChange
  split
  · exact ⟨rfl, by rw [part_updPart_same]⟩
  · exact Repaged.refl k s

theorem repaged_unrefPage (k f : Nat) (at_ : Option (Nat × Nat)) (s : State) : Repaged k s (unrefPage k f at_ s) := by
  unfold unrefPage
  split
  · exact Repaged.refl k s
  · have h := (repaged_updPlace k _ s).trans (repaged_noteChange k ⟨some f, at_⟩ (updPage f (fun g => { g with refs := g.refs - 1 }) s))
    dsimp only
    split
    · exact (h.trans (repaged_updPlace k _ _)).trans (repaged_updPlace k _ _)
    · exact h

theorem repaged_releasePage (k h j : Nat) (s : State) : Repaged k s (releasePage k h j s) := by
  unfold releasePage
  split
  · exact Repaged.refl k s
  · split
    · exact Repaged.refl k s
    · split
      · exact repaged_setSeqMap k h j none s
      · exact (repaged_setSeqMap k h j none s).trans (repaged_unrefPage _ _ _ _)

theorem repaged_forAll {α : Type} {k : Nat} {f : α → State → State} (hf : ∀ a s, Repaged k s (f a s)) (l : List α) (s : State) :
    Repaged k s (forAll l f s) :=
  forAll_induct (P := Repaged k s) (fun a _ h => h.trans (hf a _)) l (Repaged.refl k s)

theorem repaged_destroySeq (k h : Nat) (s : State) : Repaged k s (destroySeq k h s) := by
  unfold destroySeq
  split
  · exact Repaged.refl k s
  · exact (repaged_forAll (fun j => repaged_releasePage k h j) _ s).trans (repaged_updPlace k _ _)

theorem repaged_leaveAtEnd (k : Nat) (s : State) : Repaged k s (leaveAtEnd k s) := by
  unfold leaveAtEnd
  split
  · split
    · exact repaged_forAll (fun b : BatchEntry => repaged_destroySeq k b.seq) _ s
    · exact Repaged.refl k s
  · exact Repaged.refl k s

theorem repaged_settlePages (k : Nat) (q : Part) (s : State) : Repaged k s (settlePages q s) := by
  unfold settlePages
  exact repaged_forAll (fun f => repaged_updPlace k _) _ s

theorem repaged_advanceEpoch (k : Nat) (s : State) : Repaged k s (advanceEpoch k s) := by
  unfold advanceEpoch
  dsimp only
  split
  · exact Repaged.refl k s
  · exact (repaged_settlePages k (s.part k) s).trans ⟨rfl, by rw [part_updPart_same]⟩

/-! ## Commits -/

/-- The step of instruction j and round n of partition k has committed at ac a: the RUN goes on after it, no byte of T1 or T2 and no slot
of a pen changes, and the slips start again (R74, R103). -/
structure StepDone (k j n a : Nat) (w : TileWord) (r : Run) (s t : State) : Prop where
  run : ∃ q, (t.part k).run = some q ∧ (q.doneInstr, q.doneRound) = stepAfter r j n w ∧ q.lastCommit = a ∧ q.trouble = r.trouble
  st : (t.part k).st = (s.part k).st
  slips : (t.part k).slips = 0
  hbm : t.hbm = s.hbm
  slots : ∀ i, (t.pen i).slots = (s.pen i).slots

/-- Taking back the grants of a word changes no slot and neither the RUN nor the state of its partition (R130). -/
theorem releaseGrants_keepsRun (k : Nat) (r : Run) (j : Nat) (w : TileWord) (last : Bool) {s t : State}
    (h : releaseGrants k r j w last s = t) : (t.part k).run = (s.part k).run ∧ (t.part k).st = (s.part k).st ∧ t.hbm = s.hbm
      ∧ t.recov = s.recov ∧ ∀ i, (t.pen i).slots = (s.pen i).slots := by
  subst h
  unfold releaseGrants
  split
  · exact ⟨rfl, rfl, rfl, rfl, fun _ => rfl⟩
  · rename_i g hg
    extract_lets t
    obtain ⟨p, hp⟩ := forAll_updPen_same (fun i : Nat => i) (fun _ q =>
      match q.grants.find? fun x => x.counter == g.2.sub with
      | some x => { q with grants := q.grants.erase x }
      | none => q) (enabledPens s k) s
    have hslots : ∀ i, (t.pen i).slots = (s.pen i).slots := pen_forAll_fixed (fun i : Nat => i) _ (·.slots)
      (fun _ q => by split <;> rfl) _ s
    have ht : t = { s with pens := p } := hp
    split
    · refine ⟨?_, ?_, ?_, ?_, hslots⟩
      · rw [updCounter, part_updPart_same, ht]; rfl
      · rw [updCounter, part_updPart_same, ht]; rfl
      · rw [updCounter, updPart_hbm, ht]
      · rw [updCounter, updPart_recov, ht]
    · exact ⟨by rw [ht]; rfl, by rw [ht]; rfl, by rw [ht], by rw [ht], hslots⟩

/-- Where no search goes on, a commit passes no suspect (R421). -/
theorem passSuspects_of_no_search {s : State} (h : ∀ y ∈ s.recov.steps, y.search = false) (k ctx : Nat) : passSuspects k ctx s = s := by
  have hl : (s.recov.steps.filter fun x => x.search && (engineParts s x.engine).contains k
      && x.suspects.any fun u => u.ctx == ctx && u.state == 1) = [] := by
    rw [List.filter_eq_nil_iff]
    intro y hy
    simp [h y hy]
  unfold passSuspects
  rw [hl]
  rfl

/-- The partition of a RUN that goes on with no slip behind it (R74). -/
theorem part_goesOn (k : Nat) (f : Run → Run) (s : State) : (updPart k (fun q => { q with slips := 0 }) (updRun k f s)).part k =
    { s.part k with run := (s.part k).run.map f, slips := 0 } := by
  rw [part_updPart_same, part_updRun_same]

theorem goesOn_same (k : Nat) (f : Run → Run) (s : State) : ∃ p, updPart k (fun q => { q with slips := 0 }) (updRun k f s) =
    { s with parts := p } := ⟨_, rfl⟩

theorem commitStep_done {k : Nat} {r : Run} {s : State} (hr : (s.part k).run = some r) (hs : ∀ y ∈ s.recov.steps, y.search = false)
    (j n : Nat) (w : TileWord) (a : Nat) : StepDone k j n a w r s (commitStep k j n w a s) := by
  unfold commitStep
  rw [hr]
  dsimp -zeta only
  extract_lets next s1 s2 s3
  obtain ⟨hrun, hst, hhbm, hrecov, hslots⟩ := releaseGrants_keepsRun (t := s1) k r j w (next.1 != j) rfl
  have h4 := (repaged_leaveAtEnd k s3).trans (repaged_advanceEpoch k _)
  have h3 : s3.part k = _ := part_goesOn k _ s1
  obtain ⟨p, hs3⟩ : ∃ p, s3 = { s1 with parts := p } := goesOn_same k _ s1
  have hrecov4 : (advanceEpoch k (leaveAtEnd k s3)).recov = s.recov := by rw [h4.same, hs3]; exact hrecov
  rw [passSuspects_of_no_search (by rw [syncDrovers_recov, hrecov4]; exact hs)]
  refine ⟨?_, ?_, ?_, ?_, fun i => ?_⟩
  · rw [part_syncDrovers, h4.part, h3, hrun, hr]
    exact ⟨_, rfl, rfl, rfl, rfl⟩
  · rw [part_syncDrovers, h4.part, h3]
    exact hst
  · rw [part_syncDrovers, h4.part, h3]
  · rw [syncDrovers_hbm, h4.same, hs3]
    exact hhbm
  · rw [pen_syncDrovers, h4.same, hs3]
    exact hslots i

/-- t differs from s in queued stores of partition k, and in its placement (R129, R211). -/
structure StoresQueued (k : Nat) (s t : State) : Prop where
  run : ∀ r, (s.part k).run = some r → ∃ q, (t.part k).run = some q ∧ q.prog = r.prog ∧ q.trouble = r.trouble
  st : (t.part k).st = (s.part k).st
  hbm : t.hbm = s.hbm
  recov : t.recov = s.recov
  pens : t.pens = s.pens

theorem StoresQueued.refl (k : Nat) (s : State) : StoresQueued k s s := ⟨fun r h => ⟨r, h, rfl, rfl⟩, rfl, rfl, rfl, rfl⟩

theorem StoresQueued.trans {k : Nat} {s t u : State} (h : StoresQueued k s t) (g : StoresQueued k t u) : StoresQueued k s u where
  run := fun r hr => by
    obtain ⟨q, hq, hp, ht⟩ := h.run r hr
    obtain ⟨v, hv, hp', ht'⟩ := g.run q hq
    exact ⟨v, hv, hp'.trans hp, ht'.trans ht⟩
  st := g.st.trans h.st
  hbm := g.hbm.trans h.hbm
  recov := g.recov.trans h.recov
  pens := g.pens.trans h.pens

theorem storesQueued_queueStores (k : Nat) (r : Run) (j : Nat) (w : TileWord) (lp rb : Nat) (s : State) :
    StoresQueued k s (queueStores k r j w lp rb s) := by
  unfold queueStores
  refine ⟨fun z hz => ?_, by rw [part_updRun_same], rfl, rfl, rfl⟩
  rw [part_updRun_some hz]
  exact ⟨_, rfl, rfl, rfl⟩

theorem storesQueued_updPlace (k : Nat) (f : Placement → Placement) (s : State) : StoresQueued k s (updPlace f s) :=
  ⟨fun z hz => ⟨z, hz, rfl, rfl⟩, rfl, rfl, rfl, rfl⟩

theorem storesQueued_forAll {α : Type} {k : Nat} {f : α → State → State} (hf : ∀ a s, StoresQueued k s (f a s)) (l : List α) (s : State) :
    StoresQueued k s (forAll l f s) :=
  forAll_induct (P := StoresQueued k s) (fun a _ h => h.trans (hf a _)) l (StoresQueued.refl k s)

theorem storesQueued_agePages (k : Nat) (r : Run) (c : Desc) (rbs : List Nat) (s : State) : StoresQueued k s (agePages r c rbs s) := by
  unfold agePages
  split
  · exact StoresQueued.refl k s
  · refine storesQueued_forAll (fun b t => ?_) rbs s
    split
    · exact (storesQueued_updPlace k _ t).trans (storesQueued_updPlace k _ _)
    · exact StoresQueued.refl k t

theorem stepAfter_congr {q r : Run} (h : q.prog = r.prog) (j n : Nat) (w : TileWord) : stepAfter q j n w = stepAfter r j n w := by
  unfold stepAfter
  rw [h]

theorem StoresQueued.stepDone {k j n a : Nat} {w : TileWord} {r : Run} {s t : State} (hr : (s.part k).run = some r)
    (hs : ∀ y ∈ s.recov.steps, y.search = false) (h : StoresQueued k s t) : StepDone k j n a w r s (commitStep k j n w a t) := by
  obtain ⟨q, hq, hprog, htrbl⟩ := h.run r hr
  have c := commitStep_done hq (by rw [h.recov]; exact hs) j n w a
  obtain ⟨v, hv, hnext, hlast, hv'⟩ := c.run
  refine ⟨⟨v, hv, by rw [hnext, stepAfter_congr hprog], hlast, hv'.trans htrbl⟩, c.st.trans h.st, c.slips, c.hbm.trans h.hbm, fun i => ?_⟩
  rw [c.slots, State.pen, h.pens, State.pen]

/-! ## The pens of a commit -/

/-- A pen with a step's results, at its verdict (R16, R103). -/
def doneIn (r : Run) (x : StepRec) (w : TileWord) (e : Nat × Nat × PenResult) (q : Pen) : Pen :=
  let v := finishPen x w e.2.2 q
  if placesWindow w then { v with win := releaseWindow (r.windowBase + windowOrdinal r.prog x.instr x.round) v.win } else v

theorem doneIn_slots (r : Run) (x : StepRec) (w : TileWord) (e : Nat × Nat × PenResult) (q : Pen) :
    (doneIn r x w e q).slots = (finishPen x w e.2.2 q).slots := by
  unfold doneIn
  dsimp only
  split <;> rfl

/-- The pens of a commit, finished. -/
def finishedPens (k : Nat) (r : Run) (x : StepRec) (w : TileWord) (l : List (Nat × Nat × PenResult)) (s : State) : State :=
  forAll l (fun e => updPen (physPen s k e.1) (doneIn r x w e)) s

theorem finishedPens_same (k : Nat) (r : Run) (x : StepRec) (w : TileWord) (l : List (Nat × Nat × PenResult)) (s : State) :
    ∃ p, finishedPens k r x w l s = { s with pens := p } := 
  forAll_updPen_same (fun e : Nat × Nat × PenResult => physPen s k e.1) (doneIn r x w) l s

theorem commitRound_eq (k : Nat) (r : Run) (x : StepRec) (w : TileWord) (a : Nat) (l : List (Nat × Nat × PenResult)) (s : State) :
    commitRound k r x w a l s = commitStep k x.instr x.round w a (if w.hold then finishedPens k r x w l s else
      agePages r (Desc.at r.prog w.dc) (l.map (·.2.1))
        (forAll l (fun e => queueStores k r x.instr w e.1 e.2.1) (finishedPens k r x w l s))) := by
  cases h : w.hold <;> simp only [commitRound, h, Bool.false_eq_true, if_true, if_false] <;> rfl

theorem commitRound_done {k : Nat} {z : Run} {s : State} (hz : (s.part k).run = some z) (hs : ∀ y ∈ s.recov.steps, y.search = false)
    (r : Run) (x : StepRec) (w : TileWord) (a : Nat) (l : List (Nat × Nat × PenResult)) :
    StepDone k x.instr x.round a w z (finishedPens k r x w l s) (commitRound k r x w a l s) := by
  obtain ⟨p, hp⟩ := finishedPens_same k r x w l s
  rw [commitRound_eq]
  refine StoresQueued.stepDone (by rw [hp]; exact hz) (by rw [hp]; exact hs) ?_
  split
  · exact StoresQueued.refl k _
  · exact (storesQueued_forAll (fun e : Nat × Nat × PenResult => storesQueued_queueStores k r x.instr w e.1 e.2.1) _ _).trans
      (storesQueued_agePages k _ _ _ _)

/-- A table keeps an entry that is not at its default when the defaults are dropped. -/
theorem tget_dropFree {t : Table Slot} {i : Nat} (h : tget Slot.reset t i ≠ Slot.reset) : tget Slot.reset (dropFree t) i = tget Slot.reset t i := by
  induction t with
  | nil => rfl
  | cons e t ih =>
    unfold dropFree at ih ⊢
    rw [tget_cons] at h
    rw [tget_cons, List.filter_cons]
    by_cases he : e.1 = i
    · rw [if_pos he] at h
      simp [h, he, tget_cons]
    · rw [if_neg he] at h
      rw [if_neg he]
      split
      · rw [tget_cons, if_neg he, ih h]
      · exact ih h

/-- A change that keeps the default acts entry by entry. -/
theorem tget_mapped {α : Type} (d : α) (g : α → α) (hg : g d = d) (i : Nat) (t : Table α) :
    tget d (t.map fun e => (e.1, g e.2)) i = g (tget d t i) := by
  induction t with
  | nil => exact hg.symm
  | cons e t ih =>
    rw [List.map_cons, tget_cons, tget_cons, ih]
    split <;> rfl

/-- A slot without the step that used it (R17). -/
def freedOf (x : StepRec) (v : Slot) : Slot := if v.users.contains (x.instr, x.round) then Slot.reset else v

theorem finishSlot_ne_reset (x : StepRec) (w : TileWord) (entries : Table Word32) (v : Slot) : finishSlot x w entries v ≠ Slot.reset := by
  intro e
  have h : (finishSlot x w entries v).st = .free := by rw [e]; rfl
  revert h
  simp only [finishSlot]
  split
  · simp
  · split <;> simp

/-- A finished slot is used by its step no more. -/
theorem freedOf_finishSlot (x : StepRec) (w : TileWord) (entries : Table Word32) (v : Slot) :
    freedOf x (finishSlot x w entries v) = finishSlot x w entries v := if_neg (by simp [finishSlot])

/-- The slot of a step's output has the step's results at its verdict (R16, R103). -/
theorem finishPen_entries {x : StepRec} {w : TileWord} {res : PenResult} {q : Pen} {i : Nat} {v : Slot} (h : outSlot x q = some (i, v)) :
    (tget Slot.reset (finishPen x w res q).slots i).entries = res.entries := by
  have hslots : (finishPen x w res q).slots =
      dropFree ((tupd Slot.reset q.slots i (finishSlot x w res.entries)).map fun e => (e.1, freedOf x e.2)) := by
    simp only [finishPen, h]
    rfl
  have hdone : tget Slot.reset ((tupd Slot.reset q.slots i (finishSlot x w res.entries)).map fun e => (e.1, freedOf x e.2)) i =
      finishSlot x w res.entries (tget Slot.reset q.slots i) := by
    rw [tget_mapped _ (freedOf x) (by simp [freedOf]), tupd, tget_tset_same, freedOf_finishSlot]
  rw [hslots, tget_dropFree (by rw [hdone]; exact finishSlot_ne_reset _ _ _ _), hdone]
  rfl

/-! ## Trouble that a verdict notes -/

theorem enabledPens_congr {s t : State} (hm : t.mode = s.mode) (hp : ∀ i, (t.pen i).power = (s.pen i).power) (k : Nat) :
    enabledPens t k = enabledPens s k := by
  have hpens : pensOf t k = pensOf s k := by simp only [pensOf, partOfPen, hm]
  simp only [enabledPens, hpens, hp]

/-- t differs from s in the RUN's trouble and in what reports it, and in the clock: bytes, slots and pens in use are the same (R106). -/
structure Noted (k : Nat) (r : Run) (tr : Trouble) (s t : State) : Prop where
  part : t.part k = { s.part k with run := some { r with trouble := tr } }
  hbm : t.hbm = s.hbm
  steps : t.recov.steps = s.recov.steps
  slots : ∀ i, (t.pen i).slots = (s.pen i).slots
  mode : t.mode = s.mode
  power : ∀ i, (t.pen i).power = (s.pen i).power

theorem noted_moveTo {k : Nat} {r : Run} {s : State} (hr : (s.part k).run = some r) (n : Nat) : Noted k r r.trouble s (moveTo n s) where
  part := by
    rw [part_moveTo]
    change _ = { s.part k with run := some r }
    rw [← hr]
  hbm := by simp
  steps := by simp
  slots := by simp
  mode := by simp
  power := by simp

namespace Noted
variable {k : Nat} {r : Run} {tr : Trouble} {s t : State} (h : Noted k r tr s t)
include h

theorem run : (t.part k).run = some { r with trouble := tr } := by rw [h.part]

theorem physPen (lp : Nat) : Machine.physPen t k lp = Machine.physPen s k lp := by
  rw [Machine.physPen, Machine.physPen, enabledPens_congr h.mode h.power]

theorem told {u : State} (g : Told t u) : Noted k r tr s u :=
  ⟨by rw [g.part, h.part], g.hbm.trans h.hbm, g.steps.trans h.steps, fun i => by rw [g.pen, h.slots], by rw [g.same]; exact h.mode,
    fun i => by rw [g.pen, h.power]⟩

theorem updTrouble (f : Trouble → Trouble) : Noted k r (f tr) s (updRun k (fun z => { z with trouble := f z.trouble }) t) :=
  ⟨by rw [part_updRun_some h.run, h.part], h.hbm, h.steps, h.slots, h.mode, h.power⟩

theorem updPens (f : Nat → Pen → Pen) (hs : ∀ i q, (f i q).slots = q.slots) (hp : ∀ i q, (f i q).power = q.power) (l : List Nat) :
    Noted k r tr s (forAll l (fun i => updPen i (f i)) t) := by
  have hslots := pen_forAll_fixed (fun i : Nat => i) f (·.slots) hs l t
  have hpower := pen_forAll_fixed (fun i : Nat => i) f (·.power) hp l t
  obtain ⟨p, e⟩ := forAll_updPen_same (fun i : Nat => i) f l t
  rw [e] at hslots hpower ⊢
  exact ⟨h.part, h.hbm, h.steps, fun i => (hslots i).trans (h.slots i), h.mode, fun i => (hpower i).trans (h.power i)⟩

theorem reportTrouble (x : StepRec) (l : List (Nat × Nat × PenResult)) : Noted k r tr s (reportTrouble k x l t) :=
  h.updPens _ (fun _ q => by split <;> rfl) (fun _ q => by split <;> rfl) _

/-- A slip after noted trouble is a slip of the state before it. -/
theorem slip (hr : (s.part k).run = some r) (hs : slips (s.part k) r = true) (c : Nat) :
    Slipped k c s (slip k c t) ∧ (Machine.slip k c t).hbm.t1 = s.hbm.t1 := by
  have hs' : slips (t.part k) { r with trouble := tr } = true := by rw [h.part]; exact hs
  refine ⟨slip_slipped h.run hs' c (by rw [h.part]) fun q hq => ?_, ?_⟩
  · rw [hr] at hq
    cases hq
    rfl
  · rw [(slip_stops h.run hs' c).t1, h.hbm]

end Noted

/-! ## Reissue -/

/-- The RUN z of partition k issues y again: its steps in flight are dropped, its lag is n, and no byte changes (R107, R110). -/
structure Reissued (k n : Nat) (y : Replay) (z : Run) (s t : State) : Prop where
  run : ∃ q, (t.part k).run = some q ∧ q.flight = [] ∧ q.replay = some y ∧ q.doneInstr = z.doneInstr ∧ q.trouble = z.trouble
  st : (t.part k).st = (s.part k).st
  lag : (t.part k).lag = n
  t1 : t.hbm.t1 = s.hbm.t1

theorem reissue_reissued {k : Nat} {z : Run} {u : State} (hz : (u.part k).run = some z) (r : Run) (x : StepRec) (w : TileWord) (y : Replay)
    (n : Nat) : Reissued k n y z u (setLag k n (reissue k r x w y u)) := by
  obtain ⟨p, hp⟩ := forAll_updPen_same (fun i : Nat => i) (fun _ => discardPen r) (pensOf u k) u
  have hz' : ((forAll (pensOf u k) (fun i => updPen i (discardPen r)) u).part k).run = some z := by rw [hp]; exact hz
  unfold setLag reissue
  dsimp only
  refine ⟨?_, ?_, ?_, ?_⟩
  · rw [part_updPart_same, part_syncDrovers, part_updRun_some hz']
    exact ⟨_, rfl, rfl, rfl, rfl, rfl⟩
  · rw [part_updPart_same, part_syncDrovers, part_updRun_same, hp]
    rfl
  · rw [part_updPart_same]
  · rw [updPart_hbm, syncDrovers_hbm, updRun_hbm, hp]

section
variable {k : Nat} {r : Run} {x : StepRec} {w : TileWord} (a : Nat)

/-- The attempt after one with trouble (R105, R107, R110). -/
theorem nextAttempt_fields (s : State) (l : List (Nat × Nat × PenResult)) :
    let y := nextAttempt s k r x w a l
    y.instr = x.instr ∧ y.round = x.round ∧ y.issue = a + 512
      ∧ (w.policy = 0 ∧ x.attempt < 2 → y.attempt = x.attempt + 1 ∧ y.assay = false)
      ∧ (¬(w.policy = 0 ∧ x.attempt < 2) → y.attempt = 3 ∧ y.assay = true) := by
  by_cases h : w.policy = 0 ∧ x.attempt < 2
  · simp [nextAttempt, h]
  · have h' : (decide (w.policy = 0) && decide (x.attempt < 2)) = false := by simpa using h
    have e : nextAttempt s k r x w a l = ⟨x.instr, x.round, 3, true, a + 512, x.runlen, x.bank, x.scales, x.epoch⟩ := by
      simp only [nextAttempt, h', Bool.false_eq_true, if_false]
    rw [e]
    exact ⟨rfl, rfl, rfl, fun g => absurd g h, fun _ => ⟨rfl, rfl⟩⟩

variable {a}

theorem troubleReissue_slips {c : Nat} (h : reissueSlip r x w (a + 512) = some c) (kinds : Nat) (ref : StepRef)
    (l : List (Nat × Nat × PenResult)) (s : State) : troubleReissue k r x w a kinds ref l s = slip k c s := by
  obtain ⟨-, -, hissue, -, -⟩ := nextAttempt_fields (k := k) (r := r) (x := x) (w := w) a s l
  unfold troubleReissue
  dsimp only
  rw [hissue, h]

theorem troubleReissue_goes {u : State} {tr : Trouble} {s : State} (h : reissueSlip r x w (a + 512) = none) (hu : Noted k r tr s u)
    (kinds : Nat) (ref : StepRef) (l : List (Nat × Nat × PenResult)) :
    ∃ y v, y = nextAttempt u k r x w a l
      ∧ Noted k r { tr with replays := if y.assay then tr.replays else satAdd 32 tr.replays 1 } s v
      ∧ troubleReissue k r x w a kinds ref l u =
          setLag k (a + 512 - nominalAc r (w.issue + roundOffset r.prog x.instr w x.round)) (reissue k r x w y v) := by
  obtain ⟨-, -, hissue, -, -⟩ := nextAttempt_fields (k := k) (r := r) (x := x) (w := w) a u l
  have hv := hu.updTrouble fun t => { t with replays := if (nextAttempt u k r x w a l).assay then t.replays else satAdd 32 t.replays 1 }
  unfold troubleReissue tryReissue
  dsimp only
  rw [hissue, h]
  refine ⟨_, _, rfl, ?_, rfl⟩
  split
  · rename_i ha
    simp only [ha, if_true] at hv
    exact hv
  · rename_i ha
    simp only [ha] at hv
    exact hv.told (told_daybook _ _ _ _ _ _)

end

/-! ## The trouble of a verdict -/

/-- The RUN's trouble with the kinds of a step (R106). -/
def seenTrouble (kinds : Nat) (ref : StepRef) (t : Trouble) : Trouble :=
  { t with kindsSeen := t.kindsSeen ||| kinds
           firstTrouble := if t.firstTrouble.isNone && kinds != 0 then some ref else t.firstTrouble }

/-- The RUN's trouble with the count of a commit (R106, log 62). -/
def countedTrouble (x : StepRec) (kinds : Nat) (ref : StepRef) (t : Trouble) : Trouble :=
  if x.attempt = 3 then { t with fallbacks := t.fallbacks + 1, lastFallback := some ref }
  else if kinds != 0 then { t with committed := t.committed + 1 } else t

/-- What a commit counts (R106): a fallback for attempt 3, and a step that committed with trouble otherwise. -/
theorem countedTrouble_fields (x : StepRec) (kinds : Nat) (ref : StepRef) (t : Trouble) :
    let c := countedTrouble x kinds ref t
    c.replays = t.replays ∧ c.kindsSeen = t.kindsSeen ∧ c.fallbacks = t.fallbacks + (if x.attempt = 3 then 1 else 0)
      ∧ (x.attempt = 3 → c.lastFallback = some ref)
      ∧ c.committed = t.committed + (if x.attempt ≠ 3 ∧ kinds ≠ 0 then 1 else 0) := by
  by_cases h : x.attempt = 3
  · simp [countedTrouble, h]
  · by_cases hk : kinds = 0 <;> simp [countedTrouble, h, hk]

namespace Noted
variable {k : Nat} {r : Run} {tr : Trouble} {s t : State} (h : Noted k r tr s t)
include h

theorem seeTrouble (kinds : Nat) (ref : StepRef) : Noted k r (seenTrouble kinds ref tr) s (seeTrouble k kinds ref t) :=
  h.updTrouble (seenTrouble kinds ref)

theorem countCommit (x : StepRec) (kinds ctx : Nat) (ref : StepRef) :
    Noted k r (countedTrouble x kinds ref tr) s (countCommit k x kinds ctx ref t) := by
  unfold countedTrouble Machine.countCommit
  split
  · exact (h.updTrouble fun t => { t with fallbacks := t.fallbacks + 1, lastFallback := some ref }).told (told_daybook _ _ _ _ _ _)
  · split
    · exact h.updTrouble fun t => { t with committed := t.committed + 1 }
    · exact h

end Noted

/-! ## The pens of a step -/

/-- The logical pens of a step rise. -/
theorem activePens_fst (s : State) (k : Nat) (r : Run) (j : Nat) (w : TileWord) (n : Nat) : (activePens s k r j w n).map (·.1) =
    (List.range r.prog.penCount).filter fun lp => (penBlock s k r j w lp n).isSome := by
  unfold activePens
  induction List.range r.prog.penCount with
  | nil => rfl
  | cons lp l ih =>
    cases h : penBlock s k r j w lp n <;> simp [h, ih]

theorem stepResults_fst (s : State) (k : Nat) (r : Run) (x : StepRec) (w : TileWord) : (stepResults s k r x w).map (·.1) =
    (List.range r.prog.penCount).filter fun lp => (penBlock s k r x.instr w lp x.round).isSome := by
  rw [← activePens_fst, stepResults, List.map_map]
  rfl

/-- The pens of a partition are different pens. -/
theorem physPen_inj {s : State} {k a b : Nat} (ha : a < (enabledPens s k).length) (hb : b < (enabledPens s k).length)
    (h : physPen s k a = physPen s k b) : a = b := by
  have hd : (enabledPens s k).Nodup := (List.nodup_range.filter _).filter _
  rw [physPen, physPen, List.getD_eq_getElem _ _ ha, List.getD_eq_getElem _ _ hb] at h
  exact (hd.getElem_inj_iff).1 h

theorem stepResults_pens_nodup {s : State} {k : Nat} {r : Run} (h : r.prog.penCount = (enabledPens s k).length) (x : StepRec) (w : TileWord) :
    ((stepResults s k r x w).map fun e => physPen s k e.1).Nodup := by
  have hmap : (stepResults s k r x w).map (fun e => physPen s k e.1) = ((stepResults s k r x w).map (·.1)).map (physPen s k) := by
    rw [List.map_map]
    rfl
  have hlt : ∀ a ∈ (List.range r.prog.penCount).filter fun lp => (penBlock s k r x.instr w lp x.round).isSome,
      a < (enabledPens s k).length := fun a ha => h ▸ List.mem_range.1 (List.mem_of_mem_filter ha)
  rw [hmap, stepResults_fst]
  exact (List.nodup_range.filter _).map_on fun a ha b hb e => physPen_inj (hlt a ha) (hlt b hb) e

/-! ## Verdicts -/

theorem verdictReady_eq_some {s : State} {k : Nat} {r : Run} {x : StepRec} {w : TileWord} (h : verdictReady s k = some (r, x, w)) :
    (s.part k).run = some r ∧ (s.part k).st = .running ∧ r.ending = none := by
  simp only [verdictReady, Option.bind_eq_some_iff] at h
  obtain ⟨r', hr, x', -, w', -, h⟩ := h
  split at h
  · rename_i hc
    cases h
    simp only [Bool.and_eq_true] at hc
    exact ⟨hr, by simpa using hc.1.1.1.1, by simpa using hc.1.1.1.2⟩
  · cases h

/-- A verdict with no late lot and no late anchored word is the work of its step (R70, R103). -/
theorem stepVerdict_of_inTime {s : State} {k : Nat} {r : Run} {x : StepRec} {a : Nat} (ha : a = max x.verdict r.lastCommit)
    (hl : ∀ e ∈ lotDues s k r, e.1 ≠ a) (hn : ∀ e, lateAnchor r = some e → e.2 ≠ a) (w : TileWord) :
    stepVerdict k r x w s = verdictWork k r x w a (moveTo a s) := by
  have hlate : ((lotDues s k r).find? fun e => e.1 == a) = none := by simpa using hl
  have hanchor : ((lateAnchor r).any fun e => e.2 == a) = false := by
    cases h : lateAnchor r with
    | none => rfl
    | some e => simpa using hn e h
  unfold stepVerdict
  simp only [← ha, hlate, hanchor]
  rfl

theorem stepResults_moveTo (n : Nat) (s : State) (k : Nat) (r : Run) (x : StepRec) (w : TileWord) :
    stepResults (moveTo n s) k r x w = stepResults s k r x w := by
  obtain ⟨c, h⟩ := moveTo_same n s
  rw [h]
  rfl

theorem exec_stepVerdict {s : State} {k : Nat} {r : Run} {x : StepRec} {w : TileWord} (h : verdictReady s k = some (r, x, w)) :
    exec (.stepVerdict k) s = .next (settled (stepVerdict k r x w) s) := by
  change execStepVerdict k s = _
  simp only [execStepVerdict, h]

section
variable {k : Nat} {r : Run} {x : StepRec} {w : TileWord} {a : Nat} {l : List (Nat × Nat × PenResult)} {kinds lp : Nat} {s : State}
  (hl : stepResults s k r x w = l) (hkinds : l.foldl (fun a e => a ||| e.2.2.kinds) 0 = kinds)
  (hlp : ((l.find? fun e => e.2.2.kinds != 0).map (·.1)).getD 0 = lp)

/-- The state in which a slotted step's verdict is decided: its trouble is reported and seen (R106). -/
def judged (k : Nat) (x : StepRec) (l : List (Nat × Nat × PenResult)) (kinds lp : Nat) (s : State) : State :=
  seeTrouble k kinds ⟨x.instr, x.round, lp⟩ (reportTrouble k x l s)

theorem Noted.judged {tr : Trouble} {s t : State} (h : Noted k r tr s t) :
    Noted k r (seenTrouble kinds ⟨x.instr, x.round, lp⟩ tr) s (judged k x l kinds lp t) := (h.reportTrouble x l).seeTrouble _ _

include hl hkinds hlp

theorem slottedVerdict_commits (h : kinds = 0 ∨ (kinds &&& kindNonFinite = 0 ∧ w.policy = 2)) : slottedVerdict k r x w a s =
    commitRound k r x w a l (countCommit k x kinds r.ctx ⟨x.instr, x.round, lp⟩ (judged k x l kinds lp s)) := by
  have hnf : (kinds &&& kindNonFinite != 0) = false := by
    rcases h with rfl | ⟨h, -⟩
    · simp
    · simp [h]
  have hre : (kinds != 0 && w.policy != 2) = false := by
    rcases h with rfl | ⟨-, h⟩
    · simp
    · simp [h]
  unfold slottedVerdict
  simp only [hl, hkinds, hlp, hnf, hre, Bool.false_eq_true, if_false]
  rfl

theorem slottedVerdict_reissues (h0 : kinds ≠ 0) (hnf : kinds &&& kindNonFinite = 0) (hp : w.policy ≠ 2) :
    slottedVerdict k r x w a s = troubleReissue k r x w a kinds ⟨x.instr, x.round, lp⟩ l (judged k x l kinds lp s) := by
  have hnf' : (kinds &&& kindNonFinite != 0) = false := by simp [hnf]
  have hre : (kinds != 0 && w.policy != 2) = true := by simp [h0, hp]
  unfold slottedVerdict
  simp only [hl, hkinds, hlp, hnf', hre, Bool.false_eq_true, if_false, if_true]
  rfl

theorem slottedVerdict_ends {e : Nat × Nat × PenResult} (he : l.find? (fun e => e.2.2.kinds &&& kindNonFinite != 0) = some e)
    (hnf : kinds &&& kindNonFinite ≠ 0) : slottedVerdict k r x w a s =
      endNonFinite k ⟨x.instr, x.round, e.1⟩ e.2.2.nfRow e.2.2.nfCol (judged k x l kinds lp s) := by
  have hnf' : (kinds &&& kindNonFinite != 0) = true := by simp [hnf]
  unfold slottedVerdict
  simp only [hl, hkinds, hlp, hnf', he, if_true]
  rfl

end

/-! ## Replays -/

/-- What the issue of a round in partition k leaves alone: the other partitions, bytes, placement and the host port. -/
structure Issues (k : Nat) (s t : State) : Prop where
  others : ∀ i, i ≠ k → t.part i = s.part i
  hbm : t.hbm = s.hbm
  host : t.host = s.host
  place : t.place = s.place

theorem Issues.trans {k : Nat} {s t u : State} (h : Issues k s t) (g : Issues k t u) : Issues k s u :=
  ⟨fun i hi => (g.others i hi).trans (h.others i hi), g.hbm.trans h.hbm, g.host.trans h.host, g.place.trans h.place⟩

theorem issues_updPart (k : Nat) (f : Part → Part) (s : State) : Issues k s (updPart k f s) :=
  ⟨fun i hi => by rw [part_updPart, if_neg hi], rfl, rfl, rfl⟩

theorem issues_moveTo (k n : Nat) (s : State) : Issues k s (moveTo n s) := ⟨fun i _ => by simp, by simp, by simp, by simp⟩

theorem issues_forAll_updPen {α : Type} (k : Nat) (g : α → Nat) (f : α → Pen → Pen) (l : List α) (s : State) :
    Issues k s (forAll l (fun a => updPen (g a) (f a)) s) := by
  obtain ⟨p, h⟩ := forAll_updPen_same g f l s
  rw [h]
  exact ⟨fun _ _ => rfl, rfl, rfl, rfl⟩

section
variable {k : Nat} {z : Run} {s : State}

/-- Choosing the banks of a round changes no step in flight (R93). -/
theorem useBanks_issues (hz : (s.part k).run = some z) (r : Run) (j : Nat) (w : TileWord) : Issues k s (useBanks k r j w s).2
    ∧ ∃ q, ((useBanks k r j w s).2.part k).run = some q ∧ q.flight = z.flight ∧ q.prog = z.prog := by
  have mark : ∀ (l : List Nat) (f : Nat → Pen → Pen) (n : Nat),
      let t := updRun k (fun x => { x with banks := tset 0 x.banks j (n + 1) }) (forAll l (fun i => updPen i (f i)) s)
      Issues k s t ∧ ∃ q, (t.part k).run = some q ∧ q.flight = z.flight ∧ q.prog = z.prog := by
    intro l f n
    have hz' : ((forAll l (fun i => updPen i (f i)) s).part k).run = some z := by
      rw [part_forAll_updPen (fun i : Nat => i) f]
      exact hz
    refine ⟨(issues_forAll_updPen k (fun i : Nat => i) f l s).trans (issues_updPart k _ _), ?_⟩
    rw [part_updRun_some hz']
    exact ⟨_, rfl, rfl, rfl⟩
  unfold useBanks
  dsimp only
  split
  · exact mark _ _ _
  · split
    · exact mark _ _ _
    · exact ⟨⟨fun _ _ => rfl, rfl, rfl, rfl⟩, z, hz, rfl, rfl⟩

/-- Corrected and uncorrectable errors are counted and flagged without a change of a partition (R39, R485). -/
theorem takeEcc_issues (w : TileWord) (e : Ecc) : Issues k s (takeEcc k w e s) ∧ (takeEcc k w e s).part k = s.part k := by
  have same : ∀ i, (takeEcc k w e s).part i = s.part i := by
    intro i
    unfold takeEcc
    split
    · rfl
    · exact part_forAll_updPen (fun i : Nat => i) _ _ _ _
    · split <;> rfl
    · rfl
  refine ⟨⟨fun i _ => same i, ?_, ?_, ?_⟩, same k⟩
  all_goals
    unfold takeEcc
    split
    · rfl
    · obtain ⟨p, h⟩ := forAll_updPen_same (fun i : Nat => i) (fun _ v => { v with bcerr := true }) (enabledPens s k) s
      rw [h]
    · split <;> rfl
    · rfl

/-- The state at a round's issue with its pens begun (R61). -/
def begunPens (k j : Nat) (r : Run) (w : TileWord) (a : Attempt) (s : State) : State :=
  forAll (activePens s k r j w a.round) (fun b =>
    updPen (physPen s k b.1) (beginPen r.prog j w a b.2 (r.windowBase + windowOrdinal r.prog j a.round))) (moveTo a.at_ s)

theorem begunPens_issues (j : Nat) (r : Run) (w : TileWord) (a : Attempt) : Issues k s (begunPens k j r w a s)
    ∧ (begunPens k j r w a s).part k = s.part k := by
  unfold begunPens
  refine ⟨(issues_moveTo k a.at_ s).trans (issues_forAll_updPen k (fun b : Nat × Nat => physPen s k b.1) _ _ _), ?_⟩
  rw [part_forAll_updPen (fun b : Nat × Nat => physPen s k b.1), part_moveTo]

theorem issueRound_eq (j : Nat) (r : Run) (w : TileWord) (a : Attempt) (e : Ecc) : issueRound k j r w a e s =
    setLag k (a.at_ - nominalAc r (w.issue + roundOffset r.prog j w a.round)) (takeEcc k w e
      (launch k j w a (useBanks k r j w (begunPens k j r w a s)).1 (eccFault w e) (useBanks k r j w (begunPens k j r w a s)).2)) := rfl

/-- An issued round is the last step in flight, and no replay waits (R61, R107). -/
theorem issueRound_issues (hz : (s.part k).run = some z) (j : Nat) (w : TileWord) (a : Attempt) (e : Ecc) :
    Issues k s (issueRound k j z w a e s) ∧ ∃ q x, ((issueRound k j z w a e s).part k).run = some q ∧ q.replay = none
      ∧ q.flight = z.flight ++ [x] ∧ x.instr = j ∧ x.round = a.round ∧ x.attempt = a.number ∧ x.assay = a.assay ∧ x.issue = a.at_
      ∧ x.verdict = a.at_ + verdictAc z.prog j w a.assay a.round ∧ x.runlen = a.runlen ∧ x.epoch = a.epoch
      ∧ x.engineFault = eccFault w e := by
  obtain ⟨h1, hpart1⟩ := begunPens_issues (k := k) (s := s) j z w a
  obtain ⟨hu, q, hq, hflight, hprog⟩ := useBanks_issues (s := begunPens k j z w a s) (by rw [hpart1]; exact hz) z j w
  obtain ⟨he, hpart⟩ := takeEcc_issues (k := k) (s := launch k j w a (useBanks k z j w (begunPens k j z w a s)).1 (eccFault w e)
    (useBanks k z j w (begunPens k j z w a s)).2) w e
  have hlaunch : (launch k j w a (useBanks k z j w (begunPens k j z w a s)).1 (eccFault w e)
      (useBanks k z j w (begunPens k j z w a s)).2).part k = _ := part_updRun_some hq _
  rw [issueRound_eq]
  refine ⟨(((h1.trans hu).trans (issues_updPart k _ _)).trans he).trans (issues_updPart k _ _), ?_⟩
  rw [setLag, part_updPart_same, hpart, hlaunch]
  exact ⟨_, _, rfl, rfl, congrArg (· ++ [_]) hflight, rfl, rfl, rfl, rfl, rfl, by rw [← hprog], rfl, rfl, rfl⟩

end

theorem replayReady_eq_some {s : State} {k : Nat} {r : Run} {y : Replay} {w : TileWord} (h : replayReady s k = some (r, y, w)) :
    (s.part k).run = some r := by
  simp only [replayReady, Option.bind_eq_some_iff] at h
  obtain ⟨r', hr, y', -, w', -, h⟩ := h
  split at h
  · cases h; exact hr
  · cases h

theorem exec_troubleReplay {s : State} {k : Nat} {r : Run} {y : Replay} {w : TileWord} (h : replayReady s k = some (r, y, w)) (e : Ecc) :
    exec (.troubleReplay k e) s =
      .next (issueRound k y.instr r w ⟨y.round, y.attempt, y.assay, y.issue, y.runlen, y.scales, y.epoch⟩ e s) := by
  change execTroubleReplay k e s = _
  simp only [execTroubleReplay, h]

/-- The results of a step stand in its output slots when it commits (R16, R103). -/
theorem commitRound_entries {s u : State} {k : Nat} {r z : Run} {tr : Trouble} (hu : Noted k r tr s u) {x : StepRec} {w : TileWord} {a : Nat}
    (hp : r.prog.penCount = (enabledPens s k).length)
    (hd : StepDone k x.instr x.round a w z (finishedPens k r x w (stepResults s k r x w) u)
      (commitRound k r x w a (stepResults s k r x w) u)) {e : Nat × Nat × PenResult} (he : e ∈ stepResults s k r x w) {i : Nat} {v : Slot}
    (hv : outSlot x (s.pen (physPen s k e.1)) = some (i, v)) :
    (tget Slot.reset ((commitRound k r x w a (stepResults s k r x w) u).pen (physPen s k e.1)).slots i).entries = e.2.2.entries := by
  have hphys : ∀ e : Nat × Nat × PenResult, physPen u k e.1 = physPen s k e.1 := fun e => hu.physPen e.1
  have hpen := pen_forAll_of_mem (fun e : Nat × Nat × PenResult => physPen u k e.1) (doneIn r x w)
    (by simpa only [hphys] using stepResults_pens_nodup hp x w) he u
  have hout : outSlot x (u.pen (physPen s k e.1)) = some (i, v) := by
    unfold outSlot at hv ⊢
    rw [hu.slots]
    exact hv
  rw [hd.slots]
  simp only [hphys] at hpen
  simp only [finishedPens, hphys, hpen]
  rw [doneIn_slots, finishPen_entries hout]

/-- Settles O42: a verdict in time notes the step's trouble, and then commits, reissues, slips or ends the RUN; a replay issues the
noted attempt. -/
theorem verdicts : Obligations.Verdicts := by
  unfold Obligations.Verdicts
  refine ⟨fun s k a r x w l kinds lp hready ha hlots hanchor hsearch => ?verdict, fun s k r y w e hready => ?replay⟩
  case replay =>
    obtain ⟨hi, q, v, hq⟩ := issueRound_issues (replayReady_eq_some hready) y.instr w
      ⟨y.round, y.attempt, y.assay, y.issue, y.runlen, y.scales, y.epoch⟩ e
    obtain ⟨hrun, hreplay, hflight, hv⟩ := hq
    obtain ⟨hinstr, hround, hattempt, hassay, hissue, hverdict, hrunlen, hepoch, hfault⟩ := hv
    exact ⟨_, q, v, exec_troubleReplay hready e, hrun, hreplay, hflight, hinstr, hround, hattempt, hassay, hissue, hverdict, hrunlen,
      hepoch, hfault, hi.others, hi.hbm, hi.host, hi.place⟩
  case verdict =>
    obtain ⟨hr, hst, hend⟩ := verdictReady_eq_some hready
    have hslips : slips (s.part k) r = true := by simp [slips, hst, hend]
    have hm := noted_moveTo hr a
    have hwork := stepVerdict_of_inTime ha hlots hanchor w
    have hexec := exec_stepVerdict hready
    have slipped : ∀ {tr : Trouble} {u : State} {c : Nat}, Noted k r tr s u → stepVerdict k r x w s = slip k c u →
        Slipped k c s (settled (stepVerdict k r x w) s) ∧ (settled (stepVerdict k r x w) s).hbm.t1 = s.hbm.t1 := by
      intro tr u c hu e
      obtain ⟨h1, h2⟩ := hu.slip hr hslips c
      exact ⟨Slipped.settled (f := stepVerdict k r x w) (e ▸ h1), by rw [settled_hbm, e, h2]⟩
    refine ⟨fun hfault hre => ?fault, fun hfault c hre => ?faultSlip, fun hfault hslotted hl hkinds hlp => ?slotted⟩
    case fault =>
      have e : stepVerdict k r x w s = setLag k (a - nominalAc r (w.issue + roundOffset r.prog x.instr w x.round))
          (reissue k r x w ⟨x.instr, x.round, x.attempt, x.assay, a, x.runlen, x.bank, x.scales, x.epoch⟩ (moveTo a s)) := by
        rw [hwork, verdictWork, if_pos hfault, faultReissue, tryReissue, hre]
      obtain ⟨⟨q, hq, hflight, hreplay, hdone, htrouble⟩, hst', -, ht1⟩ := reissue_reissued hm.run r x w
        ⟨x.instr, x.round, x.attempt, x.assay, a, x.runlen, x.bank, x.scales, x.epoch⟩
        (a - nominalAc r (w.issue + roundOffset r.prog x.instr w x.round))
      rw [← e] at hq hst' ht1
      exact ⟨_, q, _, hexec, by rw [settled_run, hq], by rw [settled_st, hst', part_moveTo, hst], hflight, hreplay, rfl, rfl, rfl, rfl, rfl,
        hdone, htrouble, by rw [settled_hbm, ht1, hm.hbm]⟩
    case faultSlip =>
      refine ⟨_, hexec, slipped hm ?_⟩
      rw [hwork, verdictWork, if_pos hfault, faultReissue, tryReissue, hre]
    case slotted =>
      subst hl
      have hres := stepResults_moveTo a s k r x w
      have hv : stepVerdict k r x w s = slottedVerdict k r x w a (moveTo a s) := by
        rw [hwork, verdictWork, if_neg (by simp [hfault]), if_pos hslotted]
      have hj := hm.judged (x := x) (l := stepResults s k r x w) (kinds := kinds) (lp := lp)
      refine ⟨fun hk => ?commits, fun h0 hnf hp hre => ?reissues, fun h0 hnf hp c hre => ?slips, fun e he hnf => ?ends⟩
      case commits =>
        have hc := hj.countCommit x kinds r.ctx ⟨x.instr, x.round, lp⟩
        have hd := commitRound_done hc.run (by rw [hc.steps]; exact hsearch) r x w a (stepResults s k r x w)
        have hcommit := slottedVerdict_commits (a := a) hres hkinds.symm hlp.symm hk
        obtain ⟨p, hp⟩ := finishedPens_same k r x w (stepResults s k r x w)
          (countCommit k x kinds r.ctx ⟨x.instr, x.round, lp⟩ (judged k x (stepResults s k r x w) kinds lp (moveTo a s)))
        obtain ⟨q, hq, hnext, hlast, htrouble⟩ := hd.run
        obtain ⟨hreplays, hseen, hfallbacks, hlastFallback, hcommitted⟩ := countedTrouble_fields x kinds ⟨x.instr, x.round, lp⟩
          (seenTrouble kinds ⟨x.instr, x.round, lp⟩ r.trouble)
        rw [hcommit] at hv
        refine ⟨_, q, hexec, ?_, ?_, ?_, hnext, hlast, ?_, ?_, ?_, ?_, ?_, ?_, fun hpens e he i v ho => ?_⟩
        · rw [settled_run, hv, hq]
        · rw [settled_st, hv, hd.st, hp]
          change ((countCommit _ _ _ _ _ _).part k).st = _
          rw [hc.part, hst]
        · rw [settled_slips, hv, hd.slips]
        · rw [settled_hbm, hv, hd.hbm, hp, hc.hbm]
        · rw [htrouble, hreplays]; rfl
        · rw [htrouble, hseen]; rfl
        · rw [htrouble, hfallbacks]; rfl
        · rw [htrouble]; exact hlastFallback
        · rw [htrouble, hcommitted]; rfl
        · rw [settled_pen, hv]
          exact commitRound_entries hc hpens hd he ho
      case reissues =>
        rw [slottedVerdict_reissues (a := a) hres hkinds.symm hlp.symm h0 hnf hp] at hv
        obtain ⟨y, u, hy, hu, e⟩ := troubleReissue_goes hre hj kinds ⟨x.instr, x.round, lp⟩ (stepResults s k r x w)
        obtain ⟨hinstr, hround, hissue, hnormal, hassay⟩ := nextAttempt_fields (k := k) (r := r) (x := x) (w := w) a
          (judged k x (stepResults s k r x w) kinds lp (moveTo a s)) (stepResults s k r x w)
        rw [← hy] at hinstr hround hissue hnormal hassay
        obtain ⟨⟨q, hq, hflight, hreplay, hdone, htrouble⟩, hst', hlag, ht1⟩ := reissue_reissued hu.run r x w y
          (a + 512 - nominalAc r (w.issue + roundOffset r.prog x.instr w x.round))
        rw [← e, ← hv] at hq hst' hlag ht1
        refine ⟨_, q, y, hexec, ?_, ?_, hflight, hreplay, hinstr, hround, hissue, hdone, ?_, fun h => ?_, fun h => ?_, ?_, ?_⟩
        · rw [settled_run, hq]
        · rw [settled_st, hst', hu.part, hst]
        · rw [htrouble]; rfl
        · obtain ⟨hn, hnassay⟩ := hnormal h
          exact ⟨hn, hnassay, by rw [htrouble]; simp [hnassay, satAdd, seenTrouble]⟩
        · obtain ⟨hn, hnassay⟩ := hassay h
          exact ⟨hn, hnassay, by rw [htrouble]; simp [hnassay, seenTrouble]⟩
        · rw [settled_lag, hlag]
        · rw [settled_hbm, ht1, hu.hbm]
      case slips =>
        refine ⟨_, hexec, slipped hj ?_⟩
        rw [hv, slottedVerdict_reissues (a := a) hres hkinds.symm hlp.symm h0 hnf hp, troubleReissue_slips hre]
      case ends =>
        have hu := hj.updTrouble fun t => { t with
          kindsSeen := t.kindsSeen ||| kindNonFinite, nfRow := e.2.2.nfRow, nfCol := e.2.2.nfCol, nfStep := some ⟨x.instr, x.round, e.1⟩
          firstTrouble := if t.firstTrouble.isNone then some ⟨x.instr, x.round, e.1⟩ else t.firstTrouble }
        have hpart := part_haltRun hu.run ⟨stNonFinite, 0, 3, stepRefNum ⟨x.instr, x.round, e.1⟩⟩
        have hstops := haltRun_stops hu.run ⟨stNonFinite, 0, 3, stepRefNum ⟨x.instr, x.round, e.1⟩⟩
        rw [slottedVerdict_ends (a := a) hres hkinds.symm hlp.symm he hnf, endNonFinite] at hv
        rw [← hv] at hpart hstops
        refine ⟨_, _, hexec, ?_, by rw [settled_run, hpart], rfl, rfl, rfl, rfl, rfl, ?_⟩
        · rw [settled_st, hpart]; rfl
        · rw [settled_hbm, hstops.t1, hu.hbm]

end Sys2Proof.Machine
end

section
/-! PROOFS. Tile words and lots (R31 to R36, R129 to R132): decoding, the start of a drover's work with its sector reads, and the placing,
ending and reading out of lots. -/

namespace Sys2Proof.Machine

/-! ## Decoding -/

theorem decodeReady_eq_some {s : State} {k : Nat} {r : Run} {w : TileWord} (h : decodeReady s k = some (r, w)) :
    (s.part k).run = some r := by
  simp only [decodeReady, Option.bind_eq_some_iff] at h
  obtain ⟨r', hr, h⟩ := h
  split at h
  · simp only [Option.map_eq_some_iff] at h
    obtain ⟨w', -, e⟩ := h
    cases e
    exact hr
  · cases h

theorem exec_tileDecode {s : State} {k : Nat} {r : Run} {w : TileWord} (h : decodeReady s k = some (r, w)) :
    exec (.tileDecode k) s = .next (tileDecode k r w s) := by
  change execTileDecode k s = _
  simp only [execTileDecode, h]

/-- What decoding leaves alone: everything outside its partition. -/
structure Decodes (k : Nat) (s t : State) : Prop where
  others : ∀ i, i ≠ k → t.part i = s.part i
  hbm : t.hbm = s.hbm
  pens : t.pens = s.pens
  host : t.host = s.host
  ctxs : t.ctxs = s.ctxs

theorem Decodes.trans {k : Nat} {s t u : State} (h : Decodes k s t) (g : Decodes k t u) : Decodes k s u :=
  ⟨fun i hi => (g.others i hi).trans (h.others i hi), g.hbm.trans h.hbm, g.pens.trans h.pens, g.host.trans h.host, g.ctxs.trans h.ctxs⟩

theorem decodes_updPart (k : Nat) (f : Part → Part) (s : State) : Decodes k s (updPart k f s) :=
  ⟨fun i hi => by rw [part_updPart, if_neg hi], rfl, rfl, rfl, rfl⟩

section
variable {s : State} {k : Nat} {r : Run} {w : TileWord} (hr : (s.part k).run = some r)
include hr

/-- A word decodes: the RUN counts it and its slots (R31, R130). -/
theorem tileDecode_decodes (h : decodeFault (s.part k) r r.decoded w = none) : Decodes k s (tileDecode k r w s)
    ∧ ((tileDecode k r w s).part k).run = some { r with decoded := r.decoded + 1, held := heldAfter r.held r.prog w } := by
  unfold tileDecode
  dsimp only
  rw [h]
  dsimp only
  split
  · refine ⟨(decodes_updPart k _ s).trans (decodes_updPart k _ _), ?_⟩
    rw [updCounter, part_updPart_same, part_updRun_some hr]
  · refine ⟨decodes_updPart k _ s, ?_⟩
    rw [part_updRun_some hr]

/-- A word that does not decode stops the RUN with its fault (R31, R391). -/
theorem tileDecode_stops {e : DecodeFault} (h : decodeFault (s.part k) r r.decoded w = some e) : Decodes k s (tileDecode k r w s)
    ∧ (tileDecode k r w s).part k =
      { s.part k with dfCode := e.1, dfLpen := e.2, dfInstr := r.decoded, run := some { r with decodeStop := some r.decoded } } := by
  unfold tileDecode
  dsimp only
  rw [h]
  refine ⟨(decodes_updPart k _ s).trans (decodes_updPart k _ _), ?_⟩
  rw [part_updRun_same, part_updPart_same, hr]
  rfl

end

/-! ## Sector reads -/

/-- t differs from s in the clock, the fabric and the requests of the pseudo channels. -/
def Posting (s t : State) : Prop := ∃ c f p, t = { s with clock := c, fabric := f, hbm := { s.hbm with pcs := p } }

theorem Posting.trans {s t u : State} (h : Posting s t) (g : Posting t u) : Posting s u := by
  obtain ⟨c, f, p, rfl⟩ := h
  obtain ⟨c', f', p', rfl⟩ := g
  exact ⟨c', f', p', rfl⟩

theorem posting_moveTo (n : Nat) (s : State) : Posting s (moveTo n s) := by
  obtain ⟨c, h⟩ := moveTo_same n s
  exact ⟨c, s.fabric, s.hbm.pcs, h⟩

theorem posting_postReq (q : Req) (s : State) : Posting s (postReq q s) := ⟨s.clock, s.fabric, _, rfl⟩

theorem posting_openTransfer (k j : Nat) (r : Run) (w : TileWord) (s : State) : Posting s (openTransfer k j r w s) := by
  unfold openTransfer
  dsimp only
  split
  · exact ⟨s.clock, s.fabric, s.hbm.pcs, rfl⟩
  · split
    · exact ⟨s.clock, _, s.hbm.pcs, rfl⟩
    · exact ⟨s.clock, _, s.hbm.pcs, rfl⟩

theorem Posting.part {s t : State} (h : Posting s t) (k : Nat) : t.part k = s.part k := by
  obtain ⟨c, f, p, rfl⟩ := h
  rfl

/-- Where an address lies does not depend on what is posted (R280). -/
theorem Posting.channelOf {s t : State} (h : Posting s t) (pa : Nat) : Machine.channelOf t pa = Machine.channelOf s pa := by
  obtain ⟨c, f, p, rfl⟩ := h
  rfl

/-- The requests of the pseudo channel that serves an address. -/
def reqsFor (s t : State) (pa : Nat) : List Req := (pcAt t (channelOf s pa).1 (localPc (channelOf s pa).2)).reqs

theorem mem_reqsFor_postReq {s t : State} {pa : Nat} {y : Req} (h : y ∈ reqsFor s t pa) (q : Req) : y ∈ reqsFor s (postReq q t) pa := by
  unfold reqsFor pcAt postReq updPc at *
  simp only [updHbm_hbm, tget_tupd]
  split
  · rename_i e
    rw [e] at h
    exact List.mem_append_left _ h
  · exact h

theorem mem_reqsFor_self {s t : State} (h : Posting s t) (q : Req) : q ∈ reqsFor s (postReq q t) q.addr := by
  unfold reqsFor pcAt postReq updPc
  simp only [updHbm_hbm, tget_tupd, h.channelOf, if_true]
  exact List.mem_append_right _ List.mem_cons_self

/-- Every request of a list reaches the pseudo channel of its address (R280). -/
theorem mem_reqsFor_forAll {s t : State} (h : Posting s t) {l : List Req} {q : Req} (hq : q ∈ l) :
    q ∈ reqsFor s (forAll l postReq t) q.addr := by
  induction l generalizing t with
  | nil => cases hq
  | cons a l ih =>
    rw [forAll_cons]
    rcases List.mem_cons.1 hq with rfl | hq
    · exact forAll_induct (P := fun u => q ∈ reqsFor s u q.addr) (fun b u hu => mem_reqsFor_postReq hu b) l (mem_reqsFor_self h q)
    · exact ih (h.trans (posting_postReq a t)) hq

/-! ## The start of a drover's work -/

theorem droverReady_eq_some {s : State} {k j d : Nat} {r : Run} {w : TileWord} (h : droverReady s k j d = some (r, w)) :
    (s.part k).run = some r := by
  simp only [droverReady, Option.bind_eq_some_iff] at h
  obtain ⟨r', hr, w', -, h⟩ := h
  split at h
  · cases h; exact hr
  · cases h

theorem exec_droverStart {s : State} {k j d : Nat} {r : Run} {w : TileWord} (h : droverReady s k j d = some (r, w)) :
    exec (.droverStart k j d) s = .next (droverStart k j d r w s) := by
  change execDroverStart k j d s = _
  simp only [execDroverStart, h]

/-- The RUN once a drover has opened an instruction and posted its lots; lots without a sector are placed at once (R32, R129). -/
def startedRun (k j d : Nat) (r : Run) (w : TileWord) (s : State) (x : Run) : Run :=
  let l := lotsToStart s k j d r w
  { x with opened := if !r.opened.contains (j, d) then x.opened ++ [(j, d)] else x.opened
           placed := x.placed ++ (l.filter fun x => !x.direct && (planSectors r.prog w x).isEmpty).map (·.lot)
           posted := x.posted ++ l.map (·.lot) }

section
variable (k j d : Nat) (r : Run) (w : TileWord) (s : State)

/-- The state with a drover's transfer opened and its reads posted (R32, R333). -/
def postedReads : State :=
  forAll ((lotsToStart s k j d r w).flatMap (lotReqs (moveTo (startAc r j d w) s) r w)) postReq
    (if 144 ≤ d && !r.opened.contains (j, d) then openTransfer k j r w (moveTo (startAc r j d w) s) else moveTo (startAc r j d w) s)

/-- A drover's start posts the reads of its lots and changes its RUN and its own record beside. -/
theorem droverStart_eq : ∃ f, droverStart k j d r w s =
    syncDrovers k (updDrover d f (updRun k (startedRun k j d r w s) (postedReads k j d r w s))) := by
  unfold droverStart
  exact ⟨_, rfl⟩

theorem postedReads_posting : Posting s (postedReads k j d r w s)
    ∧ ∀ x ∈ lotsToStart s k j d r w, ∀ q ∈ lotReqs (moveTo (startAc r j d w) s) r w x, q ∈ reqsFor s (postedReads k j d r w s) q.addr := by
  have h0 := posting_moveTo (startAc r j d w) s
  have h1 : Posting s (if 144 ≤ d && !r.opened.contains (j, d) then openTransfer k j r w (moveTo (startAc r j d w) s)
      else moveTo (startAc r j d w) s) := by
    split
    · exact h0.trans (posting_openTransfer _ _ _ _ _)
    · exact h0
  unfold postedReads
  exact ⟨forAll_induct (P := Posting s) (fun a u h => h.trans (posting_postReq a u)) _ h1,
    fun x hx q hq => mem_reqsFor_forAll h1 (List.mem_flatMap.2 ⟨x, hx, hq⟩)⟩

/-- The read of a sector of a lot (R32). -/
theorem mem_lotReqs {s : State} {r : Run} {w : TileWord} {x : LotPlan} {v pa : Nat} (hv : v ∈ planSectors r.prog w x)
    (hpa : runT1 s r (64 * v) = some pa) (n : Nat) : ∃ q ∈ lotReqs (moveTo n s) r w x, q.addr = pa ∧ q.write = false ∧ q.lot = x.lot
      ∧ q.rank = droverRank x.drover ∧ q.tag = readTag (nominalDue r w x) (droverRank x.drover) pa := by
  have hpa' : runT1 (moveTo n s) r (64 * v) = some pa := by
    obtain ⟨c, h⟩ := moveTo_same n s
    rw [h]
    exact hpa
  exact ⟨_, List.mem_filterMap.2 ⟨v, hv, by rw [hpa', Option.map_some]⟩, rfl, rfl, rfl, rfl, rfl⟩

end

/-! ## Placed lots -/

/-- t differs from s in pens, partitions and the fabric, and every running RUN goes on (R33). -/
structure Places (s t : State) : Prop where
  same : ∃ p q f, t = { s with pens := p, parts := q, fabric := f }
  run : ∀ k, (s.part k).run.isSome → (t.part k).run.isSome

theorem places_updPen (i : Nat) (f : Pen → Pen) (s : State) : Places s (updPen i f s) := ⟨⟨_, _, _, rfl⟩, fun _ h => h⟩

theorem places_updGate (g : Nat) (f : Gate → Gate) (s : State) : Places s (updGate g f s) := ⟨⟨_, _, _, rfl⟩, fun _ h => h⟩

theorem places_updPart (k : Nat) (f : Part → Part) (s : State) (hf : ∀ q, q.run.isSome → (f q).run.isSome) : Places s (updPart k f s) :=
  ⟨⟨_, _, _, rfl⟩, fun i h => by
    rw [part_updPart]
    split
    · rename_i e
      exact hf _ (e ▸ h)
    · exact h⟩

theorem places_updRun (k : Nat) (f : Run → Run) (s : State) : Places s (updRun k f s) :=
  places_updPart k _ s (by intro q h; simpa using h)

theorem places_updManger (k i : Nat) (f : MangerSlot → MangerSlot) (s : State) : Places s (updManger k i f s) :=
  places_updPart k _ s (by intro _ h; exact h)

theorem places_updCounter (k i : Nat) (f : WorkCounter → WorkCounter) (s : State) : Places s (updCounter k i f s) :=
  places_updPart k _ s (by intro _ h; exact h)

theorem Places.trans {s t u : State} (h : Places s t) (g : Places t u) : Places s u where
  same := by
    obtain ⟨p, q, f, rfl⟩ := h.same
    obtain ⟨p', q', f', rfl⟩ := g.same
    exact ⟨p', q', f', rfl⟩
  run := fun k hk => g.run k (h.run k hk)

/-- Wherever a lot goes, it goes to pens, manger, counters or holds (R33, R35). -/
theorem placeLot_places (s : State) (r : Run) (w : TileWord) (x : LotPlan) : Places s (placeLot s r w x) := by
  have ring : Places s (updPart x.lot.part (fun q => { q with kvRing := q.kvRing + 1 }) s) :=
    places_updPart _ _ s (by intro _ h; exact h)
  have page := fun f => (ring.trans (places_updRun x.lot.part (takeRing x.lot) _)).trans (places_updManger x.lot.part pageSlot f _)
  unfold placeLot
  dsimp only
  split
  case h_5 => exact places_updCounter _ _ _ _
  case h_6 => exact places_updManger _ _ _ _
  case h_7 => exact page _
  case h_8 => exact page _
  case h_9 => exact places_updGate _ _ _
  case h_10 => exact places_updGate _ _ _
  case h_11 =>
    split
    · exact (places_updPen _ _ s).trans (places_updPart _ _ _ (by intro _ h; exact h))
    · exact places_updPen _ _ _
  all_goals exact places_updPen _ _ _

theorem placeLot_activation {r : Run} {w : TileWord} {x : LotPlan} (s : State) (h : x.lot.role = .activation)
    (hw : placesWindow w = false) : placeLot s r w x =
      updPen (physPen s x.lot.part x.lot.lpen) (fun v => { v with spad := spadPut (absAc s) (lotData s r w x) v.spad }) s := by
  simp [placeLot, h, hw]

theorem lotReady_eq_some {s : State} {lot : LotRef} {r : Run} {w : TileWord} {x : LotPlan} (h : lotReady s lot = some (r, w, x)) :
    (s.part lot.part).run = some r ∧ x.lot = lot := by
  simp only [lotReady, Option.bind_eq_some_iff] at h
  obtain ⟨r', hr, w', -, x', hx, h⟩ := h
  split at h
  · cases h
    exact ⟨hr, by simpa using List.find?_some hx⟩
  · cases h

theorem exec_lotComplete_load {s : State} {lot : LotRef} {r : Run} {w : TileWord} {x : LotPlan} (hrole : lot.role ≠ .store)
    (h : lotReady s lot = some (r, w, x)) (c : Bool) : exec (.lotComplete lot c) s = .next (loadLot r w x c s) := by
  change execLotComplete lot c s = _
  simp only [execLotComplete, h, hrole, if_false]

@[simp] theorem part_countLot (d j : Nat) (s : State) (k : Nat) : (countLot d j s).part k = s.part k := by
  rw [countLot, part_updDrover, part_updDrover]
@[simp] theorem countLot_hbm (d j : Nat) (s : State) : (countLot d j s).hbm = s.hbm := by
  rw [countLot, updDrover_hbm, updDrover_hbm]
@[simp] theorem countLot_pens (d j : Nat) (s : State) : (countLot d j s).pens = s.pens := by
  rw [countLot, updDrover_pens, updDrover_pens]

/-- A placed lot is counted: its drover's work, its place in the RUN, and its sectors, which have served (R33). -/
def counted (x : LotPlan) (t : State) : State :=
  updRun x.lot.part (fun y => { y with placed := y.placed ++ [x.lot], arrived := y.arrived.filter fun a => a.lot != x.lot })
    (countLot x.drover x.lot.instr t)

theorem counted_keeps (x : LotPlan) (t : State) : (counted x t).hbm = t.hbm ∧ (counted x t).host = t.host
    ∧ (counted x t).ctxs = t.ctxs ∧ (counted x t).place = t.place := by simp [counted, countLot]

@[simp] theorem pen_counted (x : LotPlan) (t : State) (i : Nat) : (counted x t).pen i = t.pen i := rfl

theorem part_counted_some {x : LotPlan} {t : State} {z : Run} (h : (t.part x.lot.part).run = some z) : (counted x t).part x.lot.part =
    { t.part x.lot.part with
      run := some { z with placed := z.placed ++ [x.lot], arrived := z.arrived.filter fun a => a.lot != x.lot } } := by
  rw [counted, part_updRun_some (by rw [part_countLot]; exact h), part_countLot]

section
variable {r : Run} {w : TileWord} {x : LotPlan} {s : State}

theorem loadLot_fits (hb : badSector r x.lot = none) (hf : lotFits (countLot x.drover x.lot.instr (placeLot s r w x)) r w x = true) :
    loadLot r w x false s = counted x (placeLot s r w x) := by
  simp only [loadLot, hb, hf]
  rfl

theorem loadLot_ends (hb : badSector r x.lot = none) (hf : lotFits (countLot x.drover x.lot.instr (placeLot s r w x)) r w x = false) :
    loadLot r w x false s =
      haltRun x.lot.part ⟨stBadArg, 0, 3, stepRefNum ⟨x.lot.instr, x.lot.round, x.lot.lpen⟩⟩ (counted x (placeLot s r w x)) := by
  simp only [loadLot, hb, hf]
  rfl

theorem counted_run (hr : (s.part x.lot.part).run = some r) : ∃ q, ((counted x (placeLot s r w x)).part x.lot.part).run = some q
    ∧ x.lot ∈ q.placed ∧ ∀ a ∈ q.arrived, a.lot ≠ x.lot := by
  obtain ⟨z, hz⟩ := Option.isSome_iff_exists.1 ((placeLot_places s r w x).run x.lot.part (by rw [hr]; rfl))
  rw [part_counted_some hz]
  exact ⟨_, rfl, by simp, fun a ha => by simpa using (List.mem_filter.1 ha).2⟩

/-- The lines of a lot with an uncorrectable sector, marked where the lot went (R36). -/
def badMarked (s : State) (r : Run) (w : TileWord) (x : LotPlan) (t : State) : State :=
  let add (l : List Nat) : List Nat := (badLines s r w x).foldl (fun l a => insertSorted a l) l
  if x.drover < 64 then updPen x.drover (fun v => { v with marked := add v.marked }) t
  else if x.drover < 136 then updManger x.lot.part (if x.lot.role == .layer then weightOrdinal r.prog x.lot.instr % 3 else pageSlot)
    (fun m => { m with marked := add m.marked }) t
  else updRecv (x.drover - 144) x.lot.part x.lot.instr (fun h => { h with marked := true })
    (updSend (x.drover - 144) x.lot.part x.lot.instr (fun h => { h with marked := true }) t)

theorem badMarked_keeps (s : State) (r : Run) (w : TileWord) (x : LotPlan) (t : State) : (badMarked s r w x t).drovers = t.drovers
    ∧ ((badMarked s r w x t).part x.lot.part).run = (t.part x.lot.part).run := by
  unfold badMarked
  dsimp only
  split
  · exact ⟨rfl, rfl⟩
  · split
    · exact ⟨rfl, by rw [updManger, part_updPart_same]⟩
    · exact ⟨rfl, rfl⟩

theorem loadLot_bad {pa : Nat} (hb : badSector r x.lot = some pa) (c : Bool) : loadLot r w x c s = haltRun x.lot.part ⟨stBadState, 0, 4, pa⟩
    (badMarked s r w x (updDrover x.drover (fun v => { v with poison := true }) (counted x (placeLot s r w x)))) := by
  simp only [loadLot, hb]
  rfl

/-- A lot with an uncorrectable sector sets POISON of its drover and ends the RUN (R36). -/
theorem loadLot_poisons (hr : (s.part x.lot.part).run = some r) {pa : Nat} (hb : badSector r x.lot = some pa) (c : Bool) :
    ((loadLot r w x c s).drover x.drover).poison = true ∧ ((loadLot r w x c s).part x.lot.part).st = .quiesced
      ∧ ∃ q, ((loadLot r w x c s).part x.lot.part).run = some q ∧ q.ending = some ⟨stBadState, 0, 4, pa⟩ := by
  obtain ⟨z, hz, -, -⟩ := counted_run (w := w) hr
  obtain ⟨hd, hrun⟩ := badMarked_keeps s r w x (updDrover x.drover (fun v => { v with poison := true }) (counted x (placeLot s r w x)))
  have hz' := hrun.trans hz
  have hpart := part_haltRun hz' ⟨stBadState, 0, 4, pa⟩
  have hstops := haltRun_stops hz' ⟨stBadState, 0, 4, pa⟩
  rw [← loadLot_bad hb c] at hpart hstops
  refine ⟨?_, by rw [hpart]; rfl, _, by rw [hpart], rfl⟩
  rw [(hstops.drover x.drover).1, State.drover, hd, ← State.drover, drover_updDrover_same]

end

/-! ## Stored lots -/

theorem storeReady_eq_some {s : State} {lot : LotRef} {r : Run} {w : TileWord} (h : storeReady s lot = some (r, w)) :
    (s.part lot.part).run = some r := by
  simp only [storeReady, Option.bind_eq_some_iff] at h
  obtain ⟨r', hr, w', -, h⟩ := h
  split at h
  · cases h; exact hr
  · cases h

theorem exec_lotComplete_store {s : State} {lot : LotRef} {r : Run} {w : TileWord} (hrole : lot.role = .store)
    (h : storeReady s lot = some (r, w)) (c : Bool) : exec (.lotComplete lot c) s = .next (storeLot r w lot c s) := by
  change execLotComplete lot c s = _
  simp only [execLotComplete, h, hrole, if_true]

/-- t differs from s in bytes of T1 and requests of the pseudo channels, and in its placement (R34, R280). -/
structure Stores (s t : State) : Prop where
  same : t = { s with hbm := t.hbm, place := t.place }
  t2 : t.hbm.t2 = s.hbm.t2

theorem Stores.trans {s t u : State} (h : Stores s t) (g : Stores t u) : Stores s u where
  same := by
    have e := g.same
    rwa [h.same] at e
  t2 := g.t2.trans h.t2

theorem stores_forAll {α : Type} {f : α → State → State} (hf : ∀ a s, Stores s (f a s)) (l : List α) (s : State) :
    Stores s (forAll l f s) :=
  forAll_induct (P := Stores s) (fun a _ h => h.trans (hf a _)) l ⟨rfl, rfl⟩

theorem stores_writeRun (r : Run) (va : Nat) (d : List Byte) (s : State) : Stores s (writeRun r va d s) := by
  unfold writeRun
  split
  · obtain ⟨h, p, e, -, ht2⟩ := writeT1_same ‹Nat› d s
    rw [e]
    exact ⟨rfl, ht2⟩
  · exact ⟨rfl, rfl⟩

theorem stores_postReq (q : Req) (s : State) : Stores s (postReq q s) := ⟨rfl, rfl⟩

/-- The lot that a store drover reads out closes its work: the RUN's stores shrink by it, and bytes and pens stay (R34). -/
theorem closeStores_leaves {s : State} {k : Nat} {z : Run} (hz : (s.part k).run = some z) (j d : Nat) (w : TileWord) :
    (∃ q, ((closeStores k j d w s).part k).run = some q ∧ q.toStore = z.toStore ∧ q.flight = z.flight ∧ q.doneInstr = z.doneInstr)
      ∧ (closeStores k j d w s).hbm = s.hbm ∧ (closeStores k j d w s).pens = s.pens := by
  unfold closeStores
  rw [hz]
  dsimp only
  split
  · exact ⟨⟨z, hz, rfl, rfl, rfl⟩, rfl, rfl⟩
  · split
    · refine ⟨?_, ?_, ?_⟩
      · rw [part_updGate, part_syncDrovers, part_updRun_some hz]
        exact ⟨_, rfl, rfl, rfl, rfl⟩
      · rw [updGate_hbm, syncDrovers_hbm, updRun_hbm]
      · rw [updGate_pens, syncDrovers_pens, updRun_pens]
    · refine ⟨?_, ?_, ?_⟩
      · rw [part_syncDrovers, part_updRun_some hz]
        exact ⟨_, rfl, rfl, rfl, rfl⟩
      · rw [syncDrovers_hbm, updRun_hbm]
      · rw [syncDrovers_pens, updRun_pens]

/-- The state with the bytes of a stored lot in T1, with its write requests, or in the pens (R34). -/
def readOut (r : Run) (w : TileWord) (lot : LotRef) (s : State) : State :=
  let d := storeData s r w lot
  let dr := storeDrover s lot.part w lot
  let at_ := absAc s + (if dr < 128 then 12 else 10)
  if toPens w then fillPens lot.part r w lot d s
  else forAll (storeSectors s r d) (fun a => postReq ⟨a, true, at_ + 4096, droverRank dr, at_, lot⟩)
    (forAll (byteRuns d) (fun e u => writeRun r e.1 e.2 u) s)

theorem readOut_toPens {w : TileWord} (h : toPens w = true) (r : Run) (lot : LotRef) (s : State) :
    ∃ p, readOut r w lot s = { s with pens := p } := by
  unfold readOut
  dsimp only
  rw [if_pos h]
  exact forAll_updPen_same (fun i : Nat => i) _ _ _

theorem readOut_toT1 {w : TileWord} (h : toPens w = false) (r : Run) (lot : LotRef) (s : State) : Stores s (readOut r w lot s)
    ∧ (readOut r w lot s).hbm.t1 = (forAll (byteRuns (storeData s r w lot)) (fun e u => writeRun r e.1 e.2 u) s).hbm.t1 := by
  have hw := stores_forAll (fun e : Nat × List Byte => stores_writeRun r e.1 e.2) (byteRuns (storeData s r w lot)) s
  unfold readOut
  dsimp only
  rw [if_neg (by simp [h])]
  exact ⟨hw.trans (stores_forAll (fun a => stores_postReq _) _ _),
    forAll_fixed (fun u : State => u.hbm.t1) (f := fun a => postReq ⟨a, true, _, _, _, lot⟩) (fun _ _ => rfl) _ _⟩

/-- A stored lot leaves the RUN's stores; nothing beside the read-out changes bytes or pens. -/
theorem storeLot_leaves {s : State} {lot : LotRef} {r : Run} {w : TileWord} (hr : (s.part lot.part).run = some r) :
    (∃ q, ((storeLot r w lot false s).part lot.part).run = some q ∧ lot ∉ q.toStore ∧ q.flight = r.flight ∧ q.doneInstr = r.doneInstr)
      ∧ (storeLot r w lot false s).hbm = (readOut r w lot s).hbm ∧ (storeLot r w lot false s).pens = (readOut r w lot s).pens := by
  have hread : ((readOut r w lot s).part lot.part).run = some r := by
    cases h : toPens w
    · rw [(readOut_toT1 h r lot s).1.same]
      exact hr
    · obtain ⟨p, e⟩ := readOut_toPens h r lot s
      rw [e]
      exact hr
  have hz := congrArg Part.run (part_updRun_some (s := countLot (storeDrover s lot.part w lot) lot.instr (readOut r w lot s))
    (by rw [part_countLot]; exact hread) fun x => { x with toStore := x.toStore.filter (· != lot) })
  obtain ⟨⟨q, hq, hstore, hflight, hdone⟩, hhbm, hpens⟩ := closeStores_leaves hz lot.instr (storeDrover s lot.part w lot) w
  have e : storeLot r w lot false s = closeStores lot.part lot.instr (storeDrover s lot.part w lot) w
      (updRun lot.part (fun x => { x with toStore := x.toStore.filter (· != lot) })
        (countLot (storeDrover s lot.part w lot) lot.instr (readOut r w lot s))) := by
    unfold storeLot
    rfl
  rw [e]
  exact ⟨⟨q, hq, by rw [hstore]; simp, hflight, hdone⟩, by rw [hhbm, updRun_hbm, countLot_hbm], by rw [hpens, updRun_pens, countLot_pens]⟩

/-- Settles O37: what decoding, starting, placing and storing change, read off the rule of each. -/
theorem tileDecoding : Obligations.TileDecoding := by
  unfold Obligations.TileDecoding
  refine ⟨fun s k r w hready => ⟨fun hf => ?decodes, fun code lp hf => ?stops⟩, fun s k j d r w => ⟨fun hready => ?starts, ?loads, ?stores⟩⟩
  case decodes =>
    obtain ⟨hd, hrun⟩ := tileDecode_decodes (decodeReady_eq_some hready) hf
    exact ⟨_, exec_tileDecode hready, hrun, hd.others, hd.hbm, hd.pens, hd.host, hd.ctxs⟩
  case stops =>
    obtain ⟨hd, hpart⟩ := tileDecode_stops (decodeReady_eq_some hready) hf
    exact ⟨_, exec_tileDecode hready, by rw [hpart], by rw [hpart], by rw [hpart], by rw [hpart], hd.others, hd.hbm, hd.pens, hd.host,
      hd.ctxs⟩
  case starts =>
    obtain ⟨f, e⟩ := droverStart_eq k j d r w s
    obtain ⟨hposting, hreqs⟩ := postedReads_posting k j d r w s
    have hrun : ((postedReads k j d r w s).part k).run = some r := by rw [hposting.part, droverReady_eq_some hready]
    have hhbm : (droverStart k j d r w s).hbm = (postedReads k j d r w s).hbm := by
      rw [e, syncDrovers_hbm, updDrover_hbm, updRun_hbm]
    obtain ⟨c, b, p, hu⟩ := hposting
    refine ⟨_, startedRun k j d r w s r, exec_droverStart hready, ?_, ?_, fun x hx => ⟨?_, fun hdirect hempty => ?_, fun v hv pa hpa => ?_⟩,
      rfl, rfl, fun i hi => ?_, ?_, ?_, ?_, ?_, ?_⟩
    · rw [e, part_syncDrovers, part_updDrover, part_updRun_some hrun]
    · by_cases ho : (j, d) ∈ r.opened <;> simp [startedRun, ho]
    · exact List.mem_append_right _ (List.mem_map_of_mem hx)
    · exact List.mem_append_right _ (List.mem_map_of_mem (List.mem_filter.2 ⟨hx, by simp [hdirect, hempty]⟩))
    · obtain ⟨q, hq, haddr, hwrite, hlot, hrank, htag⟩ := mem_lotReqs hv hpa (startAc r j d w)
      have hd : x.drover = d := by
        have := (List.mem_filter.1 hx).2
        simp only [Bool.and_eq_true] at this
        simpa using this.1.1.1
      have hy := hreqs x hx q hq
      rw [haddr] at hy
      refine ⟨q, ?_, haddr, hwrite, hlot, by rw [hrank, hd], by rw [htag, hd]⟩
      rw [pcAt, hhbm]
      exact hy
    · rw [e, part_syncDrovers, part_updDrover, part_updRun, if_neg hi, (postedReads_posting k j d r w s).1.part]
    · rw [hhbm, hu]
    · rw [hhbm, hu]
    · rw [e, syncDrovers_pens, updDrover_pens, updRun_pens, hu]
    · rw [e, syncDrovers_host, updDrover_host, updRun_host, hu]
    · rw [e, syncDrovers_ctxs, updDrover_ctxs, updRun_ctxs, hu]
  case loads =>
    intro lot x hrole hready
    obtain ⟨hr, rfl⟩ := lotReady_eq_some hready
    have hexec := exec_lotComplete_load hrole hready false
    refine ⟨fun hb hf => ?fits, fun hb hf => ?ends, fun pa hb => ?poisons⟩
    case fits =>
      obtain ⟨q, hq, hplaced, harrived⟩ := counted_run (w := w) hr
      obtain ⟨p, o, b, hsame⟩ := (placeLot_places s r w x).same
      obtain ⟨hhbm, hhost, hctxs, hplace⟩ := counted_keeps x (placeLot s r w x)
      rw [loadLot_fits hb hf] at hexec
      refine ⟨_, q, hexec, hq, hplaced, harrived, fun ha hw => ?_, ?_, ?_, ?_, ?_⟩
      · rw [pen_counted, placeLot_activation s ha hw, pen_updPen_same]
      · rw [hhbm, hsame]
      · rw [hhost, hsame]
      · rw [hctxs, hsame]
      · rw [hplace, hsame]
    case ends =>
      obtain ⟨q, hq, -, -⟩ := counted_run (w := w) hr
      have hpart := part_haltRun hq ⟨stBadArg, 0, 3, stepRefNum ⟨x.lot.instr, x.lot.round, x.lot.lpen⟩⟩
      rw [loadLot_ends hb hf] at hexec
      exact ⟨_, _, hexec, by rw [hpart]; rfl, by rw [hpart], rfl⟩
    case poisons =>
      obtain ⟨hpoison, hst, q, hq, hend⟩ := loadLot_poisons (w := w) hr hb false
      exact ⟨_, q, hexec, hpoison, hst, hq, hend⟩
  case stores =>
    intro lot hrole hready
    obtain ⟨⟨q, hq, hstore, hflight, hdone⟩, hhbm, hpens⟩ := storeLot_leaves (w := w) (storeReady_eq_some hready)
    refine ⟨_, q, exec_lotComplete_store hrole hready false, hq, hstore, hflight, hdone, ?_, fun h => ⟨?_, ?_⟩, fun h => ?_⟩
    · rw [hhbm]
      cases h : toPens w
      · exact (readOut_toT1 h r lot s).1.t2
      · obtain ⟨p, e⟩ := readOut_toPens h r lot s
        rw [e]
    · rw [hpens, (readOut_toT1 h r lot s).1.same]
    · rw [hhbm, (readOut_toT1 h r lot s).2]
    · obtain ⟨p, e⟩ := readOut_toPens h r lot s
      rw [hhbm, e]

end Sys2Proof.Machine
end

section
/-! PROOFS. Serial-number comparison of counters (R76). -/

namespace Sys2Proof.Machine

/-- The distance from a to b around a counter of n values. -/
theorem wrapped_distance {n a b : Nat} (ha : a < n) (hb : b < n) : (b + n - a) % n = if a ≤ b then b - a else b + n - a := by
  split
  case isTrue h => rw [show b + n - a = b - a + n by omega, Nat.add_mod_right, Nat.mod_eq_of_lt (by omega)]
  case isFalse h => exact Nat.mod_eq_of_lt (by omega)

/-- b is after a when its distance from a is neither 0 nor half the counter or more (R76). -/
theorem serialAfter_iff {w a b : Nat} (ha : a < 2 ^ w) (hb : b < 2 ^ w) : serialAfter w a b = true ↔
    1 ≤ (if a ≤ b then b - a else b + 2 ^ w - a) ∧ (if a ≤ b then b - a else b + 2 ^ w - a) < 2 ^ (w - 1) := by
  simp only [serialAfter, Nat.mod_eq_of_lt ha, wrapped_distance ha hb, Bool.and_eq_true, decide_eq_true_eq]

/-- Settles O11: the distances from a to b and from b to a add up to the counter's 2^w values, which are twice 2^(w-1). -/
theorem serialNumbers : Obligations.SerialNumbers := by
  unfold Obligations.SerialNumbers
  rintro w a b d hw ha hb rfl
  have half : 2 ^ w = 2 * 2 ^ (w - 1) := by rw [← pow_succ', Nat.sub_add_cancel hw]
  have hab := serialAfter_iff ha hb
  have hba := serialAfter_iff hb ha
  rw [wrapped_distance ha hb]
  rcases Nat.lt_trichotomy a b with h | rfl | h
  · simp only [h.le, h.not_ge, if_true, if_false] at hab hba ⊢
    simp only [← Bool.not_eq_true, hab, hba]
    omega
  · have hd : (if a ≤ a then a - a else a + 2 ^ w - a) = 0 := by simp
    rw [hd] at hab ⊢
    have never : serialAfter w a a = false := by simp [← Bool.not_eq_true, hab]
    simp [never]
  · simp only [h.le, h.not_ge, if_true, if_false] at hab hba ⊢
    simp only [← Bool.not_eq_true, hab, hba]
    omega

end Sys2Proof.Machine
end

section
/-! PROOFS. The end of a RUN (R74, R111, R393): what it leaves alone outside its partition, and the commands that it completes. -/

namespace Sys2Proof.Machine

/-! ## Completions of some commands in progress -/

/-- From s to t, only commands in progress that satisfy f have completed: no command is added, every other one is still found, and a
mailbox without such a command is as it was (R370, R371). -/
structure Completes (f : InProgress → Prop) (s t : State) : Prop where
  sub : ∀ x ∈ t.host.progs, x ∈ s.host.progs
  find : ∀ p : InProgress → Bool, (∀ x ∈ s.host.progs, f x → p x = false) → findProg t p = findProg s p
  mbx : ∀ i m, (∀ x ∈ s.host.progs, f x → ¬(x.post.func = i ∧ x.post.mbx = m)) → t.mbx i m = s.mbx i m

theorem Completes.of_same {f : InProgress → Prop} {s t : State} (hp : t.host.progs = s.host.progs) (hm : ∀ i m, t.mbx i m = s.mbx i m) :
    Completes f s t := ⟨fun x hx => hp ▸ hx, fun p _ => by rw [findProg, hp, findProg], fun i m _ => hm i m⟩

theorem Completes.of_host {f : InProgress → Prop} {s t : State} (h : t.host = s.host) : Completes f s t :=
  .of_same (by rw [h]) fun i m => by simp only [State.mbx, State.func, h]

theorem Completes.trans {f : InProgress → Prop} {s t u : State} (h : Completes f s t) (g : Completes f t u) : Completes f s u where
  sub := fun x hx => h.sub x (g.sub x hx)
  find := fun p hp => (g.find p fun x hx => hp x (h.sub x hx)).trans (h.find p hp)
  mbx := fun i m hx => (g.mbx i m fun x hx' => hx x (h.sub x hx')).trans (h.mbx i m hx)

theorem Completes.mono {f g : InProgress → Prop} {s t : State} (h : Completes f s t) (hfg : ∀ x, f x → g x) : Completes g s t :=
  ⟨h.sub, fun p hp => h.find p fun x hx hf => hp x hx (hfg x hf), fun i m hx => h.mbx i m fun x hx' hf => hx x hx' (hfg x hf)⟩

theorem Told.completes {f : InProgress → Prop} {s t : State} (h : Told s t) : Completes f s t := .of_same h.progs h.mbx

/-- A completed command stays so while others complete, if none of them is in its mailbox. -/
theorem Completes.ended {f : InProgress → Prop} {s t : State} (h : Completes f s t) {g : InProgress} {st : Nat} (e : Ended g st s)
    (ho : ∀ x ∈ s.host.progs, f x → ¬(x.post.func = g.post.func ∧ x.post.mbx = g.post.mbx)) : Ended g st t :=
  ⟨by rw [h.mbx _ _ ho]; exact e.complete, by rw [h.mbx _ _ ho]; exact e.idle, fun hg => e.gone (h.sub g hg)⟩

theorem completeProg_completes {g : InProgress} {s : State} (hg : g ∈ s.host.progs) (st : Nat) (res : List Byte) :
    Completes (· = g) s (completeProg g st res s) where
  sub := fun x hx => by
    rw [completeProg, writeCompletion_progs] at hx
    exact List.mem_of_mem_filter hx
  find := fun p hp => by
    rw [findProg, completeProg, writeCompletion_progs]
    change (s.host.progs.filter (· != g)).find? p = s.host.progs.find? p
    rw [List.find?_filter]
    have hpg := hp g hg rfl
    congr 1
    funext x
    by_cases hx : x = g
    · simp [hx, hpg]
    · simp [hx]
  mbx := fun i m hx => by
    rw [completeProg, mbx_writeCompletion_other _ _ _ _ _ _ _ _ _ _ fun h => hx g hg rfl ⟨h.1.symm, h.2.symm⟩]
    rfl

theorem mem_of_findProg {s : State} {p : InProgress → Bool} {g : InProgress} (h : findProg s p = some g) : g ∈ s.host.progs ∧ p g = true :=
  ⟨List.mem_of_find?_eq_some h, List.find?_some h⟩

/-! ## What the end of a RUN leaves alone -/

/-- Whether a command in progress is a RUN of one of the partitions K. -/
def isRunOf (K : Set Nat) (x : InProgress) : Prop := ∃ k ∈ K, ∃ id, x.job = .run k id

/-- What the ends of RUNs of the partitions K leave alone: the clock, the tally, the contexts, every byte of T1 and T2, and the other
partitions; of the commands in progress, only RUNs of these partitions complete. -/
structure Finishes (K : Set Nat) (s t : State) : Prop where
  same : t = { s with pens := t.pens, drovers := t.drovers, parts := t.parts, place := t.place, hbm := t.hbm, fabric := t.fabric
                      host := t.host, recov := t.recov, out := t.out }
  recov : t.recov = { s.recov with daybook := t.recov.daybook }
  t1 : t.hbm.t1 = s.hbm.t1
  t2 : t.hbm.t2 = s.hbm.t2
  others : ∀ i, i ∉ K → t.part i = s.part i
  completes : Completes (isRunOf K) s t

theorem Finishes.refl (K : Set Nat) (s : State) : Finishes K s s := ⟨rfl, rfl, rfl, rfl, fun _ _ => rfl, .of_host rfl⟩

theorem Finishes.trans {K : Set Nat} {s t u : State} (h : Finishes K s t) (g : Finishes K t u) : Finishes K s u where
  same := by
    have e := g.same
    rwa [h.same] at e
  recov := by
    have e := g.recov
    rwa [h.recov] at e
  t1 := g.t1.trans h.t1
  t2 := g.t2.trans h.t2
  others := fun i hi => (g.others i hi).trans (h.others i hi)
  completes := h.completes.trans g.completes

theorem Finishes.mono {K L : Set Nat} {s t : State} (h : Finishes K s t) (hKL : K ⊆ L) : Finishes L s t where
  same := h.same
  recov := h.recov
  t1 := h.t1
  t2 := h.t2
  others := fun i hi => h.others i fun hk => hi (hKL hk)
  completes := h.completes.mono fun _ ⟨k, hk, e⟩ => ⟨k, hKL hk, e⟩

theorem Told.finishes {K : Set Nat} {s t : State} (h : Told s t) : Finishes K s t where
  same := by
    have e := h.same
    rw [e]
  recov := h.recov
  t1 := by rw [h.hbm]
  t2 := by rw [h.hbm]
  others := fun i _ => h.part i
  completes := h.completes

theorem finishes_updPart (k : Nat) (f : Part → Part) (s : State) : Finishes {k} s (updPart k f s) :=
  ⟨rfl, rfl, rfl, rfl, fun _ hi => (part_updPart _ _ _ _).trans (if_neg hi), .of_host rfl⟩

theorem finishes_updPlace (K : Set Nat) (f : Placement → Placement) (s : State) : Finishes K s (updPlace f s) :=
  ⟨rfl, rfl, rfl, rfl, fun _ _ => rfl, .of_host rfl⟩

theorem finishes_dropReqs (K : Set Nat) (k : Nat) (f : LotRef → Bool) (s : State) : Finishes K s (dropReqs k f s) :=
  ⟨rfl, rfl, rfl, rfl, fun _ _ => rfl, .of_host rfl⟩

theorem finishes_pens {α : Type} (K : Set Nat) (g : α → Nat) (f : α → Pen → Pen) (l : List α) (s : State) :
    Finishes K s (forAll l (fun a => updPen (g a) (f a)) s) := by
  obtain ⟨p, h⟩ := forAll_updPen_same g f l s
  rw [h]
  exact ⟨rfl, rfl, rfl, rfl, fun _ _ => rfl, .of_host rfl⟩

theorem finishes_drovers (K : Set Nat) (f : Nat → Drover → Drover) (l : List Nat) (s : State) :
    Finishes K s (forAll l (fun d => updDrover d (f d)) s) := by
  obtain ⟨d, h⟩ := forAll_updDrover_same f l s
  rw [h]
  exact ⟨rfl, rfl, rfl, rfl, fun _ _ => rfl, .of_host rfl⟩

theorem finishes_gates {α : Type} (K : Set Nat) (g : α → Nat) (f : α → Gate → Gate) (l : List α) (s : State) :
    Finishes K s (forAll l (fun a => updGate (g a) (f a)) s) := by
  obtain ⟨b, h⟩ := forAll_updGate_same g f l s
  rw [h]
  exact ⟨rfl, rfl, rfl, rfl, fun _ _ => rfl, .of_host rfl⟩

theorem finishes_syncDrovers (K : Set Nat) (i : Nat) (s : State) : Finishes K s (syncDrovers i s) := by
  obtain ⟨d, h⟩ := syncDrovers_same i s
  rw [h]
  exact ⟨rfl, rfl, rfl, rfl, fun _ _ => rfl, .of_host rfl⟩

theorem host_forAll_updPen {α : Type} (g : α → Nat) (f : α → Pen → Pen) (l : List α) (s : State) :
    (forAll l (fun a => updPen (g a) (f a)) s).host = s.host := by
  obtain ⟨p, h⟩ := forAll_updPen_same g f l s; rw [h]

theorem host_forAll_updGate {α : Type} (g : α → Nat) (f : α → Gate → Gate) (l : List α) (s : State) :
    (forAll l (fun a => updGate (g a) (f a)) s).host = s.host := by
  obtain ⟨b, h⟩ := forAll_updGate_same g f l s; rw [h]

theorem quiesce_finishes {k : Nat} {s : State} {r : Run} (hr : (s.part k).run = some r) (b : Bool) : Finishes {k} s (quiesce k b s) := by
  unfold quiesce
  rw [hr]
  exact (finishes_pens {k} (fun p : Nat => p) _ _ s).trans <| (finishes_updPart k _ _).trans <|
    (finishes_gates {k} (fun g : Nat => g) _ _ _).trans <| (finishes_syncDrovers {k} k _).trans <| (finishes_dropReqs {k} k _ _).trans
    (told_partEvent _ _ _).finishes

theorem quiesce_progs {k : Nat} {s : State} {r : Run} (hr : (s.part k).run = some r) (b : Bool) :
    (quiesce k b s).host.progs = s.host.progs := by
  unfold quiesce
  rw [hr]
  dsimp only
  rw [(told_partEvent _ _ _).progs, dropReqs, updHbm_host, syncDrovers_host, host_forAll_updGate (fun g : Nat => g), updPart_host,
    host_forAll_updPen (fun p : Nat => p)]

/-! ## The completion of a RUN -/

theorem completeRun_finishes (k : Nat) (r : Run) (st c w i : Nat) (s : State) : Finishes {k} s (completeRun k r st c w i s) := by
  unfold completeRun
  split
  case h_1 g hg =>
    obtain ⟨hmem, hjob⟩ := mem_of_findProg hg
    obtain ⟨f, hf⟩ := completeProg_told st s g (runRecord r.id c w i r.shift 0 (now s) r.trouble)
    have hcomp := (completeProg_completes hmem st (runRecord r.id c w i r.shift 0 (now s) r.trouble)).mono
      (g := isRunOf {k}) fun x hx => ⟨k, rfl, r.id, by rw [hx]; simpa using hjob⟩
    refine ⟨?_, hf.recov, by rw [hf.hbm]; rfl, by rw [hf.hbm]; rfl, fun j _ => hf.part j, hcomp⟩
    have e := hf.same
    rw [e]
    rfl
  case h_2 => exact Finishes.refl {k} s

theorem part_completeRun (k : Nat) (r : Run) (st c w i : Nat) (s : State) (j : Nat) : (completeRun k r st c w i s).part j = s.part j := by
  unfold completeRun
  split
  · obtain ⟨f, hf⟩ := completeProg_told st s _ (runRecord r.id c w i r.shift 0 (now s) r.trouble)
    exact hf.part j
  · rfl

theorem completeRun_ended {k : Nat} {r : Run} {s : State} {g : InProgress} (hg : findProg s (fun x => x.job == .run k r.id) = some g)
    (st c w i : Nat) : Ended g st (completeRun k r st c w i s) := by
  simp only [completeRun, hg]
  exact completeProg_ended _ _ _ _

/-! ## The end of a RUN -/

/-- A partition after its RUN has ended (R390, R393): the waiting RUN takes its place, or it is idle. -/
def afterRun (q : Part) : Part :=
  { (match q.waiting with
      | some w => { q with run := some w, waiting := none, st := .accepted, retry := false, lag := 0, slips := 0, retries := 0 }
      | none => { q with run := none, st := .idle, retry := false, lag := 0, slips := 0 }) with changes := [] }

theorem afterRun_idle {q : Part} (h : q.waiting = none) :
    afterRun q = { q with run := none, st := .idle, retry := false, lag := 0, slips := 0, changes := [] } := by
  simp [afterRun, h]

theorem settlePages_finishes (k : Nat) (q : Part) (s : State) : Finishes {k} s (settlePages q s) ∧ (settlePages q s).part k = s.part k
    ∧ (settlePages q s).host = s.host := by
  obtain ⟨p, h⟩ : ∃ p, settlePages q s = { s with place := p } := by
    unfold settlePages
    refine forAll_induct (P := fun u => ∃ p, u = { s with place := p }) ?_ _ ⟨s.place, rfl⟩
    rintro f u ⟨p, rfl⟩
    exact ⟨_, rfl⟩
  rw [h]
  exact ⟨⟨rfl, rfl, rfl, rfl, fun _ _ => rfl, .of_host rfl⟩, rfl, rfl⟩

/-- The slots, drovers, gates and queued reads of a partition whose RUN is over. -/
def cleared (k : Nat) (s : State) : State := dropReqs k (fun _ => true) (clearDrovers k (freeSlots k s))

theorem cleared_finishes (k : Nat) (s : State) : Finishes {k} s (cleared k s) ∧ (cleared k s).part k = s.part k
    ∧ (cleared k s).host = s.host := by
  obtain ⟨p, hp⟩ := forAll_updPen_same (fun p : Nat => p) (fun _ q =>
    { q with slots := [], grants := [], restore := [], restoreSlot := none, active := false, attn := { q.attn with at_ := false }
             rowu := { q.rowu with busy := false }, win := { q.win with valid0 := false, valid1 := false } }) (pensOf s k) s
  have h1 : freeSlots k s = { s with pens := p } := hp
  unfold cleared clearDrovers
  rw [h1]
  obtain ⟨d, hd⟩ := forAll_updDrover_same (fun _ v => { v with work := [] })
    ((List.range 160).filter fun d => (droverParts { s with pens := p } d).contains k) { s with pens := p }
  obtain ⟨b, hb⟩ := forAll_updGate_same (fun g : Nat => g) (fun _ v =>
    { v with sends := v.sends.filter fun h => h.part != k, recvs := v.recvs.filter fun h => h.part != k })
    (gatesOf { s with pens := p } k) { s with pens := p, drovers := d }
  rw [hd, hb]
  exact ⟨⟨rfl, rfl, rfl, rfl, fun _ _ => rfl, .of_host rfl⟩, rfl, rfl⟩

section
variable {k : Nat} {s : State} {r : Run} (hr : (s.part k).run = some r)
include hr

theorem endRun_eq (st c w i : Nat) :
    endRun k st c w i s = settleChanges k (nextRunOf k (cleared k (completeRun k r st c w i s))) := by
  unfold endRun
  rw [hr]
  rfl

theorem endRun_finishes (st c w i : Nat) : Finishes {k} s (endRun k st c w i s) := by
  rw [endRun_eq hr]
  exact ((completeRun_finishes k r st c w i s).trans (cleared_finishes k _).1).trans <| (finishes_updPart k _ _).trans <|
    (settlePages_finishes k _ _).1.trans (finishes_updPart k _ _)

/-- The end of a RUN leaves its partition to the waiting RUN, or idle. -/
theorem part_endRun (st c w i : Nat) : (endRun k st c w i s).part k = afterRun (s.part k) := by
  rw [endRun_eq hr, settleChanges, part_updPart_same, (settlePages_finishes k _ _).2.1, nextRunOf, part_updPart_same,
    (cleared_finishes k _).2.1, part_completeRun]
  unfold afterRun
  cases (s.part k).waiting <;> rfl

theorem endRun_ended {g : InProgress} (hg : findProg s (fun x => x.job == .run k r.id) = some g) (st c w i : Nat) :
    Ended g st (endRun k st c w i s) := by
  have e := completeRun_ended hg st c w i
  have hhost : (endRun k st c w i s).host = (completeRun k r st c w i s).host := by
    rw [endRun_eq hr, settleChanges, updPart_host, (settlePages_finishes k _ _).2.2, nextRunOf, updPart_host, (cleared_finishes k _).2.2]
  exact (Completes.of_host (f := fun _ => False) hhost).ended e fun _ _ h => h.elim

end

/-- The end of a waiting RUN takes it out of its partition. -/
theorem endWaiting_finishes {k : Nat} {s : State} {r : Run} (hr : (s.part k).waiting = some r) (st c : Nat) :
    Finishes {k} s (endWaiting k st c s) ∧ (endWaiting k st c s).part k = { s.part k with waiting := none } := by
  unfold endWaiting
  rw [hr]
  exact ⟨(completeRun_finishes k r st c 0 0 s).trans (finishes_updPart k _ _), by rw [part_updPart_same, part_completeRun]⟩

/-! ## Folds over partitions -/

/-- A fold over distinct keys works on key k once, with keys other than k before and after it. -/
theorem forAll_split {α σ : Type} {f : α → σ → σ} {k : α} {l : List α} (hd : l.Nodup) (hk : k ∈ l) (s : σ) :
    ∃ l1 l2, k ∉ l1 ∧ k ∉ l2 ∧ forAll l f s = forAll l2 f (f k (forAll l1 f s)) := by
  obtain ⟨l1, l2, rfl⟩ := List.append_of_mem hk
  rw [List.nodup_append] at hd
  obtain ⟨-, h2, h12⟩ := hd
  refine ⟨l1, l2, fun h => h12 k h k List.mem_cons_self rfl, (List.nodup_cons.1 h2).1, ?_⟩
  simp [forAll, List.foldl_append]

/-- What every change by a member of a list keeps true, a fold over the list does. -/
theorem forAll_induct_mem {α σ : Type} {P : σ → Prop} {f : α → σ → σ} :
    ∀ {l : List α}, (∀ a ∈ l, ∀ u, P u → P (f a u)) → ∀ {s : σ}, P s →
    P (forAll l f s)
  | [], _, _, h => h
  | a :: l, hf, s, h => by
    rw [forAll_cons]
    exact forAll_induct_mem (fun b hb => hf b (List.mem_cons_of_mem a hb)) (hf a List.mem_cons_self s h)

end Sys2Proof.Machine
end

section
/-! PROOFS. The tally unit: its states and phase errors, the election, its inputs, and its configuration (R49 to R55, R344 to R347). -/

namespace Sys2Proof.Machine

/-! ## Changes of the tally unit -/

/-- t differs from s in the tally unit, which is z, and in what the shepherd tells of it. -/
def Retuned (z : Tally) (s t : State) : Prop := Told { s with tally := z } t

theorem retuned_updTally (f : Tally → Tally) (s : State) : Retuned (f s.tally) s (updTally f s) := Told.refl _

namespace Retuned
variable {z : Tally} {s t : State} (h : Retuned z s t)
include h

theorem trans {y : Tally} {u : State} (g : Retuned y t u) : Retuned y s u := by
  have h : Told { s with tally := z } t := h
  have e : Told { s with tally := y } { t with tally := y } := ⟨by rw [h.same], h.host, h.recov, h.mbx, h.out⟩
  exact e.trans g

theorem told {u : State} (g : Told t u) : Retuned z s u := Told.trans h g

theorem tally : t.tally = z := by rw [Told.same h]
theorem clock : t.clock = s.clock := by rw [Told.same h]
theorem parts : t.parts = s.parts := by rw [Told.same h]
theorem hbm : t.hbm = s.hbm := by rw [Told.same h]
theorem place : t.place = s.place := by rw [Told.same h]
theorem ctxs : t.ctxs = s.ctxs := by rw [Told.same h]
theorem pens : t.pens = s.pens := by rw [Told.same h]
theorem copies : t.host.copies = s.host.copies := by rw [Told.host h]
theorem mbx (f m : Nat) : t.mbx f m = s.mbx f m := Told.mbx h f m

end Retuned

/-- The unit takes a state (R366). -/
theorem tallyTo_retuned (st : TallyState) (s : State) : Retuned { s.tally with st := st } s (tallyTo st s) := by
  unfold tallyTo
  split
  case isTrue h => rw [← h]; exact Told.refl s
  case isFalse => exact (retuned_updTally (fun t => { t with st := st }) s).told ((told_daybook _ _ _ _ _ _).trans (told_setEvent _ _ _))

theorem enterLocked_retuned (s : State) : Retuned { s.tally with st := .locked, hold := 0 } s (enterLocked s) :=
  (retuned_updTally (fun t => { t with hold := 0 }) s).trans (tallyTo_retuned _ _)

theorem enterHoldover_retuned (s : State) : Retuned { s.tally with st := .holdover, hold := 0 } s (enterHoldover s) :=
  (retuned_updTally (fun t => { t with hold := 0 }) s).trans (tallyTo_retuned _ _)

theorem enterUnlocked_retuned (s : State) :
    Retuned { s.tally with st := .unlocked, selected := false, lostPending := true } s (enterUnlocked s) :=
  (retuned_updTally (fun t => { t with selected := false, lostPending := true }) s).trans (tallyTo_retuned _ _)

/-! ## Phase errors (R49, R50) -/

theorem phaseFits_iff (z : Int) : phaseFits z = true ↔ -200 ≤ z ∧ z ≤ 200 := by
  simp [phaseFits]

/-- A phase error while the unit is not locked, or within 2 ns, leaves the unit's state as it is. -/
theorem measured_within {z : Int} {s : State} (h : s.tally.st ≠ .locked ∨ (-200 ≤ z ∧ z ≤ 200)) :
    measured z s = updTally (fun t => { t with phase := z, slew := z }) s := by
  rw [← phaseFits_iff] at h
  have hc : (s.tally.st = .locked && !phaseFits z) = false := by
    rcases h with h | h <;> simp [h]
  simp only [measured, hc]
  rfl

/-- A greater error of a locked unit unlocks it. -/
theorem measured_beyond {z : Int} {s : State} (hl : s.tally.st = .locked) (h : z < -200 ∨ 200 < z) :
    Retuned { s.tally with st := .unlocked, selected := false, lostPending := true, phase := z, slew := z } s (measured z s) := by
  have hz : phaseFits z = false := by rw [← Bool.not_eq_true, phaseFits_iff]; omega
  have e : measured z s = enterUnlocked (updTally (fun t => { t with phase := z, slew := z }) s) := by
    simp only [measured, hl, hz]
    rfl
  rw [e]
  exact (retuned_updTally (fun t => { t with phase := z, slew := z }) s).trans (enterUnlocked_retuned _)

/-! ## The election (R344) -/

/-- The unit follows a candidate: through its gate, or by the module's INPUT. -/
def follow (c : Candidate) (t : Tally) : Tally :=
  { t with selected := true
           source := if c.gate.isSome then 0 else (inputSource t.input).1
           gate := c.gate.getD (inputSource t.input).2
           following := ⟨c.id, c.prio, c.steps, 0⟩ }

/-- The unit follows nobody. -/
def unled (t : Tally) : Tally := { t with selected := false, source := 0, gate := 0 }

/-- What the election may change of the unit's state: HOLD returns to 0 only where the unit leaves HOLDOVER, or enters it (R51). -/
def Settles (z : Tally) (s t : State) : Prop :=
  ∃ st hold, Retuned { z with st := st, hold := hold } s t ∧ (s.tally.st = .holdover → st = .holdover → hold = z.hold)

theorem afterSelect_settles (s : State) : Settles s.tally s (afterSelect s) := by
  unfold afterSelect
  split
  · split
    · exact ⟨_, _, Told.refl s, fun _ _ => rfl⟩
    · exact ⟨_, _, enterLocked_retuned s, fun _ h => by cases h⟩
  · split
    · exact ⟨_, _, tallyTo_retuned .acquiring s, fun _ h => by cases h⟩
    · exact ⟨_, _, Told.refl s, fun _ _ => rfl⟩

theorem loseSource_settles (s : State) : Settles (unled s.tally) s (loseSource s) := by
  have hc : Retuned (unled s.tally) s (clearSource s) := retuned_updTally unled s
  unfold loseSource
  split
  case h_1 hl => exact ⟨_, _, hc.trans (enterHoldover_retuned _), fun h => by rw [hl] at h; cases h⟩
  case h_2 ha => exact ⟨_, _, hc.trans (tallyTo_retuned .unlocked _), fun _ h => by cases h⟩
  case h_3 => exact ⟨_, _, hc, fun _ _ => rfl⟩

theorem Settles.of_retuned {y z : Tally} {s t u : State} (h : Retuned y s t) (g : Settles z t u) (hy : y.st = s.tally.st) :
    Settles z s u := by
  obtain ⟨st, hold, g, hh⟩ := g
  exact ⟨st, hold, h.trans g, fun hs => hh (by rw [h.tally, hy, hs])⟩

theorem elect_some {s : State} {c : Candidate} (h0 : s.tally.setTime = 0) (h : bestCandidate s s.tally.gmPrio = some c) :
    elect s = afterSelect (updTally (follow c) s) := by
  simp only [elect, h0, h]
  cases hg : c.gate <;> simp only [updTally, follow, hg] <;> rfl

theorem elect_none {s : State} (h0 : s.tally.setTime = 0) (h : bestCandidate s s.tally.gmPrio = none) : elect s = loseSource s := by
  simp only [elect, h0, h]
  rfl

theorem elect_settles_some {s : State} {c : Candidate} (h0 : s.tally.setTime = 0) (h : bestCandidate s s.tally.gmPrio = some c) :
    Settles (follow c s.tally) s (elect s) := by
  rw [elect_some h0 h]
  exact .of_retuned (retuned_updTally (follow c) s) (afterSelect_settles _) rfl

theorem elect_settles_none {s : State} (h0 : s.tally.setTime = 0) (h : bestCandidate s s.tally.gmPrio = none) :
    Settles (unled s.tally) s (elect s) := by
  rw [elect_none h0 h]
  exact loseSource_settles s

/-- Whoever is elected, the election changes the source and the state alone. -/
theorem elect_settles (s : State) : ∃ z, Settles z s (elect s) ∧ z.hold = s.tally.hold ∧ z.setTime = s.tally.setTime := by
  by_cases h0 : s.tally.setTime = 0
  · cases h : bestCandidate s s.tally.gmPrio with
    | none => exact ⟨_, elect_settles_none h0 h, rfl, rfl⟩
    | some c => exact ⟨_, elect_settles_some h0 h, rfl, rfl⟩
  · have e : elect s = s := by simp [elect, h0]
    rw [e]
    exact ⟨s.tally, ⟨_, _, Told.refl s, fun _ _ => rfl⟩, rfl, rfl⟩

/-! ## Events of the unit (R49 to R52) -/

section
variable {s : State} {z : Int}

theorem event_of {name : String} {b : Bool} {t : State} (h : b = true) : event name b t = .next t := if_pos h

theorem exec_tallyLocked {ns : Nat} (hs : s.tally.st = .acquiring) (hz : -200 ≤ z ∧ z ≤ 200) (hr : ns = 0 ∨ noRuns s = true) :
    exec (.tallyLocked ns z) s = .next (enterLocked (measured z (if ns = 0 then s else stepTally (tlyTime s + ns) s))) := by
  refine event_of ?_
  rcases hr with hr | hr <;> simp [hs, (phaseFits_iff z).2 hz, hr]

theorem exec_tallyUnlock (hs : s.tally.st = .locked) (hz : z < -200 ∨ 200 < z) :
    exec (.tallyUnlock z) s = .next (measured z s) := by
  have hf : phaseFits z = false := by rw [← Bool.not_eq_true, phaseFits_iff]; omega
  exact event_of (by simp [hs, hf])

theorem exec_tallySourceLost (hs : s.tally.st = .locked) (h3 : s.tally.source ≠ 3) :
    exec .tallySourceLost s = .next (enterHoldover s) := event_of (by simp [hs, h3])

theorem exec_tallySourceReturn (hs : s.tally.st = .holdover) (hsel : s.tally.selected = true) (hh : s.tally.hold < 200)
    (hz : -200 ≤ z ∧ z ≤ 200) : exec (.tallySourceReturn z) s = .next (enterLocked (measured z s)) :=
  event_of (by simp [hs, hsel, hh, (phaseFits_iff z).2 hz])

theorem exec_holdoverExpired (hs : s.tally.st = .holdover) (hh : s.tally.hold = 200) (ha : s.clock.acb = 0) :
    exec .holdoverExpired s = .next (enterUnlocked s) := event_of (by simp [hs, hh, ha])

/-- A unit that is not locked locks on an error within 2 ns. -/
theorem lock_retuned (hs : s.tally.st ≠ .locked) :
    Retuned { s.tally with st := .locked, hold := 0, phase := z, slew := z } s (enterLocked (measured z s)) := by
  rw [measured_within (.inl hs)]
  exact (retuned_updTally (fun t => { t with phase := z, slew := z }) s).trans (enterLocked_retuned _)

end

/-! ## Steps of tally time (R50, R347) -/

theorem raiseDue_same (d : Nat) (s : State) : ∃ f, raiseDue d s = { s with host := { s.host with funcs := f } } := by
  unfold raiseDue
  refine forAll_induct (P := fun u => ∃ f, u = { s with host := { s.host with funcs := f } }) ?_ _ ⟨s.host.funcs, rfl⟩
  rintro g u ⟨f, rfl⟩
  exact ⟨_, rfl⟩

/-- What a step of tally time leaves alone, and where it takes the clock. -/
structure Jumps (ns : Nat) (s t : State) : Prop where
  clock : t.clock = { s.clock with beat := ns / 50000, acb := ns % 50000 * 13 / 10 }
  tally : t.tally = s.tally
  parts : t.parts = s.parts
  pens : t.pens = s.pens
  hbm : t.hbm = s.hbm
  ctxs : t.ctxs = s.ctxs
  copies : t.host.copies = s.host.copies.map fun c => { c with since := c.since + (ns / 50000 - s.clock.beat) }

/-- Moving the bounds touches none of what a step of tally time keeps. -/
theorem shiftBounds_leaves (d : Nat) (s : State) : let t := shiftBounds d s
    t.clock = s.clock ∧ t.tally = s.tally ∧ t.parts = s.parts ∧ t.pens = s.pens ∧ t.hbm = s.hbm ∧ t.ctxs = s.ctxs
      ∧ t.host.copies = s.host.copies.map fun c => { c with since := c.since + d } := by
  simp [shiftBounds]

theorem stepTally_jumps (ns : Nat) (s : State) : Jumps ns s (stepTally ns s) := by
  obtain ⟨f, hf⟩ := raiseDue_same (ns / 50000 - s.clock.beat) s
  unfold stepTally
  dsimp only
  split
  case isTrue h => exact ⟨rfl, rfl, rfl, rfl, rfl, rfl, by simp [h]⟩
  case isFalse =>
    obtain ⟨hclock, htally, hparts, hpens, hhbm, hctxs, hcopies⟩ :=
      shiftBounds_leaves (ns / 50000 - s.clock.beat) (raiseDue (ns / 50000 - s.clock.beat) s)
    rw [hf] at hclock htally hparts hpens hhbm hctxs hcopies ⊢
    exact ⟨by rw [hclock], htally, hparts, hpens, hhbm, hctxs, hcopies⟩

/-! ## TALLY_IN (R345) -/

section
variable {code : Nat} {phase : Int} {s : State}

theorem exec_tallyCode : exec (.tallyCode code phase) s = .next (tallyCodeIn code phase s) := rfl

theorem tallyCodeIn_ignored (h : s.tally.input ≠ 1 ∨ code / 2 ^ 112 ≠ crc16 (leBytes 14 (code % 2 ^ 112))) :
    tallyCodeIn code phase s = s := by
  unfold tallyCodeIn
  exact if_neg (by simpa [imp_iff_not_or] using h)

/-- A good code clears the count of missed ones; one that the unit follows gives the phase, less TALLY_IN_DELAY. -/
theorem tallyCodeIn_good (hi : s.tally.input = 1) (hc : code / 2 ^ 112 = crc16 (leBytes 14 (code % 2 ^ 112))) :
    tallyCodeIn code phase s =
      if s.tally.selected = true ∧ s.tally.source = 1 then
        measured (phase - (divEven s.tally.inDelay 10 : Nat)) (updTally (fun t => { t with codeMiss := 0 }) s)
      else updTally (fun t => { t with codeMiss := 0 }) s := by
  unfold tallyCodeIn
  rw [if_pos (by simpa [hi] using hc)]
  simp

theorem exec_tallyInLoss (hm : s.tally.codeMiss = 4) (hsel : s.tally.selected = true) (h1 : s.tally.source = 1)
    (hl : s.tally.st = .locked) : exec .tallyInLoss s = .next (enterHoldover s) :=
  event_of (by simp [tallyInLost, hm, hsel, h1, hl])

end

/-! ## PTP messages (R346) -/

/-- The phase error that a Sync or a Follow_Up gives, in 10 ps. -/
def ptpError (s : State) (m l : Nat) : Int := ((l : Int) - (m : Int) + (s.tally.ptpOffset : Int) - (s.tally.pathDelayNs : Int)) * 100

section
variable {g : Nat} {s : State} (hsel : s.tally.selected = true) (h2 : s.tally.source = 2) (hg : s.tally.gate = g)
  (he : gateEthernet s g = true) (hup : (s.gate g).st = 2)
include hsel h2 hg he hup

theorem exec_ptpMessage_selected (msg : PtpMessage) : exec (.ptpMessage g msg) s = .next (match msg with
    | .sync m l => emit (.delayRequest g) (measured (ptpError s m l) s)
    | .followUp m l => measured (ptpError s m l) s
    | .delayResponse d => updTally (fun u => { u with pathDelayNs := d }) s
    | .other => s) := by
  have hm : (s.tally.selected && s.tally.source == 2 && s.tally.gate == g && gateEthernet s g && (s.gate g).st == 2) = true := by
    simp [hsel, h2, hg, he, hup]
  change execPtpMessage g msg s = _
  simp only [execPtpMessage, ptpMessage, hm]
  cases msg <;> rfl

end

theorem exec_ptpMessage_other {g : Nat} {s : State} (h : s.tally.selected = false ∨ s.tally.source ≠ 2 ∨ s.tally.gate ≠ g)
    (msg : PtpMessage) : exec (.ptpMessage g msg) s = .next s := by
  change execPtpMessage g msg s = _
  have hm : (s.tally.selected && s.tally.source == 2 && s.tally.gate == g && gateEthernet s g && (s.gate g).st == 2) = false := by
    rcases h with h | h | h <;> simp [h]
  simp only [execPtpMessage, ptpMessage, hm]
  rfl

/-- What a phase error leaves: the phase is noted, and a locked unit beyond 2 ns is unlocked (R50). -/
structure Measures (z : Int) (s t : State) : Prop where
  phase : t.tally.phase = z
  slew : t.tally.slew = z
  beyond : s.tally.st = .locked ∧ (z < -200 ∨ 200 < z) → t.tally.st = .unlocked ∧ t.tally.lostPending = true
  within : ¬(s.tally.st = .locked ∧ (z < -200 ∨ 200 < z)) → t.tally.st = s.tally.st ∧ t.tally.lostPending = s.tally.lostPending
  parts : t.parts = s.parts
  hbm : t.hbm = s.hbm

theorem measured_measures (z : Int) (s : State) : Measures z s (measured z s) := by
  by_cases h : s.tally.st = .locked ∧ (z < -200 ∨ 200 < z)
  · have r := measured_beyond h.1 h.2
    exact ⟨by rw [r.tally], by rw [r.tally], fun _ => by rw [r.tally]; exact ⟨rfl, rfl⟩, fun hn => absurd h hn, r.parts, r.hbm⟩
  · have hw : s.tally.st ≠ .locked ∨ (-200 ≤ z ∧ z ≤ 200) := (not_and_or.1 h).imp_right (by omega)
    rw [measured_within hw]
    exact ⟨rfl, rfl, fun hn => absurd hn h, fun _ => ⟨rfl, rfl⟩, rfl, rfl⟩

/-- Settles O46: a code by its CRC and its source, a PTP message by its gate and kind; either phase error as `measured_measures` says. -/
theorem tallyInputs : Obligations.TallyInputs := by
  unfold Obligations.TallyInputs
  intro s
  refine ⟨fun code phase z hi hc hz => ⟨fun hn => ?unfollowed, fun hsel h1 hw => ?within, fun hsel h1 hl hb => ?beyond⟩,
    fun code phase h => ?ignored, fun hm hsel h1 hl => ?loss, fun g m l z hsel h2 hg he hup hz => ?ptp, fun g m h => exec_ptpMessage_other h m⟩
  case unfollowed =>
    refine ⟨_, exec_tallyCode, ?_⟩
    rw [tallyCodeIn_good hi hc, if_neg (by rcases hn with hn | hn <;> simp [hn])]
  case within =>
    refine ⟨_, exec_tallyCode, ?_⟩
    rw [tallyCodeIn_good hi hc, if_pos ⟨hsel, h1⟩, ← hz]
    exact measured_within hw
  case beyond =>
    have h := measured_beyond (s := updTally (fun t => { t with codeMiss := 0 }) s) hl hb
    refine ⟨_, exec_tallyCode, ?_⟩
    rw [tallyCodeIn_good hi hc, if_pos ⟨hsel, h1⟩, ← hz]
    exact ⟨h.tally, h.parts, h.hbm⟩
  case ignored => rw [exec_tallyCode, tallyCodeIn_ignored h]
  case loss =>
    have h := enterHoldover_retuned s
    exact ⟨_, exec_tallyInLoss hm hsel h1 hl, h.tally, h.parts, h.hbm⟩
  case ptp =>
    obtain ⟨hphase, hslew, hbeyond, hwithin, hparts, hhbm⟩ := measured_measures z s
    have exec_msg := exec_ptpMessage_selected hsel h2 hg he hup
    obtain rfl : z = ptpError s m l := hz
    exact ⟨⟨_, exec_msg (.sync m l), List.mem_cons_self, hphase, hslew, hbeyond, hwithin, hparts, hhbm⟩,
      ⟨_, exec_msg (.followUp m l), hphase, hslew, hbeyond, hwithin, hparts, hhbm⟩, exec_msg (.delayResponse m), exec_msg .other⟩

/-! ## TALLY.CONFIG (R347) -/

/-- The unit with a configuration that was sampled in a beat. -/
def configured (prio input delay offset set beat : Nat) (t : Tally) : Tally :=
  { t with gmPrio := prio, input := input, inDelay := delay, ptpOffset := offset, setTime := set, setAt := beat, codeMiss := 0 }

/-- Whether the gates allow an INPUT (R347). -/
def inputAllowed (s : State) (input : Nat) : Prop :=
  input ≤ 3 ∧ (input = 2 → gateEthernet s 7 = true) ∧ (input = 3 → gateEthernet s 15 = true)

section
variable {p : Post} {prio input delay offset set : Nat} {s : State}

theorem exec_tallyConfig (hp : Posts p rowTallyConfig 3 s) {st : Nat} {u : State}
    (hb : tallyConfigBody prio input delay offset set (taken p s) = .done st [] u) :
    exec (.tallyConfig p prio input delay offset set) s = .next (finish p st [] u) := by
  change execTallyConfig p prio input delay offset set s = _
  rw [execTallyConfig, mailbox_finish hp hb]

theorem tallyConfigBody_refuses_input (h : 3 < input ∨ input = 2 ∧ gateEthernet s 7 = false ∨ input = 3 ∧ gateEthernet s 15 = false) :
    tallyConfigBody prio input delay offset set s = .done stBadArg [] s := by
  have hc : (decide (3 < input) || (input == 2 && !gateEthernet s 7) || (input == 3 && !gateEthernet s 15)) = true := by
    rcases h with h | ⟨h, hg⟩ | ⟨h, hg⟩
    · simp [h]
    · simp [h, hg]
    · simp [h, hg]
  simp only [tallyConfigBody, hc, if_true]

/-- With an INPUT that the gates allow, SET_TIME decides. -/
theorem tallyConfigBody_allowed (h : inputAllowed s input) : tallyConfigBody prio input delay offset set s =
    let t := updTally (configured prio input delay offset set s.clock.beat) s
    if set = 0 then .done stOk [] (elect t)
    else if set % 50000 ≠ 0 ∨ set ≤ 50000 * (s.clock.beat + 1) then .done stBadArg [] s
    else if noRuns s = false ∨ s.tally.st ≠ .unlocked ∨ isGrandmaster s prio = false then .done stBadState [] s
    else .done stOk [] t := by
  obtain ⟨h3, h7, h15⟩ := h
  have hc : (decide (3 < input) || (input == 2 && !gateEthernet s 7) || (input == 3 && !gateEthernet s 15)) = false := by
    simp only [Bool.or_eq_false_iff, Bool.and_eq_false_iff, decide_eq_false_iff_not, beq_eq_false_iff_ne, Bool.not_eq_false']
    exact ⟨⟨Nat.not_lt.2 h3, or_iff_not_imp_left.2 fun h => h7 (not_not.1 h)⟩, or_iff_not_imp_left.2 fun h => h15 (not_not.1 h)⟩
  simp only [tallyConfigBody, hc, Bool.false_eq_true, if_false, Bool.or_eq_true, bne_iff_ne, decide_eq_true_eq, Bool.not_eq_true',
    or_assoc]
  rfl

end

theorem inputAllowed_taken {s : State} {input : Nat} (p : Post) (h : inputAllowed s input) : inputAllowed (taken p s) input := h

@[simp] theorem noRuns_taken (p : Post) (s : State) : noRuns (taken p s) = noRuns s := rfl
@[simp] theorem isGrandmaster_taken (p : Post) (s : State) (n : Nat) : isGrandmaster (taken p s) n = isGrandmaster s n := rfl

/-- The election that follows TALLY.CONFIG: what it leaves, and whom the unit follows (R344, R347). -/
structure Elects (u t : State) : Prop where
  kept : t.tally.gmPrio = u.tally.gmPrio ∧ t.tally.input = u.tally.input ∧ t.tally.inDelay = u.tally.inDelay
    ∧ t.tally.ptpOffset = u.tally.ptpOffset ∧ t.tally.setTime = 0
  led : ∀ c, bestCandidate u u.tally.gmPrio = some c → t.tally.selected = true ∧ t.tally.following = ⟨c.id, c.prio, c.steps, 0⟩
    ∧ (∀ g, c.gate = some g → t.tally.source = 0 ∧ t.tally.gate = g)
    ∧ (c.gate = none → (t.tally.source, t.tally.gate) = inputSource u.tally.input)
  unled : bestCandidate u u.tally.gmPrio = none → t.tally.selected = false
  retuned : ∃ z, Retuned z u t

theorem elect_elects {u : State} (h0 : u.tally.setTime = 0) : Elects u (elect u) := by
  cases h : bestCandidate u u.tally.gmPrio with
  | none =>
    obtain ⟨st, hold, e, -⟩ := elect_settles_none h0 h
    refine ⟨?_, ?_, fun _ => by rw [e.tally]; rfl, _, e⟩
    · rw [e.tally]; exact ⟨rfl, rfl, rfl, rfl, h0⟩
    · rw [h]; rintro c ⟨⟩
  | some c =>
    obtain ⟨st, hold, e, -⟩ := elect_settles_some h0 h
    refine ⟨?_, ?_, ?_, _, e⟩
    · rw [e.tally]; exact ⟨rfl, rfl, rfl, rfl, h0⟩
    · rw [h, e.tally]
      rintro _ ⟨⟩
      exact ⟨rfl, rfl, fun g hg => by simp [follow, hg], fun hg => by simp [follow, hg]⟩
    · rw [h]; rintro ⟨⟩

/-! ## SET_TIME (R50, R347) -/

theorem exec_setTimeApply {s : State} (h0 : s.tally.setTime ≠ 0) (ha : s.clock.acb = 0) (hb : s.clock.beat = s.tally.setAt + 1) :
    exec .setTimeApply s = .next (elect (updTally (fun t => { t with setTime := 0 })
      (if maySetTime s then stepTally s.tally.setTime s else s))) := event_of (by simp [setTimeDue, h0, ha, hb])

/-- Settles O47: the checks of TALLY.CONFIG in their order, and the election that follows; SET_TIME steps tally time before it. -/
theorem tallyConfiguration : Obligations.TallyConfiguration := by
  unfold Obligations.TallyConfiguration
  refine ⟨?config, ?setTime⟩
  case config =>
    rintro p prio input delay offset set s _ rfl hp
    refine ⟨fun h => exec_tallyConfig hp (tallyConfigBody_refuses_input h), fun h3 h7 h15 => ?_⟩
    have body := tallyConfigBody_allowed (prio := prio) (delay := delay) (offset := offset) (set := set)
      (inputAllowed_taken p ⟨h3, h7, h15⟩)
    rw [taken_beat, noRuns_taken, taken_tally, isGrandmaster_taken] at body
    refine ⟨fun h0 => ?none, fun h0 hbad => ?early, fun hw hl hbad => ?state, fun hw hl hr hu hg => ?set⟩
    case none =>
      rw [if_pos h0] at body
      obtain ⟨⟨hprio, hinput, hdelay, hoffset, hset⟩, hled, hunled, z, hz⟩ :=
        elect_elects (u := updTally (configured prio input delay offset set s.clock.beat) (taken p s)) h0
      refine ⟨_, exec_tallyConfig hp body, finish_completed (by rw [hz.clock]; rfl), ?_⟩
      rw [finish_tally, finish_parts, finish_hbm, finish_pens]
      exact ⟨hprio, hinput, hdelay, hoffset, hset, hled, hunled, hz.parts, hz.hbm, hz.pens⟩
    case early =>
      rw [if_neg h0, if_pos hbad] at body
      exact exec_tallyConfig hp body
    case state =>
      rw [if_neg (by omega), if_neg (by omega), if_pos hbad] at body
      exact exec_tallyConfig hp body
    case set =>
      have hok : ¬(noRuns s = false ∨ s.tally.st ≠ .unlocked ∨ isGrandmaster s prio = false) := by simp [hr, hu, hg]
      rw [if_neg (by omega), if_neg (by omega), if_neg hok] at body
      exact exec_tallyConfig hp body
  case setTime =>
    intro s h0 ha hb hw hl
    have he := exec_setTimeApply h0 ha hb
    refine ⟨fun hm => ?dropped, fun hr hu hg => ?steps⟩
    case dropped =>
      rw [if_neg (by simp [hm])] at he
      obtain ⟨hkept, -, -, z, hz⟩ := elect_elects (u := updTally (fun t => { t with setTime := 0 }) s) rfl
      exact ⟨_, he, hz.clock, hkept.2.2.2.2, hz.parts, hz.copies, hz.pens, hz.hbm, hz.ctxs⟩
    case steps =>
      have jump := stepTally_jumps s.tally.setTime s
      rw [if_pos (by simp [maySetTime, hr, hu, hg])] at he
      obtain ⟨hkept, -, -, z, hz⟩ := elect_elects (u := updTally (fun t => { t with setTime := 0 }) (stepTally s.tally.setTime s)) rfl
      have hclock := hz.clock.trans jump.clock
      have hcopies := hz.copies.trans jump.copies
      refine ⟨_, he, by rw [hclock], by rw [hclock, hw], hkept.2.2.2.2, by rw [hclock], hz.parts.trans jump.parts, hz.pens.trans jump.pens,
        hz.hbm.trans jump.hbm, hz.ctxs.trans jump.ctxs, fun x hx => ?_⟩
      rw [hcopies, hclock]
      exact ⟨_, List.mem_map_of_mem hx, rfl, rfl⟩

end Sys2Proof.Machine
end

section
/-! PROOFS. What follows the loss of lock (R52), and the states of the tally unit (R49 to R52). -/

namespace Sys2Proof.Machine

/-! ## The loss of lock and the RUNs (R52) -/

/-- A waiting RUN that uses the fabric ends. -/
def dropFabricWait (k : Nat) (s : State) : State :=
  match (s.part k).waiting with
  | some r => if r.prog.fabric then endWaiting k stSlip slipTallyLost s else s
  | none => s

theorem dropFabricWait_finishes (k : Nat) (s : State) : Finishes {k} s (dropFabricWait k s)
    ∧ (dropFabricWait k s).part k = { s.part k with waiting := (s.part k).waiting.filter fun y => !y.prog.fabric } := by
  unfold dropFabricWait
  cases hw : (s.part k).waiting with
  | none =>
    dsimp only
    exact ⟨Finishes.refl _ s, by rw [Option.filter_none, ← hw]⟩
  | some y =>
    cases hy : y.prog.fabric with
    | true =>
      obtain ⟨h, hp⟩ := endWaiting_finishes hw stSlip slipTallyLost
      exact ⟨by simpa [hy] using h, by simpa [hy, Option.filter] using hp⟩
    | false => exact ⟨by simpa [hy] using Finishes.refl _ s, by simp [hy, Option.filter, ← hw]⟩

/-- Whether a partition's RUN has started: it runs, or awaits its retry. -/
def started (q : Part) : Bool := q.st == .running || q.st == .quiesced

/-- A fabric RUN as R52 leaves it before its end: one that has started has the cause, and one that runs is quiesced. -/
def haltFabric (k : Nat) (r : Run) (s : State) : State :=
  let t := if started (s.part k) then updPart k (fun q => { q with cause := slipTallyLost }) s else s
  if (s.part k).st == .running then
    quiesce k false (daybook 0x0012 k noEngine r.ctx
      (leBytes 8 (stepRefNum (currentStep r)) ++ leBytes 1 slipTallyLost ++ leBytes 4 r.shift) t)
  else t

/-- The end of a partition's RUN after the loss of lock, if the RUN uses the fabric. -/
def endFabricRun (k : Nat) (s : State) : State :=
  match (s.part k).run with
  | none => s
  | some r =>
    if !r.prog.fabric then s
    else endRun k stSlip slipTallyLost (if started (s.part k) then 3 else 0)
      (if started (s.part k) then stepRefNum (currentStep r) else 0) (haltFabric k r s)

theorem endFabricRuns_eq (k : Nat) (s : State) : endFabricRuns k s = endFabricRun k (dropFabricWait k s) := rfl

section
variable {k : Nat} {s : State} {r : Run} (hr : (s.part k).run = some r)
include hr

theorem haltFabric_finishes : Finishes {k} s (haltFabric k r s) ∧ (haltFabric k r s).host.progs = s.host.progs
    ∧ ((haltFabric k r s).part k).waiting = (s.part k).waiting
    ∧ (started (s.part k) = true → ((haltFabric k r s).part k).cause = slipTallyLost)
    ∧ ∃ z, ((haltFabric k r s).part k).run = some z ∧ z.id = r.id := by
  unfold haltFabric
  extract_lets t
  have ht : Finishes {k} s t ∧ t.host.progs = s.host.progs ∧ (t.part k).waiting = (s.part k).waiting
      ∧ (started (s.part k) = true → (t.part k).cause = slipTallyLost) ∧ (t.part k).run = some r := by
    unfold t
    split
    · exact ⟨finishes_updPart k _ s, rfl, by rw [part_updPart_same], fun _ => by rw [part_updPart_same], by rw [part_updPart_same]; exact hr⟩
    · rename_i h
      exact ⟨Finishes.refl _ s, rfl, rfl, fun h' => absurd h' h, hr⟩
  obtain ⟨h1, hprogs, hwait, hcause, hrun⟩ := ht
  split
  · have told := told_daybook 0x0012 k noEngine r.ctx
      (leBytes 8 (stepRefNum (currentStep r)) ++ leBytes 1 slipTallyLost ++ leBytes 4 r.shift) t
    rw [← told.part] at hwait hcause hrun
    rw [← told.progs] at hprogs
    exact ⟨(h1.trans told.finishes).trans (quiesce_finishes hrun false), (quiesce_progs hrun false).trans hprogs,
      by rw [part_quiesce hrun]; exact hwait, fun h => by rw [part_quiesce hrun]; exact hcause h,
      discardSteps r, by rw [part_quiesce hrun]; rfl, rfl⟩
  · exact ⟨h1, hprogs, hwait, hcause, r, hrun, rfl⟩

theorem endFabricRun_goesOn (hf : r.prog.fabric = false) : endFabricRun k s = s := by simp [endFabricRun, hr, hf]

theorem endFabricRun_ends (hf : r.prog.fabric = true) : Finishes {k} s (endFabricRun k s)
    ∧ ((s.part k).waiting = none → ((endFabricRun k s).part k).waiting = none ∧ ((endFabricRun k s).part k).run = none
      ∧ ((endFabricRun k s).part k).st = .idle ∧ (started (s.part k) = true → ((endFabricRun k s).part k).cause = slipTallyLost)
      ∧ ∀ g, findProg s (fun x => x.job == .run k r.id) = some g → Ended g stSlip (endFabricRun k s)) := by
  have e : endFabricRun k s = endRun k stSlip slipTallyLost (if started (s.part k) then 3 else 0)
      (if started (s.part k) then stepRefNum (currentStep r) else 0) (haltFabric k r s) := by
    simp [endFabricRun, hr, hf]
  obtain ⟨h1, hprogs, hwait, hcause, z, hz, hid⟩ := haltFabric_finishes hr
  rw [e]
  refine ⟨h1.trans (endRun_finishes hz _ _ _ _), fun hn => ?_⟩
  rw [part_endRun hz, afterRun_idle (hwait.trans hn)]
  exact ⟨hwait.trans hn, rfl, rfl, hcause, fun g hg => endRun_ended hz (by rw [findProg, hprogs, hid]; exact hg) _ _ _ _⟩

end

theorem endFabricRun_finishes (k : Nat) (s : State) : Finishes {k} s (endFabricRun k s) := by
  cases hr : (s.part k).run with
  | none => simpa [endFabricRun, hr] using Finishes.refl _ s
  | some r =>
    cases hf : r.prog.fabric with
    | true => exact (endFabricRun_ends hr hf).1
    | false => rw [endFabricRun_goesOn hr hf]; exact Finishes.refl _ s

theorem endFabricRuns_finishes (k : Nat) (s : State) : Finishes {k} s (endFabricRuns k s) :=
  (dropFabricWait_finishes k s).1.trans (endFabricRun_finishes k _)

/-- The ends of RUNs in the partitions of a list. -/
theorem forAll_endFabricRuns_finishes (l : List Nat) (s : State) : Finishes {k | k ∈ l} s (forAll l endFabricRuns s) :=
  forAll_induct_mem (P := Finishes {k | k ∈ l} s)
    (fun k hk u h => h.trans ((endFabricRuns_finishes k u).mono (by rintro i rfl; exact hk))) (Finishes.refl _ s)

/-- What the boundary after a loss of lock leaves of the RUNs of a partition (R52). -/
theorem endFabricRuns_part {s : State} {k : Nat} {l : List Nat} (hd : l.Nodup) (hk : k ∈ l) :
    let t := forAll l endFabricRuns s
    (∀ y, (s.part k).waiting = some y → y.prog.fabric = true → (t.part k).waiting = none)
      ∧ ∀ r, (s.part k).run = some r →
        (r.prog.fabric = false → (t.part k).run = some r ∧ (t.part k).st = (s.part k).st)
        ∧ (r.prog.fabric = true → (s.part k).waiting = none → (t.part k).run = none ∧ (t.part k).st = .idle
          ∧ ((s.part k).st = .running ∨ (s.part k).st = .quiesced → (t.part k).cause = 6)
          ∧ ∀ g, Sole g s → findProg s (fun x => x.job == .run k r.id) = some g → Ended g stSlip t) := by
  intro t
  obtain ⟨l1, l2, hl1, hl2, e⟩ := forAll_split (f := endFabricRuns) hd hk s
  have before := forAll_endFabricRuns_finishes l1 s
  have after := forAll_endFabricRuns_finishes l2 (endFabricRuns k (forAll l1 endFabricRuns s))
  set u := forAll l1 endFabricRuns s
  obtain ⟨hdrop, hpart⟩ := dropFabricWait_finishes k u
  have hu : u.part k = s.part k := before.others k hl1
  have ht : t.part k = (endFabricRun k (dropFabricWait k u)).part k := by
    rw [← endFabricRuns_eq, show t = _ from e]
    exact after.others k hl2
  rw [hu] at hpart
  rw [ht]
  refine ⟨fun y hy hf => ?waits, fun r hr => ?runs⟩
  case waits =>
    have hw : ((dropFabricWait k u).part k).waiting = none := by rw [hpart]; simp [hy, hf, Option.filter]
    cases hr : (s.part k).run with
    | none => rw [show endFabricRun k (dropFabricWait k u) = dropFabricWait k u by simp [endFabricRun, hpart, hr], hw]
    | some r =>
      have hr' : ((dropFabricWait k u).part k).run = some r := by rw [hpart]; exact hr
      cases hf' : r.prog.fabric with
      | true => exact ((endFabricRun_ends hr' hf').2 hw).1
      | false => rw [endFabricRun_goesOn hr' hf', hw]
  case runs =>
    have hr' : ((dropFabricWait k u).part k).run = some r := by rw [hpart]; exact hr
    refine ⟨fun hf => ?_, fun hf hw => ?_⟩
    · rw [endFabricRun_goesOn hr' hf, hpart]
      exact ⟨hr, rfl⟩
    · obtain ⟨-, hrun, hst, hcause, hended⟩ := (endFabricRun_ends hr' hf).2 (by rw [hpart, hw]; rfl)
      refine ⟨hrun, hst, fun h => hcause (by rw [hpart]; rcases h with h | h <;> simp [started, h]), fun g hg hfind => ?_⟩
      have hjob : g.job = .run k r.id := by simpa using (mem_of_findProg hfind).2
      have other : ∀ {l' : List Nat}, k ∉ l' → ∀ x, isRunOf {i | i ∈ l'} x → x.job ≠ .run k r.id := by
        rintro l' hl' x ⟨j, hj, id, hx⟩ he
        rw [hx] at he
        cases he
        exact hl' hj
      have hsame : dropFabricWait k u = u := by simp [dropFabricWait, hu, hw]
      have hfind' : findProg u (fun x => x.job == .run k r.id) = some g :=
        (before.completes.find _ fun x _ hx => by simpa using other hl1 x hx).trans hfind
      rw [hsame] at hended
      rw [show t = _ from e]
      refine after.completes.ended (by rw [endFabricRuns_eq, hsame]; exact hended g hfind') fun x hx hrunof hmb => ?_
      have hxs : x ∈ s.host.progs := before.completes.sub x ((endFabricRuns_finishes k u).completes.sub x hx)
      exact other hl2 x hrunof (by rw [hg.2 x hxs hmb.1 hmb.2, hjob])

theorem exec_tallyLostRunEnd {s : State} (hp : s.tally.lostPending = true) (ha : s.clock.acb = 0) :
    exec .tallyLostRunEnd s = .next (settled (fun u =>
      forAll (partList u) endFabricRuns (updTally (fun t => { t with lostPending := false }) u)) s) :=
  event_of (by simp [hp, ha])

/-- Settles O45: each event of the unit by what it leaves of the unit, and the boundary after a loss of lock partition by partition. -/
theorem tallyStates : Obligations.TallyStates := by
  unfold Obligations.TallyStates
  refine ⟨fun s z => ⟨fun hs hz hz' => ?locks, fun ns hs hz hz' hr => ?steps, fun hs hz => ?unlocks, fun hs h3 => ?lost,
    fun hs hsel hh hz hz' => ?returns, fun hs hh ha => ?expires⟩, fun s hp ha => ?ends⟩
  case locks =>
    have h : Retuned _ s (enterLocked (measured z s)) := lock_retuned (by rw [hs]; decide)
    have he := exec_tallyLocked hs ⟨hz, hz'⟩ (.inl rfl)
    rw [if_pos rfl] at he
    exact ⟨_, he, h.tally, h.clock, h.parts, h.hbm, h.place, h.ctxs, h.pens⟩
  case steps =>
    have jump := stepTally_jumps (tlyTime s + ns) s
    refine ⟨_, exec_tallyLocked hs ⟨hz, hz'⟩ (.inr hr), ?_⟩
    by_cases h0 : ns = 0
    · have h : Retuned _ s (enterLocked (measured z s)) := lock_retuned (by rw [hs]; decide)
      rw [if_pos h0, if_pos h0]
      exact ⟨by rw [h.tally], by rw [h.clock], h.parts, h.hbm, h.ctxs, h.pens⟩
    · have h : Retuned _ (stepTally (tlyTime s + ns) s) (enterLocked (measured z (stepTally (tlyTime s + ns) s))) :=
        lock_retuned (by rw [jump.tally, hs]; decide)
      rw [if_neg h0, if_neg h0]
      exact ⟨by rw [h.tally], by rw [h.clock, jump.clock], h.parts.trans jump.parts, h.hbm.trans jump.hbm, h.ctxs.trans jump.ctxs,
        h.pens.trans jump.pens⟩
  case unlocks =>
    have h := measured_beyond hs hz
    exact ⟨_, exec_tallyUnlock hs hz, h.tally, h.clock, h.parts, h.hbm, h.place, h.ctxs, h.pens⟩
  case lost =>
    have h := enterHoldover_retuned s
    exact ⟨_, exec_tallySourceLost hs h3, h.tally, h.clock, h.parts, h.hbm, h.place, h.ctxs, h.pens⟩
  case returns =>
    have h : Retuned _ s (enterLocked (measured z s)) := lock_retuned (by rw [hs]; decide)
    exact ⟨_, exec_tallySourceReturn hs hsel hh ⟨hz, hz'⟩, h.tally, h.clock, h.parts, h.hbm, h.place, h.ctxs, h.pens⟩
  case expires =>
    have h := enterUnlocked_retuned s
    exact ⟨_, exec_holdoverExpired hs hh ha, h.tally, h.clock, h.parts, h.hbm, h.place, h.ctxs, h.pens⟩
  case ends =>
    let f : State → State := fun u => forAll (partList u) endFabricRuns (updTally (fun t => { t with lostPending := false }) u)
    have hf : Finishes {k | k ∈ partList s} (updTally (fun t => { t with lostPending := false }) s) (f s) :=
      forAll_endFabricRuns_finishes _ _
    have hsame := (settled_resettled f s).same
    refine ⟨settled f s, exec_tallyLostRunEnd hp ha, ?_, ?_, ?_, ?_, fun k hk => ?_⟩
    · rw [hsame, hf.same]; rfl
    · rw [hsame, hf.same]; rfl
    · rw [settled_hbm, hf.t1]; rfl
    · rw [settled_hbm, hf.t2]; rfl
    · obtain ⟨hwait, hrun⟩ := endFabricRuns_part (s := updTally (fun t => { t with lostPending := false }) s) (k := k)
        (l := partList s) List.nodup_range (List.mem_range.2 hk)
      rw [settled_waiting, settled_run, settled_st, settled_cause]
      refine ⟨hwait, fun r hr => ⟨(hrun r hr).1, fun hfab hw => ?_⟩⟩
      obtain ⟨h1, h2, h3, h4⟩ := (hrun r hr).2 hfab hw
      refine ⟨h1, h2, h3, fun g hg hfind => ?_⟩
      have e := h4 g hg hfind
      exact ⟨by rw [settled_mbx]; exact e.complete, by rw [settled_mbx]; exact e.idle, by rw [settled_host]; exact e.gone⟩

end Sys2Proof.Machine
end

section
/-! PROOFS. The issue of rounds (R61, R68, R124 to R128), and what a commit changes (R74, R103, R215). -/

namespace Sys2Proof.Machine

/-! ## When a word issues -/

theorem issueReady_eq_some {s : State} {k op : Nat} {r : Run} {w : TileWord} (h : issueReady s k op = some (r, w)) :
    (s.part k).run = some r ∧ issueTurn (nextIssue r) (duesOf s k r) = true := by
  simp only [issueReady, Option.bind_eq_some_iff] at h
  obtain ⟨r', hr, w', -, h⟩ := h
  split at h
  case isTrue hc =>
    cases h
    exact ⟨hr, (Bool.and_eq_true_iff.1 hc).2⟩
  case isFalse => cases h

/-- No anchored word is late while a word issues: an issue waits for every slip of an anchor (R71). -/
theorem anchorSlip_none_of_issueReady {s : State} {k op : Nat} {r : Run} {w : TileWord} (h : issueReady s k op = some (r, w)) (op' : Nat) :
    anchorSlip s k op' = none := by
  obtain ⟨hr, hturn⟩ := issueReady_eq_some h
  rw [Option.eq_none_iff_forall_ne_some]
  intro n hn
  simp only [anchorSlip, hr, Option.bind_some, Option.bind_eq_some_iff] at hn
  obtain ⟨e, he, hn⟩ := hn
  split at hn
  case isTrue hc =>
    have hs : slips (s.part k) r = true := by simp only [Bool.and_eq_true] at hc; exact hc.1.1.1
    simp [issueTurn, duesOf, hs, he] at hturn
  case isFalse => cases hn

theorem issueSlotted_issues {s : State} {k op : Nat} {r : Run} {w : TileWord} (h : issueReady s k op = some (r, w))
    (hf : slotsFree s k r r.nextInstr w r.nextRound = true) (name : String) (e : Ecc) :
    issueSlotted name op k e s = .next (issueRound k r.nextInstr r w (firstAttempt s k r w) e s) := by
  simp only [issueSlotted, anchorSlip_none_of_issueReady h, h, hf]
  exact event_of rfl

theorem exec_rw {s : State} {k : Nat} {r : Run} {w : TileWord} (h : issueReady s k opRw = some (r, w)) :
    exec (.rw k) s = .next (issueRw k r w s) := by
  change execRw k s = _
  simp only [execRw, anchorSlip_none_of_issueReady h, h]

/-! ## What an issue leaves -/

/-- u differs from s in what a round of partition k begins with: the clock, the pens, its banks, and counts of corrections. -/
structure Begins (k : Nat) (r : Run) (s u : State) : Prop where
  same : u = { s with clock := u.clock, pens := u.pens, parts := u.parts, recov := u.recov }
  others : ∀ i, i ≠ k → u.part i = s.part i
  run : ∃ q, (u.part k).run = some q ∧ q.flight = r.flight ∧ q.prog = r.prog

section
variable {k : Nat} {r : Run} {s : State}

theorem Begins.kept {u : State} (h : Begins k r s u) : u.hbm = s.hbm ∧ u.host = s.host ∧ u.place = s.place ∧ u.ctxs = s.ctxs
    ∧ u.fabric = s.fabric ∧ u.drovers = s.drovers := by
  rw [h.same]
  exact ⟨rfl, rfl, rfl, rfl, rfl, rfl⟩

theorem begins_moveTo (hr : (s.part k).run = some r) (n : Nat) : Begins k r s (moveTo n s) := by
  obtain ⟨c, h⟩ := moveTo_same n s
  rw [h]
  exact ⟨rfl, fun _ _ => rfl, r, hr, rfl, rfl⟩

theorem Begins.pens {α : Type} {u : State} (h : Begins k r s u) (g : α → Nat) (f : α → Pen → Pen) (l : List α) :
    Begins k r s (forAll l (fun a => updPen (g a) (f a)) u) := by
  obtain ⟨p, e⟩ := forAll_updPen_same g f l u
  obtain ⟨hsame, hothers, hrun⟩ := h
  rw [e]
  exact ⟨by rw [hsame], hothers, hrun⟩

theorem Begins.markBank {u : State} (h : Begins k r s u) (f : Run → Table Nat) : Begins k r s (updRun k (fun x => { x with banks := f x }) u) := by
  obtain ⟨q, hq, hflight, hprog⟩ := h.run
  have hsame := h.same
  refine ⟨by rw [hsame]; rfl, fun i hi => ?_, { q with banks := f q }, by rw [part_updRun_some hq], hflight, hprog⟩
  rw [part_updRun, if_neg hi]
  exact h.others i hi

theorem Begins.useBanks {u : State} (h : Begins k r s u) (j : Nat) (w : TileWord) : Begins k r s (useBanks k r j w u).2 := by
  unfold Machine.useBanks
  dsimp only
  split
  · exact (h.pens (fun i : Nat => i) _ _).markBank _
  · split
    · exact (h.pens (fun i : Nat => i) _ _).markBank _
    · exact h

/-- An error changes pens or counts alone (R26, R140). -/
theorem takeEcc_same (w : TileWord) (e : Ecc) (s : State) : ∃ p v, takeEcc k w e s = { s with pens := p, recov := v } := by
  unfold takeEcc
  split
  · exact ⟨_, _, rfl⟩
  · obtain ⟨p, h⟩ := forAll_updPen_same (fun i : Nat => i) (fun _ v => { v with bcerr := true }) (enabledPens s k) s
    exact ⟨p, s.recov, h⟩
  · split
    · exact ⟨_, _, rfl⟩
    · exact ⟨_, _, rfl⟩
  · exact ⟨_, _, rfl⟩

/-- The step in flight that an attempt begins (R103). -/
def launched (p : Program) (r : Run) (w : TileWord) (a : Attempt) (bank : Nat) (fault : Bool) : StepRec :=
  ⟨r.nextInstr, a.round, a.number, a.assay, a.at_, a.at_ + verdictAc p r.nextInstr w a.assay a.round, fault, a.runlen, bank, a.epoch,
    a.scales⟩

/-- An attempt that enters the flight of a partition whose round has begun is issued (R68, R103, R128). -/
theorem Begins.issued {u : State} (h : Begins k r s u) (w : TileWord) (bank : Nat) (fault : Bool) (e : Ecc) :
    Issued k r w s (setLag k (nextIssue r - nominalAc r (w.issue + roundOffset r.prog r.nextInstr w r.nextRound))
      (takeEcc k w e (launch k r.nextInstr w (firstAttempt s k r w) bank fault u))) := by
  obtain ⟨q, hq, hflight, hprog⟩ := h.run
  obtain ⟨p, v, hecc⟩ := takeEcc_same (k := k) w e (launch k r.nextInstr w (firstAttempt s k r w) bank fault u)
  have hpart : (launch k r.nextInstr w (firstAttempt s k r w) bank fault u).part k = _ := part_updRun_some hq _
  obtain ⟨hhbm, hhost, hplace, hctxs, hfabric, hdrovers⟩ := h.kept
  rw [hecc, setLag]
  refine ⟨?flight, ?step, ?lag, fun i hi => ?others, ?_, ?_, ?_, ?_, ?_, ?_⟩
  case flight =>
    refine ⟨launched q.prog r w (firstAttempt s k r w) bank fault, ?_, rfl, rfl, rfl, rfl, rfl,
      congrArg (fun z => nextIssue r + verdictAc z r.nextInstr w w.assay r.nextRound) hprog⟩
    rw [part_updPart_same]
    change ((launch _ _ _ _ _ _ u).part k).run.map _ = _
    rw [hpart, ← hflight]
    rfl
  case step =>
    rw [part_updPart_same, ← stepAfter_congr hprog]
    change ((launch _ _ _ _ _ _ u).part k).run.map _ = _
    rw [hpart]
    rfl
  case lag => rw [part_updPart_same]
  case others =>
    rw [part_updPart, if_neg hi]
    change (launch _ _ _ _ _ _ u).part i = _
    rw [launch, part_updRun, if_neg hi, h.others i hi]
  · exact hhbm
  · exact hhost
  · exact hplace
  · exact hctxs
  · exact hfabric
  · exact hdrovers

/-- Settles O39: a round's pens and banks begin, and its attempt enters the flight; the error that it meets changes neither. -/
theorem roundIssue : Obligations.RoundIssue := by
  unfold Obligations.RoundIssue
  intro s k r w e
  have slotted : ∀ name op, slotsFree s k r r.nextInstr w r.nextRound = true → issueReady s k op = some (r, w) →
      ∃ t, issueSlotted name op k e s = .next t ∧ Issued k r w s t := by
    intro name op hf h
    exact ⟨_, issueSlotted_issues h hf name e,
      (((begins_moveTo (issueReady_eq_some h).1 _).pens (fun b : Nat × Nat => physPen s k b.1) _ _).useBanks r.nextInstr w).issued w _ _ e⟩
  refine ⟨fun hf => ⟨slotted _ _ hf, slotted _ _ hf, slotted _ _ hf, slotted _ _ hf⟩, fun h h0 => ⟨_, exec_rw h, ?_⟩⟩
  have hlag : w.issue + roundOffset r.prog r.nextInstr w r.nextRound = w.issue := by rw [h0]; rfl
  have hi := (((begins_moveTo (issueReady_eq_some h).1 (nextIssue r)).pens (fun b : Nat × Nat => physPen s k b.1)
    (fun _ q => { q with active := true, rowu := beginRw w q.rowu }) (activePens s k r r.nextInstr w 0)).useBanks r.nextInstr w).issued w
    (useBanks k r r.nextInstr w (forAll (activePens s k r r.nextInstr w 0)
      (fun b => updPen (physPen s k b.1) (fun q => { q with active := true, rowu := beginRw w q.rowu })) (moveTo (nextIssue r) s))).1 false .clean
  rw [hlag] at hi
  exact hi

end

/-! ## What a commit changes -/

/-- t differs from s in pens, and in work counters of partition k. -/
structure Regranted (k : Nat) (s t : State) : Prop where
  same : t = { s with pens := t.pens, parts := t.parts }
  part : t.part k = { s.part k with wcnt := (t.part k).wcnt }
  others : ∀ i, i ≠ k → t.part i = s.part i

theorem releaseGrants_regranted (k : Nat) (r : Run) (j : Nat) (w : TileWord) (last : Bool) (s : State) :
    Regranted k s (releaseGrants k r j w last s) := by
  unfold releaseGrants
  split
  · exact ⟨rfl, rfl, fun _ _ => rfl⟩
  · rename_i g _
    extract_lets t
    obtain ⟨p, ht⟩ : ∃ p, t = { s with pens := p } := forAll_updPen_same (fun i : Nat => i) (fun _ q =>
      match q.grants.find? fun x => x.counter == g.2.sub with
      | some x => { q with grants := q.grants.erase x }
      | none => q) (enabledPens s k) s
    rw [ht]
    split
    · exact ⟨rfl, by rw [updCounter, part_updPart_same]; rfl, fun i hi => by rw [updCounter, part_updPart, if_neg hi]; rfl⟩
    · exact ⟨rfl, rfl, fun _ _ => rfl⟩

/-- A RUN with no leaving sequence releases none with its final commit (R221). -/
theorem leaveAtEnd_of_stays {k : Nat} {s : State} (h : ∀ r, (s.part k).run = some r → ∀ b ∈ r.batch, b.leave = false) :
    leaveAtEnd k s = s := by
  unfold leaveAtEnd
  split
  · rename_i r hr
    have hl : r.batch.filter (·.leave) = [] := List.filter_eq_nil_iff.2 fun b hb => by simp [h r hr b hb]
    split
    · rw [releaseLeaving, hl]; rfl
    · rfl
  · rfl

theorem part_advanceEpoch_of_ne {k i : Nat} (hi : i ≠ k) (s : State) : (advanceEpoch k s).part i = s.part i := by
  unfold advanceEpoch
  dsimp only
  split
  · rfl
  · rw [part_updPart, if_neg hi]
    exact (settlePages_finishes k (s.part k) s).1.others i hi

theorem epoch_advanceEpoch (k : Nat) (s : State) :
    ((s.part k).changes = [] → ((advanceEpoch k s).part k).epoch = (s.part k).epoch)
      ∧ ((s.part k).changes ≠ [] → ((advanceEpoch k s).part k).epoch = ((s.part k).epoch + 1) % 2 ^ 32) := by
  unfold advanceEpoch
  refine ⟨fun h => ?_, fun h => ?_⟩
  · dsimp only
    rw [if_pos (by simpa using h)]
  · dsimp only
    rw [if_neg (by simpa using h), part_updPart_same, (settlePages_finishes k (s.part k) s).2.1]

/-- Settles O41: the RUN goes on at its next step, and the epoch of its partition advances; no drover's copy of it shows in the statement. -/
theorem wordCommits : Obligations.WordCommits := by
  unfold Obligations.WordCommits
  intro s k j n a w r hr hs hleave
  unfold commitStep
  rw [hr]
  dsimp -zeta only
  extract_lets next s1 s2 s3
  have h1 : Regranted k s s1 := releaseGrants_regranted k r j w _ s
  have h3 : s3.part k = _ := part_goesOn k _ s1
  obtain ⟨p, hs3⟩ : ∃ p, s3 = { s1 with parts := p } := goesOn_same k _ s1
  have hothers3 : ∀ i, i ≠ k → s3.part i = s.part i := fun i hi => by
    change (updPart k _ (updRun k _ s1)).part i = _
    rw [part_updPart, if_neg hi, part_updRun, if_neg hi, h1.others i hi]
  rw [h1.part, hr] at h3
  rw [leaveAtEnd_of_stays (by rw [h3]; rintro _ ⟨rfl⟩; exact hleave)]
  have h4 := repaged_advanceEpoch k s3
  have hrecov : (advanceEpoch k s3).recov = s.recov := by rw [h4.same, hs3, h1.same]
  rw [passSuspects_of_no_search (by rw [syncDrovers_recov, hrecov]; exact hs)]
  simp only [part_syncDrovers, syncDrovers_hbm, syncDrovers_host, syncDrovers_ctxs]
  have hpart := h4.part
  rw [h3] at hpart
  have hpart := h4.part
  rw [h3] at hpart
  have hepoch := epoch_advanceEpoch k s3
  rw [h3] at hepoch
  refine ⟨_, congrArg Part.run hpart, rfl, rfl, by rw [hpart], by rw [hpart], rfl, rfl, rfl,
    fun i hi => (part_advanceEpoch_of_ne hi s3).trans (hothers3 i hi), ?_, ?_, ?_, hepoch⟩
  · rw [h4.same, hs3, h1.same]
  · rw [h4.same, hs3, h1.same]
  · rw [h4.same, hs3, h1.same]

end Sys2Proof.Machine
end

section
/-! PROOFS. The upkeep of placement, sequences, commands and sessions: what the shepherd and the bale and codec engines change between
the words of a RUN (R213 to R219, R235 to R248, R324, R385 to R389, R398, R408, R422), and that it leaves every RUN and its state alone. -/

namespace Sys2Proof.Machine

/-! ## Upkeep -/

/-- t differs from s in what upkeep changes: of a partition the pending changes of its mappings, its copies, its reside queue and its
swap-outs; of the shepherd's records the daybook, the cancels, and the steps, of which none becomes a step of level 4. -/
structure Upkeep (s t : State) : Prop where
  same : t = { s with parts := t.parts, ctxs := t.ctxs, place := t.place, hbm := t.hbm, codec := t.codec, host := t.host
                      recov := t.recov, power := t.power, out := t.out }
  parts : ∀ i, t.part i = { s.part i with changes := (t.part i).changes, copies := (t.part i).copies, resides := (t.part i).resides
                                          swapping := (t.part i).swapping }
  raised : ∀ i, (t.pipe i).raised = (s.pipe i).raised
  recov : t.recov = { s.recov with daybook := t.recov.daybook, steps := t.recov.steps, cancels := t.recov.cancels }
  steps : ∀ x ∈ t.recov.steps, x.level = 4 → ∃ y ∈ s.recov.steps, y.level = 4
  supply : t.power.supply = s.power.supply
  cycleReq : t.power.cycleReq = s.power.cycleReq

namespace Upkeep

theorem refl (s : State) : Upkeep s s := ⟨rfl, fun _ => rfl, fun _ => rfl, rfl, fun x hx h => ⟨x, hx, h⟩, rfl, rfl⟩

theorem trans {s t u : State} (h : Upkeep s t) (g : Upkeep t u) : Upkeep s u where
  same := by
    have e := g.same
    rwa [h.same] at e
  parts := fun i => by
    have e := g.parts i
    rwa [h.parts i] at e
  raised := fun i => (g.raised i).trans (h.raised i)
  recov := by
    have e := g.recov
    rwa [h.recov] at e
  steps := fun x hx hl => by
    obtain ⟨y, hy, hl'⟩ := g.steps x hx hl
    exact h.steps y hy hl'
  supply := g.supply.trans h.supply
  cycleReq := g.cycleReq.trans h.cycleReq

section
variable {s t : State} (h : Upkeep s t)
include h

theorem clock : t.clock = s.clock := by rw [h.same]
theorem mode : t.mode = s.mode := by rw [h.same]
theorem tally : t.tally = s.tally := by rw [h.same]
theorem pens : t.pens = s.pens := by rw [h.same]
theorem nextRun : t.nextRun = s.nextRun := by rw [h.same]
theorem gate (g : Nat) : t.gate g = s.gate g := by rw [h.same]; rfl
theorem run (i : Nat) : (t.part i).run = (s.part i).run := by rw [h.parts]
theorem waiting (i : Nat) : (t.part i).waiting = (s.part i).waiting := by rw [h.parts]
theorem st (i : Nat) : (t.part i).st = (s.part i).st := by rw [h.parts]

end

/-- Upkeep by a fold over a list. -/
theorem each {α : Type} {f : α → State → State} (hf : ∀ a s, Upkeep s (f a s)) (l : List α) (s : State) : Upkeep s (forAll l f s) :=
  forAll_induct (P := Upkeep s) (fun a _ h => h.trans (hf a _)) l (refl s)

end Upkeep

/-! ## The rules of single changes -/

/-- A change that reaches neither a partition, nor a pipeline, nor the shepherd's records. -/
theorem upkeep_apart (c : List Ctx) (p : Placement) (h : Hbm) (o : HostPort) (l : List Output) (s : State) :
    Upkeep s { s with ctxs := c, place := p, hbm := h, host := o, out := l } :=
  ⟨rfl, fun _ => rfl, fun _ => rfl, rfl, fun x hx h => ⟨x, hx, h⟩, rfl, rfl⟩

theorem upkeep_updPlace (f : Placement → Placement) (s : State) : Upkeep s (updPlace f s) := upkeep_apart _ _ _ _ _ s
theorem upkeep_updHbm (f : Hbm → Hbm) (s : State) : Upkeep s (updHbm f s) := upkeep_apart _ _ _ _ _ s
theorem upkeep_updHost (f : HostPort → HostPort) (s : State) : Upkeep s (updHost f s) := upkeep_apart _ _ _ _ _ s
theorem upkeep_updCtx (h : Nat) (f : Ctx → Ctx) (s : State) : Upkeep s (updCtx h f s) := upkeep_apart _ _ _ _ _ s
theorem upkeep_updMbx (f m : Nat) (g : Mailbox → Mailbox) (s : State) : Upkeep s (updMbx f m g s) := upkeep_apart _ _ _ _ _ s
theorem upkeep_emit (o : Output) (s : State) : Upkeep s (emit o s) := upkeep_apart _ _ _ _ _ s

theorem upkeep_updPart (k : Nat) (f : Part → Part) (s : State)
    (hf : ∀ q, f q = { q with changes := (f q).changes, copies := (f q).copies, resides := (f q).resides, swapping := (f q).swapping }) :
    Upkeep s (updPart k f s) where
  same := rfl
  parts := fun i => by
    rw [part_updPart]
    split
    · rename_i e; rw [e]; exact hf _
    · rfl
  raised := fun _ => rfl
  recov := rfl
  steps := fun x hx h => ⟨x, hx, h⟩
  supply := rfl
  cycleReq := rfl

theorem upkeep_updSessions (f : List Session → List Session) (s : State) :
    Upkeep s (updCodec (fun c => { c with sessions := f c.sessions }) s) :=
  ⟨rfl, fun _ => rfl, fun _ => rfl, rfl, fun x hx h => ⟨x, hx, h⟩, rfl, rfl⟩

theorem upkeep_updPipe (i : Nat) (f : Pipe → Pipe) (s : State) (hf : ∀ q, (f q).raised = q.raised) : Upkeep s (updPipe i f s) where
  same := rfl
  parts := fun _ => rfl
  raised := fun j => by
    rw [pipe_updPipe]
    split
    · rename_i e; rw [hf, e]
    · rfl
  recov := rfl
  steps := fun x hx h => ⟨x, hx, h⟩
  supply := rfl
  cycleReq := rfl

theorem upkeep_updPower (f : Power → Power) (s : State) (h : (f s.power).supply = s.power.supply)
    (h' : (f s.power).cycleReq = s.power.cycleReq) : Upkeep s (updPower f s) :=
  ⟨rfl, fun _ => rfl, fun _ => rfl, rfl, fun x hx h => ⟨x, hx, h⟩, h, h'⟩

theorem upkeep_updRecov (f : Recovery → Recovery) (s : State)
    (hf : f s.recov = { s.recov with daybook := (f s.recov).daybook, steps := (f s.recov).steps, cancels := (f s.recov).cancels })
    (hs : ∀ x ∈ (f s.recov).steps, x.level = 4 → ∃ y ∈ s.recov.steps, y.level = 4) : Upkeep s (updRecov f s) :=
  ⟨rfl, fun _ => rfl, fun _ => rfl, hf, hs, rfl, rfl⟩

theorem Told.upkeep {s t : State} (h : Told s t) : Upkeep s t where
  same := by rw [h.same]
  parts := fun i => by rw [h.part]
  raised := fun i => by rw [h.same]; rfl
  recov := by rw [h.recov]
  steps := by rw [h.steps]; exact fun x hx hl => ⟨x, hx, hl⟩
  supply := by rw [h.same]
  cycleReq := by rw [h.same]

theorem Resettled.upkeep {s t : State} (h : Resettled s t) : Upkeep s t where
  same := by rw [h.same]
  parts := fun i => by rw [h.queues]
  raised := fun i => by rw [h.same]; rfl
  recov := by rw [h.same]
  steps := by rw [h.same]; exact fun x hx hl => ⟨x, hx, hl⟩
  supply := by rw [h.same]
  cycleReq := by rw [h.same]

theorem Upkeep.settled {f : State → State} {s : State} (h : Upkeep s (f s)) : Upkeep s (settled f s) :=
  h.trans (settled_resettled f s).upkeep

/-! ## Commands that end -/

theorem upkeep_completeProg (g : InProgress) (st : Nat) (res : List Byte) (s : State) : Upkeep s (completeProg g st res s) := by
  obtain ⟨f, h⟩ := completeProg_told st s g res
  exact ((upkeep_updHost _ s).trans (upkeep_updMbx _ _ f _)).trans h.upkeep

theorem upkeep_completeAll (f : InProgress → Bool) (st : Nat) (s : State) : Upkeep s (completeAll f st s) :=
  .each (fun g => upkeep_completeProg g st []) _ s

/-! ## Key-value pages (R213 to R219) -/

theorem upkeep_noteChange (k : Nat) (c : MapChange) (s : State) : Upkeep s (noteChange k c s) := by
  unfold noteChange
  split
  · exact upkeep_updPart k _ s (by intro _; rfl)
  · exact .refl s

theorem upkeep_unrefPage (k f : Nat) (at_ : Option (Nat × Nat)) (s : State) : Upkeep s (unrefPage k f at_ s) := by
  unfold unrefPage
  split
  · exact .refl s
  · have h := (upkeep_updPlace _ s).trans (upkeep_noteChange k ⟨some f, at_⟩ (updPage f (fun g => { g with refs := g.refs - 1 }) s))
    dsimp only
    split
    · exact (h.trans (upkeep_updPlace _ _)).trans (upkeep_updPlace _ _)
    · exact h

theorem upkeep_setSeqMap (h j : Nat) (m : Option KvMap) (s : State) : Upkeep s (setSeqMap h j m s) := upkeep_apart _ _ _ _ _ s

theorem upkeep_destroySeq (k h : Nat) (s : State) : Upkeep s (destroySeq k h s) := by
  unfold destroySeq
  split
  · exact .refl s
  · refine (Upkeep.each (fun j u => ?_) _ s).trans (upkeep_updPlace _ _)
    unfold releasePage
    split
    · exact .refl u
    · split
      · exact .refl u
      · split
        · exact upkeep_setSeqMap _ _ _ u
        · exact (upkeep_setSeqMap _ _ _ u).trans (upkeep_unrefPage _ _ _ _)

theorem upkeep_dropPages (k : Nat) (keep : List Nat) : ∀ n s, Upkeep s (dropPages k keep n s)
  | 0, s => .refl s
  | n + 1, s => by
    unfold dropPages
    split
    · refine Upkeep.trans ?_ (upkeep_dropPages k keep n _)
      exact ((upkeep_updPlace _ s).trans (upkeep_updPlace _ _)).trans (upkeep_noteChange _ _ _)
    · exact .refl s

/-- A page that is taken is zeroed, and its bale with it when it is the first (R210, R238). -/
theorem upkeep_takePage {k refs f : Nat} {s t : State} (h : takePage k refs s = some (f, t)) : Upkeep s t := by
  simp only [takePage] at h
  split at h
  · cases h
    exact (upkeep_updHbm _ s).trans (upkeep_updPlace _ _)
  · split at h
    · cases h
      exact (((upkeep_updPlace _ s).trans (upkeep_updHbm _ _)).trans (upkeep_updHbm _ _)).trans (upkeep_updPlace _ _)
    · cases h

theorem upkeep_mapPage (k c f : Nat) (drop : Bool) (s : State) : Upkeep s (mapPage k c f drop s) := by
  unfold mapPage
  dsimp only
  split
  · exact (upkeep_setSeqMap _ _ _ s).trans (upkeep_updPart k _ _ (by intro _; rfl))
  · exact upkeep_setSeqMap _ _ _ s

theorem upkeep_admitPage (k c : Nat) (s : State) : Upkeep s (admitPage k c s) := by
  unfold admitPage
  split
  · split
    · rename_i f t h
      exact (upkeep_takePage h).trans (upkeep_mapPage _ _ _ _ _)
    · exact .refl s
  · split
    · exact .refl s
    · split
      · rename_i f t h
        exact (((upkeep_takePage h).trans (upkeep_mapPage _ _ _ _ _)).trans (upkeep_unrefPage _ _ _ _)).trans
          (upkeep_updPart k _ _ (by intro _; rfl))
      · exact .refl s

/-- The pages of a RUN's write set, given at its acceptance (R213, R218, R219). -/
theorem upkeep_pagesAtAcceptance (s : State) (k : Nat) (r : Run) : Upkeep s (pagesAtAcceptance s k r) :=
  (upkeep_dropPages k _ _ s).trans (.each (upkeep_admitPage k) _ _)

end Sys2Proof.Machine
end

section
/-! PROOFS. RUN.SUBMIT that is accepted, and one whose start beat is out of range (R57, R377, R391 to R393). -/

namespace Sys2Proof.Machine

/-! ## Commands whose contexts settle with their completion -/

section
variable (f : State → State) (s : State)

theorem settledCmd_upkeep : Upkeep (setLead 1 (f s)) (settleContexts s (setLead 1 (f s))) := (settledCmd_resettled f s).upkeep

@[simp] theorem settledCmd_st (k : Nat) : ((settledCmd f s).part k).st = ((f s).part k).st := (settledCmd_upkeep f s).st k
@[simp] theorem settledCmd_pens : (settledCmd f s).pens = (f s).pens := (settledCmd_upkeep f s).pens
@[simp] theorem settledCmd_nextRun : (settledCmd f s).nextRun = (f s).nextRun := (settledCmd_upkeep f s).nextRun
@[simp] theorem settledCmd_host : (settledCmd f s).host = (f s).host := by
  change (settleContexts s (setLead 1 (f s))).host = _
  rw [(settledCmd_resettled f s).same]
  rfl

end

/-- The first n bytes of a completion's result read back from its mailbox (R367). -/
theorem bytesAt_writeCompletion (p : Post) (st : Nat) (res : List Byte) (a b c : Nat) (d : Bool) (s : State) :
    bytesAt ((writeCompletion p st res a b c d s).mbx p.func p.mbx).data 0 res.length = res := by
  have hc := ceilDiv_covers res.length
  rw [mbx_writeCompletion]
  change bytesAt (putBytes _ 0 _) 0 _ = res
  rw [bytesAt_putBytes _ _ _ (by rw [padTo_length]; exact hc)]
  simp [padTo, List.take_of_length_le hc]

theorem acceptRecord_length (n : Nat) : (acceptRecord n).length = 88 := by simp [acceptRecord, zeros, leBytes_length]

/-- What RUN.SUBMIT leaves when its body accepts a RUN on the state u (R371, R377). -/
theorem runSubmit_accepts {p : Post} {ctx va beat c k id : Nat} {batch : List BatchEntry} {j : Job} {s u : State}
    (hp : Posts p rowRunSubmit (4 + batch.length) s)
    (hb : runSubmitBody p ctx va beat batch (taken p s) = .accept none (acceptRecord id) c k j u) (hu : u.clock.beat = s.clock.beat) :
    ∃ t, exec (.runSubmit p ctx va beat batch) s = .next t ∧ Accepted p none c k j s t
      ∧ (t.mbx p.func p.mbx).rlen = 11 ∧ bytesAt (t.mbx p.func p.mbx).data 0 88 = acceptRecord id
      ∧ (∀ i, (t.part i).run = (u.part i).run ∧ (t.part i).waiting = (u.part i).waiting ∧ (t.part i).st = (u.part i).st)
      ∧ t.nextRun = u.nextRun ∧ t.pens = u.pens := by
  have hm := mailbox_start hp hb
  obtain ⟨hcomplete, hdue, hsampled, hdone, hbusy, hwork⟩ := start_accepted (p := p) (due := none) (res := acceptRecord id) (c := c)
    (k := k) (j := j) hu
  have hmbx : ∀ f, f s = start p none (acceptRecord id) c k j u → (settledCmd f s).mbx p.func p.mbx =
      (writeCompletion p stAccepted (acceptRecord id) u.clock.beat (u.clock.beat + 1) noDue false u).mbx p.func p.mbx := by
    intro f hf
    rw [settledCmd_mbx, hf]
    rfl
  have hm' := hmbx _ hm
  refine ⟨_, rfl, ⟨?_, ?_, ?_, ?_, ?_, ?_⟩, ?_, ?_, fun i => ?_, ?_, ?_⟩
  · rw [hm']; exact hcomplete
  · rw [hm']; exact hdue
  · rw [hm']; exact hsampled
  · rw [hm']; exact hdone
  · rw [hm']; exact hbusy
  · rw [settledCmd_host, hm]; exact hwork
  · rw [hm', mbx_writeCompletion]
    change ceilDiv (acceptRecord id).length 8 = 11
    rw [acceptRecord_length]
    rfl
  · rw [hm']
    have h := bytesAt_writeCompletion p stAccepted (acceptRecord id) u.clock.beat (u.clock.beat + 1) noDue false u
    rwa [acceptRecord_length] at h
  · rw [(settledCmd_runs _ s i).1, (settledCmd_runs _ s i).2, settledCmd_st, hm]
    simp [State.part]
  · rw [settledCmd_nextRun, hm, start_nextRun]
  · rw [settledCmd_pens, hm, start_pens]

/-- What RUN.SUBMIT leaves when its body rejects the RUN at once (R377). -/
theorem runSubmit_rejects {p : Post} {ctx va beat st : Nat} {batch : List BatchEntry} {s : State}
    (hp : Posts p rowRunSubmit (4 + batch.length) s)
    (hb : runSubmitBody p ctx va beat batch (taken p s) = reject st 0 0 0 (taken p s)) :
    ∃ t, exec (.runSubmit p ctx va beat batch) s = .next t ∧ Completed p st (rejectRecord 0 0 0) s t
      ∧ (∀ k, (t.part k).run = (s.part k).run ∧ (t.part k).waiting = (s.part k).waiting) ∧ t.hbm = s.hbm ∧ t.place = s.place := by
  have hm := mailbox_finish hp hb
  refine ⟨_, rfl, ?_, fun k => ?_, ?_, ?_⟩
  · refine (finish_completed (taken_beat p s)).of_mbx ?_
    rw [settledCmd_mbx, hm]
  · rw [(settledCmd_runs _ s k).1, (settledCmd_runs _ s k).2, hm]
    simp [State.part]
  · rw [settledCmd_hbm, hm, finish_hbm, taken_hbm]
  · rw [settledCmd_place, hm, finish_place, taken_place]

/-! ## The checks -/

/-- The start beat is the check after those of the context and of the partition (R391). -/
theorem submitCtx_outOfRange {p : Post} {va beat : Nat} {batch : List BatchEntry} {c : Ctx} {s : State} (hc : ctxCode s c = 1)
    (hq : (s.part (postTarget p)).st ≠ .quiesced) (hr : (s.part (postTarget p)).st ≠ .resetting)
    (hw : (s.part (postTarget p)).run = none ∨ (s.part (postTarget p)).waiting = none)
    (hb : beat < s.clock.beat + 2 ∨ s.clock.beat + 1200000 < beat) : submitCtx p va beat batch c s = reject stBadArg 0 0 0 s := by
  have hq' : ((s.part (postTarget p)).st == .quiesced || (s.part (postTarget p)).st == .resetting) = false := by simp [hq, hr]
  have hw' : ((s.part (postTarget p)).run.isSome && (s.part (postTarget p)).waiting.isSome) = false := by
    rcases hw with h | h <;> simp [h]
  have hb' : (decide (beat < s.clock.beat + 2) || decide (s.clock.beat + 1200000 < beat)) = true := by simpa using hb
  simp only [submitCtx, hc, hq', hw', hb', bne_self_eq_false, Bool.false_eq_true, if_false, if_true]

/-- Checks 10 to 13 of R391 pass. -/
structure Admits (k : Nat) (r : Run) (holds : List (Nat × Nat)) (reads writes keep : List Nat) (s v : State) : Prop where
  writeCodes : writes = Machine.writeCodes s k r.ctx r.batch r.prog
  readCodes : reads = Machine.readCodes s k r.ctx r.batch r.prog
  kept : keep = (writes ++ reads).filterMap (codeFrame s k)
  mapped : ∀ e ∈ reads, e ∉ writes → (codeMap s k e).isSome = true ∧ codeDropped s k e = false
  room : pagesNeeded s k writes ≤ freePages s k + (eligiblePages s k keep).length
  pages : v = pagesAtAcceptance s k r
  copies : copiesLate s v k (firstBeat r) = false
  entries : entriesShort s k holds.length (((writes ++ reads).filterMap (codeFrame v k)).dedup.length) = 0

theorem admitRun_of_admits {k : Nat} {r : Run} {holds : List (Nat × Nat)} {reads writes keep : List Nat} {s v : State}
    (h : Admits k r holds reads writes keep s v) :
    admitRun k r holds s = .accept none (acceptRecord r.id) r.ctx k (.run k r.id) (acceptRun k r reads writes holds v) := by
  obtain ⟨hwrites, hreads, hkeep, hmapped, hroom, hpages, hcopies, hentries⟩ := h
  have hv : admitPages k writes (dropPages k keep (pagesNeeded s k writes - freePages s k) s) = v := by
    rw [hpages, pagesAtAcceptance, ← hwrites, ← hreads, ← hkeep]
  have honly : ∀ e ∈ reads.filter (fun c => !writes.contains c), (codeMap s k e).isSome = true ∧ codeDropped s k e = false := by
    intro e he
    obtain ⟨hr, hw⟩ := List.mem_filter.1 he
    exact hmapped e hr (by simpa using hw)
  have hany : (reads.filter (fun c => !writes.contains c)).any (fun c => (codeMap s k c).isNone) = false :=
    List.any_eq_false.2 fun e he => by simp [Option.isSome_iff_ne_none.1 (honly e he).1]
  have hgone : (reads.filter (fun c => !writes.contains c)).filter (codeDropped s k) = [] :=
    List.filter_eq_nil_iff.2 fun e he => by simp [(honly e he).2]
  simp only [admitRun, ← hwrites, ← hreads, ← hkeep, hv, hany, hgone, if_neg (Nat.not_lt.2 hroom), hcopies, hentries, Nat.lt_irrefl,
    Bool.false_eq_true, if_false, List.isEmpty_nil, Bool.not_true]

/-- Checks 6 to 9 of R391 pass, and 10 to 13 do. -/
theorem checkProgram_of_admits {k va : Nat} {r : Run} {holds : List (Nat × Nat)} {reads writes keep : List Nat} {s v : State}
    (h1 : staticChecks s k r.ctx r.batch r.prog = none) (h2 : scheduleChecks s k (withPages s k r) = none)
    (h3 : stateChecks s k r.prog = none) (henergy : r.prog.version = 1 ∨ maxEnergy r ≤ 50 * (s.part k).budget)
    (hholds : holds = workingSet s r.ctx va r.prog) (hready : ∀ b ∈ holds, baleLoading s b = false ∧ baleReady s b = true)
    (hdesc : descFail r.prog (fun d => failIf (d.layout != 4 && !rangeValid s r.ctx d.base (descSpan d)) stBadArg) = none)
    (h : Admits k r holds reads writes keep s v) :
    checkProgram k va r s = .accept none (acceptRecord r.id) r.ctx k (.run k r.id) (acceptRun k r reads writes holds v) := by
  have he : (r.prog.version != 1 && decide (50 * (s.part k).budget < maxEnergy r)) = false := by
    rcases henergy with h | h
    · simp [h]
    · simp [Nat.not_lt.2 h]
  have hload : holds.any (baleLoading s) = false := List.any_eq_false.2 fun b hb => by simp [(hready b hb).1]
  have hout : holds.filter (fun b => !baleReady s b) = [] := List.filter_eq_nil_iff.2 fun b hb => by simp [(hready b hb).2]
  simp only [checkProgram, h1, h2, h3, HOrElse.hOrElse, OrElse.orElse, Option.orElse]
  simp only [checkSets, ← hholds, he, hload, hdesc, hout, Bool.false_eq_true, if_false, List.isEmpty_nil, Bool.not_true]
  exact admitRun_of_admits h

/-! ## The acceptance -/

/-- A RUN with what its acceptance on the state s fixes. -/
def acceptedRun (k : Nat) (r : Run) (reads writes : List Nat) (holds : List (Nat × Nat)) (s : State) : Run :=
  let r1 := { r with holds := holds, writeSet := (writes.filterMap (codeFrame s k)).dedup
                     readSet := (reads.filterMap (codeFrame s k)).dedup, xlat := loadPages s k r }
  { r1 with dead := deadSums s r1 }

theorem upkeep_updBale (h i : Nat) (f : Bale → Bale) (s : State) : Upkeep s (updBale h i f s) := upkeep_apart _ _ _ _ _ s

/-- The acceptance places the RUN, and numbers the next; what it marks and gives up beside that is upkeep (R248, R264, R360). -/
theorem acceptRun_eq (k : Nat) (r : Run) (reads writes : List Nat) (holds : List (Nat × Nat)) (s : State) :
    ∃ u, Upkeep s u ∧ acceptRun k r reads writes holds s =
      { updPart k (placeRun (acceptedRun k r reads writes holds s)) u with nextRun := if r.id = 0xFFFF_FFFE then 1 else r.id + 1 } := by
  refine ⟨_, ?_, rfl⟩
  have hmark : Upkeep s (markPages k (reads ++ writes) s) := .each (fun _ => upkeep_updPlace _) _ s
  have hbales := hmark.trans (.each (f := fun b : Nat × Nat => updBale b.1 b.2 fun x => { x with accessed := true, lastUse := now s })
    (fun b => upkeep_updBale b.1 b.2 _) holds _)
  refine hbales.trans (.each (fun l u => ?_) _ _)
  unfold backInvalidate
  split
  · exact upkeep_updHost _ u
  · exact ((upkeep_updHost _ u).trans (upkeep_updHost _ _)).trans (upkeep_emit _ _)

/-- t differs from s in upkeep, in the RUN z that took a place of partition k, and in the number of the next RUN (R390, R391). -/
structure Placed (k : Nat) (z : Run) (s t : State) : Prop where
  first : (s.part k).run = none → (t.part k).run = some z ∧ (t.part k).st = .accepted
  second : ∀ y, (s.part k).run = some y → (t.part k).run = some y ∧ (t.part k).waiting = some z
  others : ∀ i, i ≠ k → (t.part i).run = (s.part i).run ∧ (t.part i).waiting = (s.part i).waiting
  clock : t.clock = s.clock
  pens : t.pens = s.pens
  nextRun : t.nextRun = if z.id = 0xFFFF_FFFE then 1 else z.id + 1

theorem acceptRun_placed {s v : State} (h : Upkeep s v) (k : Nat) (r : Run) (reads writes : List Nat) (holds : List (Nat × Nat)) :
    Placed k (acceptedRun k r reads writes holds v) s (acceptRun k r reads writes holds v) := by
  obtain ⟨u, hu, e⟩ := acceptRun_eq k r reads writes holds v
  have hup := h.trans hu
  have hpart : ∀ i, (acceptRun k r reads writes holds v).part i = (updPart k (placeRun (acceptedRun k r reads writes holds v)) u).part i :=
    fun i => by rw [e]; rfl
  refine ⟨fun hn => ?_, fun y hy => ?_, fun i hi => ?_, by rw [e]; exact hup.clock, by rw [e]; exact hup.pens, by rw [e]; rfl⟩
  · rw [hpart, part_updPart_same, placeRun, (hup.run k).trans hn]
    exact ⟨rfl, rfl⟩
  · have hrun := (hup.run k).trans hy
    rw [hpart, part_updPart_same, placeRun, hrun]
    exact ⟨rfl, rfl⟩
  · rw [hpart, part_updPart, if_neg hi]
    exact ⟨hup.run i, hup.waiting i⟩

/-- Settles O35: the start beat is checked first, and a RUN that passes every check takes a place of its partition. -/
theorem runSubmission : Obligations.RunSubmission := by
  unfold Obligations.RunSubmission
  rintro p ctx va beat batch c s u rfl hp hc hcode hq hw
  have habi := taken_abi p s p.func
  have hbody : runSubmitBody p ctx va beat batch (taken p s) = submitCtx p va beat batch c (taken p s) := by
    rw [runSubmitBody, taken_checkCtx, hc]
  refine ⟨fun hb => runSubmit_rejects hp (hbody.trans ?_), ?_⟩
  · exact submitCtx_outOfRange (s := taken p s) (by rwa [taken_ctxCode]) hq (hp.running rfl) hw hb
  · intro prog r holds reads writes keep v hb hb' hl hprog hr h1 h2 h3 henergy hholds hready hdesc hwrites hreads hkeep hmapped hroom hv
      hcopies hentries
    rw [← habi] at hprog hr
    have hrprog : r.prog = prog := by rw [hr]; rfl
    have hadm := checkProgram_of_admits h1 h2 h3 (by rwa [hrprog]) hholds hready hdesc
      ⟨hwrites, hreads, hkeep, hmapped, hroom, hv, hcopies, hentries⟩
    have hctx := submitCtx_program (batch := batch) (s := taken p s) (by rwa [taken_ctxCode]) hq (hp.running rfl) hw hb hb'
      (by rwa [taken_listFull]) hprog
    rw [← hr] at hctx
    have hplaced := acceptRun_placed (hv ▸ upkeep_pagesAtAcceptance (taken p s) (postTarget p) r) (postTarget p) r reads writes holds
    obtain ⟨t, ht, haccepted, hrlen, hdata, hparts, hnext, hpens⟩ :=
      runSubmit_accepts hp (hbody.trans (hctx.trans hadm)) (by rw [hplaced.clock, taken_beat])
    have hid : r.id = s.nextRun := by rw [hr]; rfl
    have hrctx : r.ctx = c.handle := by rw [hr]; rfl
    rw [hid, hrctx] at haccepted
    rw [hid] at hdata
    refine ⟨t, acceptedRun (postTarget p) r reads writes holds v, ht, haccepted, hrlen, hdata, hid, hrctx, ?_⟩
    refine ⟨by rw [hr]; rfl, by rw [hr]; rfl, hrprog, by rw [hr]; rfl, by rw [hr]; rfl, rfl, by rw [hr]; rfl, by rw [hr]; rfl,
      by rw [hr]; rfl, by rw [hr]; rfl, by rw [hr]; rfl, rfl, ?_, ?_, ?_, hpens.trans hplaced.pens, ?_⟩
    · intro hnone
      rw [(hparts _).1, (hparts _).2.2]
      exact hplaced.first hnone
    · intro y hy
      rw [(hparts _).1, (hparts _).2.1]
      exact hplaced.second y hy
    · rw [hnext, hplaced.nextRun, ← hid]
      rfl
    · intro k hk
      rw [(hparts k).1, (hparts k).2.1]
      exact hplaced.others k hk

end Sys2Proof.Machine
end

section
/-! PROOFS. What a beat boundary does beside the start of RUNs (R56, R248, R305, R324, R386 to R389, R395, R398, R403, R408, R421 to R424,
R485): upkeep, and nothing where nothing is due. -/

namespace Sys2Proof.Machine

/-! ## Bales and frames (R235 to R248) -/

theorem upkeep_toT2 (h i : Nat) (s : State) : Upkeep s (toT2 h i s) := by
  have hentry : ∀ u, Upkeep u (entryChange h u) := by
    intro u
    unfold entryChange
    split
    · exact upkeep_noteChange _ _ u
    · exact .refl u
  unfold toT2
  dsimp only
  split
  · rename_i a _
    exact (upkeep_updBale h i _ s).trans (Upkeep.trans (t := unmarkFrame a _) (upkeep_updHbm _ _) (hentry _))
  · exact upkeep_updBale h i _ s

theorem upkeep_evictBale (h i : Nat) (s : State) : Upkeep s (evictBale h i s) := by
  unfold evictBale
  split
  · split
    · exact upkeep_updBale h i _ s
    · exact upkeep_toT2 h i s
  · exact .refl s

theorem upkeep_giveFrame (h i : Nat) (s : State) : Upkeep s (giveFrame h i s) := by
  unfold giveFrame
  split
  · exact .refl s
  · split
    · exact .refl s
    · dsimp only
      split
      · exact upkeep_updBale _ _ _ s
      · exact (upkeep_updBale _ _ _ s).trans (upkeep_updPlace _ _)

theorem upkeep_makeRoomFor (k : Nat) (s : State) : Upkeep s (makeRoomFor k s) := by
  unfold makeRoomFor
  split
  · split
    · exact upkeep_evictBale _ _ s
    · exact .refl s
  · exact .refl s

theorem upkeep_serveFrames (k : Nat) (s : State) : Upkeep s (serveFrames k s) := by
  have h : Upkeep s (forAll (waitingBales s k) (fun b t => giveFrame b.1 b.2 (makeRoomFor k t)) s) :=
    .each (fun (b : Nat × Nat) u => (upkeep_makeRoomFor k u).trans (upkeep_giveFrame b.1 b.2 _)) _ s
  unfold serveFrames clearFailed
  split
  · exact h.trans (upkeep_updPlace _ _)
  · exact h

theorem upkeep_settle (evict : Bool) (h i : Nat) (e : TransferEnd) (s : State) : Upkeep s (settle evict h i e s) := by
  refine (upkeep_updHost _ s).trans (.each (fun g t => ?_) _ _)
  split
  · exact upkeep_completeProg _ _ _ t
  · exact .refl t

theorem upkeep_unmapTensor (ctx h : Nat) (s : State) : Upkeep s (unmapTensor ctx h s) := by
  have hdrop : ∀ u, Upkeep u (dropTensor h u) := by
    intro u
    unfold dropTensor
    split
    · exact .refl u
    · refine ((upkeep_updPlace _ u).trans (.each (fun _ => upkeep_updHbm _) _ _)).trans (.each (fun i v => ?_) _ _)
      exact (upkeep_settle _ _ _ _ v).trans (upkeep_settle _ _ _ _ _)
  have h1 := upkeep_updPlace (fun p => { p with tensors := mapIf (fun t => t.handle == h) (fun t => { t with
    maps := t.maps.filter fun m => m.ctx != ctx
    bales := t.bales.map fun b =>
      let b1 := if b.pin == some ctx then { b with st := .resident, pin := none } else b
      if b1.pinPending == some ctx then { b1 with pinPending := none } else b1 }) p.tensors }) s
  unfold unmapTensor updTensor
  dsimp only
  split
  · split
    · exact (h1.trans (hdrop _)).trans (upkeep_serveFrames _ _)
    · exact h1
  · exact h1

/-! ## Codec sessions (R305, R307, R324) -/

theorem upkeep_kickPipe (p : Nat) (s : State) : Upkeep s (kickPipe p s) := by
  unfold kickPipe
  dsimp only
  split
  · exact .refl s
  · split
    · exact upkeep_updPipe p _ s fun _ => rfl
    · exact .refl s

theorem upkeep_writeT1 (pa : Nat) (d : List Byte) (s : State) : Upkeep s (writeT1 pa d s) := by
  unfold writeT1
  dsimp only
  split
  · exact (upkeep_updHbm _ s).trans (upkeep_updBale _ _ _ _)
  · exact upkeep_updHbm _ s

theorem upkeep_zeroVa (ctx va n : Nat) (s : State) : Upkeep s (zeroVa ctx va n s) := by
  refine .each (fun a t => ?_) _ s
  extract_lets lo hi
  split
  · unfold clearT1
    split
    · exact upkeep_updHbm _ t
    · exact upkeep_writeT1 _ _ t
  · exact .refl t

theorem upkeep_endCodecCmd (h st : Nat) (res : List Byte) (s : State) : Upkeep s (endCodecCmd h st res s) := by
  unfold endCodecCmd
  split
  · exact .refl s
  · have h1 := fun x : Session => (upkeep_updSessions (fun l => mapIf (fun y => y.handle == h)
      (fun y => { y with cmd := none, state := if y.state = 2 then 2 else 0 }) l) s).trans
      (upkeep_updPipe x.pipe (fun q => if q.session == some h then { q with busy := false, session := none } else q) _
        fun q => by split <;> rfl)
    dsimp only
    split
    · exact (h1 _).trans (upkeep_completeProg _ _ _ _)
    · exact h1 _

theorem upkeep_removeSession (h : Nat) (s : State) : Upkeep s (removeSession h s) := by
  unfold removeSession
  split
  · exact .refl s
  · rename_i x _
    extract_lets t u
    have ht : Upkeep s t := (upkeep_zeroVa _ _ _ s).trans (upkeep_updSessions (fun l => l.filter fun y => y.handle != h) _)
    have hu : Upkeep s u := by
      unfold u
      split
      · exact ht.trans (upkeep_updPipe _ _ t fun q => by split <;> rfl)
      · exact ht
    split
    · exact hu.trans (upkeep_completeProg _ _ _ u)
    · exact hu

theorem upkeep_abortSession (st h : Nat) (s : State) : Upkeep s (abortSession st h s) := by
  unfold abortSession
  split
  · exact .refl s
  · dsimp only
    refine Upkeep.trans ?_ ((upkeep_removeSession h _).trans (upkeep_kickPipe _ _))
    split
    · exact upkeep_endCodecCmd _ _ _ s
    · exact .refl s

/-! ## Contexts (R385 to R389, R398, R408) -/

theorem upkeep_makeResident (k h : Nat) (s : State) : Upkeep s (makeResident k h s) :=
  ((upkeep_updCtx h _ s).trans (upkeep_updPart k _ _ (by intro _; rfl))).trans (upkeep_completeAll _ _ _)

theorem upkeep_finishSwaps (k : Nat) (s : State) : Upkeep s (finishSwaps k s) := by
  refine .each (fun e t => ?_) _ s
  split
  · exact .refl t
  · have h := (upkeep_updCtx e.1 (fun c => { c with out := true, byShepherd := e.2.isSome }) t).trans
      (upkeep_updPart k (fun q => { q with swapping := q.swapping.filter fun x => x.1 != e.1 }) _ (by intro _; rfl))
    dsimp only
    split
    · split
      · exact h.trans (upkeep_makeResident _ _ _)
      · exact h
    · exact h

theorem upkeep_swapOut (k h : Nat) (reserved : Option Nat) (s : State) : Upkeep s (swapOut k h reserved s) :=
  (((Upkeep.each (fun b : Nat × Nat => upkeep_evictBale b.1 b.2) _ s).trans (upkeep_updPart k _ _ (by intro _; rfl))).trans
    (upkeep_finishSwaps k _)).trans (upkeep_serveFrames k _)

theorem upkeep_resideTurns : ∀ n k s, Upkeep s (resideTurns n k s)
  | 0, _, s => .refl s
  | n + 1, k, s => by
    unfold resideTurns
    split
    · exact .refl s
    · split
      · exact (upkeep_makeResident _ _ s).trans (upkeep_resideTurns n k _)
      · split
        · split
          · exact (upkeep_swapOut _ _ _ s).trans (upkeep_resideTurns n k _)
          · exact .refl s
        · exact .refl s

theorem upkeep_resideDecisions (s : State) : Upkeep s (resideDecisions s) :=
  .each (fun _ _ => .settled (upkeep_resideTurns _ _ _)) _ s

theorem upkeep_releaseResources (h st : Nat) (s : State) : Upkeep s (releaseResources h st s) :=
  (((Upkeep.each (fun x : Session => upkeep_abortSession st x.handle) _ s).trans
    (.each (fun t : Tensor => upkeep_unmapTensor h t.handle) _ _)).trans
    (.each (fun q : KvSeq => upkeep_destroySeq q.part q.handle) _ _)).trans
    (.each (fun k u => upkeep_updPart k _ u (by intro _; rfl)) _ _)

theorem upkeep_updCancels (f : List (Nat × Nat) → List (Nat × Nat)) (s : State) :
    Upkeep s (updRecov (fun v => { v with cancels := f v.cancels }) s) := upkeep_updRecov _ s rfl fun x hx h => ⟨x, hx, h⟩

theorem upkeep_finishCancels (s : State) : Upkeep s (finishCancels s) := by
  refine .each (fun e t => ?_) _ s
  split
  · exact .refl t
  · exact (((upkeep_releaseResources e.1 stCancelled t).trans (upkeep_updCtx e.1 _ _)).trans
      (upkeep_updCancels (fun l => l.filter fun x => x.1 != e.1) _)).trans (upkeep_completeAll _ _ _)

theorem upkeep_evaluateWaits (s : State) : Upkeep s (evaluateWaits s) := by
  refine .each (fun g t => ?_) _ s
  split
  · split
    · split
      · exact (upkeep_updCtx _ _ t).trans (upkeep_completeProg _ _ _ _)
      · exact .refl t
    · exact .refl t
  · exact .refl t

/-! ## The shepherd's records (R421 to R424, R485) -/

/-- What an update of a step of level 2 keeps: its level. -/
theorem upkeep_updStep (e : Nat) (f : LadderStep → LadderStep) (hf : ∀ x, (f x).level = x.level) (s : State) :
    Upkeep s (updStep e f s) := by
  refine upkeep_updRecov _ s rfl fun x hx hl => ?_
  obtain ⟨y, hy, rfl⟩ := List.mem_map.1 hx
  refine ⟨y, hy, ?_⟩
  split at hl
  · rwa [hf] at hl
  · exact hl

theorem upkeep_endSearch (e : Nat) (s : State) : Upkeep s (endSearch e s) := by
  have hdrop : Upkeep s (dropStep e s) := upkeep_updRecov _ s rfl fun x hx h => ⟨x, (List.mem_filter.1 hx).1, h⟩
  unfold endSearch
  split
  · exact .refl s
  · split
    · dsimp only
      split
      · exact hdrop
      · exact hdrop.trans (told_daybook _ _ _ _ _ _).upkeep
    · exact .refl s

theorem upkeep_passIdleSuspects (s : State) : Upkeep s (passIdleSuspects s) := by
  refine .each (fun st t => ?_) _ s
  split
  · split
    · exact .refl t
    · exact (upkeep_updStep _ _ (fun x => by split <;> rfl) t).trans (upkeep_endSearch _ _)
  · exact .refl t

theorem upkeep_openDaybook (s : State) : Upkeep s (openDaybook s) := by
  have happend : ∀ r u, Told u (appendRecord r u) := fun r u =>
    (told_updRecov _ (by intro _; rfl) u).trans (told_setEvent _ _ _)
  have hs : ∀ l u, Upkeep u (forAll l appendRecord u) := .each fun r u => (happend r u).upkeep
  unfold openDaybook
  extract_lets d n s1 s2
  have h2 : Upkeep s s2 := (told_updRecov _ (by intro _; rfl) s).upkeep.trans (hs _ _)
  split
  · exact h2
  · exact h2.trans (told_daybook _ _ _ _ _ _).upkeep

/-- No step was queued, and none starts (R427). -/
theorem upkeep_startQueuedSteps {s : State} (h : s.recov.resetQueued = []) : Upkeep s (startQueuedSteps s) := by
  unfold startQueuedSteps
  extract_lets due
  rw [h]
  exact upkeep_updRecov (fun v => { v with resetQueued := v.resetQueued.filter fun q => !due q }) s (by simp [h])
    fun x hx hl => ⟨x, hx, hl⟩

/-! ## Hangs (R403) -/

/-- No pipeline has raised WATCHDOG, and every gate that is UP has sent an idle word since the beat that ended began. -/
structure Quiet (s : State) : Prop where
  raised : ∀ i < 6, (s.pipe i).raised = false
  idle : ∀ g < 16, gateUp s g = true → 100 * (s.clock.beat - 1) < (s.gate g).lastIdle

theorem watchdogHangs_of_quiet {s : State} (h : Quiet s) : watchdogHangs s = [] :=
  List.filterMap_eq_nil_iff.2 fun i hi => by simp [h.raised i (List.mem_range.1 hi)]

theorem idleHangs_of_quiet {s : State} (h : Quiet s) : idleHangs s = [] := by
  refine List.filterMap_eq_nil_iff.2 fun g hg => if_neg fun hc => ?_
  simp only [Bool.and_eq_true, decide_eq_true_eq] at hc
  exact absurd (h.idle g (List.mem_range.1 hg) hc.1.1) (by omega)

theorem forAll_updPipe_same (f : Pipe → Pipe) (l : List Nat) (s : State) : ∃ c, forAll l (fun p => updPipe p f) s = { s with codec := c } := by
  refine forAll_induct (P := fun u => ∃ c, u = { s with codec := c }) ?_ l ⟨s.codec, rfl⟩
  rintro p u ⟨c, rfl⟩
  exact ⟨_, rfl⟩

theorem takeHangs_same {s : State} (h : Quiet s) : ∃ c, takeHangs [] s = { s with codec := c, recov := { s.recov with hung := [] } } := by
  have e : takeHangs [] s = forAll (List.range 6) (fun p => updPipe p fun q => { q with raised := false })
      (updRecov (fun v => { v with hung := [] }) s) := by
    simp only [takeHangs, watchdogHangs_of_quiet h, idleHangs_of_quiet h, List.filter_nil, List.append_nil, forAll_nil]
  obtain ⟨c, hc⟩ := forAll_updPipe_same (fun q => { q with raised := false }) (List.range 6) (updRecov (fun v => { v with hung := [] }) s)
  exact ⟨c, by rw [e, hc]; rfl⟩

end Sys2Proof.Machine
end

section
/-! PROOFS. Beat boundaries: the clock, the bell, HOLD, and the start and resumption of RUNs (R47, R51, R56, R73, R392, R393, R400). -/

namespace Sys2Proof.Machine

/-! ## What leaves a RUN where it is -/

/-- t has the RUNs of s, in their states, outside the partitions of K; and what would keep a partition from resuming is not more. -/
structure Spares (K : Set Nat) (s t : State) : Prop where
  mode : t.mode = s.mode
  stopping : stopping s = false → stopping t = false
  parts : ∀ i, i ∉ K → t.part i = { s.part i with changes := (t.part i).changes, copies := (t.part i).copies,
                                                  resides := (t.part i).resides, swapping := (t.part i).swapping }

namespace Spares

theorem refl (K : Set Nat) (s : State) : Spares K s s := ⟨rfl, id, fun _ _ => rfl⟩

theorem trans {K : Set Nat} {s t u : State} (h : Spares K s t) (g : Spares K t u) : Spares K s u where
  mode := g.mode.trans h.mode
  stopping := fun hs => g.stopping (h.stopping hs)
  parts := fun i hi => by
    have e := g.parts i hi
    rwa [h.parts i hi] at e

theorem mono {K L : Set Nat} {s t : State} (h : Spares K s t) (hKL : K ⊆ L) : Spares L s t :=
  ⟨h.mode, h.stopping, fun i hi => h.parts i fun hk => hi (hKL hk)⟩

section
variable {K : Set Nat} {s t : State} {i : Nat} (h : Spares K s t) (hi : i ∉ K)
include h hi

theorem run : (t.part i).run = (s.part i).run := by rw [h.parts i hi]
theorem st : (t.part i).st = (s.part i).st := by rw [h.parts i hi]
theorem lag : (t.part i).lag = (s.part i).lag := by rw [h.parts i hi]
theorem retry : (t.part i).retry = (s.part i).retry := by rw [h.parts i hi]
theorem retries : (t.part i).retries = (s.part i).retries := by rw [h.parts i hi]
theorem quiescedAt : (t.part i).quiescedAt = (s.part i).quiescedAt := by rw [h.parts i hi]

end

end Spares

theorem stopping_eq_false_iff {s : State} : stopping s = false ↔
    (∀ x ∈ s.recov.steps, x.level ≠ 4) ∧ s.power.supply ≠ 2 ∧ s.power.cycleReq = false ∧ s.recov.tripped = false := by
  simp [stopping, and_assoc]

theorem Upkeep.spares {s t : State} (h : Upkeep s t) (K : Set Nat) : Spares K s t where
  mode := h.mode
  stopping := fun hs => by
    obtain ⟨hsteps, hsupply, hcycle, htripped⟩ := stopping_eq_false_iff.1 hs
    refine stopping_eq_false_iff.2 ⟨fun x hx hl => ?_, by rwa [h.supply], by rwa [h.cycleReq], by rw [h.recov]; exact htripped⟩
    obtain ⟨y, hy, hl'⟩ := h.steps x hx hl
    exact hsteps y hy hl'
  parts := fun i _ => h.parts i

theorem Finishes.spares {K : Set Nat} {s t : State} (h : Finishes K s t) : Spares K s t where
  mode := by rw [h.same]
  stopping := fun hs => by
    have hpower : t.power = s.power := by rw [h.same]
    have e : stopping t = stopping s := by unfold stopping; rw [hpower, h.recov]
    rw [e, hs]
  parts := fun i hi => by rw [h.others i hi]

/-! ## The partitions at a boundary -/

/-- t differs from s in the RUNs of the partitions of K and in the tally unit; the clock and the bell stand. -/
structure Paced (K : Set Nat) (s t : State) : Prop extends Spares K s t where
  clock : t.clock = s.clock
  missed : t.recov.missed = s.recov.missed
  last : t.recov.last = s.recov.last

/-- t differs from s in the RUNs of the partitions of K; the clock, the bell and the tally unit stand. -/
structure Pulses (K : Set Nat) (s t : State) : Prop extends Paced K s t where
  tally : t.tally = s.tally

theorem Paced.trans {K : Set Nat} {s t u : State} (h : Paced K s t) (g : Paced K t u) : Paced K s u :=
  ⟨h.toSpares.trans g.toSpares, g.clock.trans h.clock, g.missed.trans h.missed, g.last.trans h.last⟩

namespace Pulses

theorem refl (K : Set Nat) (s : State) : Pulses K s s := ⟨⟨.refl K s, rfl, rfl, rfl⟩, rfl⟩

theorem trans {K : Set Nat} {s t u : State} (h : Pulses K s t) (g : Pulses K t u) : Pulses K s u :=
  ⟨h.toPaced.trans g.toPaced, g.tally.trans h.tally⟩

theorem mono {K L : Set Nat} {s t : State} (h : Pulses K s t) (hKL : K ⊆ L) : Pulses L s t :=
  ⟨⟨h.toSpares.mono hKL, h.clock, h.missed, h.last⟩, h.tally⟩

end Pulses

theorem Upkeep.pulses {s t : State} (h : Upkeep s t) (K : Set Nat) : Pulses K s t :=
  ⟨⟨h.spares K, h.clock, by rw [h.recov], by rw [h.recov]⟩, h.tally⟩

theorem Finishes.pulses {K : Set Nat} {s t : State} (h : Finishes K s t) : Pulses K s t :=
  ⟨⟨h.spares, by rw [h.same], by rw [h.recov], by rw [h.recov]⟩, by rw [h.same]⟩

theorem pulses_updPart (k : Nat) (f : Part → Part) (s : State) : Pulses {k} s (updPart k f s) := (finishes_updPart k f s).pulses

theorem endWaiting_of_none {k : Nat} {s : State} (h : (s.part k).waiting = none) (st c : Nat) : endWaiting k st c s = s := by
  simp only [endWaiting, h]

theorem pulses_endWaiting (k st c : Nat) (s : State) : Pulses {k} s (endWaiting k st c s) := by
  cases h : (s.part k).waiting with
  | none => rw [endWaiting_of_none h]; exact .refl _ s
  | some w => exact (endWaiting_finishes h st c).1.pulses

theorem pulses_endRun (k st c w i : Nat) (s : State) : Pulses {k} s (endRun k st c w i s) := by
  cases h : (s.part k).run with
  | none => unfold endRun; rw [h]; exact .refl _ s
  | some r => exact (endRun_finishes h st c w i).pulses

theorem pulses_beginRun (k : Nat) (s : State) : Pulses {k} s (beginRun k s) := by
  unfold beginRun
  extract_lets t
  have ht : Pulses {k} s t := by
    unfold t beginAccepted
    split
    · split
      · exact pulses_endRun _ _ _ _ _ s
      · exact pulses_updPart k _ s
    · exact .refl _ s
  split
  · exact ht.trans (pulses_endWaiting _ _ _ _)
  · exact ht

theorem pulses_stopDecoded (k : Nat) (s : State) : Pulses {k} s (stopDecoded k s) := by
  unfold stopDecoded
  split
  · exact .refl _ s
  · split
    · split
      · exact pulses_updPart k _ s
      · exact .refl _ s
    · exact .refl _ s

theorem pulses_resumeAt (k beat : Nat) (counted : Bool) (s : State) : Pulses {k} s (resumeAt k beat counted s) := by
  unfold resumeAt
  split
  · exact .refl _ s
  · exact pulses_updPart k _ s

theorem pulses_retryPart (k : Nat) (s : State) : Pulses {k} s (retryPart k s) := by
  unfold retryPart
  dsimp only
  split
  · exact pulses_resumeAt _ _ _ s
  · exact .refl _ s

theorem pulses_startRun (k : Nat) (s : State) : Pulses {k} s (startRun k s) := by
  unfold startRun
  split
  · split
    · exact pulses_updPart k _ s
    · exact .refl _ s
  · exact .refl _ s

/-- The beginning of RUNs in a partition, where it is due. -/
def begun (k : Nat) (s : State) : State := if beginDue s k then settled (beginRun k) s else s

theorem pulsePart_eq (k : Nat) (s : State) : pulsePart k s = startRun k (retryPart k (stopDecoded k (begun k s))) := rfl

theorem pulses_begun (k : Nat) (s : State) : Pulses {k} s (begun k s) := by
  unfold begun
  split
  · exact (pulses_beginRun k s).trans ((settled_resettled _ s).upkeep.pulses _)
  · exact .refl _ s

theorem pulses_pulsePart (k : Nat) (s : State) : Pulses {k} s (pulsePart k s) :=
  (((pulses_begun k s).trans (pulses_stopDecoded k _)).trans (pulses_retryPart k _)).trans (pulses_startRun k _)

/-- RUNs that an engine reset left quiesced resume in their own partitions: one that retries by itself, or that is not quiesced, stays
(R422). -/
theorem pulses_resumeHeld (s : State) :
    Pulses {k | (s.part k).st = .quiesced ∧ (s.part k).retry = false} s (resumeHeld s) := by
  unfold resumeHeld
  split
  · exact .refl _ s
  · refine forAll_induct (P := Pulses _ s) (fun k u h => ?_) _ (.refl _ s)
    by_cases hk : k ∈ {k | (s.part k).st = .quiesced ∧ (s.part k).retry = false}
    · refine h.trans (Pulses.mono (K := {k}) ?_ (Set.singleton_subset_iff.2 hk))
      split
      · split
        · exact pulses_resumeAt _ _ _ u
        · exact .refl _ u
      · exact .refl _ u
    · split
      case h_1 hst _ =>
        have hr : (u.part k).retry = true := by
          rw [h.retry hk]
          exact Bool.eq_true_of_not_eq_false fun hr => hk ⟨(h.st hk).symm.trans hst, hr⟩
        rw [hr]
        exact h
      case h_2 => exact h

/-! ## One partition at a boundary -/

/-- What the partition of a RUN brings to a boundary: its decode has not stopped, and its end is not decided. -/
structure Standing (k : Nat) (r : Run) (s : State) : Prop where
  run : (s.part k).run = some r
  decoded : r.decodeStop = none
  open_ : r.ending = none

/-- Where beat Bd of the RUN has come before, only a waiting RUN is decided on. -/
theorem begun_keeps {k : Nat} {s : State} (h : acceptedDue s k = false) :
    ∃ w l, (begun k s).part k = { s.part k with waiting := w, resides := l } := by
  unfold begun
  split
  · rw [(settled_resettled _ s).queues, beginRun, h]
    dsimp only
    rw [if_neg Bool.false_ne_true]
    split
    · cases hw : (s.part k).waiting with
      | none => exact ⟨(s.part k).waiting, _, by rw [endWaiting_of_none hw]⟩
      | some w => exact ⟨none, _, by rw [(endWaiting_finishes hw _ _).2]⟩
    · exact ⟨_, _, rfl⟩
  · exact ⟨_, _, rfl⟩

theorem stopDecoded_of_standing {k : Nat} {r : Run} {s : State} (h : Standing k r s) : stopDecoded k s = s := by
  simp only [stopDecoded, h.run, h.decoded]

/-- An accepted RUN whose drovers have begun runs from its start beat on (R56). -/
theorem pulsePart_starts {k : Nat} {r : Run} {s : State} (h : Standing k r s) (hst : (s.part k).st = .accepted) (hb : r.begun = true)
    (hbeat : r.startBeat ≤ s.clock.beat) : ((pulsePart k s).part k).st = .running := by
  obtain ⟨w, l, hpart⟩ := begun_keeps (k := k) (s := s) (by simp [acceptedDue, hst, h.run, hb])
  have hclock := (pulses_begun k s).clock
  have hs : Standing k r (begun k s) := ⟨by rw [hpart]; exact h.run, h.decoded, h.open_⟩
  have hst' : ((begun k s).part k).st = .accepted := by rw [hpart]; exact hst
  have hretry : retryPart k (begun k s) = begun k s := by simp [retryPart, hst']
  rw [pulsePart_eq, stopDecoded_of_standing hs, hretry, startRun, hst', hs.run]
  simp only [hb, hclock, hbeat, decide_true, Bool.and_self, if_true]
  rw [part_updPart_same]

/-- A RUN that does not use the fabric resumes with the shift of R73, which never falls (log 53). -/
theorem part_resumeAt {k : Nat} {r : Run} {s : State} (hr : (s.part k).run = some r) (hf : r.prog.fabric = false) (beat : Nat) :
    (resumeAt k beat true s).part k = { s.part k with
      st := .running, retry := false, lag := 0, retries := min 255 ((s.part k).retries + 1)
      run := some { r with shift := max r.shift (shiftFor r beat) } } := by
  simp only [resumeAt, hr, hf, Bool.false_eq_true, if_false, if_true, Nat.max_zero]
  rw [part_updPart_same]

/-- A quiesced RUN that is to retry, and does not use the fabric, resumes with the shift of R73. -/
theorem pulsePart_retries {k : Nat} {r : Run} {s : State} (h : Standing k r s) (hst : (s.part k).st = .quiesced)
    (hr : (s.part k).retry = true) (hat : (s.part k).quiescedAt < s.clock.beat) (hf : r.prog.fabric = false) (hs : stopping s = false) :
    ∃ w l, (pulsePart k s).part k = { s.part k with
      st := .running, retry := false, lag := 0, retries := min 255 ((s.part k).retries + 1)
      run := some { r with shift := max r.shift (shiftFor r s.clock.beat) }, waiting := w, resides := l } := by
  obtain ⟨w, l, hpart⟩ := begun_keeps (k := k) (s := s) (by simp [acceptedDue, hst])
  have hpulse := pulses_begun k s
  have hs' : Standing k r (begun k s) := ⟨by rw [hpart]; exact h.run, h.decoded, h.open_⟩
  have hretry : retryPart k (begun k s) = resumeAt k s.clock.beat true (begun k s) := by
    simp [retryPart, h.open_, hf, hpulse.stopping hs, hpart, hst, hr, hat, hpulse.clock, h.run]
  refine ⟨w, l, ?_⟩
  rw [pulsePart_eq, stopDecoded_of_standing hs', hretry]
  have hresume := part_resumeAt hs'.run hf s.clock.beat
  have hrun : startRun k (resumeAt k s.clock.beat true (begun k s)) = resumeAt k s.clock.beat true (begun k s) := by
    unfold startRun
    rw [hresume]
  rw [hrun, hresume, hpart]

/-! ## Every partition at a boundary -/

theorem pulses_forAll (l : List Nat) (s : State) : Pulses {i | i ∈ l} s (forAll l pulsePart s) :=
  forAll_induct_mem (P := Pulses {i | i ∈ l} s)
    (fun k hk u h => h.trans ((pulses_pulsePart k u).mono (Set.singleton_subset_iff.2 hk))) (.refl _ s)

/-- The partitions take their turns: held RUNs first, then each partition's own (R56, R73, R422). -/
def pulseParts (s : State) : State := forAll (partList s) pulsePart (resumeHeld s)

theorem pulses_pulseParts (s : State) : Pulses Set.univ s (pulseParts s) :=
  ((pulses_resumeHeld s).mono (Set.subset_univ _)).trans ((pulses_forAll _ _).mono (Set.subset_univ _))

/-- A partition whose RUN no engine reset holds has its one turn, before and after those of other partitions. -/
theorem pulseParts_at {s : State} {k : Nat} (hk : k < s.mode) (h : (s.part k).st = .quiesced → (s.part k).retry = true) :
    ∃ v, Pulses {i | i ≠ k} s v ∧ Spares {i | i ≠ k} (pulsePart k v) (pulseParts s) := by
  obtain ⟨l1, l2, h1, h2, e⟩ := forAll_split (f := pulsePart) (l := partList s) List.nodup_range (List.mem_range.2 hk) (resumeHeld s)
  refine ⟨_, ((pulses_resumeHeld s).mono ?_).trans ((pulses_forAll l1 _).mono fun i hi hik => h1 (hik ▸ hi)), ?_⟩
  · rintro i ⟨hst, hr⟩ rfl
    rw [h hst] at hr
    cases hr
  · rw [pulseParts, e]
    exact (pulses_forAll l2 _).toSpares.mono fun i hi hik => h2 (hik ▸ hi)

theorem Standing.of_spares {k : Nat} {r : Run} {s t : State} {K : Set Nat} (h : Standing k r s) (g : Spares K s t) (hk : k ∉ K) :
    Standing k r t := ⟨(g.run hk).trans h.run, h.decoded, h.open_⟩

section
variable {k : Nat} {r : Run} {s : State} (hk : k < s.mode) (h : Standing k r s)
include hk h

theorem pulseParts_starts (hst : (s.part k).st = .accepted) (hb : r.begun = true) (hbeat : r.startBeat ≤ s.clock.beat) :
    ((pulseParts s).part k).st = .running := by
  obtain ⟨v, hv, ht⟩ := pulseParts_at hk (by rw [hst]; rintro ⟨⟩)
  rw [ht.st (fun h => h rfl)]
  exact pulsePart_starts (h.of_spares hv.toSpares fun h => h rfl) ((hv.st fun h => h rfl).trans hst) hb (by rwa [hv.clock])

theorem pulseParts_retries (hst : (s.part k).st = .quiesced) (hr : (s.part k).retry = true) (hat : (s.part k).quiescedAt < s.clock.beat)
    (hf : r.prog.fabric = false) (hs : stopping s = false) :
    ((pulseParts s).part k).st = .running ∧ ((pulseParts s).part k).lag = 0
      ∧ ((pulseParts s).part k).retries = min 255 ((s.part k).retries + 1)
      ∧ ((pulseParts s).part k).run = some { r with shift := max r.shift (shiftFor r s.clock.beat) } := by
  obtain ⟨v, hv, ht⟩ := pulseParts_at hk fun _ => hr
  have hn : k ∉ {i | i ≠ k} := fun h => h rfl
  obtain ⟨w, l, hpart⟩ := pulsePart_retries (h.of_spares hv.toSpares hn) ((hv.st hn).trans hst) ((hv.retry hn).trans hr)
    (by rwa [hv.quiescedAt hn, hv.clock]) hf (hv.stopping hs)
  rw [ht.st hn, ht.lag hn, ht.retries hn, ht.run hn, hpart, hv.retries hn, hv.clock]
  exact ⟨rfl, rfl, rfl, rfl⟩

end

/-! ## The boundary before the RUNs -/

/-- The boundary's work up to the tally unit: posts, codecs, the pool, the clock, the daybook and the power of the beat. -/
def openBeat (s : State) : State := countCool (closePowerBeat (openDaybook (tick (notePool (serveCodecs (runSampled s))))))

/-- The shepherd's work up to the bell. -/
def tend (s : State) : State := startQueuedSteps (passIdleSuspects (settled finishCancels (resideDecisions (settled evaluateWaits s))))

theorem beatBoundary_eq (alive : Bool) (hangs : List Hang) (s : State) : beatBoundary alive hangs s =
    snapshot (pulseParts (ringBell alive (settled (takeHangs hangs) (tend (pulseTally (openBeat s)))))) := rfl

theorem Upkeep.tick {s t : State} (h : Upkeep s t) : Upkeep (tick s) (tick t) :=
  ⟨congrArg Machine.tick h.same, h.parts, h.raised, h.recov, h.steps, h.supply, h.cycleReq⟩

theorem upkeep_notePool (s : State) : Upkeep s (notePool s) := upkeep_updPlace _ s

theorem upkeep_runSampled {s : State} (h : s.host.sampled = []) : Upkeep s (runSampled s) := by
  rw [runSampled, h, forAll_nil]
  exact upkeep_updHost _ s

theorem upkeep_serveCodecs (s : State) : Upkeep s (serveCodecs s) := .each upkeep_kickPipe _ s

theorem upkeep_closePowerBeat (s : State) : Upkeep s (closePowerBeat s) := by
  refine upkeep_updPower _ s ?_ ?_
  · dsimp only
    split <;> rfl
  · dsimp only
    split <;> rfl

theorem upkeep_countCool (s : State) : Upkeep s (countCool s) := upkeep_updPower _ s rfl rfl

theorem upkeep_openBeat {s : State} (h : s.host.sampled = []) : Upkeep (tick s) (openBeat s) :=
  ((((upkeep_runSampled h).trans (upkeep_serveCodecs _)).trans (upkeep_notePool _)).tick.trans (upkeep_openDaybook _)).trans
    ((upkeep_closePowerBeat _).trans (upkeep_countCool _))

theorem upkeep_tend {s : State} (h : s.recov.resetQueued = []) : Upkeep s (tend s) := by
  have h1 : Upkeep s (passIdleSuspects (settled finishCancels (resideDecisions (settled evaluateWaits s)))) :=
    (((upkeep_evaluateWaits s).settled.trans (upkeep_resideDecisions _)).trans (upkeep_finishCancels _).settled).trans
      (upkeep_passIdleSuspects _)
  exact h1.trans (upkeep_startQueuedSteps (by rw [h1.recov]; exact h))

/-- The tally unit at a boundary counts HOLD in HOLDOVER, which an election may end (R51, R344). -/
theorem pulseTally_retuned (s : State) : ∃ z, Retuned z s (pulseTally s)
    ∧ (s.tally.st = .holdover → z.hold = min 200 (s.tally.hold + 1) ∨ z.st ≠ .holdover) := by
  obtain ⟨z, ⟨st, hold, hz, hh⟩, hhold, -⟩ := elect_settles (tallyBeat s)
  have hbeat : Retuned (tallyBeat s).tally s (tallyBeat s) := Told.refl _
  have hout : ∀ u, Told u (beatOut u) := fun u => by
    unfold beatOut
    split
    · exact told_emit _ _
    · exact .refl _
  refine ⟨_, (hbeat.trans hz).told (hout _), fun hs => ?_⟩
  by_cases hst : st = .holdover
  · left
    change hold = _
    rw [hh hs hst, hhold]
    change (if s.tally.st = .holdover then min 200 (s.tally.hold + 1) else s.tally.hold) = _
    rw [if_pos hs]
  · exact .inr hst

theorem Retuned.paced {z : Tally} {s t : State} (h : Retuned z s t) (K : Set Nat) : Paced K s t where
  mode := by rw [Told.same h]
  stopping := fun hs => by
    have hpower : t.power = s.power := by rw [Told.same h]
    have e : Machine.stopping t = Machine.stopping s := by unfold Machine.stopping; rw [hpower, Told.recov h]
    rw [e, hs]
  parts := fun i _ => by rw [Told.part h i]; rfl
  clock := h.clock
  missed := by rw [Told.recov h]
  last := by rw [Told.recov h]

section
variable {z : Tally} {s t : State} (h : Retuned z s t)
include h

theorem Retuned.gate (g : Nat) : t.gate g = s.gate g := by rw [Told.same h]; rfl
theorem Retuned.pipe (i : Nat) : t.pipe i = s.pipe i := by rw [Told.same h]; rfl
theorem Retuned.resetQueued : t.recov.resetQueued = s.recov.resetQueued := by rw [Told.recov h]

end

theorem Upkeep.resetQueued {s t : State} (h : Upkeep s t) : t.recov.resetQueued = s.recov.resetQueued := by rw [h.recov]

theorem pulses_takeHangs {s : State} (h : Quiet s) (K : Set Nat) : Pulses K s (settled (takeHangs []) s) := by
  obtain ⟨c, e⟩ := takeHangs_same h
  have h1 : Pulses K s (takeHangs [] s) := by
    rw [e]
    exact ⟨⟨⟨rfl, id, fun _ _ => rfl⟩, rfl, rfl, rfl⟩, rfl⟩
  exact h1.trans ((settled_resettled _ s).upkeep.pulses K)

theorem ringBell_spares (alive : Bool) (s : State) : Spares ∅ s (ringBell alive s) ∧ (ringBell alive s).clock = s.clock
    ∧ (ringBell alive s).tally = s.tally := by
  cases alive <;> exact ⟨⟨rfl, id, fun _ _ => rfl⟩, rfl, rfl⟩

theorem recov_ringBell (s : State) :
    ((ringBell true s).recov.missed = 0 ∧ (ringBell true s).recov.last = (s.clock.beat - 1) % 2 ^ 48)
      ∧ (ringBell false s).recov.missed = min 64 (s.recov.missed + 1) ∧ (ringBell false s).recov.last = s.recov.last :=
  ⟨⟨rfl, rfl⟩, rfl, rfl⟩

/-- What stands at the boundary when the partitions take their turns. -/
structure Rung (alive : Bool) (s t : State) : Prop extends Spares ∅ s t where
  clock : t.clock = ⟨s.clock.beat + 1, 0, s.clock.elapsed + 1, 0⟩
  heard : alive = true → t.recov.missed = 0 ∧ t.recov.last = s.clock.beat % 2 ^ 48
  unheard : alive = false → t.recov.missed = min 64 (s.recov.missed + 1) ∧ t.recov.last = s.recov.last
  hold : s.tally.st = .holdover → t.tally.hold = min 200 (s.tally.hold + 1) ∨ t.tally.st ≠ .holdover

/-- Where nothing was posted, no step is queued and nothing hangs, no RUN moves before the partitions take their turns. -/
theorem rung {s : State} (hsampled : s.host.sampled = []) (hqueued : s.recov.resetQueued = [])
    (hraised : ∀ i < 6, (s.pipe i).raised = false)
    (hidle : ∀ g < 16, gateUp s g = true → 100 * s.clock.beat < (s.gate g).lastIdle) (alive : Bool) :
    Rung alive s (ringBell alive (settled (takeHangs []) (tend (pulseTally (openBeat s))))) := by
  have hopen := upkeep_openBeat hsampled
  obtain ⟨z, htally, hhold⟩ := pulseTally_retuned (openBeat s)
  have htend : Upkeep (pulseTally (openBeat s)) (tend (pulseTally (openBeat s))) :=
    upkeep_tend (htally.resetQueued.trans (hopen.resetQueued.trans hqueued))
  have hgate : ∀ g, (tend (pulseTally (openBeat s))).gate g = s.gate g := fun g =>
    (htend.gate g).trans ((htally.gate g).trans (hopen.gate g))
  have hclock : (tend (pulseTally (openBeat s))).clock = (tick s).clock := htend.clock.trans (htally.clock.trans hopen.clock)
  have hquiet : Quiet (tend (pulseTally (openBeat s))) := by
    refine ⟨fun i hi => ?_, fun g hg hup => ?_⟩
    · rw [htend.raised, htally.pipe]
      exact (hopen.raised i).trans (hraised i hi)
    · rw [hclock, hgate]
      exact hidle g hg (by rwa [gateUp, hgate] at hup)
  have hangs := pulses_takeHangs hquiet ∅
  have hpaced := (((hopen.pulses ∅).toPaced.trans (htally.paced ∅)).trans (htend.pulses ∅).toPaced).trans hangs.toPaced
  obtain ⟨hspares, hclock', htally'⟩ := ringBell_spares alive (settled (takeHangs []) (tend (pulseTally (openBeat s))))
  have htick : Spares ∅ s (tick s) := ⟨rfl, id, fun _ _ => rfl⟩
  refine ⟨htick.trans (hpaced.toSpares.trans hspares), hclock'.trans hpaced.clock, ?heard, ?unheard, ?hold⟩
  case heard =>
    rintro rfl
    rw [(recov_ringBell _).1.1, (recov_ringBell _).1.2, hpaced.clock]
    exact ⟨rfl, rfl⟩
  case unheard =>
    rintro rfl
    rw [(recov_ringBell _).2.1, (recov_ringBell _).2.2, hpaced.missed, hpaced.last]
    exact ⟨rfl, rfl⟩
  case hold =>
    intro hs
    rw [htally', hangs.tally, htend.tally, htally.tally]
    rw [hopen.tally] at hhold
    exact hhold hs

theorem snapshot_same (s : State) : ∃ h, snapshot s = { s with host := h } := by
  unfold snapshot
  split
  · exact ⟨s.host, rfl⟩
  · refine forAll_induct (P := fun u => ∃ h, u = { s with host := h }) ?_ _ ⟨s.host, rfl⟩
    rintro e u ⟨h, rfl⟩
    unfold sampleMailbox
    dsimp only
    split
    · exact ⟨h, rfl⟩
    · exact ⟨_, rfl⟩

theorem exec_beatBoundary {s : State} (alive : Bool) (hangs : List Hang) (hb : beating s = true) (ht : setTimeDue s = false)
    (hd : boundaryDue s = false) (hdone : ∀ k < s.mode, beatDone s k = true) (ho : beatOpen s = false) :
    exec (.beatBoundary alive hangs) s = .next (beatBoundary alive hangs s) := by
  have hall : (partList s).all (beatDone s) = true := List.all_eq_true.2 fun k hk => hdone k (List.mem_range.1 hk)
  change execBeatBoundary alive hangs s = _
  exact event_of (by simp [hb, ht, hd, hall, ho])

/-- Settles O51: nothing moves a RUN before the partitions take their turns, and each takes its own. -/
theorem boundaries : Obligations.Boundaries := by
  unfold Obligations.Boundaries
  intro s alive hangs hb ht hd hdone ho
  have hexec := exec_beatBoundary alive hangs hb ht hd hdone ho
  refine ⟨⟨_, hexec, rfl⟩, ?_⟩
  rintro rfl hsampled hqueued hraised hidle
  refine ⟨_, hexec, ?_⟩
  have hrung := rung hsampled hqueued hraised hidle alive
  rw [beatBoundary_eq]
  set e := ringBell alive (settled (takeHangs []) (tend (pulseTally (openBeat s))))
  obtain ⟨h, hsnap⟩ := snapshot_same (pulseParts e)
  have hpulses := pulses_pulseParts e
  have hpart : ∀ k, (snapshot (pulseParts e)).part k = (pulseParts e).part k := fun k => by rw [hsnap]; rfl
  have hbeat : e.clock.beat = s.clock.beat + 1 := congrArg Clock.beat hrung.clock
  refine ⟨?_, fun ha => ?_, fun ha => ?_, fun hs => ?_, fun k hk r hr hdec hend => ?_⟩
  · rw [hsnap]
    exact hpulses.clock.trans hrung.clock
  · rw [hsnap]
    exact ⟨hpulses.missed.trans (hrung.heard ha).1, hpulses.last.trans (hrung.heard ha).2⟩
  · rw [hsnap]
    exact ⟨hpulses.missed.trans (hrung.unheard ha).1, hpulses.last.trans (hrung.unheard ha).2⟩
  · rw [hsnap]
    change (pulseParts e).tally.hold = _ ∨ (pulseParts e).tally.st ≠ _
    rw [hpulses.tally]
    exact hrung.hold hs
  · have hn : k ∉ (∅ : Set Nat) := Set.notMem_empty k
    have hk' : k < e.mode := by rwa [hrung.mode]
    have hstand : Standing k r e := ⟨(hrung.run hn).trans hr, hdec, hend⟩
    rw [hpart]
    refine ⟨fun hst hbegun hstart => ?_, fun hst hretry hat hf hstop => ?_⟩
    · exact pulseParts_starts hk' hstand ((hrung.st hn).trans hst) hbegun (by rwa [hbeat])
    · obtain ⟨hst', hlag, hretries, hrun⟩ := pulseParts_retries hk' hstand ((hrung.st hn).trans hst) ((hrung.retry hn).trans hretry)
        (by rw [hrung.quiescedAt hn, hbeat]; omega) hf (hrung.stopping hstop)
      rw [hrung.retries hn] at hretries
      rw [hbeat] at hrun
      exact ⟨hst', hlag, hretries, _, hrun, rfl⟩

end Sys2Proof.Machine
end

section
/-! PROOFS. What keeps the registered contexts as they are, and the context that a cancel leaves (R240, R243, R248, R324, R389,
R408). -/

namespace Sys2Proof.Machine

/-! ## Changes that leave the contexts alone -/

/-- Changes that leave the contexts alone leave them so in a fold. -/
theorem forAll_ctxs {α : Type} {f : α → State → State} (hf : ∀ a u, (f a u).ctxs = u.ctxs) (l : List α) (s : State) :
    (forAll l f s).ctxs = s.ctxs := forAll_fixed (fun u : State => u.ctxs) hf l s

@[simp] theorem completeProg_ctxs (g : InProgress) (st : Nat) (res : List Byte) (s : State) :
    (completeProg g st res s).ctxs = s.ctxs := by simp [completeProg]

@[simp] theorem completeAll_ctxs (f : InProgress → Bool) (st : Nat) (s : State) : (completeAll f st s).ctxs = s.ctxs :=
  forAll_ctxs (fun g => completeProg_ctxs g st []) _ s

/-! ### Bales and tensors (R240, R243, R248) -/

@[simp] theorem noteChange_ctxs (k : Nat) (c : MapChange) (s : State) : (noteChange k c s).ctxs = s.ctxs := by
  unfold noteChange
  split <;> rfl

@[simp] theorem entryChange_ctxs (h : Nat) (s : State) : (entryChange h s).ctxs = s.ctxs := by
  unfold entryChange
  split
  · exact noteChange_ctxs _ _ s
  · rfl

@[simp] theorem toT2_ctxs (h i : Nat) (s : State) : (toT2 h i s).ctxs = s.ctxs := by
  unfold toT2
  dsimp only
  split
  · exact entryChange_ctxs _ _
  · rfl

@[simp] theorem evictBale_ctxs (h i : Nat) (s : State) : (evictBale h i s).ctxs = s.ctxs := by
  unfold evictBale
  split
  · split
    · rfl
    · exact toT2_ctxs h i s
  · rfl

@[simp] theorem giveFrame_ctxs (h i : Nat) (s : State) : (giveFrame h i s).ctxs = s.ctxs := by
  unfold giveFrame
  split
  · rfl
  · split
    · rfl
    · dsimp only
      split <;> rfl

@[simp] theorem makeRoomFor_ctxs (k : Nat) (s : State) : (makeRoomFor k s).ctxs = s.ctxs := by
  unfold makeRoomFor
  split
  · split
    · exact evictBale_ctxs _ _ s
    · rfl
  · rfl

@[simp] theorem serveFrames_ctxs (k : Nat) (s : State) : (serveFrames k s).ctxs = s.ctxs := by
  have h : (forAll (waitingBales s k) (fun b t => giveFrame b.1 b.2 (makeRoomFor k t)) s).ctxs = s.ctxs :=
    forAll_ctxs (fun _ _ => by simp) _ s
  unfold serveFrames clearFailed
  split <;> exact h

@[simp] theorem settle_ctxs (evict : Bool) (h i : Nat) (e : TransferEnd) (s : State) : (settle evict h i e s).ctxs = s.ctxs := by
  unfold settle finishTier
  refine (forAll_ctxs (fun g t => ?_) _ _).trans rfl
  split
  · exact completeProg_ctxs _ _ _ t
  · rfl

@[simp] theorem dropTensor_ctxs (h : Nat) (s : State) : (dropTensor h s).ctxs = s.ctxs := by
  unfold dropTensor
  split
  · rfl
  · exact (forAll_ctxs (fun _ _ => by simp) _ _).trans (forAll_ctxs (by intro _ _; rfl) _ _)

@[simp] theorem unmapTensor_ctxs (ctx h : Nat) (s : State) : (unmapTensor ctx h s).ctxs = s.ctxs := by
  unfold unmapTensor
  dsimp only
  split
  · split
    · rw [serveFrames_ctxs, dropTensor_ctxs]; rfl
    · rfl
  · rfl

@[simp] theorem destroySeq_ctxs (k h : Nat) (s : State) : (destroySeq k h s).ctxs = s.ctxs := by
  rw [(repaged_destroySeq k h s).same]

/-! ### Codec sessions (R324) -/

@[simp] theorem writeT1_ctxs (pa : Nat) (d : List Byte) (s : State) : (writeT1 pa d s).ctxs = s.ctxs := by
  unfold writeT1
  dsimp only
  split <;> rfl

@[simp] theorem clearT1_ctxs (pa n : Nat) (s : State) : (clearT1 pa n s).ctxs = s.ctxs := by
  unfold clearT1
  split
  · rfl
  · exact writeT1_ctxs _ _ s

@[simp] theorem zeroVa_ctxs (ctx va n : Nat) (s : State) : (zeroVa ctx va n s).ctxs = s.ctxs := by
  unfold zeroVa
  refine forAll_ctxs (fun a t => ?_) _ s
  dsimp only
  split
  · exact clearT1_ctxs _ _ t
  · rfl

@[simp] theorem kickPipe_ctxs (p : Nat) (s : State) : (kickPipe p s).ctxs = s.ctxs := by
  unfold kickPipe
  dsimp only
  split
  · rfl
  · split <;> rfl

@[simp] theorem endCodecCmd_ctxs (h st : Nat) (res : List Byte) (s : State) : (endCodecCmd h st res s).ctxs = s.ctxs := by
  unfold endCodecCmd
  split
  · rfl
  · dsimp only
    split
    · exact completeProg_ctxs _ _ _ _
    · rfl

@[simp] theorem removeSession_ctxs (h : Nat) (s : State) : (removeSession h s).ctxs = s.ctxs := by
  unfold removeSession
  split
  · rfl
  · extract_lets t u
    have hu : u.ctxs = s.ctxs := by
      unfold u
      split <;> exact zeroVa_ctxs _ _ _ s
    split
    · rw [completeProg_ctxs, hu]
    · exact hu

@[simp] theorem abortSession_ctxs (st h : Nat) (s : State) : (abortSession st h s).ctxs = s.ctxs := by
  unfold abortSession
  split
  · rfl
  · dsimp only
    rw [kickPipe_ctxs, removeSession_ctxs]
    split
    · exact endCodecCmd_ctxs _ _ _ s
    · rfl

/-! ### RUNs, loads and what a context owns (R389, R408) -/

theorem Finishes.ctxs {K : Set Nat} {s t : State} (h : Finishes K s t) : t.ctxs = s.ctxs := by rw [h.same]

@[simp] theorem endRun_ctxs (k st c w i : Nat) (s : State) : (endRun k st c w i s).ctxs = s.ctxs := by
  cases hr : (s.part k).run with
  | none => simp only [endRun, hr]
  | some r => exact (endRun_finishes hr st c w i).ctxs

@[simp] theorem endWaiting_ctxs (k st c : Nat) (s : State) : (endWaiting k st c s).ctxs = s.ctxs := by
  cases hw : (s.part k).waiting with
  | none => simp only [endWaiting, hw]
  | some r => exact (endWaiting_finishes hw st c).1.ctxs

@[simp] theorem endCtxRuns_ctxs (k h st : Nat) (s : State) : (endCtxRuns k h st s).ctxs = s.ctxs := by
  unfold endCtxRuns
  extract_lets s1
  have h1 : s1.ctxs = s.ctxs := by
    unfold s1
    split
    · split
      · exact endWaiting_ctxs _ _ _ s
      · rfl
    · rfl
  split
  · rename_i r hr
    split
    · rw [endRun_ctxs]
      split
      · exact (quiesce_stops hr false).ctxs.trans h1
      · exact h1
    · exact h1
  · exact h1

@[simp] theorem dropLoads_ctxs (h : Nat) (s : State) : (dropLoads h s).ctxs = s.ctxs :=
  forAll_ctxs (by intro _ _; rfl) _ s

@[simp] theorem releaseResources_ctxs (h st : Nat) (s : State) : (releaseResources h st s).ctxs = s.ctxs :=
  (forAll_ctxs (by intro _ _; rfl) _ _).trans <|
    (forAll_ctxs (fun q : KvSeq => destroySeq_ctxs q.part q.handle) _ _).trans <|
    (forAll_ctxs (fun t : Tensor => unmapTensor_ctxs h t.handle) _ _).trans <|
    forAll_ctxs (fun x : Session => abortSession_ctxs st x.handle) _ s

/-! ## Whether a context is cancelled (R408, R409) -/

/-- The CANCELLED mark of a context, if its handle is known. -/
def cancelMark (s : State) (h : Nat) : Option Bool := (ctxOf s h).map (·.cancelled)

theorem cancelMark_congr {s t : State} (e : t.ctxs = s.ctxs) (h : Nat) : cancelMark t h = cancelMark s h := by
  simp only [cancelMark, ctxOf, e]

/-- The context of a handle after an update that keeps handles. -/
theorem ctxOf_updCtx (i : Nat) (f : Ctx → Ctx) (hf : ∀ c, (f c).handle = c.handle) (s : State) (h : Nat) :
    ctxOf (updCtx i f s) h = (ctxOf s h).map fun c => if c.handle == i then f c else c := by
  have hh : ((fun c : Ctx => c.handle == h) ∘ fun c => if c.handle == i then f c else c) = fun c => c.handle == h := by
    funext c
    simp only [Function.comp]
    split
    · rw [hf]
    · rfl
  rw [ctxOf, updCtx_ctxs, mapIf, List.find?_map, hh, ctxOf]

/-- An update that keeps handles and CANCELLED marks. -/
theorem cancelMark_updCtx (i : Nat) (f : Ctx → Ctx) (hf : ∀ c, (f c).handle = c.handle ∧ (f c).cancelled = c.cancelled) (s : State)
    (h : Nat) : cancelMark (updCtx i f s) h = cancelMark s h := by
  rw [cancelMark, ctxOf_updCtx i f (fun c => (hf c).1), Option.map_map, cancelMark]
  congr 1
  funext c
  simp only [Function.comp]
  split
  · exact (hf c).2
  · rfl

theorem cancelMark_enterReside (k i p n : Nat) (s : State) (h : Nat) : cancelMark (enterReside k i p n s) h = cancelMark s h :=
  (cancelMark_congr rfl h).trans (cancelMark_updCtx i _ (by intro _; exact ⟨rfl, rfl⟩) s h)

/-- The settling of contexts cancels none and revives none. -/
theorem cancelMark_settleContexts (s0 s : State) (h : Nat) : cancelMark (settleContexts s0 s) h = cancelMark s h := by
  refine forAll_fixed (cancelMark · h) (fun c t => ?_) s.ctxs s
  split
  · rfl
  · extract_lets was is t1 t2
    have h1 : cancelMark t1 h = cancelMark t h := by
      unfold t1; split
      · exact cancelMark_updCtx _ _ (by intro _; exact ⟨rfl, rfl⟩) t h
      · rfl
    have h2 : cancelMark t2 h = cancelMark t h := by
      unfold t2; split
      · rw [cancelMark_enterReside, cancelMark_updCtx _ _ (by intro _; exact ⟨rfl, rfl⟩), h1]
      · exact h1
    split
    · split
      · rw [cancelMark_updCtx _ _ (by intro _; exact ⟨rfl, rfl⟩), h2]
      · exact h2
    · exact h2

@[simp] theorem cancelMark_settled (f : State → State) (s : State) (h : Nat) : cancelMark (settled f s) h = cancelMark (f s) h :=
  cancelMark_settleContexts _ _ h

/-- A cancel marks its context (R408). -/
theorem cancelMark_cancelContext {s : State} {h : Nat} {c : Ctx} (hc : ctxOf s h = some c) :
    cancelMark (cancelContext h s) h = some true := by
  have hh : c.handle = h := by simpa using List.find?_some hc
  unfold cancelContext
  split
  · rename_i hnone
    rw [hc] at hnone
    cases hnone
  extract_lets s1 s2 s3 s4 s5 s6
  have h2 : s2.ctxs = s1.ctxs := forAll_ctxs (fun x : Session => abortSession_ctxs stCancelled x.handle) _ s1
  have h3 : s3.ctxs = s2.ctxs := (dropLoads_ctxs h _).trans (completeAll_ctxs _ _ s2)
  have h4 : s4.ctxs = s.ctxs := (updFabric_ctxs _ s3).trans (h3.trans (h2.trans (endCtxRuns_ctxs _ h _ s)))
  have h5 : cancelMark s5 h = some true := by
    rw [cancelMark, ctxOf_updCtx h _ (by intro _; rfl), ctxOf, h4, ← ctxOf, hc]
    simp [hh]
  have h6 : cancelMark s6 h = some true := (cancelMark_congr (updRecov_ctxs _ s5) h).trans h5
  split
  · exact h6
  · exact (cancelMark_congr (releaseResources_ctxs h _ s6) h).trans h6

end Sys2Proof.Machine
end

section
/-! PROOFS. The end of a RUN, and RUN.QUERY (R111, R132, R377, R390, R394). -/

namespace Sys2Proof.Machine

/-! ## What the end of a RUN leaves -/

theorem runRecord_length (id code whr index shift count endBeat : Nat) (t : Trouble) :
    (runRecord id code whr index shift count endBeat t).length = 88 := by
  have hstep : ∀ o, (stepRefBytes o).length = 8 := fun o => by cases o <;> exact leBytes_length _ _
  simp [runRecord, troubleBytes, zeros, leBytes_length, hstep]

section
variable {k : Nat} {s : State} {r : Run} (hr : (s.part k).run = some r) (st c w i : Nat)
include hr

/-- The end of a RUN leaves the mailboxes as its completion does. -/
theorem endRun_host : (endRun k st c w i s).host = (completeRun k r st c w i s).host := by
  rw [endRun_eq hr, settleChanges, updPart_host, (settlePages_finishes k _ _).2.2, nextRunOf, updPart_host, (cleared_finishes k _).2.2]

/-- The completion of a RUN carries its record (R377). -/
theorem endRun_record {g : InProgress} (hg : findProg s (fun x => x.job == .run k r.id) = some g) :
    bytesAt ((endRun k st c w i s).mbx g.post.func g.post.mbx).data 0 88 = runRecord r.id c w i r.shift 0 (now s) r.trouble := by
  have hm : (endRun k st c w i s).mbx g.post.func g.post.mbx = (completeRun k r st c w i s).mbx g.post.func g.post.mbx := by
    simp only [State.mbx, State.func, endRun_host hr]
  rw [hm]
  simp only [completeRun, hg]
  have hread := bytesAt_writeCompletion g.post st (runRecord r.id c w i r.shift 0 (now s) r.trouble) g.sampled (now s) 0 true
    (updHost (fun h => { h with progs := h.progs.filter (· != g) }) s)
  rwa [runRecord_length] at hread

theorem endRun_pens : (endRun k st c w i s).pens = (freeSlots k (completeRun k r st c w i s)).pens := by
  have hclear : ∀ u, (clearDrovers k u).pens = u.pens := by
    intro u
    unfold clearDrovers
    dsimp only
    obtain ⟨d, hd⟩ := forAll_updDrover_same (fun _ v => { v with work := [] })
      ((List.range 160).filter fun d => (droverParts u d).contains k) u
    rw [hd]
    exact forAll_fixed (fun v : State => v.pens) (by intro _ _; rfl) _ _
  rw [endRun_eq hr, settleChanges, updPart_pens, (repaged_settlePages k _ _).same, nextRunOf, updPart_pens, cleared]
  exact hclear _

/-- The slots of a partition's pens are free when its RUN has ended (R390). -/
theorem pen_endRun {p : Nat} (hp : p ∈ pensOf s k) :
    ((endRun k st c w i s).pen p).slots = [] ∧ ((endRun k st c w i s).pen p).active = false := by
  have hmode : (completeRun k r st c w i s).mode = s.mode := by rw [(completeRun_finishes k r st c w i s).same]
  have hpens : pensOf (completeRun k r st c w i s) k = pensOf s k := by simp only [pensOf, partOfPen, hmode]
  have hpen : (endRun k st c w i s).pen p = (freeSlots k (completeRun k r st c w i s)).pen p := by
    simp only [State.pen, endRun_pens hr]
  rw [hpen, freeSlots, hpens, pen_forAll_of_mem (fun p : Nat => p) _ (by simpa [pensOf] using List.nodup_range.filter _) hp]
  exact ⟨rfl, rfl⟩

end

/-- The RUN of partition k that command g asked for has ended in t with a status and a record: the waiting RUN takes its place, or the
partition is idle, its pens' slots are free, and memory is as it was (R111, R377, R390). -/
structure RunOver (k : Nat) (g : InProgress) (status : Nat) (record : List Byte) (s t : State) : Prop where
  ended : Ended g status t
  record : bytesAt (t.mbx g.post.func g.post.mbx).data 0 88 = record
  idle : (s.part k).waiting = none → (t.part k).run = none ∧ (t.part k).st = .idle
  next : ∀ y, (s.part k).waiting = some y → (t.part k).run = some y ∧ (t.part k).waiting = none ∧ (t.part k).st = .accepted
  freed : ∀ p ∈ pensOf s k, (t.pen p).slots = [] ∧ (t.pen p).active = false
  t1 : t.hbm.t1 = s.hbm.t1
  t2 : t.hbm.t2 = s.hbm.t2

theorem endRun_over {k : Nat} {s : State} {r : Run} {g : InProgress} (hr : (s.part k).run = some r)
    (hg : findProg s (fun x => x.job == .run k r.id) = some g) (st c w i : Nat) :
    RunOver k g st (runRecord r.id c w i r.shift 0 (now s) r.trouble) s (endRun k st c w i s) where
  ended := endRun_ended hr hg st c w i
  record := endRun_record hr st c w i hg
  idle := fun h => by rw [part_endRun hr, afterRun_idle h]; exact ⟨rfl, rfl⟩
  next := fun y h => by rw [part_endRun hr, afterRun, h]; exact ⟨rfl, rfl, rfl⟩
  freed := fun _ => pen_endRun hr st c w i
  t1 := (endRun_finishes hr st c w i).t1
  t2 := (endRun_finishes hr st c w i).t2

/-- A RUN is over when the contexts settle after its end. -/
theorem RunOver.settled {k : Nat} {g : InProgress} {st : Nat} {b : List Byte} {f : State → State} {s u : State}
    (h : RunOver k g st b u (f s)) : RunOver k g st b u (settled f s) where
  ended := ⟨by rw [settled_mbx]; exact h.ended.complete, by rw [settled_mbx]; exact h.ended.idle,
    by rw [settled_host]; exact h.ended.gone⟩
  record := by rw [settled_mbx]; exact h.record
  idle := by rw [settled_run, settled_st]; exact h.idle
  next := by rw [settled_run, settled_waiting, settled_st]; exact h.next
  freed := fun p hp => by rw [settled_pen]; exact h.freed p hp
  t1 := by rw [settled_hbm]; exact h.t1
  t2 := by rw [settled_hbm]; exact h.t2

/-! ## RUN_COMPLETE -/

theorem exec_runComplete {s : State} {k : Nat} {e : Ending} (h : runEnd s k = some e) :
    exec (.runComplete k) s = .next (settled (runComplete k e) s) := by
  change execRunComplete k s = _
  simp only [execRunComplete, h]

section
variable {s : State} {k : Nat} {r : Run} (hr : (s.part k).run = some r)
include hr

/-- Every word has committed and every store is done (R111). -/
theorem runEnd_of_done (he : r.ending = none) (hd : r.decodeStop = none) (hn : r.prog.nWords ≤ r.doneInstr) (hf : r.flight = [])
    (hst : storesDone r = true) (hs : (s.part k).st = .running) :
    runEnd s k = some ⟨if 0 < r.trouble.fallbacks then stTroubleFallback else stOk, 0, 0, 0⟩ := by
  simp [runEnd, hr, he, hd, hn, hf, hst, hs]

/-- A RUN that stopped ends at a boundary after the beat of its quiesce (R74). -/
theorem runEnd_of_ending {e : Ending} (he : r.ending = some e) (hq : (s.part k).quiescedAt < s.clock.beat) (ha : s.clock.acb = 0) :
    runEnd s k = some e := by
  simp [runEnd, hr, he, hq, ha]

/-- No decode fault stopped the RUN: its context lives on. -/
theorem runComplete_of_sound {e : Ending} (h : r.decodeStop = none ∨ e.status ≠ stBadArg ∨ e.code = 0) :
    runComplete k e s = endRun k e.status e.code e.whr e.index s := by
  simp only [runComplete, hr]
  refine if_neg fun hc => ?_
  simp only [Bool.and_eq_true, decide_eq_true_eq, bne_iff_ne, ne_eq] at hc
  obtain ⟨⟨hd, hs⟩, hcode⟩ := hc
  rcases h with h | h | h
  · simp [h] at hd
  · exact h hs
  · exact hcode h

/-- A decode fault cancels the context of the RUN that it stopped (R132). -/
theorem runComplete_of_fault {e : Ending} {j : Nat} (hd : r.decodeStop = some j) (hs : e.status = stBadArg) (hc : e.code ≠ 0) :
    runComplete k e s = cancelContext r.ctx (endRun k e.status e.code e.whr e.index s) := by
  simp only [runComplete, hr]
  exact if_pos (by simp [hd, hs, hc])

/-- RUN_COMPLETE of a RUN that no decode fault stopped. -/
theorem exec_runComplete_over {e : Ending} {g : InProgress} (he : runEnd s k = some e)
    (h : r.decodeStop = none ∨ e.status ≠ stBadArg ∨ e.code = 0) (hg : findProg s (fun x => x.job == .run k r.id) = some g) :
    ∃ t, exec (.runComplete k) s = .next t
      ∧ RunOver k g e.status (runRecord r.id e.code e.whr e.index r.shift 0 (now s) r.trouble) s t := by
  refine ⟨_, exec_runComplete he, RunOver.settled ?_⟩
  rw [runComplete_of_sound hr h]
  exact endRun_over hr hg _ _ _ _

end

/-! ## RUN.QUERY (R394) -/

/-- What RUN.QUERY leaves beside its completion: the partitions, the pens and memory are as they were. -/
theorem exec_runQuery {p : Post} {s : State} {i st : Nat} {res : List Byte} (hp : Posts p rowRunQuery 1 s)
    (hb : runQueryBody p i (taken p s) = .done st res (taken p s)) :
    ∃ t, exec (.runQuery p i) s = .next t ∧ Completed p st res s t ∧ t.parts = s.parts ∧ t.pens = s.pens ∧ t.hbm = s.hbm := by
  refine ⟨finish p st res (taken p s), ?_, finish_completed (taken_beat p s), by simp, by simp, by simp⟩
  change execRunQuery p i s = _
  rw [execRunQuery, mailbox_finish hp hb]

section
variable {p : Post} {s : State} {i : Nat}

/-- The partition's own RUN is found by its number, and by 0. -/
theorem runQueryBody_run {r : Run} (hr : (s.part (postTarget p)).run = some r) (hi : i = 0 ∨ i = r.id) :
    runQueryBody p i s = .done stOk (runReply s (postTarget p) (some (r, false))) s := by
  by_cases h0 : i = 0
  · simp [runQueryBody, hr, h0]
  · obtain rfl : i = r.id := hi.resolve_left h0
    simp [runQueryBody, hr, h0]

/-- The waiting RUN is found by its number. -/
theorem runQueryBody_waiting {r : Run} (hw : (s.part (postTarget p)).waiting = some r) (h0 : r.id ≠ 0)
    (hr : ∀ y, (s.part (postTarget p)).run = some y → y.id ≠ r.id) :
    runQueryBody p r.id s = .done stOk (runReply s (postTarget p) (some (r, true))) s := by
  cases h : (s.part (postTarget p)).run with
  | none => simp [runQueryBody, h0, hw, h]
  | some y => simp [runQueryBody, h0, hw, h, hr y h]

theorem runQueryBody_idle (hr : (s.part (postTarget p)).run = none) :
    runQueryBody p 0 s = .done stOk (runReply s (postTarget p) none) s := by
  simp [runQueryBody, hr]

/-- No RUN of the partition has the number. -/
theorem runQueryBody_unknown (h0 : i ≠ 0) (hr : ∀ y, (s.part (postTarget p)).run = some y → y.id ≠ i)
    (hw : ∀ y, (s.part (postTarget p)).waiting = some y → y.id ≠ i) : runQueryBody p i s = .done stBadArg [] s := by
  have hnone : ((s.part (postTarget p)).run.toList.map (fun r => (r, false))
      ++ (s.part (postTarget p)).waiting.toList.map (fun r => (r, true))).find? (fun e => e.1.id == i) = none := by
    simp only [List.find?_eq_none, List.mem_append, List.mem_map, Option.mem_toList, beq_iff_eq]
    rintro _ (⟨y, hy, rfl⟩ | ⟨y, hy, rfl⟩)
    · exact hr y hy
    · exact hw y hy
  simp only [runQueryBody, if_neg h0, hnone]

end

/-- The reply about the partition's own RUN: the tally word of its partition stands once it has started. -/
theorem runReply_run {s : State} {k st : Nat} (r : Run) (h : (s.part k).st = .accepted ∧ st = 2 ∨ (s.part k).st = .running ∧ st = 3
    ∨ (s.part k).st = .quiesced ∧ st = 4) :
    runReply s k (some (r, false)) = leBytes 4 r.id ++ leBytes 1 st ++ zeros 3 ++ leBytes 4 r.ctx ++ zeros 4 ++ leBytes 8 r.startBeat
      ++ leBytes 8 (if st = 2 then 0 else tlyPartWord s k) ++ troubleBytes r.trouble := by
  rcases h with ⟨h, rfl⟩ | ⟨h, rfl⟩ | ⟨h, rfl⟩ <;> simp [runReply, runState, h]

/-- Settles O44: RUN_COMPLETE by how the RUN reached its end, and RUN.QUERY by the RUN that it finds. -/
theorem runEnds : Obligations.RunEnds := by
  unfold Obligations.RunEnds
  refine ⟨fun s k r hr => ⟨fun g st he hd hn hf hst hs hst' hg => ?completes, fun g e he hq ha hsound hg => ?stopped,
    fun e j c he hq ha hd hs hcode hc => ?cancels⟩, ?queries⟩
  case completes =>
    subst hst'
    obtain ⟨t, hexec, h⟩ := exec_runComplete_over hr (runEnd_of_done hr he hd hn hf hst hs) (.inl hd) hg
    exact ⟨t, hexec, h.ended, h.record, h.idle, h.next, h.freed, h.t1, h.t2⟩
  case stopped =>
    obtain ⟨t, hexec, h⟩ := exec_runComplete_over hr (runEnd_of_ending hr he hq ha) hsound hg
    exact ⟨t, hexec, h.ended, h.record, h.idle, h.next, h.freed, h.t1, h.t2⟩
  case cancels =>
    have hc' : ctxOf (endRun k e.status e.code e.whr e.index s) r.ctx = some c := by rw [ctxOf, endRun_ctxs]; exact hc
    have hmark : cancelMark (settled (runComplete k e) s) r.ctx = some true := by
      rw [cancelMark_settled, runComplete_of_fault hr hd hs hcode, cancelMark_cancelContext hc']
    obtain ⟨d, hd', hcancelled⟩ := Option.map_eq_some_iff.1 hmark
    exact ⟨_, d, exec_runComplete (runEnd_of_ending hr he hq ha), hd', hcancelled⟩
  case queries =>
    rintro p s k hp rfl
    refine ⟨fun r i st hr hi hst => ?own, fun r hw h0 hr => ?waiting, fun hr => ?idle, fun i h0 hr hw => ?unknown⟩
    case own =>
      rw [← runReply_run r hst]
      exact exec_runQuery hp (runQueryBody_run (s := taken p s) hr hi)
    case waiting => exact exec_runQuery hp (runQueryBody_waiting (s := taken p s) hw h0 hr)
    case idle =>
      obtain ⟨t, hexec, hdone, hparts, -⟩ := exec_runQuery hp (runQueryBody_idle (s := taken p s) hr)
      exact ⟨t, hexec, hdone, hparts⟩
    case unknown =>
      obtain ⟨t, hexec, hdone, hparts, -⟩ := exec_runQuery hp (runQueryBody_unknown (s := taken p s) h0 hr hw)
      exact ⟨t, hexec, hdone, hparts⟩

end Sys2Proof.Machine
end

section
/-! PROOFS. The issue of MV, SY and TL words (R68, R103, R128): what their effects reach, and what the commit after an effect leaves. -/

namespace Sys2Proof.Machine

/-! ## The commit of a word without row blocks from grants -/

/-- The RUN q goes on as z after the commit of step (j, n) at ac a: the next step, the program, the trouble and what waits to be stored stay. -/
structure GoesOn (j n a : Nat) (w : TileWord) (q z : Run) : Prop where
  same : z = { q with flight := z.flight, doneInstr := z.doneInstr, doneRound := z.doneRound, epochs := z.epochs, lastCommit := a
                      foldAt := if w.opcode = opFold then a else q.foldAt
                      placed := z.placed, posted := z.posted, opened := z.opened }
  done : (z.doneInstr, z.doneRound) = stepAfter q j n w
  flight : ∀ x ∈ z.flight, x ∈ q.flight

/-- t is s after the commit of a step whose word takes no row blocks from grants: partition k goes on after it (R74, R103, R215). -/
structure Commits (k j n a : Nat) (w : TileWord) (s t : State) : Prop where
  same : t = { s with drovers := t.drovers, parts := t.parts, place := t.place }
  part : t.part k = { s.part k with run := (t.part k).run, slips := 0, changes := (t.part k).changes, epoch := (t.part k).epoch }
  run : ∀ q, (s.part k).run = some q → ∃ z, (t.part k).run = some z ∧ GoesOn j n a w q z
  others : ∀ i, i ≠ k → (t.part i).run = (s.part i).run

theorem releaseGrants_of_not_work {w : TileWord} (hw : isWork w = false) (k : Nat) (r : Run) (j : Nat) (last : Bool) (s : State) :
    releaseGrants k r j w last s = s := by
  unfold releaseGrants
  rw [hw]
  rfl

theorem upkeep_leaveAtEnd (k : Nat) (s : State) : Upkeep s (leaveAtEnd k s) := by
  unfold leaveAtEnd
  split
  · split
    · exact .each (fun b : BatchEntry => upkeep_destroySeq k b.seq) _ s
    · exact .refl s
  · exact .refl s

theorem commitStep_commits {k : Nat} {r : Run} {s : State} {w : TileWord} (hr : (s.part k).run = some r)
    (hs : ∀ y ∈ s.recov.steps, y.search = false) (hw : isWork w = false) (j n a : Nat) :
    Commits k j n a w s (commitStep k j n w a s) := by
  unfold commitStep
  rw [hr]
  dsimp -zeta only
  extract_lets next s1 s2 s3
  have h1 : s1 = s := releaseGrants_of_not_work hw k r j _ s
  have h3 : s3.part k = _ := part_goesOn k _ s1
  obtain ⟨p, hs3⟩ : ∃ p, s3 = { s1 with parts := p } := goesOn_same k _ s1
  have hothers : ∀ i, i ≠ k → (s3.part i).run = (s.part i).run := fun i hi => by
    change ((updPart k _ (updRun k _ s1)).part i).run = _
    rw [part_updPart, if_neg hi, part_updRun, if_neg hi, h1]
  have h4 := (repaged_leaveAtEnd k s3).trans (repaged_advanceEpoch k _)
  obtain ⟨d, hd⟩ := syncDrovers_same k (advanceEpoch k (leaveAtEnd k s3))
  rw [passSuspects_of_no_search (by rw [syncDrovers_recov, h4.same, hs3, h1]; exact hs)]
  have hpart := h4.part
  rw [h3, h1] at hpart
  refine ⟨?_, ?_, fun q hq => ?_, fun i hi => ?_⟩
  · rw [hd, h4.same, hs3, h1]
  · rw [part_syncDrovers, hpart]
  · cases hr.symm.trans hq
    rw [part_syncDrovers, hpart]
    refine ⟨_, congrArg (Option.map _) hr, rfl, rfl, fun x hx => List.mem_of_mem_filter hx⟩
  · rw [part_syncDrovers, part_advanceEpoch_of_ne hi, (upkeep_leaveAtEnd k s3).run, hothers i hi]

/-! ## A word that issues -/

/-- u is s after the next word w of the RUN r has issued on partition k, with the steps l in flight (R68, R103). -/
structure WordIssued (k : Nat) (r : Run) (w : TileWord) (l : List StepRec) (s u : State) : Prop where
  same : u = { s with clock := u.clock, parts := u.parts }
  part : u.part k = { s.part k with lag := nextIssue r - nominalAc r w.issue, run := (u.part k).run }
  run : ∃ q, (u.part k).run = some q ∧ q = { r with flight := l, replay := none, epochs := q.epochs
                                                    nextInstr := (stepAfter r r.nextInstr r.nextRound w).1
                                                    nextRound := (stepAfter r r.nextInstr r.nextRound w).2
                                                    nextAt := q.nextAt, portFree := q.portFree, rowFree := q.rowFree }
  others : ∀ i, i ≠ k → u.part i = s.part i

theorem transferGate_congr {s t : State} {k : Nat} (h : (t.part k).routes = (s.part k).routes) (w : TileWord) :
    transferGate t k w = transferGate s k w := by
  rw [transferGate, transferGate, routeAt, routeAt, h]

/-- What every change of a fold commutes with, the fold commutes with. -/
theorem forAll_commutes {α σ : Type} (φ : σ → σ) {f : α → σ → σ} (hf : ∀ a u, f a (φ u) = φ (f a u)) (l : List α) (s : σ) :
    forAll l f (φ s) = φ (forAll l f s) := by
  induction l generalizing s with
  | nil => rfl
  | cons a l ih => rw [forAll_cons, forAll_cons, hf, ih]

/-- The copies of a word depend neither on the clock nor on the partitions. -/
theorem copyWord_pens (k : Nat) (r : Run) (j : Nat) (w : TileWord) (a : Nat) (s : State) (c : Clock) (p : Table Part) :
    (copyWord k r j w a { s with clock := c, parts := p }).pens = (copyWord k r j w a s).pens := by
  unfold copyWord
  dsimp only
  rw [forAll_commutes (fun u : State => { u with clock := c, parts := p }) fun _ _ => rfl]

namespace WordIssued
variable {k : Nat} {r : Run} {w : TileWord} {l : List StepRec} {s u : State} (h : WordIssued k r w l s u)
include h

theorem pens : u.pens = s.pens := by rw [h.same]
theorem hbm : u.hbm = s.hbm := by rw [h.same]
theorem recov : u.recov = s.recov := by rw [h.same]
theorem gate (g : Nat) : u.gate g = s.gate g := by rw [h.same]; rfl
theorem physPen (lp : Nat) : Machine.physPen u k lp = Machine.physPen s k lp := by rw [h.same]; rfl
theorem transferGate : Machine.transferGate u k w = Machine.transferGate s k w := transferGate_congr (by rw [h.part]) w

theorem runs : ((u.part k).run).isSome := by
  obtain ⟨q, hq, -⟩ := h.run
  rw [hq]
  rfl

theorem copyWord_pens (j a : Nat) : (copyWord k r j w a u).pens = (copyWord k r j w a s).pens := by
  rw [h.same]
  exact Machine.copyWord_pens k r j w a s _ _

/-- A step that leaves the flight as it commits. -/
theorem abandoned (n : Nat) : WordIssued k r w [] s (moveTo n (updRun k (fun x => { x with flight := [] }) u)) := by
  obtain ⟨hsame, hpart, ⟨q, hq, hrun⟩, hothers⟩ := h
  obtain ⟨c, hc⟩ := moveTo_same n (updRun k (fun x => { x with flight := [] }) u)
  refine ⟨?_, ?_, ⟨{ q with flight := [] }, ?_, ?_⟩, fun i hi => ?_⟩
  · rw [hc, updRun, updPart, hsame]
  · rw [part_moveTo, part_updRun_same, hpart]
  · rw [part_moveTo, part_updRun_some hq]
  · rw [hrun]
  · rw [part_moveTo, part_updRun, if_neg hi, hothers i hi]

end WordIssued

theorem atIssue_part (k : Nat) (r : Run) (w : TileWord) (s : State) :
    (atIssue k r w s).part k = { s.part k with lag := nextIssue r - nominalAc r w.issue } := by
  rw [atIssue, setLag, part_updPart_same, part_moveTo]

section
variable {k : Nat} {r : Run} {w : TileWord} {s : State} (hr : (s.part k).run = some r)
include hr

theorem launch_issues : WordIssued k r w (r.flight ++ [launched r.prog r w (firstAttempt s k r w) 0 false]) s
    (launch k r.nextInstr w (firstAttempt s k r w) 0 false (atIssue k r w s)) := by
  obtain ⟨c, hc⟩ := moveTo_same (nextIssue r) s
  have hrun : ((atIssue k r w s).part k).run = some r := by rw [atIssue_part]; exact hr
  have hpart : (launch k r.nextInstr w (firstAttempt s k r w) 0 false (atIssue k r w s)).part k = _ := part_updRun_some hrun _
  refine ⟨?_, ?_, ?_, fun i hi => ?_⟩
  · rw [launch, atIssue, hc]
    rfl
  · rw [hpart, atIssue_part]
  · rw [hpart]
    exact ⟨_, rfl, rfl⟩
  · rw [launch, part_updRun, if_neg hi, atIssue, setLag, part_updPart, if_neg hi, part_moveTo]

theorem atCommit_issues : WordIssued k r w [] s (atCommit k r w s) := (launch_issues hr).abandoned _

end

/-! ## What a word takes effect on -/

/-- t differs from s in what the effect of a word without arithmetic reaches: pens, placement and gates, and of partition k the manger,
the work counters, the sync counters, and the stores that wait (R127 to R142). -/
structure Effects (k : Nat) (s t : State) : Prop where
  same : t = { s with pens := t.pens, parts := t.parts, place := t.place, fabric := t.fabric }
  part : t.part k = { s.part k with run := (t.part k).run, manger := (t.part k).manger, wcnt := (t.part k).wcnt
                                    sync := (t.part k).sync }
  run : ∀ q, (s.part k).run = some q → ∃ l o, (t.part k).run = some { q with toStore := q.toStore ++ l, opened := o }
  others : ∀ i, i ≠ k → t.part i = s.part i

theorem Effects.refl (k : Nat) (s : State) : Effects k s s :=
  ⟨rfl, rfl, fun q h => ⟨[], q.opened, by rw [h, List.append_nil]⟩, fun _ _ => rfl⟩

theorem Effects.trans {k : Nat} {s t u : State} (h : Effects k s t) (g : Effects k t u) : Effects k s u where
  same := by
    have e := g.same
    rwa [h.same] at e
  part := by
    have e := g.part
    rwa [h.part] at e
  run := fun q hq => by
    obtain ⟨l, o, ht⟩ := h.run q hq
    obtain ⟨m, p, hu⟩ := g.run _ ht
    exact ⟨l ++ m, p, by rw [hu, List.append_assoc]⟩
  others := fun i hi => (g.others i hi).trans (h.others i hi)

theorem Effects.each {α : Type} {k : Nat} {f : α → State → State} (hf : ∀ a s, Effects k s (f a s)) (l : List α) (s : State) :
    Effects k s (forAll l f s) :=
  forAll_induct (P := Effects k s) (fun a _ h => h.trans (hf a _)) l (.refl k s)

/-- A change that reaches no partition. -/
theorem effects_apart (k : Nat) (p : Table Pen) (c : Placement) (b : Fabric) (s : State) :
    Effects k s { s with pens := p, place := c, fabric := b } :=
  ⟨rfl, rfl, fun q h => ⟨[], q.opened, by rw [List.append_nil]; exact h⟩, fun _ _ => rfl⟩

/-- A change of a partition's manger or counters. -/
theorem effects_updPart (k : Nat) (f : Part → Part)
    (hf : ∀ q, f q = { q with manger := (f q).manger, wcnt := (f q).wcnt, sync := (f q).sync }) (s : State) :
    Effects k s (updPart k f s) where
  same := rfl
  part := by rw [part_updPart_same, hf]
  run := fun q h => ⟨[], q.opened, by rw [part_updPart_same, hf, List.append_nil]; exact h⟩
  others := fun i hi => by rw [part_updPart, if_neg hi]

/-- More stores wait. -/
theorem effects_updRun (k : Nat) (f : Run → Run) (l : List LotRef)
    (hf : ∀ q, f q = { q with toStore := q.toStore ++ l, opened := (f q).opened }) (s : State) : Effects k s (updRun k f s) where
  same := rfl
  part := by rw [part_updRun_same]
  run := fun q h => ⟨l, (f q).opened, by rw [part_updRun_some h, ← hf]⟩
  others := fun i hi => by rw [part_updRun, if_neg hi]

theorem effects_agePages (k : Nat) (r : Run) (c : Desc) (rbs : List Nat) (s : State) : Effects k s (agePages r c rbs s) := by
  unfold agePages
  split
  · exact .refl k s
  · refine .each (fun b t => ?_) rbs s
    split
    · exact effects_apart k _ _ _ t
    · exact .refl k t

theorem effects_copyWord (k : Nat) (r : Run) (j : Nat) (w : TileWord) (a : Nat) (s : State) : Effects k s (copyWord k r j w a s) :=
  .each (fun _ t => effects_apart k _ _ _ t) _ s

theorem effects_queueStores (k : Nat) (r : Run) (j : Nat) (w : TileWord) (lp rb : Nat) (s : State) :
    Effects k s (queueStores k r j w lp rb s) := effects_updRun k _ _ (fun _ => rfl) s

theorem effects_storeWord (k : Nat) (r : Run) (j : Nat) (w : TileWord) (a : Nat) (s : State) : Effects k s (storeWord k r j w a s) :=
  ((effects_copyWord k r j w a s).trans (.each (fun e : Nat × Nat => effects_queueStores k r j w e.1 e.2) _ _)).trans
    (effects_agePages k _ _ _ _)

theorem effects_weightWord (k : Nat) (r : Run) (j : Nat) (w : TileWord) (s : State) : Effects k s (weightWord k r j w s) :=
  effects_updPart k _ (fun _ => rfl) s

theorem effects_sendWord (k j : Nat) (w : TileWord) (s : State) : Effects k s (sendWord k j w s) := effects_apart k _ _ _ s

theorem effects_addSync (k c v : Nat) (s : State) : Effects k s (addSync k c v s) := effects_updPart k _ (fun _ => rfl) s

theorem effects_grantWord (k : Nat) (r : Run) (w : TileWord) (s : State) : Effects k s (grantWord k r w s) :=
  (effects_updPart k _ (fun _ => rfl) s).trans (.each (fun _ u => effects_apart k _ _ _ u) _ _)

/-! ## Commits of effects -/

/-- t is s after the word w of the RUN r has taken effect as in v and has committed, with the contexts settled. -/
structure EffectCommitted (k : Nat) (r : Run) (w : TileWord) (s v t : State) : Prop extends Committed k r w s t where
  pens : t.pens = v.pens
  fabric : t.fabric = v.fabric
  manger : (t.part k).manger = (v.part k).manger
  wcnt : (t.part k).wcnt = (v.part k).wcnt
  sync : (t.part k).sync = (v.part k).sync
  stores : ∀ q, (v.part k).run = some q → ∃ z, (t.part k).run = some z ∧ z.toStore = q.toStore
    ∧ (w.opcode = opFold → z.foldAt = commitAc r w)

namespace EffectCommitted
variable {k : Nat} {r : Run} {w : TileWord} {s v t : State} (h : EffectCommitted k r w s v t)
include h

theorem gate (g : Nat) : t.gate g = v.gate g := by rw [State.gate, h.fabric, State.gate]
theorem pen (i : Nat) : t.pen i = v.pen i := by rw [State.pen, h.pens, State.pen]

end EffectCommitted

theorem isWork_of_plain {w : TileWord} (h : opLoad ≤ w.opcode) : isWork w = false := by
  have : isSlotted w = false := by
    simp only [isSlotted, isMac, isCv, opMm, opCv, opDw, opAt, opLoad, Bool.or_eq_false_iff, beq_eq_false_iff_ne] at h ⊢
    omega
  rw [isWork, this, Bool.false_and]

theorem issueReady_facts {s : State} {k op : Nat} {r : Run} {w : TileWord} (h : issueReady s k op = some (r, w)) :
    w.opcode = op ∧ (s.part k).st = .running ∧ r.ending = none := by
  simp only [issueReady, Option.bind_eq_some_iff] at h
  obtain ⟨r', -, w', -, h⟩ := h
  split at h
  case isTrue hc =>
    cases h
    simp only [Bool.and_eq_true, beq_iff_eq, Option.isNone_iff_eq_none] at hc
    obtain ⟨⟨⟨⟨⟨⟨hst, hend⟩, -⟩, -⟩, hop⟩, -⟩, -⟩ := hc
    exact ⟨hop, hst, hend⟩
  case isFalse => cases h

theorem Effects.committed {k : Nat} {r : Run} {w : TileWord} {s v t : State} (e : Effects k (atCommit k r w s) v)
    (hr : (s.part k).run = some r) (hst : (s.part k).st = .running) (hs : ∀ x ∈ s.recov.steps, x.search = false)
    (hw : opLoad ≤ w.opcode) (g : Resettled (commitStep k r.nextInstr 0 w (commitAc r w) v) t) : EffectCommitted k r w s v t := by
  have hi := atCommit_issues (w := w) hr
  obtain ⟨q, hq, hrun⟩ := hi.run
  obtain ⟨l, o, hv⟩ := e.run q hq
  have c := commitStep_commits hv (by rw [e.same, hi.recov]; exact hs) (isWork_of_plain hw) r.nextInstr 0 (commitAc r w)
  obtain ⟨z, hz, hgo⟩ := c.run _ hv
  have htrun : (t.part k).run = some z := by rw [g.queues]; exact hz
  have hhbm : t.hbm = s.hbm := by rw [g.same, c.same, e.same, hi.hbm]
  have hdone : (z.doneInstr, z.doneRound) = stepAfter r r.nextInstr 0 w := hgo.done.trans (stepAfter_congr (by rw [hrun]) _ _ _)
  have hflight : z.flight = [] := List.eq_nil_iff_forall_not_mem.2 fun x hx => by
    have hx := hgo.flight x hx
    rw [hrun] at hx
    cases hx
  exact
    { done := ⟨z, htrun, hdone, by rw [hgo.same, hrun], by rw [hgo.same], hflight, by rw [hgo.same, hrun], by rw [hgo.same, hrun]⟩
      slips := by rw [g.queues, c.part]
      st := by rw [g.queues, c.part, e.part, hi.part]; exact hst
      lag := by rw [g.queues, c.part, e.part, hi.part]
      others := fun i hne => by rw [g.queues, c.others i hne, e.others i hne, hi.others i hne]
      t1 := by rw [hhbm]
      t2 := by rw [hhbm]
      pens := by rw [g.same, c.same]
      fabric := by rw [g.same, c.same]
      manger := by rw [g.queues, c.part]
      wcnt := by rw [g.queues, c.part]
      sync := by rw [g.queues, c.part]
      stores := fun y hy => by
        cases hv.symm.trans hy
        exact ⟨z, htrun, by rw [hgo.same], fun hf => by rw [hgo.same, if_pos hf]⟩ }

/-! ## The issue of a word without arithmetic -/

theorem issuePlain_eq {k : Nat} {r : Run} {w : TileWord} {s : State} (h : w.opcode ≠ opRecv ∨ accepted s k r.nextInstr w = true) :
    issuePlain k r w s =
      if commitsAtOnce k r w (commitAc r w) (launch k r.nextInstr w (firstAttempt s k r w) 0 false (atIssue k r w s)) then
        commitWord k r r.nextInstr w (commitAc r w) (atCommit k r w s)
      else launch k r.nextInstr w (firstAttempt s k r w) 0 false (atIssue k r w s) := by
  unfold issuePlain
  dsimp only
  rw [if_neg (by rcases h with h | h <;> simp [h])]
  rfl

theorem issueOther_issues {s : State} {k op : Nat} {r : Run} {w : TileWord} (h : issueReady s k op = some (r, w)) (name : String) :
    issueOther name op k s = .next (settled (issuePlain k r w) s) := by
  simp only [issueOther, anchorSlip_none_of_issueReady h, h]

theorem execSyWgrant_issues {s : State} {k : Nat} {r : Run} {w : TileWord} (h : issueReady s k opGrant = some (r, w)) (parity : Bool) :
    execSyWgrant k parity s = .next (if parity then grantParity k r w s else settled (issuePlain k r w) s) := by
  simp only [execSyWgrant, anchorSlip_none_of_issueReady h, h]

theorem execSyWait_issues {s : State} {k : Nat} {r : Run} {w : TileWord} (h : issueReady s k opWait = some (r, w))
    (hv : w.value ≤ syncValue s k (w.sel % 4096)) : execSyWait k s = .next (settled (issuePlain k r w) s) := by
  simp only [execSyWait, anchorSlip_none_of_issueReady h, h, settled, if_pos hv]

theorem execSyWait_slips {s : State} {k : Nat} {r : Run} {w : TileWord} (h : issueReady s k opWait = some (r, w))
    (hv : syncValue s k (w.sel % 4096) < w.value) :
    execSyWait k s = .next (settled (fun t => slip k slipLotLate (moveTo (nextIssue r) t)) s) := by
  simp only [execSyWait, anchorSlip_none_of_issueReady h, h, settled, if_neg (Nat.not_le.2 hv)]

/-- A word that commits as it issues leaves its effect with its commit. -/
theorem AtOnce.commits {k op : Nat} {r : Run} {w : TileWord} {s v : State} (o : AtOnce k r w s) (h : issueReady s k op = some (r, w))
    (hop : opLoad ≤ op) (ha : op ≠ opRecv ∨ accepted s k r.nextInstr w = true) (e : Effects k (atCommit k r w s) v)
    (hc : Resettled (commitStep k r.nextInstr 0 w (commitAc r w) v)
      (commitWord k r r.nextInstr w (commitAc r w) (atCommit k r w s))) :
    EffectCommitted k r w s v (settled (issuePlain k r w) s) := by
  obtain ⟨hcode, hst, -⟩ := issueReady_facts h
  have g := settled_resettled (issuePlain k r w) s
  rw [issuePlain_eq (by rw [hcode]; exact ha), if_pos o.free] at g
  exact e.committed (issueReady_eq_some h).1 hst o.search (hcode ▸ hop) (hc.trans g)

end Sys2Proof.Machine
end

section
/-! PROOFS. MV, SY and TL words (R71, R127, R128, R133, R137 to R142, R252, R336, R339): the effect of each, and the words that slip,
reissue, or wait for their verdict. -/

namespace Sys2Proof.Machine

/-! ## The effect of each word -/

theorem Resettled.refl (s : State) : Resettled s s := ⟨rfl, fun _ => rfl⟩

section
variable {w : TileWord} (k : Nat) (r : Run) (j a : Nat) (s : State)

theorem commitWord_load (h : w.opcode = opLoad) : commitWord k r j w a s = commitStep k j 0 w a (copyWord k r j w a s) := by
  rw [commitWord, if_pos h]
  rfl

theorem commitWord_store (h : w.opcode = opStore) : commitWord k r j w a s = commitStep k j 0 w a (storeWord k r j w a s) := by
  simp only [commitWord, h]
  rfl

theorem commitWord_weight (h : w.opcode = opWeight) : commitWord k r j w a s = commitStep k j 0 w a (weightWord k r j w s) := by
  simp only [commitWord, h]
  rfl

theorem commitWord_send (h : w.opcode = opSend) : commitWord k r j w a s = commitStep k j 0 w a (sendWord k j w s) := by
  simp only [commitWord, h]
  rfl

theorem commitWord_recv (h : w.opcode = opRecv) : commitWord k r j w a s = recvWord k r j w a s := by
  simp only [commitWord, h]
  rfl

theorem commitWord_signal (h : w.opcode = opSignal) :
    commitWord k r j w a s = settled (fun t => commitStep k j 0 w a (addSync k (w.sel % 4096) w.value t)) s := by
  simp only [commitWord, h]
  rfl

theorem commitWord_effectless (h : w.opcode = opFold ∨ w.opcode = opWait ∨ w.opcode = opTl) :
    commitWord k r j w a s = commitStep k j 0 w a s := by
  rcases h with h | h | h <;> (simp only [commitWord, h]; rfl)

theorem commitWord_grant (h : w.opcode = opGrant) (hl : listFault r.prog w (tget WorkCounter.reset (s.part k).wcnt w.sub).list = none) :
    commitWord k r j w a s = commitStep k j 0 w a (grantWord k r w s) := by
  simp only [commitWord, h, hl]
  rfl

theorem commitWord_grant_fault (h : w.opcode = opGrant) {e : Nat × Nat}
    (hl : listFault r.prog w (tget WorkCounter.reset (s.part k).wcnt w.sub).list = some e) :
    commitWord k r j w a s = haltRun k ⟨e.1, 0, 3, stepRefNum ⟨j, 0, 0⟩⟩ (updCounter k w.sub (fun c =>
      { c with next := e.2, limit := (tget WorkCounter.reset (s.part k).wcnt w.sub).list.headD 0 % 2 ^ 17 }) s) := by
  simp only [commitWord, h, hl]
  rfl

end

/-- What a fold brings about with one element, where every change keeps it and the premise of that element's change. -/
theorem forAll_reaches {α σ : Type} {P Q : σ → Prop} {f : α → σ → σ} (hQ : ∀ b u, Q u → Q (f b u)) (hP : ∀ b u, P u → P (f b u))
    {a : α} (hset : ∀ u, Q u → P (f a u)) {l : List α} (ha : a ∈ l) {s : σ} (hs : Q s) : P (forAll l f s) := by
  induction l generalizing s with
  | nil => cases ha
  | cons b l ih =>
    rw [forAll_cons]
    rcases List.mem_cons.1 ha with rfl | ha
    · exact forAll_induct hP l (hset s hs)
    · exact ih ha (hQ b s hs)

/-- The RUN of partition k has the lot wait for its store. -/
def Waits (k : Nat) (lot : LotRef) (s : State) : Prop := ∃ q, (s.part k).run = some q ∧ lot ∈ q.toStore

theorem Waits.effects {k : Nat} {lot : LotRef} {s t : State} (h : Waits k lot s) (e : Effects k s t) : Waits k lot t := by
  obtain ⟨q, hq, hl⟩ := h
  obtain ⟨l, o, ht⟩ := e.run q hq
  exact ⟨_, ht, List.mem_append_left l hl⟩

theorem waits_updRun {k : Nat} {lot : LotRef} {s : State} (hs : ((s.part k).run).isSome) (f : Run → Run) (hf : ∀ q, lot ∈ (f q).toStore) :
    Waits k lot (updRun k f s) := by
  obtain ⟨q, hq⟩ := Option.isSome_iff_exists.1 hs
  exact ⟨f q, by rw [part_updRun_some hq], hf q⟩

theorem waits_queueStores {k : Nat} {s : State} (hs : ((s.part k).run).isSome) (r : Run) (j : Nat) (w : TileWord) (lp rb : Nat) {i : Nat}
    (hi : i < (regionOf r.prog j w .store 0 rb).lots) : Waits k ⟨k, j, rb, .store, lp, i⟩ (queueStores k r j w lp rb s) :=
  waits_updRun hs _ fun _ => List.mem_append_right _ (List.mem_map.2 ⟨i, List.mem_range.2 hi, rfl⟩)

theorem EffectCommitted.waits {k : Nat} {r : Run} {w : TileWord} {s v t : State} {lot : LotRef} (g : EffectCommitted k r w s v t)
    (h : Waits k lot v) {q : Run} (hq : (t.part k).run = some q) : lot ∈ q.toStore := by
  obtain ⟨y, hy, hl⟩ := h
  obtain ⟨z, hz, hst, -⟩ := g.stores y hy
  cases hq.symm.trans hz
  rw [hst]
  exact hl

/-- Every store lot of the row blocks of an MV.STORE waits once it has taken effect (R35). -/
theorem waits_storeWord {k : Nat} {r : Run} {w : TileWord} {s : State} (hs : ((s.part k).run).isSome) (j a : Nat) {e : Nat × Nat}
    (he : e ∈ mvBlocks r.prog w) {i : Nat} (hi : i < (regionOf r.prog j w .store 0 e.2).lots) :
    Waits k ⟨k, j, e.2, .store, e.1, i⟩ (storeWord k r j w a s) := by
  have keeps : ∀ {u t : State}, Effects k u t → ((u.part k).run).isSome → ((t.part k).run).isSome := fun e h => by
    obtain ⟨q, hq⟩ := Option.isSome_iff_exists.1 h
    obtain ⟨l, o, ht⟩ := e.run q hq
    rw [ht]; rfl
  have hqueue := forAll_reaches (P := Waits k ⟨k, j, e.2, .store, e.1, i⟩) (Q := fun u => ((u.part k).run).isSome)
    (f := fun b : Nat × Nat => queueStores k r j w b.1 b.2)
    (fun b u => keeps (effects_queueStores k r j w b.1 b.2 u)) (fun b u h => h.effects (effects_queueStores k r j w b.1 b.2 u))
    (fun u h => waits_queueStores h r j w e.1 e.2 hi) he (keeps (effects_copyWord k r j w a s) hs)
  exact hqueue.effects (effects_agePages k _ _ _ _)

theorem storeWord_pens (k : Nat) (r : Run) (j : Nat) (w : TileWord) (a : Nat) (s : State) :
    (storeWord k r j w a s).pens = (copyWord k r j w a s).pens := by
  rw [storeWord, (storesQueued_agePages k _ _ _ _).pens,
    (storesQueued_forAll (fun e : Nat × Nat => storesQueued_queueStores k r j w e.1 e.2) _ _).pens]

theorem tget_updManger (k i : Nat) (f : MangerSlot → MangerSlot) (s : State) :
    tget MangerSlot.reset ((updManger k i f s).part k).manger i = f (tget MangerSlot.reset (s.part k).manger i) := by
  rw [updManger, part_updPart_same, tget_tupd, if_pos rfl]

theorem tget_updCounter (k c : Nat) (f : WorkCounter → WorkCounter) (s : State) :
    tget WorkCounter.reset ((updCounter k c f s).part k).wcnt c = f (tget WorkCounter.reset (s.part k).wcnt c) := by
  rw [updCounter, part_updPart_same, tget_tupd, if_pos rfl]

/-- The manger slot of an MV.WEIGHT that has taken effect (R252). -/
theorem weightWord_slot (k : Nat) (r : Run) (j : Nat) (w : TileWord) (s : State) :
    ∃ m, tget MangerSlot.reset ((weightWord k r j w s).part k).manger (weightOrdinal r.prog j % 3) = m ∧ m.valid = true ∧ m.instr = j
      ∧ m.desc = w.da := by
  refine ⟨_, tget_updManger _ _ _ _, ?_⟩
  split
  · rename_i h
    exact ⟨rfl, h, rfl⟩
  · exact ⟨rfl, rfl, rfl⟩

theorem sendWord_gate (k j : Nat) (w : TileWord) (s : State) : (sendWord k j w s).gate (transferGate s k w) =
    { s.gate (transferGate s k w) with
      seq := ((s.gate (transferGate s k w)).seq + 1) % 65536
      sends := mapIf (fun h => h.part == k && h.instr == j) (fun h => { h with issued := true, seq := (s.gate (transferGate s k w)).seq })
        (s.gate (transferGate s k w)).sends } := by
  rw [sendWord, gate_updGate_same, updSend, gate_updGate_same]

/-- One entry of a work list, with its place in the list, goes to the queue of its pen (R139). -/
def grantEntry (k : Nat) (r : Run) (w : TileWord) (e : Nat × Nat) (s : State) : State :=
  updPen (physPen s k (e.1 % max 1 r.prog.penCount)) (fun q => { q with grants := q.grants ++ [⟨e.1, e.2 + 1, w.sub⟩] }) s

section
variable (k : Nat) (r : Run) (w : TileWord) (s : State)

theorem grantWord_eq {l : List Nat} (hl : (tget WorkCounter.reset (s.part k).wcnt w.sub).list = l) :
    grantWord k r w s = forAll (((l.drop 1).take (l.headD 0)).zipIdx) (grantEntry k r w)
      (updCounter k w.sub (fun c => { c with next := l.headD 0, limit := l.headD 0 }) s) := by
  subst hl
  rfl

theorem enabledPens_grantEntry (e : Nat × Nat) : enabledPens (grantEntry k r w e s) k = enabledPens s k :=
  enabledPens_congr (s := s) (t := grantEntry k r w e s) rfl (fun i => by
    rw [grantEntry, pen_updPen]
    split
    · rename_i h; rw [h]
    · rfl) k

theorem mem_grants_grantEntry {g : Grant} {p : Nat} (h : g ∈ (s.pen p).grants) (e : Nat × Nat) :
    g ∈ ((grantEntry k r w e s).pen p).grants := by
  rw [grantEntry, pen_updPen]
  split
  · rename_i hp
    exact List.mem_append_left _ (hp ▸ h)
  · exact h

variable {k r w s} {l : List Nat} (hl : (tget WorkCounter.reset (s.part k).wcnt w.sub).list = l)
include hl

/-- An entry of a work list that has been granted stands in the queue of its pen (R137, R139). -/
theorem mem_grants_grantWord {i b : Nat} (hb : ((l.drop 1).take (l.headD 0))[i]? = some b) :
    ⟨b, i + 1, w.sub⟩ ∈ ((grantWord k r w s).pen (physPen s k (b % max 1 r.prog.penCount))).grants := by
  rw [grantWord_eq k r w s hl]
  refine forAll_reaches (a := (b, i)) (Q := fun u => enabledPens u k = enabledPens s k)
    (P := fun u => ⟨b, i + 1, w.sub⟩ ∈ (u.pen (physPen s k (b % max 1 r.prog.penCount))).grants)
    (fun e u hu => (enabledPens_grantEntry k r w u e).trans hu) (fun e u hu => mem_grants_grantEntry k r w u hu e) (fun u hu => ?_)
    (List.mem_zipIdx_iff_getElem?.2 hb) (s := updCounter k w.sub _ s) rfl
  rw [grantEntry, physPen, hu, ← physPen, pen_updPen_same]
  exact List.mem_append_right _ (List.mem_singleton_self _)

/-- The counter of a work list that has been granted (R137). -/
theorem grantWord_counter : ∃ c, tget WorkCounter.reset ((grantWord k r w s).part k).wcnt w.sub = c ∧ c.next = l.headD 0
    ∧ c.limit = l.headD 0 := by
  rw [grantWord_eq k r w s hl, forAll_fixed (fun u : State => u.part k) (f := grantEntry k r w) (fun _ _ => rfl), tget_updCounter]
  exact ⟨_, rfl, rfl, rfl⟩

end

/-- What an MV.RECV changes whose transfer has brought v (R339). -/
def receiveWord (k : Nat) (r : Run) (j : Nat) (w : TileWord) (v : List Byte) (s : State) : State :=
  agePages r (Desc.at r.prog w.dc) ((mvBlocks r.prog w).map (·.2)) (updRun k (fun x =>
    { x with toStore := x.toStore ++ (List.range (ceilDiv v.length 65536)).map fun i => ⟨k, j, 0, .store, 0, i⟩ })
    (updRecv (transferGate s k w) k j (fun h => { h with accepted := some v }) s))

theorem effects_receiveWord (k : Nat) (r : Run) (j : Nat) (w : TileWord) (v : List Byte) (s : State) :
    Effects k s (receiveWord k r j w v s) :=
  ((effects_apart k _ _ _ s).trans (effects_updRun k _ _ (fun _ => rfl) _)).trans (effects_agePages k _ _ _ _)

theorem recvWord_of_result {k j : Nat} {w : TileWord} {s : State} {h : RecvHold} {d v : List Byte}
    (hf : (s.gate (transferGate s k w)).recvs.find? (fun h => h.part == k && h.instr == j) = some h) (ha : h.accepted = some d)
    (hv : recvResult (mvMode w) h d = some v) (r : Run) (a : Nat) :
    recvWord k r j w a s = commitStep k j 0 w a (receiveWord k r j w v s) := by
  simp only [recvWord, hf, ha, hv]
  rfl

theorem agePages_fabric (r : Run) (c : Desc) (rbs : List Nat) (s : State) : (agePages r c rbs s).fabric = s.fabric := by
  unfold agePages
  split
  · rfl
  · refine forAll_fixed State.fabric (fun b u => ?_) rbs s
    split <;> rfl

/-- The element that a list change finds is the changed one that it found before. -/
theorem find_mapIf {α : Type} {p : α → Bool} {f : α → α} (hf : ∀ a, p (f a) = p a) (l : List α) :
    (mapIf p f l).find? p = (l.find? p).map f := by
  induction l with
  | nil => rfl
  | cons a l ih =>
    have hl : mapIf p f (a :: l) = (if p a then f a else a) :: mapIf p f l := rfl
    rw [hl, List.find?_cons, List.find?_cons]
    cases ha : p a
    · simp [ha, ih]
    · simp [ha, hf]

theorem receiveWord_find {k j : Nat} {w : TileWord} {s : State} {h : RecvHold}
    (hf : (s.gate (transferGate s k w)).recvs.find? (fun h => h.part == k && h.instr == j) = some h) (r : Run) (v : List Byte) :
    ((receiveWord k r j w v s).gate (transferGate s k w)).recvs.find? (fun h => h.part == k && h.instr == j) =
      some { h with accepted := some v } := by
  have hgate : (receiveWord k r j w v s).gate (transferGate s k w) = _ :=
    (congrArg (fun b : Fabric => tget Gate.reset b.gates (transferGate s k w)) (agePages_fabric r _ _ _)).trans
      (gate_updGate_same (transferGate s k w) _ s)
  have hfind := find_mapIf (p := fun h : RecvHold => h.part == k && h.instr == j) (f := fun h => { h with accepted := some v })
    (fun _ => rfl) (s.gate (transferGate s k w)).recvs
  rw [hf] at hfind
  rw [hgate]
  exact hfind

theorem waits_receiveWord {k : Nat} {s : State} (hs : ((s.part k).run).isSome) (r : Run) (j : Nat) (w : TileWord) (v : List Byte) {i : Nat}
    (hi : i < ceilDiv v.length 65536) : Waits k ⟨k, j, 0, .store, 0, i⟩ (receiveWord k r j w v s) :=
  (waits_updRun (s := updRecv (transferGate s k w) k j (fun h => { h with accepted := some v }) s) hs _ fun _ =>
    List.mem_append_right _ (List.mem_map.2 ⟨i, List.mem_range.2 hi, rfl⟩)).effects (effects_agePages k _ _ _ _)

/-! ## Slips of a word that issues -/

/-- A RUN whose word issues slips, also when its lag and its work counters have changed (R71). -/
theorem slips_of_issueReady {s u : State} {k op : Nat} {r : Run} {w : TileWord} (h : issueReady s k op = some (r, w))
    (hp : u.part k = { s.part k with lag := (u.part k).lag, wcnt := (u.part k).wcnt }) (ht : u.hbm = s.hbm) (c : Nat) :
    Slipped k c s (slip k c u) ∧ (slip k c u).hbm.t1 = s.hbm.t1 ∧ ((slip k c u).part k).wcnt = (u.part k).wcnt := by
  have hr := (issueReady_eq_some h).1
  obtain ⟨-, hst, hend⟩ := issueReady_facts h
  have hu : (u.part k).run = some r := by rw [hp]; exact hr
  have hs : slips (u.part k) r = true := by
    rw [slips, hend, hp, hst]
    rfl
  refine ⟨slip_slipped hu hs c (by rw [hp]) fun q hq => ?_, by rw [(slip_stops hu hs c).t1, ht], ?_⟩
  · cases hr.symm.trans hq
    rfl
  · obtain ⟨v, -, hv, e⟩ := slip_cases hu hs c
    have hrun : (v.part k).run = some r := by rw [hv]; exact hu
    rw [e]
    split
    · rw [part_quiesce (by rw [part_updPart_same]; exact hrun), part_updPart_same, hv]
      rfl
    · rw [part_haltRun hrun, hv]
      rfl

/-- An MV.RECV whose transfer is not here slips as it issues (R336). -/
theorem issuePlain_missing {k : Nat} {r : Run} {w : TileWord} {s : State} (hop : w.opcode = opRecv)
    (ha : accepted s k r.nextInstr w = false) : issuePlain k r w s = slip k slipFabricLate (atIssue k r w s) := by
  unfold issuePlain
  dsimp only
  rw [if_pos (by simp [hop, ha])]
  rfl

/-! ## Words that commit at once -/

section
variable {s : State} {k : Nat} {r : Run} {w : TileWord} (o : AtOnce k r w s)
include o

theorem mvLoad_commits (h : issueReady s k opLoad = some (r, w)) :
    ∃ t, exec (.mvLoad k) s = .next t ∧ Committed k r w s t ∧ t.pens = (copyWord k r r.nextInstr w (commitAc r w) s).pens := by
  obtain ⟨hop, -⟩ := issueReady_facts h
  have hw := atCommit_issues (w := w) (issueReady_eq_some h).1
  have g := o.commits h (by decide) (.inl (by decide)) (effects_copyWord k r r.nextInstr w (commitAc r w) _)
    (by rw [commitWord_load k r _ _ _ hop]; exact .refl _)
  exact ⟨_, issueOther_issues h "MV.LOAD", g.toCommitted, g.pens.trans (hw.copyWord_pens _ _)⟩

theorem mvStore_commits (h : issueReady s k opStore = some (r, w)) :
    ∃ t q, exec (.mvStore k) s = .next t ∧ Committed k r w s t ∧ (t.part k).run = some q
      ∧ t.pens = (copyWord k r r.nextInstr w (commitAc r w) s).pens
      ∧ ∀ e ∈ mvBlocks r.prog w, ∀ i < (regionOf r.prog r.nextInstr w .store 0 e.2).lots,
          (⟨k, r.nextInstr, e.2, .store, e.1, i⟩ : LotRef) ∈ q.toStore := by
  obtain ⟨hop, -⟩ := issueReady_facts h
  have hw := atCommit_issues (w := w) (issueReady_eq_some h).1
  have g := o.commits h (by decide) (.inl (by decide)) (effects_storeWord k r r.nextInstr w (commitAc r w) _)
    (by rw [commitWord_store k r _ _ _ hop]; exact .refl _)
  obtain ⟨q, hq, -⟩ := g.done
  exact ⟨_, q, issueOther_issues h "MV.STORE", g.toCommitted, hq, (g.pens.trans (storeWord_pens _ _ _ _ _ _)).trans (hw.copyWord_pens _ _),
    fun e he i hi => g.waits (waits_storeWord hw.runs _ _ he hi) hq⟩

theorem mvWeight_commits (h : issueReady s k opWeight = some (r, w)) :
    ∃ t, exec (.mvWeight k) s = .next t ∧ Committed k r w s t
      ∧ (tget MangerSlot.reset (t.part k).manger (weightOrdinal r.prog r.nextInstr % 3)).valid = true
      ∧ (tget MangerSlot.reset (t.part k).manger (weightOrdinal r.prog r.nextInstr % 3)).instr = r.nextInstr
      ∧ (tget MangerSlot.reset (t.part k).manger (weightOrdinal r.prog r.nextInstr % 3)).desc = w.da ∧ t.pens = s.pens := by
  obtain ⟨hop, -⟩ := issueReady_facts h
  have hw := atCommit_issues (w := w) (issueReady_eq_some h).1
  have g := o.commits h (by decide) (.inl (by decide)) (effects_weightWord k r r.nextInstr w _)
    (by rw [commitWord_weight k r _ _ _ hop]; exact .refl _)
  obtain ⟨m, hm, hvalid, hinstr, hdesc⟩ := weightWord_slot k r r.nextInstr w (atCommit k r w s)
  refine ⟨_, issueOther_issues h "MV.WEIGHT", g.toCommitted, ?_⟩
  rw [g.manger, hm]
  exact ⟨hvalid, hinstr, hdesc, g.pens.trans hw.pens⟩

theorem mvSend_commits (h : issueReady s k opSend = some (r, w)) :
    ∃ t, exec (.mvSend k) s = .next t ∧ Committed k r w s t
      ∧ (t.gate (transferGate s k w)).seq = ((s.gate (transferGate s k w)).seq + 1) % 65536
      ∧ (∀ h ∈ (t.gate (transferGate s k w)).sends, h.part = k → h.instr = r.nextInstr →
          h.issued = true ∧ h.seq = (s.gate (transferGate s k w)).seq)
      ∧ (t.gate (transferGate s k w)).sends.length = (s.gate (transferGate s k w)).sends.length ∧ t.pens = s.pens := by
  obtain ⟨hop, -⟩ := issueReady_facts h
  have hw := atCommit_issues (w := w) (issueReady_eq_some h).1
  have g := o.commits h (by decide) (.inl (by decide)) (effects_sendWord k r.nextInstr w _)
    (by rw [commitWord_send k r _ _ _ hop]; exact .refl _)
  have hgate := (g.gate _).trans (sendWord_gate k r.nextInstr w (atCommit k r w s))
  rw [hw.transferGate, hw.gate] at hgate
  refine ⟨_, issueOther_issues h "MV.SEND", g.toCommitted, by rw [hgate], fun x hx hk hj => ?_, ?_, g.pens.trans hw.pens⟩
  · rw [hgate] at hx
    obtain ⟨y, -, rfl⟩ := List.mem_map.1 hx
    split at hk
    · rename_i hy
      rw [if_pos hy]
      exact ⟨rfl, rfl⟩
    · rename_i hy
      rw [if_neg hy] at hj
      exact absurd (by simp [hk, hj]) hy
  · rw [hgate]
    exact List.length_map _

theorem mvRecv_commits {h : RecvHold} {d v : List Byte} (hi : issueReady s k opRecv = some (r, w))
    (hf : (s.gate (transferGate s k w)).recvs.find? (fun h => h.part == k && h.instr == r.nextInstr) = some h)
    (ha : h.accepted = some d) (hv : recvResult (mvMode w) h d = some v) :
    ∃ t q, exec (.mvRecv k) s = .next t ∧ Committed k r w s t ∧ (t.part k).run = some q
      ∧ (t.gate (transferGate s k w)).recvs.find? (fun h => h.part == k && h.instr == r.nextInstr) = some { h with accepted := some v }
      ∧ ∀ i < ceilDiv v.length 65536, (⟨k, r.nextInstr, 0, .store, 0, i⟩ : LotRef) ∈ q.toStore := by
  obtain ⟨hop, -⟩ := issueReady_facts hi
  have hw := atCommit_issues (w := w) (issueReady_eq_some hi).1
  have hacc : accepted s k r.nextInstr w = true := by rw [accepted, hf, Option.any_some, ha]; rfl
  rw [← hw.gate, ← hw.transferGate] at hf
  have g := o.commits hi (by decide) (.inr hacc) (effects_receiveWord k r r.nextInstr w v _)
    (by rw [commitWord_recv k r _ _ _ hop, recvWord_of_result hf ha hv]; exact .refl _)
  obtain ⟨q, hq, -⟩ := g.done
  refine ⟨_, q, issueOther_issues hi "MV.RECV", g.toCommitted, hq, ?_, fun i hi => g.waits (waits_receiveWord hw.runs r _ w v hi) hq⟩
  rw [g.gate, ← hw.transferGate]
  exact receiveWord_find hf r v

/-- A word with no effect but its commit. -/
theorem effectless_commits {op : Nat} (h : issueReady s k op = some (r, w)) (hop : op = opFold ∨ op = opWait ∨ op = opTl) :
    EffectCommitted k r w s (atCommit k r w s) (settled (issuePlain k r w) s) := by
  obtain ⟨hcode, -⟩ := issueReady_facts h
  subst hcode
  have hplain : opLoad ≤ w.opcode ∧ w.opcode ≠ opRecv := by rcases hop with h | h | h <;> rw [h] <;> decide
  exact o.commits h hplain.1 (.inl hplain.2) (.refl k _) (by rw [commitWord_effectless k r _ _ _ hop]; exact .refl _)

theorem sySignal_commits (h : issueReady s k opSignal = some (r, w)) :
    ∃ t, exec (.sySignal k) s = .next t ∧ Committed k r w s t ∧ t.pens = s.pens
      ∧ syncValue t k (w.sel % 4096) = min (2 ^ 64 - 1) (syncValue s k (w.sel % 4096) + w.value)
      ∧ ∀ c, c ≠ w.sel % 4096 → syncValue t k c = syncValue s k c := by
  obtain ⟨hop, -⟩ := issueReady_facts h
  have hw := atCommit_issues (w := w) (issueReady_eq_some h).1
  have g := o.commits h (by decide) (.inl (by decide)) (effects_addSync k (w.sel % 4096) w.value _)
    (by rw [commitWord_signal k r _ _ _ hop]; exact settled_resettled (fun t => commitStep k _ 0 w _ (addSync k _ w.value t)) _)
  have hsync : ∀ c, syncValue (settled (issuePlain k r w) s) k c =
      if c = w.sel % 4096 then satAdd 64 (syncValue s k (w.sel % 4096)) w.value else syncValue s k c := fun c => by
    have hu : ∀ c, syncValue (atCommit k r w s) k c = syncValue s k c := fun c => by rw [syncValue, hw.part, syncValue]
    rw [syncValue, g.sync, addSync, setSync, part_updPart_same, tget_tset, hu, ← hu c]
    rfl
  exact ⟨_, issueOther_issues h "SY.SIGNAL", g.toCommitted, g.pens.trans hw.pens, by rw [hsync, if_pos rfl, satAdd, min_comm],
    fun c hc => by rw [hsync, if_neg hc]⟩

theorem syWgrant_commits (h : issueReady s k opGrant = some (r, w)) {l : List Nat}
    (hl : (tget WorkCounter.reset (s.part k).wcnt w.sub).list = l) (hf : listFault r.prog w l = none) :
    ∃ t, exec (.syWgrant k false) s = .next t ∧ Committed k r w s t
      ∧ (tget WorkCounter.reset (t.part k).wcnt w.sub).next = l.headD 0
      ∧ (tget WorkCounter.reset (t.part k).wcnt w.sub).limit = l.headD 0
      ∧ ∀ i b, ((l.drop 1).take (l.headD 0))[i]? = some b →
          ⟨b, i + 1, w.sub⟩ ∈ (t.pen (physPen s k (b % max 1 r.prog.penCount))).grants := by
  obtain ⟨hop, -⟩ := issueReady_facts h
  have hw := atCommit_issues (w := w) (issueReady_eq_some h).1
  have hl' : (tget WorkCounter.reset ((atCommit k r w s).part k).wcnt w.sub).list = l := by rw [hw.part]; exact hl
  have g := o.commits h (by decide) (.inl (by decide)) (effects_grantWord k r w _)
    (by rw [commitWord_grant k r _ _ _ hop (by rw [hl']; exact hf)]; exact .refl _)
  obtain ⟨c, hc, hnext, hlimit⟩ := grantWord_counter (r := r) hl'
  refine ⟨_, execSyWgrant_issues h false, g.toCommitted, ?_, ?_, fun i b hb => ?_⟩
  · rw [if_neg Bool.false_ne_true, g.wcnt, hc, hnext]
  · rw [if_neg Bool.false_ne_true, g.wcnt, hc, hlimit]
  · rw [if_neg Bool.false_ne_true, g.pen, ← hw.physPen]
    exact mem_grants_grantWord hl' hb

/-- A work list at fault ends the RUN as it is granted (R138). -/
theorem syWgrant_faults (h : issueReady s k opGrant = some (r, w)) {l : List Nat}
    (hl : (tget WorkCounter.reset (s.part k).wcnt w.sub).list = l) {e : Nat × Nat} (hf : listFault r.prog w l = some e) :
    ∃ t q, exec (.syWgrant k false) s = .next t ∧ (t.part k).st = .quiesced ∧ (t.part k).run = some q
      ∧ q.ending = some ⟨e.1, 0, 3, stepRefNum ⟨r.nextInstr, 0, 0⟩⟩ ∧ (tget WorkCounter.reset (t.part k).wcnt w.sub).next = e.2 := by
  obtain ⟨hop, -⟩ := issueReady_facts h
  have hw := atCommit_issues (w := w) (issueReady_eq_some h).1
  obtain ⟨q, hq, -⟩ := hw.run
  have hl' : (tget WorkCounter.reset ((atCommit k r w s).part k).wcnt w.sub).list = l := by rw [hw.part]; exact hl
  have hplain : issuePlain k r w s = _ := (issuePlain_eq (.inl (by rw [hop]; decide))).trans <| (if_pos o.free).trans <|
    commitWord_grant_fault k r r.nextInstr (commitAc r w) _ hop (by rw [hl']; exact hf)
  have hcount := tget_updCounter k w.sub (fun c => { c with
    next := e.2, limit := (tget WorkCounter.reset ((atCommit k r w s).part k).wcnt w.sub).list.headD 0 % 2 ^ 17 }) (atCommit k r w s)
  refine ⟨_, { discardSteps q with ending := some ⟨e.1, 0, 3, stepRefNum ⟨r.nextInstr, 0, 0⟩⟩ }, execSyWgrant_issues h false, ?_⟩
  rw [if_neg Bool.false_ne_true, (settled_resettled _ _).queues, hplain, part_haltRun (r := q) (by rw [updCounter, part_updPart_same]; exact hq)]
  exact ⟨rfl, rfl, rfl, congrArg WorkCounter.next hcount⟩

end

/-! ## Words that slip, reissue or wait for their verdict -/

section
variable {s : State} {k : Nat} {r : Run} {w : TileWord}

theorem mvRecv_slips (h : issueReady s k opRecv = some (r, w)) (ha : accepted s k r.nextInstr w = false) :
    ∃ t, exec (.mvRecv k) s = .next t ∧ Slipped k slipFabricLate s t ∧ t.hbm.t1 = s.hbm.t1 := by
  obtain ⟨hop, -⟩ := issueReady_facts h
  obtain ⟨hslip, ht1, -⟩ := slips_of_issueReady (u := atIssue k r w s) h (by rw [atIssue_part])
    (by rw [atIssue, setLag, updPart_hbm, moveTo_hbm]) slipFabricLate
  rw [← issuePlain_missing hop ha] at hslip ht1
  exact ⟨_, issueOther_issues h "MV.RECV", Slipped.settled (f := issuePlain k r w) hslip, by rw [settled_hbm, ht1]⟩

theorem syWait_slips (h : issueReady s k opWait = some (r, w)) (hv : syncValue s k (w.sel % 4096) < w.value) :
    ∃ t, exec (.syWait k) s = .next t ∧ Slipped k slipLotLate s t ∧ t.hbm.t1 = s.hbm.t1 := by
  obtain ⟨hslip, ht1, -⟩ := slips_of_issueReady (u := moveTo (nextIssue r) s) h (by rw [part_moveTo]) (moveTo_hbm _ _) slipLotLate
  exact ⟨_, execSyWait_slips h hv, Slipped.settled (f := fun t => slip k slipLotLate (moveTo (nextIssue r) t)) hslip,
    by rw [settled_hbm, ht1]⟩

/-- The state in which a parity error of the counter shows at the verdict of an SY.WGRANT (R140). -/
def parityShown (k : Nat) (r : Run) (w : TileWord) (s : State) : State :=
  updCounter k w.sub (fun c => { c with perr := true, next := 0 }) (moveTo (commitAc r w) s)

theorem grantParity_eq (k : Nat) (r : Run) (w : TileWord) (s : State) : grantParity k r w s =
    if r.prog.slackAc < commitAc r w - nominalAc r w.issue then slip k slipLagLimit (parityShown k r w s)
    else setLag k (commitAc r w - nominalAc r w.issue)
      (updRun k (fun x => { x with nextAt := commitAc r w, portFree := max x.portFree (commitAc r w) }) (parityShown k r w s)) := rfl

theorem parityShown_counter (k : Nat) (r : Run) (w : TileWord) (s : State) :
    ∃ c, tget WorkCounter.reset ((parityShown k r w s).part k).wcnt w.sub = c ∧ c.perr = true ∧ c.next = 0 :=
  ⟨_, tget_updCounter _ _ _ _, rfl, rfl⟩

theorem parityShown_pens (k : Nat) (r : Run) (w : TileWord) (s : State) : (parityShown k r w s).pens = s.pens := by
  rw [parityShown, updCounter, updPart_pens, moveTo_pens]

theorem syWgrant_reissues (h : issueReady s k opGrant = some (r, w)) (hlag : commitAc r w - nominalAc r w.issue ≤ r.prog.slackAc) :
    ∃ t q, exec (.syWgrant k true) s = .next t ∧ (tget WorkCounter.reset (t.part k).wcnt w.sub).perr = true
      ∧ (tget WorkCounter.reset (t.part k).wcnt w.sub).next = 0 ∧ (t.part k).lag = commitAc r w - nominalAc r w.issue
      ∧ (t.part k).run = some q ∧ q.nextInstr = r.nextInstr ∧ commitAc r w ≤ q.portFree ∧ t.pens = s.pens := by
  obtain ⟨c, hc, hperr, hnext⟩ := parityShown_counter k r w s
  have hrun : ((parityShown k r w s).part k).run = some r := by
    rw [parityShown, updCounter, part_updPart_same, part_moveTo]
    exact (issueReady_eq_some h).1
  refine ⟨_, { r with nextAt := commitAc r w, portFree := max r.portFree (commitAc r w) }, execSyWgrant_issues h true, ?_⟩
  rw [if_pos rfl, grantParity_eq, if_neg (Nat.not_lt.2 hlag), setLag, part_updPart_same, part_updRun_some hrun, hc, updPart_pens,
    updRun_pens, parityShown_pens]
  exact ⟨hperr, hnext, rfl, rfl, rfl, le_max_right _ _, rfl⟩

theorem syWgrant_slips (h : issueReady s k opGrant = some (r, w)) (hlag : r.prog.slackAc < commitAc r w - nominalAc r w.issue) :
    ∃ t, exec (.syWgrant k true) s = .next t ∧ Slipped k slipLagLimit s t
      ∧ (tget WorkCounter.reset (t.part k).wcnt w.sub).perr = true := by
  obtain ⟨c, hc, hperr, -⟩ := parityShown_counter k r w s
  obtain ⟨hslip, -, hwcnt⟩ := slips_of_issueReady (u := parityShown k r w s) h
    (by rw [parityShown, updCounter, part_updPart_same, part_moveTo]) (by rw [parityShown, updCounter, updPart_hbm, moveTo_hbm]) slipLagLimit
  refine ⟨_, execSyWgrant_issues h true, ?_⟩
  rw [if_pos rfl, grantParity_eq, if_pos hlag]
  exact ⟨hslip, by rw [hwcnt, hc, hperr]⟩

/-- Every word without arithmetic issues by one rule, an SY.WAIT only where its sync counter has come up to VALUE (R142). -/
theorem exec_plain {c : Instr × Nat}
    (hc : c ∈ [(Instr.mvLoad k, opLoad), (.mvStore k, opStore), (.mvWeight k, opWeight), (.mvSend k, opSend), (.mvRecv k, opRecv),
      (.syFold k, opFold), (.sySignal k, opSignal), (.syWait k, opWait), (.syWgrant k false, opGrant), (.tl k, opTl)])
    (h : issueReady s k c.2 = some (r, w)) (hv : c.2 = opWait → w.value ≤ syncValue s k (w.sel % 4096)) :
    exec c.1 s = .next (settled (issuePlain k r w) s) := by
  simp only [List.mem_cons, List.not_mem_nil, or_false] at hc
  rcases hc with rfl | rfl | rfl | rfl | rfl | rfl | rfl | rfl | rfl | rfl
  · exact issueOther_issues h "MV.LOAD"
  · exact issueOther_issues h "MV.STORE"
  · exact issueOther_issues h "MV.WEIGHT"
  · exact issueOther_issues h "MV.SEND"
  · exact issueOther_issues h "MV.RECV"
  · exact issueOther_issues h "SY.FOLD"
  · exact issueOther_issues h "SY.SIGNAL"
  · exact execSyWait_issues h (hv rfl)
  · exact execSyWgrant_issues h false
  · exact issueOther_issues h "TL"

/-- A word that does not commit as it issues is in flight until its verdict (R128). -/
theorem issuePlain_inFlight {op : Nat} (h : issueReady s k op = some (r, w)) (ha : op ≠ opRecv ∨ accepted s k r.nextInstr w = true)
    (hf : commitsAtOnce k r w (commitAc r w) (launch k r.nextInstr w (firstAttempt s k r w) 0 false (atIssue k r w s)) = false) :
    ∃ q x, ((settled (issuePlain k r w) s).part k).run = some q ∧ q.flight = r.flight ++ [x] ∧ x.instr = r.nextInstr
      ∧ x.issue = nextIssue r ∧ x.verdict = nextIssue r + verdictAc r.prog r.nextInstr w w.assay r.nextRound
      ∧ q.doneInstr = r.doneInstr ∧ (settled (issuePlain k r w) s).pens = s.pens ∧ (settled (issuePlain k r w) s).hbm = s.hbm := by
  obtain ⟨hop, -⟩ := issueReady_facts h
  have hi := launch_issues (w := w) (issueReady_eq_some h).1
  obtain ⟨q, hq, hrun⟩ := hi.run
  rw [settled_run, settled_pens, settled_hbm, issuePlain_eq (by rw [hop]; exact ha), if_neg (by rw [hf]; exact Bool.false_ne_true)]
  exact ⟨q, _, hq, by rw [hrun], rfl, rfl, rfl, by rw [hrun], hi.pens, hi.hbm⟩

end

/-! ## The statement -/

/-- Settles O40: with no step in flight a word's effect is followed by its commit, which leaves what the effect changed; else its step
enters the flight. A word that is late slips before it changes anything but its lag and its counter. -/
theorem plainWords : Obligations.PlainWords := by
  unfold Obligations.PlainWords
  intro s k r w
  refine ⟨fun o => ⟨mvLoad_commits o, mvStore_commits o, mvWeight_commits o, mvSend_commits o, fun h d v => mvRecv_commits o, ?fold, ?tl,
    sySignal_commits o, ?wait, ?grant⟩, mvRecv_slips, syWait_slips, fun h => ⟨syWgrant_reissues h, syWgrant_slips h⟩, ?flight⟩
  case fold =>
    intro h
    have g := effectless_commits o h (.inl rfl)
    obtain ⟨y, hy, -⟩ := (atCommit_issues (w := w) (issueReady_eq_some h).1).run
    obtain ⟨q, hq, -, hfold⟩ := g.stores y hy
    exact ⟨_, q, issueOther_issues h "SY.FOLD", g.toCommitted, hq, hfold (issueReady_facts h).1,
      g.pens.trans (atCommit_issues (issueReady_eq_some h).1).pens⟩
  case tl =>
    intro h
    have g := effectless_commits o h (.inr (.inr rfl))
    exact ⟨_, issueOther_issues h "TL", g.toCommitted, g.pens.trans (atCommit_issues (issueReady_eq_some h).1).pens⟩
  case wait =>
    intro h hv
    have g := effectless_commits o h (.inr (.inl rfl))
    exact ⟨_, execSyWait_issues h hv, g.toCommitted, g.pens.trans (atCommit_issues (issueReady_eq_some h).1).pens⟩
  case grant =>
    rintro l h rfl
    exact ⟨syWgrant_commits o h rfl, fun e => syWgrant_faults o h rfl⟩
  case flight =>
    intro hf c hc h ha hv
    obtain ⟨q, x, hq⟩ := issuePlain_inFlight h (imp_iff_not_or.1 ha) hf
    exact ⟨_, q, x, exec_plain hc h hv, hq⟩

end Sys2Proof.Machine
end

section
/-! PROOFS. Key-value sequences and their pages (R210 to R216): what an update leaves of each, the mappings that a fold over pages leaves,
the references that a release takes, and the pages of blocks. -/

namespace Sys2Proof.Machine

/-! ## Sequences and pages after an update -/

/-- The element found by a test that a list change keeps. -/
theorem find_mapIf_of_test {α : Type} {p t : α → Bool} {f : α → α} (hf : ∀ a, t (f a) = t a) (l : List α) :
    (mapIf p f l).find? t = (l.find? t).map fun a => if p a then f a else a := by
  have ht : (t ∘ fun a => if p a then f a else a) = t := by
    funext a
    simp only [Function.comp]
    split
    · exact hf a
    · rfl
  rw [mapIf, List.find?_map, ht]

theorem findSeq_eq_some {s : State} {k h : Nat} {q : KvSeq} (e : findSeq s k h = some q) : q.handle = h ∧ q.part = k := by
  simpa using List.find?_some e

theorem findPage_eq_some {s : State} {f : Nat} {g : KvPage} (e : findPage s f = some g) : g.frame = f := by
  simpa using List.find?_some e

theorem findSeq_updSeq {f : KvSeq → KvSeq} (hh : ∀ q, (f q).handle = q.handle) (hp : ∀ q, (f q).part = q.part) (k h : Nat)
    (s : State) : findSeq (updSeq h f s) k h = (findSeq s k h).map f := by
  have e := find_mapIf_of_test (p := fun q : KvSeq => q.handle == h) (t := fun q => q.handle == h && q.part == k) (f := f)
    (by simp [hh, hp]) s.place.seqs
  rw [findSeq, updSeq, updPlace_place, e]
  exact Option.map_congr fun q hq => if_pos (beq_iff_eq.2 (findSeq_eq_some hq).1)

theorem findPage_updPage {g : KvPage → KvPage} (hg : ∀ x, (g x).frame = x.frame) (f i : Nat) (s : State) :
    findPage (updPage i g s) f = (findPage s f).map fun x => if f = i then g x else x := by
  have e := find_mapIf_of_test (p := fun x : KvPage => x.frame == i) (t := fun x => x.frame == f) (f := g) (by simp [hg]) s.place.pages
  rw [findPage, updPage, updPlace_place, e]
  exact Option.map_congr fun x hx => by rw [findPage_eq_some hx]; simp only [beq_iff_eq]

theorem findPage_returnPage_other {f i : Nat} (h : f ≠ i) (s : State) : findPage (returnPage i s) f = findPage s f := by
  rw [findPage, returnPage, updPlace_place, List.find?_filter]
  exact congrArg (List.find? · _) (funext fun x => by by_cases hx : x.frame = f <;> simp [hx, h])

theorem noteChange_place (k : Nat) (c : MapChange) (s : State) : (noteChange k c s).place = s.place := by
  unfold noteChange
  split <;> rfl

theorem findPage_noteChange (k : Nat) (c : MapChange) (s : State) (f : Nat) : findPage (noteChange k c s) f = findPage s f := by
  rw [findPage, noteChange_place, findPage]

theorem unrefPage_seqs (k f : Nat) (a : Option (Nat × Nat)) (s : State) : (unrefPage k f a s).place.seqs = s.place.seqs := by
  have hnote : ∀ g, (noteChange k ⟨some f, a⟩ (updPage f g s)).place.seqs = s.place.seqs := fun g => by rw [noteChange_place]; rfl
  unfold unrefPage
  split
  · rfl
  · dsimp only
    split
    · exact hnote _
    · exact hnote _

/-! ## The mappings of a sequence -/

/-- Sequence h of partition k has the mappings F, by page. -/
def MapsAs (k h : Nat) (F : Nat → Option KvMap) (s : State) : Prop := ∃ q, findSeq s k h = some q ∧ seqMap q = F

theorem MapsAs.of_found {s : State} {k h : Nat} {q : KvSeq} (e : findSeq s k h = some q) : MapsAs k h (seqMap q) s := ⟨q, e, rfl⟩

theorem MapsAs.of_seqs {s t : State} {k h : Nat} {F : Nat → Option KvMap} (hs : MapsAs k h F s) (e : t.place.seqs = s.place.seqs) :
    MapsAs k h F t := by
  obtain ⟨q, hq, hF⟩ := hs
  exact ⟨q, by rw [findSeq, e]; exact hq, hF⟩

theorem seqMap_tset (q : KvSeq) (j : Nat) (m : Option KvMap) :
    seqMap { q with maps := tset none q.maps j m } = Function.update (seqMap q) j m :=
  funext fun i => by rw [Function.update_apply]; exact tget_tset none m q.maps j i

section
variable {s : State} {k h : Nat} {F : Nat → Option KvMap} (hs : MapsAs k h F s)
include hs

/-- A mapping that is changed according to what it is. -/
theorem MapsAs.update (v : Option KvMap → Option KvMap) (j : Nat) : MapsAs k h (Function.update F j (v (F j)))
    (updSeq h (fun q => { q with maps := tset none q.maps j (v (seqMap q j)) }) s) := by
  obtain ⟨q, hq, rfl⟩ := hs
  have e := findSeq_updSeq (f := fun q => { q with maps := tset none q.maps j (v (seqMap q j)) }) (fun _ => rfl) (fun _ => rfl) k h s
  exact ⟨_, by rw [e, hq]; rfl, seqMap_tset q j _⟩

theorem MapsAs.set (j : Nat) (m : Option KvMap) : MapsAs k h (Function.update F j m) (setSeqMap h j m s) := hs.update (fun _ => m) j

theorem releasePage_unmapped {j : Nat} (hj : F j = none) : releasePage k h j s = s := by
  obtain ⟨q, hq, rfl⟩ := hs
  simp only [releasePage, hq, hj]

theorem releasePage_dropped {j : Nat} {m : KvMap} (hj : F j = some m) (hm : m.dropped = true) :
    releasePage k h j s = setSeqMap h j none s := by
  obtain ⟨q, hq, rfl⟩ := hs
  simp only [releasePage, hq, hj, hm, if_true]

theorem releasePage_live {j : Nat} {m : KvMap} (hj : F j = some m) (hm : m.dropped = false) :
    ∃ a, releasePage k h j s = unrefPage k m.frame a (setSeqMap h j none s) := by
  obtain ⟨q, hq, rfl⟩ := hs
  exact ⟨some (q.ctx, q.base / 65536 + j), by simp only [releasePage, hq, hj, hm, Bool.false_eq_true, if_false]⟩

/-- A released page is unmapped, whether it was present, dropped or unmapped (R214). -/
theorem MapsAs.release (j : Nat) : MapsAs k h (Function.update F j none) (releasePage k h j s) := by
  cases hj : F j with
  | none =>
    rw [releasePage_unmapped hs hj, ← hj, Function.update_eq_self]
    exact hs
  | some m =>
    cases hm : m.dropped with
    | true =>
      rw [releasePage_dropped hs hj hm]
      exact hs.set j none
    | false =>
      obtain ⟨a, e⟩ := releasePage_live hs hj hm
      rw [e]
      exact (hs.set j none).of_seqs (unrefPage_seqs _ _ _ _)

/-- A fold that changes one mapping with each element, no mapping twice: which mappings it leaves. -/
theorem MapsAs.fold {α : Type} {f : α → State → State} (key : α → Nat) (v : α → Option KvMap → Option KvMap)
    (hf : ∀ a G u, MapsAs k h G u → MapsAs k h (Function.update G (key a) (v a (G (key a)))) (f a u)) {l : List α}
    (hd : (l.map key).Nodup) :
    ∃ x, findSeq (forAll l f s) k h = some x ∧ (∀ a ∈ l, seqMap x (key a) = v a (F (key a)))
      ∧ ∀ j, j ∉ l.map key → seqMap x j = F j := by
  induction l generalizing s F with
  | nil =>
    obtain ⟨q, hq, rfl⟩ := hs
    exact ⟨q, hq, by simp, fun _ _ => rfl⟩
  | cons a l ih =>
    obtain ⟨ha, hd⟩ := List.nodup_cons.1 hd
    obtain ⟨x, hx, hin, hout⟩ := ih (hf a F s hs) hd
    refine ⟨x, hx, fun b hb => ?_, fun j hj => ?_⟩
    · rcases List.mem_cons.1 hb with rfl | hb
      · rw [hout _ ha, Function.update_self]
      · have hne : key b ≠ key a := fun e => ha (by rw [← e]; exact List.mem_map_of_mem hb)
        rw [hin b hb, Function.update_of_ne hne]
    · obtain ⟨hja, hj⟩ : ¬j = key a ∧ j ∉ l.map key := by simpa using hj
      rw [hout j hj, Function.update_of_ne hja]

end

/-! ## References to pages -/

/-- REFS of the page in a frame (R211). -/
def pageRefs (s : State) (f : Nat) : Option Nat := (findPage s f).map (·.refs)

/-- Taking a reference off a page leaves every page that keeps one in its frame (R214, R216). -/
theorem pageRefs_unrefPage {s : State} {f n i : Nat} (hr : pageRefs s f = some n) (hn : f = i → 1 < n) (k : Nat)
    (a : Option (Nat × Nat)) : pageRefs (unrefPage k i a s) f = some (if f = i then n - 1 else n) := by
  obtain ⟨g, hg, rfl⟩ := Option.map_eq_some_iff.1 hr
  have hdec : pageRefs (noteChange k ⟨some i, a⟩ (updPage i (fun g => { g with refs := g.refs - 1 }) s)) f =
      some (if f = i then g.refs - 1 else g.refs) := by
    rw [pageRefs, findPage_noteChange, findPage_updPage (g := fun g => { g with refs := g.refs - 1 }) fun _ => rfl, hg]
    split <;> rfl
  unfold unrefPage
  split
  case h_1 hi =>
    have hfi : f ≠ i := fun e => by rw [e, hi] at hg; cases hg
    rw [hr, if_neg hfi]
  case h_2 x hx =>
    dsimp only
    split
    case isTrue hlast =>
      have hfi : f ≠ i := fun e => by
        subst e
        obtain rfl : g = x := Option.some.inj (hg.symm.trans hx)
        have := hn rfl
        simp only [Bool.and_eq_true, decide_eq_true_eq] at hlast
        omega
      rw [pageRefs, findPage_returnPage_other hfi, findPage_updPage (g := fun g => { g with freeEpoch := (s.part k).epoch }) fun _ => rfl]
      simp only [if_neg hfi, Option.map_id'] at hdec ⊢
      exact hdec
    case isFalse => exact hdec

/-- The frames that the present mappings of pages name. -/
def liveFrames (F : Nat → Option KvMap) (l : List Nat) : List Nat :=
  l.filterMap fun j => (F j).bind fun m => if m.dropped then none else some m.frame

theorem liveFrames_cons (F : Nat → Option KvMap) (j : Nat) (l : List Nat) : liveFrames F (j :: l) = liveFrames F [j] ++ liveFrames F l :=
  List.filterMap_append (l := [j])

theorem liveFrames_update {F : Nat → Option KvMap} {j : Nat} {l : List Nat} (h : j ∉ l) (m : Option KvMap) :
    liveFrames (Function.update F j m) l = liveFrames F l :=
  List.filterMap_congr fun i hi => by rw [Function.update_of_ne (ne_of_mem_of_not_mem hi h)]

theorem pageRefs_releasePage {s : State} {k h j f n : Nat} {F : Nat → Option KvMap} (hs : MapsAs k h F s) (hr : pageRefs s f = some n)
    (hn : (liveFrames F [j]).count f < n) : pageRefs (releasePage k h j s) f = some (n - (liveFrames F [j]).count f) := by
  cases hj : F j with
  | none =>
    rw [releasePage_unmapped hs hj, hr]
    simp [liveFrames, hj]
  | some m =>
    cases hm : m.dropped with
    | true =>
      rw [releasePage_dropped hs hj hm]
      refine hr.trans ?_
      simp [liveFrames, hj, hm]
    | false =>
      obtain ⟨a, e⟩ := releasePage_live hs hj hm
      have hlive : liveFrames F [j] = [m.frame] := by simp [liveFrames, hj, hm]
      have hset : pageRefs (setSeqMap h j none s) f = some n := hr
      rw [hlive] at hn ⊢
      rw [e, pageRefs_unrefPage hset fun hf => by rwa [hf, List.count_singleton_self] at hn]
      by_cases hf : f = m.frame
      · rw [if_pos hf, hf, List.count_singleton_self]
      · rw [if_neg hf, List.count_eq_zero_of_not_mem (by simpa using hf), Nat.sub_zero]

/-- Releasing pages takes off each page the references of its present mappings, where they are not its last (R214). -/
theorem pageRefs_released {k h f : Nat} {l : List Nat} (hd : l.Nodup) {s : State} {F : Nat → Option KvMap} {n : Nat} (hs : MapsAs k h F s)
    (hr : pageRefs s f = some n) (hn : (liveFrames F l).count f < n) :
    pageRefs (forAll l (fun j => releasePage k h j) s) f = some (n - (liveFrames F l).count f) := by
  induction l generalizing s F n with
  | nil => exact hr
  | cons j l ih =>
    obtain ⟨hj, hd⟩ := List.nodup_cons.1 hd
    rw [liveFrames_cons, List.count_append] at hn ⊢
    have hstep := pageRefs_releasePage (j := j) hs hr (by omega)
    rw [forAll_cons, ih hd (hs.release j) hstep (by rw [liveFrames_update hj]; omega), liveFrames_update hj, Nat.sub_sub]

/-! ## The pages of blocks -/

/-- No page index stands twice: the blocks of a head end where those of the next begin. -/
theorem blockPages_nodup {q : KvSeq} {first count : Nat} (h : first + count ≤ q.nb) : (blockPages q first count).Nodup := by
  refine List.nodup_flatMap.2 ⟨fun i _ => List.nodup_range.map (add_right_injective _), List.pairwise_lt_range.imp fun {i j} hij => ?_⟩
  intro x hi hj
  obtain ⟨a, ha, rfl⟩ := List.mem_map.1 hi
  obtain ⟨b, -, hb⟩ := List.mem_map.1 hj
  rw [List.mem_range] at ha
  have hhead : i * q.nb + first + count ≤ j * q.nb + first :=
    calc i * q.nb + first + count ≤ (i + 1) * q.nb := by rw [Nat.add_one_mul]; omega
      _ ≤ j * q.nb := Nat.mul_le_mul_right _ hij
      _ ≤ j * q.nb + first := Nat.le_add_right _ _
  have hpage := Nat.mul_le_mul_right (pagesPerBlock q.format) hhead
  rw [Nat.add_mul] at hpage
  omega

theorem blockPages_length (q : KvSeq) (first count : Nat) :
    (blockPages q first count).length = q.heads * (count * pagesPerBlock q.format) := by
  simp [blockPages]

end Sys2Proof.Machine
end

section
/-! PROOFS. The key-value commands (R210, R212, R214, R219, R222 to R224): the effect of each after its checks, and what it leaves. -/

namespace Sys2Proof.Machine

/-! ## The state at the sampling and after the completion -/

@[simp] theorem findSeq_finish (p : Post) (st : Nat) (r : List Byte) (u : State) (k h : Nat) :
    findSeq (finish p st r u) k h = findSeq u k h := by rw [findSeq, finish_place, findSeq]

@[simp] theorem findPage_finish (p : Post) (st : Nat) (r : List Byte) (u : State) (f : Nat) :
    findPage (finish p st r u) f = findPage u f := by rw [findPage, finish_place, findPage]

/-- What a command that works on sequences and pages alone leaves. -/
theorem Repaged.finished {p : Post} {k : Nat} {s u : State} (h : Repaged k (taken p s) u) (st : Nat) (r : List Byte) :
    Completed p st r s (finish p st r u) ∧ (finish p st r u).hbm = s.hbm ∧ (finish p st r u).pens = s.pens
      ∧ (finish p st r u).ctxs = s.ctxs := by
  rw [h.same]
  exact ⟨finish_completed rfl, finish_hbm _ _ _ _, finish_pens _ _ _ _, finish_ctxs _ _ _ _⟩

@[simp] theorem findSeq_taken (p : Post) (s : State) (k h : Nat) : findSeq (taken p s) k h = findSeq s k h := rfl
@[simp] theorem findPage_taken (p : Post) (s : State) (f : Nat) : findPage (taken p s) f = findPage s f := rfl
@[simp] theorem rangeMapped_taken (p : Post) (s : State) (c a n : Nat) : rangeMapped (taken p s) c a n = rangeMapped s c a n := rfl

/-! ## Where each command runs -/

theorem exec_kvCreate (p : Post) (ctx heads format base maxPos : Nat) (s : State) :
    exec (.kvCreate p ctx heads format base maxPos) s =
      .next (mailbox p rowKvCreate 3 (kvCreateBody p ctx heads format base maxPos) s) := rfl

theorem exec_kvShare (p : Post) (seq first count flags src : Nat) (s : State) :
    exec (.kvShare p seq first count flags src) s = .next (mailbox p rowKvShare 3 (kvShareBody p seq first count flags src) s) := rfl

theorem exec_kvRelease (p : Post) (seq first count flags src : Nat) (s : State) :
    exec (.kvRelease p seq first count flags src) s = .next (mailbox p rowKvRelease 3 (kvReleaseBody p seq first count flags src) s) := rfl

theorem exec_kvMark (p : Post) (seq first count flags src : Nat) (s : State) :
    exec (.kvMark p seq first count flags src) s = .next (mailbox p rowKvMark 3 (kvMarkBody p seq first count flags src) s) := rfl

theorem exec_kvQuery (p : Post) (seq firstEntry : Nat) (s : State) :
    exec (.kvQuery p seq firstEntry) s = .next (mailbox p rowKvQuery 1 (kvQueryBody p seq firstEntry) s) := rfl

/-! ## KV.CREATE (R210, R222) -/

/-- KV.CREATE whose operands are in range and whose addresses are free (R210, R222). -/
theorem kvCreateBody_done {p : Post} {ctx heads format base maxPos : Nat} {c : Ctx} {s : State} (hctx : checkCtx p ctx s = .ok c)
    (hh : 1 ≤ heads) (hh' : heads ≤ 256) (hf : kvFormat format = true) (hb : base % 65536 = 0) (hm : 1 ≤ maxPos)
    (hm' : maxPos ≤ 2 ^ 32 - 256) (hsize : base + heads * ceilDiv maxPos 256 * pagesPerBlock format * kvPageBytes ≤ 2 ^ 48)
    (hfree : rangeMapped s ctx base (heads * ceilDiv maxPos 256 * pagesPerBlock format * kvPageBytes) = false)
    (hn : (s.place.seqs.filter fun q => q.part == postTarget p).length < 65536) :
    kvCreateBody p ctx heads format base maxPos (taken p s) =
      .done stOk (leBytes 4 s.place.nextSeq ++ leBytes 4 (ceilDiv maxPos 256)) (updPlace (fun q => { q with
        nextSeq := s.place.nextSeq + 1
        seqs := q.seqs ++ [⟨s.place.nextSeq, ctx, postTarget p, heads, format, base, ceilDiv maxPos 256, []⟩] }) (taken p s)) := by
  rw [kvCreateBody, withCtx_ok hctx]
  dsimp only
  rw [if_neg (by simp [hf, hb]; omega), rangeMapped_taken, hfree, if_neg Bool.false_ne_true, taken_place, if_neg (by omega)]

/-! ## KV.SHARE (R212) -/

theorem MapsAs.share {s : State} {k h : Nat} {F : Nat → Option KvMap} (hs : MapsAs k h F s) {d : KvSeq} (hd : d.handle = h) (j : Nat)
    (m : KvMap) : MapsAs k h (Function.update F j (some ⟨m.frame, false, false, false, false⟩)) (sharePage k d j m s) := by
  subst hd
  exact (hs.set j _).of_seqs rfl

theorem findPage_sharePage (k : Nat) (d : KvSeq) (j : Nat) (m : KvMap) (s : State) (f : Nat) :
    findPage (sharePage k d j m s) f = (findPage s f).map fun g => if f = m.frame then { g with refs := g.refs + 1 } else g :=
  findPage_updPage (g := fun g => { g with refs := g.refs + 1 }) (fun _ => rfl) f m.frame _

theorem findPage_shared (k : Nat) (d : KvSeq) (f : Nat) (l : List (Nat × Nat × KvMap)) (s : State) :
    findPage (forAll l (fun e => sharePage k d e.1 e.2.2) s) f =
      (findPage s f).map fun g => { g with refs := g.refs + l.countP fun e => e.2.2.frame == f } := by
  induction l generalizing s with
  | nil => simp
  | cons e l ih =>
    rw [forAll_cons, ih, findPage_sharePage, Option.map_map]
    refine congrArg (Option.map · _) (funext fun g => ?_)
    by_cases hf : f = e.2.2.frame
    · simp [hf, Nat.add_assoc, Nat.add_comm]
    · simp [hf, Ne.symm hf]

theorem repaged_endOld (k c a : Nat) (s : State) : Repaged k s (endOld k c a s) :=
  ⟨rfl, by unfold endOld; rw [part_updPart_same]⟩

theorem repaged_sharePage (k : Nat) (d : KvSeq) (j : Nat) (m : KvMap) (s : State) : Repaged k s (sharePage k d j m s) :=
  ((repaged_setSeqMap k d.handle j _ s).trans (repaged_updPlace k _ _)).trans (repaged_endOld k _ _ _)

/-- KV.SHARE passes its checks but for that of REFS (R212). -/
structure Shares (p : Post) (seq src first count : Nat) (d o : KvSeq) (m : List (Nat × KvMap)) (s : State) : Prop where
  dst : findSeq s (postTarget p) seq = some d
  source : findSeq s (postTarget p) src = some o
  someBlock : 1 ≤ count
  heads : d.heads = o.heads
  format : d.format = o.format
  inSource : first + count ≤ o.nb
  inDst : first + count ≤ d.nb
  free : (blockPages d first count).all (destFree d) = true
  maps : m = sharedMaps o (blockPages o first count)
  present : m.length = (blockPages o first count).length
  idle : inBatch s (postTarget p) seq = false
  unwritten : ∀ e ∈ m, inWriteSet s (postTarget p) e.2.frame = false

section
variable {p : Post} {seq src first count : Nat} {d o : KvSeq} {m : List (Nat × KvMap)} {s : State}
  (h : Shares p seq src first count d o m s)
include h

theorem Shares.taken : Shares p seq src first count d o m (taken p s) :=
  ⟨h.dst, h.source, h.someBlock, h.heads, h.format, h.inSource, h.inDst, h.free, h.maps, h.present, h.idle, h.unwritten⟩

theorem Shares.inRange : ¬(count = 0 || (0 : Nat) != 0 || d.heads != o.heads || d.format != o.format || decide (o.nb < first + count)
    || decide (d.nb < first + count)) = true := by
  have h1 := h.someBlock
  have h2 := h.inSource
  have h3 := h.inDst
  simp [h.heads, h.format]
  omega

theorem Shares.allowed : ¬(!(blockPages d first count).all (destFree d) || m.length != (blockPages o first count).length
    || inBatch s (postTarget p) seq || m.any fun e => inWriteSet s (postTarget p) e.2.frame) = true := by
  have hw : (m.any fun e => inWriteSet s (postTarget p) e.2.frame) = false := by
    rw [List.any_eq_false]
    exact fun e he => by rw [h.unwritten e he]; exact Bool.false_ne_true
  simp only [h.free, h.present, h.idle, hw, bne_self_eq_false]
  decide

/-- A page with as many references as REFS can count (R212). -/
theorem Shares.limited (hl : ∃ e ∈ m, ∃ g, findPage s e.2.frame = some g ∧ 65535 ≤ g.refs) :
    kvShareBody p seq first count 0 src s = .done stShareLimit [] s := by
  obtain ⟨e, he, g, hg, hr⟩ := hl
  simp only [kvShareBody, h.dst, h.source, ← h.maps]
  rw [if_neg h.inRange, if_neg h.allowed, if_pos]
  exact List.any_eq_true.2 ⟨e, he, by simp [hg, hr]⟩

theorem Shares.done (hl : ∀ e ∈ m, ∀ g, findPage s e.2.frame = some g → g.refs < 65535) :
    kvShareBody p seq first count 0 src s = .done stOk (leBytes 4 (blockPages o first count).length ++ zeros 4)
      (forAll ((blockPages d first count).zip m) (fun e => sharePage (postTarget p) d e.1 e.2.2) s) := by
  simp only [kvShareBody, h.dst, h.source, ← h.maps]
  rw [if_neg h.inRange, if_neg h.allowed, if_neg]
  rw [Bool.not_eq_true, List.any_eq_false]
  intro e he
  cases hg : findPage s e.2.frame with
  | none => simp
  | some g => simp [hl e he g hg]

theorem Shares.lengths : (blockPages d first count).length = m.length := by
  rw [h.present, blockPages_length, blockPages_length, h.heads, h.format]

end

theorem kvShare_shares {p : Post} {seq src first count : Nat} {d o : KvSeq} {m : List (Nat × KvMap)} {s : State}
    (hp : Posts p rowKvShare 3 s) (h : Shares p seq src first count d o m s)
    (hl : ∀ e ∈ m, ∀ g, findPage s e.2.frame = some g → g.refs < 65535) :
    ∃ t x, exec (.kvShare p seq first count 0 src) s = .next t
      ∧ Completed p stOk (leBytes 4 (blockPages o first count).length ++ zeros 4) s t ∧ findSeq t (postTarget p) seq = some x
      ∧ (∀ e ∈ (blockPages d first count).zip m, seqMap x e.1 = some ⟨e.2.2.frame, false, false, false, false⟩)
      ∧ (∀ j, j ∉ blockPages d first count → seqMap x j = seqMap d j)
      ∧ (∀ f g, findPage s f = some g → ∃ u, findPage t f = some u
          ∧ u = { g with refs := g.refs + (m.filter fun e => e.2.frame == f).length })
      ∧ t.hbm = s.hbm ∧ t.pens = s.pens ∧ t.ctxs = s.ctxs := by
  have hkeys := List.map_fst_zip h.lengths.le
  have hmaps := List.map_snd_zip h.lengths.ge
  obtain ⟨x, hx, hin, hout⟩ := (MapsAs.of_found (s := taken p s) h.dst).fold
    (f := fun (e : Nat × Nat × KvMap) => sharePage (postTarget p) d e.1 e.2.2) Prod.fst
    (fun e _ => some ⟨e.2.2.frame, false, false, false, false⟩) (fun e G u hu => hu.share (findSeq_eq_some h.dst).1 e.1 e.2.2)
    (l := (blockPages d first count).zip m) (by rw [hkeys]; exact blockPages_nodup h.inDst)
  have hframe := repaged_forAll (k := postTarget p) (fun (e : Nat × Nat × KvMap) => repaged_sharePage (postTarget p) d e.1 e.2.2)
    ((blockPages d first count).zip m) (taken p s)
  obtain ⟨hdone, hhbm, hpens, hctxs⟩ := hframe.finished stOk (leBytes 4 (blockPages o first count).length ++ zeros 4)
  refine ⟨_, x, (exec_kvShare ..).trans (congrArg _ (mailbox_finish hp (h.taken.done hl))), hdone, (findSeq_finish ..).trans hx, hin,
    hkeys ▸ hout, ?refs, hhbm, hpens, hctxs⟩
  case refs =>
    intro f g hg
    refine ⟨_, by rw [findPage_finish, findPage_shared, findPage_taken, hg, Option.map_some], ?_⟩
    rw [← List.countP_eq_length_filter]
    conv_rhs => rw [← hmaps, List.countP_map]
    rfl

/-! ## KV.RELEASE (R214, R223) -/

/-- The state in which KV.RELEASE has released pages of a sequence, and deleted it on DESTROY (R214). -/
def releasedState (k seq : Nat) (destroy : Bool) (l : List Nat) (s : State) : State :=
  if destroy then deleteSeq seq (forAll l (fun j => releasePage k seq j) s) else forAll l (fun j => releasePage k seq j) s

/-- KV.RELEASE of blocks, or of the sequence on DESTROY (R214, R223): it reports the present pages and, of their frames, those that wait
for their return. -/
theorem kvReleaseBody_done {p : Post} {seq first count : Nat} {q : KvSeq} {s : State} (destroy : Bool) {l : List Nat}
    (hq : findSeq s (postTarget p) seq = some q) (hl : l = if destroy then q.maps.map (·.1) else blockPages q first count)
    (hr : destroy = false → 1 ≤ count ∧ first + count ≤ q.nb) (hb : inBatch s (postTarget p) seq = false)
    (hrefs : ∀ f ∈ liveFrames (seqMap q) l, ∀ g, findPage s f = some g → g.refs ≠ 0) :
    ∃ n ≤ (liveFrames (seqMap q) l).length, kvReleaseBody p seq first count (boolNat destroy) 0 s =
      .done stOk (leBytes 4 (liveFrames (seqMap q) l).length ++ leBytes 4 n) (releasedState (postTarget p) seq destroy l s) := by
  have hflag : (boolNat destroy % 2 == 1) = destroy := by cases destroy <;> rfl
  have hargs : ¬((decide (count = 0) && !destroy) || decide (1 < boolNat destroy) || (0 : Nat) != 0
      || (!destroy && decide (q.nb < first + count))) = true := by
    cases destroy with
    | true => simp [boolNat]
    | false =>
      obtain ⟨h1, h2⟩ := hr rfl
      simp [boolNat]
      omega
  have hlive : ¬((liveFrames (seqMap q) l).any fun f => (findPage s f).any fun g => g.refs == 0) = true := by
    simp only [List.any_eq_true, Option.any_eq_true, beq_iff_eq, not_exists, not_and]
    exact fun f hf g hg => hrefs f hf g hg
  subst hl
  simp only [kvReleaseBody, hq, hflag]
  rw [if_neg hargs, hb, if_neg Bool.false_ne_true]
  refine ⟨_, ?_, if_neg hlive⟩
  exact (List.length_filter_le _ _).trans (List.dedup_sublist _).length_le

theorem repaged_released (k seq : Nat) (destroy : Bool) (l : List Nat) (s : State) : Repaged k s (releasedState k seq destroy l s) := by
  have h := repaged_forAll (k := k) (fun j => repaged_releasePage k seq j) l s
  unfold releasedState
  split
  · exact h.trans (repaged_updPlace k _ _)
  · exact h

theorem kvRelease_destroys {p : Post} {seq first count : Nat} {q : KvSeq} {s : State} (hp : Posts p rowKvRelease 3 s)
    (hq : findSeq s (postTarget p) seq = some q) (hd : (q.maps.map (·.1)).Nodup) (hb : inBatch s (postTarget p) seq = false)
    {live : List Nat} (hlive : live = liveFrames (seqMap q) (q.maps.map (·.1)))
    (hrefs : ∀ f ∈ live, ∀ g, findPage s f = some g → g.refs ≠ 0) :
    ∃ t n, exec (.kvRelease p seq first count 1 0) s = .next t ∧ Completed p stOk (leBytes 4 live.length ++ leBytes 4 n) s t
      ∧ (∀ r ∈ t.place.seqs, r.handle ≠ seq) ∧ n ≤ live.length
      ∧ (∀ f g, findPage s f = some g → (live.filter (· == f)).length < g.refs →
          ∃ u, findPage t f = some u ∧ u.refs = g.refs - (live.filter (· == f)).length)
      ∧ t.hbm = s.hbm ∧ t.pens = s.pens ∧ t.ctxs = s.ctxs := by
  subst hlive
  obtain ⟨n, hn, hbody⟩ := kvReleaseBody_done (s := taken p s) (first := first) (count := count) true hq rfl
    (fun h => nomatch h) hb hrefs
  obtain ⟨hdone, hhbm, hpens, hctxs⟩ := (repaged_released (postTarget p) seq true (q.maps.map (·.1)) (taken p s)).finished stOk
    (leBytes 4 (liveFrames (seqMap q) (q.maps.map (·.1))).length ++ leBytes 4 n)
  refine ⟨_, n, (exec_kvRelease ..).trans (congrArg _ (mailbox_finish hp hbody)), hdone, ?gone, hn, ?refs, hhbm, hpens, hctxs⟩
  case gone =>
    intro r hr
    rw [finish_place] at hr
    simpa using (List.mem_filter.1 hr).2
  case refs =>
    intro f g hg hlt
    rw [← List.count_eq_length_filter] at hlt ⊢
    have h := pageRefs_released hd (MapsAs.of_found (s := taken p s) hq) (by rw [pageRefs, findPage_taken, hg, Option.map_some]) hlt
    rw [findPage_finish]
    exact Option.map_eq_some_iff.1 h

theorem kvRelease_unmaps {p : Post} {seq first count : Nat} {q : KvSeq} {s : State} (hp : Posts p rowKvRelease 3 s)
    (hq : findSeq s (postTarget p) seq = some q) (hc : 1 ≤ count) (hr : first + count ≤ q.nb)
    (hb : inBatch s (postTarget p) seq = false) {live : List Nat} (hlive : live = liveFrames (seqMap q) (blockPages q first count))
    (hrefs : ∀ f ∈ live, ∀ g, findPage s f = some g → g.refs ≠ 0) :
    ∃ t n x, exec (.kvRelease p seq first count 0 0) s = .next t ∧ Completed p stOk (leBytes 4 live.length ++ leBytes 4 n) s t
      ∧ n ≤ live.length ∧ findSeq t (postTarget p) seq = some x
      ∧ (∀ j ∈ blockPages q first count, seqMap x j = none) ∧ (∀ j, j ∉ blockPages q first count → seqMap x j = seqMap q j)
      ∧ t.hbm = s.hbm ∧ t.pens = s.pens ∧ t.ctxs = s.ctxs := by
  subst hlive
  obtain ⟨n, hn, hbody⟩ := kvReleaseBody_done (s := taken p s) false hq rfl (fun _ => ⟨hc, hr⟩) hb hrefs
  obtain ⟨hdone, hhbm, hpens, hctxs⟩ := (repaged_released (postTarget p) seq false (blockPages q first count) (taken p s)).finished stOk
    (leBytes 4 (liveFrames (seqMap q) (blockPages q first count)).length ++ leBytes 4 n)
  obtain ⟨x, hx, hin, hout⟩ := (MapsAs.of_found (s := taken p s) hq).fold (f := fun j => releasePage (postTarget p) seq j) (fun j => j)
    (fun _ _ => none) (fun j G u hu => hu.release j) (l := blockPages q first count) (by rw [List.map_id']; exact blockPages_nodup hr)
  rw [List.map_id'] at hout
  exact ⟨_, n, x, (exec_kvRelease ..).trans (congrArg _ (mailbox_finish hp hbody)), hdone, hn, (findSeq_finish ..).trans hx, hin, hout,
    hhbm, hpens, hctxs⟩

/-! ## KV.MARK (R219) -/

/-- A present mapping takes the droppable mark that KV.MARK gives (R219). -/
def marked (b : Bool) (m : KvMap) : KvMap := if m.dropped then m else { m with droppable := b }

/-- KV.MARK of one page of a sequence (R219). -/
def markPage (seq : Nat) (b : Bool) (j : Nat) : State → State :=
  updSeq seq fun x => { x with maps := tset none x.maps j ((seqMap x j).map (marked b)) }

theorem repaged_markPage (k seq : Nat) (b : Bool) (j : Nat) (s : State) : Repaged k s (markPage seq b j s) := ⟨rfl, rfl⟩

theorem kvMarkBody_done {p : Post} {seq first count flags : Nat} {q : KvSeq} {s : State} (hq : findSeq s (postTarget p) seq = some q)
    (hc : 1 ≤ count) (hf : flags ≤ 1) (hr : first + count ≤ q.nb) : kvMarkBody p seq first count flags 0 s =
      .done stOk [] (forAll (blockPages q first count) (markPage seq (flags == 1)) s) := by
  simp only [kvMarkBody, hq]
  rw [if_neg (by simp; omega)]
  rfl

theorem kvMark_marks {p : Post} {seq first count flags : Nat} {q : KvSeq} {s : State} (hp : Posts p rowKvMark 3 s)
    (hq : findSeq s (postTarget p) seq = some q) (hc : 1 ≤ count) (hf : flags ≤ 1) (hr : first + count ≤ q.nb) :
    ∃ t x, exec (.kvMark p seq first count flags 0) s = .next t ∧ Completed p stOk [] s t ∧ findSeq t (postTarget p) seq = some x
      ∧ (∀ j ∈ blockPages q first count, seqMap x j = (seqMap q j).map (marked (flags == 1)))
      ∧ (∀ j, j ∉ blockPages q first count → seqMap x j = seqMap q j)
      ∧ t.place.pages = s.place.pages ∧ t.hbm = s.hbm ∧ t.pens = s.pens ∧ t.ctxs = s.ctxs := by
  obtain ⟨hdone, hhbm, hpens, hctxs⟩ := (repaged_forAll (repaged_markPage (postTarget p) seq (flags == 1)) (blockPages q first count)
    (taken p s)).finished stOk []
  obtain ⟨x, hx, hin, hout⟩ := (MapsAs.of_found (s := taken p s) hq).fold (f := markPage seq (flags == 1)) (fun j => j)
    (fun _ m => m.map (marked (flags == 1))) (fun j G u hu => hu.update (Option.map (marked (flags == 1))) j)
    (l := blockPages q first count) (by rw [List.map_id']; exact blockPages_nodup hr)
  rw [List.map_id'] at hout
  have hbody := kvMarkBody_done (s := taken p s) hq hc hf hr
  have hpages := forAll_fixed (fun u : State => u.place.pages) (f := markPage seq (flags == 1)) (fun _ _ => rfl) (blockPages q first count)
    (taken p s)
  exact ⟨_, x, (exec_kvMark ..).trans (congrArg _ (mailbox_finish hp hbody)), hdone, (findSeq_finish ..).trans hx, hin, hout,
    by rw [finish_place]; exact hpages, hhbm, hpens, hctxs⟩

/-! ## KV.QUERY (R224) -/

/-- The free and the droppable pages of a partition, as KV.QUERY reports them. -/
def pageCounts (s : State) (k : Nat) : List Byte :=
  leBytes 4 (freePages s k) ++ leBytes 4 (s.place.pages.filter fun g => g.part == k && g.refs != 0 && pageDroppable s g.frame).length

theorem kvQueryBody_all (p : Post) (firstEntry : Nat) (s : State) :
    kvQueryBody p 0xFFFF_FFFF firstEntry (taken p s) = .done stOk (pageCounts s (postTarget p) ++ zeros 16) (taken p s) := by
  unfold kvQueryBody
  rw [if_pos rfl]
  rfl

theorem kvQueryBody_seq {p : Post} {seq firstEntry : Nat} {q : KvSeq} {s : State} {l : List (Nat × Nat)} (hn : seq ≠ 0xFFFF_FFFF)
    (hq : findSeq s (postTarget p) seq = some q) (hl : l = ((droppedBlocks q).drop firstEntry).take 250) :
    kvQueryBody p seq firstEntry (taken p s) =
      .done stOk (pageCounts s (postTarget p) ++ leBytes 4 (q.maps.filter fun e => e.2.any fun m => !m.dropped).length
        ++ leBytes 4 (q.maps.filter fun e => e.2.any fun m => m.dropped).length ++ leBytes 4 l.length ++ zeros 4
        ++ l.flatMap (fun b => leBytes 4 seq ++ leBytes 4 b.1 ++ leBytes 8 b.2)) (taken p s) := by
  have hlive : (q.maps.filter fun e => e.2.any fun m => !m.dropped) = q.maps.filter fun e => match e.2 with
      | some m => m.dropped == false
      | none => false := List.filter_congr fun e _ => by cases e.2 <;> simp
  have hdropped : (q.maps.filter fun e => e.2.any fun m => m.dropped) = q.maps.filter fun e => match e.2 with
      | some m => m.dropped == true
      | none => false := List.filter_congr fun e _ => by cases e.2 <;> simp
  have hentry : blockEntry q.handle = fun b => leBytes 4 seq ++ leBytes 4 b.1 ++ leBytes 8 b.2 := by
    rw [(findSeq_eq_some hq).1]
    rfl
  simp only [kvQueryBody, findSeq_taken, hq, if_neg hn]
  rw [hentry, hlive, hdropped, hl]
  rfl

/-- Settles O19, command by command: the fold of each over the pages of its blocks changes one mapping with each page. -/
theorem kvCommands : Obligations.KvCommands := by
  unfold Obligations.KvCommands
  intro p s
  refine ⟨?create, ?share, ?destroy, ?release, ?mark, ?query⟩
  case create =>
    intro ctx c heads format base maxPos hp hctx hh hh' hf hb hm hm' hsize hfree hn
    have hbody := kvCreateBody_done hctx hh hh' hf hb hm hm' hsize hfree hn
    exact ⟨_, (exec_kvCreate ..).trans (congrArg _ (mailbox_finish hp hbody)), finish_completed rfl, finish_place .., finish_parts ..,
      finish_hbm .., finish_ctxs .., finish_pens ..⟩
  case share =>
    rintro seq src first count d o m hp hd ho hc hh hf hob hdb hfree rfl hlen hb hw
    have h : Shares p seq src first count d o _ s := ⟨hd, ho, hc, hh, hf, hob, hdb, hfree, rfl, hlen, hb, hw⟩
    exact ⟨kvShare_shares hp h, fun hl => (exec_kvShare ..).trans (congrArg _ (mailbox_finish hp (h.taken.limited hl)))⟩
  case destroy => exact fun seq first count q live hp hq hd hb hlive hrefs => kvRelease_destroys hp hq hd hb hlive hrefs
  case release => exact fun seq first count q live hp hq hc hr hb hlive hrefs => kvRelease_unmaps hp hq hc hr hb hlive hrefs
  case mark => exact fun seq first count flags q hp hq hc hf hr => kvMark_marks hp hq hc hf hr
  case query =>
    rintro firstEntry free hp rfl
    exact ⟨(exec_kvQuery ..).trans (congrArg _ (mailbox_finish hp (kvQueryBody_all p firstEntry s))),
      fun seq q l hn hq hl => (exec_kvQuery ..).trans (congrArg _ (mailbox_finish hp (kvQueryBody_seq hn hq hl)))⟩

end Sys2Proof.Machine
end

section
/-! PROOFS. Returns of pages and of pool bales, and copies on write (R211, R213, R215, R216, R238). -/

namespace Sys2Proof.Machine

/-! ## A page becomes free (R215, R216) -/

/-- A page without references returns at a boundary, or at a commit that no epoch holds it over. -/
theorem pageReturns_of {s : State} {g : KvPage} (hr : g.refs = 0) (hc : ∀ c ∈ (s.part g.part).changes, c.page ≠ some g.frame)
    (h : s.clock.acb = 0 ∧ stepsRun s g.part = false
      ∨ ∃ r, (s.part g.part).run = some r ∧ r.lastCommit = absAc s ∧ ∀ e ∈ r.epochs, serialAfter 32 g.freeEpoch e.2 = true) :
    pageReturns s g = true := by
  have hcs : ((s.part g.part).changes.any fun c => c.page == some g.frame) = false := by
    rw [List.any_eq_false]
    exact fun c hm => by simpa using hc c hm
  rcases h with ⟨ha, hs⟩ | ⟨r, hrun, hlast, he⟩
  · simp [pageReturns, hr, hcs, ha, hs]
  · have hfree : epochHeld s g.part g.freeEpoch = false := by
      simp only [epochHeld, hrun]
      rw [List.any_eq_false]
      exact fun e hm => by simp [he e hm]
    simp [pageReturns, hr, hcs, hrun, hlast, hfree]

theorem exec_kvPageReclaim {s : State} {k f : Nat} {g : KvPage} (hg : findPage s f = some g) (hk : g.part = k)
    (h : pageReturns s g = true) : exec (.kvPageReclaim k f) s = .next (returnPage f s) := by
  have hready : reclaimReady s k f = true := by simp [reclaimReady, hg, hk, h]
  change event "KV_PAGE_RECLAIM" (reclaimReady s k f) (returnPage f s) = _
  rw [event, if_pos hready]

/-! ## Bales that wait for frames (R235 to R248) -/

/-- What serving bales changes: tensors, frames being zeroed, changes of mappings that wait for a commit, and the zeroed marks, of which
frames that are freed lose theirs (R297). -/
structure Reframed (s t : State) : Prop where
  same : t = { s with place := t.place, parts := t.parts, hbm := t.hbm }
  place : t.place = { s.place with tensors := t.place.tensors, zeroing := t.place.zeroing }
  hbm : t.hbm = { s.hbm with zeroed := t.hbm.zeroed, unmarked := t.hbm.unmarked }
  unmarked : ∀ f ∈ s.hbm.unmarked, f ∈ t.hbm.unmarked
  zeroed : ∀ f ∈ t.hbm.zeroed, f ∈ s.hbm.zeroed

theorem Reframed.refl (s : State) : Reframed s s := ⟨rfl, rfl, rfl, fun _ h => h, fun _ h => h⟩

theorem Reframed.trans {s t u : State} (h : Reframed s t) (g : Reframed t u) : Reframed s u where
  same := by
    have e := g.same
    rwa [h.same] at e
  place := by
    have e := g.place
    rwa [h.place] at e
  hbm := by
    have e := g.hbm
    rwa [h.hbm] at e
  unmarked := fun f hf => g.unmarked f (h.unmarked f hf)
  zeroed := fun f hf => h.zeroed f (g.zeroed f hf)

theorem reframed_updPlace {f : Placement → Placement} {s : State}
    (h : f s.place = { s.place with tensors := (f s.place).tensors, zeroing := (f s.place).zeroing }) : Reframed s (updPlace f s) :=
  ⟨rfl, h, rfl, fun _ h => h, fun _ h => h⟩

theorem reframed_updBale (h i : Nat) (f : Bale → Bale) (s : State) : Reframed s (updBale h i f s) :=
  ⟨rfl, rfl, rfl, fun _ h => h, fun _ h => h⟩

theorem reframed_entryChange (h : Nat) (s : State) : Reframed s (entryChange h s) := by
  unfold entryChange noteChange
  split
  · split
    · exact ⟨rfl, rfl, rfl, fun _ h => h, fun _ h => h⟩
    · exact .refl s
  · exact .refl s

theorem reframed_unmarkFrame (f : Nat) (s : State) : Reframed s (unmarkFrame f s) :=
  ⟨rfl, rfl, rfl, fun i hi => (mem_insertSorted f i _).2 (.inr hi), fun _ hi => List.mem_of_mem_filter hi⟩

theorem reframed_toT2 (h i : Nat) (s : State) : Reframed s (toT2 h i s) := by
  unfold toT2
  dsimp only
  split
  · exact ((reframed_updBale h i _ s).trans (reframed_unmarkFrame _ _)).trans (reframed_entryChange _ _)
  · exact reframed_updBale h i _ s

theorem reframed_makeRoomFor (k : Nat) (s : State) : Reframed s (makeRoomFor k s) := by
  unfold makeRoomFor evictBale
  split
  · split
    · split
      · split
        · exact reframed_updBale _ _ _ s
        · exact reframed_toT2 _ _ s
      · exact .refl s
    · exact .refl s
  · exact .refl s

theorem reframed_giveFrame (h i : Nat) (s : State) : Reframed s (giveFrame h i s) := by
  unfold giveFrame
  split
  · exact .refl s
  · split
    · exact .refl s
    · dsimp only
      split
      · exact reframed_updBale _ _ _ s
      · exact (reframed_updBale _ _ _ s).trans (reframed_updPlace rfl)

theorem reframed_serveFrames (k : Nat) (s : State) : Reframed s (serveFrames k s) := by
  have h : Reframed s (forAll (waitingBales s k) (fun b t => giveFrame b.1 b.2 (makeRoomFor k t)) s) :=
    forAll_induct (P := Reframed s)
      (fun b u hu => (hu.trans (reframed_makeRoomFor k u)).trans (reframed_giveFrame b.1 b.2 _)) _ (.refl s)
  unfold serveFrames clearFailed
  split
  · exact h.trans (reframed_updPlace rfl)
  · exact h

/-! ## The pool gives a bale back (R238) -/

/-- A pool bale without pages since the beat before is free at a boundary. -/
theorem poolBaleFree_of {s : State} {k f : Nat} (hp : (k, f) ∈ s.place.pool) (ha : s.clock.acb = 0) (hf : f ∈ s.place.poolFree)
    (hg : ∀ g ∈ s.place.pages, g.frame / baleBytes * baleBytes ≠ f) : poolBaleFree s f = true := by
  have hpool : (s.place.pool.any fun e => e.2 == f) = true := List.any_eq_true.2 ⟨_, hp, beq_self_eq_true f⟩
  have hpages : (s.place.pages.any fun g => g.frame / 2097152 * 2097152 == f) = false := by
    rw [List.any_eq_false]
    exact fun g hm => by simpa [baleBytes] using hg g hm
  simp [poolBaleFree, ha, hf, hpool, hpages]

theorem exec_kvPoolBaleReturn {s : State} {k f : Nat} (hp : (k, f) ∈ s.place.pool) (h : poolBaleFree s f = true) :
    exec (.kvPoolBaleReturn k f) s = .next (poolReturn k f s) := by
  change event "KV_POOL_BALE_RETURN" (s.place.pool.contains (k, f) && poolBaleFree s f) (poolReturn k f s) = _
  rw [event, if_pos (by simp [hp, h])]

/-- The state in which a bale has left the pool and lost its zeroed mark, before bales that wait are served. -/
def unpooled (k f : Nat) (s : State) : State :=
  unmarkFrame f (updPlace (fun p => { p with pool := p.pool.filter fun e => e != (k, f) }) s)

theorem poolReturn_reframed (k f : Nat) (s : State) : Reframed (unpooled k f s) (poolReturn k f s) := reframed_serveFrames k _

/-! ## Bytes of T1 that are copied (R213, R293) -/

/-- A sector that is marked poisoned changes no byte (R292). -/
theorem poisonSector_same (x : Nat) (s : State) :
    ∃ l q, poisonSector x s = { s with hbm := { s.hbm with poison := l, stk := q } } := by
  unfold poisonSector
  dsimp only
  split
  · exact ⟨_, _, rfl⟩
  · split
    · split
      · refine forAll_induct (P := fun u => ∃ l q, u = { s with hbm := { s.hbm with poison := l, stk := q } }) ?_ _ ?_
        · rintro i u ⟨l, q, rfl⟩
          exact ⟨_, _, rfl⟩
        · exact ⟨_, _, rfl⟩
      · exact ⟨_, _, rfl⟩
    · exact ⟨_, _, rfl⟩

/-- A copy within T1 writes the bytes that it read, and changes nothing outside the stacked memory and no byte of T2. -/
theorem copyT1_same (a b n : Nat) (s : State) : ∃ h, copyT1 a b n s = { s with hbm := h } ∧ h.t1 = putBytes s.hbm.t1 b (readT1s s a n)
    ∧ h.t2 = s.hbm.t2 := by
  obtain ⟨h, e, h1, h2⟩ : ∃ h, forAll ((sectorsOf a n).filter (sectorPoisoned s)) (fun x => poisonSector (x - a / 64 + b / 64))
      (pokeT1 b (readT1s s a n) s) = { s with hbm := h } ∧ h.t1 = putBytes s.hbm.t1 b (readT1s s a n) ∧ h.t2 = s.hbm.t2 := by
    refine forAll_induct (P := fun u => ∃ h, u = { s with hbm := h } ∧ h.t1 = putBytes s.hbm.t1 b (readT1s s a n) ∧ h.t2 = s.hbm.t2)
      ?_ _ ?_
    · rintro x u ⟨h, rfl, h1, h2⟩
      obtain ⟨l, q, e⟩ := poisonSector_same (x - a / 64 + b / 64) { s with hbm := h }
      exact ⟨_, e, h1, h2⟩
    · exact ⟨_, rfl, rfl, rfl⟩
  exact ⟨_, (congrArg (endRead (sectorsOf a n)) e).trans rfl, h1, h2⟩

/-- Bytes of T1 under the key of their writing read as they stand (R296). -/
theorem readT1s_getD {s : State} (hk : ∀ j, tget 0 s.hbm.staleKey j = 0) {a n i : Nat} (hi : i < n) :
    (readT1s s a n).getD i 0 = tget 0 s.hbm.t1 (a + i) := by
  have hread : ∀ x, readT1 { s with hbm := { s.hbm with t1 := window a (a + n) s.hbm.t1 } } x = tget 0 (window a (a + n) s.hbm.t1) x := by
    intro x
    simp [readT1, hk]
  have hin : (decide (a ≤ a + i) && decide (a + i < a + n)) = true := by simp [hi]
  have hwin : tget 0 (window a (a + n) s.hbm.t1) (a + i) = tget 0 s.hbm.t1 (a + i) :=
    tget_filter 0 (fun k => decide (a ≤ k) && decide (k < a + n)) (a + i) hin _
  simp only [readT1s, List.getD_eq_getElem?_getD, List.getElem?_map, List.getElem?_range hi, Option.map_some, Option.getD_some, hread, hwin]

theorem tget_copyT1 {s : State} (hk : ∀ j, tget 0 s.hbm.staleKey j = 0) (a b n x : Nat) : tget 0 (copyT1 a b n s).hbm.t1 x =
    if b ≤ x ∧ x < b + n then tget 0 s.hbm.t1 (x - b + a) else tget 0 s.hbm.t1 x := by
  obtain ⟨h, e, h1, -⟩ := copyT1_same a b n s
  have hlen : (readT1s s a n).length = n := by simp [readT1s]
  rw [e]
  change tget 0 h.t1 x = _
  rw [h1, tget_putBytes, hlen]
  split
  · rw [readT1s_getD hk (by omega), Nat.add_comm a]
  · rfl

/-! ## The touches of a copy on write (R213) -/

theorem exec_cowCopyDone {s : State} {k : Nat} {i : Nat × Bool} (h : nextTouch s.clock.beat (s.part k).copies = some i) :
    exec (.cowCopyDone k) s = .next (cowTouch k s) := by
  change event "COW_COPY_DONE" (nextTouch s.clock.beat (s.part k).copies).isSome (cowTouch k s) = _
  rw [event, if_pos (by rw [h]; rfl)]

theorem setAt_zero {α : Type} (a : α) (l : List α) (f : α → α) : setAt (a :: l) 0 f = f a :: l := by
  rw [setAt, List.zipIdx_cons, List.map_cons, if_pos rfl]
  refine congrArg _ ?_
  have h : ∀ e ∈ l.zipIdx (0 + 1), (if e.2 = 0 then f e.1 else e.1) = e.1 := fun e he => if_neg (by
    have := List.le_snd_of_mem_zipIdx he
    omega)
  rw [List.map_congr_left h]
  exact List.zipIdx_map_fst _ _

theorem updPart_congr {k : Nat} {s : State} {f g : Part → Part} (h : f (s.part k) = g (s.part k)) : updPart k f s = updPart k g s := by
  have e : tupd Part.absent s.parts k f = tupd Part.absent s.parts k g := congrArg (tset Part.absent s.parts k) h
  rw [updPart, updPart, e]

section
variable {s : State} {k : Nat} {c : CowCopy} {l : List CowCopy} (hc : (s.part k).copies = c :: l)
include hc

theorem nextTouch_read (hr : c.readDone = false) : nextTouch s.clock.beat (s.part k).copies = some (0, false) := by
  simp [nextTouch, hc, hr]

theorem nextTouch_write (hr : c.readDone = true) (hb : c.since < s.clock.beat) :
    nextTouch s.clock.beat (s.part k).copies = some (0, true) := by
  simp [nextTouch, hc, hr, hb]

theorem cowTouch_read (hr : c.readDone = false) :
    cowTouch k s = updPart k (fun q => { q with copies := { c with readDone := true, since := s.clock.beat } :: l }) s := by
  unfold cowTouch
  rw [nextTouch_read hc hr]
  refine updPart_congr ?_
  rw [hc, setAt_zero]

theorem cowTouch_write (hr : c.readDone = true) (hb : c.since < s.clock.beat) :
    cowTouch k s = updPart k (fun q => { q with copies := q.copies.eraseIdx 0 }) (copyT1 c.src c.dst kvPageBytes s) := by
  unfold cowTouch
  rw [nextTouch_write hc hr hb]
  simp only [hc]
  rfl

end

/-- Settles O20, event by event. -/
theorem kvEvents : Obligations.KvEvents := by
  unfold Obligations.KvEvents
  intro s k
  refine ⟨?reclaim, ?pool, ?read, ?write⟩
  case reclaim =>
    rintro g hg rfl hr hc h
    exact exec_kvPageReclaim hg rfl (pageReturns_of hr hc h)
  case pool =>
    intro f hp ha hf hg
    have h := poolReturn_reframed k f s
    refine ⟨_, exec_kvPoolBaleReturn hp (poolBaleFree_of hp ha hf hg), by rw [h.place]; rfl, by rw [h.place]; rfl, by rw [h.place]; rfl,
      h.unmarked f (mem_insertSorted_self f _), fun hz => ?_, by rw [h.hbm]; rfl, by rw [h.hbm]; rfl, by rw [h.same]; rfl,
      by rw [h.same]; rfl⟩
    simpa using (List.mem_filter.1 (h.zeroed f hz)).2
  case read =>
    intro a b n l hc
    rw [exec_cowCopyDone (nextTouch_read hc rfl), cowTouch_read hc rfl]
  case write =>
    intro a b n l hc hb _ hk
    obtain ⟨h, e, -, h2⟩ := copyT1_same a b kvPageBytes s
    refine ⟨_, exec_cowCopyDone (nextTouch_write hc rfl hb), ?_, fun x => ?_, ?_⟩
    · rw [cowTouch_write hc rfl hb, part_updPart_same, e]
      exact congrArg (List.eraseIdx · 0) hc
    · rw [cowTouch_write hc rfl hb, updPart_hbm, tget_copyT1 hk]
    · rw [cowTouch_write hc rfl hb, e]
      exact ⟨h2, rfl, rfl, rfl⟩

end Sys2Proof.Machine
end

section
/-! PROOFS. Tensors, bales and bytes of memory (R237, R239, R242 to R244, R297): what an update leaves of a tensor and of a bale, and
which bytes the clearing and the copying of a range leave. -/

namespace Sys2Proof.Machine

/-! ## Tensors and bales after an update -/

theorem findTensor_handle {s : State} {h : Nat} {x : Tensor} (e : findTensor s h = some x) : x.handle = h := by
  simpa using List.find?_some e

theorem findTensor_updTensor {f : Tensor → Tensor} (hf : ∀ x, (f x).handle = x.handle) (h : Nat) (s : State) :
    findTensor (updTensor h f s) h = (findTensor s h).map f :=
  find_mapIf (p := fun x : Tensor => x.handle == h) (fun x => by rw [hf]) s.place.tensors

theorem setAt_getElem? {α : Type} (l : List α) (i j : Nat) (f : α → α) :
    (setAt l i f)[j]? = (l[j]?).map fun a => if j = i then f a else a := by
  rw [setAt, List.getElem?_map, List.getElem?_zipIdx, Option.map_map]
  simp [Function.comp_def]

@[simp] theorem setAt_length {α : Type} (l : List α) (i : Nat) (f : α → α) : (setAt l i f).length = l.length := by simp [setAt]

theorem getBale_of_find {s : State} {h : Nat} {x : Tensor} (e : findTensor s h = some x) (i : Nat) : getBale s h i = x.bales[i]? := by
  rw [getBale, e, Option.bind_some]

theorem getBale_updBale (h i : Nat) (f : Bale → Bale) (s : State) : getBale (updBale h i f s) h i = (getBale s h i).map f := by
  rw [getBale, updBale, findTensor_updTensor (f := fun t => { t with bales := setAt t.bales i f }) fun _ => rfl, getBale]
  cases findTensor s h with
  | none => rfl
  | some x => simp [setAt_getElem?]

theorem findTensor_of_tensors {s t : State} (e : t.place.tensors = s.place.tensors) (h : Nat) : findTensor t h = findTensor s h := by
  rw [findTensor, e, findTensor]

theorem getBale_of_tensors {s t : State} (e : t.place.tensors = s.place.tensors) (h i : Nat) : getBale t h i = getBale s h i := by
  rw [getBale, findTensor_of_tensors e, getBale]

/-- Tensors are found by their handles alone. -/
theorem findTensor_isSome_of_handles {s u : State} (e : u.place.tensors.map (·.handle) = s.place.tensors.map (·.handle)) (h : Nat) :
    (findTensor u h).isSome = (findTensor s h).isSome := by
  have hfind : ∀ v : State, (findTensor v h).isSome = ((v.place.tensors.map (·.handle)).find? (· == h)).isSome := fun v => by
    rw [List.find?_map, Option.isSome_map]
    rfl
  rw [hfind, hfind, e]

/-! ## Ranges that are cleared or copied -/

/-- A cleared range reads 0, and the bytes outside it read as before. -/
theorem tget_clearRange (a n : Nat) (t : Table Byte) (k : Nat) :
    tget 0 (clearRange a n t) k = if a ≤ k ∧ k < a + n then 0 else tget 0 t k := by
  by_cases h : a ≤ k ∧ k < a + n
  · rw [if_pos h]
    exact tget_filter_out 0 (fun j => !(decide (a ≤ j) && decide (j < a + n))) k (by simp [h]) t
  · rw [if_neg h]
    exact tget_filter 0 (fun j => !(decide (a ≤ j) && decide (j < a + n))) k (by simp; omega) t

theorem keysRise_le {α : Type} : ∀ (t : Table α) (b : Nat), keysRise b t = true → ∀ e ∈ t, b ≤ e.1
  | [], _, _, _, he => by cases he
  | x :: t, b, h, e, he => by
    simp only [keysRise, Bool.and_eq_true, decide_eq_true_eq] at h
    rcases List.mem_cons.1 he with rfl | he
    · exact h.1
    · have := keysRise_le t (x.1 + 1) h.2 e he
      omega

/-- Entries put under other keys leave a key as it was. -/
theorem tget_foldl_tput_other (key : Nat × Byte → Nat) {k : Nat} : ∀ (l t : Table Byte), (∀ e ∈ l, k ≠ key e) →
    tget 0 (l.foldl (fun u e => tput (key e) e.2 u) t) k = tget 0 t k
  | [], _, _ => rfl
  | e :: l, t, h => by
    rw [List.foldl_cons, tget_foldl_tput_other key l _ fun x hx => h x (List.mem_cons_of_mem _ hx),
      tget_tput_other 0 e.2 (h e List.mem_cons_self)]

/-- A table whose entries are put with their keys moved from a to b reads at its new place as it read at its old one. -/
theorem tget_foldl_tput_moved (a b i : Nat) : ∀ (l t : Table Byte) (m : Nat), keysRise m l = true → (∀ e ∈ l, a ≤ e.1) →
    tget 0 t (i + b) = 0 → tget 0 (l.foldl (fun u e => tput (e.1 - a + b) e.2 u) t) (i + b) = tget 0 l (i + a)
  | [], _, _, _, _, h0 => h0
  | e :: l, t, m, hl, ha, h0 => by
    simp only [keysRise, Bool.and_eq_true, decide_eq_true_eq] at hl
    have hae := ha e List.mem_cons_self
    have hal : ∀ x ∈ l, a ≤ x.1 := fun x hx => ha x (List.mem_cons_of_mem _ hx)
    rw [List.foldl_cons, tget_cons]
    by_cases he : e.1 = i + a
    · have hrest : ∀ x ∈ l, i + b ≠ x.1 - a + b := fun x hx => by
        have := keysRise_le l (e.1 + 1) hl.2 x hx
        omega
      have hk : e.1 - a + b = i + b := by omega
      rw [if_pos he, tget_foldl_tput_other (fun x => x.1 - a + b) l _ hrest, hk, tget_tput_same]
    · rw [if_neg he]
      exact tget_foldl_tput_moved a b i l _ (e.1 + 1) hl.2 hal (by rw [tget_tput_other 0 e.2 (by omega), h0])

/-- A copied range reads as its source, and the bytes outside it read as before (R243, R244). -/
theorem tget_copyRange {src : Table Byte} (hs : Memory.wf src = true) (a : Nat) (dst : Table Byte) (b n k : Nat) :
    tget 0 (copyRange src a dst b n) k = if b ≤ k ∧ k < b + n then tget 0 src (k - b + a) else tget 0 dst k := by
  have hin : ∀ e ∈ src.filter (fun e => decide (a ≤ e.1) && decide (e.1 < a + n)), a ≤ e.1 ∧ e.1 < a + n := fun e he => by
    simpa using (List.mem_filter.1 he).2
  unfold copyRange
  by_cases hk : b ≤ k ∧ k < b + n
  · obtain ⟨i, rfl⟩ : ∃ i, k = i + b := ⟨k - b, by omega⟩
    simp only [Memory.wf, Table.canon, Bool.and_eq_true] at hs
    rw [if_pos hk, tget_foldl_tput_moved a b i _ _ 0 (keysRise_filter _ src 0 hs.1) (fun e he => (hin e he).1)
      (by rw [tget_clearRange, if_pos hk]), Nat.add_sub_cancel]
    exact tget_filter 0 (fun j => decide (a ≤ j) && decide (j < a + n)) (i + a) (by simp; omega) src
  · have hother : ∀ e ∈ src.filter (fun e => decide (a ≤ e.1) && decide (e.1 < a + n)), k ≠ e.1 - a + b := fun e he => by
      have := hin e he
      omega
    rw [if_neg hk, tget_foldl_tput_other (fun e => e.1 - a + b) _ _ hother, tget_clearRange, if_neg hk]

end Sys2Proof.Machine
end

section
/-! PROOFS. The bytes that bale drovers move or zero (R237, R243, R244, R297). -/

namespace Sys2Proof.Machine

/-! ## Promotions and write-backs -/

theorem fillFrame_zero {x : Tensor} {b : Bale} {s : State} {f : Nat} (hf : b.frame = some f) (hz : b.zero = true) :
    fillFrame x b s = zeroFrame f s := by
  simp only [fillFrame, hf, hz]

theorem fillFrame_home {x : Tensor} {b : Bale} {s : State} {f v : Nat} (hf : b.frame = some f) (hz : b.zero = false)
    (hv : baleHome s x b = some v) :
    fillFrame x b s = updHbm (fun h => { h with t1 := copyRange h.t2 v h.t1 f baleBytes }) (zeroFrame f s) := by
  simp only [fillFrame, hf, hz, hv]

theorem writeHome_t2 {x : Tensor} {b : Bale} {s : State} {f v : Nat} (hf : b.frame = some f) (hv : baleHome s x b = some v) :
    (writeHome x b s).hbm.t2 = copyRange s.hbm.t1 f s.hbm.t2 v baleBytes := by
  simp only [writeHome, hf, hv]
  rfl

/-! ## The end of a zeroing -/

/-- A completion changes its mailbox and what is sent alone (R370). -/
theorem completeProg_same (g : InProgress) (st : Nat) (r : List Byte) (s : State) :
    ∃ o v, completeProg g st r s = { s with host := o, out := v } := by
  unfold completeProg writeCompletion sendVector
  dsimp only
  split
  · split <;> exact ⟨_, _, rfl⟩
  · exact ⟨_, _, rfl⟩

/-- The completion of ALLOC.TENSOR commands changes tensors, mailboxes and what is sent alone (R297). -/
theorem finishAllocs_same (s : State) : ∃ l o v, finishAllocs s = { s with place := { s.place with tensors := l }, host := o, out := v } := by
  refine forAll_induct (P := fun u => ∃ l o v, u = { s with place := { s.place with tensors := l }, host := o, out := v }) ?_ _
    ⟨s.place.tensors, s.host, s.out, rfl⟩
  rintro g u ⟨l, o, v, rfl⟩
  have hdone : ∀ st r m, ∃ l' o' v', completeProg g st r { s with place := { s.place with tensors := m }, host := o, out := v } =
      { s with place := { s.place with tensors := l' }, host := o', out := v' } := fun st r m => by
    obtain ⟨o', v', e⟩ := completeProg_same g st r { s with place := { s.place with tensors := m }, host := o, out := v }
    exact ⟨m, o', v', e⟩
  dsimp only
  split
  · split
    · split
      · exact hdone _ _ _
      · exact ⟨_, _, _, rfl⟩
    · exact hdone _ _ _
  · exact ⟨_, _, _, rfl⟩

theorem exec_frameZeroDone {s : State} {f : Nat} (h : (s.place.zeroing.any fun z => z.2 == f) = true) :
    exec (.frameZeroDone f) s = .next (endZeroing f s) := event_of h

/-- The state in which a frame is off the list of frames that are zeroed, and the copies that wait for it ask from now on. -/
def zeroingEnded (k f : Nat) (s : State) : State :=
  updPlace (fun p => { p with
    zeroing := p.zeroing.filter (· != (k, f))
    tensors := p.tensors.map fun t =>
      { t with bales := mapIf (fun b => b.frame == some f) (fun b => { b with asked := s.clock.elapsed }) t.bales } }) s

/-- A frame that is no whole commons is zeroed, and the allocations that waited for it may complete (R297). -/
theorem endZeroing_frame {s : State} {k f : Nat} (h : s.place.zeroing.find? (fun z => z.2 == f) = some (k, f)) (hf : f ≠ commonsBase k) :
    endZeroing f s = finishAllocs (zeroFrame f (zeroingEnded k f s)) := by
  unfold endZeroing
  simp only [h, hf, if_false, decide_false, Bool.false_and, Bool.false_eq_true]
  split <;> rfl

/-- Settles O22, movement by movement. -/
theorem frameContents : Obligations.FrameContents := by
  unfold Obligations.FrameContents
  refine ⟨fun s x b f hf => ⟨fun hz a => ?zeros, fun v hz hv _ h2 a => ?fill, fun v hv h1 _ a => ?home⟩, fun s k f hz hf => ?zeroing⟩
  case zeros =>
    rw [fillFrame_zero hf hz]
    exact tget_clearRange f baleBytes s.hbm.t1 a
  case fill =>
    rw [fillFrame_home hf hz hv]
    change tget 0 (copyRange s.hbm.t2 v (clearRange f baleBytes s.hbm.t1) f baleBytes) a = _
    rw [tget_copyRange h2, tget_clearRange]
    exact ite_congr rfl (fun _ => rfl) fun hout => if_neg hout
  case home =>
    rw [writeHome_t2 hf hv, tget_copyRange h1]
  case zeroing =>
    have hany : (s.place.zeroing.any fun z => z.2 == f) = true := List.any_eq_true.2 ⟨_, List.mem_of_find?_eq_some hz, beq_self_eq_true f⟩
    obtain ⟨l, o, v, e⟩ := finishAllocs_same (zeroFrame f (zeroingEnded k f s))
    refine ⟨_, (exec_frameZeroDone hany).trans (congrArg _ (endZeroing_frame hz hf)), by rw [e]; rfl, fun a => ?_, ?_, by rw [e]; rfl⟩
    · rw [e]
      exact tget_clearRange f baleBytes s.hbm.t1 a
    · rw [e]
      exact mem_insertSorted_self f s.hbm.zeroed

end Sys2Proof.Machine
end

section
/-! PROOFS. TIER.CONFIG that changes a partition's commons share (R231, R241, R274, R297). -/

namespace Sys2Proof.Machine

/-- The state in which partition k has a commons share of c GiB, and the frames that its paddocks get back are not marked zeroed. -/
def shareSet (k c : Nat) (s : State) : State :=
  updPart k (fun q => { q with commonsGib := c })
    (updHbm (fun h => { h with unmarked := (givenBack s k c).foldl (fun l f => insertSorted f l) h.unmarked }) s)

theorem part_shareSet (k c : Nat) (s : State) (i : Nat) :
    (shareSet k c s).part i = if i = k then { s.part i with commonsGib := c } else s.part i := by
  rw [shareSet, part_updPart]
  split
  · rename_i e; rw [e]; rfl
  · rfl

/-- A share that fits, of a partition without placement whose frames are all zeroed, is set at once (R241, R274). -/
theorem tierConfigBody_share {p : Post} {c : Nat} {s : State} (hbusy : placementBusy s (postTarget p) = false) (hc : c ≤ 48)
    (hfits : commonsFits s (postTarget p) c = true) (hne : c ≠ (s.part (postTarget p)).commonsGib)
    (hclean : commonsDirty s (postTarget p) = false) :
    tierConfigBody p c [] s = .done stOk [] (clearCommons (postTarget p) (shareSet (postTarget p) c s)) := by
  have hmax : ¬48 < c := Nat.not_lt.2 hc
  simp [tierConfigBody, changedWindows, rangesOverlap, shareSet, hbusy, hmax, hfits, hne, hclean]

/-- Settles O17: the share is set, and the bytes of the commons region are cleared. -/
theorem tierConfiguration : Obligations.TierConfiguration := by
  unfold Obligations.TierConfiguration
  intro p c s hp hbusy hc hfits hne hclean
  have hrun : exec (.tierConfig p c []) s = .next (mailbox p rowTierConfig 1 (tierConfigBody p c []) s) := rfl
  have hbody := tierConfigBody_share (s := taken p s) hbusy hc hfits hne hclean
  have hclear := tget_clearRange (commonsBase (postTarget p)) (2 ^ 40) s.hbm.t1
  refine ⟨_, hrun.trans (congrArg _ (mailbox_finish hp hbody)), finish_completed rfl, fun k => ?_, finish_place .., finish_ctxs ..,
    finish_pens .., by rw [finish_hbm]; rfl, fun a h1 h2 => ?_, fun a h => ?_⟩
  · rw [State.part, finish_parts]
    exact part_shareSet (postTarget p) c (taken p s) k
  · rw [finish_hbm]
    exact (hclear a).trans (if_pos ⟨h1, h2⟩)
  · rw [finish_hbm]
    exact (hclear a).trans (if_neg (by omega))

end Sys2Proof.Machine
end

section
/-! PROOFS. WEIGHT.LOAD (R257 to R260): the checks of its manifest, the load that it starts, and the shards that are asked for first. -/

namespace Sys2Proof.Machine

/-! ## Shards that are asked for (R259) -/

theorem askShard_same (l : Load) (i q : Nat) (s : State) : ∃ o, askShard l i q s = { s with out := o } := by
  unfold askShard
  split
  · exact ⟨_, rfl⟩
  · exact ⟨s.out, rfl⟩

/-- Starting fetches changes the load's window and what is sent alone. -/
theorem fillFlight_same (n : Nat) (l : Load) (s : State) :
    ∃ w i o, fillFlight n l s = ({ l with flight := w, nextShard := i }, { s with out := o }) := by
  induction n generalizing l s with
  | zero => exact ⟨l.flight, l.nextShard, s.out, rfl⟩
  | succ n ih =>
    rw [fillFlight]
    split
    · extract_lets q
      obtain ⟨o, e⟩ := askShard_same l l.nextShard q s
      rw [e]
      exact ih _ _
    · exact ⟨l.flight, l.nextShard, s.out, rfl⟩

/-- The window takes shards while it holds fewer than four and shards are left. -/
theorem fillFlight_counts (n : Nat) (l : Load) (s : State) :
    (fillFlight n l s).1.flight.length = l.flight.length + min n (min (4 - l.flight.length) (l.shards.length - l.nextShard))
      ∧ (fillFlight n l s).1.nextShard = l.nextShard + min n (min (4 - l.flight.length) (l.shards.length - l.nextShard)) := by
  induction n generalizing l s with
  | zero => simp [fillFlight]
  | succ n ih =>
    rw [fillFlight]
    split
    case isTrue hroom =>
      simp only [Bool.and_eq_true, decide_eq_true_eq] at hroom
      extract_lets q
      obtain ⟨hw, hi⟩ := ih { l with nextShard := l.nextShard + 1, flight := l.flight ++ [⟨l.nextShard, now s, q, 0, 0, [], [], []⟩] }
        (askShard l l.nextShard q s)
      simp only [List.length_append, List.length_singleton] at hw hi
      omega
    case isFalse hfull =>
      simp only [Bool.and_eq_true, decide_eq_true_eq] at hfull
      dsimp only
      omega

/-! ## The command -/

/-- The load that a manifest asks for, before its first fetch (R257). -/
def newLoad (h ctx : Nat) (verified : Bool) (m : Manifest) (img : List Byte) (shards : List Shard) : Load :=
  { tensor := h, ctx := ctx, verified := verified, shards := shards,
    crcs := (List.range m.nChunk).map fun i => fieldAt img (m.crcOff + 8 * i) 8,
    replicas := (List.range m.nReplica).map fun i => readReplica ((img.drop (64 + 64 * i)).take 64),
    flight := [], nextShard := 0, done := 0, refetches := 0 }

/-- The state in which a load's first fetches are sent, its tensor is LOADING, and it is in the list. -/
def loadStarted (l : Load) (s : State) : State :=
  updPlace (fun q => { q with loads := q.loads ++ [(fillFlight 4 l s).1] })
    (updTensor l.tensor (fun x => { x with load := 1 }) (fillFlight 4 l s).2)

section
variable {p : Post} {ctx h va : Nat} {verified : Bool} {c : Ctx} {x : Tensor} {s : State} (hctx : checkCtx p ctx s = .ok c)
  (hx : mappedTensor s ctx h = some x)
include hctx hx

theorem weightLoadBody_loading (hl : x.load = 1) : weightLoadBody p ctx h va verified s = .done stBadState [] s := by
  simp only [weightLoadBody, withCtx, hctx, hx, hl, if_true]

/-- A manifest that can be read: its signature is checked, then its tables, and the load starts (R258; log 52). -/
theorem weightLoadBody_manifest {m : Manifest} {img : List Byte} {shards : List Shard} (hl : x.load ≠ 1)
    (hhead : rangeCheck s ctx va 64 = none) (hm : readManifest (readVa s ctx va 64) = some m) (hrange : rangeCheck s ctx va m.length = none)
    (himg : img = readVa s ctx va m.length)
    (hshards : shards = (List.range m.nShard).map fun i => readShard ((img.drop (m.shardOff + 128 * i)).take 128)) :
    weightLoadBody p ctx h va verified s =
      if !manifestSigned s m img then .done stDenied [] s
      else if !tablesFit m x.size img shards then .done stBadArg [] s
      else .accept none [] ctx c.part (.load h) (loadStarted (newLoad h ctx verified m img shards) s) := by
  subst himg hshards
  simp only [weightLoadBody, withCtx, hctx, hx, hl, if_false, hhead, hm, hrange]
  rfl

end

/-- Settles O23: the load is marked, the manifest's signature and tables are checked in that order, and the first fetches start. -/
theorem weightLoading : Obligations.WeightLoading := by
  unfold Obligations.WeightLoading
  intro p ctx h va verified c x m img shards s hp hctx hx _
  have hrun : exec (.weightLoad p ctx h va verified) s = .next (mailbox p rowWeightLoad 3 (weightLoadBody p ctx h va verified) s) := rfl
  refine ⟨fun hl => ?loading, fun hl hhead hm hrange himg hshards => ?manifest⟩
  case loading => exact hrun.trans (congrArg _ (mailbox_finish hp (weightLoadBody_loading (s := taken p s) hctx hx hl)))
  have hbody := weightLoadBody_manifest (verified := verified) (s := taken p s) hctx hx hl hhead hm hrange himg hshards
  have hsig : manifestSigned (taken p s) m img = manifestSigned s m img := rfl
  rw [hsig] at hbody
  refine ⟨fun hs => ?unsigned, fun hs ht => ?unfit, fun hs ht => ?accepted⟩
  case unsigned => exact hrun.trans (congrArg _ (mailbox_finish hp (hbody.trans (by rw [hs]; rfl))))
  case unfit => exact hrun.trans (congrArg _ (mailbox_finish hp (hbody.trans (by rw [hs, ht]; rfl))))
  case accepted =>
    have hstart := mailbox_start hp (hbody.trans (by rw [hs, ht]; rfl))
    obtain ⟨hflight, hnext⟩ := fillFlight_counts 4 (newLoad h ctx verified m img shards) (taken p s)
    obtain ⟨w, i, o, e⟩ := fillFlight_same 4 (newLoad h ctx verified m img shards) (taken p s)
    have hstate : loadStarted (newLoad h ctx verified m img shards) (taken p s) =
        { taken p s with out := o, place := { s.place with
          loads := s.place.loads ++ [{ newLoad h ctx verified m img shards with flight := w, nextShard := i }]
          tensors := mapIf (fun y => y.handle == h) (fun y => { y with load := 1 }) s.place.tensors } } := by
      rw [loadStarted, e]
      rfl
    rw [e] at hflight hnext
    rw [hstate] at hstart
    refine ⟨_, _, hrun.trans (congrArg _ hstart), start_accepted rfl, congrArg Placement.loads (start_place ..), rfl, rfl, rfl, rfl, rfl,
      ?_, ?_, congrArg Placement.tensors (start_place ..), start_hbm .., start_ctxs .., start_parts ..⟩
    · simpa [newLoad] using hflight
    · simpa [newLoad] using hnext

end Sys2Proof.Machine
end

section
/-! PROOFS. The fetch of a load's shards (R258, R259, R261, R262): chunks that arrive, refetches, replicas that fail, and the end of a
load. -/

namespace Sys2Proof.Machine

/-! ## A load and its fetches after an update -/

/-- The element that a list finds after those that satisfy its test have become one that satisfies it. -/
theorem find_mapIf_const {α : Type} {p : α → Bool} {b : α} (hb : p b = true) : ∀ l : List α,
    (mapIf p (fun _ => b) l).find? p = (l.find? p).map fun _ => b
  | [] => rfl
  | a :: l => by
    have ih := find_mapIf_const hb l
    simp only [mapIf, List.map_cons, List.find?_cons] at ih ⊢
    cases ha : p a
    · simp [ha, ih]
    · simp [hb]

theorem mapIf_mapIf_const {α : Type} {p : α → Bool} {b : α} (hb : p b = true) (c : α) (l : List α) :
    mapIf p (fun _ => c) (mapIf p (fun _ => b) l) = mapIf p (fun _ => c) l := by
  rw [mapIf, mapIf, List.map_map]
  refine List.map_congr_left fun a _ => ?_
  cases ha : p a <;> simp [ha, hb]

theorem findLoad_setLoad {l l' : Load} {s : State} (h : findLoad s l.tensor = some l') : findLoad (setLoad l s) l.tensor = some l := by
  have e := find_mapIf_const (p := fun x : Load => x.tensor == l.tensor) (b := l) (beq_self_eq_true _) s.place.loads
  refine e.trans ?_
  rw [findLoad] at h
  rw [h]
  rfl

theorem updFetch_updFetch {i : Nat} {f : ShardFetch} (hf : f.shard = i) (g : ShardFetch) (l : Load) :
    updFetch i (fun _ => g) (updFetch i (fun _ => f) l) = updFetch i (fun _ => g) l := by
  have e := mapIf_mapIf_const (p := fun x : ShardFetch => x.shard == i) (b := f) (by simp [hf]) g l.flight
  exact congrArg (fun w => { l with flight := w }) e

/-- What the load, its fetch, shard and tensor of an event are. -/
theorem fetchOf_eq_some {s : State} {h i : Nat} {l : Load} {f : ShardFetch} {x : Shard} {t : Tensor}
    (e : fetchOf s h i = some (l, f, x, t)) : findLoad s h = some l ∧ l.tensor = h ∧ f.shard = i ∧ findTensor s h = some t := by
  unfold fetchOf at e
  split at e
  · rename_i l' t' hl ht
    split at e
    · rename_i f' x' hf hx
      cases e
      have htensor := List.find?_some hl
      have hshard := List.find?_some hf
      exact ⟨hl, by simpa using htensor, by simpa using hshard, ht⟩
    · cases e
  · cases e

/-! ## The end of a load (R261, R262) -/

/-- What the end of a load leaves: it is fetched no more, its tensor is complete after OK alone, no byte of memory has changed, and its
command has its final completion. -/
structure LoadEnded (h status : Nat) (s u : State) : Prop where
  gone : findLoad u h = none
  tensor : ∃ y, findTensor u h = some y ∧ y.load = if status = stOk then 0 else 2
  hbm : u.hbm = s.hbm
  ended : ∀ g, findProg s (fun q => q.job == .load h) = some g → Ended g status u

theorem endLoad_ended {l : Load} {t : Tensor} {s : State} (ht : findTensor s l.tensor = some t) (status i : Nat) :
    LoadEnded l.tensor status s (endLoad l status i s) := by
  unfold endLoad
  extract_lets k s1 s2 s3
  have h2 : Told s1 s2 := by
    unfold s2
    split
    · exact .refl s1
    · exact told_daybook _ _ _ _ _ s1
  have h3 : Told s1 s3 := by
    unfold s3
    split
    · exact h2.trans (told_daybook _ _ _ _ _ s2)
    · exact h2
  have hgone : (s.place.loads.filter fun x => x.tensor != l.tensor).find? (fun x => x.tensor == l.tensor) = none := by simp
  have htensor : findTensor s1 l.tensor = some { t with load := if status = stOk then 0 else 2 } := by
    have e := findTensor_updTensor (f := fun t => { t with load := if status = stOk then 0 else 2 }) (fun _ => rfl) l.tensor s
    rw [ht] at e
    exact e
  have hplace : ∀ u : State, u.place = s3.place → findLoad u l.tensor = none ∧ findTensor u l.tensor = findTensor s1 l.tensor := fun u hu => by
    have e : u.place = s1.place := hu.trans h3.place
    exact ⟨by rw [findLoad, e]; exact hgone, by rw [findTensor, e, findTensor]⟩
  have hprog : findProg s3 (fun g => g.job == .load l.tensor) = findProg s fun g => g.job == .load l.tensor := by
    rw [findProg, h3.progs]; rfl
  rw [hprog]
  split
  case h_1 g hg =>
    obtain ⟨o, v, e⟩ := completeProg_same g status (loadResult l i) s3
    obtain ⟨hl, hy⟩ := hplace (completeProg g status (loadResult l i) s3) (by rw [e])
    refine ⟨hl, ⟨_, hy.trans htensor, rfl⟩, by rw [e]; exact h3.hbm, fun g' hg' => ?_⟩
    cases hg.symm.trans hg'
    exact completeProg_ended _ _ _ _
  case h_2 hnone =>
    obtain ⟨hl, hy⟩ := hplace s3 rfl
    exact ⟨hl, ⟨_, hy.trans htensor, rfl⟩, h3.hbm, fun g hg => by rw [hnone] at hg; cases hg⟩

/-! ## Refetches (R259) -/

/-- What a refetch leaves: the fetch as it starts again, and no byte of memory and no tensor changed. -/
theorem refetch_leaves {s : State} {l l' : Load} {f : ShardFetch} (h : findLoad s l.tensor = some l') (q : Nat) :
    findLoad (refetch l f q s) l.tensor = some (updFetch f.shard (fun _ => { f with replica := q, next := 0, since := now s, content := [] }) l)
      ∧ (refetch l f q s).hbm = s.hbm ∧ (refetch l f q s).place.tensors = s.place.tensors := by
  obtain ⟨o, e⟩ := askShard_same l f.shard q s
  unfold refetch
  rw [e]
  exact ⟨findLoad_setLoad (l := updFetch f.shard _ l) h, rfl, rfl⟩

theorem nextReplica_eq_none {mask from_ : Nat} {gone : List Nat} (h : ∀ q < 8, bit mask q = true → q ∈ gone) :
    nextReplica mask from_ gone = none := by
  rw [nextReplica, List.findSome?_eq_none_iff]
  intro i _
  have hq := h ((from_ + i) % 8) (Nat.mod_lt _ (by decide))
  simp only [ite_eq_right_iff, Bool.and_eq_true, Bool.not_eq_true', List.contains_eq_mem, decide_eq_false_iff_not]
  exact fun ⟨hbit, hout⟩ => absurd (hq hbit) hout

/-! ## Where a chunk is kept (R247, R260) -/

/-- The bytes of a chunk reach the place of the tensor's bytes; no load, no command and no tensor's handle changes. -/
theorem writeKept_same (t : Tensor) (off : Nat) (d : List Byte) (s : State) :
    ∃ m l, writeKept t off d s = { s with hbm := m, place := { s.place with tensors := l } }
      ∧ l.map (·.handle) = s.place.tensors.map (·.handle)
      ∧ (∀ pa, keepOf s t off = .frame pa → m.t2 = s.hbm.t2 ∧ m.t1 = putBytes s.hbm.t1 pa d)
      ∧ (∀ v, keepOf s t off = .home v → m.t1 = s.hbm.t1 ∧ ∃ w, m.t2 = putBytes w v d) := by
  have hmap : ∀ (h i : Nat) (g : Bale → Bale), (mapIf (fun x : Tensor => x.handle == h) (fun x => { x with bales := setAt x.bales i g })
      s.place.tensors).map (·.handle) = s.place.tensors.map (·.handle) := fun h i g => by
    rw [mapIf, List.map_map]
    refine List.map_congr_left fun x _ => ?_
    simp only [Function.comp]
    split <;> rfl
  unfold writeKept
  split
  case h_1 pa hk =>
    unfold writeT1
    dsimp only
    split
    · refine ⟨_, _, rfl, hmap _ _ _, fun pa' e => ?_, fun v e => ?_⟩
      · cases hk.symm.trans e; exact ⟨rfl, rfl⟩
      · cases hk.symm.trans e
    · refine ⟨_, s.place.tensors, rfl, rfl, fun pa' e => ?_, fun v e => ?_⟩
      · cases hk.symm.trans e; exact ⟨rfl, rfl⟩
      · cases hk.symm.trans e
  case h_2 v hk =>
    refine ⟨_, _, rfl, hmap _ _ _, fun pa e => ?_, fun v' e => ?_⟩
    · cases hk.symm.trans e
    · cases hk.symm.trans e; exact ⟨rfl, _, rfl⟩
  case h_3 hk =>
    refine ⟨s.hbm, s.place.tensors, rfl, rfl, fun pa e => ?_, fun v e => ?_⟩
    · cases hk.symm.trans e
    · cases hk.symm.trans e

/-! ## The events of a fetch -/

section
variable {s : State} {h i : Nat} {l : Load} {f : ShardFetch} {x : Shard} {t : Tensor} (hf : fetchOf s h i = some (l, f, x, t))
include hf

theorem exec_chunkArrive {c : Nat} {d : List Byte} (hn : f.next = c) (hc : c < shardChunks x) (hd : d.length = chunkLen x c)
    (hk : keepOf s t (x.offset + c * mib) ≠ .busy) : exec (.chunkArrive h i c d) s = .next (takeChunk l f x t c d s) := by
  have hdue : chunkDue s h i c d = true := by simp [chunkDue, hf, hn, hc, hd, hk]
  have harrive : chunkArrive h i c d s = takeChunk l f x t c d s := by simp only [chunkArrive, hf]
  exact (event_of hdue).trans (congrArg _ harrive)

theorem exec_rdmaRemoteAccessError : exec (.rdmaRemoteAccessError h i) s = .next (skipReplica
    (updFetch i (fun _ => { f with absent := f.replica :: f.absent }) l) { f with absent := f.replica :: f.absent } x s) := by
  have herror : remoteAccessError h i s = skipReplica (updFetch i (fun _ => { f with absent := f.replica :: f.absent }) l)
      { f with absent := f.replica :: f.absent } x s := by simp only [remoteAccessError, hf]
  exact (event_of (by rw [hf]; rfl)).trans (congrArg _ herror)

theorem exec_replicaTimeout (hs : f.since + 40000 ≤ s.clock.beat) : exec (.replicaTimeout h i) s = .next (skipReplica
    (updFetch i (fun _ => { f with skipped := f.replica :: f.skipped }) l) { f with skipped := f.replica :: f.skipped } x s) := by
  have hdue : replicaOverdue s h i = true := by simp [replicaOverdue, hf, hs]
  have hfail : replicaFail h i s = skipReplica (updFetch i (fun _ => { f with skipped := f.replica :: f.skipped }) l)
      { f with skipped := f.replica :: f.skipped } x s := by simp only [replicaFail, hf]
  exact (event_of hdue).trans (congrArg _ hfail)

end

/-- The last shard of a load ends it (R259, R261). -/
theorem shardDone_last {l : Load} (hl : l.done + 1 = l.shards.length) (i : Nat) (u : State) :
    ∃ l' v, l'.tensor = l.tensor ∧ v.place.tensors = u.place.tensors ∧ v.host = u.host
      ∧ shardDone l i u = endLoad l' stOk 0xFFFF_FFFF v := by
  obtain ⟨w, n, o, e⟩ := fillFlight_same 4 { l with done := l.done + 1, flight := l.flight.filter fun x => x.shard != i } u
  unfold shardDone
  extract_lets r
  have hr : r = _ := e
  exact ⟨r.1, setLoad r.1 r.2, by rw [hr], by rw [hr]; rfl, by rw [hr]; rfl, if_pos (by rw [hr]; exact hl)⟩

/-! ## The statement -/

section
variable {s : State} {h i : Nat} {l : Load} {f : ShardFetch} {x : Shard} {t : Tensor} (hf : fetchOf s h i = some (l, f, x, t))
include hf

/-- A load that ends at an event of one of its fetches, with a status other than OK. -/
theorem endLoad_incomplete {l' : Load} (hl : l'.tensor = l.tensor) {status : Nat} (hs : status ≠ stOk) (n : Nat) :
    ∃ u y, endLoad l' status n s = u ∧ findLoad u h = none ∧ findTensor u h = some y ∧ y.load = 2 ∧ u.hbm = s.hbm
      ∧ ∀ g, findProg s (fun q => q.job == .load h) = some g → Ended g status u := by
  obtain ⟨-, htensor, -, hfound⟩ := fetchOf_eq_some hf
  have hh : l'.tensor = h := hl.trans htensor
  have hend := endLoad_ended (l := l') (hh.symm ▸ hfound) status n
  rw [hh] at hend
  obtain ⟨y, hy, hload⟩ := hend.tensor
  exact ⟨_, y, rfl, hend.gone, hy, hload.trans (if_neg hs), hend.hbm, hend.ended⟩

/-- A refetch at an event of a fetch. -/
theorem refetch_event {l' : Load} (hl : l'.tensor = l.tensor) (f' : ShardFetch) (hi : f'.shard = f.shard) (q : Nat) :
    ∃ u, refetch l' f' q s = u
      ∧ findLoad u h = some (updFetch i (fun _ => { f' with replica := q, next := 0, since := s.clock.beat + s.clock.lead, content := [] }) l')
      ∧ u.hbm = s.hbm ∧ u.place.tensors = s.place.tensors := by
  obtain ⟨hload, htensor, hshard, -⟩ := fetchOf_eq_some hf
  obtain rfl : f'.shard = i := hi.trans hshard
  obtain rfl : l'.tensor = h := hl.trans htensor
  exact ⟨_, rfl, refetch_leaves hload q⟩

/-- A fetch whose replica has failed is asked of the next one. -/
theorem skipReplica_next (f' : ShardFetch) (hi : f'.shard = f.shard) {q : Nat}
    (hq : nextReplica x.replicas f'.replica (f'.absent ++ f'.skipped) = some q) :
    ∃ u, skipReplica (updFetch i (fun _ => f') l) f' x s = u
      ∧ findLoad u h = some (updFetch i (fun _ => { f' with replica := q, next := 0, since := s.clock.beat + s.clock.lead, content := [] }) l)
      ∧ u.hbm = s.hbm ∧ u.place.tensors = s.place.tensors := by
  obtain ⟨-, -, hshard, -⟩ := fetchOf_eq_some hf
  have hi' : f'.shard = i := hi.trans hshard
  have e := refetch_event hf (l' := updFetch i (fun _ => f') l) rfl f' hi q
  rw [updFetch_updFetch hi'] at e
  have hskip : skipReplica (updFetch i (fun _ => f') l) f' x s = refetch (updFetch i (fun _ => f') l) f' q s := by
    simp only [skipReplica, hq]
  rw [hskip]
  exact e

/-- A fetch whose replica has failed, with none left: the status says whether the shard is held nowhere (R259, R262). -/
theorem skipReplica_ends (f' : ShardFetch) {status : Nat} (hq : nextReplica x.replicas f'.replica (f'.absent ++ f'.skipped) = none)
    (he : (if (List.range 8).all (fun q => !bit x.replicas q || f'.absent.contains q) then stShardMissing else stLowerTierFail) = status)
    (hs : status ≠ stOk) : ∃ u y, skipReplica (updFetch i (fun _ => f') l) f' x s = u ∧ findLoad u h = none ∧ findTensor u h = some y
      ∧ y.load = 2 ∧ u.hbm = s.hbm ∧ ∀ g, findProg s (fun q => q.job == .load h) = some g → Ended g status u := by
  have hskip : skipReplica (updFetch i (fun _ => f') l) f' x s = endLoad (updFetch i (fun _ => f') l) status f'.shard s := by
    simp only [skipReplica, hq, he]
  rw [hskip]
  exact endLoad_incomplete hf (l' := updFetch i (fun _ => f') l) rfl hs f'.shard

/-- A chunk whose CRC agrees, before the last of its shard, is kept, and the fetch goes on. -/
theorem takeChunk_goes_on {c : Nat} {d : List Byte} (hcrc : crc64 d = l.crcs.getD (x.crcIndex + c) 0) (hc : c + 1 < shardChunks x) :
    ∃ u, takeChunk l f x t c d s = u
      ∧ findLoad u h = some (updFetch i (fun _ => { f with next := c + 1, since := s.clock.beat + s.clock.lead, content := f.content ++ d }) l)
      ∧ (∀ pa, keepOf s t (x.offset + c * mib) = .frame pa → u.hbm.t2 = s.hbm.t2
          ∧ ∀ a, tget 0 u.hbm.t1 a = if pa ≤ a ∧ a < pa + d.length then d.getD (a - pa) 0 else tget 0 s.hbm.t1 a)
      ∧ (∀ v, keepOf s t (x.offset + c * mib) = .home v → u.hbm.t1 = s.hbm.t1
          ∧ ∀ a, v ≤ a → a < v + d.length → tget 0 u.hbm.t2 a = d.getD (a - v) 0) := by
  obtain ⟨hload, htensor, hshard, -⟩ := fetchOf_eq_some hf
  obtain ⟨m, lt, e, -, hframe, hhome⟩ := writeKept_same t (x.offset + c * mib) d s
  have hset : takeChunk l f x t c d s = setLoad (updFetch i (fun _ =>
      { f with next := c + 1, since := s.clock.beat + s.clock.lead, content := f.content ++ d }) l)
      { s with hbm := m, place := { s.place with tensors := lt } } := by
    simp only [takeChunk, hcrc, bne_self_eq_false, Bool.false_eq_true, if_false, hc, if_true, hshard, e]
    rfl
  rw [hset]
  refine ⟨_, rfl, ?_, fun pa hk => ?_, fun v hk => ?_⟩
  · rw [← htensor] at hload ⊢
    exact findLoad_setLoad (l := updFetch i _ l) hload
  · obtain ⟨h2, h1⟩ := hframe pa hk
    exact ⟨h2, fun a => (congrArg (tget 0 · a) h1).trans (tget_putBytes _ _ _ _)⟩
  · obtain ⟨h1, w, h2⟩ := hhome v hk
    exact ⟨h1, fun a hv ha => ((congrArg (tget 0 · a) h2).trans (tget_putBytes _ _ _ _)).trans (if_pos ⟨hv, ha⟩)⟩

/-- The last chunk of the last shard of a load whose shards need no digest ends the load with OK. -/
theorem takeChunk_completes {c : Nat} {d : List Byte} (hcrc : crc64 d = l.crcs.getD (x.crcIndex + c) 0) (hc : c + 1 = shardChunks x)
    (hv : l.verified = false) (hl : l.done + 1 = l.shards.length) :
    ∃ u y, takeChunk l f x t c d s = u ∧ findLoad u h = none ∧ findTensor u h = some y ∧ y.load = 0
      ∧ ∀ g, findProg s (fun q => q.job == .load h) = some g → Ended g stOk u := by
  obtain ⟨-, htensor, -, hfound⟩ := fetchOf_eq_some hf
  obtain ⟨m, lt, e, hhandles, -, -⟩ := writeKept_same t (x.offset + c * mib) d s
  have hdone : takeChunk l f x t c d s = shardDone l f.shard (writeKept t (x.offset + c * mib) d s) := by
    simp only [takeChunk, hcrc, bne_self_eq_false, Bool.false_eq_true, if_false, hc, Nat.lt_irrefl, hv, Bool.false_and]
  obtain ⟨l', v, hl', hvt, hvh, hlast⟩ := shardDone_last hl f.shard (writeKept t (x.offset + c * mib) d s)
  rw [e] at hvt hvh
  have hh : l'.tensor = h := hl'.trans htensor
  obtain ⟨y, hy⟩ : ∃ y, findTensor v l'.tensor = some y := by
    rw [← Option.isSome_iff_exists, findTensor_isSome_of_handles (s := s) ((congrArg (List.map (·.handle)) hvt).trans hhandles), hh, hfound]
    rfl
  have hend := endLoad_ended hy stOk 0xFFFF_FFFF
  rw [hh] at hend
  obtain ⟨z, hz, hload⟩ := hend.tensor
  rw [hdone, hlast]
  exact ⟨_, z, rfl, hend.gone, hz, hload, fun g hg => hend.ended g (by rw [findProg, hvh]; exact hg)⟩

end

/-- Settles O24, event by event. -/
theorem loadEvents : Obligations.LoadEvents := by
  unfold Obligations.LoadEvents
  intro s h i l f x t hf
  refine ⟨fun c d hn hc hd hk => ?chunk, fun q hq => ?absent, fun hall => ?missing, fun hs => ?timeout⟩
  case chunk =>
    have hrun := exec_chunkArrive hf hn hc hd hk
    refine ⟨fun hcrc hmore => ?_, fun hcrc hlast hv hl => ?_, fun hcrc hleft q hq => ?_, fun hcrc hnone => ?_⟩
    · obtain ⟨u, hu, hrest⟩ := takeChunk_goes_on hf hcrc hmore
      exact ⟨u, hrun.trans (congrArg _ hu), hrest⟩
    · obtain ⟨u, y, hu, hrest⟩ := takeChunk_completes hf hcrc hlast hv hl
      exact ⟨u, y, hrun.trans (congrArg _ hu), hrest⟩
    · obtain ⟨u, hu, hrest⟩ := refetch_event hf (l' := { l with refetches := l.refetches + 1 }) rfl
        { f with refetches := f.refetches + 1 } rfl q
      have htake : takeChunk l f x t c d s = refetch { l with refetches := l.refetches + 1 } { f with refetches := f.refetches + 1 } q s := by
        simp only [takeChunk, shardCorrupt, bne_iff_ne, ne_eq, hcrc, not_false_eq_true, if_true, Nat.not_le.2 hleft, if_false, hq]
      exact ⟨u, hrun.trans (congrArg _ (htake.trans hu)), hrest⟩
    · obtain ⟨u, y, hu, hrest⟩ := endLoad_incomplete hf (l' := l) rfl (status := stShardCorrupt) (by decide) f.shard
      have htake : takeChunk l f x t c d s = endLoad l stShardCorrupt f.shard s := by
        simp only [takeChunk, shardCorrupt, bne_iff_ne, ne_eq, hcrc, not_false_eq_true, if_true, hnone]
      exact ⟨u, y, hrun.trans (congrArg _ (htake.trans hu)), hrest⟩
  case absent =>
    obtain ⟨u, hu, hrest⟩ := skipReplica_next hf { f with absent := f.replica :: f.absent } rfl hq
    exact ⟨u, (exec_rdmaRemoteAccessError hf).trans (congrArg _ hu), hrest⟩
  case missing =>
    obtain ⟨u, y, hu, hrest⟩ := skipReplica_ends hf { f with absent := f.replica :: f.absent } (status := stShardMissing)
      (nextReplica_eq_none fun q hq hbit => by
        rcases hall q hq hbit with rfl | hq' <;> simp [*])
      (if_pos (List.all_eq_true.2 fun q hq => by
        by_cases hbit : bit x.replicas q = true
        · rcases hall q (List.mem_range.1 hq) hbit with rfl | hq' <;> simp [*]
        · simp [hbit])) (by decide)
    exact ⟨u, y, (exec_rdmaRemoteAccessError hf).trans (congrArg _ hu), hrest⟩
  case timeout =>
    have hrun := exec_replicaTimeout hf hs
    refine ⟨fun q hq => ?_, fun hnone hleft => ?_⟩
    · obtain ⟨u, hu, hrest⟩ := skipReplica_next hf { f with skipped := f.replica :: f.skipped } rfl hq
      exact ⟨u, hrun.trans (congrArg _ hu), hrest⟩
    · obtain ⟨q, hq, hbit, hout⟩ := hleft
      obtain ⟨u, y, hu, hrest⟩ := skipReplica_ends hf { f with skipped := f.replica :: f.skipped } (status := stLowerTierFail) hnone
        (if_neg fun hall => by
          have := List.all_eq_true.1 hall q (List.mem_range.2 hq)
          simp [hbit, hout] at this) (by decide)
      exact ⟨u, y, hrun.trans (congrArg _ hu), hrest⟩

end Sys2Proof.Machine
end

section
/-! PROOFS. ALLOC.TENSOR and ALLOC.FREE (R235 to R237, R239, R240): what the placement of bales leaves of tensors, and the tensor that an
allocation makes. -/

namespace Sys2Proof.Machine

/-! ## The placement of bales -/

/-- What the placement of its bales leaves of a tensor: all but its bales and whether its allocation has completed, and the number of its
bales. -/
def tensorShape (x : Tensor) : Tensor × Nat := ({ x with bales := [], ready := false }, x.bales.length)

def tensorShapes (s : State) : List (Tensor × Nat) := s.place.tensors.map tensorShape

/-- t differs from s in what the placement of bales may change: bales and readiness of tensors, frames and their marks, and changes of
mappings that wait for a commit. -/
structure Replaced (s t : State) : Prop where
  reframed : Reframed s t
  shapes : tensorShapes t = tensorShapes s

theorem Replaced.refl (s : State) : Replaced s s := ⟨.refl s, rfl⟩

theorem Replaced.trans {s t u : State} (h : Replaced s t) (g : Replaced t u) : Replaced s u :=
  ⟨h.reframed.trans g.reframed, g.shapes.trans h.shapes⟩

/-- Changes of the placement, one for each element of a list. -/
theorem Replaced.each {α : Type} {f : α → State → State} (hf : ∀ a u, Replaced u (f a u)) (l : List α) (s : State) :
    Replaced s (forAll l f s) :=
  forAll_induct (P := Replaced s) (fun a u hu => hu.trans (hf a u)) l (.refl s)

theorem shapes_mapIf {p : Tensor → Bool} {f : Tensor → Tensor} (hf : ∀ x, tensorShape (f x) = tensorShape x) (l : List Tensor) :
    (mapIf p f l).map tensorShape = l.map tensorShape := by
  rw [mapIf, List.map_map]
  refine List.map_congr_left fun x _ => ?_
  simp only [Function.comp]
  split
  · exact hf x
  · rfl

theorem replaced_updTensor (h : Nat) {f : Tensor → Tensor} (hf : ∀ x, tensorShape (f x) = tensorShape x) (s : State) :
    Replaced s (updTensor h f s) := ⟨reframed_updPlace rfl, shapes_mapIf hf s.place.tensors⟩

theorem replaced_updBale (h i : Nat) (f : Bale → Bale) (s : State) : Replaced s (updBale h i f s) :=
  replaced_updTensor h (fun x => by simp [tensorShape]) s

/-- A change that reaches no tensor. -/
theorem Replaced.of_tensors {s t : State} (h : Reframed s t) (e : t.place.tensors = s.place.tensors) : Replaced s t :=
  ⟨h, by rw [tensorShapes, e, tensorShapes]⟩

theorem replaced_zeroing (z : Nat × Nat) (s : State) : Replaced s (updPlace (fun q => { q with zeroing := q.zeroing ++ [z] }) s) :=
  .of_tensors (reframed_updPlace rfl) rfl

theorem entryChange_tensors (h : Nat) (s : State) : (entryChange h s).place = s.place := by
  unfold entryChange
  split
  · exact noteChange_place _ _ s
  · rfl

theorem replaced_toT2 (h i : Nat) (s : State) : Replaced s (toT2 h i s) := by
  refine ⟨reframed_toT2 h i s, ?_⟩
  unfold toT2
  dsimp only
  split
  · rw [tensorShapes, entryChange_tensors]
    exact (replaced_updBale h i _ s).shapes
  · exact (replaced_updBale h i _ s).shapes

theorem replaced_evictBale (h i : Nat) (s : State) : Replaced s (evictBale h i s) := by
  unfold evictBale
  split
  · split
    · exact replaced_updBale h i _ s
    · exact replaced_toT2 h i s
  · exact .refl s

theorem replaced_makeRoomFor (k : Nat) (s : State) : Replaced s (makeRoomFor k s) := by
  unfold makeRoomFor
  split
  · split
    · exact replaced_evictBale _ _ s
    · exact .refl s
  · exact .refl s

theorem replaced_giveFrame (h i : Nat) (s : State) : Replaced s (giveFrame h i s) := by
  unfold giveFrame
  split
  · exact .refl s
  · split
    · exact .refl s
    · dsimp only
      split
      · exact replaced_updBale h i _ s
      · exact (replaced_updBale h i _ s).trans (replaced_zeroing _ _)

theorem replaced_serveFrames (k : Nat) (s : State) : Replaced s (serveFrames k s) := by
  have h : Replaced s (forAll (waitingBales s k) (fun b t => giveFrame b.1 b.2 (makeRoomFor k t)) s) :=
    .each (fun (b : Nat × Nat) u => (replaced_makeRoomFor k u).trans (replaced_giveFrame b.1 b.2 _)) _ s
  unfold serveFrames clearFailed
  split
  · refine h.trans ⟨reframed_updPlace rfl, shapes_mapIf (fun x => ?_) _⟩
    simp [tensorShape]
  · exact h

theorem replaced_reserveHomes (k h n : Nat) (s : State) : Replaced s (reserveHomes k h n s) := by
  refine .each (fun i u => ?_) _ s
  split
  · exact replaced_updBale h i _ u
  · exact .refl u

theorem replaced_placeBales (pick : State → Nat → Option Nat) (k h n : Nat) (s : State) : Replaced s (placeBales pick k h n s) := by
  refine .each (fun i u => ?_) _ s
  dsimp only
  split
  · split
    · exact replaced_updBale h i _ u
    · exact (replaced_updBale h i _ u).trans (replaced_zeroing _ _)
  · exact .refl u

theorem replaced_placeTensor (pl : Placing) (k h n a : Nat) (random : Bool) (s : State) : Replaced s (placeTensor pl k h n a random s) := by
  cases pl with
  | paddocks => exact replaced_placeBales _ k h n s
  | commons => exact replaced_placeBales _ k h n s
  | evicting => exact (replaced_placeBales _ k h n s).trans (replaced_serveFrames k _)
  | window => exact replaced_updTensor h (fun x => by simp [tensorShape]) s
  | none => exact .refl s

theorem replaced_settleNew (h : Nat) (s : State) : Replaced s (settleNew h s) := replaced_updTensor h (fun x => by simp [tensorShape]) s

/-! ## A new tensor -/

/-- A tensor before its placement (R237, R239). -/
def newTensor (p : Post) (ctx : Nat) (random backed : Bool) (va size tag : Nat) (s : State) : Tensor where
  handle := s.place.nextTensor
  part := postTarget p
  size := size
  tag := tag
  rot := (s.part (postTarget p)).allocCount
  random := random
  backed := backed
  maps := [⟨ctx, va, tag⟩]
  bales := List.replicate (ceilDiv size baleBytes) (newBale s)
  load := 0
  ready := false

/-- The state with a new tensor whose bales are not placed (R235). -/
def tensorAdded (k : Nat) (x : Tensor) (s : State) : State :=
  updPlace (fun q => { q with tensors := q.tensors ++ [x], nextTensor := s.place.nextTensor + 1 })
    (updPart k (fun q => { q with allocCount := q.allocCount + 1 }) s)

/-- An allocation that finds room makes its tensor: it completes, or it waits for frames. -/
theorem allocNew_makes {p : Post} {ctx : Nat} {random backed : Bool} {va size tag : Nat} {s : State}
    (hb : backed = true → s.host.linkMode ≤ 2 ∧ ceilDiv size baleBytes ≤ t2Free s (postTarget p) / baleBytes)
    (hpl : choosePlacing s (postTarget p) (ceilDiv size baleBytes) random backed ≠ .none) :
    ∃ u, Replaced (tensorAdded (postTarget p) (newTensor p ctx random backed va size tag s) s) u
      ∧ ((∃ r, allocNew p ctx random backed va size tag s = .done stOk r u)
        ∨ allocNew p ctx random backed va size tag s = .accept none [] ctx (postTarget p) (.alloc ctx s.place.nextTensor) u) := by
  have hmode : (backed && decide (2 < s.host.linkMode)) = false := by
    cases backed with
    | false => rfl
    | true => simp [(hb rfl).1]
  have hroom : (backed && decide (t2Free s (postTarget p) / baleBytes < ceilDiv size baleBytes)) = false := by
    cases backed with
    | false => rfl
    | true => simp [(hb rfl).2]
  unfold allocNew
  extract_lets k n homes pl h a t0 s1 s2 s3
  rw [if_neg (by rw [hmode]; decide), if_neg (by rw [hroom]; decide), if_neg hpl]
  have h2 : Replaced s1 s2 := by
    unfold s2
    split
    · exact replaced_reserveHomes k h n s1
    · exact .refl s1
  have h3 : Replaced s1 s3 := (h2.trans (replaced_placeTensor pl k h n a random s2)).trans (replaced_settleNew h _)
  have hfound : (findTensor s3 h).isSome = true := by
    have hhandles := congrArg (List.map (·.1.handle)) h3.shapes
    simp only [tensorShapes, List.map_map] at hhandles
    rw [findTensor_isSome_of_handles hhandles, findTensor, List.find?_isSome]
    exact ⟨t0, by simp [s1], by simp [t0]⟩
  split
  case h_1 t _ =>
    split
    · exact ⟨_, h3.trans (replaced_updTensor h (fun x => by simp [tensorShape]) s3), .inl ⟨_, rfl⟩⟩
    · exact ⟨s3, h3, .inr rfl⟩
  case h_2 hnone => rw [hnone] at hfound; cases hfound

/-- A tensor that the placement of bales leaves with the shape of another. -/
theorem Replaced.tensor {s t : State} (h : Replaced s t) {x : Tensor} (hx : x ∈ s.place.tensors) :
    ∃ y ∈ t.place.tensors, tensorShape y = tensorShape x := by
  have hmem : tensorShape x ∈ tensorShapes t := h.shapes ▸ List.mem_map_of_mem hx
  exact List.mem_map.1 hmem

/-! ## The commands -/

theorem exec_allocTensor (p : Post) (ctx : Nat) (random backed : Bool) (va size tag src : Nat) (s : State) :
    exec (.allocTensor p ctx random backed va size tag src) s =
      .next (mailbox p rowAllocTensor 4 (allocTensorBody p ctx random backed va size tag src) s) := rfl

theorem allocTensorBody_new {p : Post} {ctx : Nat} {random backed : Bool} {va size tag : Nat} {c : Ctx} {s : State}
    (hctx : checkCtx p ctx s = .ok c) (hva : va % baleBytes = 0) (h64 : 64 ≤ size) (hmax : size ≤ 2 ^ 44) (hmul : size % 64 = 0)
    (hend : va + ceilDiv size baleBytes * baleBytes ≤ 2 ^ 48)
    (hfree : rangeMapped s ctx va (ceilDiv size baleBytes * baleBytes) = false) :
    allocTensorBody p ctx random backed va size tag 0 s = allocNew p ctx random backed va size tag s := by
  have hargs : (size < 64 || 2 ^ 44 < size || size % 64 != 0 || 2 ^ 48 < va + ceilDiv size baleBytes * baleBytes) = false := by
    simp only [Bool.or_eq_false_iff, decide_eq_false_iff_not, bne_eq_false_iff_eq]
    omega
  simp only [allocTensorBody, withCtx, hctx, hva, bne_self_eq_false, Bool.false_eq_true, if_false, hargs, hfree]

theorem allocTensorBody_map {p : Post} {ctx : Nat} {random backed : Bool} {va size tag src : Nat} {c : Ctx} {x : Tensor} {s : State}
    (hctx : checkCtx p ctx s = .ok c) (hva : va % baleBytes = 0) (hsrc : src ≠ 0) (hx : findTensor s src = some x)
    (hpart : x.part = postTarget p) (hend : va + x.bales.length * baleBytes ≤ 2 ^ 48)
    (hfree : rangeMapped s ctx va (x.bales.length * baleBytes) = false) :
    allocTensorBody p ctx random backed va size tag src s = .done stOk (allocResult x ++ zeros 4)
      (updTensor src (fun y => { y with maps := y.maps ++ [⟨ctx, va, tag⟩] }) s) := by
  have hsource : (findTensor s src).filter (fun t => t.part == postTarget p) = some x := by simp [hx, hpart]
  simp only [allocTensorBody, withCtx, hctx, hva, bne_self_eq_false, Bool.false_eq_true, if_false, bne_iff_ne, ne_eq, hsrc,
    not_false_eq_true, if_true, hsource, Nat.not_lt.2 hend, hfree]

theorem allocFreeBody_unmaps {p : Post} {ctx h : Nat} {c : Ctx} {x : Tensor} {s : State} (hctx : checkCtx p ctx s = .ok c)
    (hx : mappedTensor s ctx h = some x) (hfree : freeRefused s ctx x = false) :
    allocFreeBody p ctx h s = .done stOk [] (unmapTensor ctx h s) := by
  simp only [allocFreeBody, withCtx, hctx, hx, hfree, Bool.false_eq_true, if_false]

/-- Settles O18: a new tensor keeps its shape while its bales are placed; a further mapping and an unmapping complete at once. -/
theorem tensorCommands : Obligations.TensorCommands := by
  unfold Obligations.TensorCommands
  intro p ctx c s hctx
  refine ⟨?new, ?map, fun h x hp hx hfree => ?free⟩
  case new =>
    intro random backed va size tag hp hva h64 hmax hmul hend hfree hb hpl
    have hbody := allocTensorBody_new (random := random) (backed := backed) (tag := tag) (s := taken p s) hctx hva h64 hmax hmul hend hfree
    obtain ⟨u, hu, hreply⟩ := allocNew_makes (p := p) (ctx := ctx) (va := va) (tag := tag) (s := taken p s) hb hpl
    have hclock : u.clock = (taken p s).clock := by rw [hu.reframed.same]; rfl
    have hnext : u.place.nextTensor = s.place.nextTensor + 1 := by rw [hu.reframed.place]; rfl
    obtain ⟨y, hy, hshape⟩ := hu.tensor (x := newTensor p ctx random backed va size tag (taken p s)) (by simp [tensorAdded])
    simp only [tensorShape, newTensor, Prod.mk.injEq, Tensor.mk.injEq, List.length_replicate] at hshape
    obtain ⟨⟨hh, hpart, hsize, htag, -, hrandom, hbacked, hmaps, -⟩, hlen⟩ := hshape
    have htensor : ∀ t : State, t.place = u.place → t.place.nextTensor = s.place.nextTensor + 1 ∧ ∃ x ∈ t.place.tensors,
        x.handle = s.place.nextTensor ∧ x.part = postTarget p ∧ x.size = size ∧ x.tag = tag ∧ x.random = random ∧ x.backed = backed
          ∧ x.maps = [⟨ctx, va, tag⟩] ∧ x.bales.length = ceilDiv size baleBytes := fun t ht =>
      ⟨ht ▸ hnext, y, ht ▸ hy, hh, hpart, hsize, htag, hrandom, hbacked, hmaps, hlen⟩
    rcases hreply with ⟨r, hr⟩ | hr
    · have hdone : Completed p stOk r s (finish p stOk r u) := finish_completed (by rw [hclock]; rfl)
      exact ⟨_, (exec_allocTensor ..).trans (congrArg _ (mailbox_finish hp (hbody.trans hr))), .inl hdone.complete,
        htensor _ (finish_place ..)⟩
    · have hstart := start_accepted (p := p) (due := none) (res := []) (c := ctx) (k := postTarget p)
        (j := .alloc ctx s.place.nextTensor) (s := s) (u := u) (by rw [hclock]; rfl)
      exact ⟨_, (exec_allocTensor ..).trans (congrArg _ (mailbox_start hp (hbody.trans hr))), .inr hstart.complete,
        htensor _ (start_place ..)⟩
  case map =>
    intro random backed va size tag src x hp hva hsrc hx hpart hend hfree
    exact (exec_allocTensor ..).trans (congrArg _ (mailbox_finish hp
      (allocTensorBody_map (s := taken p s) hctx hva hsrc hx hpart hend hfree)))
  case free =>
    have hrun : exec (.allocFree p ctx h) s = .next (mailbox p rowAllocFree 1 (allocFreeBody p ctx h) s) := rfl
    exact hrun.trans (congrArg _ (mailbox_finish hp (allocFreeBody_unmaps (s := taken p s) hctx hx hfree)))

end Sys2Proof.Machine
end

section
/-! PROOFS. TIER.PROMOTE where two tensors share a handle (R239, R243, R248): the commands find a tensor by its handle, and no premise of
the statement says that the handles of a state differ. -/

namespace Sys2Proof.Machine

/-! ## Two tensors of one handle -/

/-- A post of PF0 at mailbox 0 with LEN 2. -/
def twinPost : Post := ⟨0, 0, 0, 2, 0, false, false, false⟩

def twinCtx : Ctx := ⟨1, 0, 0, 0, false, false, 0, 0, false, 0, false, 0⟩

/-- A bale in T2, with a frame that its last stay in T1 has left, or without. -/
def twinBale (frame : Option Nat) : Bale := ⟨.inT2, false, none, none, false, true, frame, some t2Base, 0, false, false, false, 0⟩

/-- A tensor of handle 1 with one bale. -/
def twinTensor (frame : Option Nat) : Tensor := ⟨1, 0, 64, 0, 0, false, true, [⟨1, 0, 0⟩], [twinBale frame], 0, true⟩

/-- A ready module without enabled stacks: two tensors have handle 1, and the bale of the first alone has a frame. -/
def twins : State :=
  { State.reset with
    ctxs := [twinCtx]
    place := { State.reset.place with tensors := [twinTensor (some 0), twinTensor none] }
    host := { State.reset.host with funcs := [(0, ⟨true, 2, 0, [], [], [], []⟩)] }
    hbm := { State.reset.hbm with stk := (List.range 20).map fun i => (i, ⟨3, 0, false, 0⟩) }
    power := { State.reset.power with stage := .ready } }

theorem twins_posts : Posts twinPost rowTierPromote 2 twins where
  ready := rfl
  idle := rfl
  free := .inr rfl
  seq := rfl
  len := rfl
  fits := by decide
  plain := rfl
  opened := fun _ => rfl
  version := fun _ _ => rfl
  permitted := fun _ => rfl
  inUse := fun _ => by decide
  vf := fun h => absurd rfl h
  partition := fun _ => by decide
  running := fun _ => by decide

/-- The promotion of bale 0 of handle 1 before its completion: the first tensor's bale has its frame. -/
theorem twins_promoting :
    getBale (startPromotion 1 0 (touchBales 1 [0] (taken twinPost twins))) 1 0 =
      some { twinBale (some 0) with st := .promoting, accessed := true } := by decide +kernel

/-- The status of an answer that is no acceptance. -/
def doneStatus : Reply → Option Nat
  | .done st _ _ => some st
  | .accept .. => none

/-- The second tensor's bale waits for a frame that never comes, so that the command ends with NO_SPACE (R248). -/
theorem twins_starved : ∃ r u, tierPromoteBody twinPost 1 1 0 1 (taken twinPost twins) = .done stNoSpace r u := by
  have hstatus : doneStatus (tierPromoteBody twinPost 1 1 0 1 (taken twinPost twins)) = some stNoSpace := by decide +kernel
  revert hstatus
  cases tierPromoteBody twinPost 1 1 0 1 (taken twinPost twins) with
  | done st r u => rintro ⟨⟩; exact ⟨r, u, rfl⟩
  | accept => exact fun h => nomatch h

/-- Refutes O16: where two tensors share a handle, TIER.PROMOTE of a bale that gets its frame ends with NO_SPACE for the bale of the other
tensor, and is not ACCEPTED. -/
theorem not_tierCommands : ¬ Obligations.TierCommands := by
  unfold Obligations.TierCommands
  rintro ⟨-, h⟩
  obtain ⟨-, -, -, hpromote, -⟩ := h twinPost 1 1 0 twinCtx (twinTensor (some 0)) (twinBale (some 0)) twins rfl rfl rfl rfl
  have hstart := hpromote twins_posts rfl _ twins_promoting rfl rfl
  obtain ⟨r, u, hbody⟩ := twins_starved
  have hrun : exec (.tierPromote twinPost 1 1 0 1) twins =
    .next (mailbox twinPost rowTierPromote 2 (tierPromoteBody twinPost 1 1 0 1) twins) := rfl
  rw [hrun, mailbox_finish twins_posts hbody] at hstart
  have hcomplete := congrArg (fun t : State => (t.mbx twinPost.func twinPost.mbx).complete) (Host.Outcome.next.inj hstart)
  simp only [(finish_completed (p := twinPost) (s := u) (u := u) rfl).complete, (start_accepted (p := twinPost)
    (s := startPromotion 1 0 (touchBales 1 [0] (taken twinPost twins))) rfl).complete] at hcomplete
  exact absurd hcomplete (by decide)

end Sys2Proof.Machine
end

section
/-! PROOFS. The commands that wait for transfers of bales (R243, R245, R248, R297): a command whose last transfer has ended gets its final
completion and leaves its mailbox, and what follows in the same event leaves that completion alone. -/

namespace Sys2Proof.Machine

/-! ## A mailbox that a command has left -/

/-- Two commands in progress of one mailbox. -/
def SameMailbox (x g : InProgress) : Prop := x.post.func = g.post.func ∧ x.post.mbx = g.post.mbx

/-- The mailbox of a command holds its final completion, and no command in progress has that mailbox (R367, R370). -/
structure Vacated (g : InProgress) (status : Nat) (t : State) : Prop where
  complete : (t.mbx g.post.func g.post.mbx).complete = g.post.seq + 65536 * status
  idle : (t.mbx g.post.func g.post.mbx).busy = false
  left : ∀ x ∈ t.host.progs, ¬SameMailbox x g

namespace Vacated

variable {g : InProgress} {status : Nat} {s t : State} (h : Vacated g status s)
include h

theorem ended : Ended g status s := ⟨h.complete, h.idle, fun hg => h.left g hg ⟨rfl, rfl⟩⟩

theorem of_mbx (hp : ∀ x ∈ t.host.progs, x ∈ s.host.progs) (hm : t.mbx g.post.func g.post.mbx = s.mbx g.post.func g.post.mbx) :
    Vacated g status t := ⟨by rw [hm]; exact h.complete, by rw [hm]; exact h.idle, fun x hx => h.left x (hp x hx)⟩

theorem of_host (e : t.host = s.host) : Vacated g status t :=
  h.of_mbx (fun x hx => by rwa [e] at hx) (by simp only [State.mbx, State.func, e])

end Vacated

theorem completeProg_progs (g : InProgress) (st : Nat) (r : List Byte) (s : State) :
    (completeProg g st r s).host.progs = s.host.progs.filter (· != g) := by
  rw [completeProg, writeCompletion_progs]
  rfl

theorem mbx_completeProg_other {x g : InProgress} (hx : ¬SameMailbox x g) (st : Nat) (r : List Byte) (s : State) :
    (completeProg x st r s).mbx g.post.func g.post.mbx = s.mbx g.post.func g.post.mbx := by
  rw [completeProg, mbx_writeCompletion_other _ _ _ _ _ _ _ _ _ _ fun e => hx ⟨e.1.symm, e.2.symm⟩]
  rfl

/-- The completion of the only command of a mailbox vacates it. -/
theorem vacated_completeProg {x g : InProgress} {s : State} (hp : x.post = g.post)
    (hs : ∀ y ∈ s.host.progs, SameMailbox y g → y = x) (st : Nat) (r : List Byte) : Vacated g st (completeProg x st r s) where
  complete := by rw [← hp, completeProg, mbx_writeCompletion]
  idle := by rw [← hp, completeProg, mbx_writeCompletion]; rfl
  left := fun y hy hsame => by
    rw [completeProg_progs, List.mem_filter] at hy
    have hne : y ≠ x := by simpa using hy.2
    exact hne (hs y hy.1 hsame)

/-! ## What an event leaves alone after a completion -/

/-- No command in progress allocates tensor h. -/
def NoAlloc (h : Nat) (s : State) : Prop := ∀ g ∈ s.host.progs, ∀ c, g.job ≠ .alloc c h

/-- From s to t no byte of memory changes, no command is added and none gets the work of an allocation, and of the mailboxes that have
been vacated in s only those that satisfy X may change. -/
structure TendedBut (X : InProgress → Prop) (s t : State) : Prop where
  t1 : t.hbm.t1 = s.hbm.t1
  t2 : t.hbm.t2 = s.hbm.t2
  vacated : ∀ g st, ¬X g → Vacated g st s → Vacated g st t
  noAlloc : ∀ h, NoAlloc h s → NoAlloc h t

/-- From s to t no byte of memory and no vacated mailbox changes. -/
abbrev Tended (s t : State) : Prop := TendedBut (fun _ => False) s t

namespace TendedBut

variable {X : InProgress → Prop} {s t u : State}

theorem refl (X : InProgress → Prop) (s : State) : TendedBut X s s := ⟨rfl, rfl, fun _ _ _ h => h, fun _ h => h⟩

theorem trans (h : TendedBut X s t) (k : TendedBut X t u) : TendedBut X s u :=
  ⟨k.t1.trans h.t1, k.t2.trans h.t2, fun g st hx hv => k.vacated g st hx (h.vacated g st hx hv), fun i hi => k.noAlloc i (h.noAlloc i hi)⟩

theorem of_host (e : t.host = s.host) (h1 : t.hbm.t1 = s.hbm.t1) (h2 : t.hbm.t2 = s.hbm.t2) : TendedBut X s t :=
  ⟨h1, h2, fun _ _ _ hv => hv.of_host e, fun _ hi g hg => hi g (by rwa [e] at hg)⟩

theorem each {α : Type} {f : α → State → State} (hf : ∀ a u, TendedBut X u (f a u)) (l : List α) (s : State) :
    TendedBut X s (forAll l f s) :=
  forAll_induct (P := TendedBut X s) (fun a u hu => hu.trans (hf a u)) l (.refl X s)

theorem mono {Y : InProgress → Prop} (h : TendedBut X s t) (hXY : ∀ g, X g → Y g) : TendedBut Y s t :=
  ⟨h.t1, h.t2, fun g st hy => h.vacated g st fun hx => hy (hXY g hx), h.noAlloc⟩

/-- Changes for commands in progress reach no vacated mailbox. -/
theorem ofProgs {f : InProgress → State → State} (hf : ∀ x u, TendedBut (SameMailbox x) u (f x u)) {l : List InProgress}
    (hl : ∀ x ∈ l, x ∈ s.host.progs) : Tended s (forAll l f s) where
  t1 := forAll_fixed (fun u : State => u.hbm.t1) (fun x u => (hf x u).t1) l s
  t2 := forAll_fixed (fun u : State => u.hbm.t2) (fun x u => (hf x u).t2) l s
  vacated := fun g st _ hv =>
    forAll_induct_mem (P := Vacated g st) (fun x hx u hu => (hf x u).vacated g st (hv.left x (hl x hx)) hu) hv
  noAlloc := fun i hi => forAll_induct (P := NoAlloc i) (fun x u hu => (hf x u).noAlloc i hu) l hi

end TendedBut

theorem tended_updPlace {X : InProgress → Prop} (f : Placement → Placement) (s : State) : TendedBut X s (updPlace f s) := .of_host rfl rfl rfl

theorem tended_updTensor {X : InProgress → Prop} (h : Nat) (f : Tensor → Tensor) (s : State) : TendedBut X s (updTensor h f s) :=
  tended_updPlace _ s

theorem tended_updBale {X : InProgress → Prop} (h i : Nat) (f : Bale → Bale) (s : State) : TendedBut X s (updBale h i f s) :=
  tended_updTensor h _ s

theorem tended_unmarkFrame {X : InProgress → Prop} (f : Nat) (s : State) : TendedBut X s (unmarkFrame f s) := .of_host rfl rfl rfl

theorem tended_told {X : InProgress → Prop} {s t : State} (h : Told s t) : TendedBut X s t :=
  ⟨by rw [h.hbm], by rw [h.hbm], fun _ _ _ hv => hv.of_mbx (fun x hx => by rwa [h.progs] at hx) (h.mbx _ _),
    fun _ hi g hg => hi g (by rwa [h.progs] at hg)⟩

theorem tended_completeProg (x : InProgress) (st : Nat) (r : List Byte) (s : State) :
    TendedBut (SameMailbox x) s (completeProg x st r s) := by
  have hsub : ∀ y ∈ (completeProg x st r s).host.progs, y ∈ s.host.progs := fun y hy => by
    rw [completeProg_progs] at hy
    exact List.mem_of_mem_filter hy
  obtain ⟨o, v, e⟩ := completeProg_same x st r s
  exact ⟨by rw [e], by rw [e], fun g st' hx hv => hv.of_mbx hsub (mbx_completeProg_other hx st r s), fun i hi y hy => hi y (hsub y hy)⟩

theorem tended_completeAll (f : InProgress → Bool) (st : Nat) (s : State) : Tended s (completeAll f st s) :=
  .ofProgs (fun x => tended_completeProg x st []) fun _ hx => List.mem_of_mem_filter hx

theorem tended_reframed {s t : State} (h : Reframed s t) : Tended s t :=
  .of_host (by rw [h.same]) (by rw [h.hbm]) (by rw [h.hbm])

/-! ## The commands that joined a transfer (R243, R245) -/

/-- A command in progress is completed where it waits for no bale any more. -/
def finishJob (g : InProgress) (t : State) : State :=
  match g.job with
  | .tier ev _ [] f d sh => completeProg g (tierFinal ev f d sh).1 (tierFinal ev f d sh).2 t
  | _ => t

theorem finishTier_eq (s : State) : finishTier s = forAll s.host.progs finishJob s := rfl

theorem finishJob_cases (g : InProgress) (t : State) : finishJob g t = t ∨ ∃ st r, finishJob g t = completeProg g st r t := by
  unfold finishJob
  split
  · exact .inr ⟨_, _, rfl⟩
  · exact .inl rfl

theorem tended_finishJob (g : InProgress) (t : State) : TendedBut (SameMailbox g) t (finishJob g t) := by
  rcases finishJob_cases g t with e | ⟨st, r, e⟩
  · rw [e]; exact .refl _ t
  · rw [e]; exact tended_completeProg g st r t

theorem finishJob_progs (g : InProgress) (t : State) : ∀ x ∈ (finishJob g t).host.progs, x ∈ t.host.progs := fun x hx => by
  rcases finishJob_cases g t with e | ⟨st, r, e⟩
  · rwa [e] at hx
  · rw [e, completeProg_progs] at hx
    exact List.mem_of_mem_filter hx

/-- The state in which the commands that joined a transfer know that it has ended. -/
def jobsSettled (evict : Bool) (h i : Nat) (e : TransferEnd) (s : State) : State :=
  updHost (fun p => { p with progs := p.progs.map fun g => { g with job := settleJob evict h i e g.job } }) s

theorem settle_eq (evict : Bool) (h i : Nat) (e : TransferEnd) (s : State) : settle evict h i e s = finishTier (jobsSettled evict h i e s) := rfl

theorem settleJob_alloc {evict : Bool} {h i : Nat} {e : TransferEnd} {j : Job} {c k : Nat} (hj : settleJob evict h i e j = .alloc c k) :
    j = .alloc c k := by
  unfold settleJob at hj
  split at hj
  · split at hj <;> cases hj
  · exact hj

theorem mem_jobsSettled {evict : Bool} {h i : Nat} {e : TransferEnd} {s : State} {x : InProgress}
    (hx : x ∈ (jobsSettled evict h i e s).host.progs) : ∃ y ∈ s.host.progs, { y with job := settleJob evict h i e y.job } = x :=
  List.mem_map.1 hx

theorem tended_settle (evict : Bool) (h i : Nat) (e : TransferEnd) (s : State) : Tended s (settle evict h i e s) := by
  have hjobs : Tended s (jobsSettled evict h i e s) := by
    refine ⟨rfl, rfl, fun g st _ hv => ⟨hv.complete, hv.idle, fun x hx => ?_⟩, fun k hk x hx c hc => ?_⟩
    · obtain ⟨y, hy, rfl⟩ := mem_jobsSettled hx
      exact hv.left y hy
    · obtain ⟨y, hy, rfl⟩ := mem_jobsSettled hx
      exact hk y hy c (settleJob_alloc hc)
  exact hjobs.trans (.ofProgs tended_finishJob fun _ hx => hx)

/-- Finishing the commands of a list vacates the mailbox of one that waits for no bale, where it is alone in its mailbox. -/
theorem forAll_finishJob_vacates {x g : InProgress} (hp : x.post = g.post) {ev : Bool} {h f d sh : Nat} (hj : x.job = .tier ev h [] f d sh) :
    ∀ {l : List InProgress}, (∀ y ∈ l, SameMailbox y g → y = x) → ∀ {s : State}, (∀ y ∈ s.host.progs, SameMailbox y g → y = x) →
      x ∈ l ∨ Vacated g (tierFinal ev f d sh).1 s → Vacated g (tierFinal ev f d sh).1 (forAll l finishJob s)
  | [], _, _, _, hor => hor.resolve_left (by simp)
  | y :: l, hl, s, hs, hor => by
    have hl' : ∀ z ∈ l, SameMailbox z g → z = x := fun z hz => hl z (List.mem_cons_of_mem y hz)
    have hs' : ∀ z ∈ (finishJob y s).host.progs, SameMailbox z g → z = x := fun z hz => hs z (finishJob_progs y s z hz)
    rw [forAll_cons]
    refine forAll_finishJob_vacates hp hj hl' hs' ?_
    by_cases hy : SameMailbox y g
    · obtain rfl := hl y List.mem_cons_self hy
      have hdone : finishJob y s = completeProg y (tierFinal ev f d sh).1 (tierFinal ev f d sh).2 s := by simp only [finishJob, hj]
      rw [hdone]
      exact .inr (vacated_completeProg hp hs _ _)
    · rcases hor with hx | hv
      · have hne : x ≠ y := fun e => hy (e ▸ ⟨congrArg Post.func hp, congrArg Post.mbx hp⟩)
        exact .inl ((List.mem_cons.1 hx).resolve_left hne)
      · exact .inr ((tended_finishJob y s).vacated g _ hy hv)

/-- The end of the one transfer that a command waits for completes it. -/
theorem settle_vacates {g : InProgress} {s : State} (hg : Sole g s) {evict : Bool} {h i : Nat} (hj : g.job = .tier evict h [i] 0 0 0)
    (e : TransferEnd) : Vacated g (tierFinal evict (if e = .failed then 1 else 0) 0 (if e = .short then 1 else 0)).1 (settle evict h i e s) := by
  obtain ⟨hmem, halone⟩ := hg
  have hjob : settleJob evict h i e g.job = .tier evict h [] (if e = .failed then 1 else 0) 0 (if e = .short then 1 else 0) := by
    rw [hj]
    simp [settleJob]
  have hsole : ∀ y ∈ (jobsSettled evict h i e s).host.progs, SameMailbox y g → y = { g with job := settleJob evict h i e g.job } := by
    intro y hy hsame
    obtain ⟨z, hz, rfl⟩ := mem_jobsSettled hy
    rw [halone z hz hsame.1 hsame.2]
  exact forAll_finishJob_vacates (g := g) (x := { g with job := settleJob evict h i e g.job }) rfl hjob hsole hsole (.inl (List.mem_map_of_mem hmem))

/-! ## The other work of an event -/

theorem tended_finishAllocs (s : State) : Tended s (finishAllocs s) := by
  refine .ofProgs (fun x u => ?_) fun _ hx => hx
  split
  · split
    · split
      · exact (tended_updTensor _ _ u).trans (tended_completeProg x _ _ _)
      · exact .refl _ u
    · exact tended_completeProg x _ _ u
  · exact .refl _ u

theorem tended_dropTensor (h : Nat) (s : State) : Tended s (dropTensor h s) := by
  unfold dropTensor
  split
  · exact .refl _ s
  · extract_lets s1 s2
    have h2 : Tended s s2 := (tended_updPlace _ s).trans (.each tended_unmarkFrame _ s1)
    exact h2.trans (.each (fun i u => (tended_settle false h i .ok u).trans (tended_settle true h i .ok _)) _ s2)

theorem tended_failAllocs (k : Nat) (s : State) : Tended s (failAllocs k s) := by
  refine .ofProgs (fun x u => ?_) fun _ hx => hx
  split
  · split
    · exact (tended_completeProg x _ _ u).trans ((tended_dropTensor _ _).mono fun _ h => h.elim)
    · exact .refl _ u
  · exact .refl _ u

theorem tended_failWaiting (k : Nat) (e : TransferEnd) (s : State) : Tended s (failWaiting k e s) :=
  .each (fun (b : Nat × Nat) u => (tended_updBale b.1 b.2 _ u).trans (tended_settle false b.1 b.2 e _)) _ s

theorem tended_makeResident (k h : Nat) (s : State) : Tended s (makeResident k h s) :=
  TendedBut.trans (t := updPart k _ (updCtx h _ s)) (.of_host rfl rfl rfl) (tended_completeAll _ _ _)

theorem tended_finishSwaps (k : Nat) (s : State) : Tended s (finishSwaps k s) := by
  refine .each (fun e u => ?_) _ s
  split
  · exact .refl _ u
  · extract_lets v
    have hv : Tended u v := .of_host rfl rfl rfl
    split
    · split
      · exact hv.trans (tended_makeResident k _ v)
      · exact hv
    · exact hv

end Sys2Proof.Machine
end

section
/-! PROOFS. One bale while others are served (R235, R242 to R248): what holds of a bale, and of every bale of its number under its
handle, while frames are given to bales that wait, bales are evicted and transfers are settled. -/

namespace Sys2Proof.Machine

/-! ## What holds of a bale -/

/-- Bale i of tensor h is there and satisfies D; every bale i of a tensor of handle h satisfies U. -/
structure BaleIs (h i : Nat) (D U : Bale → Prop) (s : State) : Prop where
  found : ∃ d, getBale s h i = some d ∧ D d
  every : ∀ x ∈ s.place.tensors, x.handle = h → ∀ b, x.bales[i]? = some b → U b

variable {h i : Nat} {D D' U U' : Bale → Prop} {s t : State}

theorem baleIs_of_get {b : Bale} (hb : getBale s h i = some b) : BaleIs h i (· = b) (fun _ => True) s :=
  ⟨⟨b, hb, rfl⟩, fun _ _ _ _ _ => trivial⟩

theorem BaleIs.of_tensors (hs : BaleIs h i D U s) (e : t.place.tensors = s.place.tensors) : BaleIs h i D U t :=
  ⟨by rw [getBale_of_tensors e]; exact hs.found, by rw [e]; exact hs.every⟩

/-- A change of every tensor that changes each bale i of a tensor of handle h by a function that leads from D to D' and from U to U'. -/
theorem BaleIs.map {G : Tensor → Tensor} (hs : BaleIs h i D U s) (e : t.place.tensors = s.place.tensors.map G)
    (hG : ∀ x, (G x).handle = x.handle) (hg : ∀ x, x.handle = h → ∃ g : Bale → Bale, (G x).bales[i]? = (x.bales[i]?).map g
      ∧ (∀ b, D b → D' (g b)) ∧ ∀ b, U b → U' (g b)) : BaleIs h i D' U' t where
  found := by
    obtain ⟨d, hd, hD⟩ := hs.found
    obtain ⟨x, hx, hxd⟩ := Option.bind_eq_some_iff.1 hd
    obtain ⟨g, hbale, hDg, -⟩ := hg x (findTensor_handle hx)
    have hfind : findTensor t h = some (G x) := by
      have htest : ((fun y : Tensor => y.handle == h) ∘ G) = fun y => y.handle == h := funext fun y => by simp [hG]
      rw [findTensor, e, List.find?_map, htest]
      rw [findTensor] at hx
      rw [hx]
      rfl
    exact ⟨g d, by rw [getBale_of_find hfind, hbale, hxd]; rfl, hDg d hD⟩
  every := fun y hy hh b hb => by
    rw [e] at hy
    obtain ⟨x, hx, rfl⟩ := List.mem_map.1 hy
    rw [hG] at hh
    obtain ⟨g, hbale, -, hUg⟩ := hg x hh
    rw [hbale] at hb
    obtain ⟨a, ha, rfl⟩ := Option.map_eq_some_iff.1 hb
    exact hUg a (hs.every x hx hh a ha)

/-- A change of a tensor that leaves its bales alone. -/
theorem BaleIs.updTensor (hs : BaleIs h i D U s) (k : Nat) {f : Tensor → Tensor} (hf : ∀ x, (f x).handle = x.handle)
    (hb : ∀ x, (f x).bales = x.bales) : BaleIs h i D U (updTensor k f s) :=
  hs.map (G := fun x => if x.handle == k then f x else x) rfl (fun x => by split <;> simp [hf]) fun x _ =>
    ⟨id, by split <;> simp [hb], fun _ hd => hd, fun _ hu => hu⟩

/-- A change of one bale. -/
theorem BaleIs.updBale (hs : BaleIs h i D U s) (k j : Nat) {f : Bale → Bale} (hD : ∀ b, D b → D' (if h = k ∧ i = j then f b else b))
    (hU : ∀ b, U b → U' (if h = k ∧ i = j then f b else b)) : BaleIs h i D' U' (updBale k j f s) :=
  hs.map (G := fun x => if x.handle == k then { x with bales := setAt x.bales j f } else x) rfl
    (fun x => by split <;> rfl) fun x hx => ⟨fun b => if h = k ∧ i = j then f b else b, by
      subst hx
      by_cases hk : x.handle = k <;> simp [hk, setAt_getElem?], hD, hU⟩

theorem BaleIs.updBale_same (hs : BaleIs h i D U s) {f : Bale → Bale} (hD : ∀ b, D b → D' (f b)) (hU : ∀ b, U b → U' (f b)) :
    BaleIs h i D' U' (Machine.updBale h i f s) :=
  hs.updBale h i (fun b hb => by rw [if_pos ⟨rfl, rfl⟩]; exact hD b hb) fun b hb => by rw [if_pos ⟨rfl, rfl⟩]; exact hU b hb

theorem BaleIs.updBale_other (hs : BaleIs h i D U s) {k j : Nat} (hne : ¬(h = k ∧ i = j)) (f : Bale → Bale) :
    BaleIs h i D U (Machine.updBale k j f s) :=
  hs.updBale k j (fun b hb => by rw [if_neg hne]; exact hb) fun b hb => by rw [if_neg hne]; exact hb

/-! ## Evictions (R243, R248) -/

theorem toT2_tensors (k j : Nat) (s : State) : (toT2 k j s).place.tensors =
    (updBale k j (fun b => { b with st := .inT2, frame := none, dirty := false, intent := false }) s).place.tensors := by
  unfold toT2
  dsimp only
  split
  · rw [entryChange_tensors]; rfl
  · rfl

theorem BaleIs.evictBale_other (hs : BaleIs h i D U s) {k j : Nat} (hne : ¬(h = k ∧ i = j)) : BaleIs h i D U (evictBale k j s) := by
  unfold evictBale
  split
  · split
    · exact hs.updBale_other hne _
    · exact (hs.updBale_other hne _).of_tensors (toT2_tensors k j s)
  · exact hs

/-- A bale that R248 may evict. -/
theorem mem_evictable {k : Nat} {e : Nat × Nat × Nat} (he : e ∈ evictable s k) : ∃ x ∈ s.place.tensors, x.handle = e.2.1
    ∧ ∃ b, x.bales[e.2.2]? = some b ∧ b.st = .resident ∧ b.wbFailed = false := by
  obtain ⟨x, hx, hin⟩ := List.mem_flatMap.1 he
  obtain ⟨⟨b, j⟩, hz, hb⟩ := List.mem_filterMap.1 hin
  simp only [Option.ite_none_right_eq_some, Option.some.injEq, Bool.and_eq_true, Bool.not_eq_true', beq_iff_eq] at hb
  obtain ⟨⟨⟨hst, hw⟩, -⟩, rfl⟩ := hb
  exact ⟨x, List.mem_of_mem_filter hx, rfl, b, List.mem_zipIdx_iff_getElem?.1 hz, hst, hw⟩

theorem nextVictim_mem {k : Nat} {v : Nat × Nat × Nat} (hv : nextVictim s k = some v) : v ∈ evictable s k := by
  have key : ∀ (l : List (Nat × Nat × Nat)) (m : Option (Nat × Nat × Nat)), l.foldl (fun m e => match m with
      | none => some e
      | some x => if evictBefore e x then some e else some x) m = some v → m = some v ∨ v ∈ l := by
    intro l
    induction l with
    | nil => exact fun m hm => .inl hm
    | cons e l ih =>
      intro m hm
      rcases ih _ hm with he | hl
      · cases m with
        | none => exact .inr (by simpa using .inl (Option.some.inj he).symm)
        | some x =>
          dsimp only at he
          split at he
          · exact .inr (by simpa using .inl (Option.some.inj he).symm)
          · exact .inl he
      · exact .inr (List.mem_cons_of_mem e hl)
  exact (key _ none hv).resolve_left (by simp)

/-- A bale that R248 may not evict stays while room is made. -/
theorem BaleIs.makeRoomFor (hs : BaleIs h i D U s) (hU : ∀ b, U b → ¬(b.st = .resident ∧ b.wbFailed = false)) (k : Nat) :
    BaleIs h i D U (makeRoomFor k s) := by
  unfold Machine.makeRoomFor
  split
  · split
    case h_1 v hv =>
      obtain ⟨x, hx, hh, b, hb, hst, hw⟩ := mem_evictable (nextVictim_mem hv)
      refine hs.evictBale_other ?_
      rintro ⟨rfl, rfl⟩
      exact hU b (hs.every x hx hh b hb) ⟨hst, hw⟩
    case h_2 => exact hs
  · exact hs

/-! ## Frames for bales that wait (R235, R248) -/

/-- What holds of a bale whatever its frame and the beat of its request. -/
def AnyFrame (P : Bale → Prop) : Prop := ∀ b f n, P b → P { b with frame := f, asked := n }

theorem BaleIs.giveFrame (hs : BaleIs h i D U s) {k j : Nat} (hf : h = k ∧ i = j → AnyFrame D ∧ AnyFrame U) :
    BaleIs h i D U (giveFrame k j s) := by
  unfold Machine.giveFrame
  split
  · exact hs
  · split
    · exact hs
    · rename_i f _
      have hgive : BaleIs h i D U (Machine.updBale k j (fun b => { b with frame := some f, asked := s.clock.elapsed }) s) :=
        hs.updBale k j
          (fun b hb => by
            split
            · rename_i e; exact (hf e).1 b _ _ hb
            · exact hb)
          fun b hb => by
            split
            · rename_i e; exact (hf e).2 b _ _ hb
            · exact hb
      dsimp only
      split
      · exact hgive
      · exact hgive.of_tensors rfl

theorem mem_waitingBales {k : Nat} {e : Nat × Nat} (he : e ∈ waitingBales s k) : ∃ x ∈ s.place.tensors, x.handle = e.1
    ∧ ∃ b, x.bales[e.2]? = some b ∧ b.st = .promoting := by
  obtain ⟨x, hx, hin⟩ := List.mem_flatMap.1 he
  obtain ⟨⟨b, j⟩, hz, hb⟩ := List.mem_filterMap.1 hin
  simp only [Option.ite_none_right_eq_some, Option.some.injEq, Bool.and_eq_true, beq_iff_eq] at hb
  obtain ⟨⟨hst, -⟩, rfl⟩ := hb
  exact ⟨x, List.mem_of_mem_filter hx, rfl, b, List.mem_zipIdx_iff_getElem?.1 hz, hst⟩

/-- A bale that no tensor of its handle has waiting is none of those that wait. -/
theorem BaleIs.not_waiting (hs : BaleIs h i D U s) (hU : ∀ b, U b → b.st ≠ .promoting) {k : Nat} {e : Nat × Nat}
    (he : e ∈ waitingBales s k) : ¬(h = e.1 ∧ i = e.2) := by
  rintro ⟨rfl, rfl⟩
  obtain ⟨x, hx, hh, b, hb, hst⟩ := mem_waitingBales he
  exact hU b (hs.every x hx hh b hb) hst

/-- Clearing the marks of failed write-backs changes nothing else of a bale. -/
theorem BaleIs.clearFailed (hs : BaleIs h i D U s) (hD : ∀ b, D b → D { b with wbFailed := false })
    (hU : ∀ b, U b → U' b ∧ U' { b with wbFailed := false }) (k : Nat) : BaleIs h i D U' (clearFailed k s) := by
  unfold Machine.clearFailed
  split
  · refine hs.map (G := fun x => if x.part == k then { x with bales := x.bales.map fun b => { b with wbFailed := false } } else x) rfl
      (fun x => by split <;> rfl) fun x _ => ?_
    split
    · exact ⟨fun b => { b with wbFailed := false }, by simp, hD, fun b hb => (hU b hb).2⟩
    · exact ⟨id, by simp, fun _ hb => hb, fun b hb => (hU b hb).1⟩
  · exact ⟨hs.found, fun x hx hh b hb => (hU b (hs.every x hx hh b hb)).1⟩

/-- A bale that may not be evicted keeps what holds of it while bales are served: where it may wait itself, what holds whatever its
frame. -/
theorem BaleIs.serveFrames (hs : BaleIs h i D U s) (hspared : ∀ b, U b → ¬(b.st = .resident ∧ b.wbFailed = false))
    (hw : (∀ b, U b → b.st ≠ .promoting) ∨ (AnyFrame D ∧ AnyFrame U)) (hD : ∀ b, D b → D { b with wbFailed := false })
    (hU : ∀ b, U b → U' b ∧ U' { b with wbFailed := false }) (k : Nat) : BaleIs h i D U' (serveFrames k s) := by
  refine BaleIs.clearFailed ?_ hD hU k
  refine forAll_induct_mem (P := BaleIs h i D U) (fun e he u hu => ?_) hs
  refine (hu.makeRoomFor hspared k).giveFrame fun hsame => ?_
  exact hw.resolve_left fun hst => hs.not_waiting hst he hsame

/-! ## Commands that are settled, and tensors that are dropped -/

/-- Settling a transfer changes mailboxes and what is sent alone. -/
theorem settle_same (evict : Bool) (k j : Nat) (e : TransferEnd) (s : State) : ∃ o v, settle evict k j e s = { s with host := o, out := v } := by
  rw [settle_eq, finishTier_eq]
  refine forAll_induct (P := fun u => ∃ o v, u = { s with host := o, out := v }) ?_ _ ⟨(jobsSettled evict k j e s).host, s.out, rfl⟩
  rintro g u ⟨o, v, rfl⟩
  rcases finishJob_cases g { s with host := o, out := v } with e | ⟨st, r, e⟩
  · exact ⟨o, v, e⟩
  · obtain ⟨o', v', e'⟩ := completeProg_same g st r { s with host := o, out := v }
    exact ⟨o', v', e.trans e'⟩

theorem settle_place (evict : Bool) (k j : Nat) (e : TransferEnd) (s : State) : (settle evict k j e s).place = s.place := by
  obtain ⟨o, v, e⟩ := settle_same evict k j e s
  rw [e]

theorem completeProg_place (g : InProgress) (st : Nat) (r : List Byte) (s : State) : (completeProg g st r s).place = s.place := by
  obtain ⟨o, v, e⟩ := completeProg_same g st r s
  rw [e]

theorem BaleIs.finishAllocs (hs : BaleIs h i D U s) : BaleIs h i D U (finishAllocs s) := by
  refine forAll_induct (P := BaleIs h i D U) (fun g u hu => ?_) _ hs
  split
  · split
    · split
      · refine BaleIs.of_tensors (s := Machine.updTensor _ (fun x => { x with ready := true }) u) ?_ (congrArg _ (completeProg_place _ _ _ _))
        exact hu.updTensor _ (fun _ => rfl) fun _ => rfl
      · exact hu
    · exact hu.of_tensors (congrArg _ (completeProg_place _ _ _ _))
  · exact hu

theorem BaleIs.dropTensor_other (hs : BaleIs h i D U s) {k : Nat} (hk : h ≠ k) : BaleIs h i D U (dropTensor k s) := by
  unfold dropTensor
  split
  · exact hs
  · extract_lets s1 s2
    have h1 : BaleIs h i D U s1 := by
      have hfind : findTensor s1 h = findTensor s h := by
        have hfilter : findTensor s1 h = (s.place.tensors.filter fun x => x.handle != k).find? fun x => x.handle == h := rfl
        rw [hfilter, List.find?_filter]
        exact congrArg (List.find? · _) (funext fun x => by by_cases hx : x.handle = h <;> simp [hx, hk])
      exact ⟨by rw [getBale, hfind]; exact hs.found, fun x hx => hs.every x (List.mem_of_mem_filter hx)⟩
    have h2 : s2.place = s1.place := forAll_fixed State.place (f := unmarkFrame) (fun _ _ => rfl) _ s1
    refine h1.of_tensors (congrArg Placement.tensors ((forAll_fixed State.place (fun j u => ?_) _ s2).trans h2))
    rw [settle_place, settle_place]

theorem BaleIs.failAllocs (hs : BaleIs h i D U s) (ha : NoAlloc h s) (k : Nat) : BaleIs h i D U (failAllocs k s) := by
  refine forAll_induct_mem (P := BaleIs h i D U) (fun g hg u hu => ?_) hs
  split
  · rename_i c k' hj
    split
    · refine BaleIs.dropTensor_other (hu.of_tensors (congrArg _ (completeProg_place _ _ _ _))) ?_
      rintro rfl
      exact ha g hg c hj
    · exact hu
  · exact hu

theorem BaleIs.failWaiting (hs : BaleIs h i D U s) (hU : ∀ b, U b → b.st ≠ .promoting) (k : Nat) (e : TransferEnd) :
    BaleIs h i D U (failWaiting k e s) := by
  refine forAll_induct_mem (P := BaleIs h i D U) (fun b hb u hu => ?_) hs
  exact (hu.updBale_other (hs.not_waiting hU (List.mem_of_mem_drop hb)) _).of_tensors (congrArg _ (settle_place _ _ _ _ _))

theorem finishSwaps_place (k : Nat) (s : State) : (finishSwaps k s).place = s.place := by
  have hcomplete : ∀ f st u, (completeAll f st u).place = u.place := fun f st u =>
    forAll_fixed State.place (fun g => completeProg_place g st []) _ u
  refine forAll_fixed State.place (fun e u => ?_) _ s
  split
  · rfl
  · dsimp only
    split
    · split
      · exact hcomplete _ _ _
      · rfl
    · rfl

end Sys2Proof.Machine
end

section
/-! PROOFS. The ends of promotions and write-backs, and the T2 responses and timeouts (R243 to R246, R248, R262, R357). -/

namespace Sys2Proof.Machine

/-! ## Holds (R246) -/

/-- Whether a bale is held depends on the RUNs, the host copies and the codec alone. -/
theorem held_congr {s t : State} (hm : t.mode = s.mode) (hr : ∀ k, runsOf (t.part k) = runsOf (s.part k))
    (hc : t.host.copies = s.host.copies) (hx : t.codec = s.codec) (b : Nat × Nat) : held t b = held s b := by
  simp only [held, holders, runHolders, allRuns, partList, hm, hr, hc, hx]

theorem runsOf_entryChange (h : Nat) (s : State) (k : Nat) : runsOf ((entryChange h s).part k) = runsOf (s.part k) := by
  unfold entryChange noteChange
  split
  · split
    · rw [part_updPart]
      split
      · rename_i e; rw [e]; rfl
      · rfl
    · rfl
  · rfl

theorem completeProg_copies (g : InProgress) (st : Nat) (r : List Byte) (s : State) :
    (completeProg g st r s).host.copies = s.host.copies := by
  obtain ⟨f, hf⟩ := completeProg_told st s g r
  exact hf.copies

theorem settle_copies (evict : Bool) (h i : Nat) (e : TransferEnd) (s : State) : (settle evict h i e s).host.copies = s.host.copies := by
  rw [settle_eq, finishTier_eq]
  refine (forAll_fixed (fun u : State => u.host.copies) (fun g u => ?_) _ _).trans rfl
  rcases finishJob_cases g u with e | ⟨st, r, e⟩
  · rw [e]
  · rw [e, completeProg_copies]

theorem finishAllocs_copies (s : State) : (finishAllocs s).host.copies = s.host.copies := by
  refine forAll_fixed (fun u : State => u.host.copies) (fun g u => ?_) _ s
  split
  · split
    · split
      · exact completeProg_copies _ _ _ _
      · rfl
    · exact completeProg_copies _ _ _ _
  · rfl

theorem held_finishAllocs_settle (evict : Bool) (h i : Nat) (e : TransferEnd) (s : State) (b : Nat × Nat) :
    held (finishAllocs (settle evict h i e s)) b = held s b := by
  obtain ⟨l, o, v, ha⟩ := finishAllocs_same (settle evict h i e s)
  obtain ⟨o', v', hs⟩ := settle_same evict h i e s
  refine held_congr (by rw [ha, hs]) (fun k => by rw [ha, hs]; rfl) ((finishAllocs_copies _).trans (settle_copies _ _ _ _ _)) (by rw [ha, hs]) b

/-! ## What the end of a transfer leaves -/

/-- After the end of a transfer of bale i of tensor h: what holds of the bale, the bytes of T1 and T2, and the final completion of a
command that waited for this transfer alone. -/
structure TransferLeft (h i : Nat) (D : Bale → Prop) (m1 m2 : Table Byte) (evict : Bool) (status : Nat) (s t : State) : Prop where
  bale : ∃ d, getBale t h i = some d ∧ D d
  t1 : t.hbm.t1 = m1
  t2 : t.hbm.t2 = m2
  ended : ∀ g, Sole g s → g.job = .tier evict h [i] 0 0 0 → Ended g status t

/-- Once the commands of a transfer are settled, what follows leaves the completions alone. -/
theorem transferLeft_of {h i : Nat} {D U : Bale → Prop} {evict : Bool} {e : TransferEnd} {s u t : State} (hh : u.host = s.host)
    (ht : Tended (settle evict h i e u) t) (hb : BaleIs h i D U t) : TransferLeft h i D u.hbm.t1 u.hbm.t2 evict
      (tierFinal evict (if e = .failed then 1 else 0) 0 (if e = .short then 1 else 0)).1 s t where
  bale := hb.found
  t1 := ht.t1.trans (tended_settle evict h i e u).t1
  t2 := ht.t2.trans (tended_settle evict h i e u).t2
  ended := fun g hg hj => by
    have hg' : Sole g u := by
      unfold Sole
      rw [hh]
      exact hg
    exact (ht.vacated g _ id (settle_vacates hg' hj e)).ended

theorem TransferLeft.settled {h i : Nat} {D : Bale → Prop} {m1 m2 : Table Byte} {evict : Bool} {status : Nat} {s s0 : State}
    {f : State → State} (hl : TransferLeft h i D m1 m2 evict status s0 (f s)) : TransferLeft h i D m1 m2 evict status s0 (settled f s) where
  bale := by
    have hp : (Machine.settled f s).place.tensors = (f s).place.tensors := congrArg _ (settled_place f s)
    rw [getBale_of_tensors hp]
    exact hl.bale
  t1 := by rw [settled_hbm]; exact hl.t1
  t2 := by rw [settled_hbm]; exact hl.t2
  ended := fun g hg hj => by
    obtain ⟨hc, hi, hgone⟩ := hl.ended g hg hj
    exact ⟨by rw [settled_mbx]; exact hc, by rw [settled_mbx]; exact hi, by rw [settled_host]; exact hgone⟩

theorem told_lowerTierRecord (k tier h i request : Nat) (s : State) : Told s (lowerTierRecord k tier h i request s) :=
  told_daybook _ _ _ _ _ s

theorem BaleIs.told {h i : Nat} {D U : Bale → Prop} {s t : State} (hs : BaleIs h i D U s) (ht : Told s t) : BaleIs h i D U t :=
  hs.of_tensors (by rw [ht.place])

theorem BaleIs.settle {h i : Nat} {D U : Bale → Prop} {s : State} (hs : BaleIs h i D U s) (evict : Bool) (k j : Nat) (e : TransferEnd) :
    BaleIs h i D U (settle evict k j e s) := hs.of_tensors (by rw [settle_place])

theorem tended_serveFrames (k : Nat) (s : State) : Tended s (serveFrames k s) := tended_reframed (reframed_serveFrames k s)

/-! ## A promotion completes (R243, R244) -/

theorem fillFrame_same (x : Tensor) (b : Bale) (s : State) : ∃ m, fillFrame x b s = { s with hbm := m } ∧ m.t2 = s.hbm.t2 := by
  unfold fillFrame
  split
  · exact ⟨s.hbm, rfl, rfl⟩
  · dsimp only
    split
    · exact ⟨_, rfl, rfl⟩
    · exact ⟨_, rfl, rfl⟩

/-- An intent to evict that does not apply, because the bale is pinned or held, is dropped (R244). -/
theorem settleIntent_dropped {h i : Nat} {D : Bale → Prop} {s : State} (hs : BaleIs h i D (fun _ => True) s)
    (hno : ∀ d, D d → d.intent = true → d.st = .resident → held s (h, i) = true) (k : Nat) :
    BaleIs h i (fun d => d.intent = false ∧ ∃ d', D d' ∧ d = { d' with intent := false }) (fun _ => True) (settleIntent h i k s)
      ∧ Tended s (settleIntent h i k s) := by
  obtain ⟨d, hd, hD⟩ := hs.found
  unfold settleIntent
  simp only [hd]
  cases hi : d.intent with
  | false => exact ⟨⟨⟨d, hd, hi, d, hD, by rw [← hi]⟩, hs.every⟩, .refl _ s⟩
  | true =>
    have hgo : (d.st == .resident && !held s (h, i)) = false := by
      by_cases hst : d.st = .resident
      · simp [hno d hD hi hst]
      · simp [hst]
    simp only [hgo, Bool.not_true, Bool.false_eq_true, if_false]
    have htold := told_daybook 0x0041 k noEngine 0 (leBytes 4 h ++ leBytes 4 i ++ leBytes 1 (boolNat (!false))) s
    exact ⟨(hs.told htold).updBale_same (fun d' hd' => ⟨rfl, d', hd', rfl⟩) fun _ _ => trivial,
      (tended_told htold).trans (tended_updBale h i _ _)⟩

/-- A bale after its promotion. -/
def promotedBale (beat : Nat) (b : Bale) : Bale :=
  { b with st := if b.pinPending.isSome then .pinned else .resident, pin := b.pinPending, pinPending := none, dirty := false, lastUse := beat }

section
variable {s : State} {h i : Nat} {x : Tensor} {b : Bale} (hx : findTensor s h = some x) (hb : getBale s h i = some b)
include hx hb in
theorem promotionDone_left (hintent : b.intent = false ∨ b.pinPending.isSome = true ∨ held s (h, i) = true) :
    TransferLeft h i (fun d => d.st = (if b.pinPending.isSome then .pinned else .resident) ∧ d.pin = b.pinPending ∧ d.pinPending = none
      ∧ d.dirty = false ∧ d.intent = false ∧ d.lastUse = s.clock.beat ∧ d.frame = b.frame)
      (fillFrame x b s).hbm.t1 s.hbm.t2 false stOk s (promotionDone h i s) := by
  obtain ⟨m, hfill, hm2⟩ := fillFrame_same x b s
  generalize hu : updBale h i (promotedBale s.clock.beat) (entryChange h (fillFrame x b s)) = u
  have heq : promotionDone h i s = settleIntent h i x.part (finishAllocs (settle false h i .ok u)) := by
    simp only [promotionDone, hx, hb, ← hu]
    rfl
  have hentry := reframed_entryChange h (fillFrame x b s)
  have hhost : u.host = s.host := by
    rw [← hu, updBale, updTensor, updPlace_host, hentry.same, hfill]
  have hbm : u.hbm.t1 = (fillFrame x b s).hbm.t1 ∧ u.hbm.t2 = s.hbm.t2 := by
    rw [← hu, updBale, updTensor, updPlace_hbm, hentry.hbm, hfill]
    exact ⟨rfl, hm2⟩
  have hheld : held u (h, i) = held s (h, i) := by
    have hsame := hentry.same
    refine held_congr ?_ (fun k => ?_) (by rw [hhost]) ?_ _
    · rw [← hu, updBale, updTensor, updPlace_mode, hsame, hfill]
    · rw [← hu]
      refine (runsOf_entryChange h (fillFrame x b s) k).trans ?_
      rw [hfill]
      rfl
    · rw [← hu, updBale, updTensor, updPlace_codec, hsame, hfill]
  have hbale : BaleIs h i (· = promotedBale s.clock.beat b) (fun _ => True) u := by
    have h0 : BaleIs h i (· = b) (fun _ => True) (entryChange h (fillFrame x b s)) :=
      (baleIs_of_get hb).of_tensors (by rw [entryChange_tensors, hfill])
    rw [← hu]
    exact h0.updBale_same (fun _ e => congrArg _ e) fun _ _ => trivial
  have hno : ∀ d, d = promotedBale s.clock.beat b → d.intent = true → d.st = .resident →
      held (finishAllocs (settle false h i .ok u)) (h, i) = true := by
    rintro d rfl hi hst
    rw [held_finishAllocs_settle, hheld]
    refine (hintent.resolve_left fun hf => ?_).resolve_left fun hp => ?_
    · exact absurd (hf.symm.trans hi) (by decide)
    · simp [promotedBale, hp] at hst
  obtain ⟨hdropped, hlast⟩ := settleIntent_dropped ((hbale.settle false h i .ok).finishAllocs) hno x.part
  have hleft := transferLeft_of hhost ((tended_finishAllocs _).trans hlast) hdropped
  rw [hbm.1, hbm.2, ← heq] at hleft
  refine ⟨?_, hleft.t1, hleft.t2, hleft.ended⟩
  obtain ⟨d, hd, -, -, rfl, rfl⟩ := hleft.bale
  exact ⟨_, hd, rfl, rfl, rfl, rfl, rfl, rfl, rfl⟩

/-! ## A promotion fails (R244, R262, R357) -/

/-- A bale whose promotion has failed. -/
def unpromotedBale (b : Bale) : Bale := { b with st := .inT2, frame := none, intent := false, pinPending := none }

/-- The bale and its frame after a failed promotion. -/
def unpromoted (h i : Nat) (b : Bale) (s : State) : State :=
  match b.frame with
  | some f => unmarkFrame f (updBale h i unpromotedBale s)
  | none => updBale h i unpromotedBale s

theorem unpromoted_same (b : Bale) (s : State) : (unpromoted h i b s).place.tensors = (updBale h i unpromotedBale s).place.tensors
    ∧ (unpromoted h i b s).host = s.host ∧ (unpromoted h i b s).hbm.t1 = s.hbm.t1 ∧ (unpromoted h i b s).hbm.t2 = s.hbm.t2 := by
  unfold unpromoted
  split <;> exact ⟨rfl, rfl, rfl, rfl⟩

include hx hb in
theorem promotionFail_eq : promotionFail h i s =
    serveFrames x.part (lowerTierRecord x.part 2 h i 0 (settle false h i .failed (unpromoted h i b s))) := by
  rw [promotionFail, hx, hb]
  rfl

include hx hb in
theorem promotionFail_left : TransferLeft h i (fun d => d.st = .inT2 ∧ d.frame = none ∧ d.intent = false ∧ d.pinPending = none)
    s.hbm.t1 s.hbm.t2 false stLowerTierFail s (promotionFail h i s) := by
  obtain ⟨ht, hhost, h1, h2⟩ := unpromoted_same (h := h) (i := i) b s
  have hbale : BaleIs h i (fun d => d.st = .inT2 ∧ d.frame = none ∧ d.intent = false ∧ d.pinPending = none) (fun d => d.st = .inT2)
      (unpromoted h i b s) := by
    refine BaleIs.of_tensors ?_ ht
    exact (baleIs_of_get hb).updBale_same (fun _ _ => ⟨rfl, rfl, rfl, rfl⟩) fun _ _ => rfl
  have htold := told_lowerTierRecord x.part 2 h i 0 (settle false h i .failed (unpromoted h i b s))
  have hserved := ((hbale.settle false h i .failed).told htold).serveFrames (U' := fun _ => True) (fun d hd => by simp [hd])
    (.inl fun d hd => by simp [hd]) (fun _ hd => hd) (fun _ _ => ⟨trivial, trivial⟩) x.part
  have hleft := transferLeft_of hhost ((tended_told htold).trans (tended_serveFrames x.part _)) hserved
  rw [h1, h2, ← promotionFail_eq hx hb] at hleft
  exact hleft

/-! ## A write-back completes (R243 to R246) -/

theorem writeHome_same (x : Tensor) (b : Bale) (s : State) : ∃ m, writeHome x b s = { s with hbm := m } ∧ m.t1 = s.hbm.t1 := by
  unfold writeHome
  split
  · exact ⟨_, rfl, rfl⟩
  · exact ⟨s.hbm, rfl, rfl⟩

/-- What holds of a bale whose write-back has completed, in the state to which it moves. -/
def WrittenBack (st : BaleState) (pinPending : Option Nat) (d : Bale) : Prop := d.st = st ∧ d.dirty = false ∧ d.pinPending = pinPending

theorem anyFrame_writtenBack (st : BaleState) (p : Option Nat) : AnyFrame (WrittenBack st p) := fun _ _ _ hd => hd

theorem anyFrame_st (st : BaleState) : AnyFrame (fun d => d.st = st) := fun _ _ _ hd => hd

/-- A bale in T2, or one that is promoted, stays what it is while bales are served. -/
theorem BaleIs.serveWrittenBack {h i : Nat} {st : BaleState} {p : Option Nat} {s : State}
    (hs : BaleIs h i (WrittenBack st p) (fun d => d.st = st) s) (hst : st ≠ .resident) (k : Nat) :
    BaleIs h i (WrittenBack st p) (fun d => d.st = st) (Machine.serveFrames k s) :=
  hs.serveFrames (fun _ hd hr => hst (hd.symm.trans hr.1)) (.inr ⟨anyFrame_writtenBack st p, anyFrame_st st⟩) (fun _ hd => hd)
    (fun _ hd => ⟨hd, hd⟩) k

theorem BaleIs.startPromotion {h i : Nat} {st : BaleState} {p : Option Nat} {s : State}
    (hs : BaleIs h i (WrittenBack st p) (fun d => d.st = st) s) :
    BaleIs h i (WrittenBack .promoting p) (fun d => d.st = .promoting) (startPromotion h i s) := by
  obtain ⟨d, hd, -⟩ := hs.found
  obtain ⟨x, hx, -⟩ := Option.bind_eq_some_iff.1 hd
  rw [Machine.startPromotion, hx]
  refine BaleIs.serveWrittenBack ?_ (by decide) x.part
  exact hs.updBale_same (fun _ hd => ⟨rfl, hd.2⟩) fun _ _ => rfl

theorem tended_startPromotion (h i : Nat) (s : State) : Tended s (startPromotion h i s) := by
  unfold startPromotion
  split
  · exact .refl _ s
  · exact (tended_updBale h i _ s).trans (tended_serveFrames _ _)

include hx hb in
theorem writeBackDone_left : TransferLeft h i
    (WrittenBack (if b.waitPromote = true ∨ b.pinPending.isSome = true then .promoting else .inT2) b.pinPending)
    s.hbm.t1 (writeHome x b s).hbm.t2 true stOk s (writeBackDone h i s) := by
  obtain ⟨m, hwrite, hm1⟩ := writeHome_same x b s
  have hmoved := reframed_toT2 h i (writeHome x b s)
  have hhost : (toT2 h i (writeHome x b s)).host = s.host := by rw [hmoved.same, hwrite]
  have hwritten : BaleIs h i (WrittenBack .inT2 b.pinPending) (fun d => d.st = .inT2) (toT2 h i (writeHome x b s)) := by
    have h0 : BaleIs h i (· = b) (fun _ => True) (writeHome x b s) := (baleIs_of_get hb).of_tensors (by rw [hwrite])
    refine BaleIs.of_tensors ?_ (toT2_tensors h i _)
    exact h0.updBale_same (fun d e => ⟨rfl, rfl, by rw [e]⟩) fun _ _ => rfl
  have hsettled := hwritten.settle true h i .ok
  generalize hs1 : settle true h i .ok (toT2 h i (writeHome x b s)) = s1 at hsettled
  have heq : writeBackDone h i s = finishSwaps x.part (serveFrames x.part
      (if b.waitPromote || b.pinPending.isSome then startPromotion h i s1 else s1)) := by
    rw [writeBackDone, hx, hb, ← hs1]
  have hnext : BaleIs h i (WrittenBack (if b.waitPromote = true ∨ b.pinPending.isSome = true then .promoting else .inT2) b.pinPending)
      (fun d => d.st = if b.waitPromote = true ∨ b.pinPending.isSome = true then .promoting else .inT2) (serveFrames x.part
        (if b.waitPromote || b.pinPending.isSome then startPromotion h i s1 else s1)) := by
    simp only [Bool.or_eq_true]
    split
    · exact hsettled.startPromotion.serveWrittenBack (by decide) x.part
    · exact hsettled.serveWrittenBack (by decide) x.part
  have hend : Tended s1 (if b.waitPromote || b.pinPending.isSome then startPromotion h i s1 else s1) := by
    split
    · exact tended_startPromotion h i s1
    · exact .refl _ s1
  subst hs1
  have hleft := transferLeft_of hhost ((hend.trans (tended_serveFrames x.part _)).trans (tended_finishSwaps x.part _))
    (hnext.of_tensors (congrArg _ (finishSwaps_place x.part _)))
  rw [hmoved.hbm, ← heq, hwrite, hm1] at hleft
  rw [hwrite]
  exact hleft

/-! ## A write-back fails (R244, R245, R248, R262) -/

/-- A bale whose write-back has failed. -/
def keptBale (b : Bale) : Bale :=
  { b with st := if b.pinPending.isSome then .pinned else .resident, pin := b.pinPending, pinPending := none, waitPromote := false, wbFailed := true }

/-- What holds of a bale that has kept its frame, whatever becomes of its mark. -/
def Kept (b d : Bale) : Prop :=
  d.st = (if b.pinPending.isSome then .pinned else .resident) ∧ d.pin = b.pinPending ∧ d.dirty = b.dirty ∧ d.frame = b.frame

/-- R248 evicts no bale that is pinned or marked. -/
def Spared (d : Bale) : Prop := d.st = .pinned ∨ d.st = .resident ∧ d.wbFailed = true

theorem spared_keptBale (b : Bale) : Spared (keptBale b) := by
  unfold Spared keptBale
  cases b.pinPending <;> simp

theorem Spared.st_ne_promoting {d : Bale} (hd : Spared d) : d.st ≠ .promoting := by
  rcases hd with e | ⟨e, -⟩ <;> simp [e]

include hx hb in
theorem writeBackFail_left (ha : NoAlloc h s) :
    TransferLeft h i (Kept b) s.hbm.t1 s.hbm.t2 true stLowerTierFail s (writeBackFail h i s) := by
  have hkept : BaleIs h i (Kept b) Spared (updBale h i keptBale s) :=
    (baleIs_of_get hb).updBale_same (fun d e => by rw [e]; exact ⟨rfl, rfl, rfl, rfl⟩) fun d _ => spared_keptBale d
  have htold := told_lowerTierRecord x.part 2 h i 1 (settle true h i .failed (updBale h i keptBale s))
  have hrecord := (hkept.settle true h i .failed).told htold
  generalize hs2 : lowerTierRecord x.part 2 h i 1 (settle true h i .failed (updBale h i keptBale s)) = s2 at htold hrecord
  generalize hs3 : (if b.waitPromote || b.pinPending.isSome then settle false h i .ok s2 else s2) = s3
  have heq : writeBackFail h i s = finishSwaps x.part (failWaiting x.part .failed (failAllocs x.part (serveFrames x.part s3))) := by
    rw [writeBackFail, hx, hb, ← hs3, ← hs2]
    rfl
  have hjoined : BaleIs h i (Kept b) Spared s3 ∧ Tended s2 s3 := by
    rw [← hs3]
    split
    · exact ⟨hrecord.settle false h i .ok, tended_settle false h i .ok s2⟩
    · exact ⟨hrecord, .refl _ s2⟩
  have hserved : BaleIs h i (Kept b) (fun d => d.st ≠ .promoting) (serveFrames x.part s3) :=
    hjoined.1.serveFrames (fun d hd hr => by rcases hd with e | ⟨-, e⟩ <;> simp [hr] at e) (.inl fun _ hd => hd.st_ne_promoting)
      (fun _ hd => hd) (fun _ hd => ⟨hd.st_ne_promoting, hd.st_ne_promoting⟩) x.part
  have htended : Tended (settle true h i .failed (updBale h i keptBale s)) (serveFrames x.part s3) :=
    ((tended_told htold).trans hjoined.2).trans (tended_serveFrames x.part s3)
  have hnone : NoAlloc h (serveFrames x.part s3) := htended.noAlloc h ((tended_settle _ _ _ _ _).noAlloc h ha)
  have hlast := ((hserved.failAllocs hnone x.part).failWaiting (fun _ hd => hd) x.part .failed).of_tensors
    (congrArg _ (finishSwaps_place x.part _))
  have hhost : (updBale h i keptBale s).host = s.host := rfl
  rw [heq]
  exact transferLeft_of hhost (((htended.trans (tended_failAllocs x.part _)).trans (tended_failWaiting x.part .failed _)).trans
    (tended_finishSwaps x.part _)) hlast

end

/-! ## The events -/

section
variable {s : State} {h i : Nat} {x : Tensor} {b : Bale}

theorem promoting_st (hp : promoting s h i = true) (hb : getBale s h i = some b) : b.st = .promoting := by
  unfold promoting at hp
  split at hp
  · rename_i b' _ hb'
    obtain rfl := Option.some.inj (hb.symm.trans hb')
    simp only [Bool.and_eq_true, beq_iff_eq] at hp
    exact hp.1
  · exact absurd hp (by decide)

theorem crossesLink_of_promoting (hp : promoting s h i = true) (hb : getBale s h i = some b) (hz : b.zero = false) :
    crossesLink s h i = true := by simp [crossesLink, hb, hp, hz]

theorem crossesLink_of_evicting (hst : b.st = .evicting) (hb : getBale s h i = some b) : crossesLink s h i = true := by
  simp [crossesLink, hb, hst]

theorem evicting_eq (hb : getBale s h i = some b) : evicting s h i = (b.st == .evicting) := by rw [evicting, hb]; rfl

theorem t2Overdue_of (hc : crossesLink s h i = true) (hb : getBale s h i = some b) (hd : b.asked + 1000 ≤ s.clock.elapsed) :
    t2Overdue s h i = true := by simp [t2Overdue, hc, hb, hd]

theorem exec_promotionDone_bale (hx : findTensor s h = some x) (hb : getBale s h i = some b) (hp : promoting s h i = true)
    (hr : b.zero = true ∨ (t2Usable s = true ∧ homePoisoned s x b = false)) :
    exec (.promotionDone h i) s = .next (settled (promotionDone h i) s) := by
  refine event_of ?_
  simp only [hp, zeroBale, bytesInT2, hx, hb]
  rcases hr with hz | ⟨hu, hh⟩
  · simp [hz]
  · simp [hu, hh]

/-- The three events with which a promotion from T2 fails. -/
theorem exec_promotion_fails (hb : getBale s h i = some b) (hp : promoting s h i = true) (hz : b.zero = false) {c : Instr}
    (hc : c = .promotionFail h i ∨ c = .t2Response h i true ∨ c = .t2Timeout h i ∧ b.asked + 1000 ≤ s.clock.elapsed) :
    exec c s = .next (settled (promotionFail h i) s) := by
  have hcross := crossesLink_of_promoting hp hb hz
  rcases hc with rfl | rfl | ⟨rfl, hd⟩
  · exact event_of (by simp [hp, zeroBale, hb, hz])
  · have hfail : settled (t2Response h i true) s = settled (promotionFail h i) s := by simp [settled, t2Response, hp]
    rw [← hfail]
    exact event_of hcross
  · have hfail : settled (transferFail h i) s = settled (promotionFail h i) s := by
      simp [settled, transferFail, evicting_eq hb, promoting_st hp hb]
    rw [← hfail]
    exact event_of (t2Overdue_of hcross hb hd)

/-- The two events with which a write-back fails. -/
theorem exec_writeBack_fails (hb : getBale s h i = some b) (hst : b.st = .evicting) {c : Instr}
    (hc : c = .writeBackFail h i ∨ c = .t2Timeout h i ∧ b.asked + 1000 ≤ s.clock.elapsed) :
    exec c s = .next (settled (writeBackFail h i) s) := by
  have hev : evicting s h i = true := by simp [evicting_eq hb, hst]
  rcases hc with rfl | ⟨rfl, hd⟩
  · exact event_of hev
  · have hfail : settled (transferFail h i) s = settled (writeBackFail h i) s := by simp [settled, transferFail, hev]
    rw [← hfail]
    exact event_of (t2Overdue_of (crossesLink_of_evicting hst hb) hb hd)

/-- A good T2 response restarts the limit of 1,000 beats (log 51). -/
theorem exec_t2Response_good (hb : getBale s h i = some b) (hp : promoting s h i = true) (hz : b.zero = false) :
    ∃ t, exec (.t2Response h i false) s = .next t ∧ getBale t h i = some { b with asked := s.clock.elapsed } ∧ t.hbm = s.hbm
      ∧ t.host = s.host ∧ t.pens = s.pens := by
  refine ⟨settled (t2Response h i false) s, event_of (crossesLink_of_promoting hp hb hz), ?_, ?_, ?_, ?_⟩
  · have hp : (settled (t2Response h i false) s).place.tensors = (t2Response h i false s).place.tensors := congrArg _ (settled_place _ s)
    rw [getBale_of_tensors hp]
    simp [t2Response, getBale_updBale, hb]
  · rw [settled_hbm]; rfl
  · rw [settled_host]; rfl
  · rw [settled_pens]; rfl

end

/-- Settles O21: each end of a transfer is `TransferLeft`, whose completions no later work of the event reaches. -/
theorem baleEvents : Obligations.BaleEvents := by
  unfold Obligations.BaleEvents
  intro s h i x b hx hb
  refine ⟨fun hp hr hintent => ?_, fun hp hz c hc => ?_, exec_t2Response_good hb, fun hst hu => ?_, fun hst ha c hc => ?_⟩
  · obtain ⟨⟨d, hd, h1, h2, h3, h4, h5, h6, h7⟩, ht1, ht2, hend⟩ := (promotionDone_left hx hb hintent).settled
    exact ⟨_, d, exec_promotionDone_bale hx hb hp hr, hd, h1, h2, h3, h4, h5, h6, h7, ht1, ht2, hend⟩
  · obtain ⟨⟨d, hd, h1, h2, h3, h4⟩, ht1, ht2, hend⟩ := (promotionFail_left hx hb).settled
    exact ⟨_, d, exec_promotion_fails hb hp hz hc, hd, h1, h2, h3, h4, ht1, ht2, hend⟩
  · obtain ⟨⟨d, hd, h1, h2, h3⟩, ht1, ht2, hend⟩ := (writeBackDone_left hx hb).settled
    have hexec : exec (.writeBackDone h i) s = .next (settled (writeBackDone h i) s) := event_of (by simp [evicting_eq hb, hst, hu])
    exact ⟨_, d, hexec, hd, h1, h2, h3, ht1, ht2, hend⟩
  · obtain ⟨⟨d, hd, h1, h2, h3, h4⟩, ht1, ht2, hend⟩ := (writeBackFail_left hx hb ha).settled
    exact ⟨_, d, exec_writeBack_fails hb hst hc, hd, h1, h2, h3, h4, ht1, ht2, hend⟩

end Sys2Proof.Machine
end

section
/-! PROOFS. The bell monitor's trip with a partition that is RUNNING and has no RUN (R72, R400): quiescing discards the steps of a RUN, and
no premise of the statement says that a running partition has one. -/

namespace Sys2Proof.Machine

/-- The 64th beat in a row has been missed, and partition 0 is RUNNING without a RUN. -/
def runless : State :=
  { State.reset with
    parts := [(0, { Part.absent with st := .running })]
    recov := { Recovery.reset with missed := 64 } }

/-- The invariant that every step keeps admits the state. -/
theorem runless_sound : State.Sound runless where
  mode := rfl
  rested := rfl
  t1 := nil_wf
  t2 := nil_wf
  queue := rfl

/-- What quiesces a partition changes STATE with its RUN alone: without one, RUNNING stays. -/
theorem st_quiesce_of_no_run {k : Nat} {s : State} (h : (s.part k).run = none) (b : Bool) :
    ((quiesce k b s).part k).st = (s.part k).st := by
  unfold quiesce
  rw [h]
  simp

/-- The stop of commits reaches partition 0 through quiescing alone, and leaves it RUNNING. -/
theorem st_stopAll_runless : ((stopAll runless).part 0).st = .running := st_quiesce_of_no_run (k := 0) (s := runless) rfl false

/-- The trip stops commits and takes a dump, after which partition 0 is RUNNING still. -/
theorem st_bellTrip_runless : ((bellTrip runless).part 0).st = .running := st_stopAll_runless

/-- Refutes O50: the trip of the bell monitor leaves a partition RUNNING that was RUNNING without a RUN. -/
theorem not_ladderEvents : ¬ Obligations.LadderEvents := by
  unfold Obligations.LadderEvents
  rintro ⟨h, -⟩
  obtain ⟨-, -, -, -, -, -, hbell, -⟩ := h runless
  obtain ⟨t, hexec, -, -, hstops⟩ := hbell (by decide) rfl
  obtain ⟨-, -, hstopped⟩ := hstops (fun y hy => nomatch hy) (by decide) 0 rfl
  have hrun : exec .bellTrip runless = .next (settled bellTrip runless) := rfl
  obtain rfl : settled bellTrip runless = t := Host.Outcome.next.inj (hrun.symm.trans hexec)
  exact hstopped 0 (by decide) ((settled_st bellTrip runless 0).trans st_bellTrip_runless)

end Sys2Proof.Machine
end

section
/-! PROOFS. The steps of start-up (R286 to R288, R295, R412, R438, R446, R448, R453, R454): what verification, training, the wipe and
readiness leave, and the bound of start-up. -/

namespace Sys2Proof.Machine

/-! ## Verification (R453, R454) -/

/-- The identity of a start-up names the image that runs, its slot, and whether it is the fallback (R456). -/
theorem formIdentity_boots (s : State) (slot : Nat) (i : Image) : (formIdentity s slot i).running = some i
    ∧ (formIdentity s slot i).slot = slot ∧ (formIdentity s slot i).fallback = (slot != s.sec.prefer) := by
  unfold formIdentity
  dsimp only
  split
  · exact ⟨rfl, rfl, rfl⟩
  · split <;> exact ⟨rfl, rfl, rfl⟩

theorem exec_firmwareVerify {s : State} (h : s.power.stage = .verify) : exec .firmwareVerify s = .next (firmwareVerify s) :=
  event_of (by simp [h])

/-! ## Training (R286, R287) -/

theorem Told.power {s t : State} (h : Told s t) : t.power = s.power := by rw [h.same]
theorem Told.parts {s t : State} (h : Told s t) : t.parts = s.parts := by rw [h.same]

/-- The record of a changed flash list is told of the state with that list. -/
theorem Told.withHbm {s t : State} (h : Told s t) (m : Hbm) : Told { s with hbm := m } { t with hbm := m } :=
  ⟨by rw [h.same], h.host, h.recov, h.mbx, h.out⟩

/-- t is s with more channels on the flash list, and their records (R287). -/
structure MapsOut (l : List Nat) (s t : State) : Prop where
  told : Told { s with hbm := { s.hbm with mapped := t.hbm.mapped } } t
  mapped : ∀ c, c ∈ t.hbm.mapped ↔ c ∈ l ∨ c ∈ s.hbm.mapped

theorem MapsOut.trans {l m : List Nat} {s t u : State} (h : MapsOut l s t) (g : MapsOut m t u) : MapsOut (l ++ m) s u where
  told := by
    have ht := h.told.withHbm { s.hbm with mapped := u.hbm.mapped }
    have hu := g.told
    rw [h.told.hbm] at hu
    exact ht.trans hu
  mapped := fun c => by rw [g.mapped, h.mapped, List.mem_append]; tauto

theorem mapOut_mapsOut (reason c : Nat) (s : State) : MapsOut [c] s (mapOut reason c s) := by
  unfold mapOut
  split
  case isTrue h => exact ⟨Told.refl s, fun x => by simp_all⟩
  case isFalse h =>
    have told := told_daybook 0x0032 (partOfStack s (c / 32)) (0x200 + c / 32) 0 (leBytes 2 c ++ leBytes 1 reason)
      (updHbm (fun h => { h with mapped := insertSorted c h.mapped }) s)
    have hm := congrArg Hbm.mapped told.hbm
    refine ⟨?_, fun x => ?_⟩
    · rw [hm]; exact told
    · rw [hm]; simpa using mem_insertSorted c x s.hbm.mapped

theorem forAll_mapOut_mapsOut (reason : Nat) (l : List Nat) (s : State) : MapsOut l s (forAll l (mapOut reason) s) := by
  induction l generalizing s with
  | nil => exact ⟨Told.refl s, fun _ => by simp⟩
  | cons c l ih => exact (mapOut_mapsOut reason c s).trans (ih _)

/-- A channel on trial passes unless its training fails or a pin of it was in error (R287). -/
theorem trialPassed_iff (failed : List Nat) (errors : List (Nat × Nat × Nat × Nat)) (c : Nat) :
    trialPassed failed errors c = true ↔ c ∉ failed ∧ ∀ e ∈ errors, e.1 = c → e.2.2.2 = 0 := by
  simp [trialPassed, or_iff_not_imp_left]

/-- The state at the end of training, before the failed channels join the list: the channels on trial that passed have left it. -/
def triedBack (failed : List Nat) (errors : List (Nat × Nat × Nat × Nat)) (s : State) : State :=
  let back := s.hbm.trial.filter fun c => trialPassed failed errors c && s.hbm.mapped.contains c
  updHbm (fun h => { h with mapped := h.mapped.filter fun c => !back.contains c, trial := [] }) s

theorem mem_mapped_triedBack (failed : List Nat) (errors : List (Nat × Nat × Nat × Nat)) (s : State) (c : Nat) :
    c ∈ (triedBack failed errors s).hbm.mapped ↔
      c ∈ s.hbm.mapped ∧ ¬(c ∈ s.hbm.trial ∧ c ∉ failed ∧ ∀ e ∈ errors, e.1 = c → e.2.2.2 = 0) := by
  rw [← trialPassed_iff]
  simp [triedBack]
  tauto

theorem exec_hbmTrainingDone {s : State} (h : s.power.stage = .training) (failed : List Nat) (errors : List (Nat × Nat × Nat × Nat)) :
    exec (.hbmTrainingDone failed errors) s = .next (trainingDone failed errors s) :=
  event_of (by simp [h])

/-- What training leaves (R286, R287). -/
theorem trainingDone_leaves (failed : List Nat) (errors : List (Nat × Nat × Nat × Nat)) (s : State) :
    let t := trainingDone failed errors s
    t.power = { s.power with stage := .wipe } ∧ t.hbm = { s.hbm with mapped := t.hbm.mapped, trial := [] } ∧ t.parts = s.parts
      ∧ ∀ c, c ∈ t.hbm.mapped ↔ c ∈ (triedBack failed errors s).hbm.mapped ∨ c ∈ failed := by
  have h := forAll_mapOut_mapsOut 2 (failed.filter fun c => !(triedBack failed errors s).hbm.mapped.contains c) (triedBack failed errors s)
  refine ⟨?_, h.told.hbm, ?_, fun c => ?_⟩
  · exact congrArg (fun p : Power => { p with stage := .wipe }) h.told.power
  · exact h.told.parts
  · refine (h.mapped c).trans ?_
    simp only [List.mem_filter, Bool.not_eq_true', List.contains_eq_mem, decide_eq_false_iff_not]
    tauto

/-! ## The wipe (R288, R295) -/

/-- Whether a stack is disabled rests on its own STATE and on the flash list. -/
theorem stackDisabled_congr {s t : State} {i : Nat} (hs : t.stack i = s.stack i) (hm : t.hbm.mapped = s.hbm.mapped) :
    stackDisabled t i = stackDisabled s i := by
  simp only [stackDisabled, hs, hm]

/-- A stack goes into service, or stays disabled. -/
def enableStack (t : Nat) (s : State) : State := updStack t (fun q => { q with st := if stackDisabled s t then 3 else 2 }) s

theorem forAll_enableStack_same (l : List Nat) (s : State) :
    ∃ k, forAll l enableStack s = { s with hbm := { s.hbm with stk := k } } :=
  forAll_induct (P := fun u => ∃ k, u = { s with hbm := { s.hbm with stk := k } }) (fun _ _ ⟨_, h⟩ => ⟨_, by rw [h]; rfl⟩) l
    ⟨s.hbm.stk, rfl⟩

theorem stack_forAll_enableStack_other {l : List Nat} {i : Nat} (h : i ∉ l) (s : State) :
    (forAll l enableStack s).stack i = s.stack i := by
  refine forAll_induct_mem (P := fun u : State => u.stack i = s.stack i) (fun a ha u hu => ?_) rfl
  have hne : i ≠ a := fun e => h (e ▸ ha)
  rw [enableStack, stack_updStack, if_neg hne, hu]

theorem st_forAll_enableStack {l : List Nat} (hd : l.Nodup) {i : Nat} (h : i ∈ l) (s : State) :
    ((forAll l enableStack s).stack i).st = if stackDisabled s i then 3 else 2 := by
  obtain ⟨l1, l2, h1, h2, e⟩ := forAll_split (f := enableStack) hd h s
  obtain ⟨k, hk⟩ := forAll_enableStack_same l1 s
  have hdis : stackDisabled (forAll l1 enableStack s) i = stackDisabled s i :=
    stackDisabled_congr (stack_forAll_enableStack_other h1 s) (by rw [hk])
  rw [e, stack_forAll_enableStack_other h2, enableStack, stack_updStack_same, hdis]

theorem exec_hbmWipeDone {s : State} (h : s.power.stage = .wipe) : exec .hbmWipeDone s = .next (wipeDone s) := event_of (by simp [h])

/-- The stacks' bits and marks after the wipe (R295, R297). -/
def wiped (s : State) : State := updHbm (fun h =>
  { h with t1 := [], poison := [], staleKey := [], zeroed := [], written := [], unmarked := [], unlisted := [] }) s

theorem wipeDone_eq (s : State) : wipeDone s = toStage .gates (forAll (List.range 20) enableStack (wiped s)) := rfl

/-- What the wipe leaves (R288, R295). -/
theorem wipeDone_leaves (s : State) :
    (wipeDone s).power = { s.power with stage := .gates } ∧ (wipeDone s).hbm.t1 = [] ∧ (wipeDone s).hbm.t2 = s.hbm.t2
      ∧ (wipeDone s).parts = s.parts ∧ ∀ i, i < 20 → ((wipeDone s).stack i).st = if stackDisabled s i then 3 else 2 := by
  have hst := fun i hi => st_forAll_enableStack (List.nodup_range (n := 20)) (List.mem_range.2 hi) (i := i) (wiped s)
  obtain ⟨k, hk⟩ := forAll_enableStack_same (List.range 20) (wiped s)
  rw [wipeDone_eq]
  rw [hk] at hst ⊢
  exact ⟨rfl, rfl, rfl, rfl, hst⟩

/-! ## The self-test of readiness (R411, R412) -/

/-- What switching an engine off leaves alone, whichever its class. -/
def unswitched (s : State) : Table Byte × Nat := (s.hbm.t1, s.mode)

theorem Told.unswitched {s t : State} (h : Told s t) : unswitched t = unswitched s := by rw [h.same]; rfl

theorem endCodecCmd_unswitched (h st : Nat) (r : List Byte) (s : State) : unswitched (endCodecCmd h st r s) = unswitched s := by
  unfold endCodecCmd
  split
  · rfl
  · dsimp only
    split
    · rename_i g _
      obtain ⟨o, v, e⟩ := completeProg_same g st r _
      rw [e]
      rfl
    · rfl

theorem failPipe_unswitched (p : Nat) (s : State) : unswitched (failPipe p s) = unswitched s := by
  refine forAll_fixed unswitched (fun x u => ?_) _ s
  dsimp only
  split
  · exact endCodecCmd_unswitched _ _ _ _
  · rfl

theorem failPipe_pens (p : Nat) (s : State) : (failPipe p s).pens = s.pens := by
  refine forAll_fixed State.pens (fun x u => ?_) _ s
  dsimp only
  split
  · exact (upkeep_endCodecCmd _ _ _ _).pens
  · rfl

/-- A fold over partitions changes no other table. -/
theorem forAll_updPart_same (f : Nat → Part → Part) (l : List Nat) (s : State) :
    ∃ p, forAll l (fun k => updPart k (f k)) s = { s with parts := p } :=
  forAll_induct (P := fun u => ∃ p, u = { s with parts := p }) (fun _ _ ⟨_, h⟩ => ⟨_, by rw [h]; rfl⟩) l ⟨s.parts, rfl⟩

theorem markStale_same (f : Route → Bool) (s : State) : ∃ p, markStale f s = { s with parts := p } := forAll_updPart_same _ _ s

theorem switchOff_unswitched (e : Nat) (s : State) : unswitched (switchOff e s) = unswitched s := by
  unfold switchOff
  dsimp only
  split
  · rfl
  · exact forAll_fixed unswitched (fun c u => (told_daybook _ _ _ _ _ u).unswitched) _ _
  · obtain ⟨p, h⟩ := markStale_same (routeUses (e - 84)) (updGate (e - 84) (fun g => { g with st := 4 })
      (updRecov (fun v => { v with fenced := insertSorted e v.fenced }) s))
    rw [h]
    rfl
  · exact failPipe_unswitched _ _
  · rfl

theorem switchOff_pens {e : Nat} (hc : engineClass e ≠ 1) (s : State) : (switchOff e s).pens = s.pens := by
  unfold switchOff
  dsimp only
  split
  case h_1 h => exact absurd h hc
  case h_2 => exact forAll_fixed State.pens (fun c u => (told_daybook _ _ _ _ _ u).pens) _ _
  case h_3 =>
    obtain ⟨p, h⟩ := markStale_same (routeUses (e - 84)) (updGate (e - 84) (fun g => { g with st := 4 })
      (updRecov (fun v => { v with fenced := insertSorted e v.fenced }) s))
    rw [h]
    rfl
  case h_4 => exact failPipe_pens _ _
  case h_5 => rfl

/-- Of the pens, switching an engine off reaches the pen that it is. -/
theorem power_switchOff (e : Nat) (s : State) (i : Nat) :
    ((switchOff e s).pen i).power = if engineClass e = 1 ∧ i = e then 2 else (s.pen i).power := by
  by_cases hc : engineClass e = 1
  · have hpen : (switchOff e s).pen i = (updPen e (fun q => { q with power := 2 }) s).pen i := by
      simp only [switchOff, hc]
      rfl
    rw [hpen, pen_updPen]
    by_cases hi : i = e
    · subst hi; simp [hc]
    · simp [hi]
  · simp [State.pen, switchOff_pens hc, hc]

/-- An engine that fails the self-test is switched off and stays fenced (R412). -/
def failTest (e : Nat) (s : State) : State := keepFenced e (switchOff e s)

theorem keepFenced_told (e : Nat) (s : State) : ∃ v, Told { s with recov := v } (keepFenced e s) := ⟨_, told_daybook _ _ _ _ _ _⟩

theorem failTest_unswitched (e : Nat) (s : State) : unswitched (failTest e s) = unswitched s := by
  obtain ⟨v, h⟩ := keepFenced_told e (switchOff e s)
  exact h.unswitched.trans (switchOff_unswitched e s)

/-- The pens of a list of engines that fail are switched off. -/
theorem power_forAll_failTest (l : List Nat) (s : State) (i : Nat) :
    ((forAll l failTest s).pen i).power = if engineClass i = 1 ∧ i ∈ l then 2 else (s.pen i).power := by
  induction l generalizing s with
  | nil => simp
  | cons e l ih =>
    obtain ⟨v, h⟩ := keepFenced_told e (switchOff e s)
    have hp : ((failTest e s).pen i).power = if engineClass e = 1 ∧ i = e then 2 else (s.pen i).power := by
      rw [failTest, h.pen]
      exact power_switchOff e s i
    rw [forAll_cons, ih, hp]
    by_cases hi : i = e
    · subst hi; by_cases hc : engineClass i = 1 <;> simp [hc]
    · simp [hi]

/-- A share that mapping out has made too large is lowered, with its record (R274). -/
theorem fitCommons_told (k : Nat) (s : State) : ∃ p, Told { s with parts := p } (fitCommons k s) := by
  unfold fitCommons
  dsimp only
  split
  · exact ⟨s.parts, Told.refl s⟩
  · exact ⟨_, told_daybook _ _ _ _ _ _⟩

theorem engineClass_pen {i : Nat} (h : i < 64) : engineClass i = 1 := by
  simp only [engineClass, engineId, if_pos h]
  omega

/-- The self-test leaves what is not switched off, and its failing pens are fenced (R412). -/
theorem selfTest_leaves (failed : List Nat) (s : State) : unswitched (selfTest failed s) = unswitched s
    ∧ ∀ i, i < 64 → ((selfTest failed s).pen i).power = if i ∈ failed then 2 else (s.pen i).power := by
  let u := forAll (failed.filter fun e => between 1 4 (engineClass e)) failTest s
  obtain ⟨p, h⟩ := fitCommons_told 0 (updPart 0 (fun q => { q with degraded := hasFencedPen u 0 }) u)
  have hu : unswitched u = unswitched s := forAll_fixed unswitched failTest_unswitched _ s
  refine ⟨h.unswitched.trans hu, fun i hi => ?_⟩
  have hp := power_forAll_failTest (failed.filter fun e => between 1 4 (engineClass e)) s i
  simp only [List.mem_filter, engineClass_pen hi] at hp
  exact (congrArg Pen.power (h.pen i)).trans (hp.trans (by simp [between]))

/-- A self-test that every engine passes. -/
theorem selfTest_nil (s : State) : ∃ p, Told { s with parts := p } (selfTest [] s) :=
  fitCommons_told 0 (updPart 0 (fun q => { q with degraded := hasFencedPen s 0 }) s)

/-! ## Readiness (R438, R446, R448, R455, R465) -/

/-- t differs from s in what the shepherd tells, in its records of recovery and in the security state alone, and no engine is fenced or
freed. -/
structure Recorded (s t : State) : Prop where
  same : t = { s with host := t.host, recov := t.recov, sec := t.sec, out := t.out }
  fenced : t.recov.fenced = s.recov.fenced

theorem Recorded.refl (s : State) : Recorded s s := ⟨rfl, rfl⟩

theorem Recorded.trans {s t u : State} (h : Recorded s t) (g : Recorded t u) : Recorded s u where
  same := by
    have e := g.same
    rwa [h.same] at e
  fenced := g.fenced.trans h.fenced

theorem Told.recorded {s t : State} (h : Told s t) : Recorded s t := ⟨by rw [h.same], by rw [h.recov]⟩

section
variable {s t : State} (h : Recorded s t)
include h

theorem Recorded.pens : t.pens = s.pens := by rw [h.same]
theorem Recorded.hbm : t.hbm = s.hbm := by rw [h.same]
theorem Recorded.place : t.place = s.place := by rw [h.same]
theorem Recorded.ctxs : t.ctxs = s.ctxs := by rw [h.same]
theorem Recorded.mode : t.mode = s.mode := by rw [h.same]
theorem Recorded.power : t.power = s.power := by rw [h.same]
theorem Recorded.part (k : Nat) : t.part k = s.part k := by rw [h.same]; rfl

end

theorem endTransition_recorded (s : State) : Recorded s (endTransition s) := by
  unfold endTransition
  split
  · exact .refl s
  · have hsec : Recorded s (updSec (fun x => { x with entries := x.entries.map fun e => { e with wipeDone := true } }) s) := ⟨rfl, rfl⟩
    exact (hsec.trans (told_daybook _ _ _ _ _ _).recorded).trans
      (forAll_induct (fun f u h => h.trans (told_setEvent f evLifecycle u).recorded) _ (.refl _))

theorem nameDump_recorded (slot : Nat) (s : State) : Recorded s (nameDump slot s) := by
  unfold nameDump
  dsimp only
  have hname : ∀ id, Recorded s (updDump slot (fun d => { d with valid := true, writing := false, id := id }) s) :=
    fun _ => ⟨rfl, rfl⟩
  split
  · exact hname _
  · exact (hname _).trans (told_daybook _ _ _ _ _ _).recorded

theorem bellRecords_recorded (s : State) : Recorded s (bellRecords s) := by
  unfold bellRecords
  split
  · exact .refl s
  · have hrecov : Recorded s (updRecov (fun v => { v with tripped := false }) s) := ⟨rfl, rfl⟩
    exact (hrecov.trans (told_daybook _ _ _ _ _ _).recorded).trans
      (forAll_induct (fun i u h => h.trans (nameDump_recorded i u)) _ (.refl _))

/-- Every partition of the module has the budget of the list (R438). -/
theorem budget_setBudgets {k : Nat} {s : State} (hk : k < s.mode) (l : List Nat) : ((setBudgets l s).part k).budget = l.getD k 0 := by
  let f := fun j : Nat => updPart j fun q => { q with budget := l.getD j 0 }
  obtain ⟨l1, l2, -, h2, e⟩ := forAll_split (f := f) List.nodup_range (List.mem_range.2 hk) s
  have hother : ((forAll l2 f (f k (forAll l1 f s))).part k) = (f k (forAll l1 f s)).part k := by
    refine forAll_induct_mem (P := fun u : State => u.part k = (f k (forAll l1 f s)).part k) (fun a ha u hu => ?_) rfl
    have hne : k ≠ a := fun e => h2 (e ▸ ha)
    exact (part_updPart _ _ _ _).trans ((if_neg hne).trans hu)
  have hset : (f k (forAll l1 f s)).part k = { (forAll l1 f s).part k with budget := l.getD k 0 } := part_updPart_same _ _ _
  rw [show setBudgets l s = forAll (List.range s.mode) f s from rfl, e, hother, hset]

theorem setBudgets_same (l : List Nat) (s : State) : ∃ p, setBudgets l s = { s with parts := p } := forAll_updPart_same _ _ s

/-- A pen that is not fenced is enabled (R448). -/
def enablePen (p : Nat) : State → State := updPen p fun q => { q with power := if q.power = 2 then 2 else 1 }

theorem forAll_enablePen_same (l : List Nat) (s : State) : ∃ p, forAll l enablePen s = { s with pens := p } :=
  forAll_updPen_same (fun p : Nat => p) _ l s

theorem power_forAll_enablePen {l : List Nat} (hd : l.Nodup) {i : Nat} (hi : i ∈ l) (s : State) :
    ((forAll l enablePen s).pen i).power = if (s.pen i).power = 2 then 2 else 1 :=
  congrArg Pen.power (pen_forAll_of_mem (fun p : Nat => p) (fun _ q => { q with power := if q.power = 2 then 2 else 1 }) (by simpa using hd)
    hi s)

/-- The self-test is over, the pens are enabled, and the fused SVN is raised; the records of the transition stand (R412, R448, R455). -/
def tested (failed : List Nat) (s : State) : State := raiseSvn (endTransition (forAll (List.range 64) enablePen (selfTest failed s)))

/-- The module is ready, with its budgets; the records of readiness follow (R438, R448). -/
def readied (failed : List Nat) (s : State) : State := toStage .ready (setBudgets [s.power.limit - floorWatts s] (tested failed s))

theorem startupReady_eq (failed : List Nat) (s : State) : startupReady failed s =
    daybook 0x0001 moduleWide noEngine 0 (leBytes 1 (lifeCode s) ++ leBytes 1 (runningSvn s)
      ++ leBytes 4 (s.clock.elapsed - s.power.stageAt)) (updPower (fun p => { p with bootTimer := false })
        (staggerRecord 1 (penCount (readied failed s) 0) (bellRecords (readied failed s)))) := rfl

/-- Records follow readiness, and the timer of start-up stops (R448, R451). -/
theorem startupReady_records (failed : List Nat) (s : State) :
    ∃ u, Recorded (readied failed s) u ∧ Told (updPower (fun p => { p with bootTimer := false }) u) (startupReady failed s) := by
  rw [startupReady_eq]
  exact ⟨_, (bellRecords_recorded (readied failed s)).trans (told_daybook _ _ _ _ _ _).recorded, told_daybook _ _ _ _ _ _⟩

theorem raiseSvn_recorded (s : State) : Recorded s (raiseSvn s) := ⟨rfl, rfl⟩

theorem tested_recorded (failed : List Nat) (s : State) :
    Recorded (forAll (List.range 64) enablePen (selfTest failed s)) (tested failed s) :=
  (endTransition_recorded _).trans (raiseSvn_recorded _)

/-- Between the tests and the records of readiness the stage and the budgets change. -/
theorem readied_leaves (failed : List Nat) (s : State) :
    (readied failed s).pens = (tested failed s).pens ∧ (readied failed s).hbm = (tested failed s).hbm
      ∧ (readied failed s).place = (tested failed s).place ∧ (readied failed s).ctxs = (tested failed s).ctxs
      ∧ (readied failed s).recov = (tested failed s).recov ∧ (readied failed s).power.stage = .ready
      ∧ (0 < (tested failed s).mode → ((readied failed s).part 0).budget = s.power.limit - floorWatts s) := by
  have hbudget : 0 < (tested failed s).mode → _ := fun h => budget_setBudgets h [s.power.limit - floorWatts s]
  unfold readied
  generalize tested failed s = v at *
  obtain ⟨q, hq⟩ := setBudgets_same [s.power.limit - floorWatts s] v
  rw [hq] at hbudget ⊢
  exact ⟨rfl, rfl, rfl, rfl, rfl, rfl, hbudget⟩

/-- What readiness leaves, after the pens have been enabled. -/
theorem startupReady_leaves {failed : List Nat} {s u t : State} (hu : forAll (List.range 64) enablePen (selfTest failed s) = u)
    (ht : startupReady failed s = t) : t.pens = u.pens ∧ t.hbm = u.hbm ∧ t.place = u.place ∧ t.ctxs = u.ctxs
      ∧ t.recov.fenced = u.recov.fenced ∧ t.power.stage = .ready ∧ t.power.bootTimer = false
      ∧ (0 < u.mode → (t.part 0).budget = s.power.limit - floorWatts s) := by
  obtain ⟨v, hv, htold⟩ := startupReady_records failed s
  have hr := tested_recorded failed s
  obtain ⟨hpens, hhbm, hplace, hctxs, hrecov, hstage, hbudget⟩ := readied_leaves failed s
  rw [hu] at hr
  rw [ht] at htold
  refine ⟨?_, ?_, ?_, ?_, ?_, ?_, ?_, fun h => ?_⟩
  · rw [htold.pens, updPower_pens, hv.pens, hpens, hr.pens]
  · rw [htold.hbm, updPower_hbm, hv.hbm, hhbm, hr.hbm]
  · rw [htold.place, updPower_place, hv.place, hplace, hr.place]
  · rw [htold.ctxs, updPower_ctxs, hv.ctxs, hctxs, hr.ctxs]
  · rw [htold.recov, updPower_recov, hv.fenced, hrecov, hr.fenced]
  · rw [htold.power, updPower_power, hv.power, hstage]
  · rw [htold.power, updPower_power]
  · rw [htold.part, part_updPower, hv.part]
    exact hbudget (by rw [hr.mode]; exact h)

theorem exec_startupReady {s : State} (h : s.power.stage = .gates) (failed : List Nat) :
    exec (.startupReady failed) s = .next (startupReady failed s) := event_of (by simp [h])

/-! ## The bound of start-up (R415, R448) -/

/-- A power cycle is asked for, with its STEP record. -/
theorem powerCycle_asks {s : State} (h : s.power.cycleReq = false) :
    ∃ u, Told s u ∧ powerCycle s = updPower (fun p => { p with cycleReq := true }) u := by
  unfold powerCycle
  rw [if_neg (by simp [h])]
  exact ⟨_, told_daybook _ _ _ _ _ _, rfl⟩

theorem bootOverdue_of {s : State} (ht : s.power.bootTimer = true) (hc : s.power.cycleReq = false)
    (hs : s.power.stage = .verify ∨ (s.power.stage = .training ∨ s.power.stage = .wipe ∨ s.power.stage = .gates)
      ∧ s.power.stageAt + 48600 ≤ s.clock.elapsed) : bootOverdue s = true := by
  unfold bootOverdue
  rcases hs with h | ⟨h | h | h, hb⟩ <;> simp_all

theorem exec_bootTimerExpired {s : State} (h : bootOverdue s = true) : exec .bootTimerExpired s = .next (powerCycle s) := event_of h

theorem exec_chipBudgetExpired {s : State} (h : overdue s .chip = true) :
    exec (.ladderBudgetExpired .chip) s = .next (settled powerCycle s) := event_of h

/-- Settles O56, step by step of start-up, and by the power cycle that its bound asks for. -/
theorem startUp : Obligations.StartUp := by
  unfold Obligations.StartUp
  refine fun s => ⟨fun slot i hs hb => ?verified, fun hs hb => ?waits, fun failed errors hs => ?trained, fun hs => ?wiped,
    fun failed hs => ?ready, fun ht hc hs => ?overdue, fun hc h1 h2 h3 h4 hb => ?chip⟩
  case verified =>
    have hrun : firmwareVerify s = toStage .training { s with sec := formIdentity s slot i } := by simp only [firmwareVerify, hb]
    obtain ⟨hrunning, hslot, hfallback⟩ := formIdentity_boots s slot i
    refine ⟨_, exec_firmwareVerify hs, ?_⟩
    rw [hrun]
    exact ⟨rfl, hrunning, hslot, hfallback, rfl, rfl, rfl⟩
  case waits =>
    rw [exec_firmwareVerify hs]
    simp only [firmwareVerify, hb]
  case trained =>
    obtain ⟨hpower, hhbm, hparts, hmapped⟩ := trainingDone_leaves failed errors s
    refine ⟨_, exec_hbmTrainingDone hs failed errors, hpower, by rw [hhbm], fun c => ?_, by rw [hhbm], by rw [hhbm], hparts⟩
    rw [hmapped, mem_mapped_triedBack]
    by_cases hc : c ∈ failed <;> simp [hc]
  case wiped =>
    obtain ⟨hpower, ht1, ht2, hparts, hstacks⟩ := wipeDone_leaves s
    exact ⟨_, exec_hbmWipeDone hs, hpower, fun a => by rw [ht1, tget_nil], hstacks, ht2, hparts⟩
  case ready =>
    obtain ⟨hleft, htest⟩ := selfTest_leaves failed s
    obtain ⟨ht1, hmode⟩ := Prod.mk.inj hleft
    obtain ⟨p, hp⟩ := forAll_enablePen_same (List.range 64) (selfTest failed s)
    obtain ⟨hpens, hhbm, hplace, hctxs, hfenced, hstage, htimer, hbudget⟩ := startupReady_leaves hp rfl
    refine ⟨_, exec_startupReady hs failed, hstage, htimer, fun i hi => ?_, fun h => hbudget ?_, ?_, fun hnil => ?_⟩
    · rw [State.pen, hpens, ← hp, ← State.pen, power_forAll_enablePen List.nodup_range (List.mem_range.2 hi), htest i hi]
      by_cases hf : i ∈ failed <;> simp [hf]
    · exact hmode.trans_gt h
    · rw [hhbm]; exact ht1
    · subst hnil
      obtain ⟨q, hq⟩ := selfTest_nil s
      exact ⟨hplace.trans hq.place, hctxs.trans hq.ctxs, hfenced.trans hq.recorded.fenced⟩
  case overdue =>
    obtain ⟨u, hu, h⟩ := powerCycle_asks hc
    refine ⟨_, exec_bootTimerExpired (bootOverdue_of ht hc hs), ?_, ?_, ?_⟩ <;> rw [h]
    · rw [updPower_power, hu.power]
    · exact hu.parts
    · exact hu.hbm
  case chip =>
    obtain ⟨u, hu, h⟩ := powerCycle_asks hc
    have hoverdue : overdue s .chip = true := by simp [overdue, hc, h1, h2, h3, h4, hb]
    refine ⟨_, exec_chipBudgetExpired hoverdue, ?_, ?_⟩
    · rw [(settled_resettled powerCycle s).same, h]
      exact congrArg (fun p : Power => { p with cycleReq := true }) hu.power
    · rw [settled_hbm, h]
      exact hu.hbm

end Sys2Proof.Machine
end

section
/-! PROOFS. The stacked memory: MEM.QUERY and MEM.RESTORE (R287, R300), refresh and retraining (R276, R289, R291), and the slots of a
pseudo-channel (R275, R278 to R281): which requests one serves, and what its reads bring. -/

namespace Sys2Proof.Machine

/-! ## Commands (R287, R300) -/

theorem exec_memQuery {p : Post} {s : State} {first count : Nat} (hp : Posts p rowMemQuery 1 s) (h1 : 1 ≤ count) (h2 : count ≤ 15)
    (hs : ∀ i < count, first + i ∈ stacksOf s (postTarget p)) : exec (.memQuery p first count) s =
      .next (finish p stOk (((List.range count).map (first + ·)).flatMap (stackEntry s)) (taken p s)) := by
  have hmine : (((List.range count).map (first + ·)).any fun t => !(stacksOf s (postTarget p)).contains t) = false := by
    simpa using hs
  have hbody : memQueryBody p first count (taken p s) =
      .done stOk (((List.range count).map (first + ·)).flatMap (stackEntry s)) (taken p s) := by
    have hlen : (decide (count < 1) || decide (15 < count)) = false := by simp; omega
    have htaken : stacksOf (taken p s) = stacksOf s := rfl
    have hentry : stackEntry (taken p s) = stackEntry s := rfl
    simp only [memQueryBody, htaken, hentry, hmine, hlen]
    rfl
  change execMemQuery p first count s = _
  rw [execMemQuery, mailbox_finish hp hbody]

theorem exec_memRestore {p : Post} {s : State} (hp : Posts p rowMemRestore 0 s) :
    exec (.memRestore p) s = .next (finish p stOk [] (updHbm (fun h => { h with trial := h.mapped }) (taken p s))) := by
  change execMemRestore p s = _
  rw [execMemRestore, mailbox_finish (body := memRestoreBody) hp rfl]

/-! ## Refresh and retraining (R276, R289, R291) -/

theorem exec_refreshSlot {s : State} {t : Nat} (h : (s.stack t).st = 2) (temp : Nat) :
    exec (.refreshSlot t temp) s = .next (updStack t (fun q => { q with temp := temp }) s) := event_of (by simp [h])

theorem exec_retrainWindow {s : State} {c : Nat} (hw : windowOf c s.clock.beat = true) (hc : chanServes s c = true)
    (ha : s.clock.acb < 2002) (hb : boundaryDue s = false) (ok : Bool) (pins : List (Nat × Nat)) :
    exec (.retrainWindow c ok pins) s = .next (retrain c ok pins s) := event_of (by simp [hw, hc, ha, hb])

/-! ## The requests of a slot (R278 to R281) -/

/-- A request that is offered to a slot is taken last, while the slot has fewer than 5, or is left. -/
theorem offer_cases (s : State) (n : Nat) (t : Taken) (q : Req) :
    (offer s n t q).reqs = t.reqs ∨ t.reqs.length < 5 ∧ (offer s n t q).reqs = t.reqs ++ [q] := by
  unfold offer
  dsimp only
  split
  · exact .inl rfl
  · rename_i h
    split
    · exact .inr ⟨by omega, rfl⟩
    · split
      · exact .inr ⟨by omega, rfl⟩
      · exact .inl rfl

/-- A slot takes at most 5 of the requests that it is offered. -/
theorem foldl_offer (s : State) (n : Nat) (l : List Req) (t : Taken) (h : t.reqs.length ≤ 5) :
    (l.foldl (offer s n) t).reqs.length ≤ 5 ∧ ∀ q ∈ (l.foldl (offer s n) t).reqs, q ∈ t.reqs ∨ q ∈ l := by
  induction l generalizing t with
  | nil => exact ⟨h, fun q hq => .inl hq⟩
  | cons x l ih =>
    rw [List.foldl_cons]
    rcases offer_cases s n t x with e | ⟨hl, e⟩
    · obtain ⟨h5, hmem⟩ := ih (offer s n t x) (by rw [e]; exact h)
      rw [e] at hmem
      exact ⟨h5, fun q hq => (hmem q hq).imp_right (List.mem_cons_of_mem x)⟩
    · obtain ⟨h5, hmem⟩ := ih (offer s n t x) (by rw [e, List.length_append]; exact hl)
      refine ⟨h5, fun q hq => ?_⟩
      have hq' := hmem q hq
      rw [e, List.mem_append, List.mem_singleton] at hq'
      rw [List.mem_cons]
      tauto

theorem mem_insertReq {q x : Req} : ∀ {l : List Req}, x ∈ insertReq q l → x = q ∨ x ∈ l
  | [], h => .inl (List.mem_singleton.1 h)
  | r :: rs, h => by
    unfold insertReq at h
    split at h
    · exact List.mem_cons.1 h
    · rcases List.mem_cons.1 h with rfl | h
      · exact .inr List.mem_cons_self
      · exact (mem_insertReq h).imp_right (List.mem_cons_of_mem r)

theorem mem_sortReqs {x : Req} {l : List Req} (h : x ∈ sortReqs l) : x ∈ l := by
  induction l with
  | nil => exact h
  | cons q l ih => exact List.mem_cons.2 ((mem_insertReq h).imp_right ih)

/-- Setting the direction of a run leaves the queue. -/
theorem setDirection_reqs (beat slot run : Nat) (p : PseudoChan) : (setDirection beat slot run p).reqs = p.reqs := by
  unfold setDirection
  dsimp only
  split <;> rfl

section
variable (s : State) (c beat slot : Nat) (p : PseudoChan)

/-- The requests that a slot serves, and what is left of the pseudo-channel's queue. -/
theorem fillSlot_leaves : (fillSlot s c beat slot p).2.reqs = p.reqs.filter (fun q => !(fillSlot s c beat slot p).1.contains q)
    ∧ (fillSlot s c beat slot p).2.lastSlot = 5000 * beat + slot + 1 := ⟨rfl, rfl⟩

theorem length_fillSlot : (fillSlot s c beat slot p).1.length ≤ 5 := (foldl_offer _ _ _ _ (by simp)).1

/-- A slot serves queued requests of its direction whose time has come, at addresses that it can serve. -/
theorem mem_fillSlot {q : Req} (h : q ∈ (fillSlot s c beat slot p).1) : q ∈ p.reqs ∧ q.write = p.write
    ∧ q.at_ + (if q.write then writeMargin q.addr else 0) ≤ 65000 * beat + 13 * slot ∧ slotServes s c beat slot q.addr = true := by
  have hcand := ((foldl_offer _ _ _ _ (by simp)).2 q h).resolve_left (by simp)
  have hq := mem_sortReqs hcand
  simp only [List.mem_filter, Bool.and_eq_true, beq_iff_eq, decide_eq_true_eq] at hq
  obtain ⟨hmem, ⟨⟨hwrite, htime⟩, -⟩, hserves⟩ := hq
  exact ⟨hmem, hwrite, htime, hserves⟩

end

/-! ## What the reads of a slot bring (R281) -/

/-- t is s after sectors have gone to the readers of their lots: RUNs gain sectors, and nothing else changes. -/
structure Receives (s t : State) : Prop where
  same : t = { s with parts := t.parts }
  arrived : ∀ k r, (s.part k).run = some r → ∃ u, (t.part k).run = some u ∧ ∀ x ∈ r.arrived, x ∈ u.arrived

theorem Receives.refl (s : State) : Receives s s := ⟨rfl, fun _ r h => ⟨r, h, fun _ hx => hx⟩⟩

theorem Receives.trans {s t u : State} (h : Receives s t) (g : Receives t u) : Receives s u where
  same := by
    have e := g.same
    rwa [h.same] at e
  arrived := fun k r hr => by
    obtain ⟨v, hv, hsv⟩ := h.arrived k r hr
    obtain ⟨w, hw, hvw⟩ := g.arrived k v hv
    exact ⟨w, hw, fun x hx => hvw x (hsv x hx)⟩

theorem arrive_receives (q : Req) (n : Nat) (bad : Bool) (d : List Byte) (s : State) : Receives s (arrive q n bad d s) where
  same := rfl
  arrived := fun k r hr => by
    unfold arrive
    rw [part_updRun]
    split
    · rename_i e
      subst e
      exact ⟨_, by rw [hr, Option.map_some], fun x hx => List.mem_append_left _ hx⟩
    · exact ⟨r, hr, fun x hx => hx⟩

/-- A read without an error on its pins takes the sector as it is stored; a listed one is poisoned (R284, R292). -/
theorem readSector_clean (c pc addr : Nat) (s : State) : readSector c pc addr [] s = (⟨sectorListed s (addr / 64), false⟩, s) := by
  unfold readSector
  cases h : sectorListed s (addr / 64) <;> rfl

theorem serveReq_clean (c pc n : Nat) (q : Req) (s : State) : serveReq c pc n [] q s =
    if q.write then s else arrive q (n + readLatency q.rank q.addr) (sectorListed s (q.addr / 64)) (readT1s s q.addr 64) s := by
  have herr : errorAt [] q.addr = [] := rfl
  simp only [serveReq, herr, readSector_clean]
  rfl

theorem serveReq_receives (c pc n : Nat) (q : Req) (s : State) : Receives s (serveReq c pc n [] q s) := by
  rw [serveReq_clean]
  split
  · exact .refl s
  · exact arrive_receives _ _ _ _ s

theorem forAll_serveReq_receives (c pc n : Nat) (l : List Req) (s : State) : Receives s (forAll l (serveReq c pc n []) s) :=
  forAll_induct (P := Receives s) (fun q u h => h.trans (serveReq_receives c pc n q u)) l (.refl s)

/-- A sector's bytes do not rest on the partitions' RUNs, nor does its place on a poison list. -/
theorem Receives.readT1s {s t : State} (h : Receives s t) (a n : Nat) : readT1s t a n = readT1s s a n := by rw [h.same]; rfl
theorem Receives.sectorListed {s t : State} (h : Receives s t) (a : Nat) : sectorListed t a = sectorListed s a := by rw [h.same]; rfl

/-- A sector that a slot reads comes to the RUN of its lot, due at its latency (R64, R65). -/
theorem forAll_serveReq_arrives {c pc n : Nat} {l : List Req} {q : Req} (hq : q ∈ l) (hw : q.write = false) {s : State}
    (hl : sectorListed s (q.addr / 64) = false) {r : Run} (hr : (s.part q.lot.part).run = some r) :
    ∃ u, ((forAll l (serveReq c pc n []) s).part q.lot.part).run = some u
      ∧ ⟨q.lot, q.addr, n + readLatency q.rank q.addr, readT1s s q.addr 64, false⟩ ∈ u.arrived := by
  obtain ⟨l1, l2, rfl⟩ := List.append_of_mem hq
  have h1 := forAll_serveReq_receives c pc n l1 s
  obtain ⟨v, hv, -⟩ := h1.arrived _ r hr
  have hserved : ((serveReq c pc n [] q (forAll l1 (serveReq c pc n []) s)).part q.lot.part).run = some { v with
      arrived := v.arrived ++ [⟨q.lot, q.addr, n + readLatency q.rank q.addr, readT1s s q.addr 64, false⟩] } := by
    rw [serveReq_clean, if_neg (by simp [hw]), arrive, part_updRun_some hv, h1.readT1s, h1.sectorListed, hl]
  obtain ⟨u, hu, hvu⟩ := (forAll_serveReq_receives c pc n l2 _).arrived _ _ hserved
  refine ⟨u, ?_, hvu _ (by simp)⟩
  rw [← hu]
  simp [forAll, List.foldl_append]

/-! ## A slot of a pseudo-channel -/

/-- The requests that an access slot serves, and the pseudo-channel after it. -/
def slotFill (s : State) (c pc slot run : Nat) : List Req × PseudoChan :=
  fillSlot s c s.clock.beat slot (setDirection s.clock.beat slot run (pcAt s c pc))

/-- Outside the reserved run, a slot that meets no errors serves the exact requests alone. -/
theorem hbmSlot_clean {c pc slot run : Nat} {s : State} (h : reservedSlot slot = false) : hbmSlot c pc slot run [] s =
    forAll (slotFill s c pc slot run).1 (serveReq c pc (65000 * s.clock.beat + 13 * slot) [])
      (updPc c pc (fun _ => (slotFill s c pc slot run).2) s) := by
  unfold hbmSlot
  rw [h]
  rfl

theorem exec_hbmSlot_clean {s : State} {c pc slot run : Nat} (hrun : slotRun slot = some run) (hslot : slot < 5000)
    (hc : chanServes s c = true) (hb : boundaryDue s = false) (hl : (pcAt s c pc).lastSlot ≤ 5000 * s.clock.beat + slot) :
    exec (.hbmSlot c pc slot []) s = .next (advanceAc (13 * slot) (hbmSlot c pc slot run [] s)) := by
  change execHbmSlot c pc slot [] s = _
  have hfit : errorsFit s c pc slot [] = true := rfl
  simp only [execHbmSlot, hrun]
  exact event_of (by simp [hslot, hc, hb, hl, hfit])

theorem pcAt_updPc (c pc : Nat) (f : PseudoChan → PseudoChan) (s : State) : pcAt (updPc c pc f s) c pc = f (pcAt s c pc) :=
  (tget_tupd _ _ _ _ _).trans (if_pos rfl)

/-- Settles O27: the commands and the maintenance slots by what each does, an access slot by the requests that it takes and by what its
reads bring. -/
theorem memoryCommands : Obligations.MemoryCommands := by
  unfold Obligations.MemoryCommands
  refine ⟨fun p s => ⟨fun first count hp h1 h2 hs => exec_memQuery hp h1 h2 hs, exec_memRestore⟩,
    fun s => ⟨fun t temp ht => ?refresh, fun c pins hw hc ha hb => exec_retrainWindow hw hc ha hb true pins,
      fun c hw hc ha hb => exec_retrainWindow hw hc ha hb false [], fun c pc slot run hrun hslot hc hb hl hres => ?slot⟩⟩
  case refresh =>
    exact ⟨_, exec_refreshSlot ht temp, by rw [stack_updStack_same], fun j hj => by rw [stack_updStack, if_neg hj], rfl, rfl, rfl, rfl, rfl,
      rfl⟩
  case slot =>
    have hserved := forAll_serveReq_receives c pc (65000 * s.clock.beat + 13 * slot) (slotFill s c pc slot run).1
      (updPc c pc (fun _ => (slotFill s c pc slot run).2) s)
    rw [← hbmSlot_clean hres] at hserved
    have hpc : pcAt (hbmSlot c pc slot run [] s) c pc = (slotFill s c pc slot run).2 := by
      rw [hserved.same]
      exact pcAt_updPc c pc _ s
    obtain ⟨hleft, hlast⟩ := fillSlot_leaves s c s.clock.beat slot (setDirection s.clock.beat slot run (pcAt s c pc))
    rw [setDirection_reqs] at hleft
    refine ⟨_, (slotFill s c pc slot run).1, exec_hbmSlot_clean hrun hslot hc hb hl, length_fillSlot _ _ _ _ _, fun q hq => ?taken,
      (congrArg PseudoChan.reqs hpc).trans hleft, (congrArg PseudoChan.lastSlot hpc).trans hlast, ?t1, ?t2, ?clock,
      fun q hq hw hlist r hr => ?arrives⟩
    case taken =>
      have h := mem_fillSlot _ _ _ _ _ hq
      rwa [setDirection_reqs] at h
    case arrives =>
      have h := forAll_serveReq_arrives (s := updPc c pc (fun _ => (slotFill s c pc slot run).2) s) hq hw hlist hr
        (c := c) (pc := pc) (n := 65000 * s.clock.beat + 13 * slot)
      rwa [← hbmSlot_clean hres] at h
    all_goals
      simp only [advanceAc]
      rw [hserved.same]
      rfl

end Sys2Proof.Machine
end

section
/-! PROOFS. The codec commands (R304 to R309, R324, R325): what each does after its checks, and the session that it opens, closes or
reports. -/

namespace Sys2Proof.Machine

/-! ## The state at the sampling -/

@[simp] theorem rangeCheck_taken (p : Post) (s : State) (c a n : Nat) : rangeCheck (taken p s) c a n = rangeCheck s c a n := rfl
@[simp] theorem rangeBales_taken (p : Post) (s : State) (c a n : Nat) : rangeBales (taken p s) c a n = rangeBales s c a n := rfl
@[simp] theorem codecRanges_taken (p : Post) (s : State) (c : Nat) (l : List (Nat × Nat)) :
    codecRanges (taken p s) c l = codecRanges s c l := rfl
@[simp] theorem pipeChoices_taken (p : Post) (s : State) (o : CodecParams) : pipeChoices (taken p s) o = pipeChoices s o := rfl
@[simp] theorem choosePipe_taken (p : Post) (s : State) (o : CodecParams) : choosePipe (taken p s) o = choosePipe s o := rfl
@[simp] theorem namedSession_taken (p q : Post) (s : State) (h : Nat) : namedSession (taken p s) q h = namedSession s q h := rfl
@[simp] theorem midFrame_taken (p : Post) (s : State) (x : Session) : midFrame (taken p s) x = midFrame s x := rfl
@[simp] theorem pipeWord_taken (p : Post) (s : State) (i : Nat) : pipeWord (taken p s) i = pipeWord s i := rfl

/-! ## Where each command runs -/

theorem exec_codecOpen (p : Post) (o : CodecParams) (s : State) :
    exec (.codecOpen p o) s = .next (mailbox p rowCodecOpen 27 (codecOpenBody p o) s) := rfl

theorem exec_codecDecode (p : Post) (h : Nat) (last : Bool) (inVa bytes groups outVa : Nat) (s : State) :
    exec (.codecDecode p h last inVa bytes groups outVa) s =
      .next (mailbox p rowCodecDecode 4 (codecDecodeBody p h last inVa bytes groups outVa) s) := rfl

theorem exec_codecEncode (p : Post) (h : Nat) (last key : Bool) (inVa groups outVa bytes : Nat) (s : State) :
    exec (.codecEncode p h last key inVa groups outVa bytes) s =
      .next (mailbox p rowCodecEncode 5 (codecEncodeBody p h last key inVa groups outVa bytes) s) := rfl

theorem exec_codecClose (p : Post) (h : Nat) (s : State) :
    exec (.codecClose p h) s = .next (mailbox p rowCodecClose 1 (codecCloseBody p h) s) := rfl

theorem exec_codecQuery (p : Post) (h : Nat) (s : State) :
    exec (.codecQuery p h) s = .next (mailbox p rowCodecQuery 1 (codecQueryBody p h) s) := rfl

/-! ## CODEC.OPEN (R305 to R309) -/

/-- The session that an accepted CODEC.OPEN makes on pipeline q. -/
def openedSession (p : Post) (o : CodecParams) (q : Nat) (s : State) : Session where
  handle := s.codec.nextSession
  ctx := o.ctx
  part := postTarget p
  pipe := q
  params := o
  state := 0
  framesIn := 0
  framesOut := 0
  held := []
  pictures := []
  lastClean := none
  cmd := none
  closing := false
  bits := []
  coded := 0
  holds := rangeBales s o.ctx o.workVa o.workBytes

/-- The state with that session, its pipeline switched on (R301). -/
def sessionOpened (p : Post) (o : CodecParams) (q : Nat) (s : State) : State :=
  updPipe q (fun v => { v with power := 1 })
    (updCodec (fun c => { c with sessions := c.sessions ++ [openedSession p o q s], nextSession := s.codec.nextSession + 1 }) s)

/-- The result of CODEC.OPEN: the handle, the pipeline within its direction, and WORK_NEED (R306, R307). -/
def openResult (o : CodecParams) (q : Nat) (s : State) : List Byte :=
  leBytes 4 s.codec.nextSession ++ leBytes 1 (if o.dir = 1 then q else q - 2) ++ zeros 3 ++ leBytes 8 (workNeed o)

theorem codecOpenBody_done {p : Post} {o : CodecParams} {c : Ctx} {q : Nat} {s : State} (hctx : checkCtx p o.ctx s = .ok c)
    (hstream : streamFits o = true) (hpicture : pictureFits o = true) (hrate : rateFits o = true) (hdesc : patchDescFits o = true)
    (hshape : patchShapeFits o = true) (hend : o.workVa + o.workBytes ≤ 2 ^ 48) (hwork : workNeed o ≤ o.workBytes)
    (hrange : rangeCheck s o.ctx o.workVa o.workBytes = none) (hpower : ∃ z ∈ pipeChoices s o, (s.pipe z).power ≠ 2)
    (hpipe : choosePipe s o = some q) :
    codecOpenBody p o (taken p s) = .done stOk (openResult o q s) (sessionOpened p o q (taken p s)) := by
  have hfit : (!(streamFits o && pictureFits o && rateFits o && patchDescFits o && patchShapeFits o)
      || decide (2 ^ 48 < o.workVa + o.workBytes)) = false := by simp [hstream, hpicture, hrate, hdesc, hshape]; omega
  have hserved : ((rangeCheck s o.ctx o.workVa o.workBytes).isSome || (pipeChoices s o).all fun z => (s.pipe z).power == 2) = false := by
    simpa [hrange] using hpower
  rw [codecOpenBody, withCtx_ok hctx]
  simp only [hfit, rangeCheck_taken, pipeChoices_taken, taken_pipe, hserved, choosePipe_taken, hpipe, Bool.false_eq_true, if_false,
    if_neg (Nat.not_lt.2 hwork)]
  rfl

/-! ## CODEC.CLOSE (R324) and CODEC.QUERY (R325) -/

section
variable {p : Post} {h : Nat} {x : Session} {s : State} (hx : namedSession s p h = some x)
include hx

theorem codecCloseBody_idle (hc : x.closing = false) (hm : midFrame s x = false) :
    codecCloseBody p h (taken p s) = .done stOk [] (abortSession stOk h (taken p s)) := by
  simp [codecCloseBody, hx, hc, hm]

theorem codecCloseBody_midFrame (hc : x.closing = false) (hm : midFrame s x = true) : codecCloseBody p h (taken p s) =
    .accept none [] x.ctx x.part (.close h) (updSession h (fun y => { y with closing := true }) (taken p s)) := by
  simp [codecCloseBody, hx, hc, hm]

theorem codecQueryBody_session (hh : h ≠ 0xFFFF_FFFF) : codecQueryBody p h (taken p s) =
    .done stOk (((List.range 6).flatMap fun i => leBytes 8 (pipeWord s i)) ++ leBytes 4 x.state ++ leBytes 4 x.framesIn
      ++ leBytes 4 x.framesOut) (taken p s) := by
  simp only [codecQueryBody, if_neg hh, namedSession_taken, hx, pipeWord_taken]

end

theorem codecQueryBody_pipes (p : Post) (s : State) : codecQueryBody p 0xFFFF_FFFF (taken p s) =
    .done stOk ((List.range 6).flatMap fun i => leBytes 8 (pipeWord s i)) (taken p s) := by
  simp only [codecQueryBody, if_true, pipeWord_taken]

/-- Settles O25, command by command: the checks pass, and the session is the one that the command makes, ends, marks or reports. -/
theorem codecSessions : Obligations.CodecSessions := by
  unfold Obligations.CodecSessions
  intro p s
  refine ⟨?opened, ?closed, ?closing, fun hp => ?pipes, fun h x hp hh hx => ?session⟩
  case opened =>
    intro o c q hp hctx hstream hpicture hrate hdesc hshape hend hwork hrange hpower hpipe
    have hbody := codecOpenBody_done hctx hstream hpicture hrate hdesc hshape hend hwork hrange hpower hpipe
    refine ⟨_, (exec_codecOpen ..).trans (congrArg _ (mailbox_finish hp hbody)), finish_completed rfl, ?_, ?_, openedSession p o q s, ?_,
      rfl, rfl, rfl, rfl, rfl, rfl, rfl, rfl⟩
    · rw [finish_codec]; rfl
    · have hpower : (sessionOpened p o q (taken p s)).pipe q = { s.pipe q with power := 1 } := pipe_updPipe_same _ _ _
      rw [State.pipe, finish_codec, ← State.pipe, hpower]
    · rw [finish_codec]; rfl
  case closed =>
    exact fun h x hp hx hc hm => (exec_codecClose ..).trans (congrArg _ (mailbox_finish hp (codecCloseBody_idle hx hc hm)))
  case closing =>
    exact fun h x hp hx hc hm => (exec_codecClose ..).trans (congrArg _ (mailbox_start hp (codecCloseBody_midFrame hx hc hm)))
  case pipes => exact (exec_codecQuery ..).trans (congrArg _ (mailbox_finish hp (codecQueryBody_pipes p s)))
  case session => exact (exec_codecQuery ..).trans (congrArg _ (mailbox_finish hp (codecQueryBody_session hx hh)))

end Sys2Proof.Machine
end

section
/-! PROOFS. CODEC.DECODE and CODEC.ENCODE, the end of a frame, and the watchdog (R304, R308, R313, R316 to R318, R320 to R325): what the
work on a frame leaves of the contexts and of the pipelines' counts, and the session and the command that an error in the stream
leaves. -/

namespace Sys2Proof.Machine

/-! ## Commands that are accepted (R308, R313, R320) -/

theorem findSession_handle {s : State} {h : Nat} {x : Session} (e : findSession s h = some x) : x.handle = h := by
  simpa using List.find?_some e

section
variable {p : Post} {h : Nat} {x : Session} {s : State} {inVa bytes groups outVa : Nat} {last : Bool}
  (hx : namedSession s p h = some x) (hs : x.state = 0) (hc : x.closing = false) (hg : 1 ≤ groups) (hg' : groups ≤ 4096)
  (hb : bytes ≤ 2 ^ 30)
include hx hs hc hg hg' hb

/-- A CODEC.DECODE whose operands fit and whose ranges are resident becomes the command of its session (R308, R313). -/
theorem codecDecodeBody_starts (hd : x.params.dir = 0) (hlast : bytes = 0 → last = true)
    (hr : codecRanges s x.ctx [(inVa, bytes), (outVa, (groups - 1) * strAt x.params.desc 3 + groupExtent x.params.desc)] = none) :
    codecDecodeBody p h last inVa bytes groups outVa (taken p s) =
      startCodecCmd x (newCodecCmd (taken p s) false last false inVa bytes groups outVa
        ([(inVa, bytes), (outVa, (groups - 1) * strAt x.params.desc 3 + groupExtent x.params.desc)].flatMap fun e =>
          if e.2 = 0 then [] else rangeBales s x.ctx e.1 e.2).dedup) (taken p s) := by
  have hlen : (decide (2 ^ 30 < bytes) || (decide (bytes = 0) && !last) || !between 1 4096 groups) = false := by
    simpa [between, hg, hg'] using ⟨hb, hlast⟩
  simp only [codecDecodeBody, namedSession_taken, hx, hd, hs, hc, hlen, codecRanges_taken, hr, rangeBales_taken]
  rfl

/-- A CODEC.ENCODE whose operands fit and whose ranges are resident becomes the command of its session (R308, R320). -/
theorem codecEncodeBody_starts (key : Bool) (hd : x.params.dir = 1) (hb1 : 1 ≤ bytes)
    (hr : codecRanges s x.ctx [(inVa, (groups - 1) * strAt x.params.desc 3 + groupExtent x.params.desc), (outVa, bytes)] = none) :
    codecEncodeBody p h last key inVa groups outVa bytes (taken p s) =
      startCodecCmd x (newCodecCmd (taken p s) true last key inVa bytes groups outVa
        ([(inVa, (groups - 1) * strAt x.params.desc 3 + groupExtent x.params.desc), (outVa, bytes)].flatMap fun e =>
          rangeBales s x.ctx e.1 e.2).dedup) (taken p s) := by
  have hlen : (!between 1 4096 groups || !between 1 (2 ^ 30) bytes) = false := by simpa [between, hg, hg', hb1] using hb
  simp only [codecEncodeBody, namedSession_taken, hx, hd, hs, hc, hlen, codecRanges_taken, hr, rangeBales_taken]
  rfl

end

/-- What a command of a session leaves once its own part starts it: ACCEPTED, and the command in the session (R305, R308). -/
theorem mailbox_startCodecCmd {p : Post} {r : CmdRow} {n : Nat} {s : State} {body : State → Reply} {x : Session} {c : CodecCmd}
    (hp : Posts p r n s) (hb : body (taken p s) = startCodecCmd x c (taken p s)) :
    ∃ t, mailbox p r n body s = t ∧ Accepted p none x.ctx x.part (.codec x.handle) s t ∧ t.codec.pipes = s.codec.pipes
      ∧ t.codec.sessions = mapIf (fun y => y.handle == x.handle) (fun y => { y with cmd := some c, state := 1 }) s.codec.sessions :=
  ⟨_, mailbox_start hp hb, start_accepted rfl, by rw [start_codec]; rfl, by rw [start_codec]; rfl⟩

/-! ## What frames write -/

/-- t differs from s in what the work on a frame writes: memory, sync counters, sessions, and the serial number of coded frames. -/
structure Written (s t : State) : Prop where
  same : t = { s with parts := t.parts, place := t.place, hbm := t.hbm, free := t.free
                      codec := { s.codec with sessions := t.codec.sessions } }

theorem Written.refl (s : State) : Written s s := ⟨rfl⟩

theorem Written.trans {s t u : State} (h : Written s t) (k : Written t u) : Written s u where
  same := by
    have e := k.same
    rwa [h.same] at e

theorem Written.each {α : Type} {f : α → State → State} (hf : ∀ a u, Written u (f a u)) (l : List α) (s : State) :
    Written s (forAll l f s) := forAll_induct (P := Written s) (fun a u h => h.trans (hf a u)) l (.refl s)

theorem Written.host {s t : State} (h : Written s t) : t.host = s.host := by rw [h.same]

theorem written_updSession (h : Nat) (f : Session → Session) (s : State) : Written s (updSession h f s) := ⟨rfl⟩

theorem written_addSync (k c v : Nat) (s : State) : Written s (addSync k c v s) := ⟨rfl⟩

theorem written_writeT1 (pa : Nat) (d : List Byte) (s : State) : Written s (writeT1 pa d s) := by
  obtain ⟨h, p, e, -⟩ := writeT1_same pa d s
  rw [e]
  exact ⟨rfl⟩

theorem written_writeVaPage (ctx va : Nat) (d : List Byte) (s : State) : Written s (writeVaPage ctx va d s) := by
  obtain ⟨h, p, e, -⟩ := writeVaPage_same ctx va d s
  rw [e]
  exact ⟨rfl⟩

theorem written_zeroVa (ctx va n : Nat) (s : State) : Written s (zeroVa ctx va n s) := by
  refine .each (fun a t => ?_) _ s
  extract_lets lo hi
  split
  · unfold clearT1
    split
    · exact ⟨rfl⟩
    · exact written_writeT1 _ _ t
  · exact .refl t

/-- Writing a group changes the memory alone. -/
theorem writeGroup_same (x : Session) (base : Nat) (l : List Planes) (s : State) :
    ∃ m q, writeGroup x base l s = { s with hbm := m, place := q } := by
  refine forAll_induct (P := fun u => ∃ m q, u = { s with hbm := m, place := q }) (fun e u hu => ?_) _ ⟨s.hbm, s.place, rfl⟩
  refine forAll_induct (P := fun u => ∃ m q, u = { s with hbm := m, place := q }) (fun i v hv => ?_) _ hu
  obtain ⟨m, q, rfl⟩ := hv
  obtain ⟨m', q', e', -⟩ := writeVaPage_same x.ctx (patchLoc x.params base e.2 (i / 3 % x.params.width) (i / 3 / x.params.width) (i % 3)).addr
    (leBytes (bitsOf x.params.desc / 8) (pixelOut x.params e.1 (i / 3 % x.params.width) (i / 3 / x.params.width) (i % 3)))
    { s with hbm := m, place := q }
  exact ⟨m', q', e'⟩

theorem written_writeGroup (x : Session) (base : Nat) (l : List Planes) (s : State) : Written s (writeGroup x base l s) := by
  obtain ⟨m, q, e⟩ := writeGroup_same x base l s
  rw [e]
  exact ⟨rfl⟩

theorem written_writeGroups (h : Nat) : ∀ n s, Written s (writeGroups n h s)
  | 0, s => .refl s
  | n + 1, s => by
    unfold writeGroups
    split
    · exact .refl s
    · split
      · exact .refl s
      · split
        · exact .refl s
        · exact (((written_writeGroup _ _ _ s).trans (written_updSession _ _ _)).trans (written_addSync _ _ _ _)).trans
            (written_writeGroups h n _)

theorem written_flushGroup (h : Nat) (s : State) : Written s (flushGroup h s) := by
  unfold flushGroup
  split
  · exact .refl s
  · split
    · split
      · exact .refl s
      · exact ((written_writeGroup _ _ _ s).trans (written_updSession _ _ _)).trans (written_addSync _ _ _ _)
    · exact .refl s

theorem written_writeCoded (ctx va : Nat) (d : List Byte) (s : State) : Written s (writeCoded ctx va d s) :=
  .each (fun _ t => written_writeVaPage ctx _ _ t) _ s

/-! ## The contexts and the counts of frames (R325) -/

/-- From s to t the contexts stay as they are, and so does every pipeline's count of frames. -/
structure CountKept (s t : State) : Prop where
  ctxs : t.ctxs = s.ctxs
  frames : ∀ i, (t.pipe i).frames = (s.pipe i).frames

theorem CountKept.refl (s : State) : CountKept s s := ⟨rfl, fun _ => rfl⟩

theorem CountKept.trans {s t u : State} (h : CountKept s t) (k : CountKept t u) : CountKept s u :=
  ⟨k.ctxs.trans h.ctxs, fun i => (k.frames i).trans (h.frames i)⟩

theorem Written.countKept {s t : State} (h : Written s t) : CountKept s t where
  ctxs := by rw [h.same]
  frames := fun i => by rw [h.same]; rfl

theorem Told.countKept {s t : State} (h : Told s t) : CountKept s t where
  ctxs := h.ctxs
  frames := fun i => by rw [h.same]; rfl

theorem countKept_updPipe (i : Nat) (f : Pipe → Pipe) (s : State) (hf : ∀ q, (f q).frames = q.frames) : CountKept s (updPipe i f s) where
  ctxs := rfl
  frames := fun j => by
    rw [pipe_updPipe]
    split
    · rename_i e; rw [hf, e]
    · rfl

theorem countKept_completeProg (g : InProgress) (st : Nat) (r : List Byte) (s : State) : CountKept s (completeProg g st r s) := by
  obtain ⟨o, v, e⟩ := completeProg_same g st r s
  rw [e]
  exact ⟨rfl, fun _ => rfl⟩

theorem countKept_endCodecCmd (h st : Nat) (r : List Byte) (s : State) : CountKept s (endCodecCmd h st r s) := by
  unfold endCodecCmd
  split
  · exact .refl s
  · rename_i x _
    extract_lets t
    have ht : CountKept s t := (written_updSession _ _ s).countKept.trans (countKept_updPipe _ _ _ fun q => by split <;> rfl)
    split
    · exact ht.trans (countKept_completeProg _ _ _ t)
    · exact ht

theorem countKept_removeSession (h : Nat) (s : State) : CountKept s (removeSession h s) := by
  unfold removeSession
  split
  · exact .refl s
  · extract_lets t u
    have ht : CountKept s t := (written_zeroVa _ _ _ s).countKept.trans ⟨rfl, fun _ => rfl⟩
    have hu : CountKept s u := by
      unfold u
      split
      · exact ht.trans (countKept_updPipe _ _ t fun q => by split <;> rfl)
      · exact ht
    split
    · exact hu.trans (countKept_completeProg _ _ _ u)
    · exact hu

theorem countKept_finishCodec (h st : Nat) (s : State) : CountKept s (finishCodec h st s) := by
  unfold finishCodec
  split
  · exact .refl s
  · extract_lets t
    have ht : CountKept s t := countKept_endCodecCmd _ _ _ s
    split
    · exact ht.trans (countKept_removeSession _ t)
    · exact ht

theorem countKept_decodeFrame (h : Nat) (r : FrameReport) (s : State) : CountKept s (decodeFrame h r s) := by
  unfold decodeFrame
  split
  · exact .refl s
  · split
    · exact .refl s
    · extract_lets strict bad s1 s2 s3
      have h1 : CountKept s s1 := (written_updSession _ _ s).countKept
      have h2 : CountKept s s2 := by
        unfold s2
        split
        · exact h1.trans (countKept_updPipe _ _ s1 fun _ => rfl)
        · exact h1
      have h3 : CountKept s s3 := h2.trans (written_writeGroups h 4096 s2).countKept
      split
      · exact h3
      · split
        · split
          · exact (h3.trans (written_updSession _ _ s3).countKept).trans (countKept_finishCodec _ _ _)
          · refine CountKept.trans ?_ (countKept_finishCodec _ _ _)
            split
            · exact (h3.trans (written_flushGroup h s3).countKept).trans (written_updSession _ _ _).countKept
            · exact h3
        · exact h3

theorem countKept_encodeFrame (h : Nat) (s : State) : CountKept s (encodeFrame h s) := by
  unfold encodeFrame
  extract_lets s0
  have h0 : CountKept s s0 := ⟨rfl, fun _ => rfl⟩
  split
  · exact h0
  · split
    · exact h0
    · extract_lets coded
      split
      · exact h0.trans (countKept_finishCodec _ _ s0)
      · rename_i s1 s2 s3 _
        have h2 : CountKept s s2 := (h0.trans (written_writeCoded _ _ _ s0).countKept).trans (written_updSession _ _ s1).countKept
        have h3 : CountKept s s3 := by
          unfold s3
          split
          · exact h2.trans (written_addSync _ _ _ s2).countKept
          · exact h2
        split
        · exact h3.trans (countKept_finishCodec _ _ s3)
        · exact h3

theorem countKept_clearSuspect (e ctx : Nat) (s : State) : CountKept s (clearSuspect e ctx s) := by
  obtain ⟨v, hv⟩ := clearSuspect_told e ctx s
  exact CountKept.trans (t := { s with recov := v }) ⟨rfl, fun _ => rfl⟩ hv.countKept

theorem countKept_kickPipe (p : Nat) (s : State) : CountKept s (kickPipe p s) := by
  unfold kickPipe
  extract_lets q cur
  split
  · exact .refl s
  · split
    · exact countKept_updPipe p _ s fun _ => rfl
    · exact .refl s

/-! ## The end of a frame (R304, R305, R325) -/

/-- The pipeline rests and has counted its frame. -/
def frameCounted (p : Nat) (s : State) : State :=
  updPipe p (fun q => { q with busy := false, frames := (q.frames + 1) % 2 ^ 32 }) s

theorem frameDone_eq {p : Nat} {x : Session} {s : State} (hx : (s.pipe p).session.bind (findSession s) = some x) (r : FrameReport) :
    frameDone p r s = kickPipe p (clearSuspect (pipeBit p) x.ctx
      (if x.params.dir = 1 then encodeFrame x.handle (frameCounted p s) else decodeFrame x.handle r (frameCounted p s))) := by
  simp only [frameDone, hx]
  rfl

/-- The end of a frame adds 1 to FRAMES (R325) and leaves the contexts alone. -/
theorem countKept_frameDone {p : Nat} {x : Session} {s : State} (hx : (s.pipe p).session.bind (findSession s) = some x) (r : FrameReport) :
    CountKept (frameCounted p s) (frameDone p r s) := by
  rw [frameDone_eq hx]
  refine CountKept.trans ?_ ((countKept_clearSuspect _ _ _).trans (countKept_kickPipe p _))
  split
  · exact countKept_encodeFrame _ _
  · exact countKept_decodeFrame _ _ _

/-! ## An error in the stream (R316, R318) -/

theorem findSession_updSession {f : Session → Session} (hf : ∀ x, (f x).handle = x.handle) {h : Nat} {s : State} {x : Session}
    (hx : findSession s h = some x) : findSession (updSession h f s) h = some (f x) :=
  (find_mapIf (p := fun x : Session => x.handle == h) (fun x => by rw [hf]) s.codec.sessions).trans (congrArg (Option.map f) hx)

/-- A session with a group written, its command c having one more group and its frames (R313, R323). -/
def groupWritten (x : Session) (c : CodecCmd) (y : Session) : Session :=
  { y with
    held := y.held.drop x.params.pt
    framesOut := y.framesOut + x.params.pt
    cmd := some { c with groups := c.groups + 1, frames := c.frames + x.params.pt } }

/-- A session stays open with its command while groups are written. -/
theorem findSession_writeGroups {h : Nat} (n : Nat) {s : State} {x : Session} (hx : findSession s h = some x) (hc : x.cmd.isSome = true) :
    ∃ y, findSession (writeGroups n h s) h = some y ∧ y.closing = x.closing ∧ y.cmd.isSome = true := by
  induction n generalizing s x with
  | zero => exact ⟨x, hx, rfl, hc⟩
  | succ n ih =>
    obtain ⟨c, hc'⟩ := Option.isSome_iff_exists.1 hc
    simp only [writeGroups, hx, hc']
    split
    · exact ⟨x, hx, rfl, hc⟩
    · obtain ⟨m, q, e⟩ := writeGroup_same x (c.outVa + c.groups * strAt x.params.desc 3) (x.held.take x.params.pt) s
      rw [e]
      have hstep := findSession_updSession (f := groupWritten x c) (fun _ => rfl) (s := { s with hbm := m, place := q }) hx
      exact ih (s := addSync x.part (x.params.sync % 4096) 1 (updSession h (groupWritten x c) { s with hbm := m, place := q }))
        (x := groupWritten x c x) hstep rfl

/-- In t the session of a handle is in ERROR without a command, and the command that it had in s has its final completion (R316). -/
structure SessionFailed (h status : Nat) (s t : State) : Prop where
  session : ∃ y, findSession t h = some y ∧ y.state = 2 ∧ y.cmd = none
  ended : ∀ g, findProg s (fun y => y.job == .codec h) = some g → Ended g status t

namespace SessionFailed

variable {h status : Nat} {s t : State} (hf : SessionFailed h status s t)
include hf

theorem clearSuspect (e ctx : Nat) : SessionFailed h status s (clearSuspect e ctx t) := by
  obtain ⟨v, hv⟩ := clearSuspect_told e ctx t
  refine ⟨?_, fun g hg => ?_⟩
  · have hc : (Machine.clearSuspect e ctx t).codec = t.codec := by rw [hv.same]
    rw [findSession, hc]
    exact hf.session
  · obtain ⟨hc, hi, hgone⟩ := hf.ended g hg
    exact hv.ended status ⟨hc, hi, hgone⟩

theorem kickPipe (p : Nat) : SessionFailed h status s (kickPipe p t) := by
  unfold Machine.kickPipe
  extract_lets q cur
  split
  · exact hf
  · split
    · exact ⟨hf.session, fun g hg => ⟨(hf.ended g hg).complete, (hf.ended g hg).idle, (hf.ended g hg).gone⟩⟩
    · exact hf

end SessionFailed

/-- The state in which a session and its pipeline have no command any more. -/
def commandLeft (h : Nat) (x : Session) (s : State) : State :=
  updPipe x.pipe (fun q => if q.session == some h then { q with busy := false, session := none } else q)
    (updSession h (fun y => { y with cmd := none, state := if y.state = 2 then 2 else 0 }) s)

theorem endCodecCmd_eq {h : Nat} {x : Session} {s : State} (hx : findSession s h = some x) (status : Nat) (r : List Byte) :
    endCodecCmd h status r s =
      (findProg s fun g => g.job == .codec h).elim (commandLeft h x s) fun g => completeProg g status r (commandLeft h x s) := by
  simp only [endCodecCmd, hx]
  split
  · rename_i g e
    rw [show (findProg s fun g => g.job == .codec h) = some g from e]
    rfl
  · rename_i e
    rw [show (findProg s fun g => g.job == .codec h) = none from e]
    rfl

/-- The end of a command leaves a session in ERROR there. -/
theorem endCodecCmd_failed {h : Nat} {x : Session} {s : State} (hx : findSession s h = some x) (hs : x.state = 2) (status : Nat)
    (r : List Byte) : SessionFailed h status s (endCodecCmd h status r s) := by
  have ht : ∃ y, findSession (commandLeft h x s) h = some y ∧ y.state = 2 ∧ y.cmd = none :=
    ⟨_, findSession_updSession (f := fun y => { y with cmd := none, state := if y.state = 2 then 2 else 0 }) (fun _ => rfl) hx, by simp [hs],
      rfl⟩
  rw [endCodecCmd_eq hx]
  cases hg : findProg s (fun g => g.job == .codec h) with
  | none => exact ⟨ht, fun g hg' => by rw [hg] at hg'; cases hg'⟩
  | some g =>
    refine ⟨?_, fun g' hg' => ?_⟩
    · obtain ⟨o, v, e⟩ := completeProg_same g status r (commandLeft h x s)
      rw [Option.elim_some, e]
      exact ht
    · rw [hg] at hg'; cases hg'
      exact completeProg_ended _ _ _ _

/-- A session that does not close only ends its command. -/
theorem finishCodec_open {h : Nat} {x : Session} {s : State} (hx : findSession s h = some x) (hc : x.closing = false) (status : Nat) :
    finishCodec h status s = endCodecCmd h status ((x.cmd.map codecResult).getD []) s := by
  simp [finishCodec, hx, hc]

/-- A session that has taken in a frame, its command c having recorded it (R313 to R316). -/
def frameTaken (r : FrameReport) (x : Session) (c : CodecCmd) (y : Session) : Session :=
  { takePicture r y with cmd := some (recordFrame x.params r c) }

/-- The state in which a frame in error has been taken in, and the groups before it are written. -/
def errorTaken (h : Nat) (r : FrameReport) (x : Session) (c : CodecCmd) (s : State) : State :=
  writeGroups 4096 h (updPipe x.pipe (fun q => { q with lastErr := reportError x.params r })
    (updSession h (frameTaken r x c) s))

section
variable {h : Nat} {r : FrameReport} {x : Session} {c : CodecCmd} {s : State} (hx : findSession s h = some x) (hc : x.cmd = some c)
include hx

theorem findSession_errorTaken : ∃ y, findSession (errorTaken h r x c s) h = some y ∧ y.closing = x.closing ∧ y.cmd.isSome = true := by
  have hfirst := findSession_updSession (f := frameTaken r x c) (fun _ => rfl) hx
  exact findSession_writeGroups 4096 (s := updPipe x.pipe (fun q => { q with lastErr := reportError x.params r })
    (updSession h (frameTaken r x c) s)) (x := frameTaken r x c x) hfirst rfl

include hc

/-- A STRICT session's decode stops at an error, and leaves the session in ERROR (R316). -/
theorem decodeFrame_strict (hcls : x.params.cls = 0) (he : reportError x.params r ≠ 0) :
    decodeFrame h r s = finishCodec h stBadArg (updSession h (fun y => { y with state := 2 }) (errorTaken h r x c s)) := by
  obtain ⟨y, hy, -, hcmd⟩ := findSession_errorTaken (r := r) (c := c) hx
  obtain ⟨d, hd⟩ := Option.isSome_iff_exists.1 hcmd
  have hbad : (reportError x.params r != 0) = true := by simpa using he
  have hstop : decodeStops r x d = true := by simp [decodeStops, hcls, he]
  have hfound : (findSession (errorTaken h r x c s) h).bind (·.cmd) = some d := by rw [hy]; exact hd
  unfold errorTaken frameTaken at hfound ⊢
  simp only [decodeFrame, hx, hc, hbad, if_true, hfound, hstop, hcls, beq_self_eq_true, Bool.and_self]

theorem decodeFrame_strict_failed (hcls : x.params.cls = 0) (hclosing : x.closing = false) (he : reportError x.params r ≠ 0) :
    SessionFailed h stBadArg s (decodeFrame h r s) := by
  rw [decodeFrame_strict hx hc hcls he]
  obtain ⟨y, hy, hopen, -⟩ := findSession_errorTaken (r := r) (c := c) hx
  have hfailed : findSession (updSession h (fun y => { y with state := 2 }) (errorTaken h r x c s)) h = some { y with state := 2 } :=
    findSession_updSession (f := fun y => { y with state := 2 }) (fun _ => rfl) hy
  have hhost : (errorTaken h r x c s).host = s.host := (written_writeGroups h 4096 _).host
  rw [finishCodec_open hfailed (hopen.trans hclosing)]
  have hend := endCodecCmd_failed hfailed rfl stBadArg ((y.cmd.map codecResult).getD [])
  exact ⟨hend.session, fun g hg => hend.ended g (by rw [findProg, updSession, updCodec_host, hhost]; exact hg)⟩

end

theorem frameDone_strict_failed {p : Nat} {r : FrameReport} {x : Session} {s : State}
    (hx : (s.pipe p).session.bind (findSession s) = some x) (hcmd : x.cmd.isSome = true) (hd : x.params.dir = 0) (hcls : x.params.cls = 0)
    (hclosing : x.closing = false) (he : reportError x.params r ≠ 0) : SessionFailed x.handle stBadArg s (frameDone p r s) := by
  obtain ⟨h, -, hfind⟩ := Option.bind_eq_some_iff.1 hx
  obtain ⟨c, hc⟩ := Option.isSome_iff_exists.1 hcmd
  obtain rfl := findSession_handle hfind
  rw [frameDone_eq hx, if_neg (by rw [hd]; decide)]
  have hfailed := decodeFrame_strict_failed (s := frameCounted p s) hfind hc hcls hclosing he
  have hs : SessionFailed x.handle stBadArg s (decodeFrame x.handle r (frameCounted p s)) := ⟨hfailed.session, hfailed.ended⟩
  exact (hs.clearSuspect _ _).kickPipe p

/-! ## The events -/

section
variable {q : Nat} {x : Session} {s : State} (hbusy : (s.pipe q).busy = true) (hx : (s.pipe q).session.bind (findSession s) = some x)
  (hcmd : x.cmd.isSome = true) (hserved : sessionServed s x = true)
include hbusy hx hcmd hserved

theorem frameRuns_of : frameRuns s q = true := by simp only [frameRuns, hbusy, hx, hcmd, hserved, Bool.and_self]

theorem exec_codecFrameDone {r : FrameReport} (hr : reportFits r = true) : exec (.codecFrameDone q r) s = .next (frameDone q r s) :=
  event_of (by rw [frameRuns_of hbusy hx hcmd hserved, hr]; rfl)

/-- Past the bound of a frame the watchdog may be raised (R317). -/
theorem exec_codecWatchdog (hraised : (s.pipe q).raised = false) (hlate : (s.pipe q).frameAt + frameBound x.params ≤ s.clock.beat) :
    exec (.codecWatchdog q) s = .next (updPipe q (fun v => { v with wdog := true, raised := true, lastErr := 8 }) s) :=
  event_of (by simp only [frameOverdue, frameRuns_of hbusy hx hcmd hserved, hraised, hx, hlate, decide_true, Bool.not_false, Bool.and_self])

end

/-- Settles O26: either command is started by its own part; the end of a frame by what its work keeps, and by the session that an error
leaves; the watchdog by its bound. -/
theorem codecWork : Obligations.CodecWork := by
  unfold Obligations.CodecWork
  refine ⟨fun p h x s hx hs hc => ⟨?decode, ?encode⟩, fun s q x hbusy hx hcmd hserved => ⟨fun r hr => ?frame, ?watchdog⟩⟩
  case decode =>
    intro last inVa bytes groups outVa hp hd hb hlast hg hg' hr
    obtain ⟨t, e, hacc, hpipes, hsessions⟩ := mailbox_startCodecCmd hp (codecDecodeBody_starts hx hs hc hg hg' hb hd hlast hr)
    exact ⟨t, (exec_codecDecode ..).trans (congrArg _ e), hacc, hpipes, hsessions⟩
  case encode =>
    intro last key inVa groups outVa bytes hp hd hg hg' hb1 hb hr
    obtain ⟨t, e, hacc, hpipes, hsessions⟩ := mailbox_startCodecCmd hp (codecEncodeBody_starts hx hs hc hg hg' hb key hd hb1 hr)
    exact ⟨t, (exec_codecEncode ..).trans (congrArg _ e), hacc, hpipes, hsessions⟩
  case frame =>
    have hkept := countKept_frameDone hx r
    refine ⟨_, exec_codecFrameDone hbusy hx hcmd hserved hr, ?_, hkept.ctxs, fun hd hcls hclosing he => ?_⟩
    · rw [hkept.frames, frameCounted, pipe_updPipe_same]
    · have hfailed := frameDone_strict_failed hx hcmd hd hcls hclosing he
      exact ⟨hfailed.session, hfailed.ended⟩
  case watchdog => exact fun hraised hlate => exec_codecWatchdog hbusy hx hcmd hserved hraised hlate

end Sys2Proof.Machine
end

section
/-! PROOFS. The Droveway's shared rules (R329, R333, R350): what the clock, the shepherd and the settling of contexts leave of gates and
the tally unit, the cells of a transfer, and how FABRIC.COPYs end. -/

namespace Sys2Proof.Machine

/-! ## Changes that leave the gates alone -/

@[simp] theorem moveTo_fabric (n : Nat) (s : State) : (moveTo n s).fabric = s.fabric := by obtain ⟨c, h⟩ := moveTo_same n s; rw [h]
@[simp] theorem moveTo_tally (n : Nat) (s : State) : (moveTo n s).tally = s.tally := by obtain ⟨c, h⟩ := moveTo_same n s; rw [h]
@[simp] theorem moveTo_parts (n : Nat) (s : State) : (moveTo n s).parts = s.parts := by obtain ⟨c, h⟩ := moveTo_same n s; rw [h]
@[simp] theorem moveTo_out (n : Nat) (s : State) : (moveTo n s).out = s.out := by obtain ⟨c, h⟩ := moveTo_same n s; rw [h]
@[simp] theorem gate_moveTo (n : Nat) (s : State) (j : Nat) : (moveTo n s).gate j = s.gate j := by
  obtain ⟨c, h⟩ := moveTo_same n s; rw [h]; rfl

@[simp] theorem settled_fabric (f : State → State) (s : State) : (settled f s).fabric = (f s).fabric := by rw [(settled_resettled f s).same]
@[simp] theorem settled_tally (f : State → State) (s : State) : (settled f s).tally = (f s).tally := by rw [(settled_resettled f s).same]
@[simp] theorem settled_gate (f : State → State) (s : State) (j : Nat) : (settled f s).gate j = (f s).gate j := by
  rw [(settled_resettled f s).same]; rfl
@[simp] theorem settled_announced (f : State → State) (s : State) (k : Nat) :
    ((settled f s).part k).announced = ((f s).part k).announced := by rw [(settled_resettled f s).queues]

@[simp] theorem settledCmd_fabric (f : State → State) (s : State) : (settledCmd f s).fabric = (f s).fabric := by
  change (settleContexts s (setLead 1 (f s))).fabric = _
  rw [(settledCmd_resettled f s).same]
  rfl

/-- A command that is accepted stays so when the contexts settle. -/
theorem Accepted.settledCmd {p : Post} {due : Option Nat} {c k : Nat} {j : Job} {f : State → State} {s : State}
    (h : Accepted p due c k j s (f s)) : Accepted p due c k j s (settledCmd f s) :=
  ⟨by rw [settledCmd_mbx]; exact h.complete, by rw [settledCmd_mbx]; exact h.due, by rw [settledCmd_mbx]; exact h.sampled,
    by rw [settledCmd_mbx]; exact h.done, by rw [settledCmd_mbx]; exact h.busy, by rw [settledCmd_host]; exact h.work⟩

/-- A command that has ended stays so when the contexts settle. -/
theorem Ended.settled {g : InProgress} {status : Nat} {f : State → State} {s : State} (h : Ended g status (f s)) :
    Ended g status (settled f s) :=
  ⟨by rw [settled_mbx]; exact h.complete, by rw [settled_mbx]; exact h.idle, by rw [settled_host]; exact h.gone⟩

theorem Told.fabric {s t : State} (h : Told s t) : t.fabric = s.fabric := by rw [h.same]
theorem Told.gate {s t : State} (h : Told s t) (g : Nat) : t.gate g = s.gate g := by rw [h.same]; rfl
theorem Told.tally {s t : State} (h : Told s t) : t.tally = s.tally := by rw [h.same]

/-! ## Cells (R336, R350) -/

theorem length_readVa (s : State) (ctx va n : Nat) : (readVa s ctx va n).length = n := by simp [readVa]

theorem length_bytesAt (t : Table Byte) (a n : Nat) : (bytesAt t a n).length = n := by simp [bytesAt]

theorem length_transferCells (v : Gate) (h : CellHeader) (d : List Byte) (n g c : Nat) :
    (transferCells v h d n g c).length = ceilDiv d.length 2000 := by simp [transferCells, cellCount, cellBytes]

/-! ## The end of FABRIC.COPYs (R350) -/

/-- t differs from s in the copies in progress, the host's mailboxes and commands, and in what the shepherd tells. -/
def EndsCopies (s t : State) : Prop := ∃ h l, Told { s with host := h, fabric := { s.fabric with copies := l } } t

namespace EndsCopies

theorem refl (s : State) : EndsCopies s s := ⟨s.host, s.fabric.copies, Told.refl s⟩

theorem trans {s t u : State} (h : EndsCopies s t) (g : EndsCopies t u) : EndsCopies s u := by
  obtain ⟨hs, ls, hT⟩ := h
  obtain ⟨ht, lt, gT⟩ := g
  refine ⟨ht, lt, ?_, gT.host, ?_, gT.mbx, fun o ho => gT.out o (hT.out o ho)⟩
  · have e := gT.same
    rwa [hT.same] at e
  · have e := gT.recov
    rwa [show t.recov = _ from hT.recov] at e

variable {s t : State} (h : EndsCopies s t)
include h

theorem gate (g : Nat) : t.gate g = s.gate g := by obtain ⟨_, _, e⟩ := h; rw [e.gate]; rfl
theorem hbm : t.hbm = s.hbm := by obtain ⟨_, _, e⟩ := h; rw [e.hbm]
theorem pens : t.pens = s.pens := by obtain ⟨_, _, e⟩ := h; rw [e.pens]
theorem place : t.place = s.place := by obtain ⟨_, _, e⟩ := h; rw [e.place]
theorem out {o : Output} (ho : o ∈ s.out) : o ∈ t.out := by obtain ⟨_, _, e⟩ := h; exact e.out o ho

end EndsCopies

section
variable (c : FabricCopy) (status : Nat) (s : State)

/-- An ended copy is in progress no more. -/
theorem endFabricCopy_told : ∃ h, Told { s with host := h, fabric := { s.fabric with copies := s.fabric.copies.filter fun x => x.id != c.id } }
    (endFabricCopy c status s) := by
  unfold endFabricCopy
  dsimp only
  split
  · obtain ⟨f, h⟩ := completeProg_told status (updFabric (fun f => { f with copies := f.copies.filter fun x => x.id != c.id }) s) _ []
    exact ⟨_, h⟩
  · exact ⟨s.host, Told.refl _⟩

theorem endFabricCopy_ends : EndsCopies s (endFabricCopy c status s) := by
  obtain ⟨h, e⟩ := endFabricCopy_told c status s
  exact ⟨h, _, e⟩

/-- The command of an ended copy has its final completion. -/
theorem endFabricCopy_ended {g : InProgress} (h : findProg s (fun y => y.job == .fabricCopy c.id) = some g) :
    Ended g status (endFabricCopy c status s) := by
  have hg : findProg (updFabric (fun f => { f with copies := f.copies.filter fun x => x.id != c.id }) s)
      (fun y => y.job == .fabricCopy c.id) = some g := h
  simp only [endFabricCopy, hg]
  exact completeProg_ended _ _ _ _

theorem endFabricCopies_ends (l : List FabricCopy) : EndsCopies s (forAll l (fun c => endFabricCopy c status) s) :=
  forAll_induct (P := EndsCopies s) (fun c _ h => h.trans (endFabricCopy_ends c status _)) l (.refl s)

/-- The end of the only copy in progress. -/
theorem endFabricCopy_sole {p : FabricCopy → Bool} (hs : s.fabric.copies = [c]) (hp : p c = true) :
    (forAll (s.fabric.copies.filter p) (fun c => endFabricCopy c status) s).fabric = { s.fabric with copies := [] }
    ∧ ∀ g, findProg s (fun y => y.job == .fabricCopy c.id) = some g →
        Ended g status (forAll (s.fabric.copies.filter p) (fun c => endFabricCopy c status) s) := by
  have hf : s.fabric.copies.filter p = [c] := by simp [hs, hp]
  rw [hf, forAll_cons, forAll_nil]
  obtain ⟨h, e⟩ := endFabricCopy_told c status s
  refine ⟨?_, fun g hg => endFabricCopy_ended c status s hg⟩
  rw [e.fabric, hs]
  simp

end

end Sys2Proof.Machine
end

section
/-! PROOFS. The fabric commands (R332, R350 to R353): the settings that FABRIC.CONFIG stores, the table that FABRIC.ROUTE writes, and the
transfers that FABRIC.COPY queues. -/

namespace Sys2Proof.Machine

/-! ## FABRIC.CONFIG (R353) -/

/-- The settings of a configuration that changes no gate mode. -/
def reconfigured (c : FabricParams) (f : Fabric) : Fabric :=
  { f with moduleId := c.moduleId, shiftMargin := c.shiftMargin, ipv6 := c.ipv6, ipv6b := c.ipv6b, ipv4 := c.ipv4, ipv4b := c.ipv4b }

theorem fabricConfigBody_stores {c : FabricParams} {s : State} (p : Post) (hm : c.shiftMargin ≤ 15)
    (hid : c.moduleId = s.fabric.moduleId ∨ noRuns s = true) (hc : changedGates s c.modes = [])
    (hl : loweredBudgets s (floorOf c.modes) = (List.range 4).map (fun k => (s.part k).budget))
    (hb : budgetsBreak s (loweredBudgets s (floorOf c.modes)) = false) (hmodes : ∀ m ∈ c.modes, (modeOf m).isSome = true)
    (hg : ∀ g < 16, between 2 4 (c.modes.getD g 0) = true → g = 7 ∨ g = 15) :
    fabricConfigBody c (taken p s) = .done stOk [] (updFabric (reconfigured c) (taken p s)) := by
  have hchanged : changedGates (taken p s) c.modes = [] := hc
  have hlow : loweredBudgets (taken p s) (floorOf c.modes) = (List.range 4).map (fun k => ((taken p s).part k).budget) := hl
  have hbreak : budgetsBreak (taken p s) (loweredBudgets (taken p s) (floorOf c.modes)) = false := hb
  have hnone : c.modes.any (fun m => (modeOf m).isNone) = false := by
    simpa [List.any_eq_false, Option.isSome_iff_ne_none] using hmodes
  have hether : (List.range 16).any (fun g => between 2 4 (c.modes.getD g 0) && g != 7 && g != 15) = false := by
    rw [List.any_eq_false]
    intro g hg16 h
    simp only [Bool.and_eq_true, bne_iff_ne, ne_eq] at h
    rcases hg g (List.mem_range.1 hg16) h.1.1 with e | e
    · exact h.1.2 e
    · exact h.2 e
  have harg : (decide (15 < c.shiftMargin) || c.modes.any (fun m => (modeOf m).isNone)
      || (List.range 16).any (fun g => between 2 4 (c.modes.getD g 0) && g != 7 && g != 15)) = false := by
    rw [hnone, hether]
    simpa using hm
  have hidle : (c.moduleId != (taken p s).fabric.moduleId && !noRuns (taken p s)) = false := by
    rcases hid with h | h <;> simp [h]
  unfold fabricConfigBody
  simp only [harg, hidle, hchanged, hbreak, List.any_nil, Bool.or_self, Bool.false_eq_true, if_false, forAll_nil, if_pos hlow]
  rfl

/-! ## FABRIC.ROUTE (R332) -/

/-- Entries written from an index on leave every other index. -/
theorem tget_routes_other {first : Nat} {l : List Route} {n j : Nat} (h : j < first + n ∨ first + n + l.length ≤ j) (t : Table RouteSlot) :
    tget RouteSlot.reset ((l.zipIdx n).foldl (fun t e => tput (first + e.2) ⟨true, false, e.1⟩ t) t) j = tget RouteSlot.reset t j := by
  induction l generalizing n t with
  | nil => rfl
  | cons r l ih =>
    rw [List.length_cons] at h
    rw [List.zipIdx_cons, List.foldl_cons, ih (by omega), tget_tput_other _ _ (by omega)]

/-- Each entry written stands at its index, valid and not stale. -/
theorem tget_routes_entry {first : Nat} {l : List Route} {n i : Nat} {r : Route} (h : l[i]? = some r) (t : Table RouteSlot) :
    tget RouteSlot.reset ((l.zipIdx n).foldl (fun t e => tput (first + e.2) ⟨true, false, e.1⟩ t) t) (first + n + i) = ⟨true, false, r⟩ := by
  induction l generalizing n i t with
  | nil => cases h
  | cons a l ih =>
    rw [List.zipIdx_cons, List.foldl_cons]
    cases i with
    | zero =>
      obtain rfl : a = r := by simpa using h
      rw [tget_routes_other (by omega), Nat.add_zero, tget_tput_same]
    | succ i =>
      rw [show first + n + (i + 1) = first + (n + 1) + i by omega]
      exact ih (by simpa using h) _

/-- Entries that fit the table as written are written (R332). -/
theorem fabricRouteBody_writes {p : Post} {first : Nat} {entries : List Route} {s : State} (h1 : 1 ≤ entries.length)
    (h125 : entries.length ≤ 125) (h256 : first + entries.length ≤ 256) (hr : runsOf (s.part (postTarget p)) = [])
    (hfit : ∀ r ∈ entries, routeFits s (postTarget p)
      (entries.zipIdx.foldl (fun t e => tput (first + e.2) ⟨true, false, e.1⟩ t) (s.part (postTarget p)).routes) r = true) :
    fabricRouteBody p first entries.length entries (taken p s) = .done stOk [] (updPart (postTarget p) (fun q => { q with
      routes := entries.zipIdx.foldl (fun t e => tput (first + e.2) ⟨true, false, e.1⟩ t) (s.part (postTarget p)).routes }) (taken p s)) := by
  have hlen : (decide (entries.length < 1) || decide (125 < entries.length)) = false := by
    rw [Bool.or_eq_false_iff, decide_eq_false_iff_not, decide_eq_false_iff_not]
    omega
  have hall : entries.any (fun r => !routeFits (taken p s) (postTarget p)
      (entries.zipIdx.foldl (fun t e => tput (first + e.2) ⟨true, false, e.1⟩ t) ((taken p s).part (postTarget p)).routes) r) = false := by
    rw [List.any_eq_false]
    intro r hr h
    rw [Bool.not_eq_true'] at h
    exact Bool.false_ne_true (h.symm.trans (hfit r hr))
  have hargs : decide (256 < first + entries.length) = false := by simpa using h256
  have hidle : (!(runsOf ((taken p s).part (postTarget p))).isEmpty) = false := by rw [taken_part, hr]; rfl
  unfold fabricRouteBody
  simp only [hlen, hall, hargs, hidle, Bool.or_self, Bool.false_eq_true, if_false]
  rfl

/-! ## FABRIC.COPY (R350) -/

/-- The gate of a copy on a written route. -/
theorem copyGate_of_route {s : State} {c : FabricCopy} {r : Route} (h : routeAt s c.part c.route = some r) :
    copyGate s c = if c.dir = 0 then firstGate r else r.rxGate := by
  simp only [copyGate, h]

/-- The copy that FABRIC.COPY queues (log 34). -/
def queuedFabricCopy (ctx k route dir tag va bytes : Nat) (s : State) : FabricCopy :=
  ⟨s.fabric.nextCopy, ctx, k, route, dir, tag, va, bytes, s.clock.beat + 1, 0⟩

/-- The state in which a queued copy is noted. -/
def copyNoted (p : Post) (c : FabricCopy) (s : State) : State :=
  updFabric (fun f => { f with nextCopy := s.fabric.nextCopy + 1, copies := f.copies ++ [c] }) (taken p s)

theorem fabricCopyBody_accepts {p : Post} {ctx route dir tag va bytes : Nat} {x : Ctx} {r : Route} {s : State}
    (hx : checkCtx p ctx s = .ok x) (hr : routeAt s x.part route = some r) (hd : dir ≤ 1) (h1 : 1 ≤ bytes) (hmax : bytes ≤ 2 ^ 30)
    (hrange : rangeCheck s ctx va bytes = none) (hup : gateUp s (if dir = 0 then firstGate r else r.rxGate) = true) :
    fabricCopyBody p ctx route dir tag va bytes (taken p s) = .accept none [] ctx x.part (.fabricCopy s.fabric.nextCopy)
      (if dir = 0 then startCopySend r (queuedFabricCopy ctx x.part route dir tag va bytes s)
          (copyNoted p (queuedFabricCopy ctx x.part route dir tag va bytes s) s)
        else copyNoted p (queuedFabricCopy ctx x.part route dir tag va bytes s) s) := by
  have hroute : routeAt (taken p s) x.part route = some r := hr
  have hgate : copyGate (taken p s) (queuedFabricCopy ctx x.part route dir tag va bytes s) = if dir = 0 then firstGate r else r.rxGate :=
    copyGate_of_route hroute
  have hup' : (!gateUp (taken p s) (copyGate (taken p s) (queuedFabricCopy ctx x.part route dir tag va bytes s))) = false := by
    rw [hgate, Bool.not_eq_false']
    exact hup
  have hlen : (decide (bytes < 1) || decide (2 ^ 30 < bytes)) = false := by simp; omega
  unfold fabricCopyBody
  rw [withCtx_ok hx]
  simp only [hroute, hlen, if_neg (Nat.not_lt.2 hd), rangeCheck_taken, hrange, Bool.false_eq_true, if_false]
  exact if_neg (Bool.eq_false_iff.1 hup')

/-- What FABRIC.COPY leaves when its body accepts it on the state u. -/
theorem fabricCopy_accepts {p : Post} {ctx route dir tag va bytes k : Nat} {j : Job} {s u : State} (hp : Posts p rowFabricCopy 3 s)
    (hb : fabricCopyBody p ctx route dir tag va bytes (taken p s) = .accept none [] ctx k j u) (hu : u.clock.beat = s.clock.beat) :
    ∃ t, exec (.fabricCopy p ctx route dir tag va bytes) s = .next t ∧ Accepted p none ctx k j s t ∧ t.fabric = u.fabric := by
  have hm := mailbox_start hp hb
  refine ⟨_, rfl, Accepted.settledCmd ?_, ?_⟩
  · rw [hm]; exact start_accepted hu
  · rw [settledCmd_fabric, hm, start_fabric]

/-- A send takes the SEQ of its first gate and queues its cells there (R350). -/
theorem gate_startCopySend (r : Route) (c : FabricCopy) (s : State) :
    ((startCopySend r c s).gate (firstGate r)).seq = ((s.gate (firstGate r)).seq + 1) % 65536
    ∧ ((startCopySend r c s).gate (firstGate r)).waiting.length = (s.gate (firstGate r)).waiting.length + ceilDiv c.bytes 2000 := by
  simp only [startCopySend, queueCells, gate_updGate_same, List.length_append, length_transferCells, length_readVa, and_self]

/-- Settles O31, command by command: the checks pass, and the body leaves the settings, the table, the reply or the copy. -/
theorem fabricCommands : Obligations.FabricCommands := by
  unfold Obligations.FabricCommands
  intro p s
  refine ⟨?config, ?route, ?query, ?receive, ?send⟩
  case config =>
    intro c hp hm hid hc hl hb hmodes hg
    exact congrArg Host.Outcome.next (mailbox_finish hp (fabricConfigBody_stores p hm hid hc hl hb hmodes hg))
  case route =>
    intro first entries hp h1 h125 h256 hr hfit
    have hm := mailbox_finish hp (fabricRouteBody_writes h1 h125 h256 hr hfit)
    refine ⟨_, congrArg Host.Outcome.next hm, finish_completed (taken_beat p s), fun k hk => ?_, fun i r hi => ?_, fun j hj => ?_⟩
    all_goals rw [State.part, finish_parts]
    · exact (part_updPart _ _ _ k).trans (if_neg hk)
    · rw [show tget Part.absent _ (postTarget p) = _ from part_updPart_same _ _ _]
      exact tget_routes_entry (n := 0) hi _
    · rw [show tget Part.absent _ (postTarget p) = _ from part_updPart_same _ _ _]
      exact tget_routes_other (n := 0) hj _
  case query => exact fun hp => congrArg Host.Outcome.next (mailbox_finish hp rfl)
  case receive =>
    intro ctx x route r tag va bytes hp hx hr h1 hmax hrange hup
    exact fabricCopy_accepts hp (fabricCopyBody_accepts (dir := 1) hx hr le_rfl h1 hmax hrange hup) rfl
  case send =>
    intro ctx x route r tag va bytes hp hx hr h1 hmax hrange hup
    obtain ⟨t, e, hacc, hf⟩ := fabricCopy_accepts (tag := tag) hp (fabricCopyBody_accepts (dir := 0) hx hr (Nat.zero_le 1) h1 hmax hrange hup) rfl
    have hgate : ∀ g, t.gate g = (startCopySend r (queuedFabricCopy ctx x.part route 0 tag va bytes s)
        (copyNoted p (queuedFabricCopy ctx x.part route 0 tag va bytes s) s)).gate g := fun g => by rw [State.gate, hf]; rfl
    refine ⟨t, e, hacc, by rw [hf]; rfl, ?_, ?_⟩ <;> rw [hgate]
    · exact (gate_startCopySend _ _ _).1
    · exact (gate_startCopySend _ _ _).2

end Sys2Proof.Machine
end

section
/-! PROOFS. Cells and transfers (R329, R333, R335 to R339, R350): what a cell leaves behind that leaves or arrives at a gate, what an
attempt of a send queues, and the timeout of a receive copy. -/

namespace Sys2Proof.Machine

/-! ## Cells that leave (R333, R336, R350) -/

/-- The state in which a waiting cell has left its gate. -/
def cellSent (g : Nat) (c : WaitCell) (s : State) : State :=
  let n := leaveAc (s.gate g) c
  let late : Bool := c.dueLeave < n
  emit (.cell g (withHcrc { c.h with contended := c.h.contended || late }) c.payload c.crc)
    (moveTo n (updGate g (fun v => { v with waiting := v.waiting.erase c, laneFree := n + cellAc v,
                                            contend := if late then satAdd 8 v.contend 1 else v.contend }) s))

theorem cellLeave_eq (g : Nat) (c : WaitCell) (s : State) : cellLeave g c s = if c.copy = 0 then cellSent g c s else
    forAll ((cellSent g c s).fabric.copies.filter fun x => x.id == c.copy) (fun x => endFabricCopy x stOk) (cellSent g c s) := rfl

/-- A cell that leaves does no more than to end its copy. -/
theorem cellLeave_ends (g : Nat) (c : WaitCell) (s : State) : EndsCopies (cellSent g c s) (cellLeave g c s) := by
  rw [cellLeave_eq]
  split
  · exact .refl _
  · exact endFabricCopies_ends _ _ _

theorem gate_cellSent (g : Nat) (c : WaitCell) (s : State) (j : Nat) : (cellSent g c s).gate j = if j = g then { s.gate g with
      waiting := (s.gate g).waiting.erase c, laneFree := leaveAc (s.gate g) c + cellAc (s.gate g)
      contend := if c.dueLeave < leaveAc (s.gate g) c then min ((s.gate g).contend + 1) 255 else (s.gate g).contend }
    else s.gate j := by
  simp only [cellSent, gate_emit, gate_moveTo, gate_updGate, decide_eq_true_eq]
  rfl

theorem exec_cellLeave {g : Nat} {c : WaitCell} {s : State} (hc : firstCell (s.gate g).waiting = some c) (hup : gateUp s g = true)
    (hac : acCome (leaveAc (s.gate g) c) s = true) : exec (.cellLeave g) s = .next (settled (cellLeave g c) s) := by
  change execCellLeave g s = _
  simp only [execCellLeave, hc, event, hup, hac, Bool.and_self, if_true]

/-! ## Cells that arrive (R329, R333, R337, R338) -/

theorem exec_cellArrive (g : Nat) (h : CellHeader) (payload : List Byte) (crc : Nat) (s : State) :
    exec (.cellArrive g h payload crc) s = .next (settled (cellArrive g h payload crc) s) := rfl

/-- A bad header CRC drops the cell. -/
theorem cellArrive_bad {h : CellHeader} (hbad : hcrcGood h = false) (g : Nat) (payload : List Byte) (crc : Nat) (s : State) :
    cellArrive g h payload crc s = s := by simp [cellArrive, hbad]

section
variable {s : State} {g : Nat} {h : CellHeader} (hup : gateUp s g = true) (hgood : hcrcGood h = true) (htype : h.type = 1)
include hup hgood htype

theorem cellArrive_foreign (hd : h.dest ≠ s.fabric.moduleId) (payload : List Byte) (crc : Nat) :
    cellArrive g h payload crc s = relayCell g h payload crc s := by simp [cellArrive, hup, hgood, htype, hd]

theorem cellArrive_taken {x : RecvHold} (hd : h.dest = s.fabric.moduleId) (hx : (s.gate g).recvs.find? (recvTakes h) = some x)
    (payload : List Byte) (crc : Nat) : cellArrive g h payload crc s = takeCell g h payload crc x s := by
  simp [cellArrive, hup, hgood, htype, hd, hx]

theorem cellArrive_orphan (hd : h.dest = s.fabric.moduleId) (hx : (s.gate g).recvs.find? (recvTakes h) = none)
    (hc : s.fabric.copies.find? (copyTakes s g h) = none) (payload : List Byte) (crc : Nat) :
    cellArrive g h payload crc s = countOrphan g s := by simp [cellArrive, hup, hgood, htype, hd, hx, hc]

end

/-- The cell as it waits at the gate of its next hop. -/
def relayedCell (g : Nat) (h : CellHeader) (payload : List Byte) (crc : Nat) (s : State) : WaitCell :=
  ⟨{ h with hop := h.hop + 1 }, payload, crc, absAc s + sendAc (s.gate (hopGate (planeOf g) h.path (h.hop + 1))), true, g, 0⟩

theorem relayCell_on {s : State} {g : Nat} {h : CellHeader} (hh : h.hop < h.hops)
    (hup : gateUp s (hopGate (planeOf g) h.path (h.hop + 1)) = true) (payload : List Byte) (crc : Nat) :
    relayCell g h payload crc s =
      queueCells (hopGate (planeOf g) h.path (h.hop + 1)) [relayedCell g h payload crc s] s := by
  simp only [relayCell, hup, decide_eq_false (Nat.not_le.2 hh)]
  rfl

theorem relayCell_dropped {s : State} {g : Nat} {h : CellHeader}
    (hn : h.hops ≤ h.hop ∨ gateUp s (hopGate (planeOf g) h.path (h.hop + 1)) = false) (payload : List Byte) (crc : Nat) :
    relayCell g h payload crc s = s := by
  rcases hn with hn | hn <;> simp [relayCell, hn]

/-! ## Transfers that are assembled (R337) -/

theorem recvTakes_iff {h : CellHeader} {x : RecvHold} (e : recvTakes h x = true) :
    x.ncell = h.ncell ∧ x.accepted = none ∧ h.cell < h.ncell := by
  simp only [recvTakes, Bool.and_eq_true, beq_iff_eq, Option.isNone_iff_eq_none, decide_eq_true_eq] at e
  obtain ⟨⟨⟨-, hn⟩, ha⟩, hc⟩ := e
  exact ⟨hn, ha, hc⟩

/-- The copy that begins with a cell: the cell, and with the last one the CRC of the transfer. -/
def newCopy (h : CellHeader) (payload : List Byte) (crc : Nat) (x : RecvHold) : RecvHold :=
  { x with attempt := some h.attempt
           cells := if h.cell + 1 = h.ncell then tput h.ncell (leBytes 8 crc) (tput h.cell payload []) else tput h.cell payload [] }

/-- The first cell of a higher attempt begins a new copy. -/
theorem assemble_higher {h : CellHeader} {x : RecvHold} (ha : ∀ a, x.attempt = some a → a < h.attempt) (payload : List Byte) (crc : Nat) :
    assemble h payload crc x = newCopy h payload crc x := by
  cases hx : x.attempt with
  | none => simp [assemble, hx, newCopy]
  | some a => simp [assemble, hx, ha a hx, newCopy]

section
variable {h : CellHeader} {x : RecvHold} (payload : List Byte) (crc : Nat) (hx : x.ncell = h.ncell) (h0 : h.cell = 0)
include hx h0

/-- A transfer of more than one cell is not complete with its first. -/
theorem assembled_newCopy_none (hn : 1 < h.ncell) : assembled (newCopy h payload crc x) = none := by
  have h1 : ¬h.cell + 1 = h.ncell := by omega
  have h2 : ¬h.ncell = 0 := by omega
  simp [assembled, hx, newCopy, h1, h2, tput]

/-- A transfer of one cell is complete with it. -/
theorem assembled_newCopy_some (hn : h.ncell = 1) : assembled (newCopy h payload crc x) = some (payload.take x.bytes) := by
  simp [assembled, hx, newCopy, hn, h0, tput]

/-- The CRC that stands with the only cell of a transfer. -/
theorem crc_newCopy {crc : Nat} (hn : h.ncell = 1) (hc : crc < 2 ^ 64) :
    ofLe (tget [] (newCopy h payload crc x).cells (newCopy h payload crc x).ncell) = crc := by
  change ofLe (tget [] (if _ then _ else _) x.ncell) = crc
  rw [if_pos (by omega), hx, tget_tput_same]
  exact ofLe_leBytes 8 crc (by rwa [show 256 ^ 8 = 2 ^ 64 by norm_num])

end

/-- One open receive takes the place of another. -/
def replaceRecv (g : Nat) (x z : RecvHold) : State → State :=
  updGate g fun v => { v with recvs := v.recvs.map fun w => if w = x then z else w }

theorem mem_replaceRecv {g : Nat} {x : RecvHold} {s : State} (hx : x ∈ (s.gate g).recvs) (z : RecvHold) :
    z ∈ ((replaceRecv g x z s).gate g).recvs := by
  rw [replaceRecv, gate_updGate_same]
  exact List.mem_map.2 ⟨x, hx, if_pos rfl⟩

theorem acks_replaceRecv (g : Nat) (x z : RecvHold) (s : State) (j : Nat) : ((replaceRecv g x z s).gate j).acks = (s.gate j).acks := by
  rw [replaceRecv, gate_updGate]
  split
  · rename_i e; rw [e]
  · rfl

/-- An acknowledgement is queued at the first gate of the route, where there is one. -/
def acknowledge (h : CellHeader) (o : Option Route) (s : State) : State :=
  match o with
  | some r => updGate (firstGate r) (fun v => { v with acks := v.acks ++ [ackOf r h] }) s
  | none => s

theorem acknowledge_same (h : CellHeader) (o : Option Route) (s : State) :
    (∃ b, acknowledge h o s = { s with fabric := b }) ∧ ∀ j, ((acknowledge h o s).gate j).recvs = (s.gate j).recvs := by
  cases o with
  | none => exact ⟨⟨s.fabric, rfl⟩, fun _ => rfl⟩
  | some r =>
    refine ⟨⟨_, rfl⟩, fun j => ?_⟩
    rw [acknowledge, gate_updGate]
    split
    · rename_i e; rw [e]
    · rfl

section
variable {h : CellHeader} {x : RecvHold} (ha : ∀ a, x.attempt = some a → a < h.attempt) (hx : x.ncell = h.ncell) (h0 : h.cell = 0)
  (payload : List Byte) (g : Nat) (s : State)
include ha hx h0

theorem takeCell_begins (hn : 1 < h.ncell) (crc : Nat) :
    takeCell g h payload crc x s = replaceRecv g x (newCopy h payload crc x) s := by
  simp only [takeCell, assemble_higher ha, assembled_newCopy_none payload crc hx h0 hn]
  rfl

theorem takeCell_accepts {crc : Nat} (hn : h.ncell = 1) (hcrc : crc < 2 ^ 64) (hok : crc64 (payload.take x.bytes) = crc) :
    takeCell g h payload crc x s = acknowledge h (routeAt s x.part x.route)
      (replaceRecv g x { newCopy h payload crc x with accepted := some (payload.take x.bytes) } s) := by
  simp only [takeCell, assemble_higher ha, assembled_newCopy_some payload crc hx h0 hn, crc_newCopy payload hx h0 hn hcrc, hok,
    beq_self_eq_true, if_true]
  rfl

theorem takeCell_rejects {crc : Nat} (hn : h.ncell = 1) (hcrc : crc < 2 ^ 64) (hno : crc64 (payload.take x.bytes) ≠ crc) :
    takeCell g h payload crc x s = updGate g (fun v => { v with crcerr := satAdd 16 v.crcerr 1 })
      (replaceRecv g x { newCopy h payload crc x with attempt := none, cells := [] } s) := by
  simp only [takeCell, assemble_higher ha, assembled_newCopy_some payload crc hx h0 hn, crc_newCopy payload hx h0 hn hcrc,
    beq_eq_false_iff_ne.2 hno, Bool.false_eq_true, if_false]
  rfl

end

/-! ## Attempts (R335, R336) -/

/-- Cell n of a transfer. -/
theorem getElem?_transferCells (v : Gate) (h : CellHeader) {d : List Byte} (at_ g c : Nat) {n : Nat} (hn : n < cellCount d.length) :
    (transferCells v h d at_ g c)[n]? = some
      { h := { h with cell := n, ncell := cellCount d.length }, payload := padTo cellBytes (d.drop (cellBytes * n))
        crc := if n + 1 = cellCount d.length then crc64 d else 0, dueLeave := at_ + cellAc v * n + sendAc v, relayed := false
        inputGate := g, copy := if n + 1 = cellCount d.length then c else 0 } := by
  rw [transferCells, List.getElem?_map, List.getElem?_range hn, Option.map_some]

theorem heldSend_eq_some {s : State} {k i g : Nat} {h : SendHold} {r : Route} (e : heldSend s k i = some (g, h, r)) :
    h ∈ (s.gate g).sends := by
  obtain ⟨j, -, hj⟩ := List.exists_of_findSome?_eq_some e
  obtain ⟨x, hx, hr⟩ := Option.bind_eq_some_iff.1 hj
  obtain ⟨y, -, hy⟩ := Option.map_eq_some_iff.1 hr
  cases hy
  exact List.mem_of_find?_eq_some hx

theorem exec_sendAttempt {s : State} {k i a g : Nat} {h : SendHold} {r : Route} (e : heldSend s k i = some (g, h, r))
    (hi : h.issued = true) (ha : h.nextAttempt = a) (hac : acCome (h.issue + a * r.retryGap) s = true) :
    exec (.sendAttempt k i a) s = .next (sendAttempt g h r a s) := by
  change execSendAttempt k i a s = _
  simp only [execSendAttempt, e, event, hi, ha, attemptAc, hac, beq_self_eq_true, Bool.and_self, if_true]

section
variable (g : Nat) (h : SendHold) (r : Route) (a : Nat) (s : State)

/-- The cells that an attempt sends along a route. -/
def attemptCells (q : Route) : List WaitCell :=
  transferCells (s.gate (firstGate q)) (sendHeader s g h q a) (bytesAt h.data 0 h.bytes) (attemptAc r h a) g 0

/-- The state in which the cells of an attempt wait. -/
def attemptQueued : State :=
  moveTo (attemptAc r h a) (match attemptRoute s h r (attemptAc r h a) with
    | none => s
    | some q => queueCells (firstGate q) (attemptCells g h r a s q) s)

/-- The transfer after an attempt: released with its last, else at the next. -/
theorem sendAttempt_eq : sendAttempt g h r a s = if h.retries ≤ a then releaseSend g h (attemptQueued g h r a s) else
    updGate g (fun v => { v with sends := v.sends.map fun x => if x = h then { h with nextAttempt := a + 1 } else x })
      (attemptQueued g h r a s) := rfl

theorem attemptQueued_of_none (hq : attemptRoute s h r (attemptAc r h a) = none) :
    attemptQueued g h r a s = moveTo (attemptAc r h a) s := by simp only [attemptQueued, hq]

theorem attemptQueued_of_some {q : Route} (hq : attemptRoute s h r (attemptAc r h a) = some q) :
    attemptQueued g h r a s = moveTo (attemptAc r h a) (queueCells (firstGate q) (attemptCells g h r a s q) s) := by
  simp only [attemptQueued, hq]

/-- Queueing the cells of an attempt leaves the send buffers, the memories and what is sent. -/
theorem attemptQueued_leaves : (attemptQueued g h r a s).hbm = s.hbm ∧ (attemptQueued g h r a s).pens = s.pens
    ∧ (attemptQueued g h r a s).out = s.out ∧ ∀ j, ((attemptQueued g h r a s).gate j).sends = (s.gate j).sends := by
  cases hq : attemptRoute s h r (attemptAc r h a) with
  | none => simp [attemptQueued_of_none g h r a s hq]
  | some q =>
    rw [attemptQueued_of_some g h r a s hq]
    refine ⟨by simp [queueCells], by simp [queueCells], by rw [moveTo_out]; rfl, fun j => ?_⟩
    rw [gate_moveTo, queueCells, gate_updGate]
    split
    · rename_i e; rw [e]
    · rfl

/-- The end of an attempt concerns its send buffer alone. -/
theorem sendAttempt_leaves : (sendAttempt g h r a s).hbm = s.hbm ∧ (sendAttempt g h r a s).pens = s.pens
    ∧ (sendAttempt g h r a s).out = s.out
    ∧ ∀ j, ((sendAttempt g h r a s).gate j).waiting = ((attemptQueued g h r a s).gate j).waiting := by
  obtain ⟨hhbm, hpens, hout, -⟩ := attemptQueued_leaves g h r a s
  rw [sendAttempt_eq]
  split
  all_goals
    refine ⟨hhbm, hpens, hout, fun j => ?_⟩
    simp only [releaseSend, closeWork, gate_updDrover, gate_updRun, gate_updGate]
    split
    · rename_i e; rw [e]
    · rfl

theorem sendAttempt_goes_on (hm : h ∈ (s.gate g).sends) (ha : a < h.retries) :
    { h with nextAttempt := a + 1 } ∈ ((sendAttempt g h r a s).gate g).sends := by
  obtain ⟨-, -, -, hs⟩ := attemptQueued_leaves g h r a s
  rw [sendAttempt_eq, if_neg (Nat.not_le.2 ha), gate_updGate_same, hs]
  exact List.mem_map.2 ⟨h, hm, if_pos rfl⟩

theorem not_mem_sends_releaseSend : h ∉ ((releaseSend g h s).gate g).sends := by
  simp [releaseSend, closeWork]

/-- An UP gate takes the cells of every attempt. -/
theorem waiting_sendAttempt (hup : gateUp s (firstGate r) = true) :
    ((sendAttempt g h r a s).gate (firstGate r)).waiting = (s.gate (firstGate r)).waiting ++ attemptCells g h r a s r := by
  obtain ⟨-, -, -, hw⟩ := sendAttempt_leaves g h r a s
  rw [hw, attemptQueued_of_some g h r a s (if_pos hup), gate_moveTo, queueCells, gate_updGate_same]

theorem length_attemptCells (q : Route) : (attemptCells g h r a s q).length = ceilDiv h.bytes 2000 := by
  rw [attemptCells, length_transferCells, length_bytesAt]

/-- Cell n of an attempt (R336). -/
theorem getElem?_attemptCells {q : Route} {n : Nat} (hn : n < (attemptCells g h r a s q).length) :
    ∃ c, (attemptCells g h r a s q)[n]? = some c
      ∧ c.h = { sendHeader s g h q a with cell := n, ncell := (attemptCells g h r a s q).length }
      ∧ c.payload = padTo 2000 ((bytesAt h.data 0 h.bytes).drop (2000 * n))
      ∧ c.dueLeave = attemptAc r h a + cellAc (s.gate (firstGate q)) * n + sendAc (s.gate (firstGate q)) := by
  have hl : (attemptCells g h r a s q).length = cellCount (bytesAt h.data 0 h.bytes).length := by rw [attemptCells, length_transferCells]; rfl
  rw [hl] at hn ⊢
  exact ⟨_, getElem?_transferCells _ _ _ _ _ hn, rfl, rfl, rfl⟩

end

/-! ## The timeout of a receive copy (R350) -/

theorem exec_fabricCopyTimeout {s : State} {c : FabricCopy} (hs : s.fabric.copies = [c]) (hd : c.dir = 1)
    (hlate : c.since + 40000 ≤ s.clock.beat) : exec (.fabricCopyTimeout c.id) s =
      .next (settled (fun u => forAll (u.fabric.copies.filter fun x => x.id == c.id) (fun x => endFabricCopy x stLowerTierFail) u) s) := by
  change execFabricCopyTimeout c.id s = _
  have h : fabricCopyOverdue s c.id = true := by simp [fabricCopyOverdue, hs, hd, hlate]
  rw [execFabricCopyTimeout, event, if_pos h]

/-- Settles O32: a cell that leaves by what it does to its gate and its copy; one that arrives by its header and the receive that takes
it; an attempt by the cells that it queues and the buffer that it holds or releases. -/
theorem cellEvents : Obligations.CellEvents := by
  unfold Obligations.CellEvents
  refine ⟨fun s g => ⟨?leave, fun h payload crc hup hgood htype => ⟨?orphan, ?relay, ?drop, ?take⟩, ?bad, ?attempt⟩, ?timeout⟩
  case leave =>
    intro c hc hup hac
    have hends := cellLeave_ends g c s
    have hgate := fun j => (hends.gate j).trans (gate_cellSent g c s j)
    refine ⟨_, exec_cellLeave hc hup hac, ?_, ?_, ?_, ?_, fun j hj => ?_, ?_, ?_, fun h0 => ?_, fun x j h0 hx hid hj => ?_⟩
    · rw [settled_out]
      exact hends.out List.mem_cons_self
    · rw [settled_gate, hgate, if_pos rfl]
    · rw [settled_gate, hgate, if_pos rfl]
    · rw [settled_gate, hgate, if_pos rfl]
    · rw [settled_gate, hgate, if_neg hj]
    · rw [settled_hbm, hends.hbm]; simp [cellSent]
    · rw [settled_pens, hends.pens]; simp [cellSent]
    · rw [settled_fabric, cellLeave_eq, if_pos h0]; simp [cellSent]
    · have hcopies : (cellSent g c s).fabric.copies = [x] := by rw [← hx]; simp [cellSent]
      have hprog : findProg (cellSent g c s) (fun y => y.job == .fabricCopy x.id) = some j := by rw [← hj]; simp [cellSent, findProg]
      have hsole := endFabricCopy_sole x stOk (cellSent g c s) (p := fun y => y.id == c.copy) hcopies (beq_iff_eq.2 hid)
      rw [← (cellLeave_eq g c s).trans (if_neg h0)] at hsole
      exact ⟨by rw [settled_fabric, hsole.1], (hsole.2 j hprog).settled⟩
  case orphan =>
    intro hd hx hc
    have e : cellArrive g h payload crc s = countOrphan g s := cellArrive_orphan hup hgood htype hd hx hc payload crc
    refine ⟨_, exec_cellArrive .., ?_, ?_, fun j hj => ?_, ?_, ?_, ?_⟩
    · rw [settled_gate, e, countOrphan, gate_updGate_same]; rfl
    · rw [settled_gate, e, countOrphan, gate_updGate_same]
    · rw [settled_gate, e, countOrphan, gate_updGate, if_neg hj]
    · rw [settled_hbm, e]; rfl
    · rw [settled_pens, e]; rfl
    · rw [settled_out, e]; rfl
  case relay =>
    intro hd hh hout
    have e := (cellArrive_foreign hup hgood htype hd payload crc).trans (relayCell_on hh hout payload crc)
    refine ⟨_, relayedCell g h payload crc s, exec_cellArrive .., ?_, rfl, rfl, rfl, rfl, rfl, rfl, fun j => ?_, ?_, ?_, ?_⟩
    · rw [settled_gate, e, queueCells, gate_updGate_same]
    · rw [settled_gate, e, queueCells, gate_updGate]
      split
      · rename_i ej; rw [ej]
      · rfl
    · rw [settled_hbm, e]; rfl
    · rw [settled_pens, e]; rfl
    · rw [settled_out, e]; rfl
  case drop =>
    intro hd hn
    have e := (cellArrive_foreign hup hgood htype hd payload crc).trans (relayCell_dropped hn payload crc)
    exact ⟨_, exec_cellArrive .., by rw [settled_fabric, e], by rw [settled_hbm, e], by rw [settled_pens, e], by rw [settled_out, e]⟩
  case take =>
    intro x hd hx ha
    obtain ⟨hncell, hacc, hcell⟩ := recvTakes_iff (List.find?_some hx)
    have hmem : x ∈ (s.gate g).recvs := List.mem_of_find?_eq_some hx
    have htaken := cellArrive_taken hup hgood htype hd hx payload crc
    refine ⟨fun hn h0 => ?_, fun hn hcrc hok => ?_, fun hn hcrc _ hno => ?_⟩
    · have e := htaken.trans (takeCell_begins ha hncell h0 payload g s hn crc)
      refine ⟨_, newCopy h payload crc x, exec_cellArrive .., ?_, rfl, rfl, rfl, hacc, fun k => ?_, ?_, ?_⟩
      · rw [settled_gate, e]; exact mem_replaceRecv hmem _
      · rw [newCopy, if_neg (by omega), h0, tput, tget_cons]
        simp [eq_comm]
      · rw [settled_out, e]; rfl
      · rw [settled_hbm, e]; rfl
    · have e := htaken.trans (takeCell_accepts ha hncell (by omega) payload g s hn hcrc hok)
      obtain ⟨⟨b, hb⟩, hrecvs⟩ := acknowledge_same h (routeAt s x.part x.route)
        (replaceRecv g x { newCopy h payload crc x with accepted := some (payload.take x.bytes) } s)
      refine ⟨_, { newCopy h payload crc x with accepted := some (payload.take x.bytes) }, exec_cellArrive .., ?_, rfl, rfl, rfl, ?_, ?_,
        fun r hr => ?_⟩
      · rw [settled_gate, e, hrecvs]; exact mem_replaceRecv hmem _
      · rw [settled_out, e, hb]; rfl
      · rw [settled_hbm, e, hb]; rfl
      · rw [settled_gate, e, hr, acknowledge, gate_updGate_same, acks_replaceRecv]
        rfl
    · have e := htaken.trans (takeCell_rejects ha hncell (by omega) payload g s hn hcrc hno)
      refine ⟨_, { newCopy h payload crc x with attempt := none, cells := [] }, exec_cellArrive .., ?_, rfl, rfl, rfl, hacc, rfl, ?_,
        fun j => ?_, ?_, ?_⟩
      · rw [settled_gate, e, gate_updGate_same]; exact mem_replaceRecv hmem _
      · rw [settled_gate, e, gate_updGate_same, replaceRecv, gate_updGate_same]; rfl
      · rw [settled_gate, e, gate_updGate, ← acks_replaceRecv g x { newCopy h payload crc x with attempt := none, cells := [] } s j]
        split
        · rename_i ej; rw [ej]
        · rfl
      · rw [settled_out, e]; rfl
      · rw [settled_hbm, e]; rfl
  case bad =>
    intro h payload crc hbad
    have e := cellArrive_bad hbad g payload crc s
    exact ⟨_, exec_cellArrive .., by rw [settled_fabric, e], by rw [settled_hbm, e], by rw [settled_pens, e], by rw [settled_out, e]⟩
  case attempt =>
    intro k i a h r hheld hi ha hac
    have hmem := heldSend_eq_some hheld
    obtain ⟨hhbm, hpens, hout, hw⟩ := sendAttempt_leaves g h r a s
    refine ⟨_, exec_sendAttempt hheld hi ha hac, hhbm, hpens, hout, sendAttempt_goes_on g h r a s hmem, fun hl => ?_, fun hq j => ?_,
      fun hup => ⟨attemptCells g h r a s r, waiting_sendAttempt g h r a s hup, length_attemptCells g h r a s r, fun n hn => ?_⟩⟩
    · rw [sendAttempt_eq, if_pos hl]; exact not_mem_sends_releaseSend g h _
    · rw [hw, attemptQueued_of_none g h r a s hq, gate_moveTo]
    · obtain ⟨c, hc, hh, hpayload, hdue⟩ := getElem?_attemptCells g h r a s hn
      exact ⟨c, hc, by rw [hh], by rw [hh], by rw [hh]; rfl, by rw [hh]; rfl, by rw [hh]; rfl, by rw [hh]; rfl, by rw [hh]; rfl,
        by rw [hh]; rfl, hpayload, hdue⟩
  case timeout =>
    intro s c hs hd hlate
    obtain ⟨hf, hended⟩ := endFabricCopy_sole c stLowerTierFail s (p := fun x => x.id == c.id) hs (beq_self_eq_true _)
    exact ⟨_, exec_fabricCopyTimeout hs hd hlate, by rw [settled_fabric]; exact hf, fun g hg => (hended g hg).settled⟩

end Sys2Proof.Machine
end

section
/-! PROOFS. Idle words and training (R330, R331, R338, R341, R343, R344): what a gate sends and hears between its frames, how its link
falls, and what its training brings. -/

namespace Sys2Proof.Machine

/-! ## Idle words that are sent (R330) -/

theorem wcrcGood_withWcrc (w : IdleWord) : wcrcGood (withWcrc w) = true := by simp [wcrcGood, withWcrc, idleBytes]

theorem wcrcGood_idleWordOf (s : State) (g frame : Nat) : wcrcGood (idleWordOf s g frame) = true := wcrcGood_withWcrc _

theorem exec_idleWordSend {s : State} {g : Nat} (hup : gateUp s g = true) (hac : acCome (650 * nextFrame s g) s = true) :
    exec (.idleWordSend g) s = .next (idleWordSend g s) := by
  change execIdleWordSend g s = _
  rw [execIdleWordSend, event, hup, hac, Bool.and_self, if_pos rfl]

theorem gate_idleWordSend (s : State) (g j : Nat) : (idleWordSend g s).gate j = if j = g then { s.gate g with
      qtx := (idleWordOf s g (nextFrame s g)).quiesced, acks := (s.gate g).acks.drop 12, lastIdle := nextFrame s g + 1 }
    else s.gate j := by
  simp only [idleWordSend, gate_emit, gate_moveTo, gate_updGate]

/-! ## What an idle word tells the tally unit (R343, R344) -/

theorem Retuned.fabric {z : Tally} {s t : State} (h : Retuned z s t) : t.fabric = s.fabric := by rw [Told.same h]
theorem Retuned.mode {z : Tally} {s t : State} (h : Retuned z s t) : t.mode = s.mode := by rw [Told.same h]

theorem measured_retuned (p : Int) (s : State) : ∃ z, Retuned z s (measured p s) := by
  by_cases h : s.tally.st = .locked ∧ (p < -200 ∨ 200 < p)
  · exact ⟨_, measured_beyond h.1 h.2⟩
  · have hw : s.tally.st ≠ .locked ∨ (-200 ≤ p ∧ p ≤ 200) := (not_and_or.1 h).imp_right (by omega)
    rw [measured_within hw]
    exact ⟨_, retuned_updTally _ s⟩

theorem takeMark_retuned (g : Nat) (w : IdleWord) (ns : Nat) (s : State) : ∃ z, Retuned z s (takeMark g w ns s) := by
  unfold takeMark
  split
  · exact measured_retuned _ s
  · exact ⟨s.tally, Told.refl s⟩

theorem heard_hear (g : Nat) (w : IdleWord) (s : State) :
    tget none (hear g w s).tally.heard g = some ⟨w.gmId, w.gmPrio, w.steps, s.clock.elapsed⟩ := by
  simp only [hear, updTally, tget_tset_same]

/-- The election leaves what was heard. -/
theorem elect_retuned (s : State) : ∃ z, Retuned z s (elect s) ∧ z.heard = s.tally.heard := by
  by_cases h0 : s.tally.setTime = 0
  · cases h : bestCandidate s s.tally.gmPrio with
    | none =>
      obtain ⟨_, _, e, -⟩ := elect_settles_none h0 h
      exact ⟨_, e, rfl⟩
    | some c =>
      obtain ⟨_, _, e, -⟩ := elect_settles_some h0 h
      exact ⟨_, e, rfl⟩
  · have e : elect s = s := by simp [elect, h0]
    exact ⟨s.tally, by rw [e]; exact Told.refl s, rfl⟩

/-- The state in which an idle word has been heard, before its acknowledgements and its quiesce bit are taken. -/
def wordHeard (g : Nat) (w : IdleWord) (ns : Nat) (s : State) : State :=
  elect (hear g w (takeMark g w ns (updGate g (fun v => { v with qrx := w.quiesced }) s)))

theorem wordHeard_retuned (g : Nat) (w : IdleWord) (ns : Nat) (s : State) :
    ∃ z, Retuned z (updGate g (fun v => { v with qrx := w.quiesced }) s) (wordHeard g w ns s)
      ∧ tget none z.heard g = some ⟨w.gmId, w.gmPrio, w.steps, s.clock.elapsed⟩ := by
  obtain ⟨y, hy⟩ := takeMark_retuned g w ns (updGate g (fun v => { v with qrx := w.quiesced }) s)
  obtain ⟨z, hz, hheard⟩ := elect_retuned (hear g w (takeMark g w ns (updGate g (fun v => { v with qrx := w.quiesced }) s)))
  refine ⟨z, hy.trans ((retuned_updTally _ _).trans hz), ?_⟩
  rw [hheard, heard_hear, hy.clock]
  rfl

/-! ## What acknowledgements and quiesce bits leave (R338, R341) -/

/-- From s to t no transfer joins a send buffer, every gate shows the same quiesce bit, and neither the tally unit nor a byte of T1
changes. -/
structure Eased (s t : State) : Prop where
  tally : t.tally = s.tally
  t1 : t.hbm.t1 = s.hbm.t1
  qrx : ∀ j, (t.gate j).qrx = (s.gate j).qrx
  sends : ∀ j, ∀ h ∈ (t.gate j).sends, h ∈ (s.gate j).sends

namespace Eased

theorem trans {s t u : State} (h : Eased s t) (k : Eased t u) : Eased s u :=
  ⟨k.tally.trans h.tally, k.t1.trans h.t1, fun j => (k.qrx j).trans (h.qrx j), fun j x hx => h.sends j x (k.sends j x hx)⟩

theorem of_fabric {s t : State} (hf : t.fabric = s.fabric) (ht : t.tally = s.tally) (h1 : t.hbm.t1 = s.hbm.t1) : Eased s t := by
  have hg : ∀ j, t.gate j = s.gate j := fun j => by rw [State.gate, hf]; rfl
  exact ⟨ht, h1, fun j => by rw [hg], fun j x hx => by rwa [hg] at hx⟩

theorem refl (s : State) : Eased s s := of_fabric rfl rfl rfl

theorem each {α : Type} {f : α → State → State} (hf : ∀ a u, Eased u (f a u)) (l : List α) (s : State) : Eased s (forAll l f s) :=
  forAll_induct (P := Eased s) (fun a _ h => h.trans (hf a _)) l (.refl s)

end Eased

theorem eased_updPart (k : Nat) (f : Part → Part) (s : State) : Eased s (updPart k f s) := .of_fabric rfl rfl rfl

theorem eased_updGate (g : Nat) {f : Gate → Gate} (hq : ∀ v, (f v).qrx = v.qrx) (hs : ∀ v, ∀ h ∈ (f v).sends, h ∈ v.sends) (s : State) :
    Eased s (updGate g f s) := by
  refine ⟨rfl, rfl, fun j => ?_, fun j x hx => ?_⟩
  · rw [gate_updGate]
    split
    · rename_i e; rw [hq, e]
    · rfl
  · rw [gate_updGate] at hx
    split at hx
    · rename_i e; rw [e]; exact hs _ x hx
    · exact hx

theorem Told.eased {s t : State} (h : Told s t) : Eased s t := .of_fabric h.fabric h.tally (by rw [h.hbm])

theorem eased_syncDrovers (k : Nat) (s : State) : Eased s (syncDrovers k s) := by
  obtain ⟨d, e⟩ := syncDrovers_same k s
  rw [e]
  exact .of_fabric rfl rfl rfl

theorem eased_dropReqs (k : Nat) (f : LotRef → Bool) (s : State) : Eased s (dropReqs k f s) := .of_fabric rfl rfl rfl

theorem eased_pens (f : Nat → Pen → Pen) (l : List Nat) (s : State) : Eased s (forAll l (fun p => updPen p (f p)) s) := by
  obtain ⟨p, e⟩ := forAll_updPen_same (fun p : Nat => p) f l s
  rw [e]
  exact .of_fabric rfl rfl rfl

/-- The gates keep the transfers of committed words alone. -/
theorem eased_dropTransfers (k n : Nat) (l : List Nat) (s : State) : Eased s (forAll l (fun g => updGate g fun v => { v with
    sends := v.sends.filter fun h => h.part != k || h.instr < n, recvs := v.recvs.filter fun h => h.part != k || h.instr < n }) s) :=
  .each (fun g u => eased_updGate g (by intro _; rfl) (by intro _ _ hx; exact List.mem_of_mem_filter hx) u) l s

theorem quiesce_eased (k : Nat) (b : Bool) (s : State) : Eased s (quiesce k b s) := by
  unfold quiesce
  split
  · exact eased_updPart k _ s
  · exact (eased_pens _ _ s).trans <| (eased_updPart k _ _).trans <| (eased_dropTransfers k _ _ _).trans <|
      (eased_syncDrovers k _).trans <| (eased_dropReqs k _ _).trans (told_partEvent _ _ _).eased

theorem slip_eased (k c : Nat) (s : State) : Eased s (slip k c s) := by
  unfold slip
  split
  · exact .refl s
  · split
    · exact .refl s
    · dsimp only
      split
      · exact ((told_daybook _ _ _ _ _ s).eased.trans (eased_updPart k _ _)).trans ((eased_updPart k _ _).trans (quiesce_eased k true _))
      · exact ((told_daybook _ _ _ _ _ s).eased.trans (eased_updPart k _ _)).trans ((quiesce_eased k false _).trans (eased_updPart k _ _))

theorem takeQuiesce_eased (g : Nat) (w : IdleWord) (s : State) : Eased s (takeQuiesce g w s) := by
  unfold takeQuiesce
  split
  · exact .refl s
  · split
    · dsimp only
      split
      · exact (slip_eased _ _ s).trans (eased_updPart _ _ _)
      · exact eased_updPart _ _ s
    · exact .refl s

/-- What acknowledgements change: send buffers, acknowledgements to relay, and the open work of RUNs on send drovers. -/
structure Acked (s t : State) : Prop extends Eased s t where
  mode : t.mode = s.mode
  moduleId : t.fabric.moduleId = s.fabric.moduleId
  parts : ∀ k, t.part k = { s.part k with run := (t.part k).run }
  run : ∀ k r, (s.part k).run = some r → ∃ l, (t.part k).run = some { r with opened := l }

theorem Acked.refl (s : State) : Acked s s := ⟨.refl s, rfl, rfl, fun _ => rfl, fun _ r h => ⟨r.opened, h⟩⟩

theorem Acked.trans {s t u : State} (h : Acked s t) (k : Acked t u) : Acked s u where
  toEased := h.toEased.trans k.toEased
  mode := k.mode.trans h.mode
  moduleId := k.moduleId.trans h.moduleId
  parts := fun i => by
    have e := k.parts i
    rwa [h.parts i] at e
  run := fun i r hr => by
    obtain ⟨l, hl⟩ := h.run i r hr
    obtain ⟨l', hl'⟩ := k.run i _ hl
    exact ⟨l', hl'⟩

theorem acked_updGate (g : Nat) {f : Gate → Gate} (hq : ∀ v, (f v).qrx = v.qrx) (hs : ∀ v, ∀ h ∈ (f v).sends, h ∈ v.sends) (s : State) :
    Acked s (updGate g f s) := ⟨eased_updGate g hq hs s, rfl, rfl, fun _ => rfl, fun _ r h => ⟨r.opened, h⟩⟩

theorem acked_closeWork (k i d : Nat) (s : State) : Acked s (closeWork k i d s) where
  toEased := .of_fabric rfl rfl rfl
  mode := rfl
  moduleId := rfl
  parts := fun j => by
    rw [closeWork, part_updDrover, part_updRun]
    split
    · rename_i e; rw [e]
    · rfl
  run := fun j r hr => by
    rw [closeWork, part_updDrover, part_updRun]
    split
    · rename_i e; rw [← e, hr]; exact ⟨_, rfl⟩
    · exact ⟨r.opened, hr⟩

theorem acked_releaseSend (g : Nat) (h : SendHold) (s : State) : Acked s (releaseSend g h s) :=
  (acked_updGate g (f := fun v => { v with sends := v.sends.filter fun x => x != h }) (fun _ => rfl)
    (fun _ _ hx => List.mem_of_mem_filter hx) s).trans (acked_closeWork _ _ _ _)

theorem acked_takeAck (g : Nat) (a : Ack) (s : State) : Acked s (takeAck g a s) := by
  unfold takeAck
  split
  · split
    · exact acked_releaseSend _ _ s
    · exact .refl s
  · dsimp only
    split
    · exact .refl s
    · exact acked_updGate _ (by intro _; rfl) (by intro _ _ hx; exact hx) s

theorem acked_takeAcks (g : Nat) (l : List Ack) (s : State) : Acked s (forAll l (takeAck g) s) :=
  forAll_induct (P := Acked s) (fun a _ h => h.trans (acked_takeAck g a _)) l (.refl s)

/-! ## Acknowledged transfers (R338) -/

/-- The only transfer that an acknowledgement names is released. -/
theorem not_mem_sends_takeAck {a : Ack} {h : SendHold} {s : State} (hd : a.dest = s.fabric.moduleId)
    (hh : (h.issued && h.seq == a.seq) = true) (honly : ∀ x ∈ (s.gate a.sgate).sends, (x.issued && x.seq == a.seq) = true → x = h) (g : Nat) :
    h ∉ ((takeAck g a s).gate a.sgate).sends := by
  unfold takeAck
  rw [if_pos hd]
  cases hf : (s.gate a.sgate).sends.find? (fun x => x.issued && x.seq == a.seq) with
  | none => exact fun hm => List.find?_eq_none.1 hf h hm hh
  | some x =>
    have hx := List.find?_some hf
    obtain rfl : x = h := honly x (List.mem_of_find?_eq_some hf) hx
    exact not_mem_sends_releaseSend a.sgate x s

theorem not_mem_sends_takeAcks {l : List Ack} {a : Ack} (ha : a ∈ l) {h : SendHold} {s : State} (hd : a.dest = s.fabric.moduleId)
    (hf : (s.gate a.sgate).sends.filter (fun x => x.issued && x.seq == a.seq) = [h]) (g : Nat) :
    h ∉ ((forAll l (takeAck g) s).gate a.sgate).sends := by
  obtain ⟨l1, l2, rfl⟩ := List.append_of_mem ha
  have hbefore := acked_takeAcks g l1 s
  have hafter := acked_takeAcks g l2 (takeAck g a (forAll l1 (takeAck g) s))
  have hmatch : ∀ x, x ∈ (s.gate a.sgate).sends ∧ (x.issued && x.seq == a.seq) = true ↔ x = h := fun x => by
    rw [← List.mem_singleton (a := x) (b := h), ← hf, List.mem_filter]
  have hreleased := not_mem_sends_takeAck (hd.trans hbefore.moduleId.symm) ((hmatch h).2 rfl).2
    (fun x hx hx' => (hmatch x).1 ⟨hbefore.sends _ x hx, hx'⟩) g
  rw [forAll, List.foldl_append]
  exact fun hm => hreleased (hafter.sends _ h hm)

/-! ## A peer's later shift (R341) -/

theorem fabricRunOf_eq_some {s : State} {g : Nat} {r : Run} (h : fabricRunOf s g = some r) :
    (s.part (partOfGate s g)).run = some r ∧ r.prog.fabric = true := by
  unfold fabricRunOf at h
  dsimp only at h
  split at h
  · obtain ⟨q, hq, hr⟩ := Option.bind_eq_some_iff.1 h
    split at hr
    · rename_i hf
      cases hr
      exact ⟨hq, hf⟩
    · cases hr
  · cases h

theorem fabricRunOf_of_running {s : State} {g : Nat} {r : Run} (hst : (s.part (partOfGate s g)).st = .running)
    (hr : (s.part (partOfGate s g)).run = some r) (hf : r.prog.fabric = true) : fabricRunOf s g = some r := by
  simp [fabricRunOf, hst, hr, hf]

/-- A running fabric RUN slips when a peer that shares its start beat tells a greater shift. -/
theorem takeQuiesce_slips {s : State} {g : Nat} {w : IdleWord} {r : Run} (hr : fabricRunOf s g = some r) (he : r.ending = none)
    (hst : (s.part (partOfGate s g)).st = .running) (hq : w.quiesced = true) (hf : w.fabricRun = true) (hb : w.bs = r.startBeat)
    (hs : r.shift < w.shift) :
    ((takeQuiesce g w s).part (partOfGate s g)).st = .quiesced ∧ ((takeQuiesce g w s).part (partOfGate s g)).announced = w.shift
      ∧ ((takeQuiesce g w s).part (partOfGate s g)).cause = slipFabricLate := by
  have hslips : slips (s.part (partOfGate s g)) r = true := by simp [slips, he, hst]
  have hslipped := slip_slipped (s := s) (fabricRunOf_eq_some hr).1 hslips slipFabricLate rfl
    (fun q hq => by rw [(fabricRunOf_eq_some hr).1] at hq; cases hq; rfl)
  have e : takeQuiesce g w s =
      updPart (partOfGate s g) (fun q => { q with announced := w.shift }) (slip (partOfGate s g) slipFabricLate s) := by
    simp [takeQuiesce, hr, hq, hf, hb, hs, hst]
  rw [e, part_updPart_same]
  exact ⟨hslipped.st, rfl, hslipped.why⟩

/-! ## Idle words that are received -/

theorem exec_idleWordReceive (g : Nat) (w : IdleWord) (ns : Nat) (s : State) :
    exec (.idleWordReceive g w ns) s = .next (settled (idleWordReceive g w ns) s) := rfl

theorem idleWordReceive_good {s : State} {g : Nat} {w : IdleWord} (hup : gateUp s g = true) (hw : wcrcGood w = true) (ns : Nat) :
    idleWordReceive g w ns s = takeQuiesce g w (forAll w.acks (takeAck g) (wordHeard g w ns s)) := by
  simp only [idleWordReceive, hup, hw, Bool.not_true, Bool.or_self, Bool.false_eq_true, if_false]
  rfl

theorem idleWordReceive_ignored {s : State} {g : Nat} {w : IdleWord} (h : gateUp s g = false ∨ wcrcGood w = false) (ns : Nat) :
    idleWordReceive g w ns s = s := by
  rcases h with h | h <;> simp [idleWordReceive, h]

section
variable {s : State} {g : Nat} {w : IdleWord}

theorem gate_wordHeard (g : Nat) (w : IdleWord) (ns : Nat) (s : State) (j : Nat) :
    (wordHeard g w ns s).gate j = if j = g then { s.gate g with qrx := w.quiesced } else s.gate j := by
  obtain ⟨z, hz, -⟩ := wordHeard_retuned g w ns s
  rw [hz.gate, gate_updGate]

theorem sends_wordHeard (g : Nat) (w : IdleWord) (ns : Nat) (s : State) (j : Nat) :
    ((wordHeard g w ns s).gate j).sends = (s.gate j).sends := by
  rw [gate_wordHeard]
  split
  · rename_i e; rw [e]
  · rfl

theorem eased_idleWordReceive (hup : gateUp s g = true) (hw : wcrcGood w = true) (ns : Nat) :
    Eased (wordHeard g w ns s) (idleWordReceive g w ns s) := by
  rw [idleWordReceive_good hup hw ns]
  exact (acked_takeAcks g w.acks _).toEased.trans (takeQuiesce_eased g w _)

/-- A transfer that an acknowledgement of the word names is no longer held. -/
theorem not_mem_sends_idleWordReceive (hup : gateUp s g = true) (hw : wcrcGood w = true) (ns : Nat) {a : Ack} (ha : a ∈ w.acks)
    (hd : a.dest = s.fabric.moduleId) {h : SendHold} (hf : (s.gate a.sgate).sends.filter (fun x => x.issued && x.seq == a.seq) = [h]) :
    h ∉ ((idleWordReceive g w ns s).gate a.sgate).sends := by
  obtain ⟨z, hz, -⟩ := wordHeard_retuned g w ns s
  rw [idleWordReceive_good hup hw ns]
  exact fun hm => not_mem_sends_takeAcks ha (by rw [hd, hz.fabric]; rfl) (by rw [sends_wordHeard]; exact hf) g
    ((takeQuiesce_eased g w _).sends _ h hm)

/-- The acknowledgements leave the RUN running, so the word's greater shift ends it. -/
theorem idleWordReceive_slips (hup : gateUp s g = true) (hw : wcrcGood w = true) (ns : Nat) {r : Run} (hr : fabricRunOf s g = some r)
    (he : r.ending = none) (hst : (s.part (partOfGate s g)).st = .running) (hq : w.quiesced = true) (hf : w.fabricRun = true)
    (hb : w.bs = r.startBeat) (hs : r.shift < w.shift) :
    ((idleWordReceive g w ns s).part (partOfGate s g)).st = .quiesced
      ∧ ((idleWordReceive g w ns s).part (partOfGate s g)).announced = w.shift
      ∧ ((idleWordReceive g w ns s).part (partOfGate s g)).cause = slipFabricLate := by
  obtain ⟨hrun, hfab⟩ := fabricRunOf_eq_some hr
  obtain ⟨z, hz, -⟩ := wordHeard_retuned g w ns s
  have hacked := acked_takeAcks g w.acks (wordHeard g w ns s)
  have hpart : ∀ k, (wordHeard g w ns s).part k = s.part k := fun k => by rw [State.part, hz.parts]; rfl
  obtain ⟨l, hl⟩ := hacked.run (partOfGate s g) r (by rw [hpart]; exact hrun)
  have hk : partOfGate (forAll w.acks (takeAck g) (wordHeard g w ns s)) g = partOfGate s g := by
    rw [partOfGate, hacked.mode, hz.mode]; rfl
  have hst' : ((forAll w.acks (takeAck g) (wordHeard g w ns s)).part (partOfGate s g)).st = .running := by
    rw [hacked.parts, hpart]; exact hst
  rw [← hk] at hl hst'
  have hslips := takeQuiesce_slips (fabricRunOf_of_running hst' hl hfab) he hst' hq hf hb hs
  rw [hk] at hslips
  rw [idleWordReceive_good hup hw ns]
  exact hslips

end

/-! ## A link that falls (R331, R350) -/

/-- The state in which a gate is DOWN and has lost its waiting cells. -/
def gateFallen (g : Nat) (s : State) : State :=
  updGate g (fun v => { v with waiting := [], qrx := false })
    (updGate g (fun v => { v with st := 3, begun := false, since := s.clock.elapsed, failedTrain := false }) s)

theorem gate_gateFallen (g : Nat) (s : State) (j : Nat) : (gateFallen g s).gate j = if j = g then { s.gate g with
      st := 3, begun := false, since := s.clock.elapsed, failedTrain := false, waiting := [], qrx := false } else s.gate j := by
  rw [gateFallen, gate_updGate, gate_updGate_same, gate_updGate]
  split <;> rfl

theorem gateDown_eq {s : State} {g : Nat} (h : gateEthernet s g = false) : gateDown g s = elect (failCopies g (gateFallen g s)) := by
  have he : gateEthernet (updGate g (fun v => { v with st := 3, begun := false, since := s.clock.elapsed, failedTrain := false }) s) g = false := by
    rw [gateEthernet, gate_updGate_same]; exact h
  simp only [gateDown, loseGate, he]
  rfl

theorem exec_gateDown {s : State} {g : Nat} (h : (s.gate g).st = 2) : exec (.gateDown g) s = .next (settled (gateDown g) s) := by
  change execGateDown g s = _
  rw [execGateDown, event, if_pos (beq_iff_eq.2 h)]

/-! ## Training (R331) -/

theorem exec_gateTrainStart {s : State} {g : Nat} (h : mayTrainGate s g = true) : exec (.gateTrainStart g) s =
    .next (updGate g (fun v => { v with st := 1, begun := true, since := s.clock.elapsed }) s) := if_pos h

theorem exec_gateTrained {s : State} {g : Nat} (hst : (s.gate g).st = 1) (hb : (s.gate g).begun = true)
    (hin : s.clock.elapsed ≤ (s.gate g).since + 2000) (peer peerGate delay : Nat) :
    exec (.gateTrained g peer peerGate (ceilDiv (13 * delay) 1000) delay) s = .next (gateTrained g peer peerGate delay s) := by
  change execGateTrained g peer peerGate (ceilDiv (13 * delay) 1000) delay s = _
  rw [execGateTrained, event, if_pos (by simp [hst, hb, hin])]

theorem exec_gateTrainTimeout {s : State} {g : Nat} (hst : (s.gate g).st = 1) (hb : (s.gate g).begun = true)
    (hlate : (s.gate g).since + 2000 ≤ s.clock.elapsed) : exec (.gateTrainTimeout g) s = .next (gateTrainTimeout g s) := by
  change execGateTrainTimeout g s = _
  rw [execGateTrainTimeout, event, if_pos (by simp [trainOverdue, hst, hb, hlate])]

theorem trainRecord_told (g a b st : Nat) (s : State) : Told s (trainRecord g a b st s) := told_daybook _ _ _ _ _ s

/-- A gate that has come up: its peer, its hop, and whether the hop has changed. -/
def gateRisen (g peer peerGate delay : Nat) (changed : Bool) (s : State) : State :=
  updGate g (fun v => { v with st := 2, peer := peer, peerGate := peerGate, h := ceilDiv (13 * delay) 1000, delay := delay, stale := changed
                               since := s.clock.elapsed, failedTrain := false, trained := true }) s

section
variable {s : State} {g : Nat} (peer peerGate delay : Nat)

theorem gateTrained_first (h : (s.gate g).trained = false) :
    gateTrained g peer peerGate delay s = gateRisen g peer peerGate delay false s := by
  simp only [gateTrained, h]
  rfl

theorem gateTrained_same (h : (s.gate g).trained = true) (hh : (s.gate g).h = ceilDiv (13 * delay) 1000) :
    Told (gateRisen g peer peerGate delay false s) (gateTrained g peer peerGate delay s) := by
  simp only [gateTrained, h, hh, bne_self_eq_false, Bool.and_false]
  exact trainRecord_told _ _ _ _ _

theorem gateTrained_changed (h : (s.gate g).trained = true) (hh : (s.gate g).h ≠ ceilDiv (13 * delay) 1000) :
    ∃ u, Told (gateRisen g peer peerGate delay true s) u
      ∧ gateTrained g peer peerGate delay s = markStale (fun r => firstGate r == g) u := by
  simp only [gateTrained, h, bne_iff_ne.2 hh, Bool.and_true]
  exact ⟨_, trainRecord_told _ _ _ _ _, rfl⟩

theorem gate_gateRisen (changed : Bool) (j : Nat) : (gateRisen g peer peerGate delay changed s).gate j = if j = g then { s.gate g with
      st := 2, peer := peer, peerGate := peerGate, h := ceilDiv (13 * delay) 1000, delay := delay, stale := changed
      since := s.clock.elapsed, failedTrain := false, trained := true } else s.gate j := gate_updGate _ _ _ _

end

/-- At a later training the gates stand as at the first, but for the mark of a hop that has changed. -/
theorem gate_gateTrained {s : State} {g : Nat} (h : (s.gate g).trained = true) (peer peerGate delay j : Nat) :
    (gateTrained g peer peerGate delay s).gate j =
      (gateRisen g peer peerGate delay ((s.gate g).h != ceilDiv (13 * delay) 1000) s).gate j := by
  by_cases hh : (s.gate g).h = ceilDiv (13 * delay) 1000
  · rw [(gateTrained_same peer peerGate delay h hh).gate, bne_eq_false_iff_eq.2 hh]
  · obtain ⟨u, htold, e⟩ := gateTrained_changed peer peerGate delay h hh
    obtain ⟨p, hp⟩ := markStale_same (fun r => firstGate r == g) u
    rw [e, hp, bne_iff_ne.2 hh]
    exact htold.gate j

/-- A route as it stands after those that satisfy a test are marked STALE. -/
def staleIf (f : Route → Bool) (e : RouteSlot) : RouteSlot := if e.written && f e.r then { e with stale := true } else e

/-- Every partition's routes are marked, once. -/
theorem part_markStale {s : State} {k : Nat} (hk : k < s.mode) (f : Route → Bool) :
    (markStale f s).part k = { s.part k with routes := (s.part k).routes.map fun e => (e.1, staleIf f e.2) } := by
  have hother : ∀ l : List Nat, k ∉ l → ∀ u : State, (forAll l (fun i => updPart i fun q =>
      { q with routes := q.routes.map fun e => (e.1, staleIf f e.2) }) u).part k = u.part k := fun l hl u =>
    forAll_induct_mem (P := fun v : State => v.part k = u.part k) (fun i hi v hv => by
      rw [part_updPart, if_neg fun e => hl (by rw [e]; exact hi), hv]) rfl
  obtain ⟨l1, l2, h1, h2, e⟩ := forAll_split (f := fun i => updPart i fun q =>
    { q with routes := q.routes.map fun e => (e.1, staleIf f e.2) }) List.nodup_range (List.mem_range.2 hk) s
  have hm : markStale f s = _ := e
  rw [hm, hother l2 h2, part_updPart_same, hother l1 h1]

/-- A written route that satisfies the test is STALE. -/
theorem stale_markStale {s : State} {k i : Nat} {r : Route} {f : Route → Bool} (hk : k < s.mode) (hr : routeAt s k i = some r)
    (hf : f r = true) : (tget RouteSlot.reset ((markStale f s).part k).routes i).stale = true := by
  have hw : (tget RouteSlot.reset (s.part k).routes i).written = true ∧ (tget RouteSlot.reset (s.part k).routes i).r = r := by
    unfold routeAt at hr
    dsimp only at hr
    split at hr
    · rename_i hw
      exact ⟨hw, Option.some.inj hr⟩
    · cases hr
  rw [part_markStale hk, tget_mapped _ (staleIf f) rfl, staleIf, if_pos (by rw [hw.1, hw.2, hf]; rfl)]

/-- Settles O33: a word that is sent by what it says and leaves; one that is received by what the tally unit, the send buffers and the
RUN take from it; a link by its fall and its training. -/
theorem gateEvents : Obligations.GateEvents := by
  unfold Obligations.GateEvents
  refine ⟨fun s g => ⟨?send, ?receive, ?ignored⟩, fun s g => ⟨?down, ?retrain, ?train, ?trained, ?timeout⟩⟩
  case send =>
    intro hup hac
    refine ⟨_, idleWordOf s g (nextFrame s g), exec_idleWordSend hup hac, ?_, rfl, wcrcGood_idleWordOf s g _, rfl, rfl, rfl, rfl, rfl, rfl,
      ?_, fun j hj => ?_, ?_, ?_, ?_⟩
    · simp [idleWordSend, emit]
    · rw [gate_idleWordSend, if_pos rfl]
    · rw [gate_idleWordSend, if_neg hj]
    · simp [idleWordSend, emit]
    · simp [idleWordSend, emit]
    · simp [idleWordSend, emit]
  case receive =>
    intro w ns hup hw
    obtain ⟨z, hz, hheard⟩ := wordHeard_retuned g w ns s
    have heased := eased_idleWordReceive hup hw ns
    refine ⟨_, exec_idleWordReceive g w ns s, ?_, ?_, ?_, fun a ha hd h hf hm => ?_, fun r hr he hst hq hrun hb hs => ?_⟩
    · rw [settled_gate, heased.qrx, gate_wordHeard, if_pos rfl]
    · rw [settled_tally, heased.tally, hz.tally, hheard]
    · rw [settled_hbm, heased.t1, hz.hbm]; rfl
    · rw [settled_gate] at hm
      exact not_mem_sends_idleWordReceive hup hw ns ha hd hf hm
    · rw [settled_st, settled_announced, settled_cause]
      exact idleWordReceive_slips hup hw ns hr he hst hq hrun hb hs
  case ignored =>
    intro w ns h
    have e := idleWordReceive_ignored h ns
    exact ⟨_, exec_idleWordReceive g w ns s, by rw [settled_fabric, e], by rw [settled_tally, e], by rw [settled_hbm, e],
      by rw [settled_out, e]⟩
  case down =>
    intro hst heth
    have e := gateDown_eq heth
    have hends : EndsCopies (gateFallen g s) (failCopies g (gateFallen g s)) := endFabricCopies_ends _ _ _
    obtain ⟨z, hz, -⟩ := elect_retuned (failCopies g (gateFallen g s))
    have hgate : ∀ j, (settled (gateDown g) s).gate j = (gateFallen g s).gate j := fun j => by
      rw [settled_gate, e, hz.gate, hends.gate]
    refine ⟨_, exec_gateDown hst, ?_, ?_, ?_, ?_, ?_, ?_, fun j hj => ?_, ?_, ?_, fun c j hc hg hj => ?_⟩
    iterate 6 rw [hgate, gate_gateFallen, if_pos rfl]
    · rw [hgate, gate_gateFallen, if_neg hj]
    · rw [settled_place, e, hz.place, hends.place]; rfl
    · rw [settled_pens, e, hz.pens, hends.pens]; rfl
    · obtain ⟨hf, hended⟩ := endFabricCopy_sole c stLowerTierFail (gateFallen g s) (p := fun x => copyGate (gateFallen g s) x == g) hc
        (beq_iff_eq.2 hg)
      refine ⟨?_, Ended.settled ?_⟩
      · rw [settled_fabric, e, hz.fabric]
        exact congrArg Fabric.copies hf
      · obtain ⟨hcomplete, hidle, hgone⟩ := hended j hj
        rw [e]
        exact Told.ended stLowerTierFail hz ⟨hcomplete, hidle, hgone⟩
  case retrain =>
    intro hacb hst hsince hfailed
    refine exec_gateTrainStart ?_
    rcases hfailed with h | h <;> simp [mayTrainGate, hacb, hst, hsince, h]
  case train => exact fun hacb hstage hst hb => exec_gateTrainStart (by simp [mayTrainGate, hacb, hstage, hst, hb])
  case trained =>
    intro peer peerGate delay hst hb hin
    refine ⟨fun h => by rw [exec_gateTrained hst hb hin, gateTrained_first peer peerGate delay h]; rfl, fun h => ?_⟩
    refine ⟨_, exec_gateTrained hst hb hin peer peerGate delay, ?_⟩
    have hgate := fun j => (gate_gateTrained h peer peerGate delay j).trans (gate_gateRisen peer peerGate delay _ j)
    refine ⟨?_, ?_, ?_, ?_, fun j hj => ?_, fun hh => ?_, fun hh k hk i r hr hg => ?_⟩
    iterate 3 rw [hgate, if_pos rfl]
    · rw [hgate, if_pos rfl]; exact Bool.eq_iff_iff.2 (bne_iff_ne.trans decide_eq_true_iff.symm)
    · rw [hgate, if_neg hj]
    · exact (gateTrained_same peer peerGate delay h hh).parts
    · obtain ⟨u, htold, e⟩ := gateTrained_changed peer peerGate delay h hh
      rw [e]
      exact stale_markStale (by rw [htold.same]; exact hk) (by rw [routeAt, htold.part]; exact hr) (beq_iff_eq.2 hg)
  case timeout =>
    intro hst hb hlate
    have htold : Told _ (gateTrainTimeout g s) := trainRecord_told _ _ _ _ _
    refine ⟨_, exec_gateTrainTimeout hst hb hlate, ?_, ?_, ?_, fun j hj => ?_, ?_, ?_, ?_⟩
    · rw [htold.gate, gate_updGate_same]
    · rw [htold.gate, gate_updGate_same]
    · rw [htold.gate, gate_updGate_same]
    · rw [htold.gate, gate_updGate, if_neg hj]
    · exact htold.parts
    · exact htold.place
    · exact htold.hbm

end Sys2Proof.Machine
end

section
/-! PROOFS. A step and its queue (R368, R372). -/

namespace Sys2Proof.Machine

/-- Settles O3, by the model's two equations of `step`. -/
theorem stepRunsFront : Obligations.StepRunsFront := by
  unfold Obligations.StepRunsFront
  exact fun s => ⟨fun _ _ => step_cons, step_nil⟩

end Sys2Proof.Machine
end

section
/-! PROOFS. Every mailbox command runs through `mailbox` (R369, R380): its row, its LEN, and the checks before its own part. -/

namespace Sys2Proof.Machine

/-! ## LEN (R369) -/

theorem layoutBits_append (l m : List Piece) : layoutBits (l ++ m) = layoutBits l + layoutBits m := by simp [layoutBits]

theorem layoutBits_rep (l : List Piece) : ∀ n, layoutBits (rep n l) = n * layoutBits l
  | 0 => by simp [rep, layoutBits]
  | n + 1 => by rw [rep, layoutBits_append, layoutBits_rep l n, Nat.succ_mul, Nat.add_comm]

/-- LEN of a payload with n entries of k words each after a head of h words. -/
theorem ceilDiv_counted {l e : List Piece} {h k : Nat} (hl : layoutBits l = 64 * h) (he : layoutBits e = 64 * k) (n : Nat) :
    ceilDiv (layoutBits (l ++ rep n e)) 64 = h + k * n := by
  have hbits : layoutBits (l ++ rep n e) = 64 * (h + k * n) := by
    rw [layoutBits_append, layoutBits_rep, hl, he]
    ring
  rw [hbits, ceilDiv]
  omega

/-- LEN of an opcode whose payload holds no count. -/
theorem eq_unitsOf {op n : Nat} {v : List Nat} (h : op ≠ 0x0201 ∧ op ≠ 0x0501 ∧ op ≠ 0x0A02)
    (e : ceilDiv (layoutBits (layoutOf op 0)) 64 = n) : n = unitsOf op v := by
  obtain ⟨h1, h2, h3⟩ := h
  rw [← e, unitsOf, layoutOf_congr (fun e => absurd e h1) fun e => (e.elim h2 h3).elim]

theorem unitsOf_runSubmit {c g b : Nat} {l : List BatchEntry} (h : l.length ≤ 500) :
    4 + l.length = unitsOf 0x0201 ([c, g, b, l.length] ++ unbatch l) := by
  have hcount : batchCount (countSeed 0x0201 ([c, g, b, l.length] ++ unbatch l)) = l.length := batchCount_countSeed h
  have hlay : layoutOf 0x0201 (countSeed 0x0201 ([c, g, b, l.length] ++ unbatch l)) =
      [fld 32, gap 32, fld 48, gap 16, fld 64, fld 32, gap 32] ++ rep l.length batchLayout := by
    simp only [layoutOf, layoutLow, hcount]
    rfl
  rw [unitsOf, hlay, ceilDiv_counted (h := 4) (k := 1) rfl rfl, Nat.one_mul]

theorem unitsOf_tierConfig {c : Nat} {l : List T2Range} (h : fits 8 l.length = true) :
    1 + 3 * l.length = unitsOf 0x0501 ([c, l.length] ++ unrange l) := by
  have hcount : entryCount (countSeed 0x0501 ([c, l.length] ++ unrange l)) = l.length := entryCount_countSeed (.inl rfl) h
  have hlay : layoutOf 0x0501 (countSeed 0x0501 ([c, l.length] ++ unrange l)) = [fld 8, fld 8, gap 48] ++ rep l.length rangeLayout := by
    simp only [layoutOf, layoutLow, hcount]
    rfl
  rw [unitsOf, hlay, ceilDiv_counted (h := 1) (k := 3) rfl rfl]

theorem unitsOf_fabricRoute {f n : Nat} {l : List Route} (h : fits 8 n = true) :
    1 + 4 * n = unitsOf 0x0A02 ([f, n] ++ unroute l) := by
  have hcount : entryCount (countSeed 0x0A02 ([f, n] ++ unroute l)) = n := entryCount_countSeed (.inr rfl) h
  have hlay : layoutOf 0x0A02 (countSeed 0x0A02 ([f, n] ++ unroute l)) = [fld 8, fld 8, gap 48] ++ rep n routeLayout := by
    simp only [layoutOf, layoutHigh, hcount]
    rfl
  rw [unitsOf, hlay, ceilDiv_counted (h := 1) (k := 4) rfl rfl]

/-! ## Rows and bodies (R369, R380) -/

/-- A command runs a part of its own after the checks of a row and a LEN; some settle the contexts with their completion (R371). -/
def RunsAs (i : Instr) (p : Post) (r : CmdRow) (n : Nat) : Prop :=
  ∃ body, (∀ s, exec i s = .next (mailbox p r n body s)) ∨ ∀ s, exec i s = .next (settledCmd (mailbox p r n body) s)

/-- Every mailbox command runs so, by the row of its opcode; LEN is that of its fields (R369). -/
theorem runsAs_command {i : Instr} {p : Post} {op : Nat} {v : List Nat} {r : CmdRow} (h : commandFields i = some (p, op, v))
    (hr : rowOf op = some r) : ∃ n, RunsAs i p r n
      ∧ (i.wf = true → (∀ c a b l, i = .runSubmit p c a b l → l.length ≤ 500) → n = unitsOf op v) := by
  cases i
  all_goals simp only [commandFields, Option.some.injEq, Prod.mk.injEq, reduceCtorEq] at h
  all_goals obtain ⟨rfl, rfl, rfl⟩ := h
  all_goals obtain rfl := Option.some.inj hr
  case runSubmit => exact ⟨_, ⟨_, .inr fun _ => rfl⟩, fun _ hb => unitsOf_runSubmit (hb _ _ _ _ rfl)⟩
  case tierConfig =>
    refine ⟨_, ⟨_, .inl fun _ => rfl⟩, fun hw _ => unitsOf_tierConfig ?_⟩
    simp only [Instr.wf, Bool.and_eq_true, and_assoc] at hw
    obtain ⟨-, -, hn, -⟩ := hw
    exact hn
  case fabricRoute =>
    refine ⟨_, ⟨_, .inl fun _ => rfl⟩, fun hw _ => unitsOf_fabricRoute ?_⟩
    simp only [Instr.wf, allFit_cons, Bool.and_eq_true, and_assoc] at hw
    obtain ⟨-, -, hn, -⟩ := hw
    exact hn
  case contextRegister | contextRelease | contextReside | contextCancel | syncWait | fabricCopy =>
    exact ⟨_, ⟨_, .inr fun _ => rfl⟩, fun _ _ => eq_unitsOf (by decide) rfl⟩
  all_goals exact ⟨_, ⟨_, .inl fun _ => rfl⟩, fun _ _ => eq_unitsOf (by decide) rfl⟩

/-- R380 has a row for every mailbox command. -/
theorem rowOf_command {i : Instr} {p : Post} {op : Nat} {v : List Nat} (h : commandFields i = some (p, op, v)) : ∃ r, rowOf op = some r := by
  cases i
  all_goals simp only [commandFields, Option.some.injEq, Prod.mk.injEq, reduceCtorEq] at h
  all_goals obtain ⟨-, rfl, -⟩ := h
  all_goals exact ⟨_, rfl⟩

theorem settledCmd_same (f : State → State) (s : State) : ∃ c x q, settledCmd f s = { f s with clock := c, ctxs := x, parts := q } :=
  ⟨{ (f s).clock with lead := 0 }, (settledCmd f s).ctxs, (settledCmd f s).parts, congrArg (setLead 0) (settledCmd_resettled f s).same⟩

/-- What a mailbox command answers: the state of its mailbox's part, but for the clock, the contexts and the partitions, which settling
changes. -/
theorem RunsAs.exec {i : Instr} {p : Post} {r : CmdRow} {n : Nat} (h : RunsAs i p r n) : ∃ body, ∀ s, ∃ c x q,
    exec i s = .next { mailbox p r n body s with clock := c, ctxs := x, parts := q } := by
  obtain ⟨body, h | h⟩ := h
  · exact ⟨body, fun s => ⟨_, _, _, h s⟩⟩
  · refine ⟨body, fun s => ?_⟩
    obtain ⟨c, x, q, e⟩ := settledCmd_same (mailbox p r n body) s
    exact ⟨c, x, q, (h s).trans (congrArg Host.Outcome.next e)⟩

/-! ## The checks (R369) -/

section
variable {p : Post} {r : CmdRow} {n : Nat} {s : State}

/-- A command that fails a check completes with its status; its sequence number is taken but after the first check (R369, R370). -/
theorem RunsAs.answers {i : Instr} {st last : Nat} (h : RunsAs i p r n) (hs : sampling p s = true) (hc : commonCheck p r n s = some st)
    (hl : last = if st = stStaleSeq then (s.mbx p.func p.mbx).lastSeq else p.seq) : Answers i p r st last s := by
  obtain ⟨body, hb⟩ := h.exec
  obtain ⟨c, x, q, e⟩ := hb s
  have hm : mailbox p r n body s = completeNow p st (checkResult r) (samplePost p (st == stStaleSeq) s) := by
    simp only [mailbox, hs, hc, Bool.not_true, Bool.false_eq_true, if_false]
  rw [hm] at e
  have hdone : Completed p st (checkResult r) s (completeNow p st (checkResult r) (samplePost p (st == stStaleSeq) s)) := by
    obtain ⟨h1, h2, h3, h4, h5, h6⟩ := completed_answer (p := p) (st := st) (res := checkResult r) (s := s)
      (u := samplePost p (st == stStaleSeq) s) rfl
    exact ⟨h1, h2, h3, h4, h5, h6⟩
  obtain ⟨h1, h2, h3, h4, h5, h6⟩ := hdone
  have hlast : ((completeNow p st (checkResult r) (samplePost p (st == stStaleSeq) s)).mbx p.func p.mbx).lastSeq = last := by
    rw [completeNow, mbx_writeCompletion, samplePost, mbx_updMbx_same, hl]
    simp
  refine ⟨_, e, ⟨h1, h2, h3, h4, h5, h6⟩, hlast, ?_⟩
  simp [samplePost]

theorem commonCheck_stale (h : p.seq ≠ ((s.mbx p.func p.mbx).lastSeq + 1) % 65536) : commonCheck p r n s = some stStaleSeq := by
  simp [commonCheck, h]

variable (hseq : p.seq = ((s.mbx p.func p.mbx).lastSeq + 1) % 65536)
include hseq

theorem commonCheck_long (h : 504 < p.len) : commonCheck p r n s = some stBadLength := by
  simp [commonCheck, ← hseq, h]

variable (hlen : p.len ≤ 504)
include hlen

theorem commonCheck_version (h : abiAdmits s p r = false) : commonCheck p r n s = some stBadOpcode := by
  simp [commonCheck, ← hseq, hlen, h]

variable (habi : abiAdmits s p r = true)
include habi

theorem commonCheck_denied (hr : r.pf0 = true) (hp : p.func ≠ 0) : commonCheck p r n s = some stDenied := by
  simp [commonCheck, ← hseq, hlen, habi, hr, hp]

variable (hpf : r.pf0 = true → p.func = 0) (hlife : lifeCode s ≠ 4)
include hpf hlife

/-- The checks up to the function's permission pass. -/
theorem commonCheck_permitted : commonCheck p r n s =
    if !openless r && !(s.func p.func).opened then some stBadState
    else if !openless r && p.func != 0 && !partExists s (p.func - 1) then some stBadState
    else if p.len != n then some stBadLength
    else if p.rsv || (p.func != 0 && p.part != 0) then some stBadArg
    else if p.func == 0 && !partExists s p.part then some stBadArg
    else if !r.wide && (s.part (postTarget p)).st == .resetting then some stQuiesced
    else none := by
  have hperm : (r.pf0 && p.func != 0) = false := by
    rcases Bool.eq_false_or_eq_true r.pf0 with h | h <;> simp [h, hpf]
  have huse : (s.sec.entries.getLast?.map (·.target) == some 4) = false := by
    rw [beq_eq_false_iff_ne]
    intro h
    exact hlife (by rw [lifeCode, h]; rfl)
  have hlong : ¬504 < p.len := by omega
  simp only [commonCheck, ← hseq, hlong, habi, hperm, huse, bne_self_eq_false, Bool.not_true, Bool.false_and, Bool.false_eq_true, if_false]

theorem commonCheck_closed (hr : openless r = false) (ho : (s.func p.func).opened = false) : commonCheck p r n s = some stBadState := by
  simp [commonCheck_permitted hseq hlen habi hpf hlife, hr, ho]

theorem commonCheck_size (ho : openless r = true ∨ (s.func p.func).opened = true ∧ postTarget p < s.mode) (hn : p.len ≠ n) :
    commonCheck p r n s = some stBadLength := by
  rw [commonCheck_permitted hseq hlen habi hpf hlife]
  rcases ho with ho | ⟨ho, hk⟩
  · simp [ho, hn]
  · have hpart : (p.func != 0 && !partExists s (p.func - 1)) = false := by
      by_cases hf : p.func = 0
      · simp [hf]
      · simpa [partExists, postTarget, hf] using hk
    simp [ho, Bool.and_assoc, hpart, hn]

end

/-- Settles O6, check by check in the order of R369; a post that is not sampled runs nothing (log 40). -/
theorem mailboxChecks : Obligations.MailboxChecks := by
  unfold Obligations.MailboxChecks
  refine ⟨fun i p op v r s hw h hr hs hb => ?_, fun i p op v s h hs => ?_⟩
  · obtain ⟨n, hi, hn⟩ := runsAs_command h hr
    obtain rfl := hn hw hb
    refine ⟨fun hq => hi.answers hs (commonCheck_stale hq) rfl, fun hq => ⟨fun hl => ?_, fun hl ho hv ha => ?_, fun hl ha => ?_⟩⟩
    · exact hi.answers hs (commonCheck_long hq hl) rfl
    · exact hi.answers hs (commonCheck_version hq hl (by simp [abiAdmits, ho, hv, ha])) rfl
    · refine ⟨fun hp hf => hi.answers hs (commonCheck_denied hq hl ha hp hf) rfl, fun hp hlife => ⟨fun ho hc => ?_, fun ho hu => ?_⟩⟩
      · exact hi.answers hs (commonCheck_closed hq hl ha hp hlife ho hc) rfl
      · exact hi.answers hs (commonCheck_size hq hl ha hp hlife ho hu) rfl
  · obtain ⟨r, hr⟩ := rowOf_command h
    obtain ⟨n, hi, -⟩ := runsAs_command h hr
    obtain ⟨body, hbody⟩ := hi.exec
    obtain ⟨c, x, q, e⟩ := hbody s
    rw [mailbox_unsampled hs] at e
    exact ⟨_, e, fun _ _ => rfl, rfl, rfl, rfl, rfl, rfl, rfl, rfl, rfl, rfl⟩

end Sys2Proof.Machine
end

section
/-! PROOFS. The functions of the port: closed after reset, opened by FUNC.OPEN (R359, R375). -/

namespace Sys2Proof.Machine

@[simp] theorem taken_opened (p : Post) (s : State) (f : Nat) : ((taken p s).func f).opened = (s.func f).opened := by
  simp only [taken, samplePost, func_setLead, func_updMbx]

theorem chipReset_closed (s : State) (f : Nat) : ((chipReset s).func f).opened = false := rfl

/-- A Function Level Reset closes its function (R359). -/
theorem functionReset_closes (f : Nat) (s : State) : ((settled (functionReset f) s).func f).opened = false := by
  rw [State.func, settled_host]
  exact congrArg Func.opened (func_updFunc_same f _ _)

/-- Only FUNC.OPEN and FUNC.INFO have a row that a closed function accepts (R375). -/
theorem openless_eq_false {op : Nat} {r : CmdRow} (hr : rowOf op = some r) (h1 : op ≠ 0x0001) (h2 : op ≠ 0x0002) : openless r = false := by
  have hop : r.opcode = op := by simpa using List.find?_some hr
  simp [openless, hop, h1, h2]

/-- A registered context of a function that no cancel has marked. -/
theorem holdsContext_iff (p : Post) (s : State) :
    (s.ctxs.any fun c => c.func == p.func && !c.cancelled) = true ↔ ∃ c ∈ s.ctxs, c.func = p.func ∧ c.cancelled = false := by
  simp

section
variable {p : Post} {abi : Nat} {s : State} (h : Posts p rowFuncOpen 1 s)
include h

theorem funcOpen_opens (ha : abi = 1 ∨ abi = 2) (hc : (s.func p.func).opened = true → ∀ c ∈ s.ctxs, c.func = p.func → c.cancelled = true) :
    exec (.funcOpen p abi) s = .next (finish p stOk [] (updFunc p.func (fun u => { u with opened := true, abi := abi }) (taken p s))) := by
  have habi : (abi != 1 && abi != 2) = false := by rcases ha with rfl | rfl <;> rfl
  have hfree : ((s.func p.func).opened && (s.ctxs.any fun c => c.func == p.func && !c.cancelled)) = false := by
    rw [Bool.and_eq_false_imp]
    intro ho
    rw [← Bool.not_eq_true, holdsContext_iff]
    rintro ⟨c, hm, hf, hx⟩
    rw [hc ho c hm hf] at hx
    cases hx
  exact congrArg Host.Outcome.next (mailbox_finish h (by
    simp only [funcOpenBody, habi, taken_opened, taken_ctxs, hfree, Bool.false_eq_true, if_false]))

theorem funcOpen_held (ha : abi = 1 ∨ abi = 2) (ho : (s.func p.func).opened = true)
    (hc : ∃ c ∈ s.ctxs, c.func = p.func ∧ c.cancelled = false) :
    exec (.funcOpen p abi) s = .next (finish p stBadState [] (taken p s)) := by
  have habi : (abi != 1 && abi != 2) = false := by rcases ha with rfl | rfl <;> rfl
  exact congrArg Host.Outcome.next (mailbox_finish h (by
    simp only [funcOpenBody, habi, taken_opened, taken_ctxs, ho, (holdsContext_iff p s).2 hc, Bool.false_eq_true, if_false, Bool.and_true, if_true]))

theorem funcOpen_otherAbi (h1 : abi ≠ 1) (h2 : abi ≠ 2) : exec (.funcOpen p abi) s = .next (finish p stBadArg [] (taken p s)) :=
  congrArg Host.Outcome.next (mailbox_finish h (by simp [funcOpenBody, h1, h2]))

end

/-- Settles O7: check by check for a closed function, and by the part of FUNC.OPEN's own. -/
theorem functionRule : Obligations.FunctionRule := by
  unfold Obligations.FunctionRule
  refine ⟨fun s f => ⟨chipReset_closed s f, _, rfl, functionReset_closes f s⟩, fun i p op v r s h hr hs hq hl hp hlife hc h1 h2 => ?_,
    fun p s => ⟨fun abi ha h => funcOpen_opens h ha, fun abi ha h => funcOpen_held h ha,
      fun abi h1 h2 h => funcOpen_otherAbi h h1 h2, fun h => ?_⟩⟩
  · obtain ⟨n, hi, -⟩ := runsAs_command h hr
    have habi : abiAdmits s p r = true := by simp [abiAdmits, hc]
    exact hi.answers hs (commonCheck_closed hq hl habi hp hlife (openless_eq_false hr h1 h2) hc) rfl
  · exact congrArg Host.Outcome.next (mailbox_finish h rfl)

end Sys2Proof.Machine
end

section
/-! PROOFS. What a completion and the settling of contexts leave unchanged (R367, R370, R371, R384, R388). -/

namespace Sys2Proof.Machine

/-! ## Completions -/

@[simp] theorem finish_progs (p : Post) (st : Nat) (res : List Byte) (u : State) : (finish p st res u).host.progs = u.host.progs :=
  writeCompletion_progs _ _ _ _ _ _ _ u

theorem mbx_finish_other (p : Post) (st : Nat) (res : List Byte) (u : State) {f m : Nat} (h : ¬(f = p.func ∧ m = p.mbx)) :
    (finish p st res u).mbx f m = u.mbx f m := mbx_writeCompletion_other _ _ _ _ _ _ _ u f m h

@[simp] theorem start_progs (p : Post) (due : Option Nat) (res : List Byte) (c k : Nat) (j : Job) (u : State) :
    (start p due res c k j u).host.progs = u.host.progs ++ [⟨p, u.clock.beat, c, k, j⟩] := by
  simp [start, answer]

theorem mbx_start_other (p : Post) (due : Option Nat) (res : List Byte) (c k : Nat) (j : Job) (u : State) {f m : Nat}
    (h : ¬(f = p.func ∧ m = p.mbx)) : (start p due res c k j u).mbx f m = u.mbx f m :=
  mbx_writeCompletion_other p stAccepted res u.clock.beat (u.clock.beat + 1) (due.getD noDue) false u f m h

/-! ## Contexts (R384, R388) -/

/-- The handles of the registered contexts, in their order. -/
def handles (s : State) : List Nat := s.ctxs.map (·.handle)

theorem handles_updCtx (i : Nat) (f : Ctx → Ctx) (hf : ∀ c, (f c).handle = c.handle) (s : State) : handles (updCtx i f s) = handles s := by
  rw [handles, updCtx_ctxs, mapIf, List.map_map, handles]
  refine List.map_congr_left fun c _ => ?_
  simp only [Function.comp]
  split
  · exact hf c
  · rfl

/-- Entering a reside queue registers and releases no context. -/
theorem handles_enterReside (k i p n : Nat) (s : State) : handles (enterReside k i p n s) = handles s :=
  handles_updCtx i _ (by intro _; rfl) s

/-- Settling registers and releases no context. -/
theorem handles_settleContexts (s0 s : State) : handles (settleContexts s0 s) = handles s := by
  refine forAll_fixed handles (fun c t => ?_) s.ctxs s
  split
  · rfl
  · extract_lets was is t1 t2
    have h1 : handles t1 = handles t := by
      unfold t1; split
      · exact handles_updCtx _ _ (by intro _; rfl) t
      · rfl
    have h2 : handles t2 = handles t := by
      unfold t2; split
      · rw [handles_enterReside, handles_updCtx _ _ (by intro _; rfl), h1]
      · exact h1
    split
    · split
      · rw [handles_updCtx _ _ (by intro _; rfl), h2]
      · exact h2
    · exact h2

/-- Settles O9, by the frames of the two completions and of settling. -/
theorem commandFrames : Obligations.CommandFrames := by
  unfold Obligations.CommandFrames
  refine ⟨fun p u => ⟨fun st res => ?_, fun due res c k j => ?_⟩, fun f s => ?_⟩
  · have hmbx : ∀ g m, g ≠ p.func ∨ m ≠ p.mbx → (finish p st res u).mbx g m = u.mbx g m :=
      fun g m h => mbx_finish_other p st res u (not_and_or.2 h)
    simpa using hmbx
  · have hmbx : ∀ g m, g ≠ p.func ∨ m ≠ p.mbx → (start p due res c k j u).mbx g m = u.mbx g m :=
      fun g m h => mbx_start_other p due res c k j u (not_and_or.2 h)
    simpa using hmbx
  · obtain ⟨hsame, hqueues⟩ := settled_resettled f s
    refine ⟨?_, ?_, ?_, ?_, ?_, ?_, ?_, ?_, ?_, ?_, ?_, ?_, ?_, fun k => ?_, handles_settleContexts s (f s)⟩
    iterate 13 rw [hsame]
    rw [hqueues k]

end Sys2Proof.Machine
end

section
/-! PROOFS. The mailbox commands that store nothing (R371, R380): what their parts leave of T1 and T2. -/

namespace Sys2Proof.Machine

/-! ## Answers that store nothing -/

/-- The bytes of T1 and of T2. -/
def bytesOf (s : State) : Table Byte × Table Byte := (s.hbm.t1, s.hbm.t2)

theorem bytesOf_congr {s t : State} (e : t.hbm = s.hbm) : bytesOf t = bytesOf s := by rw [bytesOf, e, bytesOf]

theorem bytesOf_tended {X : InProgress → Prop} {s t : State} (h : TendedBut X s t) : bytesOf t = bytesOf s := by
  rw [bytesOf, h.t1, h.t2, bytesOf]

theorem bytesOf_told {s t : State} (h : Told s t) : bytesOf t = bytesOf s := bytesOf_congr h.hbm

theorem bytesOf_forAll {α : Type} {f : α → State → State} (hf : ∀ a s, bytesOf (f a s) = bytesOf s) (l : List α) (s : State) :
    bytesOf (forAll l f s) = bytesOf s := forAll_fixed bytesOf hf l s

/-- The state of an answer has the bytes of s. -/
def Reply.Storeless (s : State) (r : Reply) : Prop := bytesOf r.state = bytesOf s

/-- A part of a command whose every answer leaves the bytes that it finds. -/
def Storeless (body : State → Reply) : Prop := ∀ s, (body s).Storeless s

theorem Reply.Storeless.ite {s : State} {c : Prop} [Decidable c] {a b : Reply} (ha : a.Storeless s) (hb : b.Storeless s) :
    (if c then a else b).Storeless s := by
  split
  · exact ha
  · exact hb

theorem Storeless.withCtx {p : Post} {h : Nat} {k : Ctx → State → Reply} (hk : ∀ c, Storeless (k c)) : Storeless (withCtx p h k) := fun s => by
  unfold Machine.withCtx
  split
  · exact rfl
  · exact hk _ s

theorem bytesOf_completeNow (p : Post) (st : Nat) (res : List Byte) (s : State) : bytesOf (completeNow p st res s) = bytesOf s :=
  bytesOf_congr (by simp [completeNow])

/-- A command stores what its own part stores. -/
theorem bytesOf_mailbox {body : State → Reply} (hb : Storeless body) (p : Post) (r : CmdRow) (n : Nat) (s : State) :
    bytesOf (mailbox p r n body s) = bytesOf s := by
  unfold mailbox
  split
  · rfl
  · split
    · exact bytesOf_completeNow _ _ _ _
    · exact (bytesOf_congr (answer_hbm p _)).trans (hb _)

theorem bytesOf_settledCmd (f : State → State) (s : State) : bytesOf (settledCmd f s) = bytesOf (f s) := bytesOf_congr (settledCmd_hbm f s)

/-! ## Functions, contexts and counters (R375 to R398) -/

theorem funcOpenBody_storeless (p : Post) (abi : Nat) : Storeless (funcOpenBody p abi) := fun _ => .ite rfl (.ite rfl rfl)

theorem contextRegisterBody_storeless (p : Post) (prio : Nat) : Storeless (contextRegisterBody p prio) := fun _ => .ite rfl (.ite rfl rfl)

theorem runQueryBody_storeless (p : Post) (id : Nat) : Storeless (runQueryBody p id) := fun s => by
  refine .ite rfl ?_
  split
  · exact rfl
  · exact rfl

theorem syncAddBody_storeless (p : Post) (c : Nat) (set : Bool) (v : Nat) : Storeless (syncAddBody p c set v) := fun _ => .ite rfl rfl

theorem syncReadBody_storeless (p : Post) (i n : Nat) : Storeless (syncReadBody p i n) := fun _ => .ite rfl (.ite rfl rfl)

theorem syncWaitBody_storeless (p : Post) (ctx c v n : Nat) : Storeless (syncWaitBody p ctx c v n) := .withCtx fun _ _ => .ite rfl rfl

/-! ## Tiers and loads (R243 to R249, R297) -/

theorem bytesOf_updBale (h i : Nat) (f : Bale → Bale) (s : State) : bytesOf (updBale h i f s) = bytesOf s := rfl

theorem bytesOf_actRange {act : Nat → State → BaleAct} (ha : ∀ i s, bytesOf (act i s).1 = bytesOf s) (l : List Nat) (s : State) :
    bytesOf (actRange act l s).1 = bytesOf s :=
  List.foldlRecOn l _ (motive := fun a : State × List Nat × Nat => bytesOf a.1 = bytesOf s) rfl fun a ih i _ => (ha i a.1).trans ih

theorem bytesOf_actPin (ctx h i : Nat) (s : State) : bytesOf (actPin ctx h i s).1 = bytesOf s := by
  unfold actPin
  split
  · rfl
  · split
    · exact (bytesOf_tended (tended_startPromotion h i _)).trans (bytesOf_updBale h i _ s)
    all_goals rfl

theorem bytesOf_actUnpin (h i : Nat) (s : State) : bytesOf (actUnpin h i s).1 = bytesOf s := by
  unfold actUnpin
  split
  · rfl
  · split
    all_goals rfl

theorem tierCommand_storeless {act : Nat → State → BaleAct} (ha : ∀ i s, bytesOf (act i s).1 = bytesOf s) (p : Post) (ctx h i n : Nat)
    (evict : Bool) (refuse : State → Tensor → Nat → Bale → Option Nat) : Storeless (tierCommand p ctx h i n evict refuse act) := by
  refine .withCtx fun c s => ?_
  split
  · exact rfl
  · split
    · exact rfl
    · extract_lets r waits starved u w
      have hr : bytesOf r.1 = bytesOf s := (bytesOf_actRange ha _ _).trans (bytesOf_forAll (by intro _ _; rfl) _ s)
      have hu : bytesOf u = bytesOf s := (bytesOf_forAll (by intro _ _; rfl) starved r.1).trans hr
      exact .ite hu hu

theorem tierPinBody_storeless (p : Post) (ctx h i n : Nat) : Storeless (tierPinBody p ctx h i n) :=
  tierCommand_storeless (bytesOf_actPin ctx h) p ctx h i n false _

theorem tierUnpinBody_storeless (p : Post) (ctx h i n : Nat) : Storeless (tierUnpinBody p ctx h i n) :=
  tierCommand_storeless (bytesOf_actUnpin h) p ctx h i n false _

theorem tierQueryBody_storeless (p : Post) (ctx h i n : Nat) : Storeless (tierQueryBody p ctx h i n) := by
  refine .withCtx fun c s => ?_
  split
  · exact rfl
  · exact bytesOf_forAll (by intro _ _; rfl) _ s

theorem bytesOf_fillFlight (n : Nat) (l : Load) (s : State) : bytesOf (fillFlight n l s).2 = bytesOf s := by
  obtain ⟨w, i, o, e⟩ := fillFlight_same n l s
  rw [e]
  rfl

theorem weightLoadBody_storeless (p : Post) (ctx h m : Nat) (v : Bool) : Storeless (weightLoadBody p ctx h m v) := by
  refine .withCtx fun c s => ?_
  split
  · exact rfl
  · refine .ite rfl ?_
    split
    · exact rfl
    · split
      · exact rfl
      · split
        · exact rfl
        · exact .ite rfl (.ite rfl (bytesOf_fillFlight 4 _ s))

/-! ## Key-value sequences (R207, R219, R224) -/

theorem kvCreateBody_storeless (p : Post) (ctx heads format base most : Nat) : Storeless (kvCreateBody p ctx heads format base most) :=
  .withCtx fun _ _ => .ite rfl (.ite rfl (.ite rfl rfl))

theorem kvMarkBody_storeless (p : Post) (seq i n flags src : Nat) : Storeless (kvMarkBody p seq i n flags src) := fun s => by
  unfold kvMarkBody
  extract_lets k
  split
  · exact rfl
  · exact .ite rfl (bytesOf_forAll (by intro _ _; rfl) _ s)

theorem kvQueryBody_storeless (p : Post) (seq i : Nat) : Storeless (kvQueryBody p seq i) := fun s => by
  refine .ite rfl ?_
  split
  · exact rfl
  · exact rfl

/-! ## Memory and the codec (R305 to R325) -/

theorem memQueryBody_storeless (p : Post) (i n : Nat) : Storeless (memQueryBody p i n) := fun _ => .ite rfl (.ite rfl rfl)

theorem memRestoreBody_storeless : Storeless memRestoreBody := fun _ => rfl

theorem codecOpenBody_storeless (p : Post) (o : CodecParams) : Storeless (codecOpenBody p o) := by
  refine .withCtx fun c s => .ite rfl (.ite rfl (.ite rfl ?_))
  split
  · exact rfl
  · exact rfl

theorem codecDecodeBody_storeless (p : Post) (x : Nat) (last : Bool) (va n most out : Nat) :
    Storeless (codecDecodeBody p x last va n most out) := fun s => by
  unfold codecDecodeBody
  split
  · exact rfl
  · refine .ite rfl (.ite rfl (.ite rfl ?_))
    extract_lets l
    split
    · exact rfl
    · exact rfl

theorem codecEncodeBody_storeless (p : Post) (x : Nat) (last key : Bool) (va n out m : Nat) :
    Storeless (codecEncodeBody p x last key va n out m) := fun s => by
  unfold codecEncodeBody
  split
  · exact rfl
  · refine .ite rfl (.ite rfl (.ite rfl ?_))
    extract_lets l
    split
    · exact rfl
    · exact rfl

theorem codecQueryBody_storeless (p : Post) (x : Nat) : Storeless (codecQueryBody p x) := fun s => by
  refine .ite rfl ?_
  split
  · exact rfl
  · exact rfl

/-! ## The fabric and the tally (R41, R339, R350) -/

theorem fabricRouteBody_storeless (p : Post) (i n : Nat) (l : List Route) : Storeless (fabricRouteBody p i n l) :=
  fun _ => .ite rfl (.ite rfl (.ite rfl rfl))

theorem fabricCopyBody_storeless (p : Post) (ctx route dir tag va n : Nat) : Storeless (fabricCopyBody p ctx route dir tag va n) := by
  refine .withCtx fun x s => ?_
  split
  · exact rfl
  · refine .ite rfl (.ite rfl ?_)
    split
    · exact rfl
    · refine .ite rfl ?_
      show bytesOf (if dir = 0 then _ else _) = bytesOf s
      split
      · exact rfl
      · exact rfl

theorem tallyConfigBody_storeless (prio input delay offset time : Nat) : Storeless (tallyConfigBody prio input delay offset time) := fun s => by
  have helect : ∀ t : State, bytesOf (elect t) = bytesOf t := fun t => by
    obtain ⟨z, hz, -⟩ := elect_retuned t
    exact bytesOf_congr hz.hbm
  exact .ite rfl (.ite (helect _) (.ite rfl (.ite rfl rfl)))

/-! ## Partitions, the host port and power (R376, R379, R438, R440) -/

theorem partitionQueryBody_storeless (p : Post) (sect i : Nat) : Storeless (partitionQueryBody p sect i) := fun s => by
  unfold partitionQueryBody
  dsimp only
  split
  · exact .ite rfl rfl
  · exact rfl
  · exact rfl

theorem hostCopyBody_storeless (p : Post) (ctx dir sync va addr n : Nat) : Storeless (hostCopyBody p ctx dir sync va addr n) := by
  refine .withCtx fun c s => .ite rfl (.ite rfl ?_)
  split
  · exact rfl
  · exact rfl

theorem bytesOf_backInvalidate (l : Nat) (s : State) : bytesOf (backInvalidate l s) = bytesOf s := by
  unfold backInvalidate
  split
  · rfl
  · rfl

theorem bytesOf_backInvalidateIf (f : Nat → Bool) (s : State) : bytesOf (backInvalidateIf f s) = bytesOf s :=
  bytesOf_forAll (f := fun l t => backInvalidate l (updHost (fun h => { h with snoop := h.snoop.filter (· != l) }) t))
    (fun l _ => bytesOf_backInvalidate l _) _ s

theorem hostHdmBody_storeless (parts : Nat) : Storeless (hostHdmBody parts) := fun _ =>
  have hgone := bytesOf_backInvalidateIf _ _
  .ite rfl (.ite rfl (.ite hgone hgone))

theorem powerBudgetBody_storeless (limit : Nat) (l : List Nat) : Storeless (powerBudgetBody limit l) := fun s => by
  have hset : ∀ t : State, bytesOf (setBudgets l t) = bytesOf t := fun t => bytesOf_forAll (by intro _ _; rfl) (partList t) t
  exact .ite rfl (.ite rfl ((bytesOf_told (told_daybook _ _ _ _ _ _)).trans (hset _)))

/-! ## Recovery (R414 to R428) -/

theorem dumpTakeBody_storeless (p : Post) (slot set : Nat) : Storeless (dumpTakeBody p slot set) := fun _ => .ite rfl (.ite rfl (.ite rfl rfl))

theorem dumpReadBody_storeless (slot set addr o n : Nat) : Storeless (dumpReadBody slot set addr o n) := fun _ => .ite rfl (.ite rfl (.ite rfl rfl))

theorem dumpKeepBody_storeless (slot set : Nat) : Storeless (dumpKeepBody slot set) := fun _ => .ite rfl (.ite rfl rfl)

theorem dumpReleaseBody_storeless (slot set : Nat) : Storeless (dumpReleaseBody slot set) := fun s => by
  refine .ite rfl ?_
  show bytesOf (if _ then _ else _) = bytesOf s
  split
  · exact rfl
  · exact rfl

theorem recoverResetBody_storeless (level part engine : Nat) : Storeless (recoverResetBody level part engine) :=
  fun _ => .ite rfl (.ite rfl rfl)

theorem daybookReadBody_storeless (q n : Nat) : Storeless (daybookReadBody q n) := fun s => by
  refine .ite rfl ?_
  extract_lets ring
  split
  · exact rfl
  · exact rfl

/-! ## Keys and the life cycle (R458 to R465) -/

theorem keyInstallBody_storeless (slot id : Nat) (pub : List Byte) : Storeless (keyInstallBody slot id pub) :=
  fun _ => .ite rfl (.ite rfl (.ite rfl rfl))

theorem keyRevokeBody_storeless (slot id : Nat) (pub : List Byte) : Storeless (keyRevokeBody slot id pub) :=
  fun _ => .ite rfl (.ite rfl (.ite rfl rfl))

theorem lifecycleAdvanceBody_storeless (target : Nat) (auth : List Byte) : Storeless (lifecycleAdvanceBody target auth) :=
  fun _ => .ite rfl (.ite rfl (.ite rfl rfl))

/-! ## The commands of the list -/

/-- A command of the list runs a part that stores nothing, with or without the settling of contexts. -/
theorem bytesOf_exec {i : Instr} {p : Post} {r : CmdRow} {n : Nat} {body : State → Reply} {s t : State} (hb : Storeless body)
    (hi : exec i s = .next (mailbox p r n body s) ∨ exec i s = .next (settledCmd (mailbox p r n body) s)) (ht : exec i s = .next t) :
    bytesOf t = bytesOf s := by
  rcases hi with hi | hi
  · obtain rfl := Host.Outcome.next.inj (hi.symm.trans ht)
    exact bytesOf_mailbox hb p r n s
  · obtain rfl := Host.Outcome.next.inj (hi.symm.trans ht)
    exact (bytesOf_settledCmd _ s).trans (bytesOf_mailbox hb p r n s)

theorem storesNothing_storeless {i : Instr} {s t : State} (hi : storesNothing i = true) (ht : exec i s = .next t) : bytesOf t = bytesOf s := by
  cases i
  case funcOpen => exact bytesOf_exec (funcOpenBody_storeless _ _) (.inl rfl) ht
  case contextRegister => exact bytesOf_exec (contextRegisterBody_storeless _ _) (.inr rfl) ht
  case runQuery => exact bytesOf_exec (runQueryBody_storeless _ _) (.inl rfl) ht
  case syncAdd => exact bytesOf_exec (syncAddBody_storeless _ _ _ _) (.inl rfl) ht
  case syncRead => exact bytesOf_exec (syncReadBody_storeless _ _ _) (.inl rfl) ht
  case syncWait => exact bytesOf_exec (syncWaitBody_storeless _ _ _ _ _) (.inr rfl) ht
  case tierPin => exact bytesOf_exec (tierPinBody_storeless _ _ _ _ _) (.inl rfl) ht
  case tierUnpin => exact bytesOf_exec (tierUnpinBody_storeless _ _ _ _ _) (.inl rfl) ht
  case tierQuery => exact bytesOf_exec (tierQueryBody_storeless _ _ _ _ _) (.inl rfl) ht
  case weightLoad => exact bytesOf_exec (weightLoadBody_storeless _ _ _ _ _) (.inl rfl) ht
  case kvCreate => exact bytesOf_exec (kvCreateBody_storeless _ _ _ _ _ _) (.inl rfl) ht
  case kvMark => exact bytesOf_exec (kvMarkBody_storeless _ _ _ _ _ _) (.inl rfl) ht
  case kvQuery => exact bytesOf_exec (kvQueryBody_storeless _ _ _) (.inl rfl) ht
  case memQuery => exact bytesOf_exec (memQueryBody_storeless _ _ _) (.inl rfl) ht
  case memRestore => exact bytesOf_exec memRestoreBody_storeless (.inl rfl) ht
  case codecOpen => exact bytesOf_exec (codecOpenBody_storeless _ _) (.inl rfl) ht
  case codecDecode => exact bytesOf_exec (codecDecodeBody_storeless _ _ _ _ _ _ _) (.inl rfl) ht
  case codecEncode => exact bytesOf_exec (codecEncodeBody_storeless _ _ _ _ _ _ _ _) (.inl rfl) ht
  case codecQuery => exact bytesOf_exec (codecQueryBody_storeless _ _) (.inl rfl) ht
  case fabricRoute => exact bytesOf_exec (fabricRouteBody_storeless _ _ _ _) (.inl rfl) ht
  case fabricCopy => exact bytesOf_exec (fabricCopyBody_storeless _ _ _ _ _ _ _) (.inr rfl) ht
  case tallyConfig => exact bytesOf_exec (tallyConfigBody_storeless _ _ _ _ _) (.inl rfl) ht
  case partitionQuery => exact bytesOf_exec (partitionQueryBody_storeless _ _ _) (.inl rfl) ht
  case hostCopy => exact bytesOf_exec (hostCopyBody_storeless _ _ _ _ _ _ _) (.inl rfl) ht
  case hostHdm => exact bytesOf_exec (hostHdmBody_storeless _) (.inl rfl) ht
  case powerBudget => exact bytesOf_exec (powerBudgetBody_storeless _ _) (.inl rfl) ht
  case recoverDumpTake => exact bytesOf_exec (dumpTakeBody_storeless _ _ _) (.inl rfl) ht
  case recoverDumpRead => exact bytesOf_exec (dumpReadBody_storeless _ _ _ _ _) (.inl rfl) ht
  case recoverDumpKeep => exact bytesOf_exec (dumpKeepBody_storeless _ _) (.inl rfl) ht
  case recoverDumpRelease => exact bytesOf_exec (dumpReleaseBody_storeless _ _) (.inl rfl) ht
  case recoverReset => exact bytesOf_exec (recoverResetBody_storeless _ _ _) (.inl rfl) ht
  case daybookRead => exact bytesOf_exec (daybookReadBody_storeless _ _) (.inl rfl) ht
  case secKeyInstall => exact bytesOf_exec (keyInstallBody_storeless _ _ _) (.inl rfl) ht
  case secKeyRevoke => exact bytesOf_exec (keyRevokeBody_storeless _ _ _) (.inl rfl) ht
  case lifecycleAdvance => exact bytesOf_exec (lifecycleAdvanceBody_storeless _ _) (.inl rfl) ht
  case lifecycleQuery => exact bytesOf_exec (body := lifecycleQueryBody) (fun _ => rfl) (.inl rfl) ht
  case funcInfo => exact bytesOf_exec (body := funcInfoBody) (fun _ => rfl) (.inl rfl) ht
  case fabricQuery => exact bytesOf_exec (body := fabricQueryBody) (fun _ => rfl) (.inl rfl) ht
  case powerQuery p => exact bytesOf_exec (body := powerQueryBody p) (fun _ => rfl) (.inl rfl) ht
  case recoverQuery p => exact bytesOf_exec (body := recoverQueryBody p) (fun _ => rfl) (.inl rfl) ht
  case secQuery => exact bytesOf_exec (body := secQueryBody) (fun _ => rfl) (.inl rfl) ht
  all_goals cases hi

/-- Settles O10, part by part: no answer of a command of the list writes a byte of either memory. -/
theorem memoryFrame : Obligations.MemoryFrame := by
  unfold Obligations.MemoryFrame
  intro i s t hi ht a
  have h : bytesOf t = bytesOf s := storesNothing_storeless hi ht
  exact ⟨congrArg (tget 0 · a) (congrArg Prod.fst h), congrArg (tget 0 · a) (congrArg Prod.snd h)⟩

end Sys2Proof.Machine
end

section
/-! PROOFS. The HDM window: reads, writes, snoops and the exposed partitions (R356, R360, R379). -/

namespace Sys2Proof.Machine

/-! ## What a completion leaves of the host port (R367) -/

/-- A completion changes of the host port the functions' records alone. -/
theorem writeCompletion_host (p : Post) (st : Nat) (r : List Byte) (a b c : Nat) (d : Bool) (s : State) :
    ∃ fs, (writeCompletion p st r a b c d s).host = { s.host with funcs := fs } := by
  obtain ⟨f, h⟩ := writeCompletion_told p st r a b c d s
  exact ⟨(writeCompletion p st r a b c d s).host.funcs, h.host⟩

/-- The completion of a command in progress also takes it off the list. -/
theorem completeProg_host (g : InProgress) (st : Nat) (r : List Byte) (s : State) :
    ∃ fs, (completeProg g st r s).host = { s.host with progs := s.host.progs.filter (· != g), funcs := fs } :=
  writeCompletion_host _ _ _ _ _ _ _ _

theorem finish_host (p : Post) (st : Nat) (res : List Byte) (u : State) : ∃ fs, (finish p st res u).host = { u.host with funcs := fs } :=
  writeCompletion_host _ _ _ _ _ _ _ _

theorem start_host (p : Post) (due : Option Nat) (res : List Byte) (c k : Nat) (j : Job) (u : State) :
    ∃ fs l, (start p due res c k j u).host = { u.host with funcs := fs, progs := l } := by
  obtain ⟨fs, e⟩ := writeCompletion_host p stAccepted res u.clock.beat (u.clock.beat + 1) (due.getD noDue) false u
  have hadd : (start p due res c k j u).host = { (writeCompletion p stAccepted res u.clock.beat (u.clock.beat + 1) (due.getD noDue) false u).host with
      progs := (start p due res c k j u).host.progs } := rfl
  rw [e] at hadd
  exact ⟨fs, _, hadd⟩

/-! ## The snoop filter (R360) -/

/-- The state with other filtered lines, open requests and output. -/
def withLines (l b : List Nat) (o : List Output) (s : State) : State := { s with host := { s.host with snoop := l, backInv := b }, out := o }

/-- Asking for a line changes the list of open requests and the output; the line is on the list then. -/
theorem backInvalidate_same (l : Nat) (s : State) : ∃ b o, backInvalidate l s = withLines s.host.snoop b o s
    ∧ (∀ x, x ∈ s.host.backInv ∨ x = l → x ∈ b) ∧ ∀ x ∈ s.out, x ∈ o := by
  unfold backInvalidate
  split
  · rename_i h
    refine ⟨s.host.backInv, s.out, rfl, fun x hx => ?_, fun _ hx => hx⟩
    rcases hx with hx | rfl
    · exact hx
    · exact List.contains_iff_mem.1 h
  · refine ⟨s.host.backInv ++ [l], _, rfl, fun x hx => ?_, fun _ hx => List.mem_cons_of_mem _ hx⟩
    simpa using hx

/-- Entering a line changes the filter, the open requests and the output; the line is filtered then. -/
theorem filterLine_same (l : Nat) (s : State) : ∃ m b o, filterLine l s = withLines m b o s ∧ l ∈ m ∧ ∀ x ∈ s.out, x ∈ o := by
  unfold filterLine
  split
  · rename_i h
    exact ⟨s.host.snoop, s.host.backInv, s.out, rfl, List.contains_iff_mem.1 h, fun _ hx => hx⟩
  · extract_lets t
    have ht : ∃ m b o, t = withLines m b o s ∧ ∀ x ∈ s.out, x ∈ o := by
      unfold t
      split
      · split
        · rename_i old rest _
          obtain ⟨b, o, e, -, ho⟩ := backInvalidate_same old (updHost (fun h => { h with snoop := rest }) s)
          exact ⟨rest, b, o, e, ho⟩
        · exact ⟨_, _, _, rfl, fun _ hx => hx⟩
      · exact ⟨_, _, _, rfl, fun _ hx => hx⟩
    obtain ⟨m, b, o, e, ho⟩ := ht
    rw [e]
    exact ⟨m ++ [l], b, o, rfl, List.mem_append_right m (List.mem_singleton.2 rfl), ho⟩

/-- Give a filtered line up (R379). -/
def giveUpLine (l : Nat) (s : State) : State := backInvalidate l (updHost (fun h => { h with snoop := h.snoop.filter (· != l) }) s)

theorem backInvalidateIf_eq (f : Nat → Bool) (s : State) : backInvalidateIf f s = forAll (s.host.snoop.filter f) giveUpLine s := rfl

theorem giveUpLine_same (l : Nat) (s : State) : ∃ b o, giveUpLine l s = withLines (s.host.snoop.filter (· != l)) b o s
    ∧ ∀ x, x ∈ s.host.backInv ∨ x = l → x ∈ b := by
  obtain ⟨b, o, e, hb, -⟩ := backInvalidate_same l (updHost (fun h => { h with snoop := h.snoop.filter (· != l) }) s)
  exact ⟨b, o, e, hb⟩

/-- The lines given up leave the filter, and every one is asked for. -/
theorem forAll_giveUpLine_same : ∀ (l : List Nat) (s : State), ∃ b o,
    forAll l giveUpLine s = withLines (s.host.snoop.filter fun x => !l.contains x) b o s ∧ ∀ x, x ∈ s.host.backInv ∨ x ∈ l → x ∈ b
  | [], s => ⟨s.host.backInv, s.out, by simp [withLines], by simp⟩
  | a :: l, s => by
    obtain ⟨b, o, e, hb⟩ := giveUpLine_same a s
    obtain ⟨b', o', e', hb'⟩ := forAll_giveUpLine_same l (giveUpLine a s)
    rw [e] at e' hb'
    refine ⟨b', o', ?_, fun x hx => ?_⟩
    · have hfilter : (s.host.snoop.filter (· != a)).filter (fun x => !l.contains x) = s.host.snoop.filter fun x => !(a :: l).contains x := by
        rw [List.filter_filter]
        exact List.filter_congr fun x _ => Bool.eq_iff_iff.2 (by simp [and_comm])
      rw [forAll_cons, e, e', ← hfilter]
      rfl
    · rcases hx with hx | hx
      · exact hb' x (.inl (hb x (.inl hx)))
      · rcases List.mem_cons.1 hx with hx | hx
        · exact hb' x (.inl (hb x (.inr hx)))
        · exact hb' x (.inr hx)

theorem backInvalidateIf_same (f : Nat → Bool) (s : State) : ∃ b o, backInvalidateIf f s = withLines (s.host.snoop.filter fun x => !f x) b o s
    ∧ ∀ x, x ∈ s.host.backInv ∨ (x ∈ s.host.snoop ∧ f x = true) → x ∈ b := by
  obtain ⟨b, o, e, hb⟩ := forAll_giveUpLine_same (s.host.snoop.filter f) s
  have hkeep : s.host.snoop.filter (fun x => !(s.host.snoop.filter f).contains x) = s.host.snoop.filter fun x => !f x :=
    List.filter_congr fun x hx => by simp [hx]
  rw [hkeep] at e
  exact ⟨b, o, (backInvalidateIf_eq f s).trans e, fun x hx => hb x (by simpa using hx)⟩

/-! ## HOST.HDM (R379) -/

/-- No open request concerns a partition of the mask. -/
theorem linesOpen_eq_false {s : State} {mask : Nat} : linesOpen s mask = false ↔ ∀ l ∈ s.host.backInv, bit mask (partOfPa s (64 * l)) = false := by
  simp [linesOpen]

theorem linesOpen_eq_true {s : State} {mask : Nat} : linesOpen s mask = true ↔ ∃ l ∈ s.host.backInv, bit mask (partOfPa s (64 * l)) = true := by
  simp [linesOpen]

/-- Withdrawn partitions are no longer exposed, and their filtered lines are given up. -/
def withdraw (gone parts : Nat) (s : State) : State :=
  backInvalidateIf (fun l => bit gone (partOfPa s (64 * l))) (expose (s.host.hdmParts &&& parts) s)

theorem withdraw_same (gone parts : Nat) (s : State) : ∃ b o,
    withdraw gone parts s = withLines (s.host.snoop.filter fun l => !bit gone (partOfPa s (64 * l))) b o (expose (s.host.hdmParts &&& parts) s)
      ∧ ∀ l, l ∈ s.host.backInv ∨ (l ∈ s.host.snoop ∧ bit gone (partOfPa s (64 * l)) = true) → l ∈ b :=
  backInvalidateIf_same (fun l => bit gone (partOfPa s (64 * l))) (expose (s.host.hdmParts &&& parts) s)

/-- Where no filtered line goes, the exposed partitions alone change. -/
theorem withdraw_eq_expose {gone parts : Nat} {s : State} (h : ∀ l ∈ s.host.snoop, bit gone (partOfPa s (64 * l)) = false) :
    withdraw gone parts s = expose (s.host.hdmParts &&& parts) s := by
  have hnone : s.host.snoop.filter (fun l => bit gone (partOfPa s (64 * l))) = [] := List.filter_eq_nil_iff.2 fun l hl => by simp [h l hl]
  exact congrArg (forAll · giveUpLine _) hnone

/-- A filtered line that goes is asked for. -/
theorem linesOpen_withdraw {gone parts l : Nat} {s : State} (hl : l ∈ s.host.snoop) (hb : bit gone (partOfPa s (64 * l)) = true) :
    linesOpen (withdraw gone parts s) gone = true := by
  obtain ⟨b, o, e, hmem⟩ := withdraw_same gone parts s
  rw [e]
  exact linesOpen_eq_true.2 ⟨l, hmem l (.inr ⟨hl, hb⟩), hb⟩

/-- The answer of HOST.HDM in CXL mode for partitions that exist. -/
theorem hostHdmBody_eq {parts gone : Nat} {s : State} (hmode : s.host.linkMode = 0) (hparts : parts < 2 ^ s.mode)
    (hgone : gone = s.host.hdmParts &&& (15 ^^^ parts)) : hostHdmBody parts s =
      if linesOpen (withdraw gone parts s) gone then .accept none [] 0 0 (.hdm gone parts) (withdraw gone parts s)
      else .done stOk [] (expose parts (withdraw gone parts s)) := by
  subst hgone
  have h0 : (s.host.linkMode != 0) = false := bne_eq_false_iff_eq.2 hmode
  have h1 : ¬2 ^ s.mode ≤ parts := Nat.not_le.2 hparts
  simp only [hostHdmBody, h0, h1, Bool.false_eq_true, if_false]
  rfl

section
variable {p : Post} {parts gone : Nat} {s : State} (hp : Posts p rowHostHdm 1 s) (hmode : s.host.linkMode = 0) (hparts : parts < 2 ^ s.mode)
  (hgone : gone = s.host.hdmParts &&& (15 ^^^ parts))
include hp hmode hparts hgone

/-- No line goes: the command completes at once. -/
theorem exec_hostHdm_now (hfree : ∀ l, l ∈ s.host.snoop ∨ l ∈ s.host.backInv → bit gone (partOfPa s (64 * l)) = false) :
    exec (.hostHdm p parts) s = .next (finish p stOk [] (expose parts (taken p s))) := by
  have hsame : withdraw gone parts (taken p s) = expose (s.host.hdmParts &&& parts) (taken p s) :=
    withdraw_eq_expose fun l hl => hfree l (.inl hl)
  have hopen : linesOpen (expose (s.host.hdmParts &&& parts) (taken p s)) gone = false :=
    linesOpen_eq_false.2 fun l hl => hfree l (.inr hl)
  refine congrArg Host.Outcome.next (mailbox_finish hp ?_)
  rw [hostHdmBody_eq (s := taken p s) hmode hparts hgone, hsame, hopen]
  rfl

/-- A filtered line goes: the command waits for the host (R379). -/
theorem exec_hostHdm_later (hline : ∃ l ∈ s.host.snoop, bit gone (partOfPa s (64 * l)) = true) :
    exec (.hostHdm p parts) s = .next (start p none [] 0 0 (.hdm gone parts) (withdraw gone parts (taken p s))) := by
  obtain ⟨l, hl, hb⟩ := hline
  have hopen : linesOpen (withdraw gone parts (taken p s)) gone = true := linesOpen_withdraw hl hb
  refine congrArg Host.Outcome.next (mailbox_start hp ?_)
  rw [hostHdmBody_eq (s := taken p s) hmode hparts hgone, hopen, if_pos rfl]

end

/-! ## The host gives a line up (R379) -/

/-- A withdrawal in progress completes where no line of its partitions is open. -/
def finishHdm (g : InProgress) (u : State) : State :=
  match g.job with
  | .hdm gone parts => if linesOpen u gone then u else completeProg g stOk [] (expose parts u)
  | _ => u

theorem backInvalidated_eq (line : Nat) (s : State) : backInvalidated line s =
    forAll s.host.progs finishHdm (updHost (fun h => { h with backInv := h.backInv.filter (· != line) }) s) := rfl

theorem finishHdm_other {g : InProgress} (h : ∀ a b, g.job ≠ .hdm a b) (u : State) : finishHdm g u = u := by
  unfold finishHdm
  split
  · rename_i e; exact absurd e (h _ _)
  · rfl

/-- What the last response to a withdrawal leaves. -/
structure Withdrawn (g : InProgress) (parts : Nat) (l : List Nat) (u : State) : Prop where
  ended : Ended g stOk u
  exposed : u.host.hdmParts = parts
  lines : u.host.backInv = l

theorem finishHdm_withdraws {g : InProgress} {gone parts : Nat} {u : State} (hj : g.job = .hdm gone parts) (hopen : linesOpen u gone = false) :
    Withdrawn g parts u.host.backInv (finishHdm g u) ∧ (finishHdm g u).mode = u.mode := by
  have hstep : finishHdm g u = completeProg g stOk [] (expose parts u) := by simp only [finishHdm, hj, hopen, Bool.false_eq_true, if_false]
  obtain ⟨fs, e⟩ := completeProg_host g stOk [] (expose parts u)
  rw [hstep]
  refine ⟨⟨⟨by rw [completeProg, mbx_writeCompletion], by rw [completeProg, mbx_writeCompletion]; rfl, ?_⟩, by rw [e]; rfl, by rw [e]; rfl⟩,
    by simp [completeProg, expose, updHost]⟩
  rw [e]
  simp

/-- The withdrawal of a list in which no other command is one ends. -/
theorem forAll_finishHdm_withdraws {g : InProgress} {gone parts : Nat} (hj : g.job = .hdm gone parts) : ∀ {l : List InProgress} {u : State},
    (∀ x ∈ l, ∀ a b, x.job = .hdm a b → x = g) → linesOpen u gone = false → g ∈ l ∨ Withdrawn g parts u.host.backInv u →
      Withdrawn g parts u.host.backInv (forAll l finishHdm u)
  | [], _, _, _, hg => hg.resolve_left List.not_mem_nil
  | x :: l, u, hl, hopen, hg => by
    have hl' : ∀ y ∈ l, ∀ a b, y.job = .hdm a b → y = g := fun y hy => hl y (List.mem_cons_of_mem x hy)
    rw [forAll_cons]
    by_cases hx : x = g
    · subst hx
      obtain ⟨hdone, hm⟩ := finishHdm_withdraws hj hopen
      have hopen' : linesOpen (finishHdm x u) gone = false := by
        simpa only [linesOpen, hdone.lines, partOfPa, partOfStack, hm] using hopen
      have hrest := forAll_finishHdm_withdraws hj hl' hopen' (.inr (by rw [hdone.lines]; exact hdone))
      rwa [hdone.lines] at hrest
    · rw [finishHdm_other (fun a b e => hx (hl x List.mem_cons_self a b e))]
      refine forAll_finishHdm_withdraws hj hl' hopen ?_
      exact hg.imp_left fun h => (List.mem_cons.1 h).resolve_left fun e => hx e.symm

/-! ## The window (R360) -/

/-- The state in which a backed line has been sent to the host (R360). -/
def lineSent (off : Nat) (s : State) : State :=
  endRead [hdmAddr off / 64] (emit (.hdmData off (readT1s s (hdmAddr off) 64) (sectorPoisoned s (hdmAddr off / 64))) s)

theorem hdmRead_backed {off : Nat} {s : State} (hw : hdmWindow s = true) (hb : hdmBacked s off = true) (caches : Bool) :
    hdmRead off caches s = if caches then filterLine (hdmAddr off / 64) (lineSent off s) else lineSent off s := by
  simp [hdmRead, lineSent, hw, hb]

end Sys2Proof.Machine

namespace Sys2Proof
open Machine

/-- Settles O29: case by case of the window, the two answers of HOST.HDM, and the completion of a withdrawal at its last line. -/
theorem hdmWindow : Obligations.HdmWindow := by
  unfold Obligations.HdmWindow
  intro s
  refine ⟨fun off caches hw hb => ⟨_, congrArg Host.Outcome.next (hdmRead_backed hw hb caches), ?read⟩, fun off caches hw hb => ?unbacked,
    fun off d hw hb => ?write, fun off d hw hb => ?lost, fun off caches d hw => ?closed, fun line => rfl,
    fun p parts gone hp hm hparts hgone => ⟨fun hfree => ?now, fun hline => ?later⟩,
    fun line hno => ?response, fun line g gone parts hg hj hone hlast => ?last⟩
  case read =>
    cases caches with
    | false => exact ⟨List.mem_cons_self, fun h => (Bool.false_ne_true h).elim, fun _ => rfl, rfl, rfl, rfl, rfl, rfl⟩
    | true =>
      obtain ⟨m, b, o, e, hm, ho⟩ := filterLine_same (hdmAddr off / 64) (lineSent off s)
      rw [if_pos rfl, e]
      exact ⟨ho _ List.mem_cons_self, fun _ => hm, fun h => (Bool.false_ne_true h.symm).elim, rfl, rfl, rfl, rfl, rfl⟩
  case unbacked => exact congrArg Host.Outcome.next (by simp [hdmRead, hw, hb])
  case write => exact congrArg Host.Outcome.next (by simp [hdmWrite, hw, hb])
  case lost => exact congrArg Host.Outcome.next (by simp [hdmWrite, hw, hb])
  case closed =>
    exact ⟨congrArg Host.Outcome.next (by simp [hdmRead, hw]), congrArg Host.Outcome.next (by simp [hdmWrite, hw])⟩
  case now =>
    obtain ⟨fs, e⟩ := finish_host p stOk [] (expose parts (taken p s))
    exact ⟨_, exec_hostHdm_now hp hm hparts hgone hfree, finish_completed rfl, by rw [e]; rfl, by rw [e]; rfl⟩
  case later =>
    obtain ⟨b, o, hsame, hmem⟩ := withdraw_same gone parts (taken p s)
    have hexec := exec_hostHdm_later hp hm hparts hgone hline
    rw [hsame] at hexec
    obtain ⟨fs, l, e⟩ := start_host p none [] 0 0 (.hdm gone parts) (withLines ((taken p s).host.snoop.filter
      fun l => !bit gone (partOfPa (taken p s) (64 * l))) b o (expose ((taken p s).host.hdmParts &&& parts) (taken p s)))
    refine ⟨_, hexec, start_accepted rfl, by rw [e]; rfl, fun x hx => ?_⟩
    rw [e]
    split
    · rename_i hbit
      exact ⟨fun h => Bool.false_ne_true ((congrArg (!·) hbit).symm.trans (List.mem_filter.1 h).2), hmem x (.inr ⟨hx, hbit⟩)⟩
    · rename_i hbit
      exact List.mem_filter.2 ⟨hx, (Bool.not_eq_eq_eq_not).2 (Bool.eq_false_of_not_eq_true hbit)⟩
  case response =>
    refine congrArg Host.Outcome.next ?_
    rw [backInvalidated_eq]
    refine forAll_induct_mem (P := fun u => u = _) (fun x hx u hu => ?_) rfl
    rw [finishHdm_other (hno x hx), hu]
  case last =>
    have hopen : linesOpen (updHost (fun h => { h with backInv := h.backInv.filter (· != line) }) s) gone = false :=
      linesOpen_eq_false.2 fun l hl => by
        obtain ⟨hm, hne⟩ := List.mem_filter.1 hl
        rw [← Bool.not_eq_true]
        exact fun hbit => by simp [hlast l hm hbit] at hne
    obtain ⟨hended, hexp, hlines⟩ := forAll_finishHdm_withdraws hj hone hopen (.inl hg)
    refine ⟨_, congrArg Host.Outcome.next (backInvalidated_eq line s), hended, hexp, ?_⟩
    rw [hlines]
    simp [updHost]

end Sys2Proof
end

section
/-! PROOFS. What the host port keeps (R357, R359): the link, the IDE keys, the open functions, and no new command, while commands
complete, events are told, RUNs end and contexts are cancelled. -/

namespace Sys2Proof.Machine

/-- From s to t the link, the IDE keys and the functions' OPEN stay, and every command in progress has a mailbox that one of s had. -/
structure PortHeld (s t : State) : Prop where
  up : t.host.up = s.host.up
  ideKeys : t.host.ideKeys = s.host.ideKeys
  opened : ∀ f, (t.func f).opened = (s.func f).opened
  posts : ∀ x ∈ t.host.progs, ∃ y ∈ s.host.progs, y.post = x.post

namespace PortHeld

variable {s t u : State}

theorem of_host (e : t.host = s.host) : PortHeld s t :=
  ⟨by rw [e], by rw [e], fun f => by simp only [State.func, e], fun x hx => ⟨x, by rwa [e] at hx, rfl⟩⟩

theorem refl (s : State) : PortHeld s s := of_host rfl

theorem trans (h : PortHeld s t) (k : PortHeld t u) : PortHeld s u where
  up := k.up.trans h.up
  ideKeys := k.ideKeys.trans h.ideKeys
  opened := fun f => (k.opened f).trans (h.opened f)
  posts := fun x hx => by
    obtain ⟨y, hy, ey⟩ := k.posts x hx
    obtain ⟨z, hz, ez⟩ := h.posts y hy
    exact ⟨z, hz, ez.trans ey⟩

theorem each {α : Type} {f : α → State → State} (hf : ∀ a v, PortHeld v (f a v)) (l : List α) (s : State) : PortHeld s (forAll l f s) :=
  forAll_induct (P := PortHeld s) (fun a v hv => hv.trans (hf a v)) l (refl s)

end PortHeld

/-! ## Completions and events -/

/-- A change of a function's record other than its OPEN. -/
theorem portHeld_updFunc (f : Nat) (g : Func → Func) (hg : ∀ u, (g u).opened = u.opened) (s : State) : PortHeld s (updFunc f g s) where
  up := rfl
  ideKeys := rfl
  opened := fun j => by
    rw [func_updFunc]
    split
    · rename_i e; rw [hg, e]
    · rfl
  posts := fun x hx => ⟨x, hx, rfl⟩

theorem portHeld_sendVector (f v : Nat) (s : State) : PortHeld s (sendVector f v s) := by
  unfold sendVector
  split
  · exact .of_host rfl
  · exact portHeld_updFunc f _ (by intro _; rfl) s

theorem portHeld_setEvent (f b : Nat) (s : State) : PortHeld s (setEvent f b s) := by
  unfold setEvent
  split
  · exact .refl s
  · exact (portHeld_updFunc f _ (by intro _; rfl) s).trans (portHeld_sendVector f _ _)

theorem portHeld_partEvent (k b : Nat) (s : State) : PortHeld s (partEvent k b s) :=
  (portHeld_setEvent 0 b s).trans (portHeld_setEvent (k + 1) b _)

theorem portHeld_daybook (type part eng ctx : Nat) (d : List Byte) (s : State) : PortHeld s (daybook type part eng ctx d s) := by
  unfold daybook
  split
  · exact .of_host rfl
  · split
    · exact PortHeld.trans (t := updRecov _ s) (.of_host rfl) (portHeld_setEvent 0 evDaybook _)
    · exact .of_host rfl

theorem portHeld_writeCompletion (p : Post) (st : Nat) (r : List Byte) (a b c : Nat) (d : Bool) (s : State) :
    PortHeld s (writeCompletion p st r a b c d s) := by
  have hmbx : ∀ g, PortHeld s (updMbx p.func p.mbx g s) := fun g => portHeld_updFunc p.func _ (by intro _; rfl) s
  unfold writeCompletion
  dsimp only
  split
  · exact (hmbx _).trans (portHeld_sendVector p.func _ _)
  · exact hmbx _

theorem portHeld_completeProg (g : InProgress) (st : Nat) (r : List Byte) (s : State) : PortHeld s (completeProg g st r s) :=
  PortHeld.trans (t := updHost (fun h => { h with progs := h.progs.filter (· != g) }) s)
    ⟨rfl, rfl, fun _ => rfl, fun x hx => ⟨x, List.mem_of_mem_filter hx, rfl⟩⟩ (portHeld_writeCompletion _ _ _ _ _ _ _ _)

theorem portHeld_completeAll (f : InProgress → Bool) (st : Nat) (s : State) : PortHeld s (completeAll f st s) :=
  .each (fun g => portHeld_completeProg g st []) _ s

/-! ## Bales, tensors and sequences (R215, R243, R248) -/

theorem portHeld_serveFrames (k : Nat) (s : State) : PortHeld s (serveFrames k s) := .of_host (by rw [(reframed_serveFrames k s).same])

theorem portHeld_finishJob (g : InProgress) (s : State) : PortHeld s (finishJob g s) := by
  rcases finishJob_cases g s with e | ⟨st, r, e⟩
  · rw [e]; exact .refl s
  · rw [e]; exact portHeld_completeProg g st r s

theorem portHeld_settle (evict : Bool) (h i : Nat) (e : TransferEnd) (s : State) : PortHeld s (settle evict h i e s) := by
  have hjobs : PortHeld s (jobsSettled evict h i e s) := ⟨rfl, rfl, fun _ => rfl, fun x hx => by
    obtain ⟨y, hy, rfl⟩ := mem_jobsSettled hx
    exact ⟨y, hy, rfl⟩⟩
  exact hjobs.trans (.each portHeld_finishJob _ _)

theorem portHeld_dropTensor (h : Nat) (s : State) : PortHeld s (dropTensor h s) := by
  unfold dropTensor
  split
  · exact .refl s
  · extract_lets s1 s2
    have h2 : PortHeld s s2 := PortHeld.trans (t := s1) (.of_host rfl) (.each (by intro _ _; exact .of_host rfl) _ s1)
    exact h2.trans (.each (fun i u => (portHeld_settle false h i .ok u).trans (portHeld_settle true h i .ok _)) _ s2)

theorem portHeld_unmapTensor (ctx h : Nat) (s : State) : PortHeld s (unmapTensor ctx h s) := by
  unfold unmapTensor
  extract_lets s1
  have h1 : PortHeld s s1 := .of_host rfl
  split
  · split
    · exact (h1.trans (portHeld_dropTensor h s1)).trans (portHeld_serveFrames _ _)
    · exact h1
  · exact h1

theorem portHeld_destroySeq (k h : Nat) (s : State) : PortHeld s (destroySeq k h s) := .of_host (by rw [(repaged_destroySeq k h s).same])

/-! ## Codec sessions (R324) -/

theorem host_zeroVa (ctx va n : Nat) (s : State) : (zeroVa ctx va n s).host = s.host := by
  refine forAll_fixed (fun u : State => u.host) (fun a t => ?_) _ s
  extract_lets lo hi
  split
  · unfold clearT1
    split
    · rfl
    · obtain ⟨m, p, e, -⟩ := writeT1_same _ (zeros (hi - lo)) t
      rw [e]
  · rfl

theorem host_kickPipe (p : Nat) (s : State) : (kickPipe p s).host = s.host := by
  unfold kickPipe
  extract_lets q
  split
  · rfl
  · split
    · rfl
    · rfl

theorem portHeld_endCodecCmd (h st : Nat) (res : List Byte) (s : State) : PortHeld s (endCodecCmd h st res s) := by
  unfold endCodecCmd
  split
  · exact .refl s
  · extract_lets t
    have ht : PortHeld s t := .of_host rfl
    split
    · exact ht.trans (portHeld_completeProg _ _ _ t)
    · exact ht

theorem portHeld_removeSession (h : Nat) (s : State) : PortHeld s (removeSession h s) := by
  unfold removeSession
  split
  · exact .refl s
  · extract_lets t u
    have ht : t.host = s.host := host_zeroVa _ _ _ s
    have hu : PortHeld s u := by
      unfold u
      split
      · exact .of_host ht
      · exact .of_host ht
    split
    · exact hu.trans (portHeld_completeProg _ _ _ u)
    · exact hu

theorem portHeld_abortSession (st h : Nat) (s : State) : PortHeld s (abortSession st h s) := by
  unfold abortSession
  split
  · exact .refl s
  · extract_lets t
    have ht : PortHeld s t := by
      unfold t
      split
      · exact portHeld_endCodecCmd _ _ _ s
      · exact .refl s
    exact (ht.trans (portHeld_removeSession h t)).trans (.of_host (host_kickPipe _ _))

/-! ## RUNs and contexts (R389, R393, R408) -/

theorem portHeld_completeRun (k : Nat) (r : Run) (st c w i : Nat) (s : State) : PortHeld s (completeRun k r st c w i s) := by
  unfold completeRun
  split
  · exact portHeld_completeProg _ _ _ s
  · exact .refl s

/-- The end of a RUN changes of the host port what its completion changes. -/
theorem host_endRun {k : Nat} {s : State} {r : Run} (hr : (s.part k).run = some r) (st c w i : Nat) :
    (endRun k st c w i s).host = (completeRun k r st c w i s).host := by
  obtain ⟨-, -, hcleared⟩ := cleared_finishes k (completeRun k r st c w i s)
  obtain ⟨-, -, hpages⟩ := settlePages_finishes k ((nextRunOf k (cleared k (completeRun k r st c w i s))).part k)
    (nextRunOf k (cleared k (completeRun k r st c w i s)))
  rw [endRun_eq hr, settleChanges, updPart_host, hpages, nextRunOf, updPart_host, hcleared]

theorem portHeld_endRun (k st c w i : Nat) (s : State) : PortHeld s (endRun k st c w i s) := by
  cases hr : (s.part k).run with
  | none => rw [endRun, hr]; exact .refl s
  | some r => exact (portHeld_completeRun k r st c w i s).trans (.of_host (host_endRun hr st c w i))

theorem portHeld_endWaiting (k st c : Nat) (s : State) : PortHeld s (endWaiting k st c s) := by
  unfold endWaiting
  split
  · exact .refl s
  · exact (portHeld_completeRun k _ st c 0 0 s).trans (.of_host rfl)

theorem portHeld_quiesce (k : Nat) (retry : Bool) (s : State) : PortHeld s (quiesce k retry s) := by
  unfold quiesce
  split
  · exact .of_host rfl
  · extract_lets s1 s2 s3
    have h3 : s3.host = s.host := (host_forAll_updGate (fun g : Nat => g) _ _ s2).trans (host_forAll_updPen (fun p : Nat => p) _ _ s)
    exact PortHeld.trans (t := dropReqs k _ (syncDrovers k s3)) (.of_host ((syncDrovers_host k s3).trans h3)) (portHeld_partEvent k _ _)

theorem portHeld_endCtxRuns (k h st : Nat) (s : State) : PortHeld s (endCtxRuns k h st s) := by
  unfold endCtxRuns
  extract_lets s1
  have h1 : PortHeld s s1 := by
    unfold s1
    split
    · split
      · exact portHeld_endWaiting k st 0 s
      · exact .refl s
    · exact .refl s
  split
  · split
    · refine h1.trans (PortHeld.trans ?_ (portHeld_endRun k st 0 0 0 _))
      split
      · exact portHeld_quiesce k false s1
      · exact .refl s1
    · exact h1
  · exact h1

theorem portHeld_releaseResources (h st : Nat) (s : State) : PortHeld s (releaseResources h st s) :=
  (PortHeld.each (fun x : Session => portHeld_abortSession st x.handle) _ s).trans <|
    (PortHeld.each (fun t : Tensor => portHeld_unmapTensor h t.handle) _ _).trans <|
    (PortHeld.each (fun q : KvSeq => portHeld_destroySeq q.part q.handle) _ _).trans (.each (by intro _ _; exact .of_host rfl) _ _)

theorem portHeld_dropLoads (h : Nat) (s : State) : PortHeld s (dropLoads h s) := .each (by intro _ _; exact .of_host rfl) _ s

theorem portHeld_cancelContext (h : Nat) (s : State) : PortHeld s (cancelContext h s) := by
  unfold cancelContext
  split
  · exact .refl s
  · extract_lets s1 s2 s3 s4 s5 s6
    have h2 : PortHeld s s2 := (portHeld_endCtxRuns _ h stCancelled s).trans
      (.each (fun x : Session => portHeld_abortSession stCancelled x.handle) _ s1)
    have h3 : PortHeld s s3 := (h2.trans (portHeld_completeAll _ stCancelled s2)).trans (portHeld_dropLoads h _)
    have hhost : s6.host = s3.host := by
      unfold s6 s5 s4
      rw [updRecov_host, updCtx_host, updFabric_host]
    have h6 : PortHeld s s6 := h3.trans (.of_host hhost)
    split
    · exact h6
    · exact h6.trans (portHeld_releaseResources h stCancelled s6)

/-! ## Function resets (R359) -/

/-- Abandoning the commands of a function holds the port, and none of them is in progress afterwards. -/
theorem portHeld_abandonProgs (f : Nat) (s : State) : PortHeld s (abandonProgs f s) ∧ ∀ g ∈ (abandonProgs f s).host.progs, g.post.func ≠ f := by
  unfold abandonProgs
  extract_lets mine t
  have ht : PortHeld s t ∧ ∀ g ∈ t.host.progs, g.post.func ≠ f :=
    ⟨⟨rfl, rfl, fun _ => rfl, fun x hx => ⟨x, List.mem_of_mem_filter hx, rfl⟩⟩, fun g hg => by simpa using (List.mem_filter.1 hg).2⟩
  refine forAll_induct (P := fun u => PortHeld s u ∧ ∀ g ∈ u.host.progs, g.post.func ≠ f) (fun g u hu => ?_) mine ht
  obtain ⟨hheld, hfree⟩ := hu
  split
  · exact ⟨hheld.trans ⟨rfl, rfl, fun _ => rfl, fun x hx => ⟨x, hx, rfl⟩⟩, hfree⟩
  · exact ⟨hheld.trans (.of_host rfl), hfree⟩
  · exact ⟨hheld, hfree⟩

/-- The state in which a function reset closes the function: its commands are abandoned and its contexts cancelled. -/
def functionCleared (f : Nat) (s : State) : State :=
  forAll ((abandonProgs f s).ctxs.filter fun c => c.func == f && !c.cancelled) (fun c => cancelContext c.handle) (abandonProgs f s)

theorem functionReset_eq (f : Nat) (s : State) : functionReset f s = updFunc f (fun _ => Func.reset) (functionCleared f s) := rfl

theorem functionCleared_held (f : Nat) (s : State) : PortHeld s (functionCleared f s) ∧ ∀ g ∈ (functionCleared f s).host.progs, g.post.func ≠ f := by
  obtain ⟨hheld, hfree⟩ := portHeld_abandonProgs f s
  have hcancel : PortHeld (abandonProgs f s) (functionCleared f s) := .each (fun c : Ctx => portHeld_cancelContext c.handle) _ _
  refine ⟨hheld.trans hcancel, fun g hg => ?_⟩
  obtain ⟨y, hy, e⟩ := hcancel.posts g hg
  rw [← e]
  exact hfree y hy

/-- What a reset of function f leaves of the port. -/
theorem functionReset_port (f : Nat) (s : State) : (functionReset f s).host.up = s.host.up ∧ (functionReset f s).host.ideKeys = s.host.ideKeys
    ∧ (functionReset f s).func f = Func.reset ∧ (∀ g ∈ (functionReset f s).host.progs, g.post.func ≠ f)
    ∧ ∀ j, (s.func j).opened = false → ((functionReset f s).func j).opened = false := by
  obtain ⟨hheld, hfree⟩ := functionCleared_held f s
  rw [functionReset_eq]
  refine ⟨hheld.up, hheld.ideKeys, func_updFunc_same _ _ _, hfree, fun j hj => ?_⟩
  rw [func_updFunc]
  split
  · rfl
  · rw [hheld.opened, hj]

/-- A Hot Reset closes every function before the link goes down. -/
theorem forAll_functionReset_closed {f : Nat} (hf : f < 5) (s : State) : ((forAll (List.range 5) functionReset s).func f).opened = false := by
  obtain ⟨l1, l2, -, -, e⟩ := forAll_split (f := functionReset) List.nodup_range (List.mem_range.2 hf) s
  rw [e]
  refine forAll_induct (P := fun u : State => (u.func f).opened = false) (fun j u hu => ?_) l2 ?_
  · obtain ⟨-, -, -, -, hclosed⟩ := functionReset_port j u
    exact hclosed f hu
  · obtain ⟨-, -, hreset, -, -⟩ := functionReset_port f (forAll l1 functionReset s)
    rw [hreset]
    rfl

end Sys2Proof.Machine
end

section
/-! PROOFS. The link goes down (R357, R358, R359): the transfers that cross it fail, and then every copy ends. -/

namespace Sys2Proof.Machine

/-! ## The command of a copy waits -/

/-- g is the first command in progress of copy c, and alone in its mailbox. -/
structure Awaited (c : HostCopy) (g : InProgress) (s : State) : Prop where
  found : findProg s (fun x => x.job == copyJob c) = some g
  alone : ∀ x ∈ s.host.progs, SameMailbox x g → x = g

theorem Awaited.of_progs {c : HostCopy} {g : InProgress} {s t : State} (h : Awaited c g s) (e : t.host.progs = s.host.progs) : Awaited c g t where
  found := by rw [findProg, e]; exact h.found
  alone := fun x hx => h.alone x (by rwa [e] at hx)

theorem Sole.awaited {c : HostCopy} {g : InProgress} {s : State} (hg : Sole g s) (hf : findProg s (fun x => x.job == copyJob c) = some g) :
    Awaited c g s := by
  obtain ⟨-, halone⟩ := hg
  exact ⟨hf, fun x hx ⟨hfunc, hmbx⟩ => halone x hx hfunc hmbx⟩

/-- No copy has this work. -/
def NoCopy (j : Job) : Prop := ∀ c, copyJob c ≠ j

/-- From s to t the port holds, no context is cancelled, and the commands of copies wait on but for those whose work is in J. -/
structure CopiesWait (J : Job → Prop) (s t : State) : Prop where
  port : PortHeld s t
  marks : ∀ h, cancelMark t h = cancelMark s h
  awaited : ∀ c g, ¬J (copyJob c) → Awaited c g s → Awaited c g t

namespace CopiesWait

variable {J : Job → Prop} {s t u : State}

theorem of_progs (hp : PortHeld s t) (hm : ∀ h, cancelMark t h = cancelMark s h) (e : t.host.progs = s.host.progs) : CopiesWait J s t :=
  ⟨hp, hm, fun _ _ _ h => h.of_progs e⟩

theorem of_host (e : t.host = s.host) (hc : t.ctxs = s.ctxs) : CopiesWait J s t :=
  of_progs (.of_host e) (cancelMark_congr hc) (by rw [e])

theorem refl (J : Job → Prop) (s : State) : CopiesWait J s s := of_host rfl rfl

theorem trans (h : CopiesWait J s t) (k : CopiesWait J t u) : CopiesWait J s u :=
  ⟨h.port.trans k.port, fun i => (k.marks i).trans (h.marks i), fun c g hc ha => k.awaited c g hc (h.awaited c g hc ha)⟩

theorem each {α : Type} {f : α → State → State} (hf : ∀ a v, CopiesWait J v (f a v)) (l : List α) (s : State) :
    CopiesWait J s (forAll l f s) :=
  forAll_induct (P := CopiesWait J s) (fun a v hv => hv.trans (hf a v)) l (refl J s)

theorem told (h : Told s t) (hp : PortHeld s t) : CopiesWait J s t := of_progs hp (cancelMark_congr h.ctxs) h.progs

end CopiesWait

/-- A completion leaves the commands of other work waiting. -/
theorem copiesWait_completeProg {J : Job → Prop} {x : InProgress} (hx : J x.job) (st : Nat) (r : List Byte) (s : State) :
    CopiesWait J s (completeProg x st r s) where
  port := portHeld_completeProg x st r s
  marks := cancelMark_congr (completeProg_ctxs x st r s)
  awaited := fun c g hc ⟨hfound, halone⟩ => by
    have hother : ∀ y : InProgress, (y.job == copyJob c) = true → (y != x) = true := fun y hy => by
      rw [bne_iff_ne]
      rintro rfl
      rw [beq_iff_eq] at hy
      exact hc (hy ▸ hx)
    have hkeep : ∀ l : List InProgress, (l.filter (· != x)).find? (fun y => y.job == copyJob c) = l.find? fun y => y.job == copyJob c := fun l => by
      rw [List.find?_filter]
      congr 1
      funext y
      cases hy : y.job == copyJob c with
      | false => simp
      | true => simp [hother y hy]
    refine ⟨?_, fun y hy => halone y ?_⟩
    · rw [findProg, completeProg_progs, hkeep]
      exact hfound
    · rw [completeProg_progs] at hy
      exact List.mem_of_mem_filter hy

/-! ## Transfers that fail (R244, R248, R357) -/

theorem noCopy_of_kind {j : Job} (h1 : ∀ id, j ≠ .hostCopy id) (h2 : ∀ id slot, j ≠ .dumpRead id slot) : NoCopy j := fun c => by
  unfold copyJob
  split
  · exact (h2 _ _).symm
  · exact (h1 _).symm

theorem copiesWait_finishJob (g : InProgress) (s : State) : CopiesWait NoCopy s (finishJob g s) := by
  unfold finishJob
  split
  · rename_i e
    exact copiesWait_completeProg (noCopy_of_kind (by simp [e]) (by simp [e])) _ _ s
  · exact .refl _ s

/-- Settling changes the work of no copy's command. -/
theorem settleJob_copyJob (evict : Bool) (h i : Nat) (e : TransferEnd) (j : Job) (c : HostCopy) :
    (settleJob evict h i e j == copyJob c) = (j == copyJob c) := by
  unfold settleJob
  split
  · split
    · rw [beq_eq_false_iff_ne.2 (noCopy_of_kind (by simp) (by simp) c).symm, beq_eq_false_iff_ne.2 (noCopy_of_kind (by simp) (by simp) c).symm]
    · rfl
  · rfl

theorem settleJob_of_copyJob {j : Job} {c : HostCopy} (hj : j = copyJob c) (evict : Bool) (h i : Nat) (e : TransferEnd) :
    settleJob evict h i e j = j := by
  unfold settleJob
  split
  · exact absurd hj.symm (noCopy_of_kind (by simp) (by simp) c)
  · rfl

/-- A command in progress that knows the end of a transfer. -/
def toldEnd (evict : Bool) (h i : Nat) (e : TransferEnd) (g : InProgress) : InProgress := { g with job := settleJob evict h i e g.job }

theorem jobsSettled_progs (evict : Bool) (h i : Nat) (e : TransferEnd) (s : State) :
    (jobsSettled evict h i e s).host.progs = s.host.progs.map (toldEnd evict h i e) := rfl

theorem copiesWait_jobsSettled (evict : Bool) (h i : Nat) (e : TransferEnd) (s : State) : CopiesWait NoCopy s (jobsSettled evict h i e s) where
  port := ⟨rfl, rfl, fun _ => rfl, fun x hx => by
    obtain ⟨y, hy, rfl⟩ := mem_jobsSettled hx
    exact ⟨y, hy, rfl⟩⟩
  marks := cancelMark_congr rfl
  awaited := fun c g _ ⟨hfound, halone⟩ => by
    obtain ⟨-, hjob⟩ := mem_of_findProg hfound
    have hg : toldEnd evict h i e g = g := by rw [toldEnd, settleJob_of_copyJob (beq_iff_eq.1 hjob)]
    have hsame : (fun x : InProgress => x.job == copyJob c) ∘ toldEnd evict h i e = fun x => x.job == copyJob c :=
      funext fun x => settleJob_copyJob evict h i e x.job c
    refine ⟨?_, fun x hx hm => ?_⟩
    · rw [findProg] at hfound
      rw [findProg, jobsSettled_progs, List.find?_map, hsame, hfound, Option.map_some, hg]
    · obtain ⟨y, hy, rfl⟩ := mem_jobsSettled hx
      rw [halone y hy hm]
      exact hg

/-- What the failure of a transfer leaves: the copies and their commands, every RUN, and every byte of T1. -/
structure TransferLost (s t : State) : Prop where
  wait : CopiesWait NoCopy s t
  copies : t.host.copies = s.host.copies
  upkeep : Upkeep s t
  t1 : t.hbm.t1 = s.hbm.t1

namespace TransferLost

variable {s t u : State}

theorem trans (h : TransferLost s t) (k : TransferLost t u) : TransferLost s u :=
  ⟨h.wait.trans k.wait, k.copies.trans h.copies, h.upkeep.trans k.upkeep, k.t1.trans h.t1⟩

theorem refl (s : State) : TransferLost s s := ⟨.refl _ s, rfl, .refl s, rfl⟩

theorem each {α : Type} {f : α → State → State} (hf : ∀ a v, TransferLost v (f a v)) (l : List α) (s : State) : TransferLost s (forAll l f s) :=
  forAll_induct (P := TransferLost s) (fun a v hv => hv.trans (hf a v)) l (refl s)

theorem told (h : Told s t) (hp : PortHeld s t) : TransferLost s t := ⟨.told h hp, h.copies, h.upkeep, by rw [h.hbm]⟩

end TransferLost

theorem lost_completeProg {g : InProgress} (hg : NoCopy g.job) (st : Nat) (r : List Byte) (s : State) : TransferLost s (completeProg g st r s) :=
  ⟨copiesWait_completeProg hg st r s, completeProg_copies g st r s, upkeep_completeProg g st r s, (tended_completeProg g st r s).t1⟩

theorem lost_updBale (h i : Nat) (f : Bale → Bale) (s : State) : TransferLost s (updBale h i f s) :=
  ⟨.of_host rfl rfl, rfl, upkeep_updBale h i f s, rfl⟩

theorem lost_unmarkFrame (f : Nat) (s : State) : TransferLost s (unmarkFrame f s) :=
  ⟨.of_host rfl rfl, rfl, upkeep_updHbm _ s, rfl⟩

theorem lost_serveFrames (k : Nat) (s : State) : TransferLost s (serveFrames k s) := by
  have hhost : (serveFrames k s).host = s.host := by rw [(reframed_serveFrames k s).same]
  exact ⟨.of_host hhost (serveFrames_ctxs k s), by rw [hhost], upkeep_serveFrames k s, (tended_serveFrames k s).t1⟩

theorem lost_settle (evict : Bool) (h i : Nat) (e : TransferEnd) (s : State) : TransferLost s (settle evict h i e s) :=
  ⟨(copiesWait_jobsSettled evict h i e s).trans (.each copiesWait_finishJob _ _), settle_copies evict h i e s, upkeep_settle evict h i e s,
    (tended_settle evict h i e s).t1⟩

theorem lost_lowerTierRecord (k tier h i request : Nat) (s : State) : TransferLost s (lowerTierRecord k tier h i request s) :=
  .told (told_lowerTierRecord k tier h i request s) (portHeld_daybook _ _ _ _ _ s)

theorem lost_dropTensor (h : Nat) (s : State) : TransferLost s (dropTensor h s) := by
  unfold dropTensor
  split
  · exact .refl s
  · extract_lets s1 s2
    have h1 : TransferLost s s1 := ⟨.of_host rfl rfl, rfl, upkeep_updPlace _ s, rfl⟩
    have h2 : TransferLost s s2 := h1.trans (.each lost_unmarkFrame _ s1)
    exact h2.trans (.each (fun i u => (lost_settle false h i .ok u).trans (lost_settle true h i .ok _)) _ s2)

theorem lost_failAllocs (k : Nat) (s : State) : TransferLost s (failAllocs k s) := by
  refine .each (fun g u => ?_) _ s
  split
  · rename_i e
    split
    · exact (lost_completeProg (noCopy_of_kind (by simp [e]) (by simp [e])) _ _ u).trans (lost_dropTensor _ _)
    · exact .refl u
  · exact .refl u

theorem lost_failWaiting (k : Nat) (e : TransferEnd) (s : State) : TransferLost s (failWaiting k e s) :=
  .each (fun (b : Nat × Nat) u => (lost_updBale b.1 b.2 _ u).trans (lost_settle false b.1 b.2 e _)) _ s

theorem lost_makeResident (k h : Nat) (s : State) : TransferLost s (makeResident k h s) := by
  unfold makeResident
  extract_lets t
  have ht : TransferLost s t := ⟨.of_progs (.of_host rfl) (cancelMark_updCtx h _ (by intro _; exact ⟨rfl, rfl⟩) s) rfl, rfl,
    (upkeep_updCtx h _ s).trans (upkeep_updPart k _ _ (by intro _; rfl)), rfl⟩
  refine ht.trans (forAll_induct_mem (P := TransferLost t) (fun g hg u hu => ?_) (.refl t))
  have hjob : g.job = .reside h := by simpa using (List.mem_filter.1 hg).2
  exact hu.trans (lost_completeProg (noCopy_of_kind (by simp [hjob]) (by simp [hjob])) _ _ u)

theorem lost_finishSwaps (k : Nat) (s : State) : TransferLost s (finishSwaps k s) := by
  refine .each (fun e u => ?_) _ s
  split
  · exact .refl u
  · extract_lets v
    have hv : TransferLost u v := ⟨.of_progs (.of_host rfl) (cancelMark_updCtx e.1 _ (by intro _; exact ⟨rfl, rfl⟩) u) rfl, rfl,
      (upkeep_updCtx e.1 _ u).trans (upkeep_updPart k _ _ (by intro _; rfl)), rfl⟩
    split
    · split
      · exact hv.trans (lost_makeResident k _ v)
      · exact hv
    · exact hv

theorem lost_promotionFail (h i : Nat) (s : State) : TransferLost s (promotionFail h i s) := by
  unfold promotionFail
  split
  · extract_lets s1 s2
    have h1 : TransferLost s s1 := lost_updBale h i _ s
    have h2 : TransferLost s s2 := by
      unfold s2
      split
      · exact h1.trans (lost_unmarkFrame _ s1)
      · exact h1
    exact ((h2.trans (lost_settle false h i .failed s2)).trans (lost_lowerTierRecord _ 2 h i 0 _)).trans (lost_serveFrames _ _)
  · exact .refl s

theorem lost_writeBackFail (h i : Nat) (s : State) : TransferLost s (writeBackFail h i s) := by
  unfold writeBackFail
  split
  · extract_lets s1 s2 s3
    have h2 : TransferLost s s2 :=
      ((lost_updBale h i _ s).trans (lost_settle true h i .failed s1)).trans (lost_lowerTierRecord _ 2 h i 1 _)
    have h3 : TransferLost s s3 := by
      unfold s3
      split
      · exact h2.trans (lost_settle false h i .ok s2)
      · exact h2
    exact (((h3.trans (lost_serveFrames _ s3)).trans (lost_failAllocs _ _)).trans (lost_failWaiting _ .failed _)).trans (lost_finishSwaps _ _)
  · exact .refl s

theorem lost_transferFail (h i : Nat) (s : State) : TransferLost s (transferFail h i s) := by
  unfold transferFail
  split
  · exact lost_writeBackFail h i s
  · exact lost_promotionFail h i s

end Sys2Proof.Machine
end

section
/-! PROOFS. Copies end with the link, and the events of the host link (R355 to R361, R473). -/

namespace Sys2Proof.Machine

/-! ## The end of a copy that the link has cut (R358) -/

theorem portHeld_endSearch (e : Nat) (s : State) : PortHeld s (endSearch e s) := by
  unfold endSearch
  split
  · exact .refl s
  · split
    · extract_lets t
      have ht : PortHeld s t := .of_host rfl
      split
      · exact ht
      · exact ht.trans (portHeld_daybook _ _ _ _ _ t)
    · exact .refl s

theorem portHeld_clearSuspect (e ctx : Nat) (s : State) : PortHeld s (clearSuspect e ctx s) :=
  PortHeld.trans (t := updStep e _ s) (.of_host rfl) (portHeld_endSearch e _)

/-- What the end of copy c without OK leaves: the other copies and their commands, what has been completed, every partition and both memories. -/
structure CopyLost (c : HostCopy) (s t : State) : Prop where
  wait : CopiesWait (· = copyJob c) s t
  copies : ∀ x ∈ t.host.copies, ∃ y ∈ s.host.copies, y.id = x.id
  hbm : t.hbm = s.hbm
  parts : ∀ k, t.part k = s.part k
  vacated : ∀ g st, Vacated g st s → Vacated g st t

namespace CopyLost

variable {c : HostCopy} {s t u : State}

theorem refl (c : HostCopy) (s : State) : CopyLost c s s := ⟨.refl _ s, fun x hx => ⟨x, hx, rfl⟩, rfl, fun _ => rfl, fun _ _ hv => hv⟩

theorem trans (h : CopyLost c s t) (k : CopyLost c t u) : CopyLost c s u where
  wait := h.wait.trans k.wait
  copies := fun x hx => by
    obtain ⟨y, hy, ey⟩ := k.copies x hx
    obtain ⟨z, hz, ez⟩ := h.copies y hy
    exact ⟨z, hz, ez.trans ey⟩
  hbm := k.hbm.trans h.hbm
  parts := fun i => (k.parts i).trans (h.parts i)
  vacated := fun g st hv => k.vacated g st (h.vacated g st hv)

theorem told (h : Told s t) (hp : PortHeld s t) : CopyLost c s t :=
  ⟨.told h hp, fun x hx => ⟨x, by rwa [h.copies] at hx, rfl⟩, h.hbm, h.part,
    fun _ _ hv => hv.of_mbx (fun x hx => by rwa [h.progs] at hx) (h.mbx _ _)⟩

end CopyLost

/-- A change of the copies and of the shepherd's records. -/
theorem copyLost_records {c : HostCopy} {l : List HostCopy} {v : Recovery} {s : State} (hl : ∀ x ∈ l, ∃ y ∈ s.host.copies, y.id = x.id) :
    CopyLost c s { s with host := { s.host with copies := l }, recov := v } :=
  ⟨.of_progs ⟨rfl, rfl, fun _ => rfl, fun x hx => ⟨x, hx, rfl⟩⟩ (cancelMark_congr rfl) rfl, hl, rfl, fun _ => rfl,
    fun _ _ hv => hv.of_mbx (fun _ hx => hx) rfl⟩

theorem copyLost_clearSuspect {c : HostCopy} (e ctx : Nat) (s : State) : CopyLost c s (clearSuspect e ctx s) := by
  obtain ⟨v, h⟩ := clearSuspect_told e ctx s
  have hv : CopyLost c s { s with recov := v } := copyLost_records (l := s.host.copies) fun x hx => ⟨x, hx, rfl⟩
  have hp := portHeld_clearSuspect e ctx s
  exact hv.trans (.told h ⟨hp.up, hp.ideKeys, hp.opened, hp.posts⟩)

theorem copyLost_completeProg {c : HostCopy} {x : InProgress} {s : State} (hx : x ∈ s.host.progs) (hj : x.job = copyJob c) (st : Nat)
    (r : List Byte) : CopyLost c s (completeProg x st r s) where
  wait := copiesWait_completeProg hj st r s
  copies := fun y hy => ⟨y, by rwa [completeProg_copies] at hy, rfl⟩
  hbm := by
    obtain ⟨o, v, e⟩ := completeProg_same x st r s
    rw [e]
  parts := fun k => by
    obtain ⟨o, v, e⟩ := completeProg_same x st r s
    rw [e]
    rfl
  vacated := fun g st' hv => (tended_completeProg x st r s).vacated g st' (hv.left x hx) hv

theorem copyLost_withoutCopy {c : HostCopy} {st : Nat} (hst : st ≠ stOk) (s : State) : CopyLost c s (withoutCopy c st s) := by
  unfold withoutCopy
  extract_lets s1 s2 s3
  have hsub : ∀ x ∈ s.host.copies.filter (fun x => x.id != c.id), ∃ y ∈ s.host.copies, y.id = x.id :=
    fun x hx => ⟨x, List.mem_of_mem_filter hx, rfl⟩
  have h2 : CopyLost c s s2 := by
    unfold s2
    split
    · exact copyLost_records hsub
    · exact copyLost_records hsub
  have h3 : s3 = s2 := by simp [s3, hst]
  rw [h3]
  split
  · exact h2.trans (.told (told_daybook _ _ _ _ _ s2) (portHeld_daybook _ _ _ _ _ s2))
  · exact h2

theorem withoutCopy_progs (c : HostCopy) (st : Nat) (s : State) : (withoutCopy c st s).host.progs = s.host.progs := by
  obtain ⟨u, hu, -, -, hprogs, -⟩ := withoutCopy_told c st s
  rw [hu.progs, hprogs]

/-- The end of a copy without OK. -/
theorem copyLost_endCopy {c : HostCopy} {st : Nat} (hst : st ≠ stOk) (done : Nat) (s : State) : CopyLost c s (endCopy c done st s) := by
  have hw := copyLost_withoutCopy (c := c) hst s
  rw [endCopy_eq]
  refine hw.trans (CopyLost.trans ?_ (copyLost_clearSuspect _ _ _))
  split
  · rename_i g hg
    obtain ⟨hmem, hjob⟩ := mem_of_findProg hg
    exact copyLost_completeProg hmem (beq_iff_eq.1 hjob) _ _
  · exact .refl c _

/-- The end of a copy vacates the mailbox of its waiting command. -/
theorem endCopy_vacates {c : HostCopy} {g : InProgress} {s : State} (hg : Awaited c g s) (st done : Nat) :
    Vacated g st (endCopy c done st s) := by
  obtain ⟨hfound, halone⟩ := hg.of_progs (withoutCopy_progs c st s)
  rw [endCopy_eq]
  simp only [hfound]
  exact (copyLost_clearSuspect (c := c) _ _ _).vacated g st (vacated_completeProg rfl halone st _)

/-! ## Every copy of the link ends -/

/-- Copy c when the link goes down. -/
def cutCopy (c : HostCopy) : State → State := copySectors c [] true

theorem copyLost_setDone {c : HostCopy} (id n : Nat) (s : State) : CopyLost c s (setDone id n s) := by
  refine copyLost_records (v := s.recov) fun x hx => ?_
  obtain ⟨y, hy, rfl⟩ := List.mem_map.1 hx
  refine ⟨y, hy, ?_⟩
  split
  · rfl
  · rfl

/-- A cut copy ends with CANCELLED or LOWER_TIER_FAIL. -/
theorem cutCopy_ends (c : HostCopy) (s : State) : ∃ st u, st ≠ stOk ∧ CopyLost c s u ∧ cutCopy c s = endCopy c c.done st u := by
  cases hc : ctxCancelled s c.ctx with
  | true => exact ⟨stCancelled, s, by decide, .refl c s, by simp [cutCopy, copySectors, hc]⟩
  | false => exact ⟨stLowerTierFail, _, by decide, copyLost_setDone c.id c.done s, copySectors_failed hc⟩

theorem copyLost_cutCopy (c : HostCopy) (s : State) : CopyLost c s (cutCopy c s) := by
  obtain ⟨st, u, hst, hu, e⟩ := cutCopy_ends c s
  rw [e]
  exact hu.trans (copyLost_endCopy hst c.done u)

theorem cutCopy_gone (c : HostCopy) (s : State) : ∀ x ∈ (cutCopy c s).host.copies, x.id ≠ c.id := by
  obtain ⟨st, u, -, -, e⟩ := cutCopy_ends c s
  have hgone := (endCopy_ended c st u c.done).gone
  rw [findCopy, List.find?_eq_none] at hgone
  rw [e]
  exact fun x hx hid => hgone x hx (beq_iff_eq.2 hid)

theorem cutCopy_vacates {c : HostCopy} {g : InProgress} {s : State} (hg : Awaited c g s) (hc : ctxCancelled s c.ctx = false) :
    Vacated g stLowerTierFail (cutCopy c s) := by
  rw [cutCopy, copySectors_failed hc]
  exact endCopy_vacates (hg.of_progs (t := setDone c.id c.done s) rfl) stLowerTierFail c.done

/-- Copies of different numbers have different work. -/
theorem copyJob_ne {c d : HostCopy} (h : c.id ≠ d.id) : copyJob c ≠ copyJob d := by
  unfold copyJob
  split
  · split
    · exact fun e => h (by injection e)
    · exact nofun
  · split
    · exact nofun
    · exact fun e => h (by injection e)

theorem ctxCancelled_congr {s t : State} (h : ∀ i, cancelMark t i = cancelMark s i) (i : Nat) : ctxCancelled t i = ctxCancelled s i :=
  congrArg (·.getD false) (h i)

/-- Cutting every copy leaves none. -/
theorem forAll_cutCopy_copies : ∀ (l : List HostCopy) (s : State), (∀ x ∈ s.host.copies, ∃ c ∈ l, c.id = x.id) →
    (forAll l cutCopy s).host.copies = []
  | [], s, h => List.eq_nil_iff_forall_not_mem.2 fun x hx => by simpa using h x hx
  | c :: l, s, h => by
    refine forAll_cutCopy_copies l (cutCopy c s) fun x hx => ?_
    obtain ⟨y, hy, ey⟩ := (copyLost_cutCopy c s).copies x hx
    obtain ⟨d, hd, ed⟩ := h y hy
    rcases List.mem_cons.1 hd with rfl | hd
    · exact absurd (ed.trans ey).symm (cutCopy_gone d s x hx)
    · exact ⟨d, hd, ed.trans ey⟩

theorem forAll_cutCopy_holds (l : List HostCopy) (s : State) : PortHeld s (forAll l cutCopy s) ∧ (forAll l cutCopy s).hbm = s.hbm
    ∧ ∀ k, (forAll l cutCopy s).part k = s.part k := by
  refine forAll_induct (P := fun u : State => PortHeld s u ∧ u.hbm = s.hbm ∧ ∀ k, u.part k = s.part k) (fun c u hu => ?_) l
    ⟨.refl s, rfl, fun _ => rfl⟩
  obtain ⟨hport, hhbm, hpart⟩ := hu
  have h := copyLost_cutCopy c u
  exact ⟨hport.trans h.wait.port, h.hbm.trans hhbm, fun k => (h.parts k).trans (hpart k)⟩

/-- The ends of copies leave a vacated mailbox. -/
theorem forAll_cutCopy_vacated {g : InProgress} {st : Nat} {s : State} (hv : Vacated g st s) (l : List HostCopy) :
    Vacated g st (forAll l cutCopy s) :=
  forAll_induct (P := Vacated g st) (fun d u hu => (copyLost_cutCopy d u).vacated g st hu) l hv

/-- A command that waits for one of the copies gets LOWER_TIER_FAIL (R358). -/
theorem forAll_cutCopy_vacates {c : HostCopy} {g : InProgress} {l : List HostCopy} (hd : (l.map (·.id)).Nodup) (hc : c ∈ l) {s : State}
    (hx : ctxCancelled s c.ctx = false) (hg : Awaited c g s) : Vacated g stLowerTierFail (forAll l cutCopy s) := by
  induction l generalizing s with
  | nil => cases hc
  | cons d l ih =>
    rw [List.map_cons, List.nodup_cons] at hd
    obtain ⟨hnew, hd⟩ := hd
    rw [forAll_cons]
    rcases List.mem_cons.1 hc with rfl | hc
    · exact forAll_cutCopy_vacated (cutCopy_vacates hg hx) l
    · have hne : copyJob c ≠ copyJob d := copyJob_ne fun e => hnew (List.mem_map.2 ⟨c, hc, e⟩)
      have hwait := (copyLost_cutCopy d s).wait
      exact ih hd hc ((ctxCancelled_congr hwait.marks c.ctx).trans hx) (hwait.awaited c g hne hg)

/-! ## The link goes down -/

/-- The port without its link and its IDE keys (R357, R458). -/
def linkCut (s : State) : State := updHost (fun h => { h with up := false, ideKeys := false }) s

/-- The transfers that cross the link have failed. -/
def transfersCut (s : State) : State := forAll (linkBales (linkCut s)) (fun b => transferFail b.1 b.2) (linkCut s)

theorem linkDown_eq (s : State) : linkDown s = forAll (transfersCut s).host.copies cutCopy (transfersCut s) := rfl

theorem transfersCut_lost (s : State) : TransferLost (linkCut s) (transfersCut s) :=
  .each (fun (b : Nat × Nat) u => lost_transferFail b.1 b.2 u) _ _

theorem linkDown_held (s : State) : PortHeld (linkCut s) (linkDown s) := by
  obtain ⟨hport, -, -⟩ := forAll_cutCopy_holds (transfersCut s).host.copies (transfersCut s)
  exact (transfersCut_lost s).wait.port.trans hport

theorem linkDown_copies (s : State) : (linkDown s).host.copies = [] := forAll_cutCopy_copies _ _ fun x hx => ⟨x, hx, rfl⟩

theorem linkDown_t1 (s : State) : (linkDown s).hbm.t1 = s.hbm.t1 := by
  obtain ⟨-, hhbm, -⟩ := forAll_cutCopy_holds (transfersCut s).host.copies (transfersCut s)
  rw [linkDown_eq, hhbm]
  exact (transfersCut_lost s).t1

/-- The RUNs go on (R358). -/
theorem linkDown_runs (s : State) (k : Nat) : ((linkDown s).part k).run = (s.part k).run ∧ ((linkDown s).part k).st = (s.part k).st := by
  obtain ⟨-, -, hpart⟩ := forAll_cutCopy_holds (transfersCut s).host.copies (transfersCut s)
  have h := (transfersCut_lost s).upkeep
  rw [linkDown_eq, hpart]
  exact ⟨h.run k, h.st k⟩

theorem linkDown_ends {c : HostCopy} {g : InProgress} {s : State} (hd : (s.host.copies.map (·.id)).Nodup) (hc : c ∈ s.host.copies)
    (hx : ctxCancelled s c.ctx = false) (hg : Sole g s) (hf : findProg s (fun x => x.job == copyJob c) = some g) :
    Ended g stLowerTierFail (linkDown s) := by
  have h := transfersCut_lost s
  have hcopies : (transfersCut s).host.copies = s.host.copies := h.copies
  have hg' : Awaited c g (transfersCut s) := h.wait.awaited c g (fun hno => hno c rfl) ((hg.awaited hf).of_progs (t := linkCut s) rfl)
  have hx' : ctxCancelled (transfersCut s) c.ctx = false := (ctxCancelled_congr h.wait.marks c.ctx).trans hx
  rw [linkDown_eq]
  exact (forAll_cutCopy_vacates (by rw [hcopies]; exact hd) (by rw [hcopies]; exact hc) hx' hg').ended

/-! ## The events of the link -/

@[simp] theorem settled_func (f : State → State) (s : State) (j : Nat) : (settled f s).func j = (f s).func j := by
  rw [State.func, settled_host, ← State.func]

/-- PERST_N holds the port, and changes nothing else of it. -/
def withPerst (s : State) : State := updHost (fun h => { h with perst := true }) s

theorem withPerst_perst (s : State) : (withPerst s).host.perst = true := rfl
theorem withPerst_up (s : State) : (withPerst s).host.up = s.host.up := rfl
theorem withPerst_func (s : State) (f : Nat) : (withPerst s).func f = s.func f := rfl

theorem exec_perstAssert (s : State) : exec .perstAssert s = .next (withPerst (settled hotReset s)) := rfl

theorem hotReset_eq (s : State) : hotReset s = linkDown (forAll (List.range 5) functionReset s) := rfl

/-- A Hot Reset closes the functions and cuts the link (R359). -/
theorem hotReset_port (s : State) : (hotReset s).host.up = false ∧ (hotReset s).host.ideKeys = false
    ∧ ∀ f, f < 5 → ((hotReset s).func f).opened = false := by
  have hclosed := fun f (hf : f < 5) => forAll_functionReset_closed hf s
  rw [hotReset_eq]
  generalize forAll (List.range 5) functionReset s = u at hclosed ⊢
  have h := linkDown_held u
  exact ⟨h.up, h.ideKeys, fun f hf => (h.opened f).trans (hclosed f hf)⟩

/-- Settles O30, event by event: a link that falls fails its transfers first and then its copies, and leaves the RUNs. -/
theorem linkEvents : Obligations.LinkEvents := by
  unfold Obligations.LinkEvents
  intro s
  refine ⟨fun mode width hm hmode hw => ?trained, fun mode width hm hmode hw => ?narrow, fun hd hp hb => ?retry, fun hup => ?down,
    fun f => ?flr, ?hot, ?perst, rfl, fun kind body hup hk hide => ?doe, fun body hup hs he => ?ide, fun kind body hup => ?silent⟩
  case trained =>
    refine (event_of (by simp [hm, hmode])).trans (congrArg Host.Outcome.next ?_)
    simp [linkTrained, Nat.not_lt.2 hw]
  case narrow =>
    refine (event_of (by simp [hm, hmode])).trans (congrArg Host.Outcome.next ?_)
    simp [linkTrained, hw]
  case retry => exact event_of (by simp [detectDue, hd, hp, hb])
  case down =>
    have h := linkDown_held s
    refine ⟨_, event_of hup, ?_, ?_, ?_, ?_, fun k => ?_, fun hd c g hc hx hg hf => (linkDown_ends hd hc hx hg hf).settled⟩
    · rw [settled_host]; exact h.up
    · rw [settled_host]; exact h.ideKeys
    · rw [settled_host]; exact linkDown_copies s
    · rw [settled_hbm]; exact linkDown_t1 s
    · rw [settled_run, settled_st]; exact linkDown_runs s k
  case flr =>
    obtain ⟨-, -, hreset, hfree, -⟩ := functionReset_port f s
    exact ⟨_, rfl, by rw [settled_func, hreset], by rw [settled_host]; exact hfree⟩
  case hot =>
    obtain ⟨hup, hide, hclosed⟩ := hotReset_port s
    exact ⟨_, rfl, by rw [settled_host, hup], by rw [settled_host, hide], fun f hf => by rw [settled_func, hclosed f hf]⟩
  case perst =>
    obtain ⟨hup, -, hclosed⟩ := hotReset_port s
    exact ⟨_, exec_perstAssert s, withPerst_perst _, by rw [withPerst_up, settled_host, hup],
      fun f hf => by rw [withPerst_func, settled_func, hclosed f hf]⟩
  case doe =>
    have hplain : (kind == .ideKm && decide (0 < s.sec.spdmDoe) && s.sec.entropyOk) = false := by
      by_cases hkm : kind = .ideKm
      · simp [hide hkm]
      · simp [hkm]
    have hother : (!s.host.up || kind == .other) = false := by simp [hup, hk]
    refine congrArg Host.Outcome.next ?_
    simp only [doeRequest, hother, hplain, Bool.false_eq_true, if_false]
  case ide =>
    have hkeys : (DoeKind.ideKm == .ideKm && decide (0 < s.sec.spdmDoe) && s.sec.entropyOk) = true := by simp [hs, he]
    have hother : (!s.host.up || DoeKind.ideKm == .other) = false := by simp [hup]
    refine congrArg Host.Outcome.next ?_
    simp only [doeRequest, hother, hkeys, Bool.false_eq_true, if_false, if_true]
    rfl
  case silent => exact congrArg Host.Outcome.next (by simp [doeRequest, hup])

end Sys2Proof.Machine
end
